-- ==== Sys2Proof/Word.lean ====
section
/-!
DEFINITION. Word.lean: the byte, and the sparse table that every large array of the device is kept in.
-/
namespace Sys2Proof

/-- One byte, the smallest addressable unit (R9). -/
abbrev Byte := BitVec 8

/-- A sparse array: pairs of an index and a value, indices strictly rising, no value equal to the value an unlisted
index holds. -/
abbrev Tab (α : Type) := List (Nat × α)

end Sys2Proof
end

