-- ==== Sys2Proof/Syntax.lean ====
section
/-!
DEFINITION. Syntax.lean: the commands of the block and the operands that come with them.
-/
namespace Sys2Proof

/-- Who makes a register access: a PCIe function (0 = physical, 1 to 63 = virtual) or the management bus (R559). -/
inductive Acr where
  | fn (n : Nat)
  | mb
  deriving DecidableEq, Repr

/-- What an engine brings at the end of a block row (Chapter 18), from the bitstream and its decoding or encoding, which the model leaves to the
engine: encode: the bytes that the row adds to the bitstream; both: bytes written to the picture buffer by offset; decode: offsets and
lengths written as poison, blocks concealed, first damaged block, error classes, codec cycles, buffers used as references, status 0, 0xAC or
0xAE, whether this is the last row; after the last row: pictures output with their order counts, buffers still in use as references. -/
structure RowEvent where
  bits : List Byte
  writes : List (Nat × List Byte)
  poison : List (Nat × Nat)
  conc : Nat
  firstErr : Option Nat
  classes : Nat
  cycles : Nat
  used : List Nat
  status : Nat
  last : Bool
  outputs : List (Nat × Nat)
  refs : List Nat
  deriving DecidableEq, Repr

/-- A memory package that training found: site, capacity code of Table 13-7, two ranks, highest data rate code that it trains at (R317, R318). -/
structure SiteTrain where
  site : Nat
  cap : Nat
  ranks : Bool
  rate : Nat
  deriving DecidableEq, Repr

/-- The NAND packages that training found (R338 to R340): LUNs per channel, channel rate code of Table 14-7, bits per cell of the dense mode,
guaranteed valid capacity in dense 4 KiB blocks, spare and total erase blocks of the dense and the SLC mode, rated erase cycles of dense
blocks. -/
structure NandTrain where
  lpc : Nat
  rate : Nat
  cell : Nat
  raw : Nat
  spareDense : Nat
  spareSlc : Nat
  capDense : Nat
  capSlc : Nat
  rating : Nat
  deriving DecidableEq, Repr

/-- What the board brings to the end of a power phase: the packages of phase 5, the tier of phase 6 (none: refused or missing, R338),
and the pairs of reference clock inputs, numbered from 0, whose clock is absent (R405). -/
structure PhaseWork where
  sites : List SiteTrain
  nand : Option NandTrain
  noRef : List Nat
  deriving DecidableEq, Repr

/-- The commands of the block: one constructor per row of the table of operations and events. -/
inductive Instr where
  /-- COMMAND_FETCH (R95): The anchor fetches the next command of a bound queue once every span shuttle has a free window slot and fewer than 16 commands are in flight, and places it in the span's windows. -/
  | commandFetch (q : Nat) (bytes : List Byte)
  /-- NOP (R99): A NOP issues, passes its checks and completes with no work. -/
  | nop (q : Nat)
  /-- MMA (R100): An MMA issues once its waits are satisfied, is checked, has its tiles chosen, and is handed to the shuttles of its span as a matrix product with an optional seam. -/
  | mma (q : Nat)
  /-- CHAIN (R138): A CHAIN issues and runs two chained products with middle stages, keeping the hidden tensor in the local buffer. -/
  | chain (q : Nat)
  /-- ATTN (R182): An ATTN issues and runs fused masked attention, with a running maximum, sum and output per query row. -/
  | attn (q : Nat)
  /-- ATTN_RING_STEP (R194): Once the arrival wait for the next block is satisfied, a ring ATTN forwards the block, computes and merges the partial of that step, and acknowledges the previous device. -/
  | attnRingStep (q : Nat) (seq : Nat)
  /-- CONV (R250): A CONV with OP 0 issues and runs a convolution on the array from staged input with its selvedge. -/
  | conv (q : Nat)
  /-- MAXPOOL (R258): A CONV with OP 1 computes window maxima on the vector engine. -/
  | maxpool (q : Nat)
  /-- AVGPOOL (R258): A CONV with OP 2 computes window averages on the vector engine. -/
  | avgpool (q : Nat)
  /-- UPNEAREST (R258): A CONV with OP 3 upsamples by nearest neighbour. -/
  | upnearest (q : Nat)
  /-- UPLINEAR (R259): A CONV with OP 4 upsamples linearly with half-pixel centres. -/
  | uplinear (q : Nat)
  /-- STAGE (R154): A VOP with VOPC 0x00 applies one stage record to a dense tensor. -/
  | stage (q : Nat)
  /-- ADD (R151): A VOP with VOPC 0x01 writes rne(x + y) elementwise. -/
  | add (q : Nat)
  /-- SUB (R151): A VOP with VOPC 0x02 writes rne(x - y) elementwise. -/
  | sub (q : Nat)
  /-- MUL (R151): A VOP with VOPC 0x03 writes rne(x × y) elementwise. -/
  | mul (q : Nat)
  /-- FMA (R151): A VOP with VOPC 0x04 writes fma(x, y, z) elementwise. -/
  | fma (q : Nat)
  /-- MAX (R151): A VOP with VOPC 0x05 writes the elementwise maximum. -/
  | max (q : Nat)
  /-- MIN (R151): A VOP with VOPC 0x06 writes the elementwise minimum. -/
  | min (q : Nat)
  /-- ABS (R151): A VOP with VOPC 0x07 clears the sign of each element. -/
  | abs (q : Nat)
  /-- NEG (R151): A VOP with VOPC 0x08 inverts the sign of each element. -/
  | neg (q : Nat)
  /-- CMP (R151): A VOP with VOPC 0x09 writes 1 or 0 by the predicate in SUB. -/
  | cmp (q : Nat)
  /-- SELECT (R151): A VOP with VOPC 0x0A writes x where z is nonzero or NaN, else y. -/
  | select (q : Nat)
  /-- CONVERT (R151): A VOP with VOPC 0x0B converts x to the output format. -/
  | convert (q : Nat)
  /-- FUNC (R160): A VOP with VOPC 0x0C applies a built-in special function to each element. -/
  | func (q : Nat)
  /-- IADD (R151): A VOP with VOPC 0x10 adds integers with saturation. -/
  | iadd (q : Nat)
  /-- ISUB (R151): A VOP with VOPC 0x11 subtracts integers with saturation. -/
  | isub (q : Nat)
  /-- IMUL (R151): A VOP with VOPC 0x12 multiplies integers with saturation. -/
  | imul (q : Nat)
  /-- IAND (R151): A VOP with VOPC 0x13 writes the bitwise AND. -/
  | iand (q : Nat)
  /-- IOR (R151): A VOP with VOPC 0x14 writes the bitwise OR. -/
  | ior (q : Nat)
  /-- IXOR (R151): A VOP with VOPC 0x15 writes the bitwise XOR. -/
  | ixor (q : Nat)
  /-- ISHL (R151): A VOP with VOPC 0x16 shifts integers left with saturation. -/
  | ishl (q : Nat)
  /-- ISHR (R151): A VOP with VOPC 0x17 shifts integers right arithmetically. -/
  | ishr (q : Nat)
  /-- RSUM (R153): A VOP with VOPC 0x20 sums along dimension 0 in ascending chunks. -/
  | rsum (q : Nat)
  /-- RMAX (R153): A VOP with VOPC 0x21 reduces by maximum along dimension 0. -/
  | rmax (q : Nat)
  /-- RMIN (R153): A VOP with VOPC 0x22 reduces by minimum along dimension 0. -/
  | rmin (q : Nat)
  /-- ARGMAX (R153): A VOP with VOPC 0x23 writes the lowest index of the maximum. -/
  | argmax (q : Nat)
  /-- ARGMIN (R153): A VOP with VOPC 0x24 writes the lowest index of the minimum. -/
  | argmin (q : Nat)
  /-- ISCAN (R153): A VOP with VOPC 0x25 writes an inclusive prefix sum along dimension 0. -/
  | iscan (q : Nat)
  /-- SFP_RUN (R169): An SFP with MODE 0 applies a microprogram to each element of x. -/
  | sfpRun (q : Nat)
  /-- SFP_LOAD (R170): An SFP with MODE 1 checks a store image and requests its install in every cluster of the span. -/
  | sfpLoad (q : Nat)
  /-- IMAGE_INSTALL (R171): Once program parts in the cluster have finished, the shuttle installs the image and changes IMAGEID with the last byte. -/
  | imageInstall (cluster : Nat)
  /-- MOVE (R262): A MOVE copies and converts a tensor, as a translated copy on span cluster 0 when ranges intersect. -/
  | move (q : Nat)
  /-- GATHER (R266): A GATHER copies indexed source rows into destination rows. -/
  | gather (q : Nat)
  /-- SCATTER (R267): A SCATTER combines source rows into indexed destination rows in ascending index order. -/
  | scatter (q : Nat)
  /-- CROPRS (R261): A CROPRS samples boxes from images by nearest or bilinear sampling. -/
  | croprs (q : Nat)
  /-- RNGFILL (R272): An RNGFILL fills a tensor from Philox-4x32-10 under the selected distribution. -/
  | rngfill (q : Nat)
  /-- SAMPLE (R284): A SAMPLE draws one token per row from scaled logits with top-k, top-p or greedy selection and advances the slot stream. -/
  | sample (q : Nat)
  /-- KVFORK (R219): A KVFORK has the agent share a source slot's frames with an empty destination slot up to FLEN. -/
  | kvfork (q : Nat)
  /-- KVFREE_TRUNCATE (R220): A KVFREE with MODE 0 has the agent truncate a slot to NEWLEN and release its frames and spill units. -/
  | kvfreeTruncate (q : Nat)
  /-- KVFREE_EVICT (R221): A KVFREE with MODE 1 has the agent evict private entries of a range to spill units, one entry at a time. -/
  | kvfreeEvict (q : Nat)
  /-- KVPREFETCH (R222): A KVPREFETCH has the agent fetch every flash-resident entry of a range into DRAM. -/
  | kvprefetch (q : Nat)
  /-- WAIT (R302): A WAIT issues when its token and arrival waits are satisfied and completes at issue. -/
  | wait (q : Nat)
  /-- SIGNAL (R301): A SIGNAL waits at its scope for earlier commands and then applies its token entries in order. -/
  | signal (q : Nat)
  /-- FENCE (R303): A FENCE orders later commands after the writes of earlier commands at cluster, device or system scope. -/
  | fence (q : Nat)
  /-- MARK (R535): A MARK generates one MARK trace event and completes. -/
  | mark (q : Nat)
  /-- DUMP (R536): A DUMP arms a trigger slot of the context, or with COUNT 0 frees every slot. -/
  | dump (q : Nat)
  /-- ZSEND (R421): A ZSEND sends a source range to a remote device as posted writes through one port. -/
  | zsend (q : Nat)
  /-- FLREAD (R343): An FLREAD copies a tensor from a flash region's sampled version into a memory site. -/
  | flread (q : Nat)
  /-- FLWRITE_SPILL (R348): An FLWRITE with OP 0 replaces blocks of a spill region and completes when they are durable. -/
  | flwriteSpill (q : Nat)
  /-- FLWRITE_BEGIN (R345): An FLWRITE with OP 1 opens an update of a dense region, superseding a pending one when SUPERSEDE is 1. -/
  | flwriteBegin (q : Nat)
  /-- FLWRITE_DATA (R345): An FLWRITE with OP 2 writes a range into the pending update. -/
  | flwriteData (q : Nat)
  /-- FLWRITE_COMMIT (R345): An FLWRITE with OP 3 waits for durability of the update and switches COMMITTED in one step. -/
  | flwriteCommit (q : Nat)
  /-- FLWRITE_ABANDON (R345): An FLWRITE with OP 4 discards the pending update. -/
  | flwriteAbandon (q : Nat)
  /-- PART_START (R375): When a unit becomes free, the shuttle starts the chosen ready part and takes its credits. -/
  | partStart (cluster : Nat) (unit : Nat)
  /-- MERGE_SLOT_GRANT (R111): The owner of a split-reduction tile grants its merge slot to the next part, receives the part tile and merges it. -/
  | mergeSlotGrant (cluster : Nat)
  /-- PART_COMPLETE (R118): A shuttle's part finishes writing its outputs, returns its credits and reports its outcome to the anchor. -/
  | partComplete (cluster : Nat) (q : Nat) (seq : Nat)
  /-- COMMAND_COMPLETE (R118): When every part has reported, the anchor ORs the flush bit, signals on success, writes the record and frees its tracking entry. -/
  | commandComplete (q : Nat) (seq : Nat)
  /-- COMPLETION_RECORD_WRITE (R399): Once the completion ring has room, the anchor writes the waiting record and advances CQTAIL. -/
  | completionRecordWrite (q : Nat)
  /-- CONTEXT_TEARDOWN (R383): A fault sets the context FAULTED, stops its parts and engine operations, writes the records and raises the fault interrupt. -/
  | contextTeardown (ctx : Nat)
  /-- WATCHDOG_CHECK (R312): Each millisecond the device checks open watched waits and faults a context whose wait has been open for LIMIT ms. -/
  | watchdogCheck
  /-- SHT_TOK (R298): A write to SHT_TOK sets a token counter as one indivisible update. -/
  | shtTok (acr : Acr) (n : Nat) (v : Nat)
  /-- SHT_TOKADD (R299): A write to SHT_TOKADD adds its value to a token counter as one indivisible update. -/
  | shtTokadd (acr : Acr) (n : Nat) (v : Nat)
  /-- ZLK_ARR (R309): A write to ZLK_ARR sets an arrival counter, later additions adding to it. -/
  | zlkArr (acr : Acr) (n : Nat) (v : Nat)
  /-- REGISTER_WRITE (R555): A register write without its own behaviour stores RW fields, clears W1C bits, latches or applies two-slot halves, or is refused with ACCERR. -/
  | registerWrite (acr : Acr) (set : Nat) (cfg : Bool) (addr : Nat) (size : Nat) (v : Nat)
  /-- CONTEXT_CREATE (R372): SHT_CTXCMD with OP 1 checks the descriptor window and makes the context ACTIVE. -/
  | contextCreate (acr : Acr) (set : Nat) (v : Nat)
  /-- CONTEXT_DESTROY (R373): SHT_CTXCMD with OP 2 resets a context with no bound queue and ends it FREE. -/
  | contextDestroy (acr : Acr) (set : Nat) (v : Nat)
  /-- CONTEXT_RESET (R373): SHT_CTXCMD with OP 3 moves a context to RESETTING and aborts its fetched commands with status 0x0F. -/
  | contextReset (acr : Acr) (set : Nat) (v : Nat)
  /-- CONTEXT_RESET_END (R401): When the reset context's parts have stopped, it returns to ACTIVE or FREE and its queues skip to the sampled tail. -/
  | contextResetEnd (ctx : Nat)
  /-- QUEUE_DISABLE (R121): SHT_CTXCMD with OP 4 disables a queue; unissued commands complete with status 0x0E in ring order. -/
  | queueDisable (acr : Acr) (set : Nat) (v : Nat) (host : List (List Byte))
  /-- QUEUE_CREATE (R396): PCI_QCMD with OP 1 checks the queue descriptor window and enables the lowest FREE queue. -/
  | queueCreate (acr : Acr) (set : Nat) (v : Nat)
  /-- QUEUE_DESTROY (R396): PCI_QCMD with OP 2 frees a DISABLED queue that owes no records. -/
  | queueDestroy (acr : Acr) (set : Nat) (v : Nat)
  /-- PCI_SQDB (R398): A submission doorbell write sets SQTAIL, or is discarded and sets QERR. -/
  | pciSqdb (fn : Nat) (q : Nat) (v : Nat)
  /-- PCI_CQDB (R399): A completion doorbell write advances CQHEAD, or is discarded and sets QERR. -/
  | pciCqdb (fn : Nat) (q : Nat) (v : Nat)
  /-- QFETCH_FAILURE (R400): A command read that errors, times out after 50 ms or arrives poisoned gets a record with status 0x95 and tears down the context. -/
  | qfetchFailure (q : Nat)
  /-- APERTURE_READ (R393): A BAR2 read reads device memory or is refused with Unsupported Request. -/
  | apertureRead (fn : Nat) (addr : Nat) (len : Nat)
  /-- APERTURE_WRITE (R393): A BAR2 write writes device memory, marks poison for a poisoned TLP, or is discarded with ACCERR. -/
  | apertureWrite (fn : Nat) (addr : Nat) (bytes : List Byte) (poisoned : Bool)
  /-- INTERRUPT_MODERATION_TIMER (R402): MODTIME after the first unsignalled record, the queue or stream sends its MSI-X vector. -/
  | interruptModerationTimer (isStream : Bool) (n : Nat)
  /-- PCIE_LANE_FAIL (R391): A failed PCIe lane makes the device retrain at a narrower width, replaying unacknowledged TLPs. -/
  | pcieLaneFail (lane : Nat) (width : Nat)
  /-- FUNCTION_LEVEL_RESET (R384): A virtual function reset or SR-IOV disable disables its queues and streams and destroys its contexts once issued work completes. -/
  | functionLevelReset (fn : Nat) (rings : List (Nat × List (List Byte)))
  /-- PARTITION_RESET (R474): HBM_RSTCTL with LEVEL 1 resets one partition to the state of Table 19-14. -/
  | partitionReset (acr : Acr) (v : Nat)
  /-- DEVICE_RESET (R474): HBM_RSTCTL with LEVEL 2, PERST_N or a hot reset runs phases 7 to 3 down and up again with rails kept on. -/
  | deviceReset (src : Option (Acr × Nat))
  /-- KVT_INIT (R209): A write of INIT to KVT_CTRL has the agent check the pool record and write its tables and free list. -/
  | kvtInit (acr : Acr) (p : Nat) (v : Nat)
  /-- AGENT_MAP (R215): The agent maps a slot's page-table entry for an append, allocating, fetching or copying on write. -/
  | agentMap (p : Nat) (slot : Int) (pos : Nat)
  /-- KV_COMMIT (R216): The agent raises LENGTH of every slot in a committing KVSTORE token map. -/
  | kvCommit (q : Nat) (seq : Nat)
  /-- KV_FETCH (R222): The agent brings one flash-resident entry into a free frame and frees its spill unit. -/
  | kvFetch (p : Nat)
  /-- KV_EVICT_ENTRY (R221): When the flash write of an evicted frame commits, the agent marks the entry flash-resident and frees the frame. -/
  | kvEvictEntry (p : Nat)
  /-- AGENT_TAKEOVER (R208): When the agent's cluster is retired, the next cluster reads the journal and completes the pending operation. -/
  | agentTakeover (p : Nat)
  /-- SITE_READ (R323): A site controller reads a word, decodes it and returns clean, corrected or poisoned data with any write-back. -/
  | siteRead (w : Nat)
  /-- SITE_WRITE (R325): A whole-burst write stores a clean word with new check bytes. -/
  | siteWrite (w : Nat) (bytes : List Byte)
  /-- SITE_PARTIAL_WRITE (R325): A masked write reads, merges and writes the word as one step by the class of the old word. -/
  | sitePartialWrite (w : Nat) (mask : Nat) (bytes : List Byte)
  /-- POISON_WRITE (R326): A writer marks a region's bursts as poison with check bytes xor PZ. -/
  | poisonWrite (addr : Nat) (len : Nat)
  /-- SCRUB_STEP (R328): The patrol scrubber reads and decodes the next word at its pass rate and writes back as needed. -/
  | scrubStep (site : Nat)
  /-- MR4_POLL (R331): The controller reads MR4 and the WCK2DQ oscillator and updates the refresh multiplier, HOT and delays. -/
  | mr4Poll (site : Nat) (readings : List (Nat × Nat × Bool))
  /-- REFRESH (R333): A per-bank refresh falls due at the site's refresh interval. -/
  | refresh (site : Nat)
  /-- SITE_LOST (R330): A site that stops answering or fails retraining twice is declared lost for the rest of the reset. -/
  | siteLost (site : Nat)
  /-- MEM_CLEAR (R329): MEM_OPCTL with OP 1 starts clearing an unowned site. -/
  | memClear (acr : Acr) (v : Nat)
  /-- MEM_MARGIN (R334): MEM_OPCTL with OP 2 starts a margin sweep of one channel of an unowned site. -/
  | memMargin (acr : Acr) (v : Nat)
  /-- MEM_OP_COMPLETE (R335): A clear or margin operation ends and writes MEM_OPSTAT and the management completion. -/
  | memOpComplete (edges : List (Int × Int))
  /-- PROGRAM_COMPLETE (R360): The NAND reports a program complete, making the writes of that wordline group durable. -/
  | programComplete (writes : List Nat)
  /-- GROWN_BAD_BLOCK (R351): A failed program or erase, or a read needing parity, retires a block and moves its data. -/
  | grownBadBlock (slc : Bool) (ch : Nat) (lun : Nat) (block : Nat)
  /-- WEAR_LEVEL_MOVE (R352): Every 2^16 erases the device moves the least-erased dense block's data to the most-erased free block. -/
  | wearLevelMove (slc : Bool) (worst : Nat)
  /-- RETENTION_PATROL (R353): The patrol reads a codeword of each written block within RETDAYS and relocates aging blocks. -/
  | retentionPatrol (region : Nat) (block : Nat) (step : Nat) (old : Bool) (ch : Nat) (lun : Nat) (loc : Nat)
  /-- LUN_FAIL (R356): A failed LUN is retired, its reads reconstructed from parity and a rebuild started. -/
  | lunFail (lun : Nat)
  /-- DOUBLE_LUN_FAIL (R357): A second LUN of a stripe set failing before rebuild poisons the unrebuilt stripes. -/
  | doubleLunFail (lun : Nat) (lost : List (Nat × List Nat))
  /-- REBUILD_COMPLETE (R356): The rebuild of a lost LUN ends and FLT_STATUS returns to READY. -/
  | rebuildComplete
  /-- HOLDUP_MEASURE (R362): Each millisecond the device measures the bank voltage, recomputes STAGELIM and moves the hold-up state. -/
  | holdupMeasure (volts : Nat)
  /-- HOLDUP_PROBE (R362): Every 100 ms the device draws a probe current and checks the bank capacitance. -/
  | holdupProbe (ok : Bool)
  /-- FLIT_RECEIVE (R411): A receiver takes a flit, accepts it if good and in order, and takes its acknowledgement, width request and credits. -/
  | flitReceive (port : Nat) (flit : List Byte) (fecBad : Bool) (sym : Nat) (unc : Nat)
  /-- NAK (R412): On a NAK the sender resends every unacknowledged flit. -/
  | nak (port : Nat) (flit : List Byte) (fecBad : Bool) (sym : Nat) (unc : Nat)
  /-- REPLAY_TIMEOUT (R412): When the oldest unacknowledged flit is 4 µs old the sender replays. -/
  | replayTimeout (port : Nat)
  /-- WR (R417): A receiving port checks a posted write and performs or refuses it. -/
  | wr (port : Nat)
  /-- WR_PERFORMED (R418): When every burst of a write is performed, the port adds its bytes to the arrival counter and queues its WACK. -/
  | wrPerformed (port : Nat) (wid : Nat)
  /-- WACK (R419): A sender matches a write acknowledgement to its WID and performs the write at system scope. -/
  | wack (port : Nat)
  /-- ELECT (R426): An ELECT message raises the device's best key and parent port. -/
  | elect (port : Nat)
  /-- ELECTION_TICK (R426): Every 10 µs a forming device sends ELECT with its best key on each UP ARCH port. -/
  | electionTick
  /-- ELECTION_END (R426): When the best key has not changed for 5 ms the election ends and the lead is known. -/
  | electionEnd
  /-- TOPO (R427): A TOPO message is forwarded to the parent or gathered by the lead, which checks and numbers the topology. -/
  | topo (port : Nat) (map : Option (Nat × List (Nat × List (Nat × Nat))))
  /-- NUMBER (R428): A NUMBER message gives a device its number, NDEV and FORMNO and sets it FORMED. -/
  | number (port : Nat) (child : Option Nat)
  /-- FORMED (R428): A FORMED reply reaches the lead, which starts the timebase sweep when all have replied. -/
  | formed (port : Nat)
  /-- FGREPORT (R490): The group lead takes a member's FMAX and sets GF to the lowest recent report. -/
  | fgreport (port : Nat)
  /-- FGREPORT_TICK (R490): Every 1 ms each group member sends FGREPORT to the lead. -/
  | fgreportTick
  /-- FGSWITCH (R490): A member takes FGSWITCH and schedules the switch to GF at instant T, or applies it on receipt when unaligned. -/
  | fgswitch (port : Nat)
  /-- FGSWITCH_INSTANT (R490): At timebase T an aligned member switches its clock to GF. -/
  | fgswitchInstant
  /-- GLOST_TIMEOUT (R491): A member with no word from the lead for 10 ms sets GLOST. -/
  | glostTimeout
  /-- TBSTART (R494): A device takes TBSTART, forwards it and starts its 50 ms sweep timer. -/
  | tbstart (port : Nat)
  /-- TBPROBE (R494): A child answers a timebase probe with TBREPLY. -/
  | tbprobe (port : Nat)
  /-- TBREPLY (R494): A parent records a probe round and, after 16 rounds, sends TBSET with the correction. -/
  | tbreply (port : Nat)
  /-- TBPROBE_RETRY (R494): A probe reply missing after 100 µs is retried, and three misses break the hop. -/
  | tbprobeRetry
  /-- TBSET (R494): A child steps its timebase, takes the new ALGEN and aligns its own children. -/
  | tbset (port : Nat)
  /-- TBDONE (R495): A device reports its subtree complete or broken towards the lead. -/
  | tbdone (port : Nat)
  /-- SWEEP_TIMER_EXPIRY (R495): A device without TBSET at the end of its 50 ms timer sets ALIGNED 0 and keeps its old offset. -/
  | sweepTimerExpiry
  /-- RATE_TRIM_PROBE (R497): Every 10 ms an aligned device probes its parent and trims its timebase rate. -/
  | rateTrimProbe
  /-- TMB_CTL_SWEEP (R494): A write of SWEEP to TMB_CTL starts a timebase sweep at the lead. -/
  | tmbCtlSweep (acr : Acr) (v : Nat)
  /-- LANE_FAULT (R415): A faulty Zaljan lane makes the receiver request the sound half through DGR. -/
  | laneFault (port : Nat) (lane : Nat)
  /-- WIDTH_CHANGE (R415): A control flit with a width request narrows the port to one half of its lanes. -/
  | widthChange (port : Nat) (flit : List Byte) (fecBad : Bool) (sym : Nat) (unc : Nat)
  /-- LINK_LOSS (R430): A port declares the link lost, sets LOST, fails sends and ring commands, records the event and retrains. -/
  | linkLoss (port : Nat) (announced : Bool)
  /-- TRAINING_STEP_TIMEOUT (R407): A training step that passes its limit restarts training from step 1. -/
  | trainingStepTimeout (port : Nat) (step : Nat)
  /-- LINK_UP (R407): Training ends with credits initialised, EVTNO agreed and the port UP. -/
  | linkUp (port : Nat) (serial : Nat) (peer : Nat) (role : Nat) (reach : Nat) (evt : Nat) (faulty : Nat) (rev : Bool) (pol : Nat)
  /-- RETRAIN_LIMIT (R431): After RETRYLIM ms of retraining the port goes DOWN. -/
  | retrainLimit (port : Nat)
  /-- RETRAIN (R407): A write of RETRAIN to ZLK_PCTL retrains a port, first taking the loss steps if UP. -/
  | retrain (acr : Acr) (port : Nat) (v : Nat)
  /-- FORM (R426): A write of FORM to ZLK_ARCHCTL, or boot with nonzero LEADPRIO, starts an archipelago formation. -/
  | form (acr : Acr) (v : Nat)
  /-- EYE_SCAN (R432): A write of GO to ZLK_EYECTL starts an eye scan of one lane. -/
  | eyeScan (acr : Acr) (v : Nat)
  /-- EYE_SCAN_COMPLETE (R432): An eye scan ends and writes its height and width to ZLK_EYERES. -/
  | eyeScanComplete (height : Nat) (width : Nat)
  /-- STREAM_OPEN (R440): CDC_SCMD with OP 1 checks a stream descriptor and opens a stream on an engine. -/
  | streamOpen (acr : Acr) (set : Nat) (v : Nat)
  /-- STREAM_CLOSE (R455): CDC_SCMD with OP 2 frees a DISABLED stream whose records are written. -/
  | streamClose (acr : Acr) (set : Nat) (v : Nat)
  /-- STREAM_DISABLE (R455): CDC_SCMD with OP 3 disables a stream; unstarted frames complete with status 0xB1. -/
  | streamDisable (acr : Acr) (set : Nat) (v : Nat)
  /-- ENGDIS (R455): A write of ENGDIS to CDC_ECTL disables every stream of an engine. -/
  | engdis (acr : Acr) (engine : Nat) (v : Nat)
  /-- CDC_FDB (R442): A frame doorbell write sets FTAIL, or is discarded and sets SERR. -/
  | cdcFdb (fn : Nat) (stream : Nat) (v : Nat)
  /-- CDC_CDB (R442): A completion doorbell write advances CHEAD, or is discarded and sets SERR. -/
  | cdcCdb (fn : Nat) (stream : Nat) (v : Nat)
  /-- FRAME_FETCH (R443): An engine fetches and checks the next frame descriptor of a stream and applies RELMASK. -/
  | frameFetch (stream : Nat) (bytes : List Byte)
  /-- FRAME_START (R450): A free engine takes the next ready live, batch or resumable frame by the scheduling order. -/
  | frameStart (engine : Nat)
  /-- BLOCK_ROW (R436): An engine finishes a block row, signals row tokens, suspends or waits at the boundary, or completes the frame. -/
  | blockRow (engine : Nat) (ev : RowEvent)
  /-- FRAME_DEADLINE (R451): A live encode frame with DLPOL 1 not started by its deadline completes with status 0xB0. -/
  | frameDeadline (stream : Nat)
  /-- FRAME_RECORD_WRITE (R442): Once the stream's completion ring has room, the frame record is written. -/
  | frameRecordWrite (stream : Nat)
  /-- CODEC_HW_ERROR (R454): An engine parity or residue failure completes the frame with status 0xB3 and poisons its outputs. -/
  | codecHwError (engine : Nat)
  /-- ON_REQ_RISE (R472): A rising edge of ON_REQ requests power on. -/
  | onReqRise
  /-- ON_REQ_FALL (R472): A falling edge of ON_REQ requests power off. -/
  | onReqFall
  /-- PWRFAIL_N_FALL (R473): A fall of PWRFAIL_N abandons any rising phase and runs the device down. -/
  | pwrfailNFall
  /-- PWRFAIL_N_RISE (R579): A rise of PWRFAIL_N with ON_REQ high counts as an on request. -/
  | pwrfailNRise
  /-- MB_POWER_REQUEST (R472): A management-bus or physical-function power request sets the running direction. -/
  | mbPowerRequest (acr : Acr) (on : Bool)
  /-- POWER_PHASE_UP (R472): A power phase finishes running up and the next phase, or READY, follows. -/
  | powerPhaseUp (w : PhaseWork)
  /-- POWER_PHASE_DOWN (R472): A power phase finishes running down and the next lower phase, or OFF, follows. -/
  | powerPhaseDown
  /-- PHASE_BOUND_OVERRUN (R472): A phase that does not end within its bound runs the device down and writes RAILFAULT. -/
  | phaseBoundOverrun (rail : Nat)
  /-- IMAGE_ALIVE_TIMEOUT (R462): A started firmware that does not report alive within 2 s fails check 5. -/
  | imageAliveTimeout
  /-- STANDBY_RISE (R573): The standby rails rise and the harbourmaster pair starts. -/
  | standbyRise
  /-- STRAP_SAMPLE (R574): 1 ms after the standby rails reach tolerance the harbourmaster samples the straps. -/
  | strapSample (mbaddr : Nat) (bfclk : Nat) (recov : Bool)
  /-- IMAGE_WRITE (R463): HBM_FWCTL with OP 1 copies and checks an image into the slot not running and rewrites the directory. -/
  | imageWrite (acr : Acr) (v : Nat) (bytes : List Byte)
  /-- RAISE_MINSECVER (R463): HBM_FWCTL with OP 2 raises the fused MINSECVER to the running image's SECVER. -/
  | raiseMinsecver (acr : Acr) (v : Nat)
  /-- AMENDMENT_SUBMIT (R469): CHT_AMDCTL with OP 1 or an MCTP delivery checks a charter record and makes it pending. -/
  | amendmentSubmit (acr : Acr) (v : Nat) (record : List Byte)
  /-- AMENDMENT_DISCARD (R470): CHT_AMDCTL with OP 2 discards a pending amendment. -/
  | amendmentDiscard (acr : Acr) (v : Nat)
  /-- AMENDMENT_APPLY (R471): When every affected partition is quiescent the harbourmaster clears moved resources, commits the charter and loads LK values. -/
  | amendmentApply
  /-- POWER_CONTROL_STEP (R484): Every 100 µs or on a predicted change, the controller sets island frequencies within the cap. -/
  | powerControlStep (harbour : Nat) (leak : List Nat) (amps : List Nat) (done : List (List Byte × Nat)) (pkgw : Nat) (mj : Nat)
  /-- CLOCK_SWITCH (R481): After a rail ramp completes, a raised island clock switches glitch-free. -/
  | clockSwitch (island : Nat)
  /-- SENSOR_READ (R486): Every 100 µs the device reads its temperature sensors and throttles or requests thermal off. -/
  | sensorRead (readings : List Int)
  /-- CURRENT_TRIP (R486): An island rail current above ICCMAX stretches the clock to half rate within 100 ns. -/
  | currentTrip (island : Nat)
  /-- SLOPE_TICK (R485): Each µs the activity of each cluster is limited to change by 1/32, holding rows or running filler rows. -/
  | slopeTick (work : List (Nat × Nat))
  /-- EXTTHR_N_FALL (R486): EXTTHR_N low puts every island at EXTFREQ or lower within 20 µs. -/
  | extthrNFall
  /-- EXTTHR_RELEASE (R486): EXTTHR_N high for 1 ms releases the external throttle. -/
  | extthrRelease
  /-- PWR_CAP (R482): A write of PWR_CAP changes the cap, a lowering taking effect within 1 ms. -/
  | pwrCap (acr : Acr) (v : Nat)
  /-- SYSCLK_LOSS (R479): Loss of the system reference switches the harbourmaster to its oscillator and raises a fatal fault. -/
  | sysclkLoss
  /-- PG_FALL (R579): A power-good input falls, giving island loss, loss of every site or a fatal rail fault by rail. -/
  | pgFall (rail : Nat)
  /-- ARRAY_CHECK_FAIL (R91): A stationary parity or column residue check fails, failing the part and poisoning its output. -/
  | arrayCheckFail (cluster : Nat) (q : Nat) (seq : Nat) (column : Nat) (why : Nat) (addr : Nat)
  /-- SFU_PIPE_PARITY (R159): A special-function pipe parity failure fails the part and retires the pipe. -/
  | sfuPipeParity (cluster : Nat) (pipe : Nat) (q : Nat) (seq : Nat)
  /-- LBF_ECC (R515): A local-buffer correction or uncorrectable error is recorded and may remap the row or retire the cluster. -/
  | lbfEcc (cluster : Nat) (bank : Nat) (mac : Nat) (row : Nat) (off : Nat) (syn : Nat) (unc : Bool) (q : Nat) (seq : Nat)
  /-- RETIRE_CLUSTER (R514): ERQ_CTL with OP 2 retires a named cluster now. -/
  | retireCluster (acr : Acr) (v : Nat)
  /-- CLEAR_RETIREMENT_LIST (R514): ERQ_CTL with OP 1 clears the retirement list at the next device reset. -/
  | clearRetirementList (acr : Acr) (v : Nat)
  /-- STRAIT_LANE_FAIL (R516): A failing strait lane is replaced by a spare or lowers the strait's raw rate. -/
  | straitLaneFail (strait : Nat) (lane : Nat)
  /-- ISLAND_LOSS (R518): A lost island has its sites lost, traffic rerouted, affected partitions reset and tokens served from the mirror. -/
  | islandLoss (island : Nat) (why : Nat)
  /-- HMLOCK (R517): A lockstep mismatch restarts both harbourmaster cores from ROM. -/
  | hmlock
  /-- HBDIE (R519): An uncorrectable harbour-die state fault raises a fatal record and stops work. -/
  | hbdie
  /-- ERQ_POP (R506): A write of the oldest record's RSEQ to ERQ_POP removes it. -/
  | erqPop (acr : Acr) (v : Nat)
  /-- BUNDLE_LOAD (R522): ERQ_TCTL with OP 1 checks a fleet test bundle and replaces the running one. -/
  | bundleLoad (acr : Acr) (v : Nat) (bundle : List Byte) (long : Bool)
  /-- BUNDLE_STOP (R522): ERQ_TCTL with OP 2 stops the running bundle. -/
  | bundleStop (acr : Acr) (v : Nat)
  /-- FLEET_TEST_ITEM (R523): An idle cluster runs the next test item, compares its CRC-64 and zeroes its test state. -/
  | fleetTestItem (cluster : Nat) (crc : Nat)
  /-- CNT_TRCFG (R531): A write of CNT_TRCFG configures the trace ring, refusing EN 1 with CFGERR when invalid. -/
  | cntTrcfg (acr : Acr) (p : Nat) (v : Nat)
  /-- CNT_TRPTR (R532): A write of HEAD to CNT_TRPTR consumes trace entries unless it passes TAIL. -/
  | cntTrptr (acr : Acr) (p : Nat) (v : Nat)
  /-- BTEST (R578): Loading BTEST while OFF raises the rail and clock phases for board test. -/
  | btest
  /-- TRST_N_FALL (R578): A fall of TRST_N resets the TAP and ends board test. -/
  | trstNFall
  /-- FLASH_READ_COMPLETE (R343): A NAND page read started for an FLREAD, a key/value fetch or the patrol completes after tR and its transfer, and the codeword goes through the read path. -/
  | flashReadComplete (job : Nat) (block : Nat) (step : Nat) (ch : Nat) (lun : Nat) (loc : Nat)
  /-- AMENDMENT_COMMIT (R471): When the site clears and key destructions of an applying amendment have finished, the harbourmaster writes the other charter slot, commits the directory and loads the new LK values. -/
  | amendmentCommit
  /-- IMAGE_WRITE_COMPLETE (R463): An image write ends: the copy is checked, and either the directory names the new slot or the slot is erased with status 0xBE. -/
  | imageWriteComplete
  /-- PARTITION_RESET_END (R474): A running partition reset ends within 10 ms, writes its status and clears BUSY. -/
  | partitionResetEnd
  /-- STANDBY_FALL (R574): The standby rails fall, ending the harbourmaster, the straps and every state that survives other resets. -/
  | standbyFall
  /-- ACCUMULATOR_STORE_ERROR (R514): An uncorrectable error in a cluster's accumulator store or shuttle retires the cluster with reason 2. -/
  | accumulatorStoreError (cluster : Nat)
  /-- DIFFERENT_INSTRUCTION_LOAD (R578): Loading a TAP instruction other than BTEST during board test ends board test and runs every phase down. -/
  | differentInstructionLoad
  deriving DecidableEq, Repr

end Sys2Proof
end

