-- ==== Sys2Proof/Config.lean ====
section
/-!
DEFINITION. Config.lean: what an implementation fixes and what the spec leaves open. Every constant here is opaque: nothing
can be proved of its value, so a claim holds whatever it is.
-/
namespace Sys2Proof

/-- Device serial (HBM_ID, fuses). [Log 7 DESIGN CHOICE] -/
opaque Config.serial : BitVec 56

/-- Fused MINSECVER before anything raises it (Table 19-13). [Log 7 DESIGN CHOICE] -/
opaque Config.minSecVer : BitVec 16

/-- Fused voltage of frequency step `s` in mV (PWR_VF). [Log 7 DESIGN CHOICE] -/
opaque Config.vfMv : Nat → BitVec 10

/-- Fused power of frequency step `s` (PWR_VF). [Log 7 DESIGN CHOICE] -/
opaque Config.vfPmax : Nat → BitVec 16

/-- What a microprogram step with code `c` yields from sources `a` and `b` where Table 6-8 gives no result. [Log 29 DESIGN CHOICE] -/
opaque Config.stepOpen : (c : Nat) → (a b : Nat) → BitVec 32

/-- Spare lanes of strait `s`: one for every 32 lanes (R516), whose number Table 1-2 does not give. [Log 79 DESIGN CHOICE] -/
opaque Config.straitSpares : (s : Nat) → Nat

/-- Capacity in MiB that the boot flash's SFDP table reports (R458). [Log 70 DESIGN CHOICE] -/
opaque Config.bootMib : Nat

/-- The boot flash offers octal DTR read (R458). [Log 70 DESIGN CHOICE] -/
opaque Config.bootOctal : Bool

/-- The ECDSA P-384 check of FIPS 186-5: signature `sig` (r then s) of `msg` under `key` (R461, R464, R521). [Log 71 DESIGN CHOICE] -/
opaque Config.sigOk : (key msg sig : List (BitVec 8)) → Bool

/-- SHA-384. [Log 71 DESIGN CHOICE] -/
opaque Config.sha384 : List (BitVec 8) → List (BitVec 8)

/-- Fused digest of image key slot `k` (R461). [Log 71 DESIGN CHOICE] -/
opaque Config.imageKey : (k : Nat) → List (BitVec 8)

/-- Image key slot `k` is revoked (R461). [Log 71 DESIGN CHOICE] -/
opaque Config.keyRevoked : (k : Nat) → Bool

/-- Public key whose digest image key slot `k` holds. [Log 71 DESIGN CHOICE] -/
opaque Config.imagePub : (k : Nat) → List (BitVec 8)

/-- STAGELIM before the limit of STAGECAP where PFLUSH is 0, for a bank of `capmf` mF at `v` times 10 mV (R362). [Log 84 DESIGN CHOICE] -/
opaque Config.stagelimOpen : (capmf vmin v : Nat) → Nat

/-- The `n`-th byte the spec leaves unspecified, such as the data bytes of a burst marked as poison (R326). [Log 10 DESIGN CHOICE; 14 DESIGN CHOICE] -/
opaque Config.freeByte : Nat → Byte

end Sys2Proof
end

