-- ==== Sys2Proof/Machine/Bits.lean ====
section
/-!
DEFINITION. Machine/Bits.lean: bit fields, sign extension and byte order (little-endian, R9), as operations on Nat.
-/
namespace Sys2Proof.Machine

/-- Bits [lo + w - 1 : lo] of `v`. -/
def bits (v lo w : Nat) : Nat := (v >>> lo) % 2 ^ w

/-- One bit as a Bool. -/
def bit (v i : Nat) : Bool := bits v i 1 = 1

/-- 1 for true, 0 for false. -/
def b2n (b : Bool) : Nat := if b then 1 else 0

/-- A `w`-bit field read as two's complement. -/
def toInt (w v : Nat) : Int := if v % 2 ^ w < 2 ^ (w - 1) then (v % 2 ^ w : Int) else (v % 2 ^ w : Int) - 2 ^ w

/-- An integer as a `w`-bit two's complement field. -/
def ofInt (w : Nat) (i : Int) : Nat := (i % (2 ^ w : Nat)).toNat

/-- The first `n` bytes of `v`, least significant first. -/
def leBytes : (n v : Nat) → List Byte
  | 0, _ => []
  | n + 1, v => BitVec.ofNat 8 v :: leBytes n (v / 256)

/-- The number that bytes spell, least significant first. -/
def leNat : List Byte → Nat
  | [] => 0
  | b :: t => b.toNat + 256 * leNat t

/-- `w` bytes at offset `off` of a byte string, as a number (missing bytes read 0). -/
def fieldAt (l : List Byte) (off w : Nat) : Nat := leNat ((l.drop off).take w)

/-- Ceiling division. -/
def cdiv (a b : Nat) : Nat := (a + b - 1) / b

/-- `v` rounded up to a multiple of `m`. -/
def alignUp (v m : Nat) : Nat := cdiv v m * m

/-- Largest of a list of numbers, 0 for none. -/
def maxOf (l : List Nat) : Nat := l.foldl max 0

/-- Sum of a list of numbers. -/
def sumOf (l : List Nat) : Nat := l.foldl (· + ·) 0

/-- A counter of `w` bits that stops at its top. -/
def satAdd (w a b : Nat) : Nat := min (a + b) (2 ^ w - 1)

/-- A counter of `w` bits that wraps. -/
def wrapAdd (w a b : Nat) : Nat := (a + b) % 2 ^ w

/-- Two half-open ranges share an address. -/
def rangesMeet (a la b lb : Nat) : Bool := decide (0 < la) && decide (0 < lb) && decide (a < b + lb) && decide (b < a + la)

/-- One bit of CRC-64. -/
def crc64Bit (c : Nat) : Nat := if c.testBit 63 then (c * 2) % 2 ^ 64 ^^^ 0x42F0E1EBA9EA3693 else c * 2

/-- CRC-64 of ECMA-182: initial value all ones, final XOR all ones (R409). -/
def crc64 (l : List Byte) : Nat :=
  (l.foldl (fun c b => (List.range 8).foldl (fun a _ => crc64Bit a) (c ^^^ b.toNat <<< 56)) (2 ^ 64 - 1)) ^^^ (2 ^ 64 - 1)

/-- One bit of the reflected CRC-32 of IEEE 802.3. -/
def crc32Bit (c : Nat) : Nat := if c.testBit 0 then c / 2 ^^^ 0xEDB88320 else c / 2

/-- CRC-32 of IEEE 802.3 (R483). -/
def crc32 (l : List Byte) : Nat :=
  (l.foldl (fun c b => (List.range 8).foldl (fun a _ => crc32Bit a) (c ^^^ b.toNat)) (2 ^ 32 - 1)) ^^^ (2 ^ 32 - 1)

end Sys2Proof.Machine
end

