-- ==== Sys2Proof/Machine/Regs.lean ====
section
/-!
DEFINITION. Machine/Regs.lean: every register of the device: its place (Tables 24-1 and 24-2), its instances and the reset
that sets it, and every named field of it: its bits, its access code (R15) and its value at reset. A field whose Reset
column says charter holds its unchartered value (R465, Table 19-5a); a field whose Reset column says fuses holds a constant
of Config. Every reserved field of every register reads 0, as its Reset column gives.
-/
namespace Sys2Proof.Machine

/-- Access codes (R15). -/
inductive Acc where
  | ro | rw | w1c | wo | lk
  deriving DecidableEq, Repr

/-- What resets a register (the caption of its table). -/
inductive Scope where
  | none | context | partition | devPart | region | device | standby | queue | stream | phase2 | phase3
  deriving DecidableEq, Repr

/-- A register: its number in this list, BLOCK, REG, ISTR, registers in consecutive slots per instance, slots each, number of
instances, first instance, highest field bit, and the reset that sets it (R554). [Log 6 DEDUCED] -/
structure Reg where
  idx : Nat
  block : Nat
  slot : Nat
  istr : Nat
  cnt : Nat
  width : Nat
  insts : Nat
  first : Nat
  top : Nat
  scope : Scope
  deriving DecidableEq, Repr

/-- A named field: its register, lowest bit, width, access code and value at reset. [Log 6 DEDUCED] -/
structure Fld where
  reg : Reg
  lo : Nat
  w : Nat
  acc : Acc
  rst : Nat
  deriving DecidableEq, Repr

/-- SHT_CTXCMD (Table 15-8). -/
def R.shtCtxcmd : Reg := ⟨0, 0, 0x0, 0, 1, 1, 64, 0, 63, .none⟩

/-- SHT_CTXCMDSTAT (Table 15-9). -/
def R.shtCtxcmdstat : Reg := ⟨1, 0, 0x1, 0, 1, 1, 64, 0, 31, .device⟩

/-- SHT_CTXDESC0–SHT_CTXDESC11 (Table 15-5a). -/
def R.shtCtxdesc : Reg := ⟨2, 0, 0x10, 0, 12, 1, 64, 0, 63, .device⟩

/-- PCI_QCMD (Table 16-8). -/
def R.pciQcmd : Reg := ⟨3, 0, 0x20, 0, 1, 1, 64, 0, 63, .none⟩

/-- PCI_QCMDSTAT (Table 16-9). -/
def R.pciQcmdstat : Reg := ⟨4, 0, 0x21, 0, 1, 1, 64, 0, 31, .device⟩

/-- PCI_QDESC0–PCI_QDESC7 (Table 16-3a). -/
def R.pciQdesc : Reg := ⟨5, 0, 0x28, 0, 8, 1, 64, 0, 63, .device⟩

/-- PCI_EVTCAUSE (Table 16-10). -/
def R.pciEvtcause : Reg := ⟨6, 0, 0x30, 0, 1, 1, 64, 0, 31, .device⟩

/-- PCI_EVTCFG (Table 16-11). -/
def R.pciEvtcfg : Reg := ⟨7, 0, 0x31, 0, 1, 1, 64, 0, 31, .device⟩

/-- CDC_SCMD (Table 18-7). -/
def R.cdcScmd : Reg := ⟨8, 0, 0x38, 0, 1, 1, 64, 0, 63, .none⟩

/-- CDC_SCMDSTAT (Table 18-8). -/
def R.cdcScmdstat : Reg := ⟨9, 0, 0x39, 0, 1, 1, 64, 0, 31, .device⟩

/-- CHT_FUNC (Table 19-5). -/
def R.chtFunc : Reg := ⟨10, 0, 0x3a, 0, 1, 1, 64, 0, 31, .device⟩

/-- HBM_ID (Table 24-3). -/
def R.hbmId : Reg := ⟨11, 1, 0x0, 0, 1, 1, 1, 0, 63, .standby⟩

/-- HBM_FWCTL (Table 19-3). -/
def R.hbmFwctl : Reg := ⟨12, 1, 0x2, 0, 1, 2, 1, 0, 127, .none⟩

/-- HBM_BOOTSTAT (Table 19-13). -/
def R.hbmBootstat : Reg := ⟨13, 1, 0x4, 0, 1, 1, 1, 0, 31, .phase3⟩

/-- HBM_PWRSTAT (Table 19-12). -/
def R.hbmPwrstat : Reg := ⟨14, 1, 0x5, 0, 1, 1, 1, 0, 31, .standby⟩

/-- HBM_RSTCTL (Table 19-15). -/
def R.hbmRstctl : Reg := ⟨15, 1, 0x6, 0, 1, 1, 1, 0, 31, .none⟩

/-- HBM_RSTSTAT (Table 19-16). -/
def R.hbmRststat : Reg := ⟨16, 1, 0x7, 0, 1, 1, 1, 0, 31, .standby⟩

/-- PWR_CAP (Table 20-5). -/
def R.pwrCap : Reg := ⟨17, 2, 0x0, 0, 1, 1, 1, 0, 31, .device⟩

/-- PWR_CFG (Table 20-6). -/
def R.pwrCfg : Reg := ⟨18, 2, 0x1, 0, 1, 1, 1, 0, 63, .device⟩

/-- PWR_OPFIX (Table 20-7). -/
def R.pwrOpfix : Reg := ⟨19, 2, 0x2, 0, 1, 1, 1, 0, 31, .device⟩

/-- PWR_POWER (Table 20-10). -/
def R.pwrPower : Reg := ⟨20, 2, 0x3, 0, 1, 1, 1, 0, 63, .device⟩

/-- PWR_THR (Table 20-11). -/
def R.pwrThr : Reg := ⟨21, 2, 0x4, 0, 1, 1, 1, 0, 31, .device⟩

/-- PWR_FGRP (Table 20-13). -/
def R.pwrFgrp : Reg := ⟨22, 2, 0x5, 0, 1, 1, 1, 0, 31, .device⟩

/-- PWR_ISLAND (Table 20-8). -/
def R.pwrIsland : Reg := ⟨23, 2, 0x8, 8, 1, 1, 4, 0, 31, .device⟩

/-- PWR_THRDUR0–PWR_THRDUR6 (Table 20-12). -/
def R.pwrThrdur : Reg := ⟨24, 2, 0x10, 8, 1, 1, 7, 0, 63, .device⟩

/-- PWR_VF (Table 20-9). -/
def R.pwrVf : Reg := ⟨25, 2, 0x20, 8, 1, 1, 37, 8, 31, .device⟩

/-- TMB_NOW (Table 20-14). -/
def R.tmbNow : Reg := ⟨26, 3, 0x0, 0, 1, 1, 1, 0, 63, .phase2⟩

/-- TMB_ALIGN (Table 20-15). -/
def R.tmbAlign : Reg := ⟨27, 3, 0x1, 0, 1, 1, 1, 0, 63, .device⟩

/-- TMB_CTL (Table 20-16). -/
def R.tmbCtl : Reg := ⟨28, 3, 0x2, 0, 1, 1, 1, 0, 31, .none⟩

/-- CHT_AMDCTL (Table 19-7). -/
def R.chtAmdctl : Reg := ⟨29, 4, 0x0, 0, 1, 1, 1, 0, 31, .none⟩

/-- CHT_AMDADDR (Table 19-8). -/
def R.chtAmdaddr : Reg := ⟨30, 4, 0x1, 0, 1, 1, 1, 0, 63, .device⟩

/-- CHT_AMDSTAT (Table 19-9). -/
def R.chtAmdstat : Reg := ⟨31, 4, 0x2, 0, 1, 1, 1, 0, 63, .device⟩

/-- CHT_AMDST2 (Table 19-10). -/
def R.chtAmdst2 : Reg := ⟨32, 4, 0x3, 0, 1, 1, 1, 0, 31, .device⟩

/-- CHT_SLOTS (Table 15-14). -/
def R.chtSlots : Reg := ⟨33, 4, 0x100, 8, 1, 1, 24, 0, 63, .device⟩

/-- CHT_PART (Table 15-2). -/
def R.chtPart : Reg := ⟨34, 4, 0x2000, 4096, 1, 1, 16, 0, 63, .device⟩

/-- CHT_PREACHLO (Table 15-3). -/
def R.chtPreachlo : Reg := ⟨35, 4, 0x2001, 4096, 1, 1, 16, 0, 63, .device⟩

/-- CHT_PREACHHI (Table 15-4). -/
def R.chtPreachhi : Reg := ⟨36, 4, 0x2002, 4096, 1, 1, 16, 0, 63, .device⟩

/-- CHT_REG (Table 15-13). -/
def R.chtReg : Reg := ⟨37, 4, 0x2020, 4096, 24, 1, 16, 0, 63, .device⟩

/-- ERQ_STATUS (Table 21-4). -/
def R.erqStatus : Reg := ⟨38, 5, 0x0, 0, 1, 1, 1, 0, 63, .standby⟩

/-- ERQ_POP (Table 21-6). -/
def R.erqPop : Reg := ⟨39, 5, 0x1, 0, 1, 1, 1, 0, 63, .none⟩

/-- ERQ_TCTL (Table 21-11). -/
def R.erqTctl : Reg := ⟨40, 5, 0x2, 0, 1, 2, 1, 0, 127, .none⟩

/-- ERQ_TSTAT (Table 21-12). -/
def R.erqTstat : Reg := ⟨41, 5, 0x4, 0, 1, 1, 1, 0, 63, .device⟩

/-- ERQ_CTL (Table 21-13). -/
def R.erqCtl : Reg := ⟨42, 5, 0x5, 0, 1, 1, 1, 0, 31, .none⟩

/-- ERQ_DATA0–ERQ_DATA7 (Table 21-5). -/
def R.erqData : Reg := ⟨43, 5, 0x10, 0, 8, 1, 1, 0, 63, .standby⟩

/-- ERQ_FATAL0–ERQ_FATAL7 (Table 21-5). -/
def R.erqFatal : Reg := ⟨44, 5, 0x18, 0, 8, 1, 1, 0, 63, .standby⟩

/-- ERQ_RETIRED0–ERQ_RETIRED12 (Table 21-14). -/
def R.erqRetired : Reg := ⟨45, 5, 0x20, 0, 13, 1, 1, 0, 63, .device⟩

/-- MEM_OPCTL (Table 13-12). -/
def R.memOpctl : Reg := ⟨46, 6, 0x0, 0, 1, 1, 1, 0, 31, .none⟩

/-- MEM_OPSTAT (Table 13-13). -/
def R.memOpstat : Reg := ⟨47, 6, 0x1, 0, 1, 1, 1, 0, 31, .device⟩

/-- MEM_MGRES0–MEM_MGRES3 (Table 13-13a). -/
def R.memMgres : Reg := ⟨48, 6, 0x4, 0, 4, 1, 1, 0, 63, .device⟩

/-- MEM_STATUS (Table 13-7). -/
def R.memStatus : Reg := ⟨49, 6, 0x100, 64, 1, 1, 48, 0, 31, .device⟩

/-- MEM_ECCCNT (Table 13-8). -/
def R.memEcccnt : Reg := ⟨50, 6, 0x101, 64, 1, 1, 48, 0, 63, .device⟩

/-- MEM_ECCLOG (Table 13-9a). -/
def R.memEcclog : Reg := ⟨51, 6, 0x102, 64, 1, 1, 48, 0, 63, .device⟩

/-- MEM_SCRUB (Table 13-10). -/
def R.memScrub : Reg := ⟨52, 6, 0x103, 64, 1, 1, 48, 0, 31, .device⟩

/-- MEM_THERM (Table 13-11). -/
def R.memTherm : Reg := ⟨53, 6, 0x104, 64, 1, 1, 48, 0, 31, .device⟩

/-- FLT_STATUS (Table 14-7). -/
def R.fltStatus : Reg := ⟨54, 7, 0x0, 0, 1, 1, 1, 0, 31, .device⟩

/-- FLT_HUPCFG (Table 14-10). -/
def R.fltHupcfg : Reg := ⟨55, 7, 0x1, 0, 1, 1, 1, 0, 63, .device⟩

/-- FLT_HUP (Table 14-11). -/
def R.fltHup : Reg := ⟨56, 7, 0x2, 0, 1, 1, 1, 0, 63, .device⟩

/-- FLT_RETCFG (Table 14-12). -/
def R.fltRetcfg : Reg := ⟨57, 7, 0x3, 0, 1, 1, 1, 0, 31, .device⟩

/-- FLT_WEAR (Table 14-13). -/
def R.fltWear : Reg := ⟨58, 7, 0x4, 0, 1, 1, 1, 0, 63, .device⟩

/-- FLT_CNT0 (Table 14-14). -/
def R.fltCnt0 : Reg := ⟨59, 7, 0x5, 0, 1, 1, 1, 0, 63, .device⟩

/-- FLT_CNT1 (Table 14-15). -/
def R.fltCnt1 : Reg := ⟨60, 7, 0x6, 0, 1, 1, 1, 0, 63, .device⟩

/-- FLT_SLCRATE (Table 24-4). -/
def R.fltSlcrate : Reg := ⟨61, 7, 0x7, 0, 1, 1, 1, 0, 31, .device⟩

/-- FLT_RGNINFO (Table 14-8). -/
def R.fltRgninfo : Reg := ⟨62, 7, 0x400, 16, 1, 1, 1024, 0, 63, .device⟩

/-- FLT_RGNVER (Table 14-9). -/
def R.fltRgnver : Reg := ⟨63, 7, 0x401, 16, 1, 1, 1024, 0, 63, .region⟩

/-- FLT_STAGE (Table 24-5). -/
def R.fltStage : Reg := ⟨64, 7, 0x2000, 4096, 1, 1, 16, 0, 31, .device⟩

/-- CDC_ECTL (Table 18-10b). -/
def R.cdcEctl : Reg := ⟨65, 8, 0x0, 16, 1, 1, 8, 0, 31, .device⟩

/-- CDC_ECNT (Table 18-10c). -/
def R.cdcEcnt : Reg := ⟨66, 8, 0x1, 16, 1, 1, 8, 0, 63, .device⟩

/-- CDC_SSTAT (Table 18-9). -/
def R.cdcSstat : Reg := ⟨67, 8, 0x100, 16, 1, 2, 256, 0, 127, .stream⟩

/-- CDC_SHARE (Table 18-10a). -/
def R.cdcShare : Reg := ⟨68, 8, 0x2000, 4096, 8, 1, 16, 0, 31, .device⟩

/-- PCI_QSTAT (Table 16-7). -/
def R.pciQstat : Reg := ⟨69, 9, 0x0, 16, 1, 2, 4096, 0, 127, .queue⟩

/-- ZLK_ARCHCFG (Table 17-16). -/
def R.zlkArchcfg : Reg := ⟨70, 10, 0x0, 0, 1, 1, 1, 0, 31, .device⟩

/-- ZLK_ARCH (Table 17-17). -/
def R.zlkArch : Reg := ⟨71, 10, 0x1, 0, 1, 1, 1, 0, 63, .device⟩

/-- ZLK_ARCHCTL (Table 17-18). -/
def R.zlkArchctl : Reg := ⟨72, 10, 0x2, 0, 1, 1, 1, 0, 31, .none⟩

/-- ZLK_EYECTL (Table 17-18a). -/
def R.zlkEyectl : Reg := ⟨73, 10, 0x3, 0, 1, 1, 1, 0, 31, .none⟩

/-- ZLK_EYERES (Table 17-18b). -/
def R.zlkEyeres : Reg := ⟨74, 10, 0x4, 0, 1, 1, 1, 0, 63, .device⟩

/-- ZLK_PCFG (Table 17-9). -/
def R.zlkPcfg : Reg := ⟨75, 10, 0x100, 64, 1, 1, 12, 0, 31, .device⟩

/-- ZLK_PSTAT (Table 17-10). -/
def R.zlkPstat : Reg := ⟨76, 10, 0x101, 64, 1, 1, 12, 0, 63, .device⟩

/-- ZLK_NBR (Table 17-11). -/
def R.zlkNbr : Reg := ⟨77, 10, 0x102, 64, 1, 1, 12, 0, 63, .device⟩

/-- ZLK_PCTL (Table 17-12). -/
def R.zlkPctl : Reg := ⟨78, 10, 0x103, 64, 1, 1, 12, 0, 31, .none⟩

/-- ZLK_CNT0 (Table 17-14). -/
def R.zlkCnt0 : Reg := ⟨79, 10, 0x104, 64, 1, 1, 12, 0, 63, .device⟩

/-- ZLK_CNT1 (Table 17-15). -/
def R.zlkCnt1 : Reg := ⟨80, 10, 0x105, 64, 1, 1, 12, 0, 63, .device⟩

/-- ZLK_ARRALLOC (Table 12-6). -/
def R.zlkArralloc : Reg := ⟨81, 10, 0x2000, 4096, 1, 1, 16, 0, 63, .partition⟩

/-- ZLK_PGEN (Table 17-13). -/
def R.zlkPgen : Reg := ⟨82, 10, 0x2010, 4096, 12, 1, 16, 0, 31, .partition⟩

/-- ZLK_ARR (Table 12-7). -/
def R.zlkArr : Reg := ⟨83, 10, 0x4000, 16, 1, 1, 4096, 0, 63, .partition⟩

/-- ZLK_ARRCFG (Table 12-8). -/
def R.zlkArrcfg : Reg := ⟨84, 10, 0x4001, 16, 1, 1, 4096, 0, 31, .partition⟩

/-- CNT_SITERD (Table 22-4). -/
def R.cntSiterd : Reg := ⟨85, 11, 0x0, 16, 1, 1, 48, 0, 63, .device⟩

/-- CNT_SITEWR (Table 22-4). -/
def R.cntSitewr : Reg := ⟨86, 11, 0x1, 16, 1, 1, 48, 0, 63, .device⟩

/-- CNT_TRCFG (Table 22-5). -/
def R.cntTrcfg : Reg := ⟨87, 11, 0x2000, 4096, 1, 2, 16, 0, 127, .partition⟩

/-- CNT_TRPTR (Table 22-6). -/
def R.cntTrptr : Reg := ⟨88, 11, 0x2002, 4096, 1, 2, 16, 0, 95, .partition⟩

/-- CNT_REGWAIT (Table 15-15). [Log 82 DESIGN CHOICE] -/
def R.cntRegwait : Reg := ⟨89, 11, 0x2020, 4096, 24, 1, 16, 0, 63, .device⟩

/-- SHT_TOKALLOC (Table 12-1). -/
def R.shtTokalloc : Reg := ⟨90, 16, 0x2000, 4096, 1, 1, 16, 0, 63, .partition⟩

/-- SHT_MAXLEN (Table 15-11). -/
def R.shtMaxlen : Reg := ⟨91, 16, 0x2001, 4096, 1, 1, 16, 0, 63, .partition⟩

/-- SHT_NUMCTL (Table 2-10). -/
def R.shtNumctl : Reg := ⟨92, 16, 0x4000, 256, 1, 1, 1024, 0, 31, .context⟩

/-- SHT_WDOG (Table 12-9). -/
def R.shtWdog : Reg := ⟨93, 16, 0x4001, 256, 1, 1, 1024, 0, 31, .context⟩

/-- SHT_CTXSTAT (Table 15-10). -/
def R.shtCtxstat : Reg := ⟨94, 16, 0x4002, 256, 1, 1, 1024, 0, 31, .device⟩

/-- SHT_CREG0–SHT_CREG15 (Table 4-6). -/
def R.shtCreg : Reg := ⟨95, 16, 0x4010, 256, 16, 1, 1024, 0, 31, .context⟩

/-- SHT_TOK (Table 12-2). -/
def R.shtTok : Reg := ⟨96, 17, 0x0, 16, 1, 1, 65536, 0, 31, .partition⟩

/-- SHT_TOKADD (Table 12-3). -/
def R.shtTokadd : Reg := ⟨97, 17, 0x1, 16, 1, 1, 65536, 0, 31, .none⟩

/-- ARY_STRCYC (Table 3-6). -/
def R.aryStrcyc : Reg := ⟨98, 18, 0x0, 64, 1, 1, 800, 0, 63, .device⟩

/-- ARY_STRMAX (Table 3-7). -/
def R.aryStrmax : Reg := ⟨99, 18, 0x1, 64, 1, 1, 800, 0, 63, .device⟩

/-- ARY_LDWAIT (Table 3-8). -/
def R.aryLdwait : Reg := ⟨100, 18, 0x2, 64, 1, 1, 800, 0, 63, .device⟩

/-- ARY_CODIG (Table 9-5). -/
def R.aryCodig : Reg := ⟨101, 18, 0x3, 64, 1, 1, 800, 0, 63, .device⟩

/-- ARY_COREF (Table 9-6). -/
def R.aryCoref : Reg := ⟨102, 18, 0x4, 64, 1, 1, 800, 0, 63, .device⟩

/-- ARY_COROWS (Table 9-7). -/
def R.aryCorows : Reg := ⟨103, 18, 0x5, 64, 1, 1, 800, 0, 63, .device⟩

/-- ARY_COSKIP (Table 9-8). -/
def R.aryCoskip : Reg := ⟨104, 18, 0x6, 64, 1, 1, 800, 0, 63, .device⟩

/-- SFU_PIPEMAP (Table 6-3). -/
def R.sfuPipemap : Reg := ⟨105, 19, 0x0, 16, 1, 1, 800, 0, 31, .device⟩

/-- SFU_STORE (Table 6-11). -/
def R.sfuStore : Reg := ⟨106, 19, 0x1, 16, 1, 1, 800, 0, 31, .devPart⟩

/-- SFU_MODE (Table 6-12). -/
def R.sfuMode : Reg := ⟨107, 19, 0x4000, 8, 1, 1, 1024, 0, 31, .context⟩

/-- RNG_LSEED (Table 11-3). -/
def R.rngLseed : Reg := ⟨108, 20, 0x0, 16, 1, 1, 1024, 0, 63, .context⟩

/-- RNG_LSALT (Table 11-4). -/
def R.rngLsalt : Reg := ⟨109, 20, 0x1, 16, 1, 1, 1024, 0, 31, .context⟩

/-- KVT_SLOTS (Table 8-1). -/
def R.kvtSlots : Reg := ⟨110, 21, 0x2000, 4096, 1, 1, 16, 0, 31, .partition⟩

/-- KVT_POOL (Table 8-7). -/
def R.kvtPool : Reg := ⟨111, 21, 0x2001, 4096, 1, 1, 16, 0, 63, .partition⟩

/-- KVT_CTRL (Table 8-8). -/
def R.kvtCtrl : Reg := ⟨112, 21, 0x2002, 4096, 1, 1, 16, 0, 31, .none⟩

/-- KVT_STATE (Table 8-9). -/
def R.kvtState : Reg := ⟨113, 21, 0x2003, 4096, 1, 1, 16, 0, 63, .partition⟩

/-- KVT_LOWMARK (Table 8-10). -/
def R.kvtLowmark : Reg := ⟨114, 21, 0x2004, 4096, 1, 1, 16, 0, 31, .partition⟩

/-- KVT_CNT0 (Table 8-14). -/
def R.kvtCnt0 : Reg := ⟨115, 21, 0x2005, 4096, 1, 1, 16, 0, 63, .partition⟩

/-- KVT_CNT1 (Table 8-15). -/
def R.kvtCnt1 : Reg := ⟨116, 21, 0x2006, 4096, 1, 1, 16, 0, 63, .partition⟩

/-- KVT_STALLNS (Table 8-16). -/
def R.kvtStallns : Reg := ⟨117, 21, 0x2007, 4096, 1, 1, 16, 0, 63, .partition⟩

/-- CNT_CLCYC0–CNT_CLCYC10 (Table 22-2). [Log 82 DESIGN CHOICE] -/
def R.cntClcyc : Reg := ⟨118, 22, 0x0, 128, 11, 1, 800, 0, 63, .device⟩

/-- CNT_FLUSH (Table 22-3). -/
def R.cntFlush : Reg := ⟨119, 22, 0xb, 128, 1, 1, 800, 0, 63, .device⟩

/-- CNT_TEST (Table 21-10). -/
def R.cntTest : Reg := ⟨120, 22, 0xc, 128, 1, 1, 800, 0, 63, .device⟩

/-- PCI_SQDB (Table 16-5). -/
def R.pciSqdb : Reg := ⟨121, 255, 0x0, 16, 1, 1, 4096, 0, 63, .none⟩

/-- PCI_CQDB (Table 16-6). -/
def R.pciCqdb : Reg := ⟨122, 255, 0x1, 16, 1, 1, 4096, 0, 63, .none⟩

/-- CDC_FDB (Table 18-12). -/
def R.cdcFdb : Reg := ⟨123, 255, 0x2, 16, 1, 1, 256, 0, 63, .none⟩

/-- CDC_CDB (Table 18-13). -/
def R.cdcCdb : Reg := ⟨124, 255, 0x3, 16, 1, 1, 256, 0, 63, .none⟩

/-- SHT_CTXCMD.OP. -/
def F.shtCtxcmdOp : Fld := ⟨R.shtCtxcmd, 60, 4, .wo, 0⟩

/-- SHT_CTXCMD.CTX. -/
def F.shtCtxcmdCtx : Fld := ⟨R.shtCtxcmd, 12, 10, .wo, 0⟩

/-- SHT_CTXCMD.QUEUE. -/
def F.shtCtxcmdQueue : Fld := ⟨R.shtCtxcmd, 0, 12, .wo, 0⟩

/-- SHT_CTXCMDSTAT.STATUS. -/
def F.shtCtxcmdstatStatus : Fld := ⟨R.shtCtxcmdstat, 24, 8, .ro, 0⟩

/-- SHT_CTXCMDSTAT.BUSY. -/
def F.shtCtxcmdstatBusy : Fld := ⟨R.shtCtxcmdstat, 23, 1, .ro, 0⟩

/-- SHT_CTXCMDSTAT.CTX. -/
def F.shtCtxcmdstatCtx : Fld := ⟨R.shtCtxcmdstat, 0, 10, .ro, 0⟩

/-- SHT_CTXDESC.BYTES. -/
def F.shtCtxdescBytes : Fld := ⟨R.shtCtxdesc, 0, 64, .rw, 0⟩

/-- PCI_QCMD.OP. -/
def F.pciQcmdOp : Fld := ⟨R.pciQcmd, 60, 4, .wo, 0⟩

/-- PCI_QCMD.QUEUE. -/
def F.pciQcmdQueue : Fld := ⟨R.pciQcmd, 0, 12, .wo, 0⟩

/-- PCI_QCMDSTAT.STATUS. -/
def F.pciQcmdstatStatus : Fld := ⟨R.pciQcmdstat, 24, 8, .ro, 0⟩

/-- PCI_QCMDSTAT.BUSY. -/
def F.pciQcmdstatBusy : Fld := ⟨R.pciQcmdstat, 23, 1, .ro, 0⟩

/-- PCI_QCMDSTAT.QLIMIT. -/
def F.pciQcmdstatQlimit : Fld := ⟨R.pciQcmdstat, 12, 11, .lk, 0⟩

/-- PCI_QCMDSTAT.QUEUE. -/
def F.pciQcmdstatQueue : Fld := ⟨R.pciQcmdstat, 0, 12, .ro, 0⟩

/-- PCI_QDESC.BYTES. -/
def F.pciQdescBytes : Fld := ⟨R.pciQdesc, 0, 64, .rw, 0⟩

/-- PCI_EVTCAUSE.ACCERR. -/
def F.pciEvtcauseAccerr : Fld := ⟨R.pciEvtcause, 5, 1, .w1c, 0⟩

/-- PCI_EVTCAUSE.QERR. -/
def F.pciEvtcauseQerr : Fld := ⟨R.pciEvtcause, 4, 1, .w1c, 0⟩

/-- PCI_EVTCAUSE.LINKEVT. -/
def F.pciEvtcauseLinkevt : Fld := ⟨R.pciEvtcause, 3, 1, .w1c, 0⟩

/-- PCI_EVTCAUSE.ERQ. -/
def F.pciEvtcauseErq : Fld := ⟨R.pciEvtcause, 2, 1, .w1c, 0⟩

/-- PCI_EVTCAUSE.KVLOW. -/
def F.pciEvtcauseKvlow : Fld := ⟨R.pciEvtcause, 1, 1, .w1c, 0⟩

/-- PCI_EVTCAUSE.EVT. -/
def F.pciEvtcauseEvt : Fld := ⟨R.pciEvtcause, 0, 1, .w1c, 0⟩

/-- PCI_EVTCFG.EN. -/
def F.pciEvtcfgEn : Fld := ⟨R.pciEvtcfg, 16, 6, .rw, 0⟩

/-- PCI_EVTCFG.VECTOR. -/
def F.pciEvtcfgVector : Fld := ⟨R.pciEvtcfg, 0, 11, .rw, 0⟩

/-- CDC_SCMD.OP. -/
def F.cdcScmdOp : Fld := ⟨R.cdcScmd, 60, 4, .wo, 0⟩

/-- CDC_SCMD.STREAM. -/
def F.cdcScmdStream : Fld := ⟨R.cdcScmd, 48, 8, .wo, 0⟩

/-- CDC_SCMD.DESCADDR. -/
def F.cdcScmdDescaddr : Fld := ⟨R.cdcScmd, 0, 48, .wo, 0⟩

/-- CDC_SCMDSTAT.STATUS. -/
def F.cdcScmdstatStatus : Fld := ⟨R.cdcScmdstat, 24, 8, .ro, 0⟩

/-- CDC_SCMDSTAT.BUSY. -/
def F.cdcScmdstatBusy : Fld := ⟨R.cdcScmdstat, 23, 1, .ro, 0⟩

/-- CDC_SCMDSTAT.STREAM. -/
def F.cdcScmdstatStream : Fld := ⟨R.cdcScmdstat, 0, 8, .ro, 0⟩

/-- CHT_FUNC.BOUND. -/
def F.chtFuncBound : Fld := ⟨R.chtFunc, 31, 1, .lk, 0⟩

/-- CHT_FUNC.PART. -/
def F.chtFuncPart : Fld := ⟨R.chtFunc, 27, 4, .lk, 0⟩

/-- CHT_FUNC.MSIXSIZE. -/
def F.chtFuncMsixsize : Fld := ⟨R.chtFunc, 0, 12, .lk, 1⟩

/-- HBM_ID.SERIAL. -/
def F.hbmIdSerial : Fld := ⟨R.hbmId, 8, 56, .ro, 0⟩

/-- HBM_ID.STEP. -/
def F.hbmIdStep : Fld := ⟨R.hbmId, 0, 8, .ro, 0xb0⟩

/-- HBM_FWCTL.ADDR. -/
def F.hbmFwctlAddr : Fld := ⟨R.hbmFwctl, 64, 64, .wo, 0⟩

/-- HBM_FWCTL.OP. -/
def F.hbmFwctlOp : Fld := ⟨R.hbmFwctl, 62, 2, .wo, 0⟩

/-- HBM_FWCTL.LEN. -/
def F.hbmFwctlLen : Fld := ⟨R.hbmFwctl, 0, 30, .wo, 0⟩

/-- HBM_BOOTSTAT.RECOVERY. -/
def F.hbmBootstatRecovery : Fld := ⟨R.hbmBootstat, 31, 1, .ro, 0⟩

/-- HBM_BOOTSTAT.IMAGE. -/
def F.hbmBootstatImage : Fld := ⟨R.hbmBootstat, 30, 1, .ro, 0⟩

/-- HBM_BOOTSTAT.FAILA. -/
def F.hbmBootstatFaila : Fld := ⟨R.hbmBootstat, 27, 3, .ro, 0⟩

/-- HBM_BOOTSTAT.FAILB. -/
def F.hbmBootstatFailb : Fld := ⟨R.hbmBootstat, 24, 3, .ro, 0⟩

/-- HBM_BOOTSTAT.CHARTER. -/
def F.hbmBootstatCharter : Fld := ⟨R.hbmBootstat, 22, 2, .ro, 0⟩

/-- HBM_BOOTSTAT.MINSECVER. -/
def F.hbmBootstatMinsecver : Fld := ⟨R.hbmBootstat, 0, 16, .ro, 0⟩

/-- HBM_PWRSTAT.PHASE. -/
def F.hbmPwrstatPhase : Fld := ⟨R.hbmPwrstat, 29, 3, .ro, 0⟩

/-- HBM_PWRSTAT.DIR. -/
def F.hbmPwrstatDir : Fld := ⟨R.hbmPwrstat, 28, 1, .ro, 0⟩

/-- HBM_PWRSTAT.SRC. -/
def F.hbmPwrstatSrc : Fld := ⟨R.hbmPwrstat, 25, 3, .ro, 0⟩

/-- HBM_RSTCTL.LEVEL. -/
def F.hbmRstctlLevel : Fld := ⟨R.hbmRstctl, 30, 2, .wo, 0⟩

/-- HBM_RSTCTL.PART. -/
def F.hbmRstctlPart : Fld := ⟨R.hbmRstctl, 0, 4, .wo, 0⟩

/-- HBM_RSTSTAT.STATUS. -/
def F.hbmRststatStatus : Fld := ⟨R.hbmRststat, 24, 8, .ro, 0⟩

/-- HBM_RSTSTAT.BUSY. -/
def F.hbmRststatBusy : Fld := ⟨R.hbmRststat, 23, 1, .ro, 0⟩

/-- PWR_CAP.CAPMAX. -/
def F.pwrCapCapmax : Fld := ⟨R.pwrCap, 16, 11, .lk, 0xa0⟩

/-- PWR_CAP.CAP. -/
def F.pwrCapCap : Fld := ⟨R.pwrCap, 0, 11, .rw, 0xa0⟩

/-- PWR_CFG.ICCMAX. -/
def F.pwrCfgIccmax : Fld := ⟨R.pwrCfg, 48, 16, .lk, 0x1e0⟩

/-- PWR_CFG.TJTHR. -/
def F.pwrCfgTjthr : Fld := ⟨R.pwrCfg, 40, 8, .lk, 0x5f⟩

/-- PWR_CFG.EXTFREQ. -/
def F.pwrCfgExtfreq : Fld := ⟨R.pwrCfg, 32, 6, .rw, 0x10⟩

/-- PWR_OPFIX.FIXED. -/
def F.pwrOpfixFixed : Fld := ⟨R.pwrOpfix, 31, 1, .lk, 0⟩

/-- PWR_OPFIX.FREQ. -/
def F.pwrOpfixFreq : Fld := ⟨R.pwrOpfix, 0, 6, .lk, 0x20⟩

/-- PWR_POWER.PKGW. -/
def F.pwrPowerPkgw : Fld := ⟨R.pwrPower, 48, 16, .ro, 0⟩

/-- PWR_POWER.ENERGY. -/
def F.pwrPowerEnergy : Fld := ⟨R.pwrPower, 0, 48, .ro, 0⟩

/-- PWR_THR.REASON. -/
def F.pwrThrReason : Fld := ⟨R.pwrThr, 0, 7, .ro, 0⟩

/-- PWR_FGRP.GROUP. -/
def F.pwrFgrpGroup : Fld := ⟨R.pwrFgrp, 24, 8, .lk, 0⟩

/-- PWR_FGRP.GLEAD. -/
def F.pwrFgrpGlead : Fld := ⟨R.pwrFgrp, 23, 1, .ro, 0⟩

/-- PWR_FGRP.GLOST. -/
def F.pwrFgrpGlost : Fld := ⟨R.pwrFgrp, 22, 1, .ro, 0⟩

/-- PWR_FGRP.GF. -/
def F.pwrFgrpGf : Fld := ⟨R.pwrFgrp, 16, 6, .ro, 0x20⟩

/-- PWR_ISLAND.FREQ. -/
def F.pwrIslandFreq : Fld := ⟨R.pwrIsland, 26, 6, .ro, 0x20⟩

/-- PWR_ISLAND.VMV. -/
def F.pwrIslandVmv : Fld := ⟨R.pwrIsland, 16, 10, .ro, 0x320⟩

/-- PWR_ISLAND.TJ. -/
def F.pwrIslandTj : Fld := ⟨R.pwrIsland, 8, 8, .ro, 0⟩

/-- PWR_THRDUR.US. -/
def F.pwrThrdurUs : Fld := ⟨R.pwrThrdur, 0, 64, .ro, 0⟩

/-- PWR_VF.VMV. -/
def F.pwrVfVmv : Fld := ⟨R.pwrVf, 16, 10, .ro, 0⟩

/-- PWR_VF.PMAX. -/
def F.pwrVfPmax : Fld := ⟨R.pwrVf, 0, 16, .ro, 0⟩

/-- TMB_NOW.NS. -/
def F.tmbNowNs : Fld := ⟨R.tmbNow, 0, 64, .ro, 0⟩

/-- TMB_ALIGN.ALGEN. -/
def F.tmbAlignAlgen : Fld := ⟨R.tmbAlign, 48, 16, .ro, 0⟩

/-- TMB_ALIGN.ALIGNED. -/
def F.tmbAlignAligned : Fld := ⟨R.tmbAlign, 47, 1, .ro, 0⟩

/-- TMB_ALIGN.SWEEPING. -/
def F.tmbAlignSweeping : Fld := ⟨R.tmbAlign, 46, 1, .ro, 0⟩

/-- TMB_ALIGN.STATUS. -/
def F.tmbAlignStatus : Fld := ⟨R.tmbAlign, 32, 8, .ro, 0⟩

/-- TMB_ALIGN.ERRNS. -/
def F.tmbAlignErrns : Fld := ⟨R.tmbAlign, 0, 16, .ro, 0⟩

/-- TMB_CTL.SWEEP. -/
def F.tmbCtlSweep : Fld := ⟨R.tmbCtl, 0, 1, .wo, 0⟩

/-- CHT_AMDCTL.OP. -/
def F.chtAmdctlOp : Fld := ⟨R.chtAmdctl, 30, 2, .wo, 0⟩

/-- CHT_AMDADDR.ADDR. -/
def F.chtAmdaddrAddr : Fld := ⟨R.chtAmdaddr, 0, 64, .rw, 0⟩

/-- CHT_AMDSTAT.CHARTERNO. -/
def F.chtAmdstatCharterno : Fld := ⟨R.chtAmdstat, 0, 64, .ro, 0⟩

/-- CHT_AMDST2.STATUS. -/
def F.chtAmdst2Status : Fld := ⟨R.chtAmdst2, 24, 8, .ro, 0⟩

/-- CHT_AMDST2.STATE. -/
def F.chtAmdst2State : Fld := ⟨R.chtAmdst2, 22, 2, .ro, 0⟩

/-- CHT_AMDST2.AFFECTED. -/
def F.chtAmdst2Affected : Fld := ⟨R.chtAmdst2, 0, 16, .ro, 0⟩

/-- CHT_SLOTS.OWNER. -/
def F.chtSlotsOwner : Fld := ⟨R.chtSlots, 0, 64, .lk, 0⟩

/-- CHT_PART.MODE. -/
def F.chtPartMode : Fld := ⟨R.chtPart, 63, 1, .lk, 0⟩

/-- CHT_PART.FLW. -/
def F.chtPartFlw : Fld := ⟨R.chtPart, 62, 1, .lk, 0⟩

/-- CHT_PART.FLR. -/
def F.chtPartFlr : Fld := ⟨R.chtPart, 61, 1, .lk, 0⟩

/-- CHT_PART.LINKS. -/
def F.chtPartLinks : Fld := ⟨R.chtPart, 49, 12, .lk, 0⟩

/-- CHT_PART.LUNS. -/
def F.chtPartLuns : Fld := ⟨R.chtPart, 33, 16, .lk, 0⟩

/-- CHT_PART.CTXCOUNT. -/
def F.chtPartCtxcount : Fld := ⟨R.chtPart, 22, 11, .lk, 0⟩

/-- CHT_PART.CTXFIRST. -/
def F.chtPartCtxfirst : Fld := ⟨R.chtPart, 0, 10, .lk, 0⟩

/-- CHT_PREACHLO.REACH. -/
def F.chtPreachloReach : Fld := ⟨R.chtPreachlo, 0, 64, .lk, 0⟩

/-- CHT_PREACHHI.REACH. -/
def F.chtPreachhiReach : Fld := ⟨R.chtPreachhi, 0, 16, .lk, 0⟩

/-- CHT_REG.RATE. -/
def F.chtRegRate : Fld := ⟨R.chtReg, 48, 10, .lk, 0⟩

/-- CHT_REG.BURST. -/
def F.chtRegBurst : Fld := ⟨R.chtReg, 0, 20, .lk, 0⟩

/-- ERQ_STATUS.LOST. -/
def F.erqStatusLost : Fld := ⟨R.erqStatus, 32, 32, .ro, 0⟩

/-- ERQ_STATUS.STATE. -/
def F.erqStatusState : Fld := ⟨R.erqStatus, 30, 2, .ro, 0⟩

/-- ERQ_STATUS.FATALV. -/
def F.erqStatusFatalv : Fld := ⟨R.erqStatus, 29, 1, .w1c, 0⟩

/-- ERQ_STATUS.COUNT. -/
def F.erqStatusCount : Fld := ⟨R.erqStatus, 0, 11, .ro, 0⟩

/-- ERQ_POP.RSEQ. -/
def F.erqPopRseq : Fld := ⟨R.erqPop, 0, 32, .wo, 0⟩

/-- ERQ_TCTL.ADDR. -/
def F.erqTctlAddr : Fld := ⟨R.erqTctl, 64, 64, .wo, 0⟩

/-- ERQ_TCTL.OP. -/
def F.erqTctlOp : Fld := ⟨R.erqTctl, 62, 2, .wo, 0⟩

/-- ERQ_TSTAT.BUNDLEID. -/
def F.erqTstatBundleid : Fld := ⟨R.erqTstat, 32, 32, .ro, 0⟩

/-- ERQ_TSTAT.STATUS. -/
def F.erqTstatStatus : Fld := ⟨R.erqTstat, 24, 8, .ro, 0⟩

/-- ERQ_TSTAT.BUSY. -/
def F.erqTstatBusy : Fld := ⟨R.erqTstat, 23, 1, .ro, 0⟩

/-- ERQ_CTL.OP. -/
def F.erqCtlOp : Fld := ⟨R.erqCtl, 30, 2, .wo, 0⟩

/-- ERQ_CTL.CLUSTER. -/
def F.erqCtlCluster : Fld := ⟨R.erqCtl, 0, 10, .wo, 0⟩

/-- ERQ_DATA.BYTES. -/
def F.erqDataBytes : Fld := ⟨R.erqData, 0, 64, .ro, 0⟩

/-- ERQ_FATAL.BYTES. -/
def F.erqFatalBytes : Fld := ⟨R.erqFatal, 0, 64, .ro, 0⟩

/-- ERQ_RETIRED.BITS. -/
def F.erqRetiredBits : Fld := ⟨R.erqRetired, 0, 64, .ro, 0⟩

/-- MEM_OPCTL.GO. -/
def F.memOpctlGo : Fld := ⟨R.memOpctl, 31, 1, .wo, 0⟩

/-- MEM_OPCTL.OP. -/
def F.memOpctlOp : Fld := ⟨R.memOpctl, 28, 3, .wo, 0⟩

/-- MEM_OPCTL.KIND. -/
def F.memOpctlKind : Fld := ⟨R.memOpctl, 26, 2, .wo, 0⟩

/-- MEM_OPCTL.CHANNEL. -/
def F.memOpctlChannel : Fld := ⟨R.memOpctl, 24, 2, .wo, 0⟩

/-- MEM_OPCTL.SITE. -/
def F.memOpctlSite : Fld := ⟨R.memOpctl, 18, 6, .wo, 0⟩

/-- MEM_OPCTL.PATTERN. -/
def F.memOpctlPattern : Fld := ⟨R.memOpctl, 0, 8, .wo, 0⟩

/-- MEM_OPSTAT.STATUS. -/
def F.memOpstatStatus : Fld := ⟨R.memOpstat, 24, 8, .ro, 0⟩

/-- MEM_OPSTAT.BUSY. -/
def F.memOpstatBusy : Fld := ⟨R.memOpstat, 23, 1, .ro, 0⟩

/-- MEM_OPSTAT.SITE. -/
def F.memOpstatSite : Fld := ⟨R.memOpstat, 0, 6, .ro, 0⟩

/-- MEM_MGRES.HI3. -/
def F.memMgresHi3 : Fld := ⟨R.memMgres, 56, 8, .ro, 0⟩

/-- MEM_MGRES.LO3. -/
def F.memMgresLo3 : Fld := ⟨R.memMgres, 48, 8, .ro, 0⟩

/-- MEM_MGRES.HI2. -/
def F.memMgresHi2 : Fld := ⟨R.memMgres, 40, 8, .ro, 0⟩

/-- MEM_MGRES.LO2. -/
def F.memMgresLo2 : Fld := ⟨R.memMgres, 32, 8, .ro, 0⟩

/-- MEM_MGRES.HI1. -/
def F.memMgresHi1 : Fld := ⟨R.memMgres, 24, 8, .ro, 0⟩

/-- MEM_MGRES.LO1. -/
def F.memMgresLo1 : Fld := ⟨R.memMgres, 16, 8, .ro, 0⟩

/-- MEM_MGRES.HI0. -/
def F.memMgresHi0 : Fld := ⟨R.memMgres, 8, 8, .ro, 0⟩

/-- MEM_MGRES.LO0. -/
def F.memMgresLo0 : Fld := ⟨R.memMgres, 0, 8, .ro, 0⟩

/-- MEM_STATUS.STATE. -/
def F.memStatusState : Fld := ⟨R.memStatus, 29, 3, .ro, 0⟩

/-- MEM_STATUS.OWNER. -/
def F.memStatusOwner : Fld := ⟨R.memStatus, 24, 5, .lk, 0x1f⟩

/-- MEM_STATUS.RATE. -/
def F.memStatusRate : Fld := ⟨R.memStatus, 20, 4, .ro, 0⟩

/-- MEM_STATUS.CAP. -/
def F.memStatusCap : Fld := ⟨R.memStatus, 18, 2, .ro, 0⟩

/-- MEM_STATUS.RANKS. -/
def F.memStatusRanks : Fld := ⟨R.memStatus, 17, 1, .ro, 0⟩

/-- MEM_ECCCNT.UE. -/
def F.memEcccntUe : Fld := ⟨R.memEcccnt, 48, 16, .ro, 0⟩

/-- MEM_ECCCNT.PZR. -/
def F.memEcccntPzr : Fld := ⟨R.memEcccnt, 32, 16, .ro, 0⟩

/-- MEM_ECCCNT.CE. -/
def F.memEcccntCe : Fld := ⟨R.memEcccnt, 0, 32, .ro, 0⟩

/-- MEM_ECCLOG.VALID. -/
def F.memEcclogValid : Fld := ⟨R.memEcclog, 63, 1, .w1c, 0⟩

/-- MEM_ECCLOG.UNC. -/
def F.memEcclogUnc : Fld := ⟨R.memEcclog, 62, 1, .ro, 0⟩

/-- MEM_ECCLOG.INCHK. -/
def F.memEcclogInchk : Fld := ⟨R.memEcclog, 61, 1, .ro, 0⟩

/-- MEM_ECCLOG.SRC. -/
def F.memEcclogSrc : Fld := ⟨R.memEcclog, 59, 2, .ro, 0⟩

/-- MEM_ECCLOG.CHANNEL. -/
def F.memEcclogChannel : Fld := ⟨R.memEcclog, 57, 2, .ro, 0⟩

/-- MEM_ECCLOG.SYMBOL. -/
def F.memEcclogSymbol : Fld := ⟨R.memEcclog, 50, 7, .ro, 0⟩

/-- MEM_ECCLOG.OFFSET. -/
def F.memEcclogOffset : Fld := ⟨R.memEcclog, 0, 36, .ro, 0⟩

/-- MEM_SCRUB.PERIOD. -/
def F.memScrubPeriod : Fld := ⟨R.memScrub, 16, 8, .rw, 0x18⟩

/-- MEM_SCRUB.PASSES. -/
def F.memScrubPasses : Fld := ⟨R.memScrub, 0, 16, .ro, 0⟩

/-- MEM_THERM.MR4. -/
def F.memThermMr4 : Fld := ⟨R.memTherm, 8, 8, .ro, 0⟩

/-- MEM_THERM.MULT. -/
def F.memThermMult : Fld := ⟨R.memTherm, 6, 2, .ro, 0⟩

/-- MEM_THERM.HOT. -/
def F.memThermHot : Fld := ⟨R.memTherm, 5, 1, .ro, 0⟩

/-- MEM_THERM.FAST. -/
def F.memThermFast : Fld := ⟨R.memTherm, 4, 1, .ro, 0⟩

/-- FLT_STATUS.STATE. -/
def F.fltStatusState : Fld := ⟨R.fltStatus, 29, 3, .ro, 0⟩

/-- FLT_STATUS.LPC. -/
def F.fltStatusLpc : Fld := ⟨R.fltStatus, 24, 5, .ro, 0⟩

/-- FLT_STATUS.RATE. -/
def F.fltStatusRate : Fld := ⟨R.fltStatus, 22, 2, .ro, 0⟩

/-- FLT_STATUS.REBUILD. -/
def F.fltStatusRebuild : Fld := ⟨R.fltStatus, 16, 6, .ro, 0⟩

/-- FLT_STATUS.REBUILDSHARE. -/
def F.fltStatusRebuildshare : Fld := ⟨R.fltStatus, 12, 4, .rw, 1⟩

/-- FLT_STATUS.LOSTLUN. -/
def F.fltStatusLostlun : Fld := ⟨R.fltStatus, 0, 12, .ro, 0xfff⟩

/-- FLT_HUPCFG.CAPMF. -/
def F.fltHupcfgCapmf : Fld := ⟨R.fltHupcfg, 48, 16, .rw, 0⟩

/-- FLT_HUPCFG.VMIN. -/
def F.fltHupcfgVmin : Fld := ⟨R.fltHupcfg, 36, 12, .rw, 0⟩

/-- FLT_HUPCFG.PFLUSH. -/
def F.fltHupcfgPflush : Fld := ⟨R.fltHupcfg, 24, 12, .rw, 0⟩

/-- FLT_HUPCFG.FLUSHRATE. -/
def F.fltHupcfgFlushrate : Fld := ⟨R.fltHupcfg, 12, 12, .rw, 0⟩

/-- FLT_HUPCFG.STAGECAP. -/
def F.fltHupcfgStagecap : Fld := ⟨R.fltHupcfg, 0, 12, .rw, 0⟩

/-- FLT_HUP.STAGELIM. -/
def F.fltHupStagelim : Fld := ⟨R.fltHup, 48, 16, .ro, 0⟩

/-- FLT_HUP.STAGED. -/
def F.fltHupStaged : Fld := ⟨R.fltHup, 32, 16, .ro, 0⟩

/-- FLT_HUP.STATE. -/
def F.fltHupState : Fld := ⟨R.fltHup, 30, 2, .ro, 0⟩

/-- FLT_HUP.VMEAS. -/
def F.fltHupVmeas : Fld := ⟨R.fltHup, 0, 14, .ro, 0⟩

/-- FLT_RETCFG.RETMAX. -/
def F.fltRetcfgRetmax : Fld := ⟨R.fltRetcfg, 16, 16, .rw, 0x16d⟩

/-- FLT_RETCFG.RETDAYS. -/
def F.fltRetcfgRetdays : Fld := ⟨R.fltRetcfg, 0, 8, .rw, 7⟩

/-- FLT_WEAR.DENSEUSED. -/
def F.fltWearDenseused : Fld := ⟨R.fltWear, 48, 16, .ro, 0⟩

/-- FLT_WEAR.SLCUSED. -/
def F.fltWearSlcused : Fld := ⟨R.fltWear, 32, 16, .ro, 0⟩

/-- FLT_WEAR.GROWNBAD. -/
def F.fltWearGrownbad : Fld := ⟨R.fltWear, 0, 32, .ro, 0⟩

/-- FLT_CNT0.RETRY. -/
def F.fltCnt0Retry : Fld := ⟨R.fltCnt0, 32, 32, .ro, 0⟩

/-- FLT_CNT0.SOFT. -/
def F.fltCnt0Soft : Fld := ⟨R.fltCnt0, 0, 32, .ro, 0⟩

/-- FLT_CNT1.PARREC. -/
def F.fltCnt1Parrec : Fld := ⟨R.fltCnt1, 32, 32, .ro, 0⟩

/-- FLT_CNT1.POISONED. -/
def F.fltCnt1Poisoned : Fld := ⟨R.fltCnt1, 0, 32, .ro, 0⟩

/-- FLT_SLCRATE.RATING. -/
def F.fltSlcrateRating : Fld := ⟨R.fltSlcrate, 0, 32, .lk, 0⟩

/-- FLT_RGNINFO.TYPE. -/
def F.fltRgninfoType : Fld := ⟨R.fltRgninfo, 62, 2, .lk, 0⟩

/-- FLT_RGNINFO.OWNER. -/
def F.fltRgninfoOwner : Fld := ⟨R.fltRgninfo, 58, 4, .lk, 0⟩

/-- FLT_RGNINFO.PEND. -/
def F.fltRgninfoPend : Fld := ⟨R.fltRgninfo, 57, 1, .ro, 0⟩

/-- FLT_RGNINFO.WORN. -/
def F.fltRgninfoWorn : Fld := ⟨R.fltRgninfo, 56, 1, .ro, 0⟩

/-- FLT_RGNINFO.SIZE. -/
def F.fltRgninfoSize : Fld := ⟨R.fltRgninfo, 0, 41, .lk, 0⟩

/-- FLT_RGNVER.BUILDING. -/
def F.fltRgnverBuilding : Fld := ⟨R.fltRgnver, 32, 32, .ro, 0⟩

/-- FLT_RGNVER.COMMITTED. -/
def F.fltRgnverCommitted : Fld := ⟨R.fltRgnver, 0, 32, .ro, 0⟩

/-- FLT_STAGE.SITE. -/
def F.fltStageSite : Fld := ⟨R.fltStage, 16, 6, .lk, 0⟩

/-- FLT_STAGE.SIZE. -/
def F.fltStageSize : Fld := ⟨R.fltStage, 0, 11, .lk, 0⟩

/-- CDC_ECTL.ENGDIS. -/
def F.cdcEctlEngdis : Fld := ⟨R.cdcEctl, 0, 1, .rw, 0⟩

/-- CDC_ECNT.CONCBLK. -/
def F.cdcEcntConcblk : Fld := ⟨R.cdcEcnt, 32, 32, .ro, 0⟩

/-- CDC_ECNT.LATE. -/
def F.cdcEcntLate : Fld := ⟨R.cdcEcnt, 16, 16, .ro, 0⟩

/-- CDC_ECNT.PREEMPT. -/
def F.cdcEcntPreempt : Fld := ⟨R.cdcEcnt, 0, 16, .ro, 0⟩

/-- CDC_SSTAT.CTAIL. -/
def F.cdcSstatCtail : Fld := ⟨R.cdcSstat, 96, 32, .ro, 0⟩

/-- CDC_SSTAT.FHEAD. -/
def F.cdcSstatFhead : Fld := ⟨R.cdcSstat, 64, 32, .ro, 0⟩

/-- CDC_SSTAT.REFMARKS. -/
def F.cdcSstatRefmarks : Fld := ⟨R.cdcSstat, 32, 32, .ro, 0⟩

/-- CDC_SSTAT.STATE. -/
def F.cdcSstatState : Fld := ⟨R.cdcSstat, 30, 2, .ro, 0⟩

/-- CDC_SSTAT.SERR. -/
def F.cdcSstatSerr : Fld := ⟨R.cdcSstat, 29, 1, .w1c, 0⟩

/-- CDC_SSTAT.ENGINE. -/
def F.cdcSstatEngine : Fld := ⟨R.cdcSstat, 20, 3, .ro, 0⟩

/-- CDC_SSTAT.PART. -/
def F.cdcSstatPart : Fld := ⟨R.cdcSstat, 16, 4, .ro, 0⟩

/-- CDC_SSTAT.OWNER. -/
def F.cdcSstatOwner : Fld := ⟨R.cdcSstat, 0, 6, .ro, 0⟩

/-- CDC_SHARE.STREAMS. -/
def F.cdcShareStreams : Fld := ⟨R.cdcShare, 16, 8, .lk, 0⟩

/-- CDC_SHARE.LIVERATE. -/
def F.cdcShareLiverate : Fld := ⟨R.cdcShare, 8, 8, .lk, 0⟩

/-- CDC_SHARE.WEIGHT. -/
def F.cdcShareWeight : Fld := ⟨R.cdcShare, 0, 8, .lk, 0⟩

/-- PCI_QSTAT.CQTAIL. -/
def F.pciQstatCqtail : Fld := ⟨R.pciQstat, 96, 32, .ro, 0⟩

/-- PCI_QSTAT.SQHEAD. -/
def F.pciQstatSqhead : Fld := ⟨R.pciQstat, 64, 32, .ro, 0⟩

/-- PCI_QSTAT.SKIPPED. -/
def F.pciQstatSkipped : Fld := ⟨R.pciQstat, 32, 32, .ro, 0⟩

/-- PCI_QSTAT.STATE. -/
def F.pciQstatState : Fld := ⟨R.pciQstat, 30, 2, .ro, 0⟩

/-- PCI_QSTAT.QERR. -/
def F.pciQstatQerr : Fld := ⟨R.pciQstat, 29, 1, .w1c, 0⟩

/-- PCI_QSTAT.OWNER. -/
def F.pciQstatOwner : Fld := ⟨R.pciQstat, 0, 12, .ro, 0⟩

/-- ZLK_ARCHCFG.LEADPRIO. -/
def F.zlkArchcfgLeadprio : Fld := ⟨R.zlkArchcfg, 24, 8, .lk, 0⟩

/-- ZLK_ARCHCFG.TOPO. -/
def F.zlkArchcfgTopo : Fld := ⟨R.zlkArchcfg, 22, 2, .lk, 0⟩

/-- ZLK_ARCHCFG.NX. -/
def F.zlkArchcfgNx : Fld := ⟨R.zlkArchcfg, 8, 9, .lk, 2⟩

/-- ZLK_ARCHCFG.NY. -/
def F.zlkArchcfgNy : Fld := ⟨R.zlkArchcfg, 0, 8, .lk, 1⟩

/-- ZLK_ARCH.FORMNO. -/
def F.zlkArchFormno : Fld := ⟨R.zlkArch, 48, 16, .ro, 0⟩

/-- ZLK_ARCH.STATUS. -/
def F.zlkArchStatus : Fld := ⟨R.zlkArch, 40, 8, .ro, 0⟩

/-- ZLK_ARCH.STATE. -/
def F.zlkArchState : Fld := ⟨R.zlkArch, 37, 3, .ro, 0⟩

/-- ZLK_ARCH.LEAD. -/
def F.zlkArchLead : Fld := ⟨R.zlkArch, 36, 1, .ro, 0⟩

/-- ZLK_ARCH.NDEV. -/
def F.zlkArchNdev : Fld := ⟨R.zlkArch, 25, 11, .ro, 0⟩

/-- ZLK_ARCH.DEVNUM. -/
def F.zlkArchDevnum : Fld := ⟨R.zlkArch, 0, 16, .ro, 0xffff⟩

/-- ZLK_ARCHCTL.FORM. -/
def F.zlkArchctlForm : Fld := ⟨R.zlkArchctl, 0, 1, .wo, 0⟩

/-- ZLK_EYECTL.GO. -/
def F.zlkEyectlGo : Fld := ⟨R.zlkEyectl, 31, 1, .wo, 0⟩

/-- ZLK_EYECTL.TGT. -/
def F.zlkEyectlTgt : Fld := ⟨R.zlkEyectl, 11, 4, .wo, 0⟩

/-- ZLK_EYECTL.PORT. -/
def F.zlkEyectlPort : Fld := ⟨R.zlkEyectl, 7, 4, .wo, 0⟩

/-- ZLK_EYECTL.LANE. -/
def F.zlkEyectlLane : Fld := ⟨R.zlkEyectl, 4, 3, .wo, 0⟩

/-- ZLK_EYERES.STATUS. -/
def F.zlkEyeresStatus : Fld := ⟨R.zlkEyeres, 56, 8, .ro, 0⟩

/-- ZLK_EYERES.BUSY. -/
def F.zlkEyeresBusy : Fld := ⟨R.zlkEyeres, 55, 1, .ro, 0⟩

/-- ZLK_EYERES.HEIGHT. -/
def F.zlkEyeresHeight : Fld := ⟨R.zlkEyeres, 16, 16, .ro, 0⟩

/-- ZLK_EYERES.WIDTH. -/
def F.zlkEyeresWidth : Fld := ⟨R.zlkEyeres, 0, 16, .ro, 0⟩

/-- ZLK_PCFG.ROLE. -/
def F.zlkPcfgRole : Fld := ⟨R.zlkPcfg, 31, 1, .lk, 0⟩

/-- ZLK_PCFG.REACH. -/
def F.zlkPcfgReach : Fld := ⟨R.zlkPcfg, 30, 1, .lk, 0⟩

/-- ZLK_PCFG.RETRYLIM. -/
def F.zlkPcfgRetrylim : Fld := ⟨R.zlkPcfg, 0, 16, .rw, 0x2710⟩

/-- ZLK_PSTAT.EVTNO. -/
def F.zlkPstatEvtno : Fld := ⟨R.zlkPstat, 32, 32, .ro, 0⟩

/-- ZLK_PSTAT.STATE. -/
def F.zlkPstatState : Fld := ⟨R.zlkPstat, 29, 3, .ro, 0⟩

/-- ZLK_PSTAT.NARROW. -/
def F.zlkPstatNarrow : Fld := ⟨R.zlkPstat, 28, 1, .ro, 0⟩

/-- ZLK_PSTAT.HALF. -/
def F.zlkPstatHalf : Fld := ⟨R.zlkPstat, 27, 1, .ro, 0⟩

/-- ZLK_PSTAT.LANEREV. -/
def F.zlkPstatLanerev : Fld := ⟨R.zlkPstat, 26, 1, .ro, 0⟩

/-- ZLK_PSTAT.POLINV. -/
def F.zlkPstatPolinv : Fld := ⟨R.zlkPstat, 18, 8, .ro, 0⟩

/-- ZLK_PSTAT.FAULTY. -/
def F.zlkPstatFaulty : Fld := ⟨R.zlkPstat, 10, 8, .ro, 0⟩

/-- ZLK_NBR.NBRPORT. -/
def F.zlkNbrNbrport : Fld := ⟨R.zlkNbr, 60, 4, .ro, 0⟩

/-- ZLK_NBR.NBRSERIAL. -/
def F.zlkNbrNbrserial : Fld := ⟨R.zlkNbr, 0, 56, .ro, 0⟩

/-- ZLK_PCTL.RETRAIN. -/
def F.zlkPctlRetrain : Fld := ⟨R.zlkPctl, 0, 1, .wo, 0⟩

/-- ZLK_CNT0.REPLAY. -/
def F.zlkCnt0Replay : Fld := ⟨R.zlkCnt0, 32, 32, .ro, 0⟩

/-- ZLK_CNT0.DAMAGED. -/
def F.zlkCnt0Damaged : Fld := ⟨R.zlkCnt0, 0, 32, .ro, 0⟩

/-- ZLK_CNT1.FECSYM. -/
def F.zlkCnt1Fecsym : Fld := ⟨R.zlkCnt1, 32, 32, .ro, 0⟩

/-- ZLK_CNT1.FECUNC. -/
def F.zlkCnt1Fecunc : Fld := ⟨R.zlkCnt1, 16, 16, .ro, 0⟩

/-- ZLK_CNT1.RXREF. -/
def F.zlkCnt1Rxref : Fld := ⟨R.zlkCnt1, 0, 16, .ro, 0⟩

/-- ZLK_ARRALLOC.ARRCOUNT. -/
def F.zlkArrallocArrcount : Fld := ⟨R.zlkArralloc, 32, 13, .lk, 0⟩

/-- ZLK_ARRALLOC.ARRFIRST. -/
def F.zlkArrallocArrfirst : Fld := ⟨R.zlkArralloc, 0, 12, .lk, 0⟩

/-- ZLK_PGEN.GEN. -/
def F.zlkPgenGen : Fld := ⟨R.zlkPgen, 0, 32, .rw, 0⟩

/-- ZLK_ARR.COUNT. -/
def F.zlkArrCount : Fld := ⟨R.zlkArr, 0, 64, .rw, 0⟩

/-- ZLK_ARRCFG.LOST. -/
def F.zlkArrcfgLost : Fld := ⟨R.zlkArrcfg, 31, 1, .w1c, 0⟩

/-- ZLK_ARRCFG.PORTS. -/
def F.zlkArrcfgPorts : Fld := ⟨R.zlkArrcfg, 0, 12, .rw, 0⟩

/-- CNT_SITERD.BYTES. -/
def F.cntSiterdBytes : Fld := ⟨R.cntSiterd, 0, 64, .ro, 0⟩

/-- CNT_SITEWR.BYTES. -/
def F.cntSitewrBytes : Fld := ⟨R.cntSitewr, 0, 64, .ro, 0⟩

/-- CNT_TRCFG.LAYERHI. -/
def F.cntTrcfgLayerhi : Fld := ⟨R.cntTrcfg, 112, 16, .rw, 0xffff⟩

/-- CNT_TRCFG.LAYERLO. -/
def F.cntTrcfgLayerlo : Fld := ⟨R.cntTrcfg, 96, 16, .rw, 0⟩

/-- CNT_TRCFG.BASE. -/
def F.cntTrcfgBase : Fld := ⟨R.cntTrcfg, 48, 48, .rw, 0⟩

/-- CNT_TRCFG.KINDS. -/
def F.cntTrcfgKinds : Fld := ⟨R.cntTrcfg, 8, 4, .rw, 0xf⟩

/-- CNT_TRCFG.RLOG2. -/
def F.cntTrcfgRlog2 : Fld := ⟨R.cntTrcfg, 4, 4, .rw, 0⟩

/-- CNT_TRCFG.CFGERR. -/
def F.cntTrcfgCfgerr : Fld := ⟨R.cntTrcfg, 3, 1, .w1c, 0⟩

/-- CNT_TRCFG.WRAP. -/
def F.cntTrcfgWrap : Fld := ⟨R.cntTrcfg, 1, 1, .rw, 0⟩

/-- CNT_TRCFG.EN. -/
def F.cntTrcfgEn : Fld := ⟨R.cntTrcfg, 0, 1, .rw, 0⟩

/-- CNT_TRPTR.LOST. -/
def F.cntTrptrLost : Fld := ⟨R.cntTrptr, 64, 32, .ro, 0⟩

/-- CNT_TRPTR.TAIL. -/
def F.cntTrptrTail : Fld := ⟨R.cntTrptr, 32, 32, .ro, 0⟩

/-- CNT_TRPTR.HEAD. -/
def F.cntTrptrHead : Fld := ⟨R.cntTrptr, 0, 32, .rw, 0⟩

/-- CNT_REGWAIT.WAITNS. -/
def F.cntRegwaitWaitns : Fld := ⟨R.cntRegwait, 0, 64, .ro, 0⟩

/-- SHT_TOKALLOC.TOKCOUNT. -/
def F.shtTokallocTokcount : Fld := ⟨R.shtTokalloc, 32, 17, .lk, 0⟩

/-- SHT_TOKALLOC.TOKFIRST. -/
def F.shtTokallocTokfirst : Fld := ⟨R.shtTokalloc, 0, 16, .lk, 0⟩

/-- SHT_MAXLEN.MAXCYC. -/
def F.shtMaxlenMaxcyc : Fld := ⟨R.shtMaxlen, 0, 40, .rw, 0⟩

/-- SHT_NUMCTL.FLUSHED. -/
def F.shtNumctlFlushed : Fld := ⟨R.shtNumctl, 8, 1, .w1c, 0⟩

/-- SHT_NUMCTL.FTZ. -/
def F.shtNumctlFtz : Fld := ⟨R.shtNumctl, 0, 1, .rw, 0⟩

/-- SHT_WDOG.LIMIT. -/
def F.shtWdogLimit : Fld := ⟨R.shtWdog, 0, 16, .rw, 0x2710⟩

/-- SHT_CTXSTAT.STATE. -/
def F.shtCtxstatState : Fld := ⟨R.shtCtxstat, 30, 2, .ro, 0⟩

/-- SHT_CTXSTAT.CLASS. -/
def F.shtCtxstatClass : Fld := ⟨R.shtCtxstat, 29, 1, .ro, 0⟩

/-- SHT_CTXSTAT.PART. -/
def F.shtCtxstatPart : Fld := ⟨R.shtCtxstat, 25, 4, .ro, 0⟩

/-- SHT_CTXSTAT.SHARE. -/
def F.shtCtxstatShare : Fld := ⟨R.shtCtxstat, 16, 9, .ro, 0⟩

/-- SHT_CTXSTAT.FSTATUS. -/
def F.shtCtxstatFstatus : Fld := ⟨R.shtCtxstat, 8, 8, .ro, 0⟩

/-- SHT_CTXSTAT.OWNER. -/
def F.shtCtxstatOwner : Fld := ⟨R.shtCtxstat, 0, 6, .ro, 0⟩

/-- SHT_CREG.VALUE. -/
def F.shtCregValue : Fld := ⟨R.shtCreg, 0, 32, .rw, 0⟩

/-- SHT_TOK.VALUE. -/
def F.shtTokValue : Fld := ⟨R.shtTok, 0, 32, .rw, 0⟩

/-- SHT_TOKADD.INC. -/
def F.shtTokaddInc : Fld := ⟨R.shtTokadd, 0, 32, .wo, 0⟩

/-- ARY_STRCYC.STRCYC. -/
def F.aryStrcycStrcyc : Fld := ⟨R.aryStrcyc, 0, 64, .ro, 0⟩

/-- ARY_STRMAX.STRMAX. -/
def F.aryStrmaxStrmax : Fld := ⟨R.aryStrmax, 0, 64, .ro, 0⟩

/-- ARY_LDWAIT.LDWAIT. -/
def F.aryLdwaitLdwait : Fld := ⟨R.aryLdwait, 0, 64, .ro, 0⟩

/-- ARY_CODIG.CODIG. -/
def F.aryCodigCodig : Fld := ⟨R.aryCodig, 0, 64, .ro, 0⟩

/-- ARY_COREF.COREF. -/
def F.aryCorefCoref : Fld := ⟨R.aryCoref, 0, 64, .ro, 0⟩

/-- ARY_COROWS.ZROWS. -/
def F.aryCorowsZrows : Fld := ⟨R.aryCorows, 32, 32, .ro, 0⟩

/-- ARY_COROWS.DROWS. -/
def F.aryCorowsDrows : Fld := ⟨R.aryCorows, 0, 32, .ro, 0⟩

/-- ARY_COSKIP.REFRESH. -/
def F.aryCoskipRefresh : Fld := ⟨R.aryCoskip, 48, 16, .ro, 0⟩

/-- ARY_COSKIP.NONFIN. -/
def F.aryCoskipNonfin : Fld := ⟨R.aryCoskip, 32, 16, .ro, 0⟩

/-- ARY_COSKIP.QUIET. -/
def F.aryCoskipQuiet : Fld := ⟨R.aryCoskip, 0, 32, .ro, 0⟩

/-- SFU_PIPEMAP.RETIRED. -/
def F.sfuPipemapRetired : Fld := ⟨R.sfuPipemap, 0, 32, .ro, 0⟩

/-- SFU_STORE.IMAGEID. -/
def F.sfuStoreImageid : Fld := ⟨R.sfuStore, 0, 32, .ro, 0⟩

/-- SFU_MODE.COMPAT. -/
def F.sfuModeCompat : Fld := ⟨R.sfuMode, 0, 1, .rw, 0⟩

/-- RNG_LSEED.LSEED. -/
def F.rngLseedLseed : Fld := ⟨R.rngLseed, 0, 64, .rw, 0⟩

/-- RNG_LSALT.LSALT. -/
def F.rngLsaltLsalt : Fld := ⟨R.rngLsalt, 0, 16, .rw, 0⟩

/-- KVT_SLOTS.RING. -/
def F.kvtSlotsRing : Fld := ⟨R.kvtSlots, 31, 1, .lk, 0⟩

/-- KVT_SLOTS.SLOTCOUNT. -/
def F.kvtSlotsSlotcount : Fld := ⟨R.kvtSlots, 15, 15, .lk, 0⟩

/-- KVT_SLOTS.SLOTFIRST. -/
def F.kvtSlotsSlotfirst : Fld := ⟨R.kvtSlots, 0, 14, .lk, 0⟩

/-- KVT_POOL.POOLADDR. -/
def F.kvtPoolPooladdr : Fld := ⟨R.kvtPool, 0, 48, .rw, 0⟩

/-- KVT_CTRL.INIT. -/
def F.kvtCtrlInit : Fld := ⟨R.kvtCtrl, 0, 1, .wo, 0⟩

/-- KVT_STATE.FREECNT. -/
def F.kvtStateFreecnt : Fld := ⟨R.kvtState, 32, 28, .ro, 0⟩

/-- KVT_STATE.LOWEVT. -/
def F.kvtStateLowevt : Fld := ⟨R.kvtState, 3, 1, .w1c, 0⟩

/-- KVT_STATE.INITERR. -/
def F.kvtStateIniterr : Fld := ⟨R.kvtState, 2, 1, .ro, 0⟩

/-- KVT_STATE.STATE. -/
def F.kvtStateState : Fld := ⟨R.kvtState, 0, 2, .ro, 0⟩

/-- KVT_LOWMARK.LOWMARK. -/
def F.kvtLowmarkLowmark : Fld := ⟨R.kvtLowmark, 0, 28, .rw, 0⟩

/-- KVT_CNT0.ALLOCFAIL. -/
def F.kvtCnt0Allocfail : Fld := ⟨R.kvtCnt0, 32, 32, .ro, 0⟩

/-- KVT_CNT0.COW. -/
def F.kvtCnt0Cow : Fld := ⟨R.kvtCnt0, 0, 32, .ro, 0⟩

/-- KVT_CNT1.STALLFETCH. -/
def F.kvtCnt1Stallfetch : Fld := ⟨R.kvtCnt1, 32, 32, .ro, 0⟩

/-- KVT_CNT1.PREFETCH. -/
def F.kvtCnt1Prefetch : Fld := ⟨R.kvtCnt1, 0, 32, .ro, 0⟩

/-- KVT_STALLNS.STALLNS. -/
def F.kvtStallnsStallns : Fld := ⟨R.kvtStallns, 0, 64, .ro, 0⟩

/-- CNT_CLCYC.CYC. -/
def F.cntClcycCyc : Fld := ⟨R.cntClcyc, 0, 64, .ro, 0⟩

/-- CNT_FLUSH.ELEMS. -/
def F.cntFlushElems : Fld := ⟨R.cntFlush, 0, 64, .ro, 0⟩

/-- CNT_TEST.PASS. -/
def F.cntTestPass : Fld := ⟨R.cntTest, 32, 32, .ro, 0⟩

/-- CNT_TEST.FAIL. -/
def F.cntTestFail : Fld := ⟨R.cntTest, 0, 32, .ro, 0⟩

/-- PCI_SQDB.SQTAIL. -/
def F.pciSqdbSqtail : Fld := ⟨R.pciSqdb, 0, 32, .wo, 0⟩

/-- PCI_CQDB.CQHEAD. -/
def F.pciCqdbCqhead : Fld := ⟨R.pciCqdb, 0, 32, .wo, 0⟩

/-- CDC_FDB.FTAIL. -/
def F.cdcFdbFtail : Fld := ⟨R.cdcFdb, 0, 32, .wo, 0⟩

/-- CDC_CDB.CHEAD. -/
def F.cdcCdbChead : Fld := ⟨R.cdcCdb, 0, 32, .wo, 0⟩

/-- Every register. -/
def allRegs : List Reg :=
  [R.shtCtxcmd, R.shtCtxcmdstat, R.shtCtxdesc, R.pciQcmd, R.pciQcmdstat, R.pciQdesc, R.pciEvtcause, R.pciEvtcfg] ++
  [R.cdcScmd, R.cdcScmdstat, R.chtFunc, R.hbmId, R.hbmFwctl, R.hbmBootstat, R.hbmPwrstat, R.hbmRstctl] ++
  [R.hbmRststat, R.pwrCap, R.pwrCfg, R.pwrOpfix, R.pwrPower, R.pwrThr, R.pwrFgrp, R.pwrIsland] ++
  [R.pwrThrdur, R.pwrVf, R.tmbNow, R.tmbAlign, R.tmbCtl, R.chtAmdctl, R.chtAmdaddr, R.chtAmdstat] ++
  [R.chtAmdst2, R.chtSlots, R.chtPart, R.chtPreachlo, R.chtPreachhi, R.chtReg, R.erqStatus, R.erqPop] ++
  [R.erqTctl, R.erqTstat, R.erqCtl, R.erqData, R.erqFatal, R.erqRetired, R.memOpctl, R.memOpstat] ++
  [R.memMgres, R.memStatus, R.memEcccnt, R.memEcclog, R.memScrub, R.memTherm, R.fltStatus, R.fltHupcfg] ++
  [R.fltHup, R.fltRetcfg, R.fltWear, R.fltCnt0, R.fltCnt1, R.fltSlcrate, R.fltRgninfo, R.fltRgnver] ++
  [R.fltStage, R.cdcEctl, R.cdcEcnt, R.cdcSstat, R.cdcShare, R.pciQstat, R.zlkArchcfg, R.zlkArch] ++
  [R.zlkArchctl, R.zlkEyectl, R.zlkEyeres, R.zlkPcfg, R.zlkPstat, R.zlkNbr, R.zlkPctl, R.zlkCnt0] ++
  [R.zlkCnt1, R.zlkArralloc, R.zlkPgen, R.zlkArr, R.zlkArrcfg, R.cntSiterd, R.cntSitewr, R.cntTrcfg] ++
  [R.cntTrptr, R.cntRegwait, R.shtTokalloc, R.shtMaxlen, R.shtNumctl, R.shtWdog, R.shtCtxstat, R.shtCreg] ++
  [R.shtTok, R.shtTokadd, R.aryStrcyc, R.aryStrmax, R.aryLdwait, R.aryCodig, R.aryCoref, R.aryCorows] ++
  [R.aryCoskip, R.sfuPipemap, R.sfuStore, R.sfuMode, R.rngLseed, R.rngLsalt, R.kvtSlots, R.kvtPool] ++
  [R.kvtCtrl, R.kvtState, R.kvtLowmark, R.kvtCnt0, R.kvtCnt1, R.kvtStallns, R.cntClcyc, R.cntFlush] ++
  [R.cntTest, R.pciSqdb, R.pciCqdb, R.cdcFdb, R.cdcCdb]

/-- Every named field. -/
def allFlds : List Fld :=
  [F.shtCtxcmdOp, F.shtCtxcmdCtx, F.shtCtxcmdQueue, F.shtCtxcmdstatStatus, F.shtCtxcmdstatBusy, F.shtCtxcmdstatCtx] ++
  [F.shtCtxdescBytes, F.pciQcmdOp, F.pciQcmdQueue, F.pciQcmdstatStatus, F.pciQcmdstatBusy, F.pciQcmdstatQlimit] ++
  [F.pciQcmdstatQueue, F.pciQdescBytes, F.pciEvtcauseAccerr, F.pciEvtcauseQerr, F.pciEvtcauseLinkevt, F.pciEvtcauseErq] ++
  [F.pciEvtcauseKvlow, F.pciEvtcauseEvt, F.pciEvtcfgEn, F.pciEvtcfgVector, F.cdcScmdOp, F.cdcScmdStream] ++
  [F.cdcScmdDescaddr, F.cdcScmdstatStatus, F.cdcScmdstatBusy, F.cdcScmdstatStream, F.chtFuncBound, F.chtFuncPart] ++
  [F.chtFuncMsixsize, F.hbmIdSerial, F.hbmIdStep, F.hbmFwctlAddr, F.hbmFwctlOp, F.hbmFwctlLen] ++
  [F.hbmBootstatRecovery, F.hbmBootstatImage, F.hbmBootstatFaila, F.hbmBootstatFailb, F.hbmBootstatCharter, F.hbmBootstatMinsecver] ++
  [F.hbmPwrstatPhase, F.hbmPwrstatDir, F.hbmPwrstatSrc, F.hbmRstctlLevel, F.hbmRstctlPart, F.hbmRststatStatus] ++
  [F.hbmRststatBusy, F.pwrCapCapmax, F.pwrCapCap, F.pwrCfgIccmax, F.pwrCfgTjthr, F.pwrCfgExtfreq] ++
  [F.pwrOpfixFixed, F.pwrOpfixFreq, F.pwrPowerPkgw, F.pwrPowerEnergy, F.pwrThrReason, F.pwrFgrpGroup] ++
  [F.pwrFgrpGlead, F.pwrFgrpGlost, F.pwrFgrpGf, F.pwrIslandFreq, F.pwrIslandVmv, F.pwrIslandTj] ++
  [F.pwrThrdurUs, F.pwrVfVmv, F.pwrVfPmax, F.tmbNowNs, F.tmbAlignAlgen, F.tmbAlignAligned] ++
  [F.tmbAlignSweeping, F.tmbAlignStatus, F.tmbAlignErrns, F.tmbCtlSweep, F.chtAmdctlOp, F.chtAmdaddrAddr] ++
  [F.chtAmdstatCharterno, F.chtAmdst2Status, F.chtAmdst2State, F.chtAmdst2Affected, F.chtSlotsOwner, F.chtPartMode] ++
  [F.chtPartFlw, F.chtPartFlr, F.chtPartLinks, F.chtPartLuns, F.chtPartCtxcount, F.chtPartCtxfirst] ++
  [F.chtPreachloReach, F.chtPreachhiReach, F.chtRegRate, F.chtRegBurst, F.erqStatusLost, F.erqStatusState] ++
  [F.erqStatusFatalv, F.erqStatusCount, F.erqPopRseq, F.erqTctlAddr, F.erqTctlOp, F.erqTstatBundleid] ++
  [F.erqTstatStatus, F.erqTstatBusy, F.erqCtlOp, F.erqCtlCluster, F.erqDataBytes, F.erqFatalBytes] ++
  [F.erqRetiredBits, F.memOpctlGo, F.memOpctlOp, F.memOpctlKind, F.memOpctlChannel, F.memOpctlSite] ++
  [F.memOpctlPattern, F.memOpstatStatus, F.memOpstatBusy, F.memOpstatSite, F.memMgresHi3, F.memMgresLo3] ++
  [F.memMgresHi2, F.memMgresLo2, F.memMgresHi1, F.memMgresLo1, F.memMgresHi0, F.memMgresLo0] ++
  [F.memStatusState, F.memStatusOwner, F.memStatusRate, F.memStatusCap, F.memStatusRanks, F.memEcccntUe] ++
  [F.memEcccntPzr, F.memEcccntCe, F.memEcclogValid, F.memEcclogUnc, F.memEcclogInchk, F.memEcclogSrc] ++
  [F.memEcclogChannel, F.memEcclogSymbol, F.memEcclogOffset, F.memScrubPeriod, F.memScrubPasses, F.memThermMr4] ++
  [F.memThermMult, F.memThermHot, F.memThermFast, F.fltStatusState, F.fltStatusLpc, F.fltStatusRate] ++
  [F.fltStatusRebuild, F.fltStatusRebuildshare, F.fltStatusLostlun, F.fltHupcfgCapmf, F.fltHupcfgVmin, F.fltHupcfgPflush] ++
  [F.fltHupcfgFlushrate, F.fltHupcfgStagecap, F.fltHupStagelim, F.fltHupStaged, F.fltHupState, F.fltHupVmeas] ++
  [F.fltRetcfgRetmax, F.fltRetcfgRetdays, F.fltWearDenseused, F.fltWearSlcused, F.fltWearGrownbad, F.fltCnt0Retry] ++
  [F.fltCnt0Soft, F.fltCnt1Parrec, F.fltCnt1Poisoned, F.fltSlcrateRating, F.fltRgninfoType, F.fltRgninfoOwner] ++
  [F.fltRgninfoPend, F.fltRgninfoWorn, F.fltRgninfoSize, F.fltRgnverBuilding, F.fltRgnverCommitted, F.fltStageSite] ++
  [F.fltStageSize, F.cdcEctlEngdis, F.cdcEcntConcblk, F.cdcEcntLate, F.cdcEcntPreempt, F.cdcSstatCtail] ++
  [F.cdcSstatFhead, F.cdcSstatRefmarks, F.cdcSstatState, F.cdcSstatSerr, F.cdcSstatEngine, F.cdcSstatPart] ++
  [F.cdcSstatOwner, F.cdcShareStreams, F.cdcShareLiverate, F.cdcShareWeight, F.pciQstatCqtail, F.pciQstatSqhead] ++
  [F.pciQstatSkipped, F.pciQstatState, F.pciQstatQerr, F.pciQstatOwner, F.zlkArchcfgLeadprio, F.zlkArchcfgTopo] ++
  [F.zlkArchcfgNx, F.zlkArchcfgNy, F.zlkArchFormno, F.zlkArchStatus, F.zlkArchState, F.zlkArchLead] ++
  [F.zlkArchNdev, F.zlkArchDevnum, F.zlkArchctlForm, F.zlkEyectlGo, F.zlkEyectlTgt, F.zlkEyectlPort] ++
  [F.zlkEyectlLane, F.zlkEyeresStatus, F.zlkEyeresBusy, F.zlkEyeresHeight, F.zlkEyeresWidth, F.zlkPcfgRole] ++
  [F.zlkPcfgReach, F.zlkPcfgRetrylim, F.zlkPstatEvtno, F.zlkPstatState, F.zlkPstatNarrow, F.zlkPstatHalf] ++
  [F.zlkPstatLanerev, F.zlkPstatPolinv, F.zlkPstatFaulty, F.zlkNbrNbrport, F.zlkNbrNbrserial, F.zlkPctlRetrain] ++
  [F.zlkCnt0Replay, F.zlkCnt0Damaged, F.zlkCnt1Fecsym, F.zlkCnt1Fecunc, F.zlkCnt1Rxref, F.zlkArrallocArrcount] ++
  [F.zlkArrallocArrfirst, F.zlkPgenGen, F.zlkArrCount, F.zlkArrcfgLost, F.zlkArrcfgPorts, F.cntSiterdBytes] ++
  [F.cntSitewrBytes, F.cntTrcfgLayerhi, F.cntTrcfgLayerlo, F.cntTrcfgBase, F.cntTrcfgKinds, F.cntTrcfgRlog2] ++
  [F.cntTrcfgCfgerr, F.cntTrcfgWrap, F.cntTrcfgEn, F.cntTrptrLost, F.cntTrptrTail, F.cntTrptrHead] ++
  [F.cntRegwaitWaitns, F.shtTokallocTokcount, F.shtTokallocTokfirst, F.shtMaxlenMaxcyc, F.shtNumctlFlushed, F.shtNumctlFtz] ++
  [F.shtWdogLimit, F.shtCtxstatState, F.shtCtxstatClass, F.shtCtxstatPart, F.shtCtxstatShare, F.shtCtxstatFstatus] ++
  [F.shtCtxstatOwner, F.shtCregValue, F.shtTokValue, F.shtTokaddInc, F.aryStrcycStrcyc, F.aryStrmaxStrmax] ++
  [F.aryLdwaitLdwait, F.aryCodigCodig, F.aryCorefCoref, F.aryCorowsZrows, F.aryCorowsDrows, F.aryCoskipRefresh] ++
  [F.aryCoskipNonfin, F.aryCoskipQuiet, F.sfuPipemapRetired, F.sfuStoreImageid, F.sfuModeCompat, F.rngLseedLseed] ++
  [F.rngLsaltLsalt, F.kvtSlotsRing, F.kvtSlotsSlotcount, F.kvtSlotsSlotfirst, F.kvtPoolPooladdr, F.kvtCtrlInit] ++
  [F.kvtStateFreecnt, F.kvtStateLowevt, F.kvtStateIniterr, F.kvtStateState, F.kvtLowmarkLowmark, F.kvtCnt0Allocfail] ++
  [F.kvtCnt0Cow, F.kvtCnt1Stallfetch, F.kvtCnt1Prefetch, F.kvtStallnsStallns, F.cntClcycCyc, F.cntFlushElems] ++
  [F.cntTestPass, F.cntTestFail, F.pciSqdbSqtail, F.pciCqdbCqhead, F.cdcFdbFtail, F.cdcCdbChead]

/-- The fields of a register. -/
def Reg.flds (r : Reg) : List Fld := allFlds.filter fun f => f.reg.idx == r.idx

/-- The value of a field at reset, in instance `i` of its register: fuses and the two sizes of Table 19-5a apart, the same in
every instance. [Log 7 DESIGN CHOICE] -/
def Fld.dflt (f : Fld) (i : Nat) : Nat :=
  if f = F.hbmIdSerial then Config.serial.toNat
  else if f = F.hbmBootstatMinsecver then Config.minSecVer.toNat
  else if f = F.pwrVfVmv then (Config.vfMv i).toNat
  else if f = F.pwrVfPmax then (Config.vfPmax i).toNat
  else if f = F.chtFuncMsixsize ∧ i = 0 then 1985
  else f.rst

/-- Where a field of instance `i` is kept in the table of fields. [Log 6 DEDUCED] -/
def Fld.key (f : Fld) (i : Nat) : Nat := f.lo + 128 * f.reg.idx + 32768 * i

end Sys2Proof.Machine
end

