-- ==== Sys2Proof/Machine/Formats.lean ====
section
/-!
DEFINITION. Machine/Formats.lean: Chapter 2, number formats: decoding (R42, R43, R47, R51), the one rounding of every
conversion (R53 to R60), MX block scaling (R46 to R49), NaN (R61) and the flush rule (R64).
-/
namespace Sys2Proof.Machine

/-- The exact value of an operand: NaN, an infinity, or (-1)^neg × mag × 2^exp (a zero keeps its sign). -/
inductive Num where
  | nan
  | inf (neg : Bool)
  | fin (neg : Bool) (mag : Nat) (exp : Int)
  deriving DecidableEq, Repr

/-- The fifteen formats of Table 2-1. -/
inductive Fmt where
  | fp32 | fp16 | bf16 | e4m3 | e5m2 | mxE4m3 | mxE5m2 | mxE3m2 | mxE2m3 | mxE2m1 | mxInt8 | int8 | uint8 | int16 | int32
  deriving DecidableEq, Repr

/-- Format codes (Table 2-1); 0xF is reserved (R41). -/
def Fmt.ofCode : Nat → Option Fmt
  | 0 => some .fp32 | 1 => some .fp16 | 2 => some .bf16 | 3 => some .e4m3 | 4 => some .e5m2 | 5 => some .mxE4m3
  | 6 => some .mxE5m2 | 7 => some .mxE3m2 | 8 => some .mxE2m3 | 9 => some .mxE2m1 | 10 => some .mxInt8 | 11 => some .int8
  | 12 => some .uint8 | 13 => some .int16 | 14 => some .int32 | _ => none

/-- The code of a format (Table 2-1). -/
def Fmt.code : Fmt → Nat
  | .fp32 => 0 | .fp16 => 1 | .bf16 => 2 | .e4m3 => 3 | .e5m2 => 4 | .mxE4m3 => 5 | .mxE5m2 => 6 | .mxE3m2 => 7 | .mxE2m3 => 8
  | .mxE2m1 => 9 | .mxInt8 => 10 | .int8 => 11 | .uint8 => 12 | .int16 => 13 | .int32 => 14

/-- Element bits of Table 2-1. -/
def Fmt.width : Fmt → Nat
  | .fp32 | .int32 => 32 | .fp16 | .bf16 | .int16 => 16
  | .e4m3 | .e5m2 | .mxE4m3 | .mxE5m2 | .mxInt8 | .int8 | .uint8 => 8 | .mxE3m2 | .mxE2m3 => 6 | .mxE2m1 => 4

/-- The MX formats of Table 2-1. -/
def Fmt.isMx : Fmt → Bool
  | .mxE4m3 | .mxE5m2 | .mxE3m2 | .mxE2m3 | .mxE2m1 | .mxInt8 => true
  | .fp32 | .fp16 | .bf16 | .e4m3 | .e5m2 | .int8 | .uint8 | .int16 | .int32 => false

/-- INT8, UINT8, INT16, INT32. -/
def Fmt.isInt : Fmt → Bool
  | .int8 | .uint8 | .int16 | .int32 => true
  | .fp32 | .fp16 | .bf16 | .e4m3 | .e5m2 | .mxE4m3 | .mxE5m2 | .mxE3m2 | .mxE2m3 | .mxE2m1 | .mxInt8 => false

/-- Formats that may be an operand of the array (Table 2-1). -/
def Fmt.isArray (f : Fmt) : Bool := f != .int16 && f != .int32

/-- Long-range operand class (Table 2-1). -/
def Fmt.isLong (f : Fmt) : Bool := f == .fp32 || f == .bf16

/-- Digits `D` of a streamed operand (Table 2-5). -/
def Fmt.digits : Fmt → Nat
  | .fp32 => 12 | .bf16 => 4 | .fp16 => 6 | .e4m3 | .mxE4m3 | .e5m2 | .mxE5m2 | .mxE3m2 | .mxE2m3 => 2 | .mxE2m1 => 1
  | .mxInt8 | .int8 | .uint8 => 4 | .int16 => 8 | .int32 => 16

/-- Exponent bits, mantissa bits and bias of a floating-point layout (Table 2-2). -/
structure Layout where
  e : Nat
  m : Nat
  b : Nat
  deriving DecidableEq, Repr

/-- Table 2-2; none for the integer formats and MXINT8. -/
def Fmt.layout : Fmt → Option Layout
  | .fp32 => some ⟨8, 23, 127⟩ | .fp16 => some ⟨5, 10, 15⟩ | .bf16 => some ⟨8, 7, 127⟩
  | .e4m3 | .mxE4m3 => some ⟨4, 3, 7⟩ | .e5m2 | .mxE5m2 => some ⟨5, 2, 15⟩ | .mxE3m2 => some ⟨3, 2, 3⟩
  | .mxE2m3 => some ⟨2, 3, 1⟩ | .mxE2m1 => some ⟨2, 1, 1⟩ | .mxInt8 | .int8 | .uint8 | .int16 | .int32 => none

/-- The formats that FTZ flushes (R64). -/
def Fmt.flushed : Fmt → Bool
  | .fp32 | .bf16 | .fp16 | .e4m3 | .e5m2 | .mxE4m3 | .mxE5m2 => true
  | .mxE3m2 | .mxE2m3 | .mxE2m1 | .mxInt8 | .int8 | .uint8 | .int16 | .int32 => false

/-- Formats whose top exponent field holds infinity and NaN (Table 2-2). -/
def Fmt.ieeeTop : Fmt → Bool
  | .fp32 | .fp16 | .bf16 | .e5m2 | .mxE5m2 => true
  | .e4m3 | .mxE4m3 | .mxE3m2 | .mxE2m3 | .mxE2m1 | .mxInt8 | .int8 | .uint8 | .int16 | .int32 => false

/-- E4M3 in either role, whose only non-finite encodings are 0x7F and 0xFF. -/
def Fmt.isE4m3 (f : Fmt) : Bool := f == .e4m3 || f == .mxE4m3

/-- The value of an integer element, MXINT8 in units of 2^-6 (R43). -/
def numOfInt (i : Int) (exp : Int) : Num := .fin (decide (i < 0)) i.natAbs exp

/-- The value of one element encoding, without a block scale (R42, R43, R51). -/
def decodeElem (f : Fmt) (v : Nat) : Num :=
  match f.layout with
  | some L =>
    let neg := bit v (L.e + L.m)
    let x := bits v L.m L.e
    let fr := bits v 0 L.m
    if f.ieeeTop && x == 2 ^ L.e - 1 then (if fr = 0 then .inf neg else .nan)
    else if f.isE4m3 && x == 15 && fr == 7 then .nan
    else if x = 0 then .fin neg fr (1 - L.b - L.m)
    else .fin neg (2 ^ L.m + fr) (x - L.b - L.m)
  | none =>
    match f with
    | .uint8 => .fin false (bits v 0 8) 0
    | .mxInt8 => numOfInt (toInt 8 v) (-6)
    | .int16 => numOfInt (toInt 16 v) 0
    | .int32 => numOfInt (toInt 32 v) 0
    | _ => numOfInt (toInt 8 v) 0

/-- The element multiplied by its block's scale byte (R46, R47). -/
def applyScale (x : Nat) : Num → Num
  | .nan => .nan
  | .inf n => if x = 255 then .nan else .inf n
  | .fin n m e => if x = 255 then .nan else .fin n m (e + x - 127)

/-- An encoding that is subnormal in its format: exponent field 0, mantissa nonzero. -/
def isSubnormal (f : Fmt) (v : Nat) : Bool :=
  match f.layout with
  | some L => bits v L.m L.e == 0 && bits v 0 L.m != 0
  | none => false

/-- Input flush (R64): the encoding that is computed with, and 1 if a nonzero value was flushed. -/
def flushIn (ftz : Bool) (f : Fmt) (v : Nat) : Nat × Nat :=
  match f.layout with
  | some L => if ftz && f.flushed && isSubnormal f v then (((v >>> (L.e + L.m)) % 2) <<< (L.e + L.m), 1) else (v, 0)
  | none => (v, 0)

/-- The conversion control field CVT (Table 2-6). -/
structure Cvt where
  noClip : Bool
  nonSat : Bool
  stoch : Bool
  deriving DecidableEq, Repr

/-- CVT from its four bits; bit 3 is checked at issue (R54). -/
def Cvt.ofBits (v : Nat) : Cvt := ⟨bit v 2, bit v 1, bit v 0⟩

/-- Round-to-nearest-even, saturating, OCP. -/
def Cvt.rne : Cvt := ⟨false, false, false⟩

/-- `mag × 2^exp` as a multiple of 2^q: the rounding of R55, or of R56 when a random field is given. -/
def roundAt (r : Option Nat) (mag : Nat) (exp q : Int) : Nat :=
  if q ≤ exp then mag <<< (exp - q).toNat
  else
    let s := (q - exp).toNat
    let t := mag >>> s
    let rem := mag % 2 ^ s
    match r with
    | none => if 2 * rem > 2 ^ s || (2 * rem == 2 ^ s && t % 2 == 1) then t + 1 else t
    | some r => if r < rem * 65536 / 2 ^ s then t + 1 else t

/-- Exponent of the leading one of mag × 2^exp, for mag ≠ 0. -/
def leadExp (mag : Nat) (exp : Int) : Int := (Nat.log2 mag : Int) + exp

/-- The magnitude a × 2^i is greater than b × 2^j. -/
def magGt (a : Nat) (i : Int) (b : Nat) (j : Int) : Bool :=
  if j ≤ i then decide (a <<< (i - j).toNat > b) else decide (a > b <<< (j - i).toNat)

/-- Largest finite value of a floating-point layout, as mantissa and exponent (Table 2-2). -/
def Fmt.maxFinite (f : Fmt) (L : Layout) : Nat × Int :=
  if f.ieeeTop then (2 ^ (L.m + 1) - 1, (2 ^ L.e - 2 : Int) - L.b - L.m)
  else if f.isE4m3 then (14, (15 : Int) - 7 - 3)
  else (2 ^ (L.m + 1) - 1, (2 ^ L.e - 1 : Int) - L.b - L.m)

/-- Encoding of the largest finite magnitude. -/
def Fmt.maxCode (f : Fmt) (L : Layout) : Nat :=
  if f.ieeeTop then (2 ^ L.e - 1) * 2 ^ L.m - 1
  else if f.isE4m3 then 0x7E
  else 2 ^ (L.e + L.m) - 1

/-- Canonical NaN of a format (Table 2-8); integers convert NaN to 0 (R59). -/
def Fmt.canonNaN : Fmt → Nat
  | .fp32 => 0x7FC00000 | .fp16 => 0x7E00 | .bf16 => 0x7FC0 | .e4m3 | .mxE4m3 => 0x7F | .e5m2 | .mxE5m2 => 0x7E
  | .mxE3m2 | .mxE2m3 | .mxE2m1 | .mxInt8 | .int8 | .uint8 | .int16 | .int32 => 0

/-- An overflow or an infinity of the given sign in a floating-point format (Table 2-7; for an MX element the caller
applies Table 2-4 first). -/
def encodeOverflow (f : Fmt) (L : Layout) (nonSat neg : Bool) : Nat :=
  let sgn := b2n neg <<< (L.e + L.m)
  match f with
  | .fp32 | .fp16 | .bf16 => sgn + (2 ^ L.e - 1) * 2 ^ L.m
  | .e4m3 => if nonSat then 0x7F else sgn + 0x7E
  | .e5m2 => if nonSat then sgn + 0x7C else sgn + 0x7B
  | _ => sgn + f.maxCode L

/-- A finite value rounded into a floating-point format: its encoding and 1 if FTZ flushed a nonzero value
(R55, R56, R58, R64). -/
def encodeFin (ftz : Bool) (c : Cvt) (r : Option Nat) (f : Fmt) (L : Layout) (neg : Bool) (mag : Nat) (exp : Int) :
    Nat × Nat :=
  let sgn := b2n neg <<< (L.e + L.m)
  if mag = 0 then (sgn, 0)
  else
    let lead := leadExp mag exp
    let emin : Int := 1 - L.b - L.m
    let q := max (lead - L.m) emin
    let k := roundAt r mag exp q
    let test := roundAt r mag exp (lead - L.m)
    if ftz && f.flushed && test != 0 && magGt 1 (1 - L.b) test (lead - L.m) then (sgn, 1)
    else if magGt k q (f.maxFinite L).1 (f.maxFinite L).2 then (encodeOverflow f L c.nonSat neg, 0)
    else if k < 2 ^ L.m then (sgn + k, 0)
    else if k < 2 ^ (L.m + 1) then (sgn + (q + L.b + L.m).toNat * 2 ^ L.m + (k - 2 ^ L.m), 0)
    else (sgn + (q + 1 + L.b + L.m).toNat * 2 ^ L.m, 0)

/-- Saturate an integer to [lo, hi]. -/
def clampInt (lo hi i : Int) : Int := if i < lo then lo else if i > hi then hi else i

/-- Range of an integer destination; MXINT8 elements saturate symmetrically (R43). -/
def Fmt.intRange : Fmt → Int × Int
  | .uint8 => (0, 255) | .int16 => (-32768, 32767) | .int32 => (-2147483648, 2147483647) | .mxInt8 => (-127, 127)
  | _ => (-128, 127)

/-- The integer nearest to a value in units of 2^u, under the selected rounding, saturated (R59, R43). -/
def toIntFmt (r : Option Nat) (f : Fmt) (u : Int) : Num → Int
  | .nan => 0
  | .inf neg => if neg then f.intRange.1 else f.intRange.2
  | .fin neg mag exp =>
    let k : Int := roundAt r mag exp u
    clampInt f.intRange.1 f.intRange.2 (if neg then -k else k)

/-- One conversion into a format without a block scale: encoding and flush count (R53 to R61, R64). -/
def encodeElem (ftz : Bool) (c : Cvt) (r : Option Nat) (f : Fmt) (v : Num) : Nat × Nat :=
  match f.layout with
  | some L =>
    match v with
    | .nan => (f.canonNaN, 0)
    | .inf neg => (encodeOverflow f L c.nonSat neg, 0)
    | .fin neg mag exp => encodeFin ftz c r f L neg mag exp
  | none => (ofInt f.width (toIntFmt r f (if f = .mxInt8 then -6 else 0) v), 0)

/-- The random field a store takes for one element: used only under RND = 1 (R56, R57). -/
def Cvt.field (c : Cvt) (r : Nat) : Option Nat := if c.stoch then some r else none

/-- Emax of R48. -/
def Fmt.eMax : Fmt → Int
  | .mxE4m3 => 8 | .mxE5m2 => 15 | .mxE3m2 => 4 | .mxE2m3 | .mxE2m1 => 2 | _ => 0

/-- Value divided by 2^x, exactly. -/
def unscale (x : Int) : Num → Num
  | .nan => .nan
  | .inf n => .inf n
  | .fin n m e => .fin n m (e - x)

/-- Magnitude of a finite value, as mantissa and exponent; zero for the others. -/
def finMag : Num → Nat × Int
  | .fin _ m e => (m, e)
  | .nan | .inf _ => (0, 0)

/-- The largest finite magnitude of a block. -/
def blockMax (vs : List Num) : Nat × Int :=
  vs.foldl (fun a v => let m := finMag v; if m.1 ≠ 0 ∧ (a.1 = 0 ∨ magGt m.1 m.2 a.1 a.2) then m else a) (0, 0)

/-- RNE of a / 2^x with an unbounded exponent range exceeds the largest element (no-clip, Table 2-3). -/
def clipAt (f : Fmt) (a : Nat × Int) (x : Int) : Bool :=
  match f.layout with
  | some L =>
    let q := leadExp a.1 (a.2 - x) - L.m
    magGt (roundAt none a.1 (a.2 - x) q) q (f.maxFinite L).1 (f.maxFinite L).2
  | none => magGt (roundAt none a.1 (a.2 - x) (-6)) (-6) 127 (-6)

/-- The scale exponent of a block (R48, Table 2-3). -/
def mxScaleExp (f : Fmt) (c : Cvt) (vs : List Num) : Int :=
  let a := blockMax vs
  if a.1 = 0 then -127
  else
    let x := leadExp a.1 a.2 - f.eMax
    clampInt (-127) 127 (if c.noClip && clipAt f a x then x + 1 else x)

/-- One MX element after its scale is chosen (R49, Table 2-4). -/
def mxElem (ftz : Bool) (c : Cvt) (r : Option Nat) (f : Fmt) (x : Int) (v : Num) : Nat × Nat :=
  match v, f with
  | .inf neg, .mxE5m2 => (if c.nonSat then b2n neg * 128 + 0x7C else b2n neg * 128 + 0x7B, 0)
  | .inf neg, .mxE4m3 => (if c.nonSat then 0x7F else b2n neg * 128 + 0x7E, 0)
  | v, f => encodeElem ftz { c with nonSat := false } r f (unscale x v)

/-- Conversion of one block of at most 32 values to MX, with one random field per element: scale byte, elements and
flush count (R48, R49, Table 2-4). -/
def mxBlock (ftz : Bool) (c : Cvt) (f : Fmt) (vs : List (Num × Nat)) : Nat × List Nat × Nat :=
  let vals := vs.map (·.1)
  let isInf : Num → Bool := fun v => v == .inf true || v == .inf false
  let smallTypes := f != .mxE5m2 && f != .mxE4m3
  if vals.any (· == .nan) || (smallTypes && c.nonSat && vals.any isInf) then (255, vs.map fun _ => 0, 0)
  else
    let x := mxScaleExp f c vals
    let es := vs.map fun v => mxElem ftz c (c.field v.2) f x v.1
    ((x + 127).toNat, es.map (·.1), sumOf (es.map (·.2)))

/-! ### Exact arithmetic on values (Table 2-9) -/

/-- Sign bit of a value (false for NaN). -/
def Num.neg : Num → Bool
  | .nan => false
  | .inf n => n
  | .fin n _ _ => n

/-- A zero of either sign. -/
def Num.isZero : Num → Bool
  | .fin _ 0 _ => true
  | _ => false

/-- +0. -/
def Num.zero : Num := .fin false 0 0

/-- 1. -/
def Num.one : Num := .fin false 1 0

/-- An exact product (R52, R62). -/
def Num.mul : Num → Num → Num
  | .nan, _ => .nan
  | _, .nan => .nan
  | .inf a, .inf b => .inf (a != b)
  | .inf a, .fin b m _ => if m = 0 then .nan else .inf (a != b)
  | .fin a m _, .inf b => if m = 0 then .nan else .inf (a != b)
  | .fin a m i, .fin b n j => .fin (a != b) (m * n) (i + j)

/-- A finite value in units of 2^u, for u at most its exponent. -/
def finUnits (u : Int) : Num → Int
  | .fin neg m e => let k : Int := m <<< (e - u).toNat; if neg then -k else k
  | .nan | .inf _ => 0

/-- Exponent of a finite nonzero value. -/
def finExp : Num → Option Int
  | .fin _ m e => if m = 0 then none else some e
  | .nan | .inf _ => none

/-- The smallest exponent among nonzero finite values (0 when there is none). -/
def minExp (l : List Num) : Int :=
  match l.filterMap finExp with
  | [] => 0
  | e :: t => t.foldl min e

/-- An exact sum of any number of terms (Table 2-9). -/
def sumNum (l : List Num) : Num :=
  if l.any (· == .nan) then .nan
  else if l.any (· == .inf true) && l.any (· == .inf false) then .nan
  else if l.any (· == .inf true) then .inf true
  else if l.any (· == .inf false) then .inf false
  else
    let u := minExp l
    let s := l.foldl (fun a v => a + finUnits u v) (0 : Int)
    if s = 0 then .fin (!l.isEmpty && l.all fun v => v.neg && v.isZero) 0 0
    else .fin (decide (s < 0)) s.natAbs u

/-- x + y, exactly. -/
def Num.add (x y : Num) : Num := sumNum [x, y]

/-- -x (the sign of NaN is not kept). -/
def Num.negate : Num → Num
  | .nan => .nan
  | .inf n => .inf (!n)
  | .fin n m e => .fin (!n) m e

/-- |x|. -/
def Num.abs : Num → Num
  | .nan => .nan
  | .inf _ => .inf false
  | .fin _ m e => .fin false m e

/-- x < y for values that are not NaN, zeros equal. -/
def Num.lt : Num → Num → Bool
  | .nan, _ => false
  | _, .nan => false
  | .inf a, .inf b => a && !b
  | .inf a, .fin _ _ _ => a
  | .fin _ _ _, .inf b => !b
  | .fin a m i, .fin b n j => let u := min i j; decide (finUnits u (.fin a m i) < finUnits u (.fin b n j))

/-- x = y for values that are not NaN, zeros equal. -/
def Num.eqv (x y : Num) : Bool := x != .nan && y != .nan && !x.lt y && !y.lt x

/-- x is strictly below y in the order in which -0 is below +0 (Table 2-9, maximum and minimum). -/
def Num.below (x y : Num) : Bool := x.lt y || (x.isZero && y.isZero && x.neg && !y.neg)

/-- Maximum (Table 2-9). -/
def Num.max (x y : Num) : Num := if x == .nan || y == .nan then .nan else if x.below y then y else x

/-- Minimum (Table 2-9). -/
def Num.min (x y : Num) : Num := if x == .nan || y == .nan then .nan else if y.below x then y else x

/-- The FP32 encoding of a value under round-to-nearest-even, and its flush count (R55, R64). -/
def f32Bits (ftz : Bool) (v : Num) : Nat × Nat := encodeElem ftz .rne none .fp32 v

/-- rne(v): the value rounded to FP32, and its flush count. -/
def rne (ftz : Bool) (v : Num) : Num × Nat :=
  let b := f32Bits ftz v
  (decodeElem .fp32 b.1, b.2)

/-- An FP32 bit pattern as a value, after input flush. [Log 25 DEDUCED] -/
def f32In (ftz : Bool) (b : Nat) : Num × Nat :=
  let g := flushIn ftz .fp32 b
  (decodeElem .fp32 g.1, g.2)

/-- The value of an FP32 bit pattern. -/
def f32 (b : Nat) : Num := decodeElem .fp32 (b % 2 ^ 32)

end Sys2Proof.Machine
end

