-- ==== Sys2Proof/Machine/Array.lean ====
section
/-!
DEFINITION. Machine/Array.lean: Chapter 3, the digit-serial array: digits and row lengths (R73 to R75), the chunk sum
(R77, R78), accumulation (R79 to R81), split parts (R83), load and pass times (R84 to R87).
-/
namespace Sys2Proof.Machine

/-- Zero base-4 digits below the lowest nonzero digit of `m`, at most `n`. -/
def lowZeroDigits : (n m : Nat) → Nat
  | 0, _ => 0
  | n + 1, m => if m % 4 = 0 then 1 + lowZeroDigits n (m / 4) else 0

/-- Length of a streamed element with significand `m` of a format with `d` digits (R74). -/
def elemLen (d m : Nat) : Nat := if m = 0 then 0 else d - lowZeroDigits d m

/-- Significand of a value, 0 for zero, infinity and NaN (R74). -/
def sigOf : Num → Nat
  | .fin _ m _ => m
  | .nan | .inf _ => 0

/-- Array cycles of a streamed row (R75). [Log 28 DEDUCED] -/
def rowLen (d : Nat) (row : List Num) : Nat := max 1 (maxOf (row.map fun v => elemLen d (sigOf v)))

/-- Leading exponents of the finite nonzero products (R77 step 1). -/
def leads (ps : List Num) : List Int :=
  ps.filterMap fun p => match p with
    | .fin _ m e => if m = 0 then none else some (leadExp m e)
    | .nan | .inf _ => none

/-- A finite product truncated to units of 2^u (R77 step 3). -/
def truncUnits (u : Int) : Num → Int
  | .fin neg m e =>
    let k : Int := if u ≤ e then m <<< (e - u).toNat else m >>> (u - e).toNat
    if neg then -k else k
  | .nan | .inf _ => 0

/-- The chunk sum of one column from the products of its terms, padding left out, and its flush count (R77, R78). -/
def chunkSum (ftz : Bool) (ps : List Num) : Num × Nat :=
  if ps.any (· == .nan) then (.nan, 0)
  else if ps.any (· == .inf true) && ps.any (· == .inf false) then (.nan, 0)
  else if ps.any (· == .inf true) then (.inf true, 0)
  else if ps.any (· == .inf false) then (.inf false, 0)
  else
    match leads ps with
    | [] => (.fin (!ps.isEmpty && ps.all Num.neg) 0 0, 0)
    | h :: t =>
      let u := t.foldl max h - 55
      let s := ps.foldl (fun a p => a + truncUnits u p) (0 : Int)
      if s = 0 then (.fin (ps.all fun p => p.neg && p.isZero) 0 0, 0)
      else rne ftz (.fin (decide (s < 0)) s.natAbs u)

/-- The accumulation of one chunk sum into an entry, `none` while the entry is empty (R79). -/
def accAdd (ftz : Bool) (acc : Option Num) (s : Num) : Num × Nat :=
  match acc with
  | none => (s, 0)
  | some a => rne ftz (a.add s)

/-- Accumulation of chunk sums in ascending order, with the flush count (R79, R80). -/
def accChunks (ftz : Bool) (ss : List (Num × Nat)) : Option Num × Nat :=
  ss.foldl (fun a s => let r := accAdd ftz a.1 s.1; (some r.1, a.2 + s.2 + r.2)) (none, 0)

/-- INT32 saturation. -/
def sat32 (i : Int) : Int := clampInt (-2147483648) 2147483647 i

/-- An integer operand value. -/
def intOf : Num → Int
  | .fin neg m e => let k : Int := m <<< e.toNat; if neg then -k else k
  | .nan | .inf _ => 0

/-- Accumulation of exact integer chunk sums with INT32 saturation (R81). -/
def accInts (ss : List Int) : Int := ss.foldl (fun a s => sat32 (a + s)) 0

/-- Chunks of a reduction of size `k` (R72). -/
def chunksOf (k : Nat) : Nat := cdiv k 128

/-- First chunk and chunk count of split part `p` of `f` (R83); count 0 for a part that receives none. -/
def splitChunks (k f p : Nat) : Nat × Nat :=
  let q := cdiv (chunksOf k) f
  (p * q, min ((p + 1) * q) (chunksOf k) - p * q)

/-- Load time of one stationary tile (R84, Table 3-2). -/
def loadTime (f : Fmt) : Nat := cdiv (128 * 128 * f.width) 1024 + (if f.isMx then 4 else 0)

/-- Duration of a pass whose rows take `s` cycles when the next tile takes `next` (R86). -/
def passTime (s next : Nat) : Nat := max (max s next) 16

/-- Issue-time array cycles of a command: `passes` passes of `rows` rows each at the full digit count, all tiles of one
stationary format (R87). -/
def arrayTime (d : Nat) (st : Fmt) (passRows : List Nat) : Nat :=
  let rec go : List Nat → Nat
    | [] => 0
    | [r] => passTime (r * d) 0
    | r :: t => passTime (r * d) (loadTime st) + go t
  loadTime st + go passRows + 14

end Sys2Proof.Machine
end

