-- ==== Sys2Proof/Machine/Sfu.lean ====
section
/-!
DEFINITION. Machine/Sfu.lean: the special-function unit of Chapter 6: built-in functions (R160 to R162), TRV-400
compatibility functions (R173). Tables and constants are the FP32 values nearest the real numbers that R161 names
(towards zero where R173 says so), worked out from those definitions.
-/
namespace Sys2Proof.Machine

/-- TE[j] = ⟨2^(j/64)⟩ (R161, R173). -/
def sfuTE : List Nat :=
  [0x3F800000, 0x3F8164D2, 0x3F82CD87, 0x3F843A29, 0x3F85AAC3, 0x3F871F62, 0x3F88980F, 0x3F8A14D5, 0x3F8B95C2, 0x3F8D1ADF, 0x3F8EA43A, 0x3F9031DC, 0x3F91C3D3, 0x3F935A2B, 0x3F94F4F0, 0x3F96942D, 0x3F9837F0, 0x3F99E046, 0x3F9B8D3A, 0x3F9D3EDA, 0x3F9EF532, 0x3FA0B051, 0x3FA27043, 0x3FA43516, 0x3FA5FED7, 0x3FA7CD94, 0x3FA9A15B, 0x3FAB7A3A, 0x3FAD583F, 0x3FAF3B79, 0x3FB123F6, 0x3FB311C4] ++
  [0x3FB504F3, 0x3FB6FD92, 0x3FB8FBAF, 0x3FBAFF5B, 0x3FBD08A4, 0x3FBF179A, 0x3FC12C4D, 0x3FC346CD, 0x3FC5672A, 0x3FC78D75, 0x3FC9B9BE, 0x3FCBEC15, 0x3FCE248C, 0x3FD06334, 0x3FD2A81E, 0x3FD4F35B, 0x3FD744FD, 0x3FD99D16, 0x3FDBFBB8, 0x3FDE60F5, 0x3FE0CCDF, 0x3FE33F89, 0x3FE5B907, 0x3FE8396A, 0x3FEAC0C7, 0x3FED4F30, 0x3FEFE4BA, 0x3FF28177, 0x3FF5257D, 0x3FF7D0DF, 0x3FFA83B3, 0x3FFD3E0C]

/-- GI[j] = ⟨64/(64+j)⟩ (R161, R173). -/
def sfuGI : List Nat :=
  [0x3F800000, 0x3F7C0FC1, 0x3F783E10, 0x3F74898D, 0x3F70F0F1, 0x3F6D7304, 0x3F6A0EA1, 0x3F66C2B4, 0x3F638E39, 0x3F607038, 0x3F5D67C9, 0x3F5A740E, 0x3F579436, 0x3F54C77B, 0x3F520D21, 0x3F4F6475, 0x3F4CCCCD, 0x3F4A4588, 0x3F47CE0C, 0x3F4565C8, 0x3F430C31, 0x3F40C0C1, 0x3F3E82FA, 0x3F3C5264, 0x3F3A2E8C, 0x3F381703, 0x3F360B61, 0x3F340B41, 0x3F321643, 0x3F302C0B, 0x3F2E4C41, 0x3F2C7692] ++
  [0x3F2AAAAB, 0x3F28E83F, 0x3F272F05, 0x3F257EB5, 0x3F23D70A, 0x3F2237C3, 0x3F20A0A1, 0x3F1F1166, 0x3F1D89D9, 0x3F1C09C1, 0x3F1A90E8, 0x3F191F1A, 0x3F17B426, 0x3F164FDA, 0x3F14F209, 0x3F139A86, 0x3F124925, 0x3F10FDBC, 0x3F0FB824, 0x3F0E7835, 0x3F0D3DCB, 0x3F0C08C1, 0x3F0AD8F3, 0x3F09AE41, 0x3F088889, 0x3F0767AB, 0x3F064B8A, 0x3F053408, 0x3F042108, 0x3F03126F, 0x3F020821, 0x3F010204]

/-- LG[j] = ⟨log2(1 + j/64)⟩ (R161, R173). -/
def sfuLG : List Nat :=
  [0x0, 0x3CB73CB4, 0x3D35D69C, 0x3D8759C5, 0x3DB31FB8, 0x3DDE4212, 0x3E0462C4, 0x3E19574F, 0x3E2E00D2, 0x3E42615F, 0x3E567AF1, 0x3E6A4F72, 0x3E7DE0B6, 0x3E88983F, 0x3E92203D, 0x3E9B8926, 0x3EA4D3C2, 0x3EAE00D2, 0x3EB7110E, 0x3EC0052B, 0x3EC8DDD4, 0x3ED19BB0, 0x3EDA3F60, 0x3EE2C97D, 0x3EEB3A9F, 0x3EF39355, 0x3EFBD42B, 0x3F01FED4, 0x3F060828, 0x3F0A0650, 0x3F0DF989, 0x3F11E20F] ++
  [0x3F15C01A, 0x3F1993E3, 0x3F1D5DA0, 0x3F211D84, 0x3F24D3C2, 0x3F28808C, 0x3F2C2411, 0x3F2FBE80, 0x3F335004, 0x3F36D8CB, 0x3F3A58FF, 0x3F3DD0C8, 0x3F41404F, 0x3F44A7BA, 0x3F480731, 0x3F4B5ED7, 0x3F4EAED0, 0x3F51F740, 0x3F553848, 0x3F587209, 0x3F5BA4A4, 0x3F5ED039, 0x3F61F4E5, 0x3F6512C7, 0x3F6829FB, 0x3F6B3A9F, 0x3F6E44CD, 0x3F7148A1, 0x3F744636, 0x3F773DA4, 0x3F7A2F04, 0x3F7D1A71]

/-- HR[j] = ⟨256/(257 + 2j)⟩ (R161, R173). -/
def sfuHR : List Nat :=
  [0x3F7F00FF, 0x3F7D08E5, 0x3F7B1885, 0x3F792FB2, 0x3F774E40, 0x3F757404, 0x3F73A0D5, 0x3F71D48C, 0x3F700F01, 0x3F6E500F, 0x3F6C9791, 0x3F6AE564, 0x3F693965, 0x3F679373, 0x3F65F36D, 0x3F645933, 0x3F62C4A7, 0x3F6135AA, 0x3F5FAC1F, 0x3F5E27EB, 0x3F5CA8F1, 0x3F5B2F17, 0x3F59BA42, 0x3F584A5A, 0x3F56DF44, 0x3F5578E9, 0x3F541733, 0x3F52BA08, 0x3F516154, 0x3F500D01, 0x3F4EBCF9, 0x3F4D7127] ++
  [0x3F4C2978, 0x3F4AE5D8, 0x3F49A634, 0x3F486A79, 0x3F473294, 0x3F45FE74, 0x3F44CE08, 0x3F43A13E, 0x3F427806, 0x3F415250, 0x3F40300C, 0x3F3F112B, 0x3F3DF59D, 0x3F3CDD53, 0x3F3BC841, 0x3F3AB656, 0x3F39A786, 0x3F389BC3, 0x3F379301, 0x3F368D31, 0x3F358A48, 0x3F348A3A, 0x3F338CFA, 0x3F32927C, 0x3F319AB6, 0x3F30A59B, 0x3F2FB322, 0x3F2EC33E, 0x3F2DD5E6, 0x3F2CEB10, 0x3F2C02B0, 0x3F2B1CBE] ++
  [0x3F2A392F, 0x3F2957FB, 0x3F287917, 0x3F279C7B, 0x3F26C21E, 0x3F25E9F7, 0x3F2513FD, 0x3F244029, 0x3F236E72, 0x3F229ECF, 0x3F21D13A, 0x3F2105A9, 0x3F203C17, 0x3F1F747A, 0x3F1EAECD, 0x3F1DEB07, 0x3F1D2922, 0x3F1C6917, 0x3F1BAADF, 0x3F1AEE73, 0x3F1A33CD, 0x3F197AE7, 0x3F18C3BB, 0x3F180E41, 0x3F175A75, 0x3F16A850, 0x3F15F7CC, 0x3F1548E5, 0x3F149B93, 0x3F13EFD2, 0x3F13459C, 0x3F129CEC] ++
  [0x3F11F5BD, 0x3F115009, 0x3F10ABCC, 0x3F100901, 0x3F0F67A2, 0x3F0EC7AB, 0x3F0E2918, 0x3F0D8BE3, 0x3F0CF009, 0x3F0C5584, 0x3F0BBC51, 0x3F0B246B, 0x3F0A8DCD, 0x3F09F874, 0x3F09645C, 0x3F08D181, 0x3F083FDE, 0x3F07AF70, 0x3F072033, 0x3F069223, 0x3F06053C, 0x3F05797C, 0x3F04EEDD, 0x3F04655E, 0x3F03DCF9, 0x3F0355AD, 0x3F02CF75, 0x3F024A4E, 0x3F01C636, 0x3F014328, 0x3F00C122, 0x3F004020]

/-- RS[j] = ⟨1/sqrt(midpoint of interval j)⟩ (R161, R173). -/
def sfuRS : List Nat :=
  [0x3F7F017E, 0x3F7D0D3E, 0x3F7B2452, 0x3F79464E, 0x3F7772CB, 0x3F75A969, 0x3F73E9CB, 0x3F723399, 0x3F708681, 0x3F6EE232, 0x3F6D4660, 0x3F6BB2C5, 0x3F6A271A, 0x3F68A31D, 0x3F672691, 0x3F65B139, 0x3F6442DB, 0x3F62DB41, 0x3F617A36, 0x3F601F87, 0x3F5ECB04, 0x3F5D7C7F, 0x3F5C33CC, 0x3F5AF0BF, 0x3F59B330, 0x3F587AF7, 0x3F5747EE, 0x3F5619F2, 0x3F54F0DF, 0x3F53CC93, 0x3F52ACEE, 0x3F5191D1] ++
  [0x3F507B1D, 0x3F4F68B6, 0x3F4E5A7F, 0x3F4D505E, 0x3F4C4A38, 0x3F4B47F4, 0x3F4A497A, 0x3F494EB3, 0x3F485787, 0x3F4763E2, 0x3F4673AC, 0x3F4586D3, 0x3F449D42, 0x3F43B6E6, 0x3F42D3AD, 0x3F41F383, 0x3F411659, 0x3F403C1C, 0x3F3F64BD, 0x3F3E902C, 0x3F3DBE58, 0x3F3CEF34, 0x3F3C22B1, 0x3F3B58C0, 0x3F3A9154, 0x3F39CC60, 0x3F3909D6, 0x3F3849AA, 0x3F378BD0, 0x3F36D03D, 0x3F3616E4, 0x3F355FBA] ++
  [0x3F3450FC, 0x3F32EF41, 0x3F319589, 0x3F304387, 0x3F2EF8F2, 0x3F2DB587, 0x3F2C7904, 0x3F2B432A, 0x3F2A13C0, 0x3F28EA8C, 0x3F27C759, 0x3F26A9F4, 0x3F25922C, 0x3F247FD3, 0x3F2372BD, 0x3F226ABE, 0x3F2167AF, 0x3F206968, 0x3F1F6FC4, 0x3F1E7AA0, 0x3F1D89D9, 0x3F1C9D4E, 0x3F1BB4E1, 0x3F1AD073, 0x3F19EFE6, 0x3F191320, 0x3F183A05, 0x3F17647C, 0x3F16926C, 0x3F15C3BC, 0x3F14F857, 0x3F143026] ++
  [0x3F136B13, 0x3F12A90B, 0x3F11E9F9, 0x3F112DCA, 0x3F10746D, 0x3F0FBDCE, 0x3F0F09DD, 0x3F0E5889, 0x3F0DA9C2, 0x3F0CFD79, 0x3F0C539F, 0x3F0BAC25, 0x3F0B06FD, 0x3F0A641A, 0x3F09C36D, 0x3F0924EC, 0x3F088889, 0x3F07EE37, 0x3F0755ED, 0x3F06BF9E, 0x3F062B40, 0x3F0598C7, 0x3F05082A, 0x3F04795F, 0x3F03EC5C, 0x3F036117, 0x3F02D788, 0x3F024FA6, 0x3F01C967, 0x3F0144C4, 0x3F00C1B4, 0x3F004030]

/-- SN[j] = ⟨sin(jπ/32)⟩ (R161, R173). -/
def sfuSN : List Nat :=
  [0x0, 0x3DC8BD36, 0x3E47C5C2, 0x3E94A031, 0x3EC3EF15, 0x3EF15AEA, 0x3F0E39DA, 0x3F226799, 0x3F3504F3, 0x3F45E403, 0x3F54DB31, 0x3F61C598, 0x3F6C835E, 0x3F74FA0B, 0x3F7B14BE, 0x3F7EC46D, 0x3F800000, 0x3F7EC46D, 0x3F7B14BE, 0x3F74FA0B, 0x3F6C835E, 0x3F61C598, 0x3F54DB31, 0x3F45E403, 0x3F3504F3, 0x3F226799, 0x3F0E39DA, 0x3EF15AEA, 0x3EC3EF15, 0x3E94A031, 0x3E47C5C2, 0x3DC8BD36] ++
  [0x0, 0xBDC8BD36, 0xBE47C5C2, 0xBE94A031, 0xBEC3EF15, 0xBEF15AEA, 0xBF0E39DA, 0xBF226799, 0xBF3504F3, 0xBF45E403, 0xBF54DB31, 0xBF61C598, 0xBF6C835E, 0xBF74FA0B, 0xBF7B14BE, 0xBF7EC46D, 0xBF800000, 0xBF7EC46D, 0xBF7B14BE, 0xBF74FA0B, 0xBF6C835E, 0xBF61C598, 0xBF54DB31, 0xBF45E403, 0xBF3504F3, 0xBF226799, 0xBF0E39DA, 0xBEF15AEA, 0xBEC3EF15, 0xBE94A031, 0xBE47C5C2, 0xBDC8BD36]

/-- CS[j] = ⟨cos(jπ/32)⟩ (R161, R173). -/
def sfuCS : List Nat :=
  [0x3F800000, 0x3F7EC46D, 0x3F7B14BE, 0x3F74FA0B, 0x3F6C835E, 0x3F61C598, 0x3F54DB31, 0x3F45E403, 0x3F3504F3, 0x3F226799, 0x3F0E39DA, 0x3EF15AEA, 0x3EC3EF15, 0x3E94A031, 0x3E47C5C2, 0x3DC8BD36, 0x0, 0xBDC8BD36, 0xBE47C5C2, 0xBE94A031, 0xBEC3EF15, 0xBEF15AEA, 0xBF0E39DA, 0xBF226799, 0xBF3504F3, 0xBF45E403, 0xBF54DB31, 0xBF61C598, 0xBF6C835E, 0xBF74FA0B, 0xBF7B14BE, 0xBF7EC46D] ++
  [0xBF800000, 0xBF7EC46D, 0xBF7B14BE, 0xBF74FA0B, 0xBF6C835E, 0xBF61C598, 0xBF54DB31, 0xBF45E403, 0xBF3504F3, 0xBF226799, 0xBF0E39DA, 0xBEF15AEA, 0xBEC3EF15, 0xBE94A031, 0xBE47C5C2, 0xBDC8BD36, 0x0, 0x3DC8BD36, 0x3E47C5C2, 0x3E94A031, 0x3EC3EF15, 0x3EF15AEA, 0x3F0E39DA, 0x3F226799, 0x3F3504F3, 0x3F45E403, 0x3F54DB31, 0x3F61C598, 0x3F6C835E, 0x3F74FA0B, 0x3F7B14BE, 0x3F7EC46D]

/-- EF[i][n] = ⟨erf⁽ⁿ⁾((2i+1)/16)/n!⟩, at 6i + n (R161, R173). -/
def sfuEF : List Nat :=
  [0x3D903EA4, 0x3F8FDE94, 0xBD8FDE94, 0xBEBE53C9, 0x3D0F7EAA, 0x3DE2995C, 0x3E5622F2, 0x3F8B716C, 0xBE512A21, 0xBEACD9ED, 0x3DCC4324, 0x3DC01A14, 0x3EAED4FA, 0x3F82FE9F, 0xBEA3BE47, 0xBE8C8BDB, 0x3E191539, 0x3D826285, 0x3EED840E, 0x3F6E8B3E, 0xBED0B9D6, 0xBE444D40, 0x3E361775, 0x3CD8322A, 0x3F12DC54, 0x3F5283A7, 0xBEECD41C, 0xBDCE20E9, 0x3E3ADF5E, 0xBC320857, 0x3F2B4922, 0x3F340FF9] ++
  [0xBEF795F7, 0xBC5212A3, 0x3E29920B, 0xBD2AC5A6, 0x3F3FDCE0, 0x3F1546E7, 0xBEF29338, 0x3D7F03CB, 0x3E07D118, 0xBD7D10F6, 0x3F50AA8D, 0x3EEFE513, 0xBEE0E6C2, 0x3DF264CC, 0x3DBA3F19, 0xBD8E8F80, 0x3F5DF788, 0x3EBAD48D, 0xBEC681D6, 0x3E1CAA3C, 0x3D44707C, 0xBD87BE0B, 0x3F682C06, 0x3E8D06E3, 0xBEA7782D, 0x3E2B245B, 0x3C207DD6, 0xBD606DC5, 0x3F6FC2F5, 0x3E4E5ADF, 0xBE876BA2, 0x3E283367] ++
  [0xBCA0CFD1, 0xBD1FA0BB, 0x3F753B98, 0x3E1253DC, 0xBE52588C, 0x3E18CE3D, 0xBD1EDADF, 0xBCB80CDF, 0x3F790E50, 0x3DC92385, 0xBE1D23C0, 0x3E0229FD, 0xBD453E35, 0xBC03AE04, 0x3F7BA537, 0x3D85FCBF, 0xBDE21A83, 0x3DD1B43E, 0xBD4B23D2, 0x3B34C083, 0x3F7D586F, 0x3D2D0474, 0xBD9CCC09, 0x3DA0A078, 0xBD3A9AD3, 0x3C1BA644, 0x3F7E6D66, 0x3CD88B05, 0xBD51C6AD, 0x3D6ADEC9, 0xBD1D9AEE, 0x3C4EBB58] ++
  [0x3F7F1840, 0x3C83570A, 0xBD0771C2, 0x3D245894, 0xBCF8AADA, 0x3C551604, 0x3F7F7E67, 0x3C1A6BEE, 0xBCA8E60C, 0x3CDC92D5, 0xBCB8F3EA, 0x3C3F52C0, 0x3F7FB99C, 0x3BAFF93B, 0xBC4B782C, 0x3C8E2D32, 0xBC827AE5, 0x3C1C150A, 0x3F7FDADF, 0x3B425D18, 0xBBECE175, 0x3C3044C3, 0xBC2F58E4, 0x3BEC2A7C, 0x3F7FECFC, 0x3AD0121B, 0xBB854B99, 0x3BD25FA4, 0xBBE11C01, 0x3BA7A004, 0x3F7FF68B, 0x3A57E42F] ++
  [0xBB110D50, 0x3B71E4D5, 0xBB8A58DD, 0x3B60E0CE, 0x3F7FFB6F, 0x39D91D2D, 0xBA98A884, 0x3B06121A, 0xBB231809, 0x3B0F4269, 0x3F7FFDDC, 0x3953A034, 0xBA1B69A6, 0x3A8F5B71, 0xBAB8A75C, 0x3AADF604, 0x3F7FFF07, 0x38C7EE0E, 0xB9991242, 0x3A13EE0E, 0xBA49017A, 0x3A49DA65, 0x3F7FFF92, 0x383711B4, 0xB911E21B, 0x39935F80, 0xB9D28FDB, 0x39E0412A, 0x3F7FFFD1, 0x37A2790F, 0xB8868C41, 0x390DCB27] ++
  [0xB9546BC3, 0x396EEB70, 0x3F7FFFEC, 0x370BC1E7, 0xB7F03546, 0x3883CBC6, 0xB8CE81CC, 0x38F4688A, 0x3F7FFFF8, 0x366909CC, 0xB74F8CBA, 0x37ECC15F, 0xB841907E, 0x387050E6, 0x3F7FFFFD, 0x35BC4FDC, 0xB6AD999E, 0x374D897F, 0xB7AF0349, 0x37E35039, 0x3F7FFFFF, 0x35137CF0, 0xB60C9315, 0x36AC8060, 0xB718B36F, 0x374EFE62, 0x3F800000, 0x345FEBAB, 0xB55C6BFC, 0x360BFC9F, 0xB6809D82, 0x36B5922F]

/-- TZ[j] = ⟨2^(j/32)⟩ rounded towards zero (R161, R173). -/
def sfuTZ : List Nat :=
  [0x3F800000, 0x3F82CD86, 0x3F85AAC3, 0x3F88980E, 0x3F8B95C1, 0x3F8EA439, 0x3F91C3D3, 0x3F94F4EF, 0x3F9837F0, 0x3F9B8D39, 0x3F9EF532, 0x3FA27043, 0x3FA5FED6, 0x3FA9A15A, 0x3FAD583E, 0x3FB123F5, 0x3FB504F3, 0x3FB8FBAF, 0x3FBD08A3, 0x3FC12C4C, 0x3FC5672A, 0x3FC9B9BD, 0x3FCE248C, 0x3FD2A81D, 0x3FD744FC, 0x3FDBFBB7, 0x3FE0CCDE, 0x3FE5B906, 0x3FEAC0C6, 0x3FEFE4B9, 0x3FF5257D, 0x3FFA83B2]

/-- HZ[j] = ⟨64/(65 + 2j)⟩ rounded towards zero (R161, R173). -/
def sfuHZ : List Nat :=
  [0x3F7C0FC0, 0x3F74898D, 0x3F6D7303, 0x3F66C2B4, 0x3F607038, 0x3F5A740D, 0x3F54C77B, 0x3F4F6474, 0x3F4A4587, 0x3F4565C8, 0x3F40C0C0, 0x3F3C5264, 0x3F381702, 0x3F340B40, 0x3F302C0B, 0x3F2C7691, 0x3F28E83F, 0x3F257EB5, 0x3F2237C3, 0x3F1F1165, 0x3F1C09C0, 0x3F191F1A, 0x3F164FDA, 0x3F139A85, 0x3F10FDBC, 0x3F0E7835, 0x3F0C08C0, 0x3F09AE40, 0x3F0767AB, 0x3F053408, 0x3F03126E, 0x3F010204]

/-- RZ[j] = ⟨1/sqrt(midpoint)⟩ rounded towards zero, 32 intervals each of [1,2) and [2,4) (R161, R173). -/
def sfuRZ : List Nat :=
  [0x3F7E05EC, 0x3F7A33F9, 0x3F768CDB, 0x3F730D89, 0x3F6FB344, 0x3F6C7B90, 0x3F696429, 0x3F666B02, 0x3F638E38, 0x3F60CC15, 0x3F5E2304, 0x3F5B9192, 0x3F59166A, 0x3F56B050, 0x3F545E22, 0x3F521ED0, 0x3F4FF161, 0x3F4DD4ED, 0x3F4BC89B, 0x3F49CBA1, 0x3F47DD45, 0x3F45FCD5, 0x3F4429AE, 0x3F426336, 0x3F40A8DD, 0x3F3EFA1B, 0x3F3D5671, 0x3F3BBD66, 0x3F3A2E8B, 0x3F38A974, 0x3F372DBE, 0x3F35BB09] ++
  [0x3F339F19, 0x3F30EB95, 0x3F2E565B, 0x3F2BDD45, 0x3F297E62, 0x3F2737EF, 0x3F250854, 0x3F22EE1D, 0x3F20E7F4, 0x3F1EF4A4, 0x3F1D130D, 0x3F1B422B, 0x3F19810C, 0x3F17CECF, 0x3F162AA9, 0x3F1493D9, 0x3F1309AF, 0x3F118B86, 0x3F1018C6, 0x3F0EB0E0, 0x3F0D534F, 0x3F0BFF97, 0x3F0AB543, 0x3F0973E8, 0x3F083B1E, 0x3F070A86, 0x3F05E1C7, 0x3F04C08B, 0x3F03A682, 0x3F029361, 0x3F0186E2, 0x3F0080C1]

/-- Constant `e1` of R161, R173, R275 or R287. -/
def cE1 : Num := f32 0x3f317218

/-- Constant `b1` of R161, R173, R275 or R287. -/
def cB1 : Num := f32 0x3f317217

/-- Constant `l1` of R161, R173, R275 or R287. -/
def cL1 : Num := f32 0x3fb8aa3b

/-- Constant `e2` of R161, R173, R275 or R287. -/
def cE2 : Num := f32 0x3e75fdf0

/-- Constant `b2` of R161, R173, R275 or R287. -/
def cB2 : Num := f32 0x3e75fdef

/-- Constant `l2` of R161, R173, R275 or R287. -/
def cL2 : Num := f32 0xbf38aa3b

/-- Constant `e3` of R161, R173, R275 or R287. -/
def cE3 : Num := f32 0x3d635847

/-- Constant `b3` of R161, R173, R275 or R287. -/
def cB3 : Num := f32 0x3d635846

/-- Constant `l3` of R161, R173, R275 or R287. -/
def cL3 : Num := f32 0x3ef6384f

/-- Constant `log2e` of R161, R173, R275 or R287. -/
def cLog2e : Num := f32 0x3fb8aa3b

/-- Constant `log2eZ` of R161, R173, R275 or R287. -/
def cLog2eZ : Num := f32 0x3fb8aa3b

/-- Constant `twoLog2eZ` of R161, R173, R275 or R287. -/
def cTwoLog2eZ : Num := f32 0x4038aa3b

/-- Constant `negLog2e` of R161, R173, R275 or R287. -/
def cNegLog2e : Num := f32 0xbfb8aa3b

/-- Constant `negTwoLog2e` of R161, R173, R275 or R287. -/
def cNegTwoLog2e : Num := f32 0xc038aa3b

/-- Constant `s3` of R161, R173, R275 or R287. -/
def cS3 : Num := f32 0xbe2aaaab

/-- Constant `s5` of R161, R173, R275 or R287. -/
def cS5 : Num := f32 0x3c088889

/-- Constant `k4` of R161, R173, R275 or R287. -/
def cK4 : Num := f32 0x3d2aaaab

/-- Constant `i32pi` of R161, R173, R275 or R287. -/
def cI32pi : Num := f32 0x4122f983

/-- Constant `p1` of R161, R173, R275 or R287. -/
def cP1 : Num := f32 0x3dc90000

/-- Constant `p2` of R161, R173, R275 or R287. -/
def cP2 : Num := f32 0x37fda000

/-- Constant `p3` of R161, R173, R275 or R287. -/
def cP3 : Num := f32 0x31a22169

/-- Constant `t3` of R161, R173, R275 or R287. -/
def cT3 : Num := f32 0xbeaaaaab

/-- Constant `t5` of R161, R173, R275 or R287. -/
def cT5 : Num := f32 0x3e088889

/-- Constant `t7` of R161, R173, R275 or R287. -/
def cT7 : Num := f32 0xbd5d0dd1

/-- Constant `g1` of R161, R173, R275 or R287. -/
def cG1 : Num := f32 0x3f906ebb

/-- Constant `g3` of R161, R173, R275 or R287. -/
def cG3 : Num := f32 0xbec093a3

/-- Constant `g5` of R161, R173, R275 or R287. -/
def cG5 : Num := f32 0x3de71791

/-- Constant `g7` of R161, R173, R275 or R287. -/
def cG7 : Num := f32 0xbcdc1672

/-- Constant `invSqrt2` of R161, R173, R275 or R287. -/
def cInvSqrt2 : Num := f32 0x3f3504f3

/-- Constant `geluA` of R161, R173, R275 or R287. -/
def cGeluA : Num := f32 0x3d122279

/-- Constant `geluB` of R161, R173, R275 or R287. -/
def cGeluB : Num := f32 0x3f4c422a

/-- Constant `ln2` of R161, R173, R275 or R287. -/
def cLn2 : Num := f32 0x3f317218

/-- Constant `negTwoLn2` of R161, R173, R275 or R287. -/
def cNegTwoLn2 : Num := f32 0xbfb17218

/-- Constant `twoPi` of R161, R173, R275 or R287. -/
def cTwoPi : Num := f32 0x40c90fdb

/-- rne without a flush: every rounding inside a function (R160: no intermediate value is flushed). -/
def r32 (v : Num) : Num := (rne false v).1

/-- fma(a, b, c) := rne(a × b + c) (R149). -/
def fma32 (a b c : Num) : Num := r32 (sumNum [a.mul b, c])

/-- rne(a × b). -/
def mul32 (a b : Num) : Num := r32 (a.mul b)

/-- rne(a + b). -/
def add32 (a b : Num) : Num := r32 (a.add b)

/-- An entry of a table of FP32 encodings. -/
def tabNum (t : List Nat) (j : Nat) : Num := f32 (t.getD j 0)

/-- A signed integer as a value. -/
def intNum (i : Int) : Num := numOfInt i 0

/-- A dyadic constant m × 2^e. -/
def dy (m : Int) (e : Int) : Num := numOfInt m e

/-- Value × 2^n, exactly. -/
def shiftNum (n : Int) : Num → Num
  | .nan => .nan
  | .inf s => .inf s
  | .fin s m e => .fin s m (e + n)

/-- "Scale": one rounding to FP32, subnormals included (R161). -/
def scale32 (n : Int) (v : Num) : Num := r32 (shiftNum n v)

/-- The integer nearest to a finite value, ties to even. -/
def nearestInt : Num → Int
  | .fin s m e => let k : Int := roundAt none m e 0; if s then -k else k
  | .nan | .inf _ => 0

/-- The largest integer not above a finite value. -/
def floorInt : Num → Int
  | .fin s m e =>
    let v : Int := if s then -(m : Int) else m
    if 0 ≤ e then v * 2 ^ e.toNat else v / 2 ^ (-e).toNat
  | .nan | .inf _ => 0

/-- |x| = m × 2^e with 1 ≤ m < 2, for x finite and nonzero: m as a value, and e (R161). -/
def splitNum : Num → Num × Int
  | .fin _ m e => (.fin false m (-(Nat.log2 m : Int)), leadExp m e)
  | .nan | .inf _ => (.nan, 0)

/-- bits(m, b) for 1 ≤ m < 2 (R161). -/
def fracBits (b : Nat) : Num → Nat
  | .fin _ m _ =>
    let l := Nat.log2 m
    (if b ≤ l then m >>> (l - b) else m <<< (b - l)) - 2 ^ b
  | .nan | .inf _ => 0

/-- Value with the given sign. -/
def withSign (s : Bool) : Num → Num
  | .nan => .nan
  | .inf _ => .inf s
  | .fin _ m e => .fin s m e

/-- exp2 after its special cases (R161). -/
def exp2Core (x : Num) : Num :=
  let k := nearestInt (shiftNum 6 x)
  let j := (k % 64).toNat
  let r := x.add (dy (-k) (-6))
  let q := mul32 r (fma32 r (fma32 r cE3 cE2) cE1)
  let te := tabNum sfuTE j
  scale32 (k / 64) (te.add (te.mul q))

/-- x ≥ m × 2^e for a finite x. -/
def geDy (x : Num) (m e : Int) : Bool := !x.lt (dy m e)

/-- exp2 (R161, R162). -/
def sfuExp2 (x : Num) : Num :=
  match x with
  | .nan => .nan
  | .inf s => if s then .zero else .inf false
  | .fin s m e =>
    if m = 0 then .one
    else if geDy (.fin s m e) 128 0 then .inf false
    else if !(dy (-152) 0).lt (.fin s m e) then .zero
    else exp2Core (.fin s m e)

/-- exp (R161). -/
def sfuExp (x : Num) : Num := sfuExp2 (mul32 x cLog2e)

/-- log2 (R161, R162). -/
def sfuLog2 (x : Num) : Num :=
  match x with
  | .nan => .nan
  | .inf s => if s then .nan else .inf false
  | .fin s m0 e0 =>
    if m0 = 0 then .inf true
    else if s then .nan
    else
      let (m, e) := splitNum (.fin false m0 e0)
      if e = 0 && m.eqv .one then .zero
      else
        let j := fracBits 6 m
        let u := mul32 (sumNum [m, dy (-1) 0, dy (-(j : Int)) (-6)]) (tabNum sfuGI j)
        let q := mul32 u (fma32 u (fma32 u cL3 cL2) cL1)
        r32 ((intNum e).add (add32 (tabNum sfuLG j) q))

/-- rcp (R161, R162). -/
def sfuRcp (x : Num) : Num :=
  match x with
  | .nan => .nan
  | .inf s => .fin s 0 0
  | .fin s m0 e0 =>
    if m0 = 0 then .inf s
    else
      let (m, e) := splitNum (.fin false m0 e0)
      let y0 := tabNum sfuHR (fracBits 7 m)
      let d := fma32 m.negate y0 .one
      let q := fma32 d d d
      withSign s (scale32 (-e) (fma32 y0 q y0))

/-- Significand in [1, 4), even exponent and interval number of rsqrt, with `b` index bits (R161, R173). -/
def rsqrtSplit (b : Nat) (x : Num) : Num × Int × Nat :=
  let (m, e) := splitNum x
  if e % 2 = 0 then (m, e, fracBits b m) else (shiftNum 1 m, e - 1, 2 ^ b + fracBits b m)

/-- rsqrt of a positive finite value (R161). -/
def rsqrtCore (x : Num) : Num :=
  let (m, e, j) := rsqrtSplit 6 x
  let y0 := tabNum sfuRS j
  let d := fma32 (mul32 m y0).negate y0 .one
  let q := mul32 d (fma32 d (dy 3 (-3)) (dy 1 (-1)))
  scale32 (-(e / 2)) (fma32 y0 q y0)

/-- rsqrt (R161, R162). -/
def sfuRsqrt (x : Num) : Num :=
  match x with
  | .nan => .nan
  | .inf s => if s then .nan else .zero
  | .fin s m e => if m = 0 then .inf s else if s then .nan else rsqrtCore (.fin s m e)

/-- sqrt (R161, R162). -/
def sfuSqrt (x : Num) : Num :=
  match x with
  | .nan => .nan
  | .inf s => if s then .nan else .inf false
  | .fin sg m e =>
    if m = 0 then .fin sg 0 0
    else if sg then .nan
    else
      let v : Num := .fin false m e
      let yr := rsqrtCore v
      let s := mul32 v yr
      fma32 (fma32 s.negate s v) (mul32 (dy 1 (-1)) yr) s

/-- The shared part of sin and cos: table index, sr and cr (R161). -/
def trigCore (x : Num) : Nat × Num × Num :=
  let k := nearestInt (x.mul cI32pi)
  let nk := intNum (-k)
  let r := fma32 nk cP3 (fma32 nk cP2 (fma32 nk cP1 x))
  let rr := mul32 r r
  let sr := fma32 r (mul32 rr (fma32 rr cS5 cS3)) r
  let cr := fma32 rr (fma32 rr cK4 (dy (-1) (-1))) .one
  ((k % 64).toNat, sr, cr)

/-- |x| > 65,536. -/
def trigTooLarge (x : Num) : Bool := (dy 65536 0).lt x.abs

/-- sin (R161, R162). -/
def sfuSin (x : Num) : Num :=
  match x with
  | .nan | .inf _ => .nan
  | .fin s m e =>
    if m = 0 then .fin s 0 0
    else if trigTooLarge (.fin s m e) then .nan
    else
      let (j, sr, cr) := trigCore (.fin s m e)
      fma32 (tabNum sfuSN j) cr (mul32 (tabNum sfuCS j) sr)

/-- cos (R161, R162). -/
def sfuCos (x : Num) : Num :=
  match x with
  | .nan | .inf _ => .nan
  | .fin s m e =>
    if m = 0 then .one
    else if trigTooLarge (.fin s m e) then .nan
    else
      let (j, sr, cr) := trigCore (.fin s m e)
      fma32 (tabNum sfuCS j) cr (mul32 (tabNum sfuSN j) sr).negate

/-- tanh (R161, R162). -/
def sfuTanh (x : Num) : Num :=
  match x with
  | .nan => .nan
  | .inf s => withSign s .one
  | .fin s m e =>
    let a : Num := .fin false m e
    if m = 0 then .fin s 0 0
    else if geDy a 19 (-1) then withSign s .one
    else if a.lt (dy 1 (-3)) then
      let aa := mul32 a a
      withSign s (fma32 a (mul32 aa (fma32 aa (fma32 aa cT7 cT5) cT3)) a)
    else
      let t := sfuExp2 (mul32 a cNegTwoLog2e)
      withSign s (mul32 (add32 .one t.negate) (sfuRcp (add32 .one t)))

/-- sigmoid (R161, R162). -/
def sfuSigmoid (x : Num) : Num :=
  match x with
  | .nan => .nan
  | .inf s => if s then .zero else .one
  | .fin s m e =>
    if m = 0 then dy 1 (-1)
    else sfuRcp (add32 .one (sfuExp2 (mul32 (.fin s m e) cNegLog2e)))

/-- erf (R161, R162). -/
def sfuErf (x : Num) : Num :=
  match x with
  | .nan => .nan
  | .inf s => withSign s .one
  | .fin s m e =>
    let a : Num := .fin false m e
    if m = 0 then .fin s 0 0
    else if geDy a 4 0 then withSign s .one
    else if a.lt (dy 1 (-3)) then
      let aa := mul32 a a
      withSign s (mul32 a (fma32 aa (fma32 aa (fma32 aa cG7 cG5) cG3) cG1))
    else
      let i := (floorInt (shiftNum 3 a)).toNat
      let h := a.add (dy (-(2 * i + 1 : Int)) (-4))
      let ef := fun n => tabNum sfuEF (6 * i + n)
      withSign s (fma32 (fma32 (fma32 (fma32 (fma32 (ef 5) h (ef 4)) h (ef 3)) h (ef 2)) h (ef 1)) h (ef 0))

/-! ### TRV-400 compatibility functions (R173) -/

/-- One rounding toward zero to FP32; a value beyond the range gives an infinity (Table 2-7). -/
def rtz : Num → Num
  | .nan => .nan
  | .inf s => .inf s
  | .fin s m e =>
    if m = 0 then .fin s 0 0
    else
      let q := max (leadExp m e - 23) (-149)
      let k := if q ≤ e then m <<< (e - q).toNat else m >>> (q - e).toNat
      if leadExp m e ≥ 128 then .inf s else .fin s k q

/-- A result below 2^-126 in magnitude becomes a zero of its sign (R173). -/
def zap : Num → Num
  | .nan => .nan
  | .inf s => .inf s
  | .fin s m e => if m = 0 || leadExp m e < -126 then .fin s 0 0 else .fin s m e

/-- exp2_400. -/
def exp2C (x : Num) : Num :=
  match x with
  | .nan => .nan
  | .inf s => if s then .zero else .inf false
  | .fin s m e =>
    let v : Num := .fin s m e
    if m = 0 then .one
    else if geDy v 128 0 then .inf false
    else if v.lt (dy (-126) 0) then .zero
    else
      let k := floorInt (shiftNum 5 v)
      let r := v.add (dy (-k) (-5))
      let p := rtz (sumNum [.one, r.mul (rtz (cB1.add (r.mul (rtz (cB2.add (r.mul cB3))))))])
      zap (shiftNum (k / 32) (rtz ((tabNum sfuTZ (k % 32).toNat).mul p)))

/-- exp_400. -/
def expC (x : Num) : Num := exp2C (rtz (x.mul cLog2eZ))

/-- rcp_400. -/
def rcpC (x : Num) : Num :=
  match x with
  | .nan => .nan
  | .inf s => .fin s 0 0
  | .fin s m0 e0 =>
    if m0 = 0 then .inf s
    else
      let (m, e) := splitNum (.fin false m0 e0)
      let newton := fun y : Num => rtz (y.add (rtz (y.mul (rtz (Num.one.add (m.mul y).negate)))))
      withSign s (zap (rtz (shiftNum (-e) (newton (newton (tabNum sfuHZ (fracBits 5 m)))))))

/-- rsqrt_400. -/
def rsqrtC (x : Num) : Num :=
  match x with
  | .nan => .nan
  | .inf s => if s then .nan else .zero
  | .fin s m0 e0 =>
    if m0 = 0 then .inf s
    else if s then .nan
    else
      let (m, e, j) := rsqrtSplit 5 (.fin false m0 e0)
      let h := shiftNum (-1) m
      let newton := fun y : Num => rtz (y.mul (rtz ((dy 3 (-1)).add (rtz ((rtz (h.mul y)).mul y)).negate)))
      zap (shiftNum (-(e / 2)) (newton (newton (tabNum sfuRZ j))))

/-- tanh_400. -/
def tanhC (x : Num) : Num :=
  match x with
  | .nan => .nan
  | .inf s => withSign s .one
  | .fin s m e =>
    let a : Num := .fin false m e
    if m = 0 then .fin s 0 0
    else if geDy a 19 (-1) then withSign s .one
    else if a.lt (dy 1 (-12)) then zap (.fin s m e)
    else
      let t := exp2C (rtz (a.mul cTwoLog2eZ)).negate
      withSign s (zap (rtz ((rtz (Num.one.add t.negate)).mul (rcpC (rtz (Num.one.add t))))))

/-- sigmoid_400. -/
def sigmoidC (x : Num) : Num :=
  match x with
  | .nan => .nan
  | .inf s => if s then .zero else .one
  | .fin s m e =>
    if m = 0 then dy 1 (-1)
    else rcpC (rtz (Num.one.add (exp2C (rtz ((Num.fin s m e).mul cLog2eZ)).negate)))

/-! ### The functions of Table 6-4 -/

/-- Functions whose special cases ±∞ and ±0 are those of GELU and SiLU in Table 6-5; `f` serves the other inputs. -/
def gatedSpecial (x : Num) (f : Num → Num) : Num :=
  match x with
  | .nan => .nan
  | .inf s => if s then .fin true 0 0 else .inf false
  | .fin s m e => if m = 0 then .fin s 0 0 else f (.fin s m e)

/-- The vector part of GELU: h := rne(0.5 x); y := fma(h, e, h) (Table 6-4). -/
def geluPart (x e : Num) : Num := let h := mul32 (dy 1 (-1)) x; fma32 h e h

/-- Function `code` of Table 6-4 under COMPAT `c` (R161, R172); codes above 0x0D are refused at issue. -/
def sfuFunc (c : Bool) (code : Nat) (x : Num) : Num :=
  match code with
  | 0 => if c then exp2C x else sfuExp2 x
  | 1 => if c then expC x else sfuExp x
  | 2 => sfuLog2 x
  | 3 => if c then rcpC x else sfuRcp x
  | 4 => if c then rsqrtC x else sfuRsqrt x
  | 5 => sfuSqrt x
  | 6 => sfuSin x
  | 7 => sfuCos x
  | 8 => if c then tanhC x else sfuTanh x
  | 9 => if c then sigmoidC x else sfuSigmoid x
  | 10 => sfuErf x
  | 11 => gatedSpecial x fun v => geluPart v (sfuErf (mul32 v cInvSqrt2))
  | 12 => gatedSpecial x fun v =>
      let w := fma32 (mul32 v v) cGeluA cGeluB
      let u := mul32 v w
      geluPart v (if c then tanhC u else sfuTanh u)
  | _ => gatedSpecial x fun v => mul32 v (if c then sigmoidC v else sfuSigmoid v)

/-- The vector part `V` of a built-in function (Table 6-4). -/
def funcV (code : Nat) : Nat := if code = 11 ∨ code = 12 then 2 else if code = 13 then 1 else 0

end Sys2Proof.Machine
end

