-- ==== Sys2Proof/Machine/Rng.lean ====
section
/-!
DEFINITION. Machine/Rng.lean: Chapter 11, random numbers and sampling: Philox (R273 to R275), xoshiro256** lane and slot
generators (R278, R279, R283) and the row of SAMPLE (R284 to R288).
-/
namespace Sys2Proof.Machine

/-- Low 32 bits. -/
def lo32 (v : Nat) : Nat := v % 4294967296

/-- Low 64 bits. -/
def lo64 (v : Nat) : Nat := v % 18446744073709551616

/-- Counter and key of a Philox block. -/
structure Philox where
  x0 : Nat
  x1 : Nat
  x2 : Nat
  x3 : Nat
  k0 : Nat
  k1 : Nat
  deriving DecidableEq, Repr

/-- One Philox round, without the key step. -/
def philoxRound (p : Philox) : Philox :=
  let p0 := 0xD2511F53 * p.x0
  let p1 := 0xCD9E8D57 * p.x2
  { p with x0 := (p1 >>> 32) ^^^ p.x1 ^^^ p.k0, x1 := lo32 p1, x2 := (p0 >>> 32) ^^^ p.x3 ^^^ p.k1, x3 := lo32 p0 }

/-- The key step between rounds. -/
def philoxKey (p : Philox) : Philox :=
  { p with k0 := lo32 (p.k0 + 0x9E3779B9), k1 := lo32 (p.k1 + 0xBB67AE85) }

/-- Philox-4×32-10: words 0 to 3 of the block (R273). -/
def philox (p : Philox) : List Nat :=
  let q := (List.range 9).foldl (fun a _ => philoxRound (philoxKey a)) (philoxRound p)
  [q.x0, q.x1, q.x2, q.x3]

/-- u(w) (R274). -/
def uniform (w : Nat) : Num := .fin false (w >>> 8) (-24)

/-- u⁺(w) (R274). -/
def uniformPlus (w : Nat) : Num := .fin false ((w >>> 8) + 1) (-24)

/-- Word `j` of the block of element index `e` (R272). -/
def rngWord (seed stream x3 e j : Nat) : Nat :=
  let b := e / 4
  (philox ⟨lo32 b, lo32 (b >>> 32), stream, x3, lo32 seed, lo32 (seed >>> 32)⟩).getD j 0

/-- The normal value of element index `e` (R275). -/
def rngNormal (seed stream x3 e : Nat) : Num :=
  let p := e % 4 / 2
  let g := mul32 (sfuLog2 (uniformPlus (rngWord seed stream x3 e (2 * p)))) cNegTwoLn2
  let r := sfuSqrt g
  let th := mul32 (uniform (rngWord seed stream x3 e (2 * p + 1))) cTwoPi
  mul32 r (if e % 2 = 0 then sfuCos th else sfuSin th)

/-- The value of element `e` under DIST 0 to 3 (Table 11-2); p0 and p1 are the parameters as FP32 values. -/
def rngValue (dist seed stream x3 : Nat) (p0 p1 : Num) (e : Nat) : Num :=
  let w := rngWord seed stream x3 e (e % 4)
  match dist with
  | 0 => fma32 (uniform w) (add32 p1 p0.negate) p0
  | 1 => fma32 (rngNormal seed stream x3 e) p1 p0
  | 2 => intNum (toInt 32 w)
  | _ => if (uniform w).lt p0 then .one else .zero

/-! ### xoshiro256** -/

/-- State of a sequential generator (R278). -/
structure Xo where
  s0 : Nat
  s1 : Nat
  s2 : Nat
  s3 : Nat
  deriving DecidableEq, Repr

/-- Rotate a 64-bit word left. -/
def rotl64 (x k : Nat) : Nat := lo64 (x <<< k) ||| (x >>> (64 - k))

/-- The output of a state (R278). -/
def Xo.out (s : Xo) : Nat := lo64 (rotl64 (lo64 (s.s1 * 5)) 7 * 9)

/-- The state after one output (R278). -/
def Xo.next (s : Xo) : Xo :=
  let t := lo64 (s.s1 <<< 17)
  let s2 := s.s2 ^^^ s.s0
  let s3 := s.s3 ^^^ s.s1
  ⟨s.s0 ^^^ s3, s.s1 ^^^ s2, s2 ^^^ t, rotl64 s3 45⟩

/-- The SplitMix64 output of a counter value (R278). -/
def splitMix (x : Nat) : Nat :=
  let z := lo64 ((x ^^^ (x >>> 30)) * 0xBF58476D1CE4E5B9)
  let z := lo64 ((z ^^^ (z >>> 27)) * 0x94D049BB133111EB)
  z ^^^ (z >>> 31)

/-- The base state seeded from a 64-bit value (R278). -/
def Xo.seed (x : Nat) : Xo :=
  let g := fun i => splitMix (lo64 (x + i * 0x9E3779B97F4A7C15))
  ⟨g 1, g 2, g 3, g 4⟩

/-- Characteristic polynomial of the generator's linear step, coefficient i at bit i. -/
def xoPoly : Nat := 0x10003c03c3f3ecb1904b4edcf26259f850280002bcefd1a5e9d116f2bb0f0f001

/-- The jump polynomial of 2^128 steps: x^(2^128) modulo `xoPoly`. -/
def xoJ128 : Nat := 0x39abdc4529b1661ca9582618e03fc9aad5a61266f0c9392c180ec6d33cfd0aba

/-- The jump polynomial of 2^192 steps: x^(2^192) modulo `xoPoly`. -/
def xoJ192 : Nat := 0x39109bb02acbe63577710069854ee241c5004e441c522fb376e15d3efefdcbbf

/-- Product of two polynomials over GF(2) modulo `xoPoly`. -/
def polyMul (a b : Nat) : Nat :=
  ((List.range 256).foldl (fun (s : Nat × Nat) i =>
    let r := if b.testBit i then s.1 ^^^ s.2 else s.1
    let a2 := s.2 <<< 1
    (r, if a2.testBit 256 then a2 ^^^ xoPoly else a2)) (0, a)).1

/-- The n-th power of a polynomial modulo `xoPoly`, for n below 2^k. -/
def polyPow (a : Nat) : (k n : Nat) → Nat
  | 0, _ => 1
  | k + 1, n =>
    let h := polyPow (polyMul a a) k (n / 2)
    if n % 2 = 1 then polyMul a h else h

/-- The state that a polynomial in the step carries a state to. -/
def xoApply (p : Nat) (s : Xo) : Xo :=
  ((List.range 256).foldl (fun (a : Xo × Xo) i =>
    let z := a.1
    let c := a.2
    (if p.testBit i then ⟨z.s0 ^^^ c.s0, z.s1 ^^^ c.s1, z.s2 ^^^ c.s2, z.s3 ^^^ c.s3⟩ else z, c.next))
    (⟨0, 0, 0, 0⟩, s)).1

/-- J192^z (J128^l (s)) (R279), for z below 2^80 and l below 2^32. -/
def xoJump (z l : Nat) (s : Xo) : Xo := xoApply (polyMul (polyPow xoJ192 80 z) (polyPow xoJ128 32 l)) s

/-- A lane generator: its state and the random fields of the last output that are not yet used (R57). -/
structure Lane where
  st : Xo
  left : List Nat
  deriving DecidableEq, Repr

/-- The next 16-bit field of a lane (R57). -/
def Lane.draw (l : Lane) : Nat × Lane :=
  match l.left with
  | f :: t => (f, { l with left := t })
  | [] =>
    let o := l.st.out
    (bits o 0 16, ⟨l.st.next, [bits o 16 16, bits o 32 16, bits o 48 16]⟩)

/-- The state that RNGFILL with DIST 4 writes into row i (R283). -/
def streamState (seed n : Nat) : Xo := xoJump n 0 (Xo.seed seed)

/-- The eight words of a state in byte order (R283). -/
def Xo.words (s : Xo) : List Nat :=
  [s.s0, s.s1, s.s2, s.s3].flatMap fun w => [lo32 w, w >>> 32]

/-- The 32 bytes of a state in the stream table (R283). -/
def Xo.bytes (s : Xo) : List Byte := leBytes 8 s.s0 ++ leBytes 8 s.s1 ++ leBytes 8 s.s2 ++ leBytes 8 s.s3

/-- The state that 32 bytes of the stream table hold. -/
def Xo.ofBytes (l : List Byte) : Xo := ⟨fieldAt l 0 8, fieldAt l 8 8, fieldAt l 16 8, fieldAt l 24 8⟩

/-! ### SAMPLE -/

/-- The mode fields of a SAMPLE command (Table 11-5). -/
structure SampleMode where
  scale : Num
  lpWhole : Bool
  greedy : Bool
  topK : Nat
  topP : Nat
  deriving DecidableEq, Repr

/-- Sort key κ of a scaled logit (R284). -/
def sortKey (z : Num) : Nat :=
  if z == .nan then 0
  else
    let b := (f32Bits false z).1
    if z.neg then b ^^^ 0xFFFFFFFF else b ^^^ 0x80000000

/-- One entry of a row: index and scaled logit. -/
abbrev Entry := Nat × Num

/-- Insert an entry in the order κ descending, then index ascending, entries arriving in ascending index (R284). -/
def insertEntry (e : Entry) : List Entry → List Entry
  | [] => [e]
  | f :: t => if sortKey e.2 > sortKey f.2 then e :: f :: t else f :: insertEntry e t

/-- The first `k` entries of the order of R284, in that order (R285). -/
def topEntries (k : Nat) (es : List Entry) : List Entry :=
  es.foldl (fun acc e => (insertEntry e acc).take k) []

/-- Maximum of the entries that are not NaN (R284). -/
def rowMax (es : List Entry) : Num := es.foldl (fun a e => if e.2 == .nan then a else a.max e.2) (.inf true)

/-- Weight of an entry (R284). -/
def entryWeight (m : Num) (e : Entry) : Num :=
  if e.2 == .nan || e.2 == .inf true then .zero
  else if m == .inf false then (if e.2 == .inf false then .one else .zero)
  else sfuExp2 (add32 e.2 m.negate)

/-- Running sums C1, C2, … of the candidates' weights (R286). -/
def runningSums (m : Num) : Num → Bool → List Entry → List (Nat × Num)
  | _, _, [] => []
  | acc, first, e :: t =>
    let c := if first then entryWeight m e else add32 acc (entryWeight m e)
    (e.1, c) :: runningSums m c false t

/-- 128-element groups of a list. -/
def groups128 {α : Type} : (fuel : Nat) → List α → List (List α)
  | 0, _ => []
  | f + 1, l => match l with
    | [] => []
    | a :: t => ((a :: t).take 128) :: groups128 f ((a :: t).drop 128)

/-- Sum of a row as R77 chunk sums added under R79, without a flush. -/
def chunkedSum (l : List Num) : Num := ((accChunks false ((groups128 (l.length + 1) l).map (chunkSum false))).1).getD .zero

/-- Sum of all weights of a row (R287). -/
def wholeSum (m : Num) (es : List Entry) : Num := chunkedSum (es.map (entryWeight m))

/-- Log-probability from the token's scaled logit (R287). -/
def logProb (m ztok w : Num) : Num :=
  let d := if m == .inf false then .zero else add32 ztok m.negate
  mul32 (add32 d (sfuLog2 w).negate) cLn2

/-- Index of the maximum under R153: the lowest index that holds it, NaN before all, +0 above -0. -/
def argBest (better : Num → Num → Bool) (l : List Entry) : Int :=
  match l.find? (fun e => e.2 == .nan) with
  | some e => e.1
  | none =>
    match l with
    | [] => -1
    | e :: t => (t.foldl (fun b f => if better f.2 b.2 then f else b) e).1

/-- ARGMAX of R153. -/
def argMax (l : List Entry) : Int := argBest (fun a b => b.below a) l

/-- ARGMIN of R153. -/
def argMin (l : List Entry) : Int := argBest (fun a b => a.below b) l

/-- Token and log-probability of a row from its exact logits and the draw `o` (R284 to R288). -/
def sampleRow (md : SampleMode) (xs : List Num) (o : Nat) : Int × Num :=
  let es : List Entry := (List.range xs.length).zip (xs.map fun x => mul32 x md.scale)
  if es.all (fun e => e.2 == .nan || e.2 == .inf true) then (-1, .inf true)
  else
    let m := rowMax es
    if md.greedy then
      let tok := argMax es
      let zt := (es.getD tok.toNat (0, .nan)).2
      (tok, if md.lpWhole then logProb m zt (wholeSum m es) else .zero)
    else
      let cand := if md.topK = 0 then es else topEntries (min md.topK xs.length) es
      let cs := runningSums m .zero true cand
      let cn := (cs.getLastD (0, .zero)).2
      let keep := if md.topP = 0 then cs else
        let p := mul32 (.fin false md.topP (-16)) cn
        cs.take ((cs.takeWhile fun c => c.2.lt p).length + 1)
      let w := (keep.getLastD (0, .zero)).2
      let t := mul32 (.fin false (o >>> 40) (-24)) w
      let tok := match keep.find? (fun c => t.lt c.2) with
        | some c => c.1
        | none => (keep.getLastD (0, .zero)).1
      let zt := (es.getD tok (0, .nan)).2
      (tok, logProb m zt (if md.lpWhole then wholeSum m es else w))

end Sys2Proof.Machine
end

