-- ==== Sys2Proof/Machine/Tab.lean ====
section
/-!
DEFINITION. Machine/Tab.lean: reading and writing a sparse table. `d k` is what index `k` holds while it is not listed.
-/
namespace Sys2Proof.Machine

/-- The value at index `k`. -/
def tget {α : Type} (d : Nat → α) : Tab α → Nat → α
  | [], k => d k
  | (j, v) :: t, k => if j = k then v else tget d t k

/-- The table with `v` at index `k`; the canonical form is kept (Laws/Tab.lean). -/
def tset {α : Type} [DecidableEq α] (d : Nat → α) : Tab α → Nat → α → Tab α
  | [], k, v => if v = d k then [] else [(k, v)]
  | (j, w) :: t, k, v =>
    if k < j then (if v = d k then (j, w) :: t else (k, v) :: (j, w) :: t)
    else if k = j then (if v = d k then t else (k, v) :: t)
    else (j, w) :: tset d t k v

/-- Back to the unlisted value at every index that `p` picks. -/
def tclear {α : Type} (p : Nat → Bool) (t : Tab α) : Tab α :=
  t.filter fun e => !p e.1

/-- Every listed index is above `lo`, indices rise strictly, and no listed value is the unlisted one. -/
def twfAbove {α : Type} [DecidableEq α] (d : Nat → α) (lo : Nat) : Tab α → Bool
  | [] => true
  | (j, v) :: t => decide (lo ≤ j) && decide (v ≠ d j) && twfAbove d (j + 1) t

/-- Indices rise strictly, from `lo` up. -/
def risesAbove {α : Type} (lo : Nat) : Tab α → Bool
  | [] => true
  | (j, _) :: t => decide (lo ≤ j) && risesAbove (j + 1) t

/-- Indices rise strictly. -/
def rises {α : Type} (t : Tab α) : Bool := risesAbove 0 t

/-- The canonical form of a table. -/
def twf {α : Type} [DecidableEq α] (d : Nat → α) (t : Tab α) : Bool := twfAbove d 0 t

end Sys2Proof.Machine
end

