-- ==== Sys2Proof/Machine/State.lean ====
section
/-!
DEFINITION. Machine/State.lean: everything the spec gives the block, as plain data, and the state after reset.
-/
namespace Sys2Proof.Machine

/-! ### Commands in flight (Chapter 4) -/

/-- A tensor descriptor as the anchor holds it after issue: sizes resolved (R101, R105). -/
structure Desc where
  at_ : Nat
  base : Nat
  rank : Nat
  fmt : Fmt
  kind : Nat
  sizes : List Nat
  strides : List Int
  scaleBase : Nat
  indBase : Nat
  dtag : Nat
  deriving DecidableEq, Repr

/-- A stage record of a seam with its operands resolved (Table 5-2). -/
structure Stage where
  typ : Nat
  side : Nat
  cvt : Nat
  sfmt : Fmt
  param : Nat
  d1 : Option Desc
  d2 : Option Desc
  geo : List Nat
  k0 : Nat
  k1 : Nat
  clo : Nat
  chi : Nat
  deriving DecidableEq, Repr

/-- The item walk of a tiled command (R110): sizes of batch dimensions 2 to 4, row tiles, column tiles, parts per tile, and
whether the walk is column major. -/
structure Walk where
  b2 : Nat
  b3 : Nat
  b4 : Nat
  tu : Nat
  tv : Nat
  f : Nat
  col : Bool
  deriving DecidableEq, Repr

/-- What the anchor resolves at issue and sends to the shuttles of the span (R96, R108): operand descriptors in operand order,
position of the first output among them, stages, item walk, tile rows, CHAIN group width, buffering, buffer need in units of
4 KiB, issue-time count, and values sampled from registers or memory, as the opcode needs them. -/
structure Plan where
  descs : List Desc
  outIx : Nat
  stages : List Stage
  walk : Walk
  tm : Nat
  gw : Nat
  single : Bool
  units : Nat
  count : Nat
  image : Option Nat
  extra : List Nat
  deriving DecidableEq, Repr

/-- A plan of a command that has not issued. -/
def Plan.none : Plan := ⟨[], 0, [], ⟨1, 1, 1, 0, 0, 1, false⟩, 0, 1, false, 0, 0, .none, []⟩

/-- Where a part of a command stands in its shuttle. -/
inductive PartSt where
  | ready | running
  deriving DecidableEq, Repr

/-- The part of a command in one cluster of its span (R97, R118); `lanes` holds the lane generators of a ring part between its
steps. -/
structure Part where
  cluster : Nat
  st : PartSt
  reported : Bool
  status : Nat
  poison : Bool
  flushN : Nat
  dig : Nat
  full : Nat
  addr : Nat
  lanes : List Lane
  deriving DecidableEq, Repr

/-- A finished reduction part of an output tile, waiting for the owner's merge slot; for part 0, the owner's tile merged so far
(R111): output tile number, part number, rows of FP32 encodings or INT32 fields, quiet rows of a carry-over step (R238), the next
part to merge, and the random fields that the owner's epilogue takes (R279). -/
structure PartTile where
  tile : Nat
  part : Nat
  vals : List (List Nat)
  quiet : List Bool
  next : Nat
  flds : List (List Nat)
  deriving DecidableEq, Repr

/-- Where a command stands: fetched, issued, or finished with its record still owed. -/
inductive CmdSt where
  | fetched | issued | ended
  deriving DecidableEq, Repr

/-- A command that the anchor tracks (R95, R118). `armed` lists the DUMP slots that it matched at
issue, each with the number of the DUMP that armed it (R537); `ready` says that the engine of an anchor opcode has
finished it. -/
structure Cmd where
  id : Nat
  q : Nat
  ctx : Nat
  seq : Nat
  bytes : List Byte
  span : List Nat
  st : CmdSt
  waits : List Bool
  openAt : Option Nat
  ftz : Bool
  compat : Bool
  lseed : Nat
  lsalt : Nat
  plan : Plan
  parts : List Part
  tiles : List PartTile
  status : Nat
  dslot : Nat
  dfield : Nat
  addr : Nat
  flush : Bool
  poisoned : Bool
  bad : List Nat
  armed : List (Nat × Nat)
  ring : Nat
  ready : Bool
  deriving DecidableEq, Repr

/-- A completion record that waits for room in its ring (R399), without its TEND field, and the number of its command. -/
structure WaitRec where
  id : Nat
  bytes : List Byte
  deriving DecidableEq, Repr

/-- A queue beside its PCI_QSTAT register (Table 16-3, R396 to R402). -/
structure Queue where
  ctx : Nat
  sqLog2 : Nat
  cqLog2 : Nat
  sqDev : Bool
  cqDev : Bool
  sqBase : Nat
  cqBase : Nat
  ien : Bool
  vector : Nat
  modCnt : Nat
  modTime : Nat
  sqTail : Nat
  cqHead : Nat
  waiting : List WaitRec
  unsig : Nat
  firstAt : Nat
  deriving DecidableEq, Repr

/-- A FREE queue. [Log 9 DESIGN CHOICE] -/
def Queue.free : Queue := ⟨0, 0, 0, false, false, 0, 0, false, 0, 0, 0, 0, 0, [], 0, 0⟩

/-- A DUMP trigger slot (Table 22-8). -/
structure DumpSlot where
  src : Nat
  operand : List Byte
  fired : Nat
  deriving DecidableEq, Repr

/-- A fault of a context that its teardown has not handled yet: status, class of the record, address, syndrome, record that
caused it (R383, R507). -/
structure CtxFault where
  status : Nat
  cls : Nat
  addr : Nat
  syn : Nat
  cmd : Option Nat
  cause : Option Nat
  deriving DecidableEq, Repr

/-- A context reset or destroy (R373): function whose operation it is (none: a function-level reset or a partition reset), whether it ends
FREE, whether it waits for a teardown or for issued commands, and the tails of the bound queues when it began (R401). -/
structure CtxReset where
  by_ : Option Nat
  destroy : Bool
  waits : Bool
  tails : List (Nat × Nat)
  deriving DecidableEq, Repr

/-- A context beside its registers (Table 15-5, R373): reach list, DUMP slots, a fault not yet torn down with its command's
bytes and DTAG for the record, a reset or destroy. -/
structure Context where
  reaches : List Nat
  dumps : List (Option DumpSlot)
  fault : Option CtxFault
  faultOp : Option (List Byte)
  faultTag : Nat
  reset : Option CtxReset
  deriving DecidableEq, Repr

/-- A FREE context. [Log 9 DESIGN CHOICE] -/
def Context.free : Context := ⟨[], [none, none, none, none], none, none, 0, none⟩

/-- A cluster beside its registers: microprogram image (R164), contexts by last start (R375), time of the last ARYCHK (R514),
buffer rows remapped per macro (R515), fleet test position. -/
structure Cluster where
  image : List Byte
  starts : Tab Nat
  nextStart : Nat
  lastChk : Option Nat
  remaps : Tab Nat
  rowErrs : Tab Nat
  testPos : Nat
  testAt : Option Nat
  act : Nat
  deriving DecidableEq, Repr

/-- A cluster after reset. [Log 9 DESIGN CHOICE] -/
def Cluster.fresh : Cluster := ⟨[], [], 0, none, [], [], 0, none, 0⟩

/-- A folded record that waits for the end of its millisecond (R504): class, unit kind, unit, millisecond, record, count. -/
structure Folded where
  cls : Nat
  kind : Nat
  unit : Nat
  ms : Nat
  first : List Byte
  count : Nat
  deriving DecidableEq, Repr

/-- A FENCE of cluster scope that has completed and still holds back later parts in its span (R303). -/
structure FenceBar where
  id : Nat
  q : Nat
  ctx : Nat
  whole : Bool
  span : List Nat
  deriving DecidableEq, Repr

/-! ### The flash tier (Chapter 14) -/

/-- A pending update of a dense region (R345): its content, the blocks it has written, those of them that are poisoned. -/
structure FlUpd where
  data : Tab Byte
  blocks : List Nat
  bad : List Nat
  deriving DecidableEq, Repr

/-- A flash region beside its registers: content by byte offset (an unlisted byte is 0), blocks written, blocks that read as poison,
the pending update, FLWRITE commands that wait their turn, the number of version switches so far, the replaced blocks that reads still hold, by
number of the switch that replaced them (R345), and the number of its key pair (R358). -/
structure FlRegion where
  data : Tab Byte
  written : List Nat
  bad : List Nat
  upd : Option FlUpd
  ops : List Nat
  switches : Nat
  held : List (Nat × Nat)
  key : Nat
  deriving DecidableEq, Repr

/-- A region that was never written. -/
def FlRegion.fresh : FlRegion := ⟨[], [], [], none, [], 0, [], 0⟩

/-- Whom a read job serves: an FLREAD by command number, or the agent of a partition. -/
inductive FlFor where
  | read (cmd : Nat)
  | fetch (part : Nat)
  deriving DecidableEq, Repr

/-- NAND reads in progress: the content that they read, the blocks found unreadable, those that still have to be read, and the number of the
region's last version switch when they began. -/
structure FlJob where
  who : FlFor
  region : Nat
  data : Tab Byte
  bad : List Nat
  left : List Nat
  epoch : Nat
  deriving DecidableEq, Repr

/-- A write that is staged and not yet programmed (R360): its bytes, whether it belongs to an update, whether it is durable, the
content that its blocks held before. -/
structure FlWrite where
  id : Nat
  region : Nat
  bytes : Nat
  upd : Bool
  durable : Bool
  blocks : List Nat
  prev : Tab Byte
  deriving DecidableEq, Repr

/-- The flash tier beside its registers: regions, jobs, staged writes, usable and free capacity in dense 4 KiB blocks (0 usable: never trained, R340), bits per cell of the dense
mode, spare and total erase blocks of each mode, erases, the rated dense endurance, tenths of the rating already reported for each
mode, and since when the hold-up probe has passed with the limit at STAGECAP (R362). -/
structure Flash where
  regions : Tab FlRegion
  jobs : List FlJob
  writes : List FlWrite
  nextWrite : Nat
  usable : Nat
  free : Nat
  cellBits : Nat
  spareDense : Nat
  spareSlc : Nat
  capDense : Nat
  capSlc : Nat
  erases : Nat
  rating : Nat
  wornDense : Nat
  wornSlc : Nat
  probeOk : Bool
  goodSince : Option Nat
  relocate : List (Nat × Nat)
  flushing : Bool
  deriving DecidableEq, Repr

/-- The tier before training. [Log 9 DESIGN CHOICE] -/
def Flash.fresh : Flash := ⟨[], [], [], 0, 0, 0, 0, 0, 0, 0, 0, 0, 0, 0, 0, false, none, [], false⟩

/-! ### Key/value pools (Chapter 8) -/

/-- A pool record as the agent read it (Tables 8-2 and 8-3). -/
structure Pool where
  nl : Nat
  page : Nat
  tpf : Nat
  kfmt : Fmt
  vfmt : Fmt
  kb : Nat
  vb : Nat
  maxlen : Nat
  spillreg : Nat
  slottab : Nat
  ptbase : Nat
  fdbase : Nat
  journal : Nat
  spillmap : Nat
  spillunits : Nat
  exts : List (Nat × Nat)
  deriving DecidableEq, Repr

/-- A KVFORK, KVFREE or KVPREFETCH at the agent: its command, whether its checks at the agent have been made; then of an eviction or a prefetch
which of the two it is, its slot, the next entry and one past the last; the counts of its result block. -/
structure AgReq where
  cmd : Nat
  started : Bool
  evict : Bool
  slot : Nat
  cur : Nat
  till : Nat
  acted : Nat
  released : Nat
  skipped : Nat
  poisoned : Nat
  deriving DecidableEq, Repr

/-- An agent operation that waits for the flash tier: an eviction of entry `cur` into a unit under a flash write, or a fetch of it
into a frame. -/
inductive AgBusy where
  | evict (req : AgReq) (unit write : Nat)
  | fetch (req : AgReq) (frame : Nat)
  deriving DecidableEq, Repr

/-- The agent of a partition (R207, R208): the pool as initialised, head of the free list, cluster it runs in, requests that wait in
order of arrival, the operation in progress, an INIT that waits for it. -/
structure Agent where
  pool : Option Pool
  head : Nat
  cluster : Option Nat
  queue : List AgReq
  busy : Option AgBusy
  initWaits : Bool
  deriving DecidableEq, Repr

/-- The end of the free list (Table 8-6). -/
def noFrame : Nat := 0xFFFFFFF

/-- An agent without a pool. [Log 9 DESIGN CHOICE] -/
def Agent.fresh : Agent := ⟨none, noFrame, none, [], none, false⟩
/-! ### Zaljan ports and the archipelago (Chapter 17) -/

/-- A WR of this device: the command that it serves (none: a ring acknowledgement), its port in a ring command's part, the offset of its
range in the send, its header slot without WID, its data, and its WACK code once that has come back (R416, R419). -/
structure TxWr where
  cmd : Nat
  off : Nat
  hdr : Nat
  data : List Byte
  wid : Nat
  code : Option Nat
  deriving DecidableEq, Repr

/-- A WR that has passed or failed the receive checks: WID, header slot, data, code of the WACK; `fin` says that its WACK may be
queued (R417 to R419). -/
structure RxWr where
  wid : Nat
  hdr : Nat
  data : List Byte
  code : Nat
  fin : Bool
  deriving DecidableEq, Repr

/-- A data flit in the replay buffer: SEQ, time of its last sending, its 256 bytes (R412). -/
structure TxFlit where
  seq : Nat
  at_ : Nat
  bytes : List Byte
  deriving DecidableEq, Repr

/-- A Zaljan port beside its registers: training step; since when it trains, or, while UP, when its last good flit came; SEQ of the next data flit; last SEQ accepted and whether a gap
is open; replay buffer and successive replays without advance; send credits and credits to return, by class (write, acknowledgement,
side-band); messages that wait to be sent; the slots of a message under way; sent WRs without a place in the acknowledged prefix; received
WRs, WACKs and side-band messages (with their reception stamps) that wait; DGR sent; time of the sweep stamps. -/
structure Port where
  step : Nat
  since : Nat
  txSeq : Nat
  rxSeq : Nat
  gap : Bool
  unacked : List TxFlit
  replays : Nat
  credits : List Nat
  returns : List Nat
  txSb : List Nat
  txWack : List Nat
  txWr : List TxWr
  txSlots : List (List Byte)
  wid : Nat
  sent : List TxWr
  rxSlots : List (List Byte)
  rxWr : List (List (List Byte))
  rx : List RxWr
  rxWack : List Nat
  rxSb : List (Nat × Nat)
  dgr : Nat
  deriving DecidableEq, Repr

/-- A port that has not trained. [Log 9 DESIGN CHOICE; 57 DESIGN CHOICE] -/
def Port.fresh : Port := ⟨1, 0, 0, 0xFFF, false, [], 0, [0, 0, 0], [0, 0, 0], [], [], [], [], 0, [], [], [], [], [], [], 0⟩

/-- A hop of a timebase sweep: child port, round, misses of the running round, t1 of the probe, the best round so far (round trip, c)
(R494). -/
structure Hop where
  port : Nat
  round : Nat
  misses : Nat
  t1 : Option Nat
  best : Option (Nat × Int)
  deriving DecidableEq, Repr

/-- The archipelago state beside ZLK_ARCH (R426 to R428): best key, time of its last change, whether the election has ended, parent port,
children (ports that brought TOPO, with the device number of the child once known), largest FORMNO seen, FORMED replies still owed to the
lead; the frequency group (R490, R491): members (device, FMAX, time), switches pending (instant, GF), time of the last word from the group
lead; a timebase sweep (R494, R495): new ALGEN, end of the 50 ms timer, children still to align, children still to report, the running
hop, whether a hop below broke, ports that broke a sweep; the rate trim (R497): t1 of the probe to the parent, the trim in 2^−32 and the
fraction of a nanosecond that it has gathered. -/
structure Arch where
  best : Nat
  bestAt : Nat
  ended : Bool
  parent : Option Nat
  children : List (Nat × Nat)
  formMax : Nat
  replies : Nat
  fg : List (Nat × Nat × Nat)
  switches : List (Nat × Nat)
  leadAt : Nat
  algen : Nat
  timer : Option Nat
  align : List Nat
  owed : List Nat
  hop : Option Hop
  bad : Bool
  broke : List Nat
  trimT1 : Option Nat
  trim : Int
  trimAcc : Int
  deriving DecidableEq, Repr

/-- No formation. [Log 9 DESIGN CHOICE] -/
def Arch.fresh : Arch := ⟨0, 0, false, none, [], 0, 0, [], [], 0, 0, none, [], [], none, false, [], none, 0, 0⟩

/-! ### Codec engines (Chapter 18) -/

/-- A frame of a stream that is fetched and not complete: its descriptor, SEQ, whether it has started, its next block row, whether it
is suspended or was, TSTART, whether its start wait has been satisfied, bytes of bitstream so far, and what decoding found so far: blocks
concealed, first damaged block, classes, poison, a damaged reference, a status, its picture buffer. -/
structure Frame where
  desc : List Byte
  seq : Nat
  started : Bool
  row : Nat
  held : Bool
  preempted : Bool
  tstart : Nat
  sat : Bool
  out : List Byte
  conc : Nat
  firstErr : Nat
  classes : Nat
  poisoned : Bool
  badRef : Bool
  status : Nat
  pic : Nat
  deriving DecidableEq, Repr

/-- A frame record that waits for room in its ring (R442), with the signal that follows it (token, increment: R445) and its deadline. -/
structure WaitFrame where
  bytes : List Byte
  signal : Option (Nat × Nat)
  deadline : Nat
  deriving DecidableEq, Repr

/-- A stream beside its CDC_SSTAT: the descriptor, FTAIL, CHEAD, records that wait for room, interrupt moderation, the frame fetched and not
complete, the tail up to which a disable ends frames, pictures held for software with their order counts, buffers or slots in use as
references (encode: marks), buffers that hold a concealed or poisoned picture, a close that waits (R455). -/
structure Stream where
  desc : List Byte
  fTail : Nat
  cHead : Nat
  waiting : List WaitFrame
  unsig : Nat
  firstAt : Nat
  frame : Option Frame
  written : Nat
  pics : List (Nat × Nat)
  refs : List Nat
  damaged : List Nat
  closing : Bool
  deriving DecidableEq, Repr

/-- A FREE stream. [Log 9 DESIGN CHOICE] -/
def Stream.free : Stream := ⟨[], 0, 0, [], 0, 0, none, 0, [], [], [], false⟩

/-- A codec engine beside its registers: the stream whose frame it works on, batch codec cycles served by partition, and the last
batch stream served by partition (R450). -/
structure Engine where
  cur : Option Nat
  served : Tab Nat
  last : Tab Nat
  deriving DecidableEq, Repr

/-- An idle engine. [Log 9 DESIGN CHOICE] -/
def Engine.fresh : Engine := ⟨none, [], []⟩

/-! ### Sites, harbourmaster, power, signals (Chapters 13, 19, 20, 21, 25) -/

/-- A site beside its registers: next word of the patrol scrub; readings at 1× since fast polling began; 1 + the multiplier code of a last
reading that called for a lower one, else 0; whether the last reading lay within the limit while HOT (R328, R331, R332). -/
structure Site where
  scrub : Nat
  calm : Nat
  lower : Nat
  cool : Bool
  deriving DecidableEq, Repr

/-- A site after reset. [Log 9 DESIGN CHOICE] -/
def Site.fresh : Site := ⟨0, 0, 0, false⟩

/-- A clear or margin operation of MEM_OPCTL (R329, R334). -/
structure MemOp where
  margin : Bool
  site : Nat
  channel : Nat
  kind : Nat
  deriving DecidableEq, Repr

/-- A boot directory copy (R460): GEN, PREF, CHSLOT. -/
structure BootDir where
  gen : Nat
  pref : Nat
  chslot : Nat
  deriving DecidableEq, Repr

/-- The boot flash and the harbourmaster's fuses beside its registers (R459 to R471): directory copies, images A and B (none = erased),
records of charter slots 0 and 1, the fused owner digest, MINSECVER as raised, the installed signer table, the pending or applying
record, an image write in progress (slot, source bytes) with its requester, the partition and requester of a running partition reset. -/
structure Boot where
  dirs : List (Option BootDir)
  images : List (Option (List Byte))
  slots : List (List (List Byte))
  owner : Option (List Byte)
  minSec : Option Nat
  signers : List (List Byte)
  record : Option (List Byte)
  imgWrite : Option (Nat × List Byte)
  partReset : Option Nat
  deriving DecidableEq, Repr

/-- A boot flash with nothing written. [Log 8 DESIGN CHOICE; 70 DESIGN CHOICE] -/
def Boot.fresh : Boot := ⟨[none, none], [none, none], [[], []], none, none, [], none, none, none⟩

/-- Where a run of phases is going (R472 to R474): the direction last requested; whether a phase is under way; whether it is the down run
of a phase whose up run was abandoned or passed its bound; a device reset that runs, or that waits for a phase boundary or for an
amendment; whether a fatal fault lies in the harbour die's rail or clock, so that only a power cycle ends it (R519); the images whose
firmware did not report alive in this phase 3. [Log 8 DESIGN CHOICE] -/
structure Sequencer where
  want : Bool
  moving : Bool
  partial_ : Bool
  reset : Bool
  resetWaits : Bool
  hardFatal : Bool
  aliveFails : List Nat
  deriving DecidableEq, Repr

/-- Pins and straps (Chapter 25): the standby rails are up; ON_REQ high; PWRFAIL_N low; the external throttle holds;
THERMTRIP_N asserted; sampled straps MBADDR, BFCLK, RECOV; board test; the system reference has stopped. [Log 8 DESIGN CHOICE] -/
structure Pins where
  standby : Bool
  onReq : Bool
  pwrfail : Bool
  extLow : Bool
  thermtrip : Bool
  sampled : Bool
  mbaddr : Nat
  bfclk : Nat
  recov : Bool
  boardTest : Bool
  refLost : Bool
  deriving DecidableEq, Repr

/-- The power controller beside its registers (R480 to R488): sensors in °C, the harbour die's last; a raise that waits for its rail ramp
by island; island clocks stretched by a current trip; per-island cap by the thermal and current reasons, in 50 MHz; the learned table
by index: key and p in mW; whether a thermal off request stands; the highest frequency that the device's own limits allow on every
island, before group lock (FMAX of R490). -/
structure Power where
  sensors : List Int
  raise_ : Tab Nat
  stretched : List Nat
  thermF : List Nat
  currF : List Nat
  table : Tab (List Byte × Nat)
  hot : Bool
  allow : Nat
  deriving DecidableEq, Repr

/-- The controller after device reset. [Log 9 DESIGN CHOICE] -/
def Power.fresh : Power := ⟨[], [], [], [36, 36, 36, 36], [36, 36, 36, 36], [], false, 36⟩

/-- A fleet test bundle (Table 21-9): BUNDLEID, RETIRE, PERIOD in minutes, items, input data. -/
structure Bundle where
  id : Nat
  retire : Bool
  period : Nat
  items : List (List Byte)
  data : List Byte
  deriving DecidableEq, Repr

/-- The MSI-X capability of a function (R392): enable, function mask, entries (16 bytes as a number; reset: masked), pending bits. [Log 53 PRESUMED] -/
structure Msix where
  enable : Bool
  fmask : Bool
  table : Tab Nat
  pba : List Nat
  deriving DecidableEq, Repr

/-- After a conventional or function-level reset. -/
def Msix.fresh : Msix := ⟨false, false, [], []⟩

/-! ### The machine -/

/-- What the device has sent on its interfaces, newest first: the model's own record of its outputs; no step reads it. -/
inductive Out where
  | hostWrite (fn addr : Nat) (data : List Byte) (poison : Bool)
  | msix (fn vector : Nat)
  | mctp (kind a b : Nat)
  | flit (port : Nat) (data : List Byte)
  | readReply (fn : Nat) (data : List Byte) (poison : Bool)
  | siteReply (word : Nat) (data : List Byte) (poison : Bool)
  | unsupported (fn : Nat)
  | pin (name : Nat) (level : Bool)
  deriving DecidableEq, Repr

/-- Why a command stops the machine. No command of this model does: every outcome the spec gives is a next state. [Log 4 DESIGN CHOICE] -/
inductive Fault where
  /-- Raised by no meaning (safe). -/
  | none
  deriving DecidableEq, Repr

/-- Why a command is refused. [Log 4 DESIGN CHOICE] -/
inductive Refusal where
  /-- Raised by Dispatch.lean only, for a command that has no meaning yet (safe). -/
  | notModelled (mnemonic : String)
  deriving DecidableEq, Repr

/-- The state of the block: the commands that wait, and everything the spec gives the device. -/
structure State where
  /-- Commands waiting, first in, first out. -/
  pending : List Instr
  /-- Every register field that differs from its value at reset, by `Fld.key`. -/
  regs : Tab Nat
  /-- Two-slot write latches (R556), by accessor: its function, 64 for the management bus. -/
  latch : Tab Nat
  /-- Data bytes of the 48 sites by device address; an unlisted byte is 0. -/
  mem : List Host.Cell
  /-- For each 64-byte word by word number: its stored check bytes xor the code's check bytes of its data (R322). -/
  ecc : Tab Nat
  ctxs : Tab Context
  queues : Tab Queue
  /-- Commands fetched and not completed, oldest first. -/
  cmds : List Cmd
  nextCmd : Nat
  fences : List FenceBar
  clusters : Tab Cluster
  /-- The flash tier. -/
  flash : Flash
  /-- Key/value agents by partition. -/
  agents : Tab Agent
  /-- Trace event numbers by partition (R532). -/
  evseq : Tab Nat
  /-- The error queue, oldest record first (R505). -/
  erq : List (List Byte)
  /-- RSEQ of the next record. -/
  rseq : Nat
  /-- Firmware log: records of severity 2 and 3, newest first (R505). -/
  fwLog : List (List Byte)
  /-- Folded records of the running millisecond (R504). -/
  folded : List Folded
  /-- Open handlings, most recent first, by RSEQ (R507). -/
  handling : List Nat
  /-- Retired clusters, as the firmware log keeps them (R514). -/
  retired : List Nat
  /-- The retirement list is cleared at the next device reset (R514). -/
  clearRetired : Bool
  /-- Islands lost since the last device reset (R518). -/
  lostIslands : List Nat
  /-- Zaljan ports. -/
  ports : Tab Port
  arch : Arch
  streams : Tab Stream
  engines : Tab Engine
  sites : Tab Site
  memOp : Option MemOp
  boot : Boot
  seqr : Sequencer
  pins : Pins
  power : Power
  bundle : Option Bundle
  msixs : Tab Msix
  /-- Lanes of the PCIe link. -/
  pcieLanes : Nat
  /-- Spare lanes used and lanes lost, by strait (R516). -/
  straits : Tab Nat
  /-- How many free values have been taken. The model's own field. -/
  fresh : Nat
  /-- What the device has sent, newest first. The model's own field. -/
  out : List Out
  deriving DecidableEq, Repr

/-- The machine just after the standby supply rises: every field and register at its reset value, the device OFF. [Log 8 DESIGN CHOICE] -/
def State.reset : State :=
  { pending := [], regs := [], latch := [], mem := [], ecc := [], ctxs := [], queues := [], cmds := [], nextCmd := 0, fences := [],
    clusters := [], flash := Flash.fresh, agents := [], evseq := [], erq := [], rseq := 0, fwLog := [], folded := [], handling := [], retired := [],
    clearRetired := false, lostIslands := [], ports := [], arch := Arch.fresh, streams := [], engines := [],
    sites := [], memOp := none, boot := Boot.fresh, seqr := ⟨false, false, false, false, false, false, []⟩,
    pins := ⟨true, false, false, false, false, false, 0, 0, false, false, false⟩, power := Power.fresh, bundle := none, msixs := [],
    pcieLanes := 16, straits := [], fresh := 0, out := [] }

end Sys2Proof.Machine
end

