-- ==== Sys2Proof/Machine/Ops.lean ====
section
/-!
DEFINITION. Machine/Ops.lean: the named operations over registers, clocks, units, memory with its inline ECC (Chapter 13) and
the error queue (Chapter 21) that every meaning is written over.
-/
namespace Sys2Proof.Machine

/-! ### Registers -/

/-- The value of a field in instance `i` of its register. [Log 6 DEDUCED] -/
def State.getF (s : State) (f : Fld) (i : Nat) : Nat := tget (fun _ => f.dflt i) s.regs (f.key i)

/-- The state with a field set; the value is cut to the field's width. [Log 6 DEDUCED] -/
def State.setF (s : State) (f : Fld) (i : Nat) (v : Nat) : State :=
  { s with regs := tset (fun _ => f.dflt i) s.regs (f.key i) (v % 2 ^ f.w) }

/-- A one-bit field. -/
def State.flag (s : State) (f : Fld) (i : Nat) : Bool := s.getF f i == 1

/-- Add to a counter field that wraps. -/
def State.bump (s : State) (f : Fld) (i : Nat) (n : Nat) : State := s.setF f i (s.getF f i + n)

/-- Add to a counter field that saturates. -/
def State.bumpSat (s : State) (f : Fld) (i : Nat) (n : Nat) : State := s.setF f i (satAdd f.w (s.getF f i) n)

/-- The whole value of a register, reserved fields reading 0. -/
def State.readReg (s : State) (r : Reg) (i : Nat) : Nat :=
  r.flds.foldl (fun a f => if f.acc = .wo then a else a + s.getF f i <<< f.lo) 0

/-- Put every field of the given register numbers and instances back to its reset value. -/
def State.clearRegs (s : State) (p : Nat → Nat → Bool) : State :=
  { s with regs := tclear (fun k => p (k / 128 % 256) (k / 32768)) s.regs }

/-- Timebase in ns (R493). -/
def State.now (s : State) : Nat := s.getF F.tmbNowNs 0

/-- Device output, newest first. -/
def State.emit (s : State) (o : Out) : State := { s with out := o :: s.out }

/-- The next free value number. -/
def State.bumpFresh (s : State) (n : Nat) : State := { s with fresh := s.fresh + n }

/-! ### Units -/

/-- Island of a cluster (R25). -/
def clusterIsland (c : Nat) : Nat := c / 200

/-- Reach of a cluster (R25). -/
def clusterReach (c : Nat) : Nat := c / 10

/-- Island of a memory site (R23). -/
def siteIsland (n : Nat) : Nat := n / 12

/-- Bytes of a site window (R36). -/
def siteWindow : Nat := 0x1000000000

/-- Reach `r` belongs to partition `p` (Tables 15-3 and 15-4). -/
def State.hasReach (s : State) (p r : Nat) : Bool :=
  if r < 64 then bit (s.getF F.chtPreachloReach p) r else r < 80 && bit (s.getF F.chtPreachhiReach p) (r - 64)

/-- Cluster `c` is retired (Table 21-14). -/
def State.isRetired (s : State) (c : Nat) : Bool := bit (s.getF F.erqRetiredBits (c / 64)) (c % 64)

/-- Partition that owns a site; 31 = none (Table 13-7). -/
def State.siteOwner (s : State) (n : Nat) : Nat := s.getF F.memStatusOwner n

/-- Site capacity in bytes (Table 13-7). -/
def State.siteCap (s : State) (n : Nat) : Nat := 0x400000000 <<< s.getF F.memStatusCap n

/-- Bytes of the staging window on a site, over the partitions whose window lies there (R360, Table 24-5). -/
def State.stageBytes (s : State) (n : Nat) : Nat :=
  maxOf ((List.range 16).map fun p =>
    if s.getF F.fltStageSite p = n then s.getF F.fltStageSize p * 0x100000 else 0)

/-- Bytes of the usable range of a site (R36). -/
def State.usable (s : State) (n : Nat) : Nat := s.siteCap n / 16 * 15 - s.stageBytes n

/-- A site that can be accessed: trained and not being cleared or margined, or lost (R36, R329, R330). -/
def State.siteUp (s : State) (n : Nat) : Bool := s.getF F.memStatusState n == 2 || s.getF F.memStatusState n == 5

/-- The range of `len` bytes at `a` lies in the usable range of one accessible site that `ok` admits (R37, R103). [Log 16 DEDUCED] -/
def State.inSite (s : State) (ok : Nat → Bool) (a len : Nat) : Bool :=
  let n := a / siteWindow
  decide (n < 48) && s.siteUp n && ok n && decide (a % siteWindow + len ≤ s.usable n)

/-- The range lies in the usable range of one site that partition `p` owns (R103). -/
def State.owned (s : State) (p a len : Nat) : Bool := s.inSite (fun n => s.siteOwner n == p) a len

/-- The ranges of a register file: counter `t` is in [first, first + count). -/
def inRange (first count t : Nat) : Bool := decide (first ≤ t) && decide (t < first + count)

/-- Token counter `t` is allocated to partition `p` (R298). -/
def State.ownsToken (s : State) (p t : Nat) : Bool :=
  inRange (s.getF F.shtTokallocTokfirst p) (s.getF F.shtTokallocTokcount p) t

/-- Arrival counter `a` is allocated to partition `p` (R309). -/
def State.ownsArrival (s : State) (p a : Nat) : Bool :=
  inRange (s.getF F.zlkArrallocArrfirst p) (s.getF F.zlkArrallocArrcount p) a

/-- Partition of a function: 16 for the physical function, 17 for a virtual function bound to none (R369). -/
def State.fnPart (s : State) (fn : Nat) : Nat :=
  if fn = 0 then 16 else if s.flag F.chtFuncBound fn then s.getF F.chtFuncPart fn else 17

/-- The accessor may act on units of partition `p` (R369). -/
def State.mayAct (s : State) (a : Acr) (p : Nat) : Bool :=
  match a with
  | .mb => true
  | .fn n => n == 0 || s.fnPart n == p

/-! ### Error records (Chapter 21) -/

/-- Fields of an error record that its writer gives (Table 21-1). -/
structure Rec where
  cls : Nat
  sev : Nat
  kind : Nat := 0
  unit : Nat := 0
  sub : Nat := 0
  island : Nat := 4
  op : Option (List Byte × Nat × Nat) := none
  dtag : Nat := 0
  addr : Nat := 0
  syn : Nat := 0
  status : Nat := 0
  cause : Option Nat := none
  count : Nat := 1
  deriving DecidableEq, Repr

/-- Bytes 20 to 29 of a record: opcode, partition and context, and the three IDs of the command (Table 21-1). -/
def opBytes (o : Option (List Byte × Nat × Nat)) : List Byte :=
  match o with
  | none => leBytes 10 0
  | some (cmd, part, ctx) =>
    cmd.take 1 ++ leBytes 1 0 ++ leBytes 2 (part * 4096 + ctx) ++ (cmd.drop 4).take 6

/-- The 64 bytes of a record (Table 21-1): `nest` is the record of the handling it nests under. -/
def recBytes (time algen rseq temp vmv : Nat) (r : Rec) (nest : Option Nat) : List Byte :=
  leBytes 8 time ++ leBytes 2 algen ++ leBytes 1 r.cls ++
    leBytes 1 (r.sev * 64 + b2n nest.isSome * 32 + b2n r.cause.isSome * 16 + b2n r.op.isSome * 8 + r.kind) ++
    leBytes 4 rseq ++ leBytes 2 r.unit ++ leBytes 1 r.sub ++ leBytes 1 r.island ++ opBytes r.op ++ leBytes 2 r.dtag ++
    leBytes 8 r.addr ++ leBytes 8 r.syn ++ leBytes 1 temp ++ leBytes 1 0 ++ leBytes 2 vmv ++ leBytes 1 r.status ++
    leBytes 1 0 ++ leBytes 4 (nest.getD 0) ++ leBytes 4 r.count ++ leBytes 2 0

/-- Classes that set STATE to DEGRADED (R513). -/
def degrades (cls : Nat) : Bool := [0x02, 0x03, 0x0C, 0x0D, 0x0E, 0x0F, 0x12, 0x13, 0x19, 0x20].contains cls

/-- Classes that are folded (R504). -/
def isFolded (cls : Nat) : Bool := [0x0A, 0x10, 0x11, 0x1A, 0x21].contains cls

/-- ERQ_DATA shows the oldest record (R506). -/
def State.showOldest (s : State) : State :=
  let r := s.erq.headD []
  (List.range 8).foldl (fun t i => t.setF F.erqDataBytes i (fieldAt r (8 * i) 8)) (s.setF F.erqStatusCount 0 s.erq.length)

/-- The MSI-X capability of a function. -/
def State.msixOf (s : State) (fn : Nat) : Msix := tget (fun _ => Msix.fresh) s.msixs fn

/-- Set the MSI-X capability of a function. -/
def State.setMsix (s : State) (fn : Nat) (m : Msix) : State := { s with msixs := tset (fun _ => Msix.fresh) s.msixs fn m }

/-- A table entry after reset: its Mask bit, bit 0 of its last four bytes, is set (R392). -/
def msixMasked (_ : Nat) : Nat := 2 ^ 96

/-- The entry is masked. -/
def Msix.masked (m : Msix) (v : Nat) : Bool := bit (tget msixMasked m.table v) 96

/-- Send a vector of a function, or set its pending bit while the capability or the entry does not let it out; at or above the table size
nothing is sent (R392, Table 16-11). -/
def State.sendMsix (s : State) (fn vec : Nat) : State :=
  let m := s.msixOf fn
  if s.getF F.chtFuncMsixsize fn ≤ vec then s
  else if m.enable && !m.fmask && !m.masked vec then s.emit (.msix fn vec)
  else s.setMsix fn { m with pba := if m.pba.contains vec then m.pba else m.pba ++ [vec] }

/-- A cause bit of a function rises: the vector goes out when every enabled bit was 0 before (R402, Table 16-10). [Log 47 DEDUCED] -/
def State.raiseEvt (s : State) (fn : Nat) (f : Fld) : State :=
  let en := s.getF F.pciEvtcfgEn fn
  let cur := s.readReg R.pciEvtcause fn
  let t := s.setF f fn 1
  let vec := s.getF F.pciEvtcfgVector fn
  if cur.land en = 0 && bit en f.lo then t.sendMsix fn vec else t

/-- Append record bytes to the queue, or count it lost; log severe records; raise the PF's cause (R505). -/
def State.appendRec (s : State) (sev : Nat) (b : List Byte) : State :=
  let s := if s.erq.length < 1024 then
      let t := { s with erq := s.erq ++ [b] }
      if s.erq.isEmpty then (t.raiseEvt 0 F.pciEvtcauseErq).emit (.mctp 1 s.rseq 0) else t
    else s.bumpSat F.erqStatusLost 0 1
  let s := if sev ≥ 2 then { s with fwLog := b :: s.fwLog } else s
  let s := if sev = 3 then
      ((List.range 8).foldl (fun t i => t.setF F.erqFatalBytes i (fieldAt b (8 * i) 8)) s).setF F.erqStatusFatalv 0 1
    else s
  { s with rseq := lo32 (s.rseq + 1) }.showOldest

/-- Temperature and rail voltage of a die: the island's sensors, or the harbour die's with its 0.75 V core rail (Tables 21-1, 25-6); the
island sensors come first, 16 each, then the harbour die's 8. -/
def State.dieSensors (s : State) (island : Nat) : Nat × Nat :=
  if island < 4 then (s.getF F.pwrIslandTj island, s.getF F.pwrIslandVmv island) else (ofInt 8 ((s.power.sensors.drop 64).foldl max ((s.power.sensors.drop 64).headD 0)), 750)

/-- The bytes of a record as it is detected now. -/
def State.makeRec (s : State) (r : Rec) : List Byte :=
  let d := s.dieSensors r.island
  let nest := match r.cause with
    | some c => some c
    | none => s.handling.head?
  recBytes s.now (s.getF F.tmbAlignAlgen 0) s.rseq d.1 d.2 r nest

/-- Write an error record: at once, or folded into its millisecond (R503 to R505, R513). -/
def State.record (s : State) (r : Rec) : State :=
  if isFolded r.cls then
    match s.folded.find? fun f => f.cls == r.cls && f.kind == r.kind && f.unit == r.unit with
    | some f => { s with folded := s.folded.map fun g => if g = f then { g with count := g.count + 1 } else g }
    | none => { s with folded := s.folded ++ [⟨r.cls, r.kind, r.unit, s.now / 1000000, s.makeRec r, 1⟩] }
  else
    let t := s.appendRec r.sev (s.makeRec r)
    let t := if degrades r.cls && t.getF F.erqStatusState 0 == 0 then t.setF F.erqStatusState 0 1 else t
    if r.sev = 3 then t.setF F.erqStatusState 0 2 else t

/-- Folded records whose millisecond has ended are written with their count (R504). -/
def State.writeFolded (s : State) : State :=
  let due := s.folded.filter fun f => f.ms < s.now / 1000000
  let s := { s with folded := s.folded.filter fun f => s.now / 1000000 ≤ f.ms }
  due.foldl (fun t f => t.appendRec 0 (f.first.take 12 ++ leBytes 4 t.rseq ++ (f.first.drop 16).take 42 ++ leBytes 4 f.count ++ leBytes 2 0)) s

/-- The record number of the record just written. -/
def State.lastSeq (s : State) : Nat := lo32 (s.rseq + 0xFFFFFFFF)

/-! ### Inline ECC (R321 to R326) -/

/-- Product in GF(2^8) with x^8 + x^4 + x^3 + x^2 + 1 (R322). -/
def gfMul (a b : Nat) : Nat :=
  ((List.range 8).foldl (fun (p : Nat × Nat) i =>
    let r := if b.testBit i then p.1 ^^^ p.2 else p.1
    let d := p.2 <<< 1
    (r, if d.testBit 8 then d ^^^ 0x11D else d)) (0, a)).1

/-- α^n (R322). -/
def gfPow (n : Nat) : Nat := (List.range (n % 255)).foldl (fun a _ => gfMul a 2) 1

/-- The four syndromes of an error of value `e` at codeword position `p` (R322). -/
def errSyn (p e : Nat) : List Nat := (List.range 4).map fun i => gfMul e (gfPow (i * p))

/-- The syndromes of a word whose check bytes differ from the code's by `d` (check byte j at bits 8j). [Log 13 DEDUCED] -/
def devSyn (d : Nat) : List Nat :=
  (List.range 4).foldl (fun a j => List.zipWith (· ^^^ ·) a (errSyn j (bits d (8 * j) 8))) [0, 0, 0, 0]

/-- The pattern PZ on the check bytes (R323). -/
def pzDev : Nat := 0xC33C5AA5

/-- A single symbol error at a position 0 to 67 that explains the syndromes: position and value (Table 13-3). -/
def singleError (syn : List Nat) : Option (Nat × Nat) :=
  let e := syn.getD 0 0
  if e = 0 then none
  else ((List.range 68).find? fun p => errSyn p e == syn).map fun p => (p, e)

/-- Classes of a word (Table 13-3). -/
inductive WordClass where
  | clean | poisoned | corrected (pos val : Nat) | poisonedCorrected (pos val : Nat) | uncorrectable
  deriving DecidableEq, Repr

/-- The class of a word from the deviation of its check bytes (R323, Table 13-3, rows in order). [Log 13 DEDUCED] -/
def classify (d : Nat) : WordClass :=
  if d = 0 then .clean
  else if d = pzDev then .poisoned
  else match singleError (devSyn d) with
    | some (p, e) => .corrected p e
    | none => match singleError (devSyn (d ^^^ pzDev)) with
      | some (p, e) => .poisonedCorrected p e
      | none => .uncorrectable

/-- The class is delivered with the poison flag (Table 13-3). -/
def WordClass.isPoison : WordClass → Bool
  | .clean | .corrected _ _ => false
  | .poisoned | .poisonedCorrected _ _ | .uncorrectable => true

/-- Coefficients of x^0 to x^3 of (x − α^0)(x − α^1)(x − α^2)(x − α^3) (R322). -/
def genCoefs : List Nat := [0x40, 0x78, 0x36, 0x0F]

/-- x times a polynomial of degree below 4, modulo the generator. -/
def mulX (c : List Nat) : List Nat :=
  let top := c.getD 3 0
  List.zipWith (fun a g => a ^^^ gfMul top g) (0 :: c.take 3) genCoefs

/-- The change of a word's check deviation when stored symbol `p` changes by xor `e`: the remainder of e·x^p modulo the
generator (R322). [Log 13 DEDUCED] -/
def devShift (p e : Nat) : Nat :=
  let c := (List.range p).foldl (fun a _ => mulX a) [e, 0, 0, 0]
  c.getD 0 0 + c.getD 1 0 * 0x100 + c.getD 2 0 * 0x10000 + c.getD 3 0 * 0x1000000

end Sys2Proof.Machine
end

