-- ==== Sys2Proof/Machine/Memory.lean ====
section
/-!
DEFINITION. Machine/Memory.lean: reads, writes and poison of the memory sites (R294 to R296, R324 to R326, R330), and the
values of device memory that the spec leaves unspecified.
-/
namespace Sys2Proof.Machine

/-- What an unlisted byte reads as: sites are cleared to zero before use (R329). [Log 12 DESIGN CHOICE] -/
def memDflt (_ : Nat) : Byte := 0

/-- The canonical form of memory: addresses strictly rising, no listed byte equal to what an unlisted address reads as. [Log 12 DESIGN CHOICE] -/
def Memory.wf (m : List Host.Cell) : Bool := twf memDflt m

/-- The stored data byte at a device address. [Log 12 DESIGN CHOICE] -/
def State.rawByte (s : State) (a : Nat) : Byte := tget memDflt s.mem a

/-- The data byte that a read of device address `a` delivers: the stored one, or the corrected one (Table 13-3). [Log 12 DESIGN CHOICE] -/
def State.byteAt (s : State) (a : Nat) : Byte :=
  match classify (tget (fun _ => 0) s.ecc (a / 64)) with
  | .corrected p e | .poisonedCorrected p e => if p = a % 64 + 4 then s.rawByte a ^^^ BitVec.ofNat 8 e else s.rawByte a
  | .clean | .poisoned | .uncorrectable => s.rawByte a

/-- `n` bytes as reads from a device address up deliver them. -/
def State.bytesAt (s : State) (a n : Nat) : List Byte := (List.range n).map fun i => s.byteAt (a + i)

/-- `n` delivered bytes as a little-endian number. -/
def State.numAt (s : State) (a n : Nat) : Nat := leNat (s.bytesAt a n)

/-- Site of a word number. -/
def wordSite (w : Nat) : Nat := w * 64 / siteWindow

/-- A word of a lost site reads as poison (R330). [Log 15 DEDUCED] -/
def State.siteLost (s : State) (n : Nat) : Bool := s.getF F.memStatusState n == 5

/-- Class of a word at this moment (R323, R330). [Log 15 DEDUCED] -/
def State.wordClass (s : State) (w : Nat) : WordClass :=
  if s.siteLost (wordSite w) then .poisoned else classify (tget (fun _ => 0) s.ecc w)

/-- Some word of the list is delivered with the poison flag. -/
def State.anyPoison (s : State) (ws : List Nat) : Bool := ws.any fun w => (s.wordClass w).isPoison

/-- Word numbers that `n` bytes at `a` touch. -/
def wordsOf (a n : Nat) : List Nat := if n = 0 then [] else (List.range ((a + n - 1) / 64 - a / 64 + 1)).map (a / 64 + ·)

/-- Set the stored deviation of a word. [Log 13 DEDUCED] -/
def State.setDev (s : State) (w d : Nat) : State := { s with ecc := tset (fun _ => 0) s.ecc w d }

/-- Set one stored data byte. -/
def State.putByte (s : State) (a : Nat) (b : Byte) : State := { s with mem := tset memDflt s.mem a b }

/-- Set stored data bytes from an address up. -/
def State.putBytes (s : State) (a : Nat) : List Byte → State
  | [] => s
  | b :: t => (s.putByte a b).putBytes (a + 1) t

/-- Correct one symbol of a stored word in place: a data byte changes, a check byte does not show in the data. -/
def State.fixSymbol (s : State) (w pos val : Nat) : State :=
  if pos < 4 then s else
    let a := w * 64 + (pos - 4)
    s.putByte a (s.rawByte a ^^^ BitVec.ofNat 8 val)

/-- The ECC log of a site (Table 13-9a). -/
def State.eccLog (s : State) (w : Nat) (unc : Bool) (src sym : Nat) : State :=
  let n := wordSite w
  let o := w * 64 % siteWindow
  let s := s.setF F.memEcclogValid n 1
  let s := s.setF F.memEcclogUnc n (b2n unc)
  let s := s.setF F.memEcclogInchk n (b2n (!unc && sym < 4))
  let s := s.setF F.memEcclogSrc n src
  let s := s.setF F.memEcclogChannel n (o / 256 % 4)
  let s := s.setF F.memEcclogSymbol n (if unc then 0x7F else sym)
  s.setF F.memEcclogOffset n o

/-- The record and counts of an uncorrectable word with deviation `d` (R324, class MEMUE of Table 21-3). -/
def State.eccUncorrectable (s : State) (w src d : Nat) : State :=
  let n := wordSite w
  let s := (s.bumpSat F.memEcccntUe n 1).eccLog w true src 0
  let syn := devSyn d
  s.record { cls := 0x01, sev := 0, kind := 2, unit := n, sub := w * 64 % siteWindow / 256 % 4, island := siteIsland n,
             addr := w * 64, syn := leNat (syn.map (BitVec.ofNat 8)) }

/-- What a read of a word leaves behind: write-back of a corrected or uncorrectable word, counts, log and record; `src` is the
source code of Table 13-9a (R323, R324). -/
def State.decodeWord (s : State) (w src : Nat) : State :=
  let n := wordSite w
  if s.siteLost n then (if src = 0 then s.bumpSat F.memEcccntPzr n 1 else s)
  else
    let d := tget (fun _ => 0) s.ecc w
    match classify d with
    | .clean => s
    | .poisoned => if src = 0 then s.bumpSat F.memEcccntPzr n 1 else s
    | .corrected p e => (((s.fixSymbol w p e).setDev w 0).bump F.memEcccntCe n 1).eccLog w false src p
    | .poisonedCorrected p e =>
      let s := (((s.fixSymbol w p e).setDev w pzDev).bump F.memEcccntCe n 1).eccLog w false src p
      if src = 0 then s.bumpSat F.memEcccntPzr n 1 else s
    | .uncorrectable =>
      let s := (s.setDev w pzDev).eccUncorrectable w src d
      if src = 0 then s.bumpSat F.memEcccntPzr n 1 else s

/-- A requester's read of one burst (R529). -/
def State.readWord (s : State) (w : Nat) : State := (s.decodeWord w 0).bump F.cntSiterdBytes (wordSite w) 64

/-- A requester's reads of bursts, in order. -/
def State.readWords (s : State) (ws : List Nat) : State := ws.foldl State.readWord s

/-- A requester's write of bytes inside one burst: a whole burst stores a clean word, a partial one is merged by the class of
the old word (R325, Table 13-4); a lost site discards it (R330). [Log 15 DEDUCED] -/
def State.writeWord (s : State) (a : Nat) (bs : List Byte) : State :=
  let w := a / 64
  let s := s.bump F.cntSitewrBytes (wordSite w) 64
  if s.siteLost (wordSite w) then s
  else if bs.length = 64 then (s.putBytes a bs).setDev w 0
  else (s.decodeWord w 1).putBytes a bs

/-- A requester's write of `bs` at `a`, burst by burst; `fuel` bounds the bursts. -/
def State.writeFrom (s : State) : (fuel a : Nat) → List Byte → State
  | 0, _, _ => s
  | f + 1, a, bs =>
    if bs.isEmpty then s
    else
      let k := 64 - a % 64
      (s.writeWord a (bs.take k)).writeFrom f (a + k) (bs.drop k)

/-- A requester's write of `bs` at `a` (R294, R325). -/
def State.writeBytes (s : State) (a : Nat) (bs : List Byte) : State := s.writeFrom (bs.length / 64 + 2) a bs

/-- Mark the part [a, a + n) of one burst as poison: the bytes inside are unspecified, those outside are kept, the whole burst is
poisoned (R326). [Log 14 DESIGN CHOICE] -/
def State.poisonWord (s : State) (a n : Nat) : State :=
  let w := a / 64
  let s := s.bump F.cntSitewrBytes (wordSite w) 64
  if s.siteLost (wordSite w) then s
  else
    let s := if n = 64 then s else s.decodeWord w 1
    let f := s.fresh
    ((s.putBytes a ((List.range n).map fun i => Config.freeByte (f + i))).bumpFresh n).setDev w pzDev

/-- Mark bytes [a, a + n) as poison, burst by burst (R326). [Log 14 DESIGN CHOICE] -/
def State.poisonBytes (s : State) (a n : Nat) : State :=
  (wordsOf a n).foldl (fun t w =>
    let lo := max a (w * 64)
    t.poisonWord lo (min (a + n) (w * 64 + 64) - lo)) s

/-- Write bytes that were moved from a source: a burst that takes any byte from a poisoned burst is written with its bytes and
marked as poison (R510, R326). `ps` says of each byte whether it came from a poisoned burst. -/
def State.writeMoved (s : State) (a : Nat) (bs : List Byte) (ps : List Bool) : State :=
  let t := s.writeBytes a bs
  (wordsOf a bs.length).foldl (fun t w =>
    let lo := max a (w * 64)
    let n := min (a + bs.length) (w * 64 + 64) - lo
    if ((ps.drop (lo - a)).take n).any id && !t.siteLost (wordSite w) then t.setDev w pzDev else t) t

end Sys2Proof.Machine
end

