-- ==== Sys2Proof/Machine/Operands.lean ====
section
/-!
DEFINITION. Machine/Operands.lean: command headers (Table 4-1), tensor descriptors (R101, R102), their ranges (R103) and the
reading and writing of tensor elements and rows.
-/
namespace Sys2Proof.Machine

/-! ### Command header (Table 4-1) -/

/-- A field of a command: `n` bytes at offset `off`. -/
def Cmd.field (c : Cmd) (off n : Nat) : Nat := fieldAt c.bytes off n

/-- Bits [lo + w - 1 : lo] of the byte at `off`. -/
def Cmd.bits (c : Cmd) (off lo w : Nat) : Nat := Sys2Proof.Machine.bits (c.field off 1) lo w

/-- OPCODE. -/
def Cmd.opcode (c : Cmd) : Nat := c.field 0 1
/-- TROWS. -/
def Cmd.trows (c : Cmd) : Nat := c.bits 1 6 2
/-- ACCMODE = 1: integer accumulation. -/
def Cmd.accInt (c : Cmd) : Bool := c.bits 1 5 1 = 1
/-- STREAM = 1: operand B streams. -/
def Cmd.streamB (c : Cmd) : Bool := c.bits 1 4 1 = 1
/-- CVT of the final store. -/
def Cmd.cvt (c : Cmd) : Cvt := Cvt.ofBits (c.bits 1 0 4)
/-- SGEN. -/
def Cmd.sgen (c : Cmd) : Bool := c.bits 2 7 1 = 1
/-- W0EN, W1EN. -/
def Cmd.wen (c : Cmd) (i : Nat) : Bool := c.bits 2 (5 + i) 1 = 1
/-- NOTIFY. -/
def Cmd.notify (c : Cmd) : Bool := c.bits 2 4 1 = 1
/-- WALK. -/
def Cmd.walkCol (c : Cmd) : Bool := c.bits 2 2 1 = 1
/-- SPLIT. -/
def Cmd.split (c : Cmd) : Nat := c.field 3 1
/-- F = max(1, SPLIT). -/
def Cmd.factor (c : Cmd) : Nat := max 1 c.split
/-- LAYER. -/
def Cmd.layer (c : Cmd) : Nat := c.field 4 2
/-- OPER. -/
def Cmd.oper (c : Cmd) : Nat := c.field 6 2
/-- STEP. -/
def Cmd.step (c : Cmd) : Nat := c.field 8 2
/-- WTOK0, WTOK1. -/
def Cmd.wtok (c : Cmd) (i : Nat) : Nat := c.field (10 + 6 * i) 2
/-- WVAL0, WVAL1. -/
def Cmd.wval (c : Cmd) (i : Nat) : Nat := c.field (12 + 6 * i) 4
/-- STOK. -/
def Cmd.stok (c : Cmd) : Nat := c.field 22 2
/-- SINC. -/
def Cmd.sinc (c : Cmd) : Nat := c.field 24 2
/-- SPANFIRST. -/
def Cmd.spanFirst (c : Cmd) : Nat := c.field 26 1
/-- SPANCOUNT. -/
def Cmd.spanCount (c : Cmd) : Nat := c.field 27 1
/-- CTAG. -/
def Cmd.ctag (c : Cmd) : Nat := c.field 28 4

/-- How an opcode runs (Table 4-2). -/
inductive Runs where
  | tiled | spanWide | anchor
  deriving DecidableEq, Repr

/-- Table 4-2; none for any other value (R99). -/
def opRuns (op : Nat) : Option Runs :=
  if [0x01, 0x02, 0x03, 0x04, 0x08, 0x09, 0x10, 0x11, 0x12, 0x13, 0x18, 0x19].contains op then some .tiled
  else if [0x00, 0x28, 0x2A].contains op then some .spanWide
  else if [0x20, 0x21, 0x22, 0x29, 0x2B, 0x2C, 0x30, 0x38, 0x39].contains op then some .anchor
  else none

/-- MMA, CHAIN, ATTN and CONV: the opcodes that "matrix only" header fields belong to (R98). -/
def isMatrixOp (op : Nat) : Bool := [0x01, 0x02, 0x03, 0x04].contains op

/-! ### Tensor descriptors -/

/-- Signed 40-bit stride (Table 4-4). -/
def strideOf (b : List Byte) (d : Nat) : Int := toInt 40 (fieldAt b (28 + 5 * (d - 1)) 5)

/-- Bytes of one block of 32 elements of an MX format (R45). -/
def mxBlockBytes (f : Fmt) : Nat := f.width * 4

/-- The unit that BASE and strides are multiples of (R102). -/
def Fmt.alignBytes (f : Fmt) : Nat := if f.isMx then mxBlockBytes f else f.width / 8

/-- Size word `d` of a descriptor as written. -/
def sizeWord (b : List Byte) (d : Nat) : Nat := fieldAt b (8 + 4 * d) 4

/-- INDMASK. -/
def indMask (b : List Byte) : Nat := bits (fieldAt b 7 1) 0 5

/-- The descriptor that 64 bytes at address `a` hold, sizes as written; format code 0xF reads as FP32 and is refused by
`descBad`. -/
def parseDesc (a : Nat) (b : List Byte) : Desc :=
  { at_ := a, base := fieldAt b 0 6, rank := bits (fieldAt b 6 1) 4 3,
    fmt := (Fmt.ofCode (bits (fieldAt b 6 1) 0 4)).getD .fp32, kind := bits (fieldAt b 7 1) 5 2,
    sizes := (List.range 5).map (sizeWord b), strides := [strideOf b 1, strideOf b 2, strideOf b 3, strideOf b 4],
    scaleBase := fieldAt b 48 6, indBase := fieldAt b 54 6, dtag := fieldAt b 60 2 }

/-- Some size of the descriptor is memory-indirect (Table 4-5). -/
def memIndirect (b : List Byte) : Bool :=
  (List.range 5).any fun d => (indMask b).testBit d && sizeWord b d >>> 28 == 1

/-- Byte offset of the first field that breaks R101, R102 or R41, in byte order; `ok` says which formats and `kinds` which
KINDs the opcode accepts. Table 8-11 gives the other fields of a paged descriptor, which its opcode checks. -/
def descBad (ok : Fmt → Bool) (kinds : List Nat) (b : List Byte) : Option Nat :=
  let d := parseDesc 0 b
  let code := bits (fieldAt b 6 1) 0 4
  let al := d.fmt.alignBytes
  let beyond := fun k => decide (d.rank ≤ k)
  let fields : List (Nat × Bool) :=
    [(0, d.kind != 1 && d.base % al != 0), (6, bit (fieldAt b 6 1) 7 || d.rank == 0 || d.rank > 5 || code == 15 || !ok d.fmt),
     (7, bit (fieldAt b 7 1) 7 || !kinds.contains d.kind ||
         (List.range 5).any fun k => beyond k && (indMask b).testBit k)] ++
    (List.range 5).map (fun k => (8 + 4 * k, beyond k && sizeWord b k != 1)) ++
    (List.range 4).map (fun k => (28 + 5 * k, (beyond (k + 1) && strideOf b (k + 1) != 0) ||
      (d.kind != 1 && strideOf b (k + 1) % (al : Int) != 0))) ++
    [(48, !d.fmt.isMx && d.scaleBase != 0),
     (54, fieldAt b 54 6 % 4 != 0 || (!memIndirect b && fieldAt b 54 6 != 0)), (62, fieldAt b 62 2 != 0)]
  ((if d.kind = 1 && kinds.contains 1 then [(6, bit (fieldAt b 6 1) 7 || code == 15 || !ok d.fmt), (7, bit (fieldAt b 7 1) 7), (62, fieldAt b 62 2 != 0)]
    else fields).find? fun f => f.2).map (·.1)

/-- The 64 bytes of a descriptor with its sizes resolved and INDMASK = 0 (R537). -/
def Desc.bytes (d : Desc) : List Byte :=
  leBytes 6 d.base ++ leBytes 1 (d.rank * 16 + d.fmt.code) ++ leBytes 1 (d.kind * 32) ++ d.sizes.flatMap (leBytes 4) ++
    d.strides.flatMap (fun x => leBytes 5 (ofInt 40 x)) ++ leBytes 6 d.scaleBase ++ leBytes 6 d.indBase ++ leBytes 2 d.dtag ++
    leBytes 2 0

/-- Size of dimension `k`. -/
def Desc.size (d : Desc) (k : Nat) : Nat := d.sizes.getD k 1

/-- Stride of dimension `k`, 1 to 4. -/
def Desc.stride (d : Desc) (k : Nat) : Int := d.strides.getD (k - 1) 0

/-- A size of 0 in any dimension (R103). -/
def Desc.empty (d : Desc) : Bool := d.sizes.any (· == 0)

/-- Number of elements. -/
def Desc.count (d : Desc) : Nat := d.sizes.foldl (· * ·) 1

/-- Bytes of the element storage of one row along dimension 0, whole blocks for MX (R46). -/
def Desc.rowBytes (d : Desc) : Nat :=
  if d.fmt.isMx then cdiv (d.size 0) 32 * mxBlockBytes d.fmt else d.size 0 * (d.fmt.width / 8)

/-- NB of R102. -/
def Desc.blocks (d : Desc) : Nat := cdiv (d.size 0) 32

/-- Rows: every combination of indices of dimensions 1 to 4. -/
def Desc.rows (d : Desc) : Nat := d.size 1 * d.size 2 * d.size 3 * d.size 4

/-- Byte address of element 0 of row (i1, i2, i3, i4) (R101). -/
def Desc.rowAddr (d : Desc) (ix : List Nat) : Int :=
  (d.base : Int) + (List.range 4).foldl (fun a k => a + (ix.getD k 0 : Int) * d.stride (k + 1)) 0

/-- Address of the scale byte of block `b` of a row (R102). -/
def Desc.scaleAddr (d : Desc) (b : Nat) (ix : List Nat) : Nat :=
  d.scaleBase + b + d.blocks * (ix.getD 0 0 + d.size 1 * (ix.getD 1 0 + d.size 2 * (ix.getD 2 0 + d.size 3 * ix.getD 3 0)))

/-- Lowest byte address and byte length of the element array (R103); none for an empty tensor. -/
def Desc.range (d : Desc) : Option (Int × Nat) :=
  if d.empty then none
  else
    let ext := (List.range 4).map fun k => ((d.size (k + 1) : Int) - 1) * d.stride (k + 1)
    let lo := ext.foldl (fun a e => if e < 0 then a + e else a) (d.base : Int)
    let hi := ext.foldl (fun a e => if e > 0 then a + e else a) ((d.base : Int) + d.rowBytes)
    some (lo, (hi - lo).toNat)

/-- Address and byte length of the scale array; none where there is none. -/
def Desc.scaleRange (d : Desc) : Option (Int × Nat) :=
  if d.empty || !d.fmt.isMx then none else some ((d.scaleBase : Int), d.blocks * d.rows)

/-- All byte ranges of a dense tensor. -/
def Desc.ranges (d : Desc) : List (Int × Nat) := d.range.toList ++ d.scaleRange.toList

/-- Two byte ranges intersect. -/
def rangeMeets (a b : Int × Nat) : Bool :=
  decide (0 < a.2) && decide (0 < b.2) && decide (a.1 < b.1 + b.2) && decide (b.1 < a.1 + a.2)

/-- Two dense tensors intersect (R104). -/
def Desc.meets (a b : Desc) : Bool := a.ranges.any fun x => b.ranges.any fun y => rangeMeets x y

/-- The two descriptors agree in BASE, RANK, FMT, sizes and strides (R134, R155). -/
def Desc.sameAs (a b : Desc) : Bool :=
  a.base == b.base && a.rank == b.rank && a.fmt == b.fmt && a.sizes == b.sizes && a.strides == b.strides

/-! ### Elements and rows -/

/-- The encoding of element `i0` of a row. -/
def State.elemCode (s : State) (d : Desc) (i0 : Nat) (ix : List Nat) : Nat :=
  let w := d.fmt.width
  let a := (d.rowAddr ix).toNat + i0 * w / 8
  bits (s.numAt a (cdiv (i0 * w % 8 + w) 8)) (i0 * w % 8) w

/-- Scale byte of element `i0` of a row. -/
def State.elemScale (s : State) (d : Desc) (i0 : Nat) (ix : List Nat) : Nat :=
  (s.byteAt (d.scaleAddr (i0 / 32) ix)).toNat

/-- Indices of dimensions 1 to 4 of row number `r`, dimension 1 fastest (R272). -/
def Desc.rowIx (d : Desc) (r : Nat) : List Nat :=
  [r % d.size 1, r / d.size 1 % d.size 2, r / (d.size 1 * d.size 2) % d.size 3, r / (d.size 1 * d.size 2 * d.size 3)]

/-- The exact value of an element, scale applied, after input flush, and the flush count (R47, R64). [Log 25 DEDUCED] -/
def State.elemNum (s : State) (ftz : Bool) (d : Desc) (i0 : Nat) (ix : List Nat) : Num × Nat :=
  let g := flushIn ftz d.fmt (s.elemCode d i0 ix)
  let v := decodeElem d.fmt g.1
  (if d.fmt.isMx then applyScale (s.elemScale d i0 ix) v else v, g.2)

/-- Widening to FP32 where the vector engine computes on a value (R149). -/
def widen (f : Fmt) (v : Num) : Num := if f.isMx || f.isInt then r32 v else v

/-- Words that a run of `n` elements from `i0` of a row touches, scales included. -/
def Desc.runWords (d : Desc) (i0 n : Nat) (ix : List Nat) : List Nat :=
  if n = 0 then []
  else
    let w := d.fmt.width
    let a := (d.rowAddr ix).toNat
    let lo := a + i0 * w / 8
    wordsOf lo (a + cdiv ((i0 + n) * w) 8 - lo) ++
      (if d.fmt.isMx then wordsOf (d.scaleAddr (i0 / 32) ix) ((i0 + n - 1) / 32 - i0 / 32 + 1) else [])

/-- Every word of a dense tensor, each once. -/
def Desc.allWords (d : Desc) : List Nat :=
  ((List.range d.rows).flatMap fun r => d.runWords 0 (d.size 0) (d.rowIx r)).eraseDups

/-- A bit stream of elements of width `w` as one number (R45). -/
def packNum (w : Nat) : List Nat → Nat
  | [] => 0
  | c :: t => c % 2 ^ w + packNum w t * 2 ^ w

/-- Elements of width `w` packed into bytes (R45). -/
def packBytes (w : Nat) (l : List Nat) : List Byte := leBytes (cdiv (w * l.length) 8) (packNum w l)

/-- Split a list into groups of 32. -/
def groups32 {α : Type} : (fuel : Nat) → List α → List (List α)
  | 0, _ => []
  | f + 1, l => match l with
    | [] => []
    | a :: t => ((a :: t).take 32) :: groups32 f ((a :: t).drop 32)

/-- A run of values converted to a format, with one random field per element: element codes (padded to whole blocks for MX),
scale bytes and flush count (R53 to R60, R46). -/
def convertRun (ftz : Bool) (c : Cvt) (f : Fmt) (vs : List (Num × Nat)) : List Nat × List Nat × Nat :=
  if f.isMx then
    let bs := (groups32 (vs.length + 1) vs).map fun g => (mxBlock ftz c f g, 32 - g.length)
    (bs.flatMap fun b => b.1.2.1 ++ List.replicate b.2 0, bs.map fun b => b.1.1, sumOf (bs.map fun b => b.1.2.2))
  else
    let es := vs.map fun v => encodeElem ftz c (c.field v.2) f v.1
    (es.map (·.1), [], sumOf (es.map (·.2)))

/-- Write a converted run at element `i0` of a row, `i0` at a block boundary for MX. -/
def State.writeRun (s : State) (d : Desc) (i0 : Nat) (ix : List Nat) (r : List Nat × List Nat × Nat) : State :=
  let t := s.writeBytes ((d.rowAddr ix).toNat + i0 * d.fmt.width / 8) (packBytes d.fmt.width r.1)
  if r.2.1.isEmpty then t else t.writeBytes (d.scaleAddr (i0 / 32) ix) (r.2.1.map (BitVec.ofNat 8))

/-- Mark a run of `n` elements of a row, and its scales, as poison (R326). -/
def State.poisonRun (s : State) (d : Desc) (i0 n : Nat) (ix : List Nat) : State :=
  if n = 0 then s
  else
    let w := d.fmt.width
    let a := (d.rowAddr ix).toNat
    let lo := a + i0 * w / 8
    let t := s.poisonBytes lo (a + cdiv ((if d.fmt.isMx then alignUp (i0 + n) 32 else i0 + n) * w) 8 - lo)
    if d.fmt.isMx then t.poisonBytes (d.scaleAddr (i0 / 32) ix) ((i0 + n - 1) / 32 - i0 / 32 + 1) else t

end Sys2Proof.Machine
end

