-- ==== Sys2Proof/Machine/Shuttle.lean ====
section
/-!
DEFINITION. Machine/Shuttle.lean: contexts, spans and windows (R93 to R95, R374), waits (R113, R302, R308), commands in flight,
completion records (R118, R399), trace events (R532) and interrupts (R402).
-/
namespace Sys2Proof.Machine

/-! ### Contexts, queues, commands -/

/-- Context `x` beside its registers. -/
def State.ctx (s : State) (x : Nat) : Context := tget (fun _ => Context.free) s.ctxs x

/-- Set context `x`. -/
def State.setCtx (s : State) (x : Nat) (v : Context) : State := { s with ctxs := tset (fun _ => Context.free) s.ctxs x v }

/-- Queue `q` beside its PCI_QSTAT. -/
def State.queue (s : State) (q : Nat) : Queue := tget (fun _ => Queue.free) s.queues q

/-- Set queue `q`. -/
def State.setQueue (s : State) (q : Nat) (v : Queue) : State := { s with queues := tset (fun _ => Queue.free) s.queues q v }

/-- Cluster `c` beside its registers. -/
def State.cluster (s : State) (c : Nat) : Cluster := tget (fun _ => Cluster.fresh) s.clusters c

/-- Set cluster `c`. -/
def State.setCluster (s : State) (c : Nat) (v : Cluster) : State :=
  { s with clusters := tset (fun _ => Cluster.fresh) s.clusters c v }

/-- Partition of a context (Table 15-10). -/
def State.partOf (s : State) (x : Nat) : Nat := s.getF F.shtCtxstatPart x

/-- STATE of a context is ACTIVE and no fault waits for its teardown. -/
def State.ctxActive (s : State) (x : Nat) : Bool := s.getF F.shtCtxstatState x == 1 && (s.ctx x).fault.isNone

/-- The device fetches and issues: it is not FATAL (R508). -/
def State.running (s : State) : Bool := s.getF F.erqStatusState 0 != 2

/-- A cluster that can run work: not retired, its island not lost (R93, R518). -/
def State.clusterUp (s : State) (c : Nat) : Bool := !s.isRetired c && !s.lostIslands.contains (clusterIsland c)

/-- Clusters of a list of reaches that are not retired, ascending (R93, R94). -/
def State.clustersOf (s : State) (rs : List Nat) : List Nat :=
  (List.range 800).filter fun c => rs.contains (clusterReach c) && s.clusterUp c

/-- Cluster set of a context (R93). -/
def State.clusterSet (s : State) (x : Nat) : List Nat := s.clustersOf (s.ctx x).reaches

/-- Anchor of a context (R93). -/
def State.anchor (s : State) (x : Nat) : Option Nat := (s.clusterSet x).head?

/-- The reaches that a span selects; none when it selects a position beyond the list (R94). -/
def spanReaches (rs : List Nat) (first count : Nat) : Option (List Nat) :=
  if count = 0 then (if first ≤ rs.length then some (rs.drop first) else none)
  else if first + count ≤ rs.length then some ((rs.drop first).take count) else none

/-- Span of a command of context `x`; none when R94 refuses it. -/
def State.spanOf (s : State) (x first count : Nat) : Option (List Nat) :=
  match spanReaches (s.ctx x).reaches first count with
  | some rs => let cs := s.clustersOf rs; if cs.isEmpty then none else some cs
  | none => none

/-- The shuttles in whose windows a command of context `x` with these bytes holds a slot: its span, or the anchor alone for an
anchor opcode and for a span that R94 refuses (R95, R99). -/
def State.holders (s : State) (x : Nat) (c : Cmd) : List Nat :=
  match opRuns c.opcode with
  | some .tiled | some .spanWide => (s.spanOf x c.spanFirst c.spanCount).getD (s.anchor x).toList
  | some .anchor | none => (s.anchor x).toList

/-- The command still holds a window slot in cluster `cl` (R95, R118). -/
def Cmd.holds (c : Cmd) (cl : Nat) : Bool :=
  c.st != .ended && c.span.contains cl && !(c.parts.any fun p => p.cluster == cl && p.reported)

/-- Window slots in use in a cluster. -/
def State.windowUse (s : State) (cl : Nat) : Nat := (s.cmds.filter (·.holds cl)).length

/-- Some latency-critical context holds the cluster in its set (R374). -/
def State.hasCritical (s : State) (cl : Nat) : Bool :=
  s.ctxs.any fun e => s.getF F.shtCtxstatState e.1 != 0 && s.flag F.shtCtxstatClass e.1 && e.2.reaches.contains (clusterReach cl)

/-- The cluster has a window slot for a command of context `x` (R95, R374). -/
def State.windowFree (s : State) (x cl : Nat) : Bool :=
  decide (s.windowUse cl + (if !s.flag F.shtCtxstatClass x && s.hasCritical cl then 1 else 0) < 4)

/-- Commands of context `x` that are tracked: in flight, or with a record that waits for room (R95, R399). -/
def State.tracked (s : State) (x : Nat) : Nat :=
  (s.cmds.filter (·.ctx == x)).length + sumOf (s.queues.map fun e => if e.2.ctx = x then e.2.waiting.length else 0)

/-- The command with a given number. -/
def State.cmd? (s : State) (id : Nat) : Option Cmd := s.cmds.find? (·.id == id)

/-- The command at position `seq` of queue `q`. -/
def State.cmdAt? (s : State) (q seq : Nat) : Option Cmd := s.cmds.find? fun c => c.q == q && c.seq == seq

/-- Replace a command by its number. -/
def State.setCmd (s : State) (c : Cmd) : State := { s with cmds := s.cmds.map fun d => if d.id = c.id then c else d }

/-- Drop a command. -/
def State.dropCmd (s : State) (id : Nat) : State := { s with cmds := s.cmds.filter (·.id != id) }

/-- The oldest command of a queue that has not issued. -/
def State.oldest? (s : State) (q : Nat) : Option Cmd := s.cmds.find? fun c => c.q == q && c.st == .fetched

/-! ### Waits -/

/-- A token wait is satisfied (R113). -/
def State.tokenSat (s : State) (t v : Nat) : Bool :=
  decide ((s.getF F.shtTokValue t + 0x100000000 - v % 0x100000000) % 0x100000000 < 0x80000000)

/-- An arrival wait is satisfied (R308). -/
def State.arrivalSat (s : State) (a v : Nat) : Bool :=
  decide ((s.getF F.zlkArrCount a + 0x10000000000000000 - v % 0x10000000000000000) % 0x10000000000000000 < 0x8000000000000000)

/-- Arrival wait `i` of a WAIT command: counter and target (Table 12-5). -/
def Cmd.arrival (c : Cmd) (i : Nat) : Nat × Nat := (Sys2Proof.Machine.bits (c.field (32 + 2 * i) 2) 0 12, c.field (36 + 8 * i) 8)

/-- Arrival wait `i` is active: WAIT only. -/
def Cmd.aen (c : Cmd) (i : Nat) : Bool := c.opcode == 0x28 && c.bits 52 i 1 == 1

/-- The waits of a command that are satisfied now: W0, W1, A0, A1. A wait that is not active counts as satisfied, and so does
one on a counter outside the partition, which check 4 refuses (R113, R114, R309). -/
def State.waitsNow (s : State) (c : Cmd) : List Bool :=
  let p := s.partOf c.ctx
  (List.range 2).map (fun i => !c.wen i || !s.ownsToken p (c.wtok i) || s.tokenSat (c.wtok i) (c.wval i)) ++
  (List.range 2).map (fun i => !c.aen i || !s.ownsArrival p (c.arrival i).1 || s.arrivalSat (c.arrival i).1 (c.arrival i).2)

/-- An active arrival wait, not yet satisfied, is on a counter whose LOST is 1 (R310). -/
def State.waitLost (s : State) (c : Cmd) : Bool :=
  (List.range 2).any fun i => c.aen i && !c.waits.getD (2 + i) true && s.flag F.zlkArrcfgLost (c.arrival i).1

/-- Every wait of the command is satisfied (R113, R302). -/
def Cmd.satisfied (c : Cmd) : Bool := c.waits.all (fun b => b)

/-- Latch the start wait of a codec frame (R444). [Log 69 DEDUCED] -/
def State.latchFrame (s : State) (f : Frame) : Frame :=
  let b := fieldAt f.desc
  { f with sat := f.sat || !bit (b 0 1) 6 || s.tokenSat (b 34 2) (b 36 4) }

/-- Latch the waits of every fetched command and frame, and note since when the oldest unissued command of each queue has waited
(R113, R312). -/
def State.latchWaits (s : State) : State :=
  { s with streams := s.streams.map (fun e => (e.1, { e.2 with frame := e.2.frame.map s.latchFrame })), cmds := s.cmds.map fun c =>
      if c.st != .fetched then c
      else
        let w := List.zipWith (· || ·) c.waits (s.waitsNow c)
        let old := (s.oldest? c.q).any (·.id == c.id)
        { c with waits := w, openAt := if old && !w.all (fun b => b) then some (c.openAt.getD s.now) else none } }

/-- Set a token counter (Table 12-2). -/
def State.setToken (s : State) (t v : Nat) : State := (s.setF F.shtTokValue t v).latchWaits

/-- Add to a token counter as one update (R114, R299). -/
def State.addToken (s : State) (t v : Nat) : State := s.setToken t (s.getF F.shtTokValue t + v)

/-! ### Trace (Chapter 22) -/

/-- An event of a partition: given an EVSEQ and written to the ring, or counted lost; not generated when its kind or LAYER is
masked or tracing is off (R531, R532, Table 22-7). -/
def State.trace (s : State) (c : Cmd) (kind status : Nat) (tail : List Byte) : State :=
  let p := s.partOf c.ctx
  let layer := c.layer
  if !s.flag F.cntTrcfgEn p || !bit (s.getF F.cntTrcfgKinds p) (kind - 1) || layer < s.getF F.cntTrcfgLayerlo p ||
      s.getF F.cntTrcfgLayerhi p < layer then s
  else
    let ev := tget (fun _ => 0) s.evseq p
    let s := { s with evseq := tset (fun _ => 0) s.evseq p (lo32 (ev + 1)) }
    let n := 2 ^ s.getF F.cntTrcfgRlog2 p
    let tl := s.getF F.cntTrptrTail p
    let full := decide (n ≤ (tl + 0x100000000 - s.getF F.cntTrptrHead p) % 0x100000000)
    let body := leBytes 8 s.now ++ leBytes 2 (s.getF F.tmbAlignAlgen 0) ++ leBytes 1 kind ++ leBytes 1 status ++ leBytes 4 ev ++
      leBytes 2 (p * 4096 + c.ctx) ++ leBytes 2 c.q ++ leBytes 1 c.opcode ++ leBytes 1 0 ++ leBytes 2 c.layer ++
      leBytes 2 c.oper ++ leBytes 2 c.step ++ leBytes 4 c.seq ++ (tail ++ leBytes 32 0).take 32
    if full && !s.flag F.cntTrcfgWrap p then s.bumpSat F.cntTrptrLost p 1
    else
      let s := s.writeBytes (s.getF F.cntTrcfgBase p + 64 * (ev % n)) body
      let s := if full then s.bumpSat F.cntTrptrLost p 1 else s
      s.setF F.cntTrptrTail p (tl + 1)

/-! ### Completion records and interrupts -/

/-- Bitmap of the clusters that failed (Table 4-9). -/
def partsMap (bad : List Nat) : List Byte :=
  leBytes 100 (bad.foldl (fun a c => a ||| 1 <<< c) 0)

/-- A completion record without TEND, in bytes 20 to 27 (Table 4-9). -/
def recordOf (status : Nat) (poisoned flushed flush : Bool) (q layer oper step opcode dslot dfield ctag seq : Nat)
    (bad : List Nat) : List Byte :=
  leBytes 1 status ++ leBytes 1 (b2n (!bad.isEmpty) * 8 + b2n poisoned * 4 + b2n flushed * 2 + b2n flush) ++ leBytes 2 q ++
    leBytes 2 layer ++ leBytes 2 oper ++ leBytes 2 step ++ leBytes 1 opcode ++ leBytes 1 (dslot * 32 + dfield) ++
    leBytes 4 ctag ++ leBytes 4 seq ++ leBytes 8 0 ++ partsMap bad

/-- Write TEND into a record. -/
def stampTend (r : List Byte) (t : Nat) : List Byte := r.take 20 ++ leBytes 8 t ++ r.drop 28

/-- Send the vector of a queue (R402). -/
def State.queueMsg (s : State) (q : Nat) : State :=
  let u := s.queue q
  let s := s.setQueue q { u with unsig := 0, firstAt := 0 }
  let fn := s.getF F.pciQstatOwner q
  s.sendMsix fn u.vector

/-- Room in the completion ring (R399). -/
def State.cqRoom (s : State) (q : Nat) : Bool :=
  let u := s.queue q
  decide ((s.getF F.pciQstatCqtail q + 0x100000000 - u.cqHead) % 0x100000000 < 2 ^ u.cqLog2)

/-- Write a record into the ring, with its TEND, advance CQTAIL, and count it towards the queue's interrupt (R399, R402). [Log 49 DESIGN CHOICE] -/
def State.putRecord (s : State) (q : Nat) (r : List Byte) : State :=
  let u := s.queue q
  let tl := s.getF F.pciQstatCqtail q
  let a := u.cqBase + 128 * (tl % 2 ^ u.cqLog2)
  let b := stampTend r s.now
  let s := if u.cqDev then s.writeBytes a b else s.emit (.hostWrite (s.getF F.pciQstatOwner q) a b false)
  let s := s.setF F.pciQstatCqtail q (tl + 1)
  if u.ien then
    let s := s.setQueue q { u with unsig := u.unsig + 1, firstAt := if u.unsig = 0 then s.now else u.firstAt }
    if max 1 u.modCnt ≤ u.unsig + 1 then s.queueMsg q else s
  else s

/-- Owe a record: written at once when nothing waits before it and the ring has room, else it waits, in order (R399). -/
def State.oweRecord (s : State) (q id : Nat) (r : List Byte) : State :=
  let u := s.queue q
  if u.waiting.isEmpty && s.cqRoom q then s.putRecord q r
  else s.setQueue q { u with waiting := u.waiting ++ [⟨id, r⟩] }

/-- The oldest waiting record is written once the ring has room (R399). -/
def State.writeWaiting (s : State) (q : Nat) : State :=
  match (s.queue q).waiting with
  | r :: t => if s.cqRoom q then (s.setQueue q { s.queue q with waiting := t }).putRecord q r.bytes else s
  | [] => s

/-- The record of a command as it stands (Table 4-9). -/
def State.cmdRecord (s : State) (c : Cmd) : List Byte :=
  recordOf c.status c.poisoned (s.flag F.shtNumctlFlushed c.ctx) c.flush c.q c.layer c.oper c.step c.opcode c.dslot c.dfield
    c.ctag c.seq c.bad

/-- Owe the record of a command when it asked for one or did not succeed, and stop tracking the command (R118 steps 3, 4). -/
def State.finishCmd (s : State) (c : Cmd) : State :=
  let s := if c.notify || c.status != 0 then s.oweRecord c.q c.id (s.cmdRecord c) else s
  (s.dropCmd c.id).latchWaits

/-- End a command at once with a status of its own, with no part run (R121, R383). -/
def State.abortCmd (s : State) (c : Cmd) (status : Nat) : State := s.finishCmd { c with status := status }

/-- Address fields of the operand area that name tensor descriptors: how many of the first four (R582). -/
def descFields (c : Cmd) : Nat :=
  match c.opcode with
  | 0x01 | 0x04 | 0x11 | 0x12 | 0x19 => 3
  | 0x02 | 0x03 => 4
  | 0x08 => if c.field 56 1 = 0 then 3 else 4
  | 0x09 | 0x10 | 0x13 | 0x38 | 0x39 => 2
  | 0x18 => 1
  | _ => 0

/-- DTAG of the descriptor that a rejection names, or of the first one whose range holds the failing burst; else 0 (Table 21-1). [Log 21 DEDUCED] -/
def State.faultTag (s : State) (c : Cmd) (slot addr : Nat) : Nat :=
  if slot = 0 then
    match c.plan.descs.find? fun d => d.ranges.any fun r => rangeMeets r ((addr / 64 * 64 : Nat), 64) with
    | some d => d.dtag
    | none => 0
  else if slot ≤ descFields c then
    let a := c.field (26 + 6 * slot) 6
    if s.owned (s.partOf c.ctx) a 64 && !s.anyPoison (wordsOf a 64) then s.numAt (a + 60) 2 else 0
  else 0

/-- The CMDFAULT record of a fault of context `x` by a command with these bytes (Table 21-3). [Log 44 DEDUCED] -/
def State.cmdFault (s : State) (x : Nat) (f : CtxFault) (op : Option (List Byte)) (dtag : Nat) : State :=
  let an := (s.anchor x).getD 0
  s.record { cls := 0x30, sev := 1, kind := 1, unit := an, island := clusterIsland an, op := op.map fun b => (b, s.partOf x, x),
             dtag := dtag, addr := f.addr, syn := f.syn, status := f.status, cause := f.cause }

/-- A context fault is noted; the first one stands, and a later one gives its own record only (R22, R507). [Log 44 DEDUCED] -/
def State.faultCtx (s : State) (x : Nat) (f : CtxFault) : State :=
  let v := s.ctx x
  let c := f.cmd.bind s.cmd?
  let op := c.map (·.bytes)
  let tag := (c.map fun c => s.faultTag c (f.syn / 32) f.addr).getD 0
  if s.getF F.shtCtxstatState x == 1 && v.fault.isNone then s.setCtx x { v with fault := some f, faultOp := op, faultTag := tag }
  else if f.cls = 0x30 && f.cause.isNone then s.cmdFault x f op tag
  else s

end Sys2Proof.Machine
end

