-- ==== Sys2Proof/Machine/Complete.lean ====
section
/-!
DEFINITION. Machine/Complete.lean: the completion of a command: FLUSHED, DUMP firings, signal, END event and record, in that order
(R118, R534, R537).
-/
namespace Sys2Proof.Machine

/-- `n` bytes that the spec leaves unspecified, and the state that has taken them. [Log 10 DESIGN CHOICE] -/
def State.freeBytes (s : State) (n : Nat) : List Byte × State :=
  ((List.range n).map fun i => Config.freeByte (s.fresh + i), s.bumpFresh n)

/-! ### DUMP firings (R537) -/

/-- Element encodings of a dense tensor in element-index order (R272). -/
def State.tensorCodes (s : State) (d : Desc) : List Nat :=
  (List.range d.rows).flatMap fun r => (List.range (d.size 0)).map fun i => s.elemCode d i (d.rowIx r)

/-- The bytes of a dump: elements packed, then MX scales. -/
def State.tensorBytes (s : State) (d : Desc) : List Byte :=
  packBytes d.fmt.width (s.tensorCodes d) ++ (if d.fmt.isMx then s.bytesAt d.scaleBase (d.blocks * d.rows) else [])

/-- Chunk `i` of 64 packed bytes takes an element or a scale from a poisoned burst (R510). -/
def State.chunkPoisoned (s : State) (d : Desc) (i : Nat) : Bool :=
  let w := d.fmt.width
  let len := cdiv (w * d.count) 8
  ((List.range (cdiv (512 * (i + 1)) w - 512 * i / w)).any fun j =>
    let e := 512 * i / w + j
    let a := (d.rowAddr (d.rowIx (e / d.size 0))).toNat + e % d.size 0 * w / 8
    e < d.count && s.anyPoison (wordsOf a (cdiv (e % d.size 0 * w % 8 + w) 8))) ||
    (d.fmt.isMx && (List.range 64).any fun j =>
      let b := 64 * i + j - len
      decide (len ≤ 64 * i + j) && decide (b < d.blocks * d.rows) && s.anyPoison (wordsOf (d.scaleBase + b) 1))

/-- The descriptors that the anchor read at issue, those of the operand area first, then those of the stage list (R537). -/
def Plan.allDescs (p : Plan) : List Desc := p.descs ++ p.stages.flatMap fun st => st.d1.toList ++ st.d2.toList

/-- The tensor that a slot selects (R537). -/
def Plan.selected (p : Plan) (tag : Nat) : Option Desc :=
  if tag = 0 then p.descs[p.outIx]? else p.allDescs.find? (·.dtag == tag)

/-- Write bytes to host memory in TLPs of 64 bytes, each poisoned when its source is (R510). [Log 49 DESIGN CHOICE] -/
def State.hostChunks (s : State) (fn : Nat) (bad : Nat → Bool) : (fuel addr i : Nat) → List Byte → State
  | 0, _, _, _ => s
  | f + 1, addr, i, bs =>
    if bs.isEmpty then s
    else (s.emit (.hostWrite fn (addr + 64 * i) (bs.take 64) (bad i))).hostChunks fn bad f addr (i + 1) (bs.drop 64)

/-- The dump header (Table 22-9). -/
def dumpHeader (time algen : Nat) (c : Cmd) (part : Nat) (trunc poisoned skipped : Bool) (dtag k bytes : Nat) : List Byte :=
  leBytes 8 time ++ leBytes 2 algen ++ leBytes 1 c.status ++ leBytes 1 (b2n trunc + 2 * b2n poisoned + 4 * b2n skipped) ++
    leBytes 2 (part * 4096 + c.ctx) ++ leBytes 2 c.layer ++ leBytes 2 c.oper ++ leBytes 2 c.step ++ leBytes 2 dtag ++
    leBytes 1 k ++ leBytes 1 0 ++ leBytes 8 bytes ++ leBytes 4 c.seq ++ leBytes 28 0

/-- Fire one slot for a command (R537). -/
def State.fireSlot (s : State) (c : Cmd) (k : Nat) (d : DumpSlot) : State :=
  let fn := s.getF F.pciQstatOwner c.q
  let slotSz := fieldAt d.operand 24 4
  let addr := fieldAt d.operand 16 8 + d.fired * slotSz
  let sel := c.plan.selected (fieldAt d.operand 12 2)
  let dense := sel.filter (·.kind == 0)
  let s := match dense with
    | some t => s.readWords t.allWords
    | none => s
  let full := match dense with
    | some t => s.tensorBytes t
    | none => []
  let trunc := decide (slotSz - 128 < full.length)
  let out := full.take (slotSz - 128)
  let bad := fun i => match dense with
    | some t => s.chunkPoisoned t i
    | none => false
  let poisoned := (List.range (cdiv out.length 64)).any bad
  let dtag := (sel.map (·.dtag)).getD 0
  let skipped := dense.isNone
  let s := s.hostChunks fn bad (out.length / 64 + 1) (addr + 128) 0 out
  let s := match sel with
    | some t => s.emit (.hostWrite fn (addr + 64) t.bytes false)
    | none => s
  let h := dumpHeader s.now (s.getF F.tmbAlignAlgen 0) c (s.partOf c.ctx) trunc poisoned skipped dtag d.fired out.length
  let s := s.emit (.hostWrite fn addr h false)
  let flags := b2n trunc + 2 * b2n poisoned + 4 * b2n skipped
  let s := s.trace c 4 c.status (leBytes 8 addr ++ leBytes 8 out.length ++ leBytes 2 dtag ++ leBytes 1 flags)
  let v := s.ctx c.ctx
  let left := if d.fired + 1 = fieldAt d.operand 14 1 then none else some { d with fired := d.fired + 1 }
  s.setCtx c.ctx { v with dumps := v.dumps.set k left }

/-- Fire the slots that a command matched at issue and that still hold the same trigger, in slot order (R537). -/
def State.fireDumps (s : State) (c : Cmd) : State :=
  c.armed.foldl (fun t a =>
    match (t.ctx c.ctx).dumps.getD a.1 none with
    | some d => if d.src == a.2 && (c.status == 0 || bit (fieldAt d.operand 15 1) 0) then t.fireSlot c a.1 d else t
    | none => t) s

/-- The slots of a context that a command matches (R537). -/
def State.dumpMatches (s : State) (c : Cmd) : List (Nat × Nat) :=
  (List.range 4).filterMap fun k =>
    match (s.ctx c.ctx).dumps.getD k none with
    | some d =>
      let m := fun off v => (v &&& fieldAt d.operand (off + 2) 2) == (fieldAt d.operand off 2 &&& fieldAt d.operand (off + 2) 2)
      if m 0 c.layer && m 4 c.oper && m 8 c.step then some (k, d.src) else none
    | none => none

/-! ### Completion (R118) -/

/-- The END event of a command with its totals; what its stall cycles were is not modelled, so STALLCYC is open (R534).
[Log 24 DESIGN CHOICE; 55 DEDUCED] -/
def State.traceEnd (s : State) (c : Cmd) : State :=
  let f := s.freeBytes 8
  let t := f.2
  t.trace c 2 c.status (leBytes 8 (sumOf (c.parts.map (·.dig))) ++ leBytes 8 (sumOf (c.parts.map (·.full))) ++ f.1 ++
    leBytes 4 (satAdd 32 0 (sumOf (c.parts.map (·.flushN)))) ++ leBytes 2 c.span.length)

/-- Complete a command: FLUSHED, dumps, signal, END event, record, tracking entry (R118, R534, R537). -/
def State.completeCmd (s : State) (c : Cmd) : State :=
  let c := { c with flush := c.parts.any fun p => p.flushN != 0, poisoned := c.poisoned || c.parts.any (·.poison) }
  let s := if c.flush then s.setF F.shtNumctlFlushed c.ctx 1 else s
  let s := s.fireDumps c
  let s := if c.status == 0 && c.sgen then s.addToken c.stok c.sinc else s
  (s.traceEnd c).finishCmd c

end Sys2Proof.Machine
end

