-- ==== Sys2Proof/Machine/Issue.lean ====
section
/-!
DEFINITION. Machine/Issue.lean: what every command goes through at issue (R96): the generic checks of Table 4-8, the reading of
descriptors and indirect sizes (R101 to R105, R583), the choice of tiles (R107 to R110), and rejection with its place (R582).
-/
namespace Sys2Proof.Machine

/-! ### Rejection -/

/-- Why a command is rejected at issue: status, DSLOT, DFIELD and ADDR (R582), and DTAG of a descriptor reached through another structure.
[Log 20 DEDUCED] -/
structure Rej where
  status : Nat
  dslot : Nat
  dfield : Nat
  addr : Nat
  tag : Nat := 0
  deriving DecidableEq, Repr

/-- A check at issue: it reads a state, logs the words that the anchor reads, and may reject. -/
abbrev Chk := ExceptT Rej (StateM (List Nat))

/-- Reject unless a condition holds. -/
def ensure (b : Bool) (r : Rej) : Chk Unit := if b then pure () else throw r

/-- The place of a field of the command at byte `off` (R582). [Log 21 DEDUCED] -/
def rejCmd (status off : Nat) : Rej := ⟨status, if off < 32 then 0 else 5, off / 2, 0, 0⟩

/-- The place of the field at byte `off` of the structure at `a` that `slot` names (R582). [Log 21 DEDUCED] -/
def rejIn (status slot a off : Nat) : Rej := ⟨status, slot, (a + off) % 64 / 2, (a + off) / 64 * 64, 0⟩

/-- The failure of an address itself (R582). -/
def rejAddr (status slot a : Nat) : Rej := ⟨status, slot, 0, a, 0⟩

/-- A failure that lies in no field (R582). [Log 21 DEDUCED] -/
def rejNone (status : Nat) : Rej := ⟨status, 0, 0, 0, 0⟩

/-- A rejection within is of the descriptor with this DTAG. [Log 21 DEDUCED] -/
def withTag {α : Type} (tag : Nat) (m : Chk α) : Chk α :=
  tryCatch m fun e => throw (if e.tag = 0 then { e with tag := tag } else e)

/-- Log the words of a read at issue. [Log 20 DEDUCED] -/
def logRead (a n : Nat) : Chk Unit := modify (· ++ wordsOf a n)

/-- Read a structure of `n` bytes at issue; poison rejects with status 0x0D (R511). [Log 20 DEDUCED] -/
def readStruct (s : State) (slot a n : Nat) : Chk (List Byte) := do
  logRead a n
  ensure (!s.anyPoison (wordsOf a n)) (rejAddr 0x0D slot a)
  return s.bytesAt a n

/-- The first place of a list whose condition fails rejects. -/
def ensureAll (l : List (Bool × Rej)) : Chk Unit := l.forM fun e => ensure e.1 e.2

/-! ### Checks 1 to 4 (Table 4-8) -/

/-- The reserved field of the operand area from byte `off` to byte `last` is 0. -/
def reservedFrom (c : Cmd) (status off last : Nat) : Chk Unit := ensure (c.field off (last + 1 - off) == 0) (rejCmd status off)

/-- Check 2, tests in the order of its row; `area` is the test of the operand area for NOP and MMA. [Log 21 DEDUCED; 30 DEDUCED] -/
def headerChecks (c : Cmd) (area : Chk Unit) : Chk Unit := do
  ensure (c.bits 2 0 2 == 0) (rejCmd 0x02 2)
  area
  ensure (c.split != 1 && decide (c.split ≤ 64)) (rejCmd 0x02 3)
  ensure (!(c.sgen && c.sinc == 0)) (rejCmd 0x02 24)
  ensure (isMatrixOp c.opcode || c.bits 1 4 4 == 0) (rejCmd 0x02 1)
  ensure (c.bits 1 3 1 == 0) (rejCmd 0x03 1)
  ensure (!(decide (2 ≤ c.split) && c.trows == 1)) (rejCmd 0x02 3)

/-- Check 3: the span, for tiled and span-wide opcodes (R94, R111). -/
def spanCheck (s : State) (c : Cmd) (runs : Runs) : Chk (List Nat) :=
  match runs with
  | .anchor => return (s.anchor c.ctx).toList
  | .tiled | .spanWide =>
    match s.spanOf c.ctx c.spanFirst c.spanCount with
    | none => throw (rejCmd 0x09 26)
    | some cs => do
      ensure (decide (c.split ≤ cs.length)) (rejCmd 0x09 3)
      return cs

/-- Check 4: active tokens are in the partition (R114). -/
def tokenCheck (s : State) (c : Cmd) : Chk Unit := do
  let p := s.partOf c.ctx
  ensure (!c.wen 0 || s.ownsToken p (c.wtok 0)) (rejCmd 0x08 10)
  ensure (!c.wen 1 || s.ownsToken p (c.wtok 1)) (rejCmd 0x08 16)
  ensure (!c.sgen || s.ownsToken p c.stok) (rejCmd 0x08 22)

/-- Checks 1 to 4 of Table 4-8; answers the span. -/
def commonChecks (s : State) (c : Cmd) (area : Chk Unit) : Chk (List Nat) := do
  match opRuns c.opcode with
  | none => throw (rejCmd 0x01 0)
  | some r =>
    headerChecks c area
    let span ← spanCheck s c r
    tokenCheck s c
    return span

/-! ### Descriptors: checks 5 to 7, 9 and 10 -/

/-- An address field that names a tensor descriptor: its DSLOT, its value, the formats and KINDs that the opcode accepts. -/
structure DRef where
  slot : Nat
  addr : Nat
  fmtOk : Fmt → Bool
  kinds : List Nat

/-- A descriptor with the place it is reported at (R582). -/
abbrev Opd := Nat × Desc

/-- Check 5 for an address and the `n` bytes read from it (R583). -/
def addrIn (s : State) (p status slot a n : Nat) : Chk Unit := ensure (s.owned p a n) (rejAddr status slot a)

/-- Check 6 for one descriptor: alignment, then its fields (R101, R102, R41); `status` is 0x03, or the opcode's own. -/
def loadDesc (s : State) (status : Nat) (r : DRef) : Chk (List Byte) := do
  ensure (r.addr % 64 == 0) (rejAddr status r.slot r.addr)
  let b ← readStruct s r.slot r.addr 64
  match descBad r.fmtOk r.kinds b with
  | some off => throw { rejIn status r.slot r.addr off with tag := fieldAt b 60 2 }
  | none => return b

/-- The value of one indirect size source (R105, Table 4-5); `sz` is the place of its SIZE field. -/
def indirect (s : State) (ctx base word : Nat) (sz : Rej) : Chk Nat := do
  let src := word >>> 28
  let ix := word % 0x10000000
  if src = 0 then do
    ensure (decide (ix < 16)) sz
    return s.getF F.shtCregValue (ctx * 16 + ix)
  else do
    ensure (src == 1) sz
    let a := base + 4 * ix
    ensure (s.owned (s.partOf ctx) a 4) (rejAddr 0x07 6 a)
    logRead a 4
    ensure (!s.anyPoison (wordsOf a 4)) (rejIn 0x07 6 a 0)
    return s.numAt a 4

/-- Check 7 for one descriptor: its sizes with every source resolved (R105). -/
def resolveDesc (s : State) (ctx slot addr : Nat) (b : List Byte) : Chk Desc := do
  let sizes ← (List.range 5).mapM fun d =>
    if (indMask b).testBit d then withTag (fieldAt b 60 2) <| indirect s ctx (fieldAt b 54 6) (sizeWord b d) (rejIn 0x07 slot addr (8 + 4 * d))
    else pure (sizeWord b d)
  return { parseDesc addr b with sizes := sizes }

/-- Checks 5 to 7 for the descriptors of an opcode, with `mid` the opcode's further field checks at check 6, `pre5` its further
address checks at check 5. -/
def loadDescs (s : State) (c : Cmd) (refs : List DRef) (pre5 : Chk Unit) (mid : List Desc → Chk Unit) : Chk (List Opd) := do
  let p := s.partOf c.ctx
  refs.forM fun r => addrIn s p 0x05 r.slot r.addr 64
  pre5
  let raws ← refs.mapM (loadDesc s 0x03)
  mid (List.zipWith (fun r b => parseDesc r.addr b) refs raws)
  (refs.zip raws).mapM fun rb => do
    let d ← resolveDesc s c.ctx rb.1.slot rb.1.addr rb.2
    return (rb.1.slot, d)

/-- The first range of a dense tensor outside the owned sites: its lowest address (R103). -/
def badRange (s : State) (p : Nat) (d : Desc) : Option Nat :=
  if d.kind != 0 then none
  else (d.ranges.find? fun r => !(decide (0 ≤ r.1) && s.owned p r.1.toNat r.2)).map fun r => ofInt 64 r.1

/-- Check 9: tensor ranges lie in owned sites. -/
def rangeCheck (s : State) (p status : Nat) (ds : List Opd) : Chk Unit :=
  ds.forM fun o =>
    match badRange s p o.2 with
    | some a => throw { rejAddr status o.1 a with tag := o.2.dtag }
    | none => pure ()

/-- Check 10: no output meets an input, but where `alias` permits it, and no output meets a later one (R104, R134, R155). -/
def overlapCheck (permits : Opd → Opd → Bool) (ins : List Opd) : List Opd → Chk Unit
  | [] => pure ()
  | o :: t => do
    ensure (!(ins.any fun i => i.2.meets o.2 && !permits i o) && !(t.any fun x => x.2.meets o.2)) { rejIn 0x06 o.1 o.2.at_ 0 with tag := o.2.dtag }
    overlapCheck permits ins t

/-! ### Tiles (R107 to R110) -/

/-- Units of 4 KiB that a number of bytes needs (R107). -/
def unitsOf (bytes : Nat) : Nat := cdiv bytes 4096

/-- The cap that TROWS selects (R108). -/
def rowsCap (trows : Nat) : Nat := match trows with | 0 => 256 | 1 => 512 | 2 => 128 | _ => 64

/-- Candidates for TM in descending order, less those from 16 up to `removed` (R108). -/
def tmCands (removed : Nat) : List Nat := [512, 256, 128, 64, 32, 16].filter (removed < ·)

/-- Smallest TM that can be chosen: for the item count of check 8 (R109). -/
def tmSmallest (removed : Nat) : Nat := (tmCands removed).getLastD 16

/-- The choice of R108: TM, single buffering and units; `need tm single` is in units of 4 KiB. -/
def chooseTm (share rows cap removed : Nat) (need : Nat → Bool → Nat) : Option (Nat × Bool × Nat) :=
  let cands := (tmCands removed).filter (· ≤ cap)
  match cands.getLast? with
  | none => none
  | some tmin =>
    let fits := fun single => (cands.find? fun tm => !(decide (tmin < tm) && decide (rows ≤ tm / 2)) &&
      decide (need tm single ≤ share)).map fun tm => (tm, single, need tm single)
    fits false <|> fits true

/-- Check 11 (R108): no tile fits rejects with 0x0A. -/
def tileCheck (s : State) (c : Cmd) (rows removed : Nat) (need : Nat → Bool → Nat) : Chk (Nat × Bool × Nat) :=
  match chooseTm (s.getF F.shtCtxstatShare c.ctx) rows (rowsCap c.trows) removed need with
  | some t => pure t
  | none => throw (rejNone 0x0A)

/-- Check 12: the issue-time count against SHT_MAXLEN (R117, R377). -/
def countCheck (s : State) (c : Cmd) (count : Nat) : Chk Unit :=
  let m := s.getF F.shtMaxlenMaxcyc (s.partOf c.ctx)
  ensure (m == 0 || decide (count ≤ m)) (rejNone 0x0B)

/-- An item of a walk (R110). -/
structure Item where
  t : Nat
  b : List Nat
  u : Nat
  v : Nat
  p : Nat
  deriving DecidableEq, Repr

/-- Number of items. -/
def Walk.count (w : Walk) : Nat := w.b4 * w.b3 * w.b2 * (w.tu * w.tv) * w.f

/-- Item number `t` (R110). -/
def Walk.item (w : Walk) (t : Nat) : Item :=
  let x := t / w.f % (w.tu * w.tv)
  let b := t / w.f / (w.tu * w.tv)
  { t := t, b := [b % w.b2, b / w.b2 % w.b3, b / (w.b2 * w.b3)], u := if w.col then x % w.tu else x / w.tv,
    v := if w.col then x / w.tu else x % w.tv, p := t % w.f }

/-- The items of the cluster at position `i` of a span of `n`, ascending (R110). -/
def Walk.itemsOf (w : Walk) (n i : Nat) : List Item :=
  (List.range (cdiv (w.count - i) n)).map fun j => w.item (i + j * n)

/-- The walk of a tiled opcode that is not a matrix command, over the sizes of its output (R110). -/
def outWalk (sizes : List Nat) (tm : Nat) (col : Bool) : Walk :=
  ⟨sizes.getD 2 1, sizes.getD 3 1, sizes.getD 4 1, cdiv (sizes.getD 1 1) tm, cdiv (sizes.getD 0 1) 128, 1, col⟩

/-- The number of items is below 2^40 (R109): else check 8 rejects; the count is no single field, so DSLOT and DFIELD are 0. [Log 21 DEDUCED] -/
def itemCheck (w : Walk) : Chk Unit := ensure (decide (w.count < 2 ^ 40)) (rejNone 0x04)

/-- The largest count over the clusters of a span (R117). -/
def spanCount (n : Nat) (count : Nat → Nat) : Nat := maxOf ((List.range n).map count)

/-! ### Issue and rejection -/

/-- Reject a command: its status and place are noted, and its context is to be torn down (R116, R582, R383). [Log 20 DEDUCED] -/
def State.rejectCmd (s : State) (c : Cmd) (r : Rej) : State :=
  let c := { c with st := .ended, status := r.status, dslot := r.dslot, dfield := r.dfield, addr := r.addr }
  let t := (s.setCmd c).faultCtx c.ctx ⟨r.status, 0x30, r.addr, r.dslot * 32 + r.dfield, some c.id, none⟩
  if r.dslot = 6 then t.setCtx c.ctx { t.ctx c.ctx with faultTag := r.tag } else t

/-- SCOPE of SIGNAL and FENCE (Table 12-4). -/
def Cmd.scope (c : Cmd) : Nat := c.bits 32 0 2
/-- CTX of SIGNAL and FENCE. -/
def Cmd.wholeCtx (c : Cmd) : Bool := c.bits 32 2 1 = 1

/-- Command `c` was fetched before the SIGNAL or FENCE `f`, in its queue or, under CTX = 1, its context (R301). -/
def Cmd.coveredBy (c f : Cmd) : Bool := c.ctx == f.ctx && (f.wholeCtx || c.q == f.q) && decide (c.id < f.id)

/-- A FENCE of device or system scope that has not completed holds the command back (R303). -/
def State.fenced (s : State) (c : Cmd) : Bool :=
  s.cmds.any fun f => f.opcode == 0x2A && f.st == .issued && f.scope != 0 && c.ctx == f.ctx && (f.wholeCtx || c.q == f.q) &&
    decide (f.id < c.id)

/-- A command may issue: its context is ACTIVE, the device runs, its waits are satisfied, no FENCE holds it back (R96, R303). -/
def State.mayIssue (s : State) (c : Cmd) : Bool := c.satisfied && s.running && s.ctxActive c.ctx && !s.fenced c

/-- The command with what the shuttle samples at issue: FTZ, COMPAT, the lane seed and salt (R96, R172, R280). -/
def State.sample (s : State) (c : Cmd) : Cmd :=
  { c with ftz := s.flag F.shtNumctlFtz c.ctx, compat := s.flag F.sfuModeCompat c.ctx, lseed := s.getF F.rngLseedLseed c.ctx,
           lsalt := s.getF F.rngLsaltLsalt c.ctx, armed := s.dumpMatches c }

/-- Issue the oldest unissued command of queue `q` when it is one of this row's (`mine`) and may issue: sample, check, and go on
with the accepted plan (R96, R116). Otherwise nothing happens. [Log 18 DESIGN CHOICE] -/
def State.issue (s : State) (q : Nat) (mine : Cmd → Bool) (check : State → Cmd → Chk Plan) (go : State → Cmd → State) : State :=
  match s.oldest? q with
  | none => s
  | some c0 =>
    if mine c0 && s.mayIssue c0 then
      let c := s.sample c0
      let r := (check s c).run.run []
      let t := s.readWords r.2.eraseDups
      match r.1 with
      | .error e => t.rejectCmd c e
      | .ok p => go t { c with plan := p, st := .issued }
    else s

/-- The span a command issues over; empty when R94 refuses it. -/
def State.issueSpan (s : State) (c : Cmd) : List Nat :=
  match opRuns c.opcode with
  | some .tiled | some .spanWide => (s.spanOf c.ctx c.spanFirst c.spanCount).getD []
  | some .anchor | none => (s.anchor c.ctx).toList

/-- The START event (R534, Table 22-7). -/
def State.traceStart (s : State) (c : Cmd) : State :=
  let p := c.plan
  s.trace c 1 0 (leBytes 5 p.walk.count ++ leBytes 1 0 ++ leBytes 2 p.tm ++ leBytes 1 (b2n p.single) ++ leBytes 3 0 ++
    leBytes 8 p.count)

/-- A tiled command has passed its checks: each shuttle of the span holds a ready part (R96, R97). -/
def State.goTiled (s : State) (c : Cmd) : State :=
  let cs := s.issueSpan c
  let c := { c with span := cs, parts := cs.map fun cl => ⟨cl, .ready, false, 0, false, 0, 0, 0, 0, []⟩ }
  ((s.setCmd c).latchWaits).traceStart c

/-- A span-wide command has passed its checks and completes at issue. -/
def State.goNow (s : State) (c : Cmd) : State :=
  let c := { c with span := s.issueSpan c }
  ((s.setCmd c).traceStart c).completeCmd c

/-- An anchor command has passed its checks and waits for its completion. -/
def State.goAnchor (s : State) (c : Cmd) : State := (s.setCmd c).latchWaits

/-- An anchor command has passed its checks and completes at issue. -/
def State.goAnchorNow (s : State) (c : Cmd) : State := (s.setCmd c).completeCmd c

/-! ### NOP -/

/-- The plan of a command without descriptors, with an issue-time count. -/
def Plan.plain (count : Nat) (extra : List Nat) : Plan := { Plan.none with count := count, extra := extra }

/-- Commands that issue in the NOP row: NOP, and those of no opcode of Table 4-2, which are rejected there (R99). [Log 18 DESIGN CHOICE] -/
def isNopRow (c : Cmd) : Bool := c.opcode == 0 || (opRuns c.opcode).isNone

/-- Checks of NOP: bytes 32 to 63 are reserved (R98). -/
def nopCheck (s : State) (c : Cmd) : Chk Plan := do
  let _ ← commonChecks s c (reservedFrom c 0x02 32 63)
  countCheck s c 0
  return Plan.plain 0 []

/-- NOP (R96, R99): the command issues and completes with no work. -/
def execNop (q : Nat) (s : State) : Host.Outcome State Fault Refusal :=
  .next (s.issue q isNopRow nopCheck State.goNow)

end Sys2Proof.Machine
end

