-- ==== Sys2Proof/Machine/Micro.lean ====
section
/-!
DEFINITION. Machine/Micro.lean: microprograms of the special-function unit: the store image (R168), its checks (R170) and the
run of a program on one element (R164 to R167).
-/
namespace Sys2Proof.Machine

/-- Bytes of a store image (R168). -/
def imageBytes : Nat := 8768

/-- IMAGEID of an image; an empty store has 0 (R164). -/
def imageId (img : List Byte) : Nat := fieldAt img 0 4

/-- FIRST of program `p`. -/
def progFirst (img : List Byte) (p : Nat) : Nat := fieldAt img (64 + 8 * p) 1

/-- COUNT of program `p`; 0 = no program. -/
def progCount (img : List Byte) (p : Nat) : Nat := bits (fieldAt img (65 + 8 * p) 2) 0 9

/-- The step record in a slot. -/
def stepBytes (img : List Byte) (slot : Nat) : List Byte := (img.drop (576 + 16 * slot)).take 16

/-- The slots of program `p`. -/
def progSlots (img : List Byte) (p : Nat) : List Nat := (List.range (progCount img p)).map (progFirst img p + ·)

/-- TAB[i]: the table entry at i mod 1,024 (R166). -/
def tabVal (img : List Byte) (i : Nat) : Num := f32 (fieldAt img (4672 + 4 * (i % 1024)) 4)

/-- Bits [lo + w - 1 : lo] of byte `k` of a step record. -/
def stepF (b : List Byte) (k lo w : Nat) : Nat := bits (fieldAt b k 1) lo w

/-- DEG of a step. -/
def stepDeg (b : List Byte) : Nat := stepF b 10 5 3

/-- Weight of a step (Table 6-8). -/
def stepWeight (b : List Byte) : Nat :=
  match fieldAt b 0 1 with
  | 0x05 => stepDeg b
  | 0x06 => 2
  | 0x0F => 8
  | _ => 1

/-- Weight of program `p` (R167). -/
def progWeight (img : List Byte) (p : Nat) : Nat := sumOf ((progSlots img p).map fun k => stepWeight (stepBytes img k))

/-- Pipe cycles per element of program `p`: ⌈n / 8⌉ (R167). -/
def progCycles (img : List Byte) (p : Nat) : Nat := cdiv (progWeight img p) 8

/-- A reserved bit of a step record is set (Table 6-7). -/
def stepReserved (b : List Byte) : Bool :=
  stepF b 1 3 5 != 0 || stepF b 2 7 1 != 0 || stepF b 2 3 1 != 0 || stepF b 3 7 1 != 0 || stepF b 3 3 1 != 0 ||
    bits (fieldAt b 8 2) 10 6 != 0 || stepF b 11 4 4 != 0 || stepF b 14 0 4 != 0 || fieldAt b 15 1 != 0

/-- A covered step is invalid (R170). -/
def stepBad (b : List Byte) : Bool :=
  let op := fieldAt b 0 1
  op == 0 || decide (0x0F < op) || (op == 0x05 && (stepDeg b == 0 || decide (4 < stepDeg b))) ||
    (op == 0x0F && decide (0x0A < stepF b 4 0 4)) || stepReserved b

/-- A directory entry is invalid: a reserved bit, or slots beyond the store (R170). -/
def dirBad (img : List Byte) (p : Nat) : Bool :=
  bits (fieldAt img (65 + 8 * p) 2) 9 7 != 0 || fieldAt img (67 + 8 * p) 5 != 0 ||
    decide (256 < progFirst img p + progCount img p)

/-- A program of the image is invalid (R170). -/
def progBad (img : List Byte) (p : Nat) : Bool :=
  dirBad img p || (progSlots img p).any (fun k => stepBad (stepBytes img k)) || decide (64 < progWeight img p)

/-- The image is invalid (R170). -/
def imageBad (img : List Byte) : Bool :=
  imageId img == 0 || fieldAt img 4 2 != 1 || (List.range 58).any (fun i => fieldAt img (6 + i) 1 != 0) ||
    (List.range 64).any (progBad img)

/-- What a pipe holds for one element: W0 to W7, KI, and whether CLASS has ended the program (R164). -/
structure Pipe where
  w : List Num
  ki : Int
  done : Bool
  deriving DecidableEq, Repr

/-- W[i]. -/
def Pipe.get (p : Pipe) (i : Nat) : Num := p.w.getD i .zero

/-- W[i] := v. -/
def Pipe.put (p : Pipe) (i : Nat) (v : Num) : Pipe := { p with w := p.w.set i v }

/-- The FP32 encoding of a register. -/
def encOf (v : Num) : Nat := (f32Bits false v).1

/-- The value that the spec leaves open for a step (Config.stepOpen). [Log 29 DESIGN CHOICE] -/
def openVal (c : Nat) (a b : Num) : Num := f32 (Config.stepOpen c (encOf a) (encOf b)).toNat

/-- The integer nearest a value, ties to even, saturated to ±2^30; what a NaN gives is open. [Log 29 DESIGN CHOICE] -/
def nearestSat (v : Num) : Int :=
  match v with
  | .nan => clampInt (-1073741824) 1073741824 (Config.stepOpen 6 0 0).toInt
  | .inf n => if n then -1073741824 else 1073741824
  | .fin n m e => clampInt (-1073741824) 1073741824 (nearestInt (.fin n m e))

/-- Idx: (KI >> SHIFT) AND (2^BITS − 1) (R166). -/
def stepIdx (b : List Byte) (ki : Int) : Nat :=
  ((ki.fdiv ((2 : Int) ^ stepF b 10 0 5)) % ((2 : Int) ^ stepF b 11 0 4)).toNat

/-- The SEL condition (Table 6-8). -/
def selCond (c : Nat) (a imm : Num) (ki : Int) : Bool :=
  let ok := a != .nan && imm != .nan
  match c with
  | 0 => ok && a.lt imm
  | 1 => ok && !imm.lt a
  | 2 => ok && a.eqv imm
  | 3 => ok && !a.lt imm
  | 4 => ok && imm.lt a
  | 5 => a == .nan
  | 6 => ok && !a.abs.lt imm
  | _ => ki % 2 = 1

/-- The CLASS field of a value, 8 when it is of no listed class. -/
def classField (b : List Byte) : Num → Nat
  | .nan => stepF b 12 4 4
  | .inf false => stepF b 12 0 4
  | .inf true => stepF b 13 4 4
  | .fin n m _ => if m = 0 then (if n then stepF b 14 4 4 else stepF b 13 0 4) else 8

/-- The result that a CLASS field selects (Table 6-8); what a value above 8 selects is open. [Log 29 DESIGN CHOICE] -/
def classValue (f : Nat) (a : Num) : Num :=
  match f with
  | 0 => .nan | 1 => .zero | 2 => .fin true 0 0 | 3 => .inf false | 4 => .inf true | 5 => .one | 6 => .fin true 1 0 | 7 => a
  | f => openVal (32 + f) a .zero

/-- POLY: the polynomial of degree `d` in `x` with coefficients from table index `i` (R166). -/
def polyVal (img : List Byte) (i d : Nat) (x : Num) : Num :=
  (List.range d).foldl (fun q k => fma32 q x (tabVal img (i + (d - 1 - k)))) (tabVal img (i + d))

/-- One step (Table 6-8) under COMPAT `c`. [Log 29 DESIGN CHOICE] -/
def stepRun (c : Bool) (img : List Byte) (p : Pipe) (b : List Byte) : Pipe :=
  if p.done then p
  else
    let dst := stepF b 1 0 3
    let a := p.get (stepF b 2 0 3)
    let v := p.get (stepF b 2 4 3)
    let z := p.get (stepF b 3 0 3)
    let imm := fieldAt b 4 4
    let ti := bits (fieldAt b 8 2) 0 10
    let d := stepDeg b
    match fieldAt b 0 1 with
    | 0x01 => p.put dst (fma32 a v z)
    | 0x02 => p.put dst (fma32 a (f32 imm) z)
    | 0x03 => p.put dst (mul32 a (f32 imm))
    | 0x04 => p.put dst (add32 a (f32 imm))
    | 0x05 => p.put dst (polyVal img (ti + stepIdx b p.ki * (d + 1)) d a)
    | 0x06 =>
      let k := nearestSat (a.mul (f32 imm))
      let m := intNum (-k)
      ({ p with ki := k }).put dst (fma32 m (tabVal img (ti + 1)) (fma32 m (tabVal img ti) a))
    | 0x07 =>
      match a with
      | .fin n m e => if m = 0 then ({ p with ki := 0 }).put dst a
        else ({ p with ki := leadExp m e }).put dst (.fin n m (e - leadExp m e))
      | _ => ({ p with ki := 0 }).put dst a
    | 0x08 => p.put dst (tabVal img (ti + stepIdx b p.ki))
    | 0x09 => { p with ki := (encOf a >>> stepF b 10 0 5) % 2 ^ stepF b 11 0 4 }
    | 0x0A => { p with ki := clampInt (-2147483648) 2147483647 (p.ki + toInt 32 imm) }
    | 0x0B => p.put dst (scale32 (clampInt (-1000) 1000 p.ki) a)
    | 0x0C => p.put dst (if selCond (stepF b 3 4 3) a (f32 imm) p.ki then v else z)
    | 0x0D =>
      let f := classField b a
      if f = 8 then p else { p.put 0 (classValue f a) with done := true }
    | 0x0E => p.put dst (match stepF b 3 4 3 with
        | 0 => a
        | 1 => a.negate
        | 2 => a.abs
        | 3 => if v.neg then a.abs.negate else a.abs
        | k => openVal (16 + k) a v)
    | _ => p.put dst (sfuFunc c (stepF b 4 0 4) a)

/-- Program `prog` of an image on one FP32 input (R164, R166). -/
def progRun (c : Bool) (img : List Byte) (prog : Nat) (x : Num) : Num :=
  let p0 : Pipe := ⟨x :: List.replicate 7 .zero, 0, false⟩
  ((progSlots img prog).foldl (fun p k => stepRun c img p (stepBytes img k)) p0).get 0

end Sys2Proof.Machine
end

