-- ==== Sys2Proof/Machine/Seams.lean ====
section
/-!
DEFINITION. Machine/Seams.lean: stage lists (R123 to R126), their checks (R135, Table 5-4), costs and buffer terms (R142, R145)
and the arithmetic of every stage on a row segment (R125 to R133, R184).
-/
namespace Sys2Proof.Machine

/-! ### Stage types and operands (Tables 5-2 and 5-3) -/

/-- What a stage operand is. -/
inductive OpKind where
  | colVec | rowVec | group | elem | side | statsOut | statsIn | posMap | angle | geom
  deriving DecidableEq, Repr

/-- The stage that a 32-byte record holds, operands not yet resolved (Table 5-2). -/
def parseStage (b : List Byte) : Stage :=
  { typ := fieldAt b 0 1, side := bits (fieldAt b 1 1) 6 2, cvt := bits (fieldAt b 1 1) 0 4,
    sfmt := (Fmt.ofCode (bits (fieldAt b 2 1) 0 4)).getD .fp32, param := fieldAt b 3 1, d1 := none, d2 := none, geo := [],
    k0 := fieldAt b 16 4, k1 := fieldAt b 20 4, clo := fieldAt b 24 4, chi := fieldAt b 28 4 }

/-- CVT of a stage. -/
def Stage.conv (st : Stage) : Cvt := Cvt.ofBits st.cvt

/-- Head size of a ROPE stage (PARAM[3]). -/
def Stage.headSize (st : Stage) : Nat := if bit st.param 3 then 64 else 128

/-- Column `j` lies in the window of a stage (R125). -/
def Stage.inWin (st : Stage) (j : Nat) : Bool := decide (st.clo ≤ j) && (st.chi == 0 || decide (j < st.chi))

/-- The window meets columns c0 to c1 − 1 (R125). -/
def Stage.winMeets (st : Stage) (c0 c1 : Nat) : Bool := decide (st.clo < c1) && (st.chi == 0 || decide (c0 < st.chi))

/-- Sides of a type in MMA, CHAIN and CONV: prologue, middle, epilogue (Table 5-3). -/
def typeSides (typ : Nat) : List Nat :=
  match typ with
  | 0x01 | 0x02 | 0x03 | 0x05 | 0x09 => [0, 1, 2]
  | 0x04 => [0, 2]
  | 0x06 | 0x07 | 0x0A | 0x0B => [2]
  | 0x08 => [0]
  | 0x0C => [1]
  | _ => []

/-- PARAM is one that Table 5-3 gives the type. -/
def paramOk (attn : Bool) (typ p : Nat) : Bool :=
  match typ with
  | 0x01 => decide (p < 16)
  | 0x02 => decide (p < 32)
  | 0x03 => decide (p ≤ 5) || (decide (0x40 ≤ p) && decide (p ≤ 0x7F))
  | 0x04 | 0x08 | 0x0A | 0x0B => decide (p < 2)
  | 0x05 => decide (p < 64)
  | 0x06 => decide (p < 32) && (attn || !bit p 4) && !(bit p 0 && bit p 1)
  | _ => p == 0

/-- The operands of a stage: which of D1 and D2 (false = D1), what it is, and whether it is required (Table 5-3). -/
def stageOpds (typ p : Nat) : List (Bool × OpKind × Bool) :=
  match typ with
  | 0x01 =>
    (if bits p 0 2 = 2 then [(false, .colVec, true)] else if bits p 0 2 = 3 then [(false, .rowVec, true)] else []) ++
      (if bits p 2 2 = 2 then [(true, .colVec, true)] else if bits p 2 2 = 3 then [(true, .rowVec, true)] else [])
  | 0x02 => [(false, .group, true), (true, .group, true)]
  | 0x04 => [(false, .elem, true)]
  | 0x05 => [(false, if bit p 5 then .group else .elem, true)]
  | 0x06 => (false, OpKind.angle, true) ::
      (if bit p 0 then [(true, .geom, true)] else if bit p 1 then [(true, .posMap, true)] else [])
  | 0x07 => [(false, .statsOut, true)]
  | 0x08 => [(false, .statsIn, true), (true, .colVec, false)]
  | 0x09 => [(false, .side, false)]
  | _ => []

/-- The operand is written by the command. -/
def OpKind.isOut (k : OpKind) : Bool := k == .side || k == .statsOut

/-- What the seam checks know of the command: opcode, ATTN, orientation, accumulation, sizes of m, n, k and of the hidden
dimension, batch sizes of C. -/
structure SeamCmd where
  op : Nat
  stream : Bool
  accInt : Bool
  m : Nat
  n : Nat
  k : Nat
  h : Nat
  batch : List Nat
  /-- Rows of m and batch sizes of a prologue, where they are not the command's (CONV, R257). -/
  pro : Option (Nat × List Nat) := none

/-- The command is ATTN. -/
def SeamCmd.attn (q : SeamCmd) : Bool := q.op == 0x03

/-! ### Checks 1 and 2 of Table 5-4 -/

/-- A stage list as read: its address, DSLOT, header and records (R123). -/
structure SeamList where
  addr : Nat
  slot : Nat
  hdr : List Byte
  recs : List (List Byte)

/-- NST. -/
def SeamList.nst (l : SeamList) : Nat := bits (fieldAt l.hdr 0 1) 0 4

/-- CO. -/
def SeamList.co (l : SeamList) : Bool := bit (fieldAt l.hdr 1 1) 0

/-- The stages in record order. -/
def SeamList.stages (l : SeamList) : List Stage := l.recs.map parseStage

/-- Check 1, then the one read of the list (R123). -/
def seamRead (s : State) (p slot ds : Nat) : Chk SeamList := do
  ensure (s.owned p ds 288) (rejAddr 0x21 slot ds)
  let b ← readStruct s slot ds 288
  return ⟨ds, slot, b.take 32, (List.range (min 8 (bits (fieldAt b 0 1) 0 4))).map fun i => (b.drop (32 + 32 * i)).take 32⟩

/-- Check 2 of one record: field of TYPE, SIDE, CVT, SFMT, reserved bits, PARAM and window, in that order; `prev` is the SIDE of
the record before it, `closed` that a TSTORE stands before it. Answers the offset of the failing field. -/
def recBad (attn middles : Bool) (prev : Nat) (closed : Bool) (b : List Byte) : Option Nat :=
  let st := parseStage b
  let sides := typeSides st.typ ++ (if attn && st.typ == 0x06 then [0] else [])
  let hd := st.headSize
  let tests : List (Nat × Bool) :=
    [(0, closed || sides.isEmpty),
     (1, st.side == 3 || !sides.contains st.side || decide (st.side < prev) || (st.side == 1 && !middles)),
     (1, bit st.cvt 3), (2, decide (13 ≤ bits (fieldAt b 2 1) 0 4)), (1, bits (fieldAt b 1 1) 4 2 != 0),
     (2, bits (fieldAt b 2 1) 4 4 != 0), (3, !paramOk attn st.typ st.param),
     (24, st.typ == 0x06 && st.clo % hd != 0), (28, st.typ == 0x06 && st.chi % hd != 0)]
  (tests.find? (·.2)).map (·.1)

/-- Check 2 over the records in order. -/
def recsBad (attn middles : Bool) (prev : Nat) (closed : Bool) (i : Nat) : List (List Byte) → Option (Nat × Nat)
  | [] => none
  | b :: t =>
    match recBad attn middles prev closed b with
    | some off => some (i, off)
    | none => recsBad attn middles (parseStage b).side ((parseStage b).typ == 0x0A) (i + 1) t

/-- Index of the first record of a side. -/
def firstOf (l : List Stage) (side : Nat) : Option Nat := l.findIdx? (·.side == side)

/-- Index of the last record of a side. -/
def lastOf (l : List Stage) (side : Nat) : Option Nat :=
  ((List.range l.length).filter fun i => (l[i]?.map (·.side)) == some side).getLast?

/-- TSTORE with PARAM[0] = 1 closes the list (R133). -/
def transposed (l : List Stage) : Bool := l.any fun st => st.typ == 0x0A && bit st.param 0

/-- A record's SFMT is an array-operand format. -/
def sfmtArray (l : List Stage) (i : Nat) : Bool := (l[i]?.map (·.sfmt.isArray)).getD true

/-- Rules of check 2 across records: R128, R129, R133: the record and the field that fail. -/
def crossBad (q : SeamCmd) (cFmt : Fmt) (l : List Stage) : Option (Nat × Nat) :=
  let pro := (lastOf l 0).filter fun i => !sfmtArray l i
  let acc := (firstOf l 2).filter fun i => q.accInt && (l[i]?.map (·.typ)) != some 0x01
  let mxq := if transposed l && cFmt.isMx then l.findIdx? fun st => st.side == 2 && st.typ == 0x09 && st.sfmt.isMx else none
  match pro, acc, mxq with
  | some i, _, _ => some (i, 2)
  | none, some i, _ => some (i, 0)
  | none, none, some i => some (i, 2)
  | none, none, none => none

/-- Check 2 of Table 5-4: `middles` when middle records may occur, `coOk` when CO may be 1. -/
def seamCheck2 (q : SeamCmd) (cFmt : Fmt) (middles coOk : Bool) (l : SeamList) : Chk Unit := do
  ensure (l.addr % 64 == 0) (rejAddr 0x20 l.slot l.addr)
  let head := fun off => rejIn 0x20 l.slot l.addr off
  ensure (bits (fieldAt l.hdr 0 1) 4 4 == 0 && l.nst != 0 && decide (l.nst ≤ 8)) (head 0)
  ensure (bits (fieldAt l.hdr 1 1) 1 7 == 0) (head 1)
  ensure (!l.co || coOk) (if q.attn then { head 1 with status := 0x30 } else head 1)
  ensure (fieldAt l.hdr 2 2 == 0) (head 2)
  ensure (l.co || fieldAt l.hdr 4 28 == 0) (head 4)
  match recsBad q.attn middles 0 false 0 l.recs with
  | some (i, off) => throw (rejIn 0x20 6 (l.addr + 32 + 32 * i) off)
  | none => pure ()
  match crossBad q cFmt l.stages with
  | some (i, off) => throw (rejIn 0x20 6 (l.addr + 32 + 32 * i) off)
  | none => pure ()

/-! ### Checks 3 to 6 of Table 5-4 -/

/-- Address of D1 or D2 in a record. -/
def opdAddr (b : List Byte) (second : Bool) : Nat := fieldAt b (if second then 10 else 4) 6

/-- Check 3 of one record; KVSTORE requires D1 and D2 (R214, R224). -/
def seamCheck3 (s : State) (p : Nat) (b : List Byte) : Chk Unit := do
  (stageOpds (fieldAt b 0 1) (fieldAt b 3 1)).forM fun o =>
    let a := opdAddr b o.1
    ensure (a == 0 || s.owned p a (if o.2.1 == .geom then 16 else 64)) (rejAddr 0x21 6 a)
  if fieldAt b 0 1 = 0x0B then
    [false, true].forM fun o => let a := opdAddr b o; ensure (a == 0 || s.owned p a 64) (rejAddr 0x21 6 a)
  else pure ()

/-- The operand format of check 4. -/
def opdFmtOk (k : OpKind) (sfmt : Fmt) (f : Fmt) : Bool :=
  match k with
  | .statsOut | .statsIn | .angle => f == .fp32
  | .posMap => f == .int32
  | .side => f == sfmt
  | .colVec | .rowVec | .group | .elem | .geom => true

/-- The geometry block of a 3D ROPE (R132): the first field that breaks its rules. -/
def geomBad (hd : Nat) (b : List Byte) : Option Nat :=
  let tests : List (Nat × Bool) :=
    [(0, fieldAt b 0 2 == 0), (2, fieldAt b 2 2 == 0), (4, fieldAt b 4 1 + fieldAt b 5 1 + fieldAt b 6 1 != hd / 2),
     (7, fieldAt b 7 1 != 0), (14, fieldAt b 14 2 != 0)]
  (tests.find? (·.2)).map (·.1)

/-- W, H, FT, FH, FW, TOKBASE and T of a geometry block. -/
def geomOf (b : List Byte) : List Nat :=
  [fieldAt b 0 2, fieldAt b 2 2, fieldAt b 4 1, fieldAt b 5 1, fieldAt b 6 1, fieldAt b 8 4, fieldAt b 12 2]

/-- What check 4 finds for an operand: a descriptor's bytes, a geometry block, or nothing. -/
inductive RawOpd where
  | none | desc (addr : Nat) (b : List Byte) | geom (g : List Nat)

/-- Check 4 of one operand; `recAt` is the place of the record. -/
def seamOpd (s : State) (st : Stage) (b : List Byte) (missing : Rej) (o : Bool × OpKind × Bool) : Chk RawOpd := do
  let a := opdAddr b o.1
  if a = 0 then
    ensure (!o.2.2) missing
    return .none
  else if o.2.1 = .geom then
    let g ← readStruct s 6 a 16
    match geomBad st.headSize g with
    | some off => throw (rejIn 0x20 6 a off)
    | none => return .geom (geomOf g)
  else
    let r ← loadDesc s 0x20 ⟨6, a, opdFmtOk o.2.1 st.sfmt, [0]⟩
    ensure (!(o.2.1 == .angle && (parseDesc a r).rank != 2)) { rejIn 0x20 6 a 6 with tag := fieldAt r 60 2 }
    return .desc a r

/-- The two raw operands of a record; `slot` and `at_` place the record. -/
def seamCheck4 (s : State) (slot at_ : Nat) (b : List Byte) : Chk (List (Bool × OpKind × RawOpd)) :=
  let st := parseStage b
  (stageOpds st.typ st.param).mapM fun o => do
    let r ← seamOpd s st b (rejIn 0x20 slot at_ (if o.1 then 10 else 4)) o
    return (o.1, o.2.1, r)

/-- The indirect sizes of a record's operands, and the record with its operands. -/
def seamResolve (s : State) (ctx : Nat) (st : Stage) (l : List (Bool × OpKind × RawOpd)) : Chk Stage :=
  l.foldlM (fun st o =>
    match o.2.2 with
    | .none => return st
    | .geom g => return { st with geo := g }
    | .desc a b => do
      let d ← resolveDesc s ctx 6 a b
      return if o.1 then { st with d2 := some d } else { st with d1 := some d }) st

/-- Columns that a stage counts (R125). -/
def SeamCmd.cols (q : SeamCmd) (side : Nat) : Nat := if side = 0 then q.k else if side = 1 then q.h else q.n

/-- Rows that a stage of a side counts. -/
def SeamCmd.rows (q : SeamCmd) (side : Nat) : Nat := if side = 0 then (q.pro.map (·.1)).getD q.m else q.m

/-- Batch sizes of a side. -/
def SeamCmd.batchOf (q : SeamCmd) (side : Nat) : List Nat := if side = 0 then (q.pro.map (·.2)).getD q.batch else q.batch

/-- The sizes of dimensions 0 and 1 that an operand must have (R126, R130 to R132); none where any size stands. -/
def opdSizes (q : SeamCmd) (st : Stage) (k : OpKind) : List (Option Nat) :=
  let cols := q.cols st.side
  let m := q.rows st.side
  match k with
  | .colVec => [some cols, some 1]
  | .rowVec | .posMap => [some m, some 1]
  | .group => [some cols, some (if m = 0 then 0 else (m - 1) >>> bits st.param 0 5 + 1)]
  | .elem | .side => [some cols, some m]
  | .statsOut => [some (2 * cdiv cols 128), some m]
  | .statsIn => [some (2 * cdiv q.k 128), some m]
  | .angle => [some st.headSize, none]
  | .geom => []

/-- The first dimension of an operand whose size breaks check 5. -/
def opdBadDim (q : SeamCmd) (st : Stage) (k : OpKind) (d : Desc) : Option Nat :=
  let two := (opdSizes q st k).zipIdx.find? fun e => match e.1 with
    | some v => d.size e.2 != v
    | none => false
  match two with
  | some e => some e.2
  | none => (List.range 3).find? (fun i => !(d.size (2 + i) == (q.batchOf st.side).getD i 1 || (!k.isOut && d.size (2 + i) == 1))) |>.map (2 + ·)

/-- The operand of a stage that an entry of `stageOpds` names. -/
def Stage.opd (st : Stage) (second : Bool) : Option Desc := if second then st.d2 else st.d1

/-- Check 5 of one stage. -/
def seamCheck5 (q : SeamCmd) (st : Stage) : Chk Unit :=
  (stageOpds st.typ st.param).forM fun o =>
    match st.opd o.1 with
    | none => pure ()
    | some d =>
      match opdBadDim q st o.2.1 d with
      | some k => throw { rejIn 0x22 6 d.at_ (8 + 4 * k) with tag := d.dtag }
      | none => pure ()

/-- The tensors of a KVSTORE stage: the token map, and D1 in the ring class (R214, R224). -/
def Stage.kvTensors (st : Stage) : List Opd :=
  if st.typ = 0x0B then ((st.d1.filter (·.kind == 0)).toList ++ st.d2.toList).map fun d => (6, d) else []

/-- Check 6 of one stage. -/
def seamCheck6 (s : State) (p : Nat) (st : Stage) : Chk Unit :=
  rangeCheck s p 0x21 (((stageOpds st.typ st.param).filterMap fun o => (st.opd o.1).map fun d => (6, d)) ++ st.kvTensors)

/-- Check 4 of a KVSTORE record (R214, R224): the command's sizes, the place of a field of the record, its bytes, its stage, the stage
before it. -/
abbrev KvCheck := State → Cmd → SeamCmd → (Nat → Rej) → List Byte → Stage → Option Stage → Chk Stage

/-- Checks 3 to 6 of Table 5-4; `prev` is the stage that stands before the first record (R154). -/
def seamChecks (kv : KvCheck) (s : State) (c : Cmd) (q : SeamCmd) (slot at_ : Nat) (prev : Option Stage) (recs : List (List Byte)) :
    Chk (List Stage) := do
  let p := s.partOf c.ctx
  recs.forM (seamCheck3 s p)
  let sts := recs.map parseStage
  let raws ← recs.zipIdx.mapM fun r => do
    let st := parseStage r.1
    let a := at_ + 32 * r.2
    if st.typ = 0x0B then
      let k ← kv s c q (fun off => rejIn 0x38 slot a off) r.1 st (if r.2 = 0 then prev else sts[r.2 - 1]?)
      return (k, [])
    else
      let l ← seamCheck4 s slot a r.1
      return (st, l)
  let sts ← raws.mapM fun r => seamResolve s c.ctx r.1 r.2
  sts.forM (seamCheck5 q)
  sts.forM (seamCheck6 s p)
  return sts

/-- Stage tensors that the command reads, and those of KVSTORE. -/
def stageIns (l : List Stage) : List Opd :=
  l.flatMap fun st => ((stageOpds st.typ st.param).filterMap fun o =>
    if o.2.1.isOut then none else (st.opd o.1).map fun d => (6, d)) ++ st.kvTensors

/-- Stage tensors that the command writes. -/
def stageOuts (l : List Stage) : List Opd :=
  l.flatMap fun st => (stageOpds st.typ st.param).filterMap fun o => if o.2.1.isOut then (st.opd o.1).map fun d => (6, d) else none

/-- An epilogue RESADD may read its residual from C (R134). -/
def resaddAlias (l : List Stage) (i c : Opd) : Bool :=
  i.2.sameAs c.2 && l.any fun st => st.side == 2 && st.typ == 0x04 && st.d1 == some i.2

/-- Programs that ACT stages name. -/
def actPrograms (l : List Stage) : List Nat :=
  l.filterMap fun st => if st.typ = 0x03 && decide (0x40 ≤ st.param) then some (st.param - 0x40) else none

/-- The store check of R170: every named program is in the stores of the span, and the stores agree. -/
def storeCheck (s : State) (span progs : List Nat) : Chk Unit := do
  ensure (progs.all fun p => span.all fun cl => progCount (s.cluster cl).image p != 0) (rejNone 0x2A)
  ensure (progs.isEmpty || span.all fun cl => s.getF F.sfuStoreImageid cl == s.getF F.sfuStoreImageid (span.headD 0)) (rejNone 0x2B)

/-! ### Costs and buffer terms -/

/-- Four-lane groups that the busiest pipe serves under a pipe map (R159). -/
def pipeLoad (retired : Nat) : Nat :=
  let owner := fun p => ((List.range 32).find? fun k => !bit retired ((p + k) % 32)).map fun k => (p + k) % 32
  maxOf ((List.range 32).map fun q => ((List.range 32).filter fun p => owner p == some q).length)

/-- V and Σ of a stage on one row (Table 5-5), Σ before the pipe load; `progs` gives the pipe cycles of a program. -/
def stageCost (progs : Nat → Nat) (gw : Nat) (st : Stage) : Nat × Nat :=
  let v := match st.typ with
    | 0x01 | 0x02 | 0x04 | 0x05 => (1, 0)
    | 0x03 => match st.param with
      | 0 => (1, 0)
      | 1 | 2 => (2, 4)
      | 3 => (1, 4)
      | 4 | 5 => (0, 4)
      | p => (1, 4 * progs (p - 0x40))
    | 0x06 | 0x07 => (2, 0)
    | 0x08 => (if st.d2.isSome then 2 else 1, 1)
    | 0x0C => (3 + gw, 5)
    | _ => (0, 0)
  (v.1 + (if st.sfmt.isMx && st.typ != 0x0A then 1 else 0), v.2)

/-- R of the stages of one side on a tile of columns c0 to c1 − 1; 0 for a prologue or middle without stage (R142, R125). -/
def sideCost (progs : Nat → Nat) (gw load side c0 c1 : Nat) (l : List Stage) : Nat :=
  let here := l.filter fun st => st.side == side && st.winMeets c0 c1
  if here.isEmpty && side != 2 then 0
  else max 1 (max (sumOf (here.map fun st => (stageCost progs gw st).1)) (load * sumOf (here.map fun st => (stageCost progs gw st).2)))

/-- The buffer term SM (R145, Table 5-8). -/
def seamBytes (stream : Bool) (tm : Nat) (l : List Stage) : Nat :=
  let work := if l.any fun st => st.side != 0 then tm * 512 else 0
  let pro := match lastOf l 0 with
    | some i =>
      let w := (l[i]?.map (·.sfmt.width)).getD 32
      if stream then 16384 * w / 8 else 2 * tm * 128 * w / 8
    | none => 0
  let opd := fun (st : Stage) (o : Bool × OpKind × Bool) => match o.2.1 with
    | .colVec | .group => if (st.opd o.1).isSome then 512 else 0
    | .rowVec | .posMap | .statsOut | .statsIn => if (st.opd o.1).isSome then tm * 8 else 0
    | .elem | .side => match st.opd o.1 with
      | some d => tm * 128 * d.fmt.width / 8
      | none => 0
    | .angle | .geom => 0
  work + pro + sumOf (l.map fun st =>
    sumOf ((stageOpds st.typ st.param).map (opd st)) + (if st.typ = 0x06 then tm * 512 else 0) +
      (if st.typ = 0x0B || st.typ = 0x0C then tm * 8 else 0))

/-! ### Stage arithmetic -/

/-- A flushed input element: descriptor, index along dimension 0, index along dimension 1. [Log 25 DEDUCED] -/
abbrev Key := Nat × Nat × Nat

/-- What a stage computes under: FTZ, COMPAT, the store image, batch indices of C, size of k, the row's position when ATTN gives
it, and the columns whose side outputs are the item's own. -/
structure StCx where
  ftz : Bool
  compat : Bool
  img : List Byte
  b : List Nat
  k : Nat
  pos : Option Int
  lo : Nat := 0
  hi : Nat := 4294967296

/-- Indices of dimensions 1 to 4 of a tensor for row `i1` of a batch, broadcast dimensions at 0 (R100, R126). -/
def Desc.batchIx (d : Desc) (b : List Nat) (i1 : Nat) : List Nat :=
  i1 :: (List.range 3).map fun k => if d.size (k + 2) = 1 then 0 else b.getD k 0

/-- A stage operand element, widened, and the key of its flush. -/
def State.opVal (s : State) (x : StCx) (d : Desc) (i0 i1 : Nat) : Num × List Key :=
  let e := s.elemNum x.ftz d i0 (d.batchIx x.b i1)
  (widen d.fmt e.1, if e.2 = 0 then [] else [(d.at_, i0, i1)])

/-- A side write of a stage: a run of a tensor row, or a row to append under KVSTORE with its values and random fields. -/
inductive SideWr where
  | run (d : Desc) (i0 : Nat) (ix : List Nat) (r : List Nat × List Nat × Nat)
  | kv (st : Stage) (m c0 : Nat) (vals : List (Num × Nat))

/-- A side write cut to columns n0 to n1 − 1 of an item that computes more (R136). [Log 33 DEDUCED] -/
def SideWr.trim (n0 n1 : Nat) : SideWr → SideWr
  | .run d i0 ix r =>
    let cnt := n1 - n0
    let codes := (r.1.drop (n0 - i0)).take (if d.fmt.isMx then alignUp cnt 32 else cnt)
    .run d (max i0 n0) ix (codes, ((r.2.1.drop ((n0 - i0) / 32)).take (cdiv cnt 32)), r.2.2)
  | .kv st m c0 vals => .kv st m (max c0 n0) ((vals.drop (n0 - c0)).take (n1 - max c0 n0))

/-- What a stage makes of a row segment: values, keys of flushed operands, flushes of values, side writes. -/
structure RowRes where
  vals : List Num
  keys : List Key
  fl : Nat
  wr : List SideWr

/-- The special-function unit's input flush of a value that is not of an MX format (R160, R149). -/
def sfuInput (ftz mx : Bool) (v : Num) : Num × Nat :=
  if ftz && !mx then
    let g := flushIn true .fp32 (encOf v)
    (decodeElem .fp32 g.1, g.2)
  else (v, 0)

/-- The built-in function of an ACT code (Table 5-3). -/
def actCode (p : Nat) : Nat := match p with | 1 => 0x0B | 2 => 0x0C | 3 => 0x0D | 4 => 0x09 | _ => 0x08

/-- Fold a function over a row segment within the window; columns outside pass unchanged (R125). -/
def rowMap (st : Stage) (c0 : Nat) (row : List Num) (f : Nat → Num → Num × List Key × Nat) : RowRes :=
  let r := row.zipIdx.map fun e => if st.inWin (c0 + e.2) then f (c0 + e.2) e.1 else (e.1, [], 0)
  ⟨r.map (·.1), r.flatMap (·.2.1), sumOf (r.map (·.2.2)), []⟩

/-- A scale or bias of SCALEBIAS: none, a constant, a vector along columns or along rows. -/
def State.sbOpd (s : State) (x : StCx) (mode k : Nat) (d : Option Desc) (m j : Nat) : Option (Num × List Key) :=
  match mode, d with
  | 0, _ => none
  | 1, _ => let g := f32In x.ftz k; some (g.1, if g.2 = 0 then [] else [(0, mode, k)])
  | 2, some t => some (s.opVal x t j 0)
  | _, some t => some (s.opVal x t m 0)
  | _, none => none

/-- SCALEBIAS on one element (Table 5-3). -/
def State.scaleBias (s : State) (x : StCx) (st : Stage) (m j : Nat) (v : Num) : Num × List Key × Nat :=
  let a := s.sbOpd x (bits st.param 0 2) st.k0 st.d1 m j
  let b := s.sbOpd x (bits st.param 2 2) st.k1 st.d2 m j
  let pr := match a with
    | some w => v.mul w.1
    | none => v
  let keys := (a.map (·.2)).getD [] ++ (b.map (·.2)).getD []
  match a, b with
  | none, none => (v, [], 0)
  | _, some w => (r32 (pr.add w.1), keys, 0)
  | some _, none => (r32 pr, keys, 0)

/-- A tensor operand of a stage, or +0 with no key where it has none. -/
def State.stOpd (s : State) (x : StCx) (d : Option Desc) (i0 i1 : Nat) : Num × List Key :=
  match d with
  | some t => s.opVal x t i0 i1
  | none => (.zero, [])

/-- The FP32 value nearest 1/n, ties to even, for n ≥ 1 (R131). -/
def recipNat (n : Nat) : Num := if n = 0 then .nan else r32 (.fin false (2 ^ 200 / n * 2 + b2n (2 ^ 200 % n != 0)) (-201))

/-- r and b of NORM for row `m`, the keys of its statistics and the flushes of its rsqrt (R131). -/
def State.normRow (s : State) (x : StCx) (st : Stage) (m : Nat) : Num × Num × List Key × Nat :=
  let vs := (List.range (chunksOf x.k)).map fun v => (s.stOpd x st.d1 (2 * v) m, s.stOpd x st.d1 (2 * v + 1) m)
  let add := fun (a : Option Num) (w : Num) => some (match a with | none => w | some y => add32 y w)
  let sm := (vs.foldl (fun a v => add a v.1.1) none).getD .zero
  let q := (vs.foldl (fun a v => add a v.2.1) none).getD .zero
  let rho := recipNat (if st.k1 = 0 then x.k else st.k1)
  let rms := bit st.param 0
  let mu := if rms then .zero else mul32 sm rho
  let qq := mul32 q rho
  let var := if rms then qq else (fma32 mu.negate mu qq).max .zero
  let eps := f32In x.ftz st.k0
  let inp := sfuInput x.ftz false (add32 var eps.1)
  let r := sfuFunc x.compat 4 inp.1
  (r, mul32 mu.negate r, vs.flatMap (fun v => v.1.2 ++ v.2.2), inp.2 + eps.2)

/-- Position of row `m` for frequency `f` in a ROPE stage: none where the row passes unchanged (R132, R184). [Log 33 DEDUCED] -/
def State.ropePos (s : State) (x : StCx) (st : Stage) (m f : Nat) : Option Int :=
  let base : Int := x.pos.getD m
  if bit st.param 0 then
    let g := fun i => st.geo.getD i 0
    let q := base - g 5
    if q < 0 || (g 6 != 0 && decide ((g 6 * g 1 * g 0 : Int) ≤ q)) then none
    else
      let n := q.toNat
      let hw := g 1 * g 0
      some (if f < g 2 then n / hw else if f < g 2 + g 3 then n / g 0 % g 1 else n % g 0 : Nat)
  else if x.pos.isSome then some base
  else if bit st.param 1 then
    let v := match st.d2 with
      | some d => toInt 32 (s.elemCode d m (d.batchIx x.b 0))
      | none => 0
    if v < 0 then none else some v
  else some (m + st.k1 : Nat)

/-- Column `j` of a ROPE stage: the columns of its pair, its frequency and whether it is the second of the pair (R132). [Log 33 DEDUCED] -/
def ropePair (st : Stage) (j : Nat) : Nat × Nat × Nat × Bool :=
  let hd := st.headSize
  let h := j / hd * hd
  let o := j % hd
  if bit st.param 2 then
    let f := o % (hd / 2)
    (h + f, h + f + hd / 2, f, decide (hd / 2 ≤ o))
  else (h + o / 2 * 2, h + o / 2 * 2 + 1, o / 2, o % 2 == 1)

/-- One column of a ROPE stage on a row segment that starts at `c0` (R132). -/
def State.ropeElem (s : State) (x : StCx) (st : Stage) (m c0 : Nat) (row : List Num) (j : Nat) (v : Num) : Num × List Key × Nat :=
  let pr := ropePair st j
  if pr.1 < c0 || c0 + row.length ≤ pr.2.1 then (v, [], 0)
  else
    match s.ropePos x st m pr.2.2.1 with
    | none => (v, [], 0)
    | some pos =>
      let len := (st.d1.map (·.size 1)).getD 0
      if pos < 0 || decide ((len : Int) ≤ pos) then (.nan, [], 0)
      else
        let c := s.stOpd { x with b := [] } st.d1 (2 * pr.2.2.1) pos.toNat
        let n := s.stOpd { x with b := [] } st.d1 (2 * pr.2.2.1 + 1) pos.toNat
        let a := row.getD (pr.1 - c0) .zero
        let b := row.getD (pr.2.1 - c0) .zero
        let y := if pr.2.2.2 then sumNum [a.mul n.1, b.mul c.1] else sumNum [a.mul c.1, (b.mul n.1).negate]
        (r32 y, c.2 ++ n.2, 0)

/-- ROWSTAT on a row segment that starts at a multiple of 128: two values for each group (R130). -/
def rowStat (x : StCx) (st : Stage) (m c0 : Nat) (row : List Num) : RowRes :=
  let gs := (groups128 (row.length + 1) row).zipIdx.map fun g =>
    let c := c0 + 128 * g.2
    let win := g.1.zipIdx.filterMap fun e => if st.inWin (c + e.2) then some e.1 else none
    let a := chunkSum x.ftz win
    let q := chunkSum x.ftz (win.map fun v => v.mul v)
    let codes := [encOf a.1, encOf q.1]
    (a.2 + q.2, match st.d1 with
      | some d => [SideWr.run d (2 * (c / 128)) (d.batchIx x.b m) (codes, [], 0)]
      | none => [])
  ⟨row, [], sumOf (gs.map (·.1)), gs.flatMap (·.2)⟩

/-- The arithmetic of one stage on a row segment of row `m` whose first column is `c0`; `mx` says that the values come from an
MX format (Table 5-3). ROWSOFTMAX is CHAIN's own (R140). -/
def State.stageRow (s : State) (x : StCx) (st : Stage) (m c0 : Nat) (mx : Bool) (row : List Num) : RowRes :=
  match st.typ with
  | 0x01 => rowMap st c0 row fun j v => s.scaleBias x st m j v
  | 0x02 => rowMap st c0 row fun j v =>
      let g := m >>> bits st.param 0 5
      let sc := s.stOpd x st.d1 j g
      let sh := s.stOpd x st.d2 j g
      (fma32 v (add32 .one sc.1) sh.1, sc.2 ++ sh.2, 0)
  | 0x03 => rowMap st c0 row fun _ v =>
      if st.param = 0 then (v.max .zero, [], 0)
      else
        let i := sfuInput x.ftz mx v
        (if st.param < 0x40 then sfuFunc x.compat (actCode st.param) i.1 else progRun x.compat x.img (st.param - 0x40) i.1, [], i.2)
  | 0x04 => rowMap st c0 row fun j v =>
      let r := s.stOpd x st.d1 j m
      let k := f32In x.ftz st.k0
      if bit st.param 0 then (fma32 r.1 k.1 v, r.2 ++ (if k.2 = 0 then [] else [(0, 4, st.k0)]), 0) else (add32 v r.1, r.2, 0)
  | 0x05 => rowMap st c0 row fun j v =>
      let r := s.stOpd x st.d1 j (if bit st.param 5 then m >>> bits st.param 0 5 else m)
      (mul32 v r.1, r.2, 0)
  | 0x06 => rowMap st c0 row fun j v => s.ropeElem x st m c0 row j v
  | 0x07 => rowStat x st m c0 row
  | 0x08 =>
    let nr := s.normRow x st m
    let r := rowMap st c0 row fun j v =>
      let y := fma32 v nr.1 nr.2.1
      match st.d2 with
      | some _ => let g := s.stOpd x st.d2 j 0; (mul32 y g.1, g.2, 0)
      | none => (y, [], 0)
    { r with keys := nr.2.2.1 ++ r.keys, fl := nr.2.2.2 + r.fl }
  | _ => ⟨row, [], 0, []⟩

/-- Values of a run of encodings, widened. -/
def runVals (f : Fmt) (r : List Nat × List Nat × Nat) (n : Nat) : List Num :=
  (r.1.take n).zipIdx.map fun e =>
    let v := decodeElem f e.1
    widen f (if f.isMx then applyScale (r.2.1.getD (e.2 / 32) 0) v else v)

/-- A row segment with the random fields its elements still have, and what the stages have done so far. -/
structure SegSt where
  vals : List Num
  mx : Bool
  flds : List (List Nat)
  codes : List Nat × List Nat × Nat
  fmt : Fmt
  keys : List Key
  fl : Nat
  wr : List SideWr

/-- One stage: its arithmetic, its conversion to SFMT under its own CVT, its side output (R127). -/
def State.runStage (s : State) (x : StCx) (m c0 : Nat) (g : SegSt) (st : Stage) : SegSt :=
  let r := s.stageRow x st m c0 g.mx g.vals
  let cv := st.conv
  let fs := g.flds.map fun l => l.headD 0
  let rest := if cv.stoch then g.flds.map List.tail else g.flds
  let pairs := List.zipWith (fun v f => (v, f)) r.vals fs
  let e := convertRun x.ftz cv st.sfmt pairs
  let out := match st.typ, st.d1 with
    | 0x09, some d => [(SideWr.run d c0 (d.batchIx x.b m) e).trim x.lo x.hi]
    | _, _ => []
  if st.typ = 0x0B then
    { g with flds := rest, wr := g.wr ++ [(SideWr.kv st m c0 (List.zipWith (fun v f => (v, f)) g.vals fs)).trim x.lo x.hi] }
  else
    { vals := runVals st.sfmt e r.vals.length, mx := st.sfmt.isMx, flds := rest, codes := e, fmt := st.sfmt,
      keys := g.keys ++ r.keys, fl := g.fl + r.fl + e.2.2, wr := g.wr ++ r.wr ++ out }

/-- The stages of one side on a row segment. -/
def State.runStages (s : State) (x : StCx) (l : List Stage) (m c0 : Nat) (g : SegSt) : SegSt := l.foldl (s.runStage x m c0) g

/-- Fields that each element of a list of stages draws (R127). -/
def stochCount (l : List Stage) : Nat := (l.filter fun st => st.conv.stoch).length

/-! ### Words that the stages of an item read (R509) -/

/-- Words of row `i1`, columns c0 to c1 − 1, of an operand. -/
def Desc.segWords (d : Desc) (b : List Nat) (i1 c0 c1 : Nat) : List Nat := d.runWords c0 (c1 - c0) (d.batchIx b i1)

/-- Words of the operands of a stage for rows `ms` and columns c0 to c1 − 1. [Log 83 DEDUCED] -/
def State.stageWords (s : State) (x : StCx) (st : Stage) (ms : List Nat) (c0 c1 : Nat) : List Nat :=
  let lo := max c0 st.clo
  let hi := if st.chi = 0 then c1 else min c1 st.chi
  if !st.winMeets c0 c1 then []
  else (stageOpds st.typ st.param).flatMap fun o =>
    match st.opd o.1 with
    | none => []
    | some d => match o.2.1 with
      | .colVec => d.segWords x.b 0 lo hi
      | .rowVec | .posMap => ms.flatMap fun m => d.segWords x.b 0 m (m + 1)
      | .group => ms.flatMap fun m => d.segWords x.b (m >>> bits st.param 0 5) lo hi
      | .elem => ms.flatMap fun m => d.segWords x.b m lo hi
      | .statsIn => ms.flatMap fun m => d.segWords x.b m 0 (d.size 0)
      | .angle => ms.flatMap fun m => (List.range (d.size 0 / 2)).flatMap fun f =>
          match s.ropePos x st m f with
          | some p => if p < 0 || decide ((d.size 1 : Int) ≤ p) then [] else d.segWords [] p.toNat (2 * f) (2 * f + 2)
          | none => []
      | .side | .statsOut | .geom => []

/-- Perform the tensor side writes of a row. -/
def State.sideRuns (s : State) (wr : List SideWr) : State :=
  wr.foldl (fun t w => match w with
    | .run d i0 ix r => t.writeRun d i0 ix r
    | .kv _ _ _ _ => t) s

end Sys2Proof.Machine
end

