-- ==== Sys2Proof/Machine/Items.lean ====
section
/-!
DEFINITION. Machine/Items.lean: what a cluster does with one item of its part: the lane generators (R57, R279), what the item reads
(R509), and what comes out of it.
-/
namespace Sys2Proof.Machine

/-! ### Lane generators (R279) -/

/-- Stream number Z of a command (R279). [Log 26 DEDUCED] -/
def Cmd.streamNo (c : Cmd) : Nat := c.layer <<< 48 + c.oper <<< 32 + c.step <<< 16 + c.lsalt

/-- The 128 lanes of the cluster at position `i` of the span (R279). -/
def Cmd.lanes (c : Cmd) (i : Nat) : List Lane :=
  let z := xoApply (polyPow xoJ192 80 c.streamNo) (Xo.seed c.lseed)
  (List.range 128).map fun l => ⟨xoApply (polyPow xoJ128 32 (128 * i + l)) z, []⟩

/-- The next `n` fields of a lane, and the lane after them. -/
def Lane.take : (n : Nat) → Lane → List Nat × Lane
  | 0, l => ([], l)
  | n + 1, l =>
    let d := l.draw
    let r := Lane.take n d.2
    (d.1 :: r.1, r.2)

/-- Take fields from every lane: lane `i` gives `cnt i`. [Log 26 DEDUCED] -/
def drawLanes (cnt : Nat → Nat) (ls : List Lane) : List (List Nat) × List Lane :=
  let r := ls.zipIdx.map fun e => Lane.take (cnt e.2) e.1
  (r.map (·.1), r.map (·.2))

/-- The fields of row `r` of a lane, `n` for each row. [Log 26 DEDUCED] -/
def laneFields (tab : List (List Nat)) (lane r n : Nat) : List Nat := ((tab.getD lane []).drop (r * n)).take n

/-! ### What an item yields -/

/-- A row that the array streamed: its cycles and its full digit count. -/
structure Pass where
  /-- Sum of the row times of the pass, as the array streamed them. -/
  sum : Nat
  /-- Sum at the full digit count. -/
  full : Nat
  /-- Load time of its stationary tile, with the prologue of that tile under STREAM = 1 (R86, R143). -/
  load : Nat
  /-- Cycles that the rows enter later than their digits allow (R254). -/
  seg : Nat
  deriving DecidableEq, Repr

/-- The state of a part while it runs its items. [Log 11 DEDUCED] -/
structure PartRun where
  s : State
  lanes : List Lane
  /-- Status and address of the failure; 0 while none. -/
  status : Nat
  addr : Nat
  fl : Nat
  passes : List Pass
  tiles : List PartTile
  /-- Poison was written to an output region. -/
  poison : Bool
  /-- Streamed cycles, their full digit count, and load waits that passes do not hold (ATTN, R190). -/
  extra : Nat × Nat × Nat := (0, 0, 0)

/-- Fail a part (R119). -/
def PartRun.fail (r : PartRun) (status addr : Nat) : PartRun := if r.status = 0 then { r with status := status, addr := addr } else r

/-- Read the words of an item; a poisoned one fails the part (R509). [Log 83 DEDUCED] -/
def PartRun.read (r : PartRun) (ws : List Nat) : PartRun :=
  let ws := ws.eraseDups
  let t := { r with s := r.s.readWords ws }
  match ws.find? fun w => (r.s.wordClass w).isPoison with
  | some w => t.fail 0x0D (w * 64)
  | none => t

/-- A region that an item writes: elements [i0, i0 + n) of a row of a tensor. -/
structure Region where
  d : Desc
  i0 : Nat
  n : Nat
  ix : List Nat

/-- Write poison to regions (R119, R326). -/
def State.poisonRegions (s : State) (rs : List Region) : State := rs.foldl (fun t r => t.poisonRun r.d r.i0 r.n r.ix) s

/-- Array cycles that load and the 16-cycle minimum add to the passes (Table 3-6, LDWAIT), the first tile's load exposed. -/
def loadWait : List Pass → Nat
  | [] => 0
  | p :: t =>
    let rec go : Pass → List Pass → Nat
      | p, [] => passTime (p.sum + p.seg) 0 - (p.sum + p.seg)
      | p, q :: t => passTime (p.sum + p.seg) q.load - (p.sum + p.seg) + go q t
    p.load + go p t

/-- Array time of a list of passes (R87). -/
def passesTime (l : List Pass) : Nat := sumOf (l.map fun p => p.sum + p.seg) + loadWait l + 14

/-- The last index plus 1 of tile `u` of `tm` in a dimension of `size`. -/
def tileEnd (u tm size : Nat) : Nat := min ((u + 1) * tm) size

/-- Numbers a, …, b − 1. -/
def upto (a b : Nat) : List Nat := (List.range (b - a)).map (a + ·)

end Sys2Proof.Machine
end

