-- ==== Sys2Proof/Machine/Matmul.lean ====
section
/-!
DEFINITION. Machine/Matmul.lean: the matrix product of one item of MMA with its seam (Chapters 3 to 5) and its carry-over stage
(Chapter 9).
-/
namespace Sys2Proof.Machine

/-! ### Geometry of an MMA (R100, R110) -/

/-- What the items of an MMA share. -/
structure Mm where
  stream : Bool
  ka : Nat
  kb : Nat
  m : Nat
  n : Nat
  k : Nat
  f : Nat
  tm : Nat
  tr : Bool
  accInt : Bool
  a : Desc
  b : Desc
  c : Desc
  stages : List Stage

/-- An empty descriptor, for a place of a plan that holds none. -/
def Desc.nil : Desc := ⟨0, 0, 1, .fp32, 0, [0, 1, 1, 1, 1], [0, 0, 0, 0], 0, 0, 0⟩

/-- Descriptor `i` of a plan. -/
def Plan.desc (p : Plan) (i : Nat) : Desc := p.descs.getD i .nil

/-- KA or KB of an MMA. -/
def Cmd.kBit (c : Cmd) (i : Nat) : Nat := c.bits 56 i 1

/-- The geometry of an issued MMA. -/
def Cmd.mm (c : Cmd) : Mm :=
  let a := c.plan.desc 0
  let b := c.plan.desc 1
  { stream := c.streamB, ka := c.kBit 0, kb := c.kBit 1, m := a.size (1 - c.kBit 0), n := b.size (1 - c.kBit 1),
    k := a.size (c.kBit 0), f := c.factor, tm := c.plan.tm, tr := transposed c.plan.stages, accInt := c.accInt, a := a, b := b,
    c := c.plan.desc 2, stages := c.plan.stages }

/-- Stages of a side. -/
def Mm.side (g : Mm) (sd : Nat) : List Stage := g.stages.filter fun st => st.side == sd && st.typ != 0x0A

/-- The format in which the array sees A (R128). -/
def Mm.aFmt (g : Mm) : Fmt := ((g.side 0).getLast?.map (·.sfmt)).getD g.a.fmt

/-- The streamed format. -/
def Mm.strFmt (g : Mm) : Fmt := if g.stream then g.b.fmt else g.aFmt

/-- The stationary format. -/
def Mm.staFmt (g : Mm) : Fmt := if g.stream then g.aFmt else g.b.fmt

/-- Rows of m and columns of n of an item: first and end of each (Table 3-1). -/
def Mm.box (g : Mm) (it : Item) : Nat × Nat × Nat × Nat :=
  if g.stream then (it.v * 128, tileEnd it.v 128 g.m, it.u * g.tm, tileEnd it.u g.tm g.n)
  else (it.u * g.tm, tileEnd it.u g.tm g.m, it.v * 128, tileEnd it.v 128 g.n)

/-- Chunks of an item (R83). -/
def Mm.chunks (g : Mm) (it : Item) : List Nat :=
  let q := splitChunks g.k g.f it.p
  upto q.1 (q.1 + q.2)

/-- First and end element of a chunk (R72). -/
def chunkBox (k ch : Nat) : Nat × Nat := (ch * 128, min (ch * 128 + 128) k)

/-! ### Operands -/

/-- Element of an operand at position (`k`, `o`), with `k` along dimension `kd`; its key when it was flushed. -/
def State.mmElem (s : State) (ftz : Bool) (d : Desc) (kd k o : Nat) (b : List Nat) : Num × List Key :=
  let i0 := if kd = 0 then k else o
  let i1 := if kd = 0 then o else k
  let e := s.elemNum ftz d i0 (d.batchIx b i1)
  (e.1, if e.2 = 0 then [] else [(d.at_, i0, i1)])

/-- Words of the block k0 to k1 − 1 by o0 to o1 − 1 of an operand. -/
def Desc.blockWords (d : Desc) (kd : Nat) (b : List Nat) (k0 k1 o0 o1 : Nat) : List Nat :=
  if kd = 0 then (upto o0 o1).flatMap fun o => d.runWords k0 (k1 - k0) (d.batchIx b o)
  else (upto k0 k1).flatMap fun k => d.runWords o0 (o1 - o0) (d.batchIx b k)

/-- A row segment of A as the array sees it: exact values, encodings, flush keys and counts, side writes. -/
structure ASeg where
  nums : List Num
  codes : List Nat
  keys : List Key
  fl : Nat
  wr : List SideWr

/-- Exact values of a run of encodings, scales applied. [Log 28 DEDUCED] -/
def exactVals (f : Fmt) (r : List Nat × List Nat × Nat) (n : Nat) : List Num :=
  (r.1.take n).zipIdx.map fun e =>
    let v := decodeElem f e.1
    if f.isMx then applyScale (r.2.1.getD (e.2 / 32) 0) v else v

/-- Row `m`, chunk `ch` of A through the prologue (R128). -/
def State.aSeg (s : State) (x : StCx) (g : Mm) (m ch : Nat) (flds : List (List Nat)) : ASeg :=
  let bx := chunkBox g.k ch
  let es := (upto bx.1 bx.2).map fun k => s.mmElem x.ftz g.a g.ka k m x.b
  let keys := es.flatMap (·.2)
  let pro := g.side 0
  if pro.isEmpty then
    let codes := (upto bx.1 bx.2).map fun k =>
      (flushIn x.ftz g.a.fmt (s.elemCode g.a (if g.ka = 0 then k else m) (g.a.batchIx x.b (if g.ka = 0 then m else k)))).1
    ⟨es.map (·.1), codes, keys, 0, []⟩
  else
    let r := s.runStages x pro m bx.1 ⟨es.map (fun e => widen g.a.fmt e.1), g.a.fmt.isMx, flds, ([], [], 0), g.a.fmt, [], 0, []⟩
    ⟨exactVals r.fmt r.codes es.length, r.codes.1.take es.length, keys ++ r.keys, r.fl, r.wr⟩

/-! ### Carry-over (Chapter 9) -/

/-- What a carry-over command sampled at issue (R230): whether it is a carry-over step, its fields, the slot CUR, the next age and
the tag. -/
structure Co where
  carry : Bool
  base : Nat
  mode : Nat
  skip : Bool
  trim : Nat
  thresh : Nat
  cur : Nat
  age : Nat
  tag : Nat
  deriving DecidableEq, Repr

/-- The carry-over part of a plan, when its seam has CO = 1. -/
def Plan.co (p : Plan) : Option Co :=
  match p.extra with
  | [0xC0, a, b, c, d, e, f, g, h, i] => some ⟨a == 1, b, c, d == 1, e, f, g, h, i⟩
  | _ => Option.none

/-- A carry-over part as plain numbers. -/
def Co.nums (o : Co) : List Nat := [0xC0, b2n o.carry, o.base, o.mode, b2n o.skip, o.trim, o.thresh, o.cur, o.age, o.tag]

/-- W of the differences of an input format (Table 9-3); none where the format may not stream. -/
def coWidth : Fmt → Option Nat
  | .e4m3 => some 20 | .e5m2 => some 34 | .fp16 => some 42 | .int8 | .uint8 => some 8 | _ => none

/-- XS of R228. -/
def Mm.coXs (g : Mm) (sb : Nat) : Nat := alignUp (sb * g.m * g.k * (g.aFmt.width / 8)) 4096

/-- YS of R228. -/
def Mm.coYs (g : Mm) (sb : Nat) : Nat := alignUp (sb * g.m * g.n * 4) 4096

/-- SB: the product of the batch sizes of C. -/
def Mm.sb (g : Mm) : Nat := g.c.size 2 * g.c.size 3 * g.c.size 4

/-- Linear batch index (R228). -/
def Mm.lin (g : Mm) (b : List Nat) : Nat := b.getD 0 0 + g.c.size 2 * (b.getD 1 0 + g.c.size 3 * b.getD 2 0)

/-- Address of input element (k, m, b) of a slot (R228). -/
def Mm.coIn (g : Mm) (o : Co) (slot : Nat) (b : List Nat) (m k : Nat) : Nat :=
  o.base + 4096 + slot * g.coXs g.sb + ((g.lin b * g.m + m) * g.k + k) * (g.aFmt.width / 8)

/-- Address of kept output element (n, m, b) (R228). -/
def Mm.coOut (g : Mm) (o : Co) (b : List Nat) (m n : Nat) : Nat :=
  o.base + 4096 + 2 * g.coXs g.sb + ((g.lin b * g.m + m) * g.n + n) * 4

/-- Significant bits of a magnitude. -/
def sigBits : (fuel m : Nat) → Nat
  | 0, _ => 0
  | f + 1, m => if m = 0 then 0 else if m % 2 = 0 then sigBits f (m / 2) else Nat.log2 m + 1

/-- Length of a streamed difference (R233): ⌈b / 2⌉ for b significant bits. -/
def deltaLen : Num → Nat
  | .fin _ m _ => cdiv (sigBits (Nat.log2 m + 1) m) 2
  | .nan | .inf _ => 0

/-- A finite value rounded to `n` significant bits, exponent unbounded (R234). -/
def trimNum (n : Nat) : Num → Num
  | .fin s m e => if m = 0 then .fin s m e else let q := leadExp m e - n + 1; .fin s (roundAt none m e q) q
  | v => v

/-- The streamed difference Δ′ and the kept encoding (R232 to R236). -/
def coDelta (o : Co) (xn xo : Num) (cn co : Nat) : Num × Nat :=
  let d := match sumNum [xn, xo.negate] with
    | .fin s m e => if m = 0 then Num.zero else .fin s m e
    | v => v
  match o.mode with
  | 0 => (d, cn)
  | 1 => (trimNum o.trim d, cn)
  | _ =>
    match d with
    | .fin _ _ _ => if d.abs.lt (f32 o.thresh) then (.zero, co) else (d, cn)
    | _ => (d, cn)

/-- A streamed row of a chunk: what enters the array, its row time, its full digit count, its kept encodings, whether it is a
difference row, and elements that entered as NaN or infinity. -/
structure Streamed where
  nums : List Num
  len : Nat
  full : Nat
  kept : List Nat
  diff : Bool
  nonfin : Nat

/-- Form the streamed row of row `m`, chunk `ch` from A's segment (R75, R232, R235); `fmt` is A's format in the array. -/
def State.streamed (s : State) (g : Mm) (co : Option Co) (b : List Nat) (m ch : Nat) (a : ASeg) : Streamed :=
  let d := g.aFmt.digits
  match co with
  | some o =>
    if o.carry then
      let w := g.aFmt.width / 8
      let k0 := (chunkBox g.k ch).1
      let olds := (List.range a.nums.length).map fun i => s.numAt (g.coIn o o.cur b m (k0 + i)) w
      let ds := List.zipWith (fun (x : Num × Nat) c => coDelta o x.1 (decodeElem g.aFmt c) x.2 c) (a.nums.zip a.codes) olds
      let nums := ds.map (·.1)
      ⟨nums, max 1 (maxOf (nums.map deltaLen)), (coWidth g.aFmt).getD 0 / 2, ds.map (·.2), true,
        (nums.filter fun v => match v with | .fin _ _ _ => false | _ => true).length⟩
    else ⟨a.nums, rowLen d a.nums, d, a.codes, false, 0⟩
  | none => ⟨a.nums, rowLen d a.nums, d, a.codes, false, 0⟩

/-! ### One item -/

/-- One entry of the accumulator: FP32 accumulation of chunk sums, or integer (R77 to R81). -/
def accEntry (ftz int : Bool) (prods : List (List Num)) : Num × Nat :=
  if int then (numOfInt (accInts (prods.map fun ps => ps.foldl (fun a p => a + intOf p) (0 : Int))) 0, 0)
  else
    let r := accChunks ftz (prods.map (chunkSum ftz))
    (r.1.getD .zero, r.2)

/-- The merge of one more part into an entry (R83). -/
def mergeEntry (ftz int : Bool) (a b : Num) : Num × Nat :=
  if int then (numOfInt (sat32 (intOf a + intOf b)) 0, 0) else rne ftz (a.add b)

/-- An entry as the merge slot holds it: FP32 encoding or INT32 field. -/
def entryCode (int : Bool) (v : Num) : Nat := if int then ofInt 32 (intOf v) else encOf v

/-- A merge-slot field as a value. -/
def entryNum (int : Bool) (c : Nat) : Num := if int then numOfInt (toInt 32 c) 0 else f32 c

/-- Stages of the epilogue hold a ROPE, so row segments are taken in whole groups of 128 columns. -/
def Mm.wide (g : Mm) : Bool := (g.side 2).any (·.typ == 0x06)

/-- The columns of n that an item computes: its own, or the whole groups that hold them (R136). [Log 33 DEDUCED] -/
def Mm.cols (g : Mm) (n0 n1 : Nat) : Nat × Nat := if g.wide then (n0 / 128 * 128, min (alignUp n1 128) g.n) else (n0, n1)

/-- Context of the stages of an item. -/
def Cmd.stCx (c : Cmd) (s : State) (cl : Nat) (b : List Nat) (k : Nat) : StCx :=
  { ftz := c.ftz, compat := c.compat, img := (s.cluster cl).image, b := b, k := k, pos := none }

/-- Regions that an item writes: its tile of C, side outputs and statistics (R119); `owner` when it runs the epilogue. -/
def Mm.regions (g : Mm) (it : Item) (owner : Bool) : List Region :=
  let bx := g.box it
  let ms := upto bx.1 bx.2.1
  let n0 := bx.2.2.1
  let n1 := bx.2.2.2
  let ctile := if g.tr then (upto n0 n1).map fun n => Region.mk g.c bx.1 (bx.2.1 - bx.1) (n :: it.b)
    else ms.map fun m => Region.mk g.c n0 (n1 - n0) (m :: it.b)
  let epi := (g.side 2).flatMap fun st => match st.typ, st.d1 with
    | 0x09, some d => ms.map fun m => Region.mk d n0 (n1 - n0) (m :: it.b)
    | 0x07, some d => ms.map fun m => Region.mk d (2 * (n0 / 128)) (2 * (cdiv n1 128 - n0 / 128)) (m :: it.b)
    | _, _ => []
  let pro := (g.side 0).flatMap fun st => match st.typ, st.d1 with
    | 0x09, some d => (g.chunks it).flatMap fun ch =>
        let k := chunkBox g.k ch
        ms.map fun m => Region.mk d k.1 (k.2 - k.1) (m :: it.b)
    | _, _ => []
  (if owner then ctile ++ epi else []) ++ pro

/-- The fields that the epilogue of an item takes from each lane, and the lanes after it (R279). [Log 26 DEDUCED] -/
def Mm.epiFields (g : Mm) (c : Cmd) (bx : Nat × Nat × Nat × Nat) (ls : List Lane) : List (List Nat) × List Lane :=
  let n := stochCount (g.side 2) + b2n c.cvt.stoch
  let rows := if g.stream then bx.2.2.2 - bx.2.2.1 else bx.2.1 - bx.1
  let cols := if g.stream then bx.2.1 - bx.1 else bx.2.2.2 - bx.2.2.1
  if n = 0 then ([], ls) else drawLanes (fun l => if l < cols then rows * n else 0) ls

/-- Fields of output element (m, n) of an item. -/
def Mm.elemFields (g : Mm) (c : Cmd) (bx : Nat × Nat × Nat × Nat) (tab : List (List Nat)) (m n : Nat) : List Nat :=
  let k := stochCount (g.side 2) + b2n c.cvt.stoch
  if k = 0 || n < bx.2.2.1 || bx.2.2.2 ≤ n then []
  else if g.stream then laneFields tab (m - bx.1) (n - bx.2.2.1) k else laneFields tab (n - bx.2.2.1) (m - bx.1) k

/-- The last field of an element: that of its final store. -/
def lastField (l : List Nat) : Nat := l.getLastD 0

/-- Store the rows of a tile into C under the command's CVT (R133): `rows` holds for each m the values of columns n0 to n1 − 1 with
their store fields. Answers the flush count. -/
def State.storeTile (s : State) (c : Cmd) (g : Mm) (bx : Nat × Nat × Nat × Nat) (b : List Nat) (rows : List (Nat × List (Num × Nat))) :
    State × Nat :=
  if g.tr then
    (List.range (bx.2.2.2 - bx.2.2.1)).foldl (fun (t : State × Nat) j =>
      let r := convertRun c.ftz c.cvt g.c.fmt (rows.map fun e => e.2.getD j (.zero, 0))
      (t.1.writeRun g.c bx.1 ((bx.2.2.1 + j) :: b) r, t.2 + r.2.2)) (s, 0)
  else
    rows.foldl (fun (t : State × Nat) e =>
      let r := convertRun c.ftz c.cvt g.c.fmt e.2
      (t.1.writeRun g.c bx.2.2.1 (e.1 :: b) r, t.2 + r.2.2)) (s, 0)

/-- Transposed store of rows some of which are skipped: element by element, for a C that is not MX (R238). -/
def State.storeSome (s : State) (c : Cmd) (g : Mm) (bx : Nat × Nat × Nat × Nat) (b : List Nat) (rows : List (Nat × List (Num × Nat))) :
    State × Nat :=
  rows.foldl (fun (t : State × Nat) e =>
    e.2.zipIdx.foldl (fun (t : State × Nat) v =>
      let r := convertRun c.ftz c.cvt g.c.fmt [v.1]
      (t.1.writeRun g.c e.1 ((bx.2.2.1 + v.2) :: b) r, t.2 + r.2.2)) t) (s, 0)

/-- Write free values over a run of a tensor row: what a conflict of writers or of blocks leaves there is not stated. [Log 34 DESIGN CHOICE] -/
def State.freeRun (s : State) (d : Desc) (i0 n : Nat) (ix : List Nat) : State :=
  let a := (d.rowAddr ix).toNat + i0 * d.fmt.width / 8
  let f := s.freeBytes (cdiv (n * d.fmt.width) 8)
  let t := f.2.writeBytes a f.1
  if d.fmt.isMx then
    let g := t.freeBytes ((i0 + n - 1) / 32 - i0 / 32 + 1)
    g.2.writeBytes (d.scaleAddr (i0 / 32) ix) g.1
  else t

/-- Transposed store into an MX tensor of rows some of which are skipped, block by block: a block with no live row keeps its values, and one
with live and skipped rows, whose scale they share, takes free ones (R238). [Log 34 DESIGN CHOICE] -/
def State.storeBlocks (s : State) (c : Cmd) (g : Mm) (bx : Nat × Nat × Nat × Nat) (b : List Nat) (rows : List (Nat × List (Num × Nat))) :
    State × Nat :=
  (List.range (cdiv (bx.2.1 - bx.1) 32)).foldl (fun (t : State × Nat) i =>
    let m0 := bx.1 + 32 * i
    let m1 := min (m0 + 32) bx.2.1
    let rs := rows.filter fun e => decide (m0 ≤ e.1) && decide (e.1 < m1)
    if rs.isEmpty then t
    else (List.range (bx.2.2.2 - bx.2.2.1)).foldl (fun (t : State × Nat) j =>
      let ix := (bx.2.2.1 + j) :: b
      if rs.length = m1 - m0 then
        let r := convertRun c.ftz c.cvt g.c.fmt (rs.map fun e => e.2.getD j (.zero, 0))
        (t.1.writeRun g.c m0 ix r, t.2 + r.2.2)
      else (t.1.freeRun g.c m0 (m1 - m0) ix, t.2)) t) (s, 0)

/-- The quiet row that finding `quiet` gives is skipped: a carry-over step under SKIPROW = 1 (R238). [Log 85 DEDUCED] -/
def Cmd.skips (c : Cmd) (quiet : Bool) : Bool :=
  match c.plan.co with
  | some o => o.skip && o.carry && quiet
  | none => false

/-- The carry stage of a row (R237): y, its flush count, and the kept output written. -/
def State.carryRow (s : State) (c : Cmd) (g : Mm) (o : Co) (b : List Nat) (m n0 : Nat) (p : List Num) : List Num × Nat × State :=
  let ys := p.zipIdx.map fun e =>
    if o.carry then
      let k := f32In c.ftz (s.numAt (g.coOut o b m (n0 + e.2)) 4)
      let y := rne c.ftz (k.1.add e.1)
      (y.1, k.2 + y.2)
    else (e.1, 0)
  let t := s.writeBytes (g.coOut o b m n0) (ys.flatMap fun y => leBytes 4 (f32Bits c.ftz y.1).1)
  (ys.map (·.1), sumOf (ys.map (·.2)), t)

/-- Finish an output tile at its owner: carry stage, epilogue, final store, side outputs (R111, R133, R237, R238). `rows` holds, for
each m of the tile, the accumulator results of columns `cs` to `ce` − 1; `kvw` performs the rows' KVSTORE appends. -/
def PartRun.finishTile (r : PartRun) (kvw : PartRun → Cmd → List SideWr → PartRun) (c : Cmd) (cl : Nat) (g : Mm) (it : Item)
    (rows : List (List Num)) (quiet : List Bool) (tab : List (List Nat)) : PartRun :=
  let bx := g.box it
  let cc := g.cols bx.2.2.1 bx.2.2.2
  let x := c.stCx r.s cl it.b g.k
  let co := c.plan.co
  let skip := fun (i : Nat) => c.skips (quiet.getD i false)
  let live := (rows.zipIdx.filter fun e => !skip e.2).map fun e => (bx.1 + e.2, e.1)
  let ms := live.map (·.1)
  let keptWords := match co with
    | some o => if o.carry then ms.flatMap fun m => wordsOf (g.coOut o it.b m bx.2.2.1) (4 * (bx.2.2.2 - bx.2.2.1)) else []
    | none => []
  let r := r.read (keptWords ++ (g.side 2).flatMap fun st => r.s.stageWords x st ms cc.1 cc.2)
  if r.status != 0 then r
  else
    let s0 := r.s
    let r := { r with s := r.s.bump F.aryCoskipQuiet cl (rows.length - live.length) }
    let fin := live.map fun e =>
      let cr := match co with
        | some o => s0.carryRow c g o it.b e.1 cc.1 e.2
        | none => (e.2, 0, s0)
      let fs := (upto cc.1 cc.2).map fun n => g.elemFields c bx tab e.1 n
      let sg := s0.runStages { x with lo := bx.2.2.1, hi := bx.2.2.2 } (g.side 2) e.1 cc.1 ⟨cr.1, false, fs, ([], [], 0), .fp32, [], 0, []⟩
      let own := (sg.vals.zip fs).drop (bx.2.2.1 - cc.1) |>.take (bx.2.2.2 - bx.2.2.1)
      (e.1, own.map (fun v => (v.1, lastField v.2)), sg, cr.2.1)
    let s1 := match co with
      | some o => live.foldl (fun (t : State) (e : Nat × List Num) => (t.carryRow c g o it.b e.1 cc.1 e.2).2.2) r.s
      | none => r.s
    let s2 := fin.foldl (fun t e => t.sideRuns e.2.2.1.wr) s1
    let rs := fin.map fun e => (e.1, e.2.1)
    let st := if !g.tr || live.length == rows.length then s2.storeTile c g bx it.b rs
      else if g.c.fmt.isMx then s2.storeBlocks c g bx it.b rs else s2.storeSome c g bx it.b rs
    let keys := (fin.flatMap fun e => e.2.2.1.keys).eraseDups
    let fl := keys.length + sumOf (fin.map fun e => e.2.2.1.fl + e.2.2.2) + st.2
    kvw { r with s := st.1, fl := r.fl + fl } c (fin.flatMap fun e => e.2.2.1.wr)

/-- What an item accumulates: rows of results, quiet rows, flush count, passes, counters of carry-over rows, side writes, kept rows. -/
structure AccRes where
  rows : List (List Num)
  quiet : List Bool
  fl : Nat
  passes : List Pass
  wr : List SideWr
  /-- Kept encodings to write into the new slot: row, chunk, encodings (R232). -/
  kept : List (Nat × Nat × List Nat)
  digSum : Nat
  diffRows : Nat
  zeroRows : Nat
  nonfin : Nat

/-- Load time of a stationary tile of an item, with the prologue of that tile under STREAM = 1 (R84, R86, R143). -/
def Mm.loadOf (g : Mm) (progs : Nat → Nat) (load ch : Nat) : Nat :=
  let bx := chunkBox g.k ch
  loadTime g.staFmt + (if g.stream then 128 * sideCost progs 0 load 0 bx.1 bx.2 g.stages else 0)

/-- Pipe cycles of the programs of a store image. -/
def progCost (img : List Byte) (p : Nat) : Nat := progCycles img p

/-- Compute the accumulator entries of an item (R72 to R81, R128, R232 to R238); `tab` holds the fields of the prologue by lane. [Log 85 DEDUCED] -/
def State.accItem (s : State) (c : Cmd) (cl : Nat) (g : Mm) (it : Item) (tab : List (List Nat)) : AccRes :=
  let bx := g.box it
  let cc := g.cols bx.2.2.1 bx.2.2.2
  let ms := upto bx.1 bx.2.1
  let ns := upto cc.1 cc.2
  let x := c.stCx s cl it.b g.k
  let chs := g.chunks it
  let np := stochCount (g.side 0)
  let co := c.plan.co
  let aRows := chs.zipIdx.map fun ce => ms.zipIdx.map fun me =>
    let kb := chunkBox g.k ce.1
    let fl := if np = 0 then [] else (List.range (kb.2 - kb.1)).map fun l => laneFields tab l (ce.2 * ms.length + me.2) np
    let a := s.aSeg x g me.1 ce.1 (if np = 0 then (List.range (kb.2 - kb.1)).map fun _ => [] else fl)
    (a, s.streamed g co it.b me.1 ce.1 a)
  let bCols := chs.map fun ch => ns.map fun n =>
    let kb := chunkBox g.k ch
    (upto kb.1 kb.2).map fun k => s.mmElem c.ftz g.b g.kb k n it.b
  let entries := ms.zipIdx.map fun me => ns.zipIdx.map fun ne =>
    accEntry c.ftz g.accInt (List.zipWith (fun ar bc =>
      List.zipWith Num.mul ((ar[me.2]?.map (·.2.nums)).getD []) (((bc.getD ne.2 []).map (·.1)))) aRows bCols)
  let own := entries.map fun row => (row.drop (bx.2.2.1 - cc.1)).take (bx.2.2.2 - bx.2.2.1)
  let keys := (aRows.flatMap fun r => r.flatMap fun a => a.1.keys) ++ (bCols.flatMap fun b => b.flatMap fun q => q.flatMap (·.2))
  let str := aRows.flatMap fun r => r.map (·.2)
  let isDiff := str.filter (·.diff)
  let d := g.strFmt.digits
  let passes := (chs.zip (aRows.zip bCols)).map fun e =>
    if g.stream then
      let ls := (e.2.2.take (bx.2.2.2 - cc.1)).drop (bx.2.2.1 - cc.1) |>.map fun q => rowLen d (q.map (·.1))
      ⟨sumOf ls, d * ls.length, g.loadOf (progCost x.img) (pipeLoad (s.getF F.sfuPipemapRetired cl)) e.1, 0⟩
    else ⟨sumOf (e.2.1.map (·.2.len)), sumOf (e.2.1.map (·.2.full)), loadTime g.staFmt, 0⟩
  let quiet := ms.zipIdx.map fun me => aRows.all fun r => ((r[me.2]?.map (·.2.nums)).getD []).all fun v => v == .zero
  { rows := entries.map fun row => row.map (·.1)
    quiet := quiet
    fl := keys.eraseDups.length + sumOf (aRows.flatMap fun r => r.map fun a => a.1.fl) + sumOf (own.flatMap fun r => r.map (·.2))
    passes := passes
    wr := aRows.flatMap fun r => (r.zip quiet).flatMap fun a => if c.skips a.2 then [] else a.1.1.wr
    kept := (chs.zip aRows).flatMap fun e => (ms.zip e.2).map fun q => (q.1, e.1, q.2.2.kept)
    digSum := sumOf (isDiff.map (·.len))
    diffRows := isDiff.length
    zeroRows := (isDiff.filter fun t => t.nums.all fun v => v == .zero).length
    nonfin := sumOf (isDiff.map (·.nonfin)) }

/-- Words that an item's product reads: its blocks of A and B, prologue operands, the old input slot (R509). [Log 83 DEDUCED] -/
def State.mmWords (s : State) (c : Cmd) (cl : Nat) (g : Mm) (it : Item) : List Nat :=
  let bx := g.box it
  let cc := g.cols bx.2.2.1 bx.2.2.2
  let x := c.stCx s cl it.b g.k
  let ms := upto bx.1 bx.2.1
  (g.chunks it).flatMap fun ch =>
    let kb := chunkBox g.k ch
    g.a.blockWords g.ka it.b kb.1 kb.2 bx.1 bx.2.1 ++ g.b.blockWords g.kb it.b kb.1 kb.2 cc.1 cc.2 ++
      ((g.side 0).flatMap fun st => s.stageWords x st ms kb.1 kb.2) ++
      (match c.plan.co with
        | some o => if o.carry then ms.flatMap fun m => wordsOf (g.coIn o o.cur it.b m kb.1) ((kb.2 - kb.1) * (g.aFmt.width / 8)) else []
        | none => [])

/-- The carry-over counters of a cluster (R243), and the kept rows written by an item with v = 0 (R232). -/
def State.coAfter (s : State) (c : Cmd) (cl : Nat) (g : Mm) (it : Item) (a : AccRes) : State :=
  match c.plan.co with
  | none => s
  | some o =>
    let s := s.bump F.aryCodigCodig cl a.digSum
    let s := s.bump F.aryCorefCoref cl (a.diffRows * g.aFmt.digits)
    let s := s.bump F.aryCorowsZrows cl a.zeroRows
    let s := s.bump F.aryCorowsDrows cl a.diffRows
    let s := s.bump F.aryCoskipNonfin cl a.nonfin
    if it.v = 0 then
      a.kept.foldl (fun t e => t.writeBytes (g.coIn o (1 - o.cur) it.b e.1 (chunkBox g.k e.2.1).1) (packBytes g.aFmt.width e.2.2)) s
    else s

/-- Run one item of an MMA: read, multiply, and finish the tile or keep the part tile (R110, R111). -/
def PartRun.mmItem (kvw : PartRun → Cmd → List SideWr → PartRun) (c : Cmd) (cl : Nat) (r : PartRun) (it : Item) : PartRun :=
  let g := c.mm
  let bx := g.box it
  let r := r.read (r.s.mmWords c cl g it)
  if r.status != 0 then r
  else
    let chs := g.chunks it
    let rows := bx.2.1 - bx.1
    let np := stochCount (g.side 0)
    let cnt := fun l => np * rows * (chs.filter fun ch => let kb := chunkBox g.k ch; decide (l < kb.2 - kb.1)).length
    let pd := if np = 0 then ([], r.lanes) else drawLanes cnt r.lanes
    let a := r.s.accItem c cl g it pd.1
    let s := (r.s.sideRuns a.wr).coAfter c cl g it a
    let owner := it.p == 0
    let ed := if owner then g.epiFields c bx pd.2 else ([], pd.2)
    let r := { r with s := s, lanes := ed.2, fl := r.fl + a.fl, passes := r.passes ++ a.passes }
    if g.f = 1 then r.finishTile kvw c cl g it a.rows a.quiet ed.1
    else if owner || !chs.isEmpty then
      let vals := a.rows.map fun row => row.map (entryCode g.accInt)
      { r with tiles := r.tiles ++ [⟨it.t / g.f, it.p, vals, a.quiet, 1, ed.1⟩] }
    else r

end Sys2Proof.Machine
end

