-- ==== Sys2Proof/Machine/Mma.lean ====
section
/-!
DEFINITION. Machine/Mma.lean: MMA at issue: its checks in the order of Table 4-8 with the seam checks of Table 5-4 and the carry-over
checks of Table 9-5a, its tile choice and its issue-time count (R100, R107 to R111, R117, R135, R244, R584).
-/
namespace Sys2Proof.Machine

/-- DS of a command at byte `off`. -/
def Cmd.addrAt (c : Cmd) (off : Nat) : Nat := c.field off 6

/-- The size rules of R100 in one place: (condition, descriptor, dimension). -/
def mmaSizes (ka kb : Nat) (tr : Bool) (a b d : Opd) : List (Bool × Rej) :=
  let bad := fun (o : Opd) (k : Nat) => rejIn 0x04 o.1 o.2.at_ (8 + 4 * k)
  let nd := if tr then 1 else 0
  [(b.2.size kb == a.2.size ka, bad b kb), (d.2.size nd == b.2.size (1 - kb), bad d nd),
   (d.2.size (1 - nd) == a.2.size (1 - ka), bad d (1 - nd))] ++
  ([2, 3, 4].flatMap fun k => [a, b].map fun o => (o.2.size k == d.2.size k || o.2.size k == 1, bad o k))

/-- The stage list of a command: read, checks 1 and 2 of Table 5-4; none where DS is 0 (R123, R135). -/
def seamHead (s : State) (c : Cmd) (q : SeamCmd) (cFmt : Fmt) (middles coOk : Bool) (slot ds : Nat) : Chk (Option SeamList) := do
  if ds = 0 then return none
  else
    let l ← seamRead s (s.partOf c.ctx) slot ds
    seamCheck2 q cFmt middles coOk l
    return some l

/-- The stages of a list after checks 3 to 6 and the store check. -/
def seamBody (kv : KvCheck) (s : State) (c : Cmd) (q : SeamCmd) (span : List Nat) : Option SeamList → Chk (List Stage)
  | none => return []
  | some l => do
    let sts ← seamChecks kv s c q 6 (l.addr + 32) none l.recs
    storeCheck s span (actPrograms sts)
    return sts

/-- TM candidates that R108 removes: all up to the answer. -/
def removedTm (stream tr : Bool) (cFmt : Fmt) (l : List Stage) : Nat :=
  let epi := l.filter (·.side == 2)
  if stream && epi.any (·.typ == 0x07) then 64
  else if (cFmt.isMx && stream != tr) || (stream && epi.any fun st => st.typ == 0x09 && st.d1.isSome && st.sfmt.isMx) then 16
  else 0

/-- Bytes of a stationary source tile, of a streamed row, and of output staging (Table 4-7). -/
def stBytes (f : Fmt) : Nat := 16384 * f.width / 8 + (if f.isMx then 512 else 0)
/-- SR of Table 4-7. -/
def srBytes (f : Fmt) : Nat := 128 * f.width / 8 + (if f.isMx then 4 else 0)
/-- OT of Table 4-7. -/
def otBytes (tm : Nat) (f : Fmt) : Nat := tm * 128 * f.width / 8 + (if f.isMx then tm * 4 else 0)

/-- Buffer need of an MMA tile in units (Table 4-7, R145, R240); `sm` is the seam term. -/
def mmaNeed (sta str out : Fmt) (split : Nat) (sm : Nat → Nat) (tm : Nat) (single : Bool) : Nat :=
  unitsOf ((if single then 1 else 2) * stBytes sta + 2 * tm * srBytes str + otBytes tm out + (if 2 ≤ split then tm * 512 else 0) + sm tm)

/-- Buffer terms of carry-over (R240), each rounded to whole units. -/
def coBytes (w tm : Nat) : Nat := 4096 * (unitsOf (2 * tm * 128 * w / 8) + unitsOf (tm * 128 * w / 8) + unitsOf (tm * 512))

/-! ### Issue-time count (R117, R584) -/

/-- The pipe cycles of programs as the store of the span's first cluster has them. -/
def State.progsOf (s : State) (span : List Nat) (p : Nat) : Nat := progCycles (s.cluster (span.headD 0)).image p

/-- R of a side with `extra` vector cycles added (R142, R237). -/
def sideCostPlus (progs : Nat → Nat) (load side c0 c1 extra : Nat) (l : List Stage) : Nat :=
  let here := l.filter fun st => st.side == side && st.winMeets c0 c1
  max 1 (max (extra + sumOf (here.map fun st => (stageCost progs 0 st).1)) (load * sumOf (here.map fun st => (stageCost progs 0 st).2)))

/-- What an item brings to the issue-time count: its passes, the vector work that runs beside them, the waits for middle stages in it, and
the epilogue work of its tile, which runs beside the next item (R82, R143). -/
structure ItemCount where
  passes : List Pass
  vec : Nat
  wait : Nat
  epi : Nat
  deriving DecidableEq, Repr

/-- The count of an item at the full digit count `d` (R143, R144, R584). [Log 22 DEDUCED] -/
def Mm.countItem (g : Mm) (progs : Nat → Nat) (load d extra : Nat) (it : Item) : ItemCount :=
  let bx := g.box it
  let rows := if g.stream then bx.2.2.2 - bx.2.2.1 else bx.2.1 - bx.1
  let ps := (g.chunks it).map fun ch =>
    let kb := chunkBox g.k ch
    let rp := sideCost progs 0 load 0 kb.1 kb.2 g.stages
    let s := if g.stream then rows * d else rows * max d rp
    (Pass.mk s s (loadTime g.staFmt + (if g.stream then 128 * rp else 0)) 0, (if g.stream then 128 else rows) * rp)
  let epi := if it.p = 0 then rows * sideCostPlus progs load 2 bx.2.2.1 bx.2.2.2 extra g.stages else 0
  if g.stages.isEmpty && extra = 0 then ⟨ps.map (·.1), 0, 0, 0⟩ else ⟨ps.map (·.1), sumOf (ps.map (·.2)), 0, epi⟩

/-- Some store or stage of the command draws random fields (R280). -/
def stochAny (c : Cmd) (l : List Stage) : Bool := c.cvt.stoch || l.any fun st => st.conv.stoch

/-- Cycles that the array waits for the seam over the items of a cluster: where the vector work of an item, with the epilogue of the tile
before it, exceeds the item's array time (R144). [Log 22 DEDUCED] -/
def seamWaits (prev : Nat) : List ItemCount → Nat
  | [] => 0
  | i :: t => i.wait + (i.vec + prev - sumOf (i.passes.map fun p => p.sum + p.seg) - i.wait) + seamWaits i.epi t

/-- The count of one cluster (R87, R117, R280). [Log 22 DEDUCED] -/
def clusterCount (stoch : Bool) (items : List ItemCount) : Nat :=
  (if items.isEmpty then 0 else passesTime (items.flatMap (·.passes)) + seamWaits 0 items) + (if stoch then 320 else 0)

/-- The issue-time count of an MMA. -/
def Mm.count (g : Mm) (s : State) (c : Cmd) (span : List Nat) (w : Walk) (d extra : Nat) : Nat :=
  let stoch := stochAny c g.stages
  maxOf (span.zipIdx.map fun e =>
    let load := pipeLoad (s.getF F.sfuPipemapRetired e.1)
    clusterCount stoch ((w.itemsOf span.length e.2).map (g.countItem (s.progsOf span) load d extra)))

/-! ### Carry-over checks (R227, R228, R230, R244) -/

/-- Check 1 of Table 9-5a. -/
def coCheck1 (c : Cmd) (l : SeamList) (g : Mm) (a : Opd) : Chk Unit := do
  let at_ := fun off => rejIn 0x48 l.slot l.addr off
  let h := fun off n => fieldAt l.hdr off n
  let mode := bits (h 10 1) 6 2
  ensure (!c.streamB) (rejCmd 0x48 1)
  ensure (coWidth g.aFmt).isSome (rejIn 0x48 a.1 a.2.at_ 6)
  match [2, 3, 4].find? fun k => a.2.size k != g.c.size k with
  | some k => throw (rejIn 0x48 a.1 a.2.at_ (8 + 4 * k))
  | none => pure ()
  match g.stages.findIdx? (·.typ == 0x0B) with
  | some i => throw (rejIn 0x48 6 (l.addr + 32 + 32 * i) 0)
  | none => pure ()
  ensure (decide (g.sb < 2 ^ 32)) (at_ 4)
  ensure (h 4 6 % 4096 == 0) (at_ 4)
  ensure (mode != 3) (at_ 10)
  ensure (bits (h 11 1) 0 7 == 0) (at_ 11)
  ensure (h 12 1 != 0) (at_ 12)
  ensure (if mode = 1 then h 13 1 != 0 && decide (h 13 1 < (coWidth g.aFmt).getD 0) else h 13 1 == 0) (at_ 13)
  ensure (h 14 2 == 0) (at_ 14)
  ensure (if mode = 2 then decide (0 < bits (h 16 4) 23 8) && decide (bits (h 16 4) 23 8 < 255) && !bit (h 16 4) 31 else h 16 4 == 0)
    (at_ 16)
  ensure (h 20 12 == 0) (at_ 20)

/-- Addresses of the memory words that the sizes of a descriptor name (Table 4-5). -/
def State.indWords (s : State) (a : Nat) : List Nat :=
  let b := s.bytesAt a 64
  (List.range 5).filterMap fun d =>
    if (indMask b).testBit d && sizeWord b d >>> 28 == 1 then some (fieldAt b 54 6 + 4 * (sizeWord b d % 0x10000000)) else none

/-- Every byte range that the command names: tensors, descriptors, indirect words, the stage list (Table 9-5a, check 3). -/
def State.namedRanges (s : State) (l : SeamList) (ds : List Opd) : List (Int × Nat) :=
  ((l.addr : Int), 32 + 32 * l.nst) :: ds.flatMap fun o =>
    o.2.ranges ++ [((o.2.at_ : Int), 64)] ++ (s.indWords o.2.at_).map fun (a : Nat) => ((a : Int), 4)

/-- The decision of R230 from the state block. -/
def coDecide (s : State) (c : Cmd) (l : SeamList) (g : Mm) (bbase : Nat) : Co :=
  let h := fun off n => fieldAt l.hdr off n
  let base := h 4 6
  let b := s.bytesAt base 64
  let f := fun off n => fieldAt b off n
  let tagen := bit (h 11 1) 7
  let tag := if tagen then s.getF F.shtCregValue (c.ctx * 16 + bits (h 10 1) 0 4) else 0
  let same := f 8 4 == g.m && f 12 4 == g.k && f 16 4 == g.n && f 20 4 == g.sb && bits (f 24 1) 0 4 == g.aFmt.code && f 26 6 == bbase
  let refresh := bit (h 10 1) 4 || !bit (f 0 1) 0 || s.anyPoison (wordsOf base 64) || !same || (tagen && f 4 4 != tag) ||
    c.step != (f 2 2 + 1) % 65536 || decide (h 12 1 - 1 ≤ f 1 1)
  ⟨!refresh, base, bits (h 10 1) 6 2, bit (h 10 1) 5, h 13 1, h 16 4, b2n (bit (f 0 1) 1), f 1 1, tag⟩

/-- The IMAGEID that the anchor reads at issue when a stage names a program (R171). -/
def imageOf (s : State) (span : List Nat) (l : List Stage) : Option Nat :=
  if (actPrograms l).isEmpty then none else some (s.getF F.sfuStoreImageid (span.headD 0))

/-- The carry-over checks, and the decision (R244, R230). -/
def coChecks (s : State) (c : Cmd) (l : SeamList) (g : Mm) (a : Opd) (ds : List Opd) : Chk Co := do
  coCheck1 c l g a
  let base := fieldAt l.hdr 4 6
  let len := 4096 + 2 * g.coXs g.sb + g.coYs g.sb
  ensure (s.owned (s.partOf c.ctx) base len) (rejAddr 0x49 6 base)
  ensure (!(s.namedRanges l ds).any fun r => rangeMeets ((base : Int), len) r) (rejAddr 0x4A 6 base)
  logRead base 64
  return coDecide s c l g g.b.base

/-! ### The checks of MMA -/

/-- Bytes 56 to 63 of the operand area: bits [7:2] of byte 56 and every later byte are reserved (Table 4-3). -/
def mmaArea (c : Cmd) : Chk Unit := do
  ensure (c.bits 56 2 6 == 0) (rejCmd 0x02 56)
  reservedFrom c 0x02 57 63

/-- Formats of check 6 (R41, R71, R81): `pro` when a stage list may hold a prologue. -/
def mmaFormats (c : Cmd) (pro : Bool) (ds : List Desc) : Chk Unit := do
  let a := ds.getD 0 .nil
  let b := ds.getD 1 .nil
  ensure (!(a.fmt.isMx && c.kBit 0 == 1)) (rejIn 0x03 1 a.at_ 6)
  ensure (!(b.fmt.isMx && c.kBit 1 == 1)) (rejIn 0x03 2 b.at_ 6)
  let i8 := fun (f : Fmt) => f == .int8 || f == .uint8
  ensure (!c.accInt || ((pro || i8 a.fmt) && i8 b.fmt)) (rejCmd 0x03 1)

/-- The checks of MMA in the order of Table 4-8 (R116, R135). -/
def mmaCheck (kv : KvCheck) (s : State) (c : Cmd) : Chk Plan := do
  let p := s.partOf c.ctx
  let cs ← commonChecks s c (mmaArea c)
  let dsAddr := c.addrAt 50
  let refs : List DRef := [⟨1, c.addrAt 32, fun f => dsAddr != 0 || f.isArray, [0]⟩, ⟨2, c.addrAt 38, Fmt.isArray, [0]⟩,
    ⟨3, c.addrAt 44, fun _ => true, [0]⟩]
  let ds ← loadDescs s c refs (pure ()) (mmaFormats c (dsAddr != 0))
  let nil : Opd := (0, .nil)
  let a := ds.getD 0 nil
  let b := ds.getD 1 nil
  let d := ds.getD 2 nil
  let q0 : SeamCmd := { op := 1, stream := c.streamB, accInt := c.accInt, m := a.2.size (1 - c.kBit 0), n := b.2.size (1 - c.kBit 1), k := a.2.size (c.kBit 0), h := 0, batch := [d.2.size 2, d.2.size 3, d.2.size 4] }
  let list ← seamHead s c q0 d.2.fmt false true 4 dsAddr
  let raw := (list.map (·.stages)).getD []
  let pro := (raw.filter (·.side == 0)).getLast?
  let aFmt := (pro.map (·.sfmt)).getD a.2.fmt
  ensure aFmt.isArray (rejIn 0x03 1 a.2.at_ 6)
  ensure (!c.accInt || aFmt == .int8 || aFmt == .uint8) (rejCmd 0x03 1)
  let tr := transposed raw
  ensureAll (mmaSizes (c.kBit 0) (c.kBit 1) tr a b d)
  let rm0 := removedTm c.streamB tr d.2.fmt raw
  let rows := if c.streamB then q0.n else q0.m
  let cols := if c.streamB then q0.m else q0.n
  let walk := fun tm => Walk.mk (d.2.size 2) (d.2.size 3) (d.2.size 4) (cdiv rows tm) (cdiv cols 128) c.factor c.walkCol
  itemCheck (walk (tmSmallest rm0))
  let sts ← seamBody kv s c q0 cs list
  let g : Mm := { stream := c.streamB, ka := c.kBit 0, kb := c.kBit 1, m := q0.m, n := q0.n, k := q0.k, f := c.factor, tm := 1, tr := tr,
                  accInt := c.accInt, a := a.2, b := b.2, c := d.2, stages := sts }
  let all := ds ++ stageIns sts ++ stageOuts sts
  let co ← match list with
    | some l => if l.co then (do let o ← coChecks s c l g a all; pure (some o)) else pure none
    | none => pure none
  rangeCheck s p 0x05 ds
  overlapCheck (fun i o => o.1 == 3 && resaddAlias sts i o) ([a, b] ++ stageIns sts) (d :: stageOuts sts)
  let sm := fun tm => seamBytes c.streamB tm sts + (if co.isSome then coBytes g.aFmt.width tm else 0)
  let t ← tileCheck s c rows rm0 (mmaNeed g.staFmt g.strFmt d.2.fmt c.split sm)
  let dig := match co with
    | some o => if o.carry then (if o.mode = 1 then cdiv o.trim 2 else (coWidth g.aFmt).getD 0 / 2) else g.strFmt.digits
    | none => g.strFmt.digits
  let w := walk t.1
  let cnt := { g with tm := t.1 }.count s c cs w dig (b2n co.isSome)
  countCheck s c cnt
  return { descs := ds.map (·.2), outIx := 2, stages := sts, walk := w, tm := t.1, gw := 0, single := t.2.1, units := t.2.2, count := cnt,
           image := imageOf s cs sts, extra := (co.map Co.nums).getD [] }

/-! ### Carry-over at issue and at completion (R231) -/

/-- The state block as the anchor writes it (Table 9-2). -/
def coBlock (valid : Bool) (cur age step tag : Nat) (g : Mm) : List Byte :=
  leBytes 1 (b2n valid + 2 * cur) ++ leBytes 1 age ++ leBytes 2 step ++ leBytes 4 tag ++ leBytes 4 g.m ++ leBytes 4 g.k ++ leBytes 4 g.n ++
    leBytes 4 g.sb ++ leBytes 1 g.aFmt.code ++ leBytes 1 0 ++ leBytes 6 g.b.base ++ leBytes 32 0

/-- When a carry-over command has passed check 12: VALID = 0 is written, a poisoned block is recorded, a refresh counted (R230, R231, R243). -/
def State.coStart (s : State) (c : Cmd) : State :=
  match c.plan.co with
  | none => s
  | some o =>
    let bad := s.anyPoison (wordsOf o.base 64)
    let b := s.bytesAt o.base 64
    let t := s.writeBytes o.base (leBytes 1 (fieldAt b 0 1 / 2 * 2) ++ b.drop 1)
    let an := (s.anchor c.ctx).getD 0
    let t := if bad then t.record { cls := 0x33, sev := 0, kind := 1, unit := an, island := clusterIsland an,
                                    op := some (c.bytes, s.partOf c.ctx, c.ctx), addr := o.base } else t
    if o.carry then t else t.bump F.aryCoskipRefresh an 1

/-- When every part has reported and the status is 0x00, the whole block is written with VALID = 1 (R231). -/
def State.coFinish (s : State) (c : Cmd) : State :=
  match c.plan.co with
  | some o =>
    if c.opcode = 0x01 && c.status = 0 then
      s.writeBytes o.base (coBlock true (1 - o.cur) (if o.carry then o.age + 1 else 0) c.step o.tag c.mm)
    else s
  | none => s

/-- A command of the MMA row. -/
def isMma (c : Cmd) : Bool := c.opcode == 0x01

/-- An MMA has passed its checks. -/
def State.goMma (s : State) (c : Cmd) : State := (s.coStart c).goTiled c

end Sys2Proof.Machine
end

