-- ==== Sys2Proof/Machine/Vector.lean ====
section
/-!
DEFINITION. Machine/Vector.lean: VOP and SFP (Chapter 6): their checks, tiles and counts, the operations of Table 6-2 on one item, and
the install of a store image.
-/
namespace Sys2Proof.Machine

/-! ### Operand area (Table 6-1) -/

/-- VOPC. -/
def Cmd.vopc (c : Cmd) : Nat := c.field 56 1
/-- SUB. -/
def Cmd.sub (c : Cmd) : Nat := c.field 57 1
/-- K. -/
def Cmd.konst (c : Cmd) : Nat := c.field 58 4

/-- The operations of Table 6-2. -/
def vopKnown (v : Nat) : Bool := decide (v ≤ 0x0C) || (decide (0x10 ≤ v) && decide (v ≤ 0x17)) || (decide (0x20 ≤ v) && decide (v ≤ 0x25))

/-- The operation has an input y. -/
def vopY (v : Nat) : Bool := [1, 2, 3, 4, 5, 6, 9, 10].contains v || (decide (0x10 ≤ v) && decide (v ≤ 0x17))

/-- The operation has an input z. -/
def vopZ (v : Nat) : Bool := v == 4 || v == 10

/-- RSUM, RMAX, RMIN, ARGMAX, ARGMIN. -/
def vopReduces (v : Nat) : Bool := decide (0x20 ≤ v) && decide (v ≤ 0x24)

/-- The item holds whole rows: a reduction or ISCAN (R156). -/
def vopWhole (v : Nat) : Bool := decide (0x20 ≤ v)

/-- The formats of x, y and o that Table 6-2 permits; `fx` is the format of x. -/
def vopFmtOk (v : Nat) (fx f : Fmt) (out : Bool) : Bool :=
  if v = 9 then out || f.isInt == fx.isInt
  else if v = 10 || v = 11 then true
  else if v = 0x20 then f.isInt == fx.isInt
  else if v = 0x23 || v = 0x24 then (if out then f == .int32 else !f.isInt)
  else if v = 0x25 then (if out then f == .int16 || f == .int32 else f.isInt)
  else if 0x10 ≤ v && v ≤ 0x17 then f.isInt
  else !f.isInt

/-- The constant K as an element: its format and encoding (Table 6-1). -/
def vopConst (v : Nat) (fx fo : Fmt) : Fmt :=
  if v = 9 then (if fx.isInt then .int32 else .fp32)
  else if v = 10 then (if fo.isInt then .int32 else .fp32)
  else if 0x10 ≤ v && v ≤ 0x17 then .int32
  else .fp32

/-- Σ before the pipe load and V of an operation other than STAGE (Tables 6-2 and 6-4). -/
def vopCost (v sub : Nat) : Nat × Nat :=
  if v = 0x0C then (4, funcV sub)
  else if v = 0x23 || v = 0x24 then (0, 3)
  else if 0x20 ≤ v then (0, 2)
  else (0, 1)

/-! ### Checks -/

/-- The operand-area fields at check 6 (R151, R152, R170). -/
def vopArea (c : Cmd) : Chk Unit := do
  let v := c.vopc
  ensure (vopKnown v) (rejCmd 0x28 56)
  ensure (if v = 9 then decide (c.sub ≤ 5) else if v = 0x0C then decide (c.sub ≤ 0x0D) else c.sub == 0) (rejCmd 0x28 57)
  reservedFrom c 0x28 62 63
  ensure (c.addrAt 38 != 0) (rejAddr 0x28 2 0)
  ensure (!vopZ v || c.addrAt 50 != 0) (rejAddr 0x28 4 0)

/-- The stage record of VOPC 0x00 (R154). -/
def vopRecord (s : State) (c : Cmd) (fo : Fmt) : Chk Unit := do
  let a := c.addrAt 50
  ensure (a % 32 == 0) (rejAddr 0x28 4 a)
  let b ← readStruct s 4 a 32
  let st := parseStage b
  let at_ := fun off => rejIn 0x28 4 a off
  ensure (st.typ != 0x0A && st.typ != 0x0C) (at_ 0)
  ensure (st.side == 0 || st.side == 2) (at_ 1)
  ensure (st.cvt == c.bits 1 0 4) (at_ 1)
  ensure (bits (fieldAt b 2 1) 0 4 == fo.code) (at_ 2)
  match recBad false false 0 false b with
  | some off => throw (at_ off)
  | none => pure ()

/-- Addresses of the descriptors of a VOP, and the slots they are reported at. -/
def vopRefs (c : Cmd) : List DRef :=
  let d := fun slot off => DRef.mk slot (c.addrAt off) (fun _ => true) [0]
  [d 1 32] ++ (if c.addrAt 38 = 0 then [] else [d 2 38]) ++ (if vopY c.vopc && c.addrAt 44 != 0 then [d 3 44] else []) ++
    (if vopZ c.vopc && c.addrAt 50 != 0 then [d 4 50] else [])

/-- Format classes (R151): O, then the inputs. -/
def vopFormats (s : State) (c : Cmd) (ds : List Desc) : Chk Unit := do
  let o := ds.getD 0 .nil
  let x := ds.getD 1 .nil
  ensureAll ((vopRefs c).zipIdx.map fun r => (vopFmtOk c.vopc x.fmt (ds.getD r.2 .nil).fmt (r.2 == 0), rejIn 0x28 r.1.slot r.1.addr 6))
  if c.vopc = 0 then vopRecord s c o.fmt else pure ()

/-- Sizes (R152). -/
def vopSizes (v : Nat) (o x : Opd) (ins : List Opd) : List (Bool × Rej) :=
  let five := List.range 5
  if vopReduces v then five.map fun k => (o.2.size k == (if k = 0 then 1 else x.2.size k), rejIn 0x29 1 o.2.at_ (8 + 4 * k))
  else if v = 0x25 then five.map fun k => (o.2.size k == x.2.size k, rejIn 0x29 1 o.2.at_ (8 + 4 * k))
  else ins.flatMap fun i => five.map fun k => (i.2.size k == o.2.size k || i.2.size k == 1, rejIn 0x29 i.1 i.2.at_ (8 + 4 * k))

/-- Bytes of a tile of `tm` rows of a format (R156). -/
def vecTile (tm : Nat) (f : Fmt) : Nat := tm * 128 * f.width / 8 + (if f.isMx then tm * 4 else 0)

/-- Buffer need of a vector tile in units: each input twice under double buffering, the output, a working tile and the stage terms,
each rounded (R156). -/
def vecNeed (ins : List Fmt) (out : Nat → Nat) (sm : Nat → Nat) (tm : Nat) (single : Bool) : Nat :=
  sumOf (ins.map fun f => (if single then 1 else 2) * unitsOf (vecTile tm f)) + unitsOf (out tm) + unitsOf (tm * 512) + unitsOf (sm tm)

/-- Time of an item of `g` row segments at R cycles each (R157); `c` is the issue interval, 0 when the unit is not used. -/
def vecItem (g r c : Nat) : Nat := (g - 1) * r + (if c = 0 then 4 else 8 * c + 8) + 24

/-- Issue-time count of a vector command on a span: the sum of its items' times on each cluster, 320 more with random fields
(R157, R280). -/
def vecCount (stoch : Bool) (span : List Nat) (w : Walk) (time : Nat → Item → Nat) : Nat :=
  maxOf (span.zipIdx.map fun e => sumOf ((w.itemsOf span.length e.2).map (time e.1)) + (if stoch then 320 else 0))

/-- Rows of an item of a walk over an output of `size1` rows. -/
def Item.rows (it : Item) (tm size1 : Nat) : Nat × Nat := (it.u * tm, tileEnd it.u tm size1)

/-- The walk of a VOP or SFP (R156). -/
def vopWalk (whole col : Bool) (o : Desc) (tm : Nat) : Walk :=
  let w := outWalk o.sizes tm col
  if whole then { w with tv := 1 } else w

/-- Time of a VOP item on a cluster at issue (R157, R159). -/
def vopItemTime (s : State) (v sub : Nat) (sts : List Stage) (progs : Nat → Nat) (o x : Desc) (tm cl : Nat) (it : Item) : Nat :=
  let load := pipeLoad (s.getF F.sfuPipemapRetired cl)
  let rw := it.rows tm (o.size 1)
  let segs := if vopWhole v then max 1 (cdiv (x.size 0) 128) else 1
  let c1 := tileEnd it.v 128 (o.size 0)
  let st := sts.head?
  let r := match st with
    | some t => max 1 (sideCost progs 0 load t.side (it.v * 128) c1 sts)
    | none => let q := vopCost v sub; max 1 (max (q.2 + b2n o.fmt.isMx) (load * q.1))
  let c := match st with
    | some t =>
      if !t.winMeets (it.v * 128) c1 then 0
      else if t.typ = 0x03 then (if t.param = 0 then 0 else if t.param < 0x40 then 1 else progs (t.param - 0x40))
      else b2n (t.typ == 0x08)
    | none => b2n (v == 0x0C)
  vecItem ((rw.2 - rw.1) * segs) r c

/-- The checks of a VOP (R170). -/
def vopCheck (kv : KvCheck) (s : State) (c : Cmd) : Chk Plan := do
  let p := s.partOf c.ctx
  let v := c.vopc
  let cs ← commonChecks s c (pure ())
  let pre := do
    if v = 0 then addrIn s p 0x05 4 (c.addrAt 50) 32 else pure ()
    vopArea c
  let ds ← loadDescs s c (vopRefs c) pre (vopFormats s c)
  let nil : Opd := (0, .nil)
  let o := ds.getD 0 nil
  let x := ds.getD 1 nil
  ensureAll (vopSizes v o x (ds.drop 1))
  itemCheck (vopWalk (vopWhole v) c.walkCol o.2 16)
  let q : SeamCmd := { op := 8, stream := false, accInt := false, m := o.2.size 1, n := o.2.size 0, k := o.2.size 0, h := 0,
                       batch := [o.2.size 2, o.2.size 3, o.2.size 4] }
  let sts ← if v = 0 then (do
      let b := s.bytesAt (c.addrAt 50) 32
      let pv := { parseStage b with sfmt := x.2.fmt }
      let l ← seamChecks kv s c q 4 (c.addrAt 50) (some pv) [b]
      storeCheck s cs (actPrograms l)
      pure l) else pure []
  rangeCheck s p 0x05 ds
  overlapCheck (fun i d => d.1 == 1 && ((!vopReduces v && i.1 != 6 && i.2.sameAs d.2) || resaddAlias sts i d)) (ds.drop 1 ++ stageIns sts)
    (o :: stageOuts sts)
  let out := fun tm => if vopReduces v then tm * 8 else vecTile tm o.2.fmt
  let t ← tileCheck s c (o.2.size 1) 0 (vecNeed ((ds.drop 1).map (·.2.fmt)) out fun tm => seamBytes false tm sts)
  let w := vopWalk (vopWhole v) c.walkCol o.2 t.1
  let cnt := vecCount (stochAny c sts) cs w (vopItemTime s v c.sub sts (s.progsOf cs) o.2 x.2 t.1)
  countCheck s c cnt
  return { descs := ds.map (·.2), outIx := 0, stages := sts, walk := w, tm := t.1, gw := 0, single := t.2.1, units := t.2.2, count := cnt,
           image := imageOf s cs sts, extra := [] }

/-! ### Elements -/

/-- An input element: its format, its encoding after the input flush, its exact value, and the key of its flush. -/
structure VEl where
  fmt : Fmt
  code : Nat
  num : Num
  keys : List Key

/-- Read an element of a tensor with broadcast in every dimension (R152). -/
def State.vIn (s : State) (ftz : Bool) (d : Desc) (i0 i1 : Nat) (b : List Nat) : VEl :=
  let j0 := if d.size 0 = 1 then 0 else i0
  let j1 := if d.size 1 = 1 then 0 else i1
  let ix := d.batchIx b j1
  let g := flushIn ftz d.fmt (s.elemCode d j0 ix)
  ⟨d.fmt, g.1, (s.elemNum ftz d j0 ix).1, if g.2 = 0 then [] else [(d.at_, j0, j1)]⟩

/-- The constant K as an element. [Log 25 DEDUCED] -/
def constEl (ftz : Bool) (f : Fmt) (k : Nat) : VEl :=
  let g := flushIn ftz f k
  ⟨f, g.1, decodeElem f g.1, if g.2 = 0 then [] else [(0, 1, k)]⟩

/-- The value that the engine computes on (R149). -/
def VEl.wide (e : VEl) : Num := widen e.fmt e.num

/-- The exact integer of an integer element. -/
def VEl.int (e : VEl) : Int := intOf e.num

/-- A result: a computed value, or an element that is only converted (R149, R53). -/
inductive VRes where
  | num (v : Num)
  | raw (e : VEl)

/-- The comparison of CMP (Table 6-2, Table 2-9). -/
def cmpHolds (sub : Nat) (a b : Num) : Bool :=
  let nan := a == .nan || b == .nan
  match sub with
  | 0 => a.eqv b
  | 1 => nan || !a.eqv b
  | 2 => !nan && a.lt b
  | 3 => !nan && !b.lt a
  | 4 => !nan && b.lt a
  | _ => !nan && !a.lt b

/-- A Bool as 1 or 0. -/
def boolNum (b : Bool) : Num := if b then .one else .zero

/-- The 32-bit two's complement form of an integer. -/
def form32 (i : Int) : Nat := ofInt 32 i

/-- An integer result as a value. -/
def intRes (i : Int) : VRes := .num (numOfInt i 0)

/-- One element of an elementwise operation (Table 6-2). -/
def vopElem (v sub : Nat) (compat : Bool) (x y z : VEl) : VRes :=
  match v with
  | 0x01 => .num (add32 x.wide y.wide)
  | 0x02 => .num (add32 x.wide y.wide.negate)
  | 0x03 => .num (mul32 x.wide y.wide)
  | 0x04 => .num (fma32 x.wide y.wide z.wide)
  | 0x05 => .num (x.wide.max y.wide)
  | 0x06 => .num (x.wide.min y.wide)
  | 0x07 => .num x.wide.abs
  | 0x08 => .num x.wide.negate
  | 0x09 => .num (boolNum (if x.fmt.isInt then cmpHolds sub x.num y.num else cmpHolds sub x.wide y.wide))
  | 0x0A => .raw (if z.num.isZero then y else x)
  | 0x0B => .raw x
  | 0x0C => .num (sfuFunc compat sub x.wide)
  | 0x10 => intRes (x.int + y.int)
  | 0x11 => intRes (x.int - y.int)
  | 0x12 => intRes (x.int * y.int)
  | 0x13 => intRes (toInt 32 (form32 x.int &&& form32 y.int))
  | 0x14 => intRes (toInt 32 (form32 x.int ||| form32 y.int))
  | 0x15 => intRes (toInt 32 (form32 x.int ^^^ form32 y.int))
  | 0x16 => intRes (x.int * 2 ^ (y.int % 32).toNat)
  | _ => intRes (x.int.fdiv (2 ^ (y.int % 32).toNat))

/-- A reduction of a row (R153), with the flush count of its sums. -/
def vopReduce (v : Nat) (ftz : Bool) (isInt : Bool) (xs : List VEl) : Num × Nat :=
  let es : List Entry := xs.zipIdx.map fun e => (e.2, e.1.wide)
  match v with
  | 0x20 =>
    if isInt then (numOfInt (xs.foldl (fun a e => a + e.int) (0 : Int)) 0, 0)
    else
      let r := accChunks ftz ((groups128 (xs.length + 1) (xs.map (·.wide))).map (chunkSum ftz))
      (r.1.getD .zero, r.2)
  | 0x21 => (match xs with | [] => .inf true | e :: t => t.foldl (fun a y => a.max y.wide) e.wide, 0)
  | 0x22 => (match xs with | [] => .inf false | e :: t => t.foldl (fun a y => a.min y.wide) e.wide, 0)
  | 0x23 => (numOfInt (argMax es) 0, 0)
  | _ => (numOfInt (argMin es) 0, 0)

/-- Running sums of a row (ISCAN, R153). -/
def vopScan : (acc : Int) → List VEl → List VRes
  | _, [] => []
  | a, e :: t => intRes (a + e.int) :: vopScan (a + e.int) t

/-- The exact value of a result. -/
def VRes.val : VRes → Num
  | .num v => v
  | .raw e => e.num

/-- A row of results converted to the output format, with one random field each; a result in its own format is copied (R53). [Log 27 DEDUCED] -/
def convertRes (ftz : Bool) (c : Cvt) (f : Fmt) (rs : List (VRes × Nat)) : List Nat × List Nat × Nat :=
  if f.isMx then convertRun ftz c f (rs.map fun r => (r.1.val, r.2))
  else
    let es := rs.map fun r => match r.1 with
      | .raw e => if e.fmt = f then (e.code, 0) else encodeElem ftz c (c.field r.2) f e.num
      | .num v => encodeElem ftz c (c.field r.2) f v
    (es.map (·.1), [], sumOf (es.map (·.2)))

/-! ### One item -/

/-- The box of an item of the output: rows, then columns. -/
def Cmd.vecBox (c : Cmd) (o : Desc) (whole : Bool) (it : Item) : Nat × Nat × Nat × Nat :=
  let r := it.rows c.plan.tm (o.size 1)
  if whole then (r.1, r.2, 0, o.size 0) else (r.1, r.2, it.v * 128, tileEnd it.v 128 (o.size 0))

/-- Regions of an item of a vector command: its rows of the output. -/
def vecRegions (o : Desc) (bx : Nat × Nat × Nat × Nat) (b : List Nat) : List Region :=
  (upto bx.1 bx.2.1).map fun m => Region.mk o bx.2.2.1 (bx.2.2.2 - bx.2.2.1) (m :: b)

/-- Words of an input that an item reads, broadcast dimensions once (R152). [Log 83 DEDUCED] -/
def inWords (d : Desc) (whole : Bool) (bx : Nat × Nat × Nat × Nat) (b : List Nat) : List Nat :=
  let ms := if d.size 1 = 1 then [0] else upto bx.1 bx.2.1
  ms.flatMap fun m =>
    if whole then d.runWords 0 (d.size 0) (d.batchIx b m)
    else if d.size 0 = 1 then d.runWords 0 1 (d.batchIx b m)
    else d.runWords bx.2.2.1 (bx.2.2.2 - bx.2.2.1) (d.batchIx b m)

/-- Fields of a vector item: one for each element, lane i0 mod 128, rows ascending, then columns (R148, R279). [Log 26 DEDUCED] -/
def vecFields (stoch : Bool) (bx : Nat × Nat × Nat × Nat) (ls : List Lane) : List (List Nat) × List Lane :=
  if stoch then drawLanes (fun l => (bx.2.1 - bx.1) * ((upto bx.2.2.1 bx.2.2.2).filter fun j => j % 128 == l).length) ls else ([], ls)

/-- The field of element (m, j) of an item. -/
def vecField (bx : Nat × Nat × Nat × Nat) (tab : List (List Nat)) (m j : Nat) : Nat :=
  let l := j % 128
  let per := ((upto bx.2.2.1 bx.2.2.2).filter fun i => i % 128 == l).length
  (tab.getD l []).getD ((m - bx.1) * per + (j - bx.2.2.1) / 128) 0

/-- The output row m of a VOP other than STAGE: its run, keys and flush count (R151 to R153). [Log 27 DEDUCED] -/
def State.vopRow (s : State) (c : Cmd) (o : Desc) (ins : List Desc) (bx : Nat × Nat × Nat × Nat) (b : List Nat) (tab : List (List Nat))
    (m : Nat) : (List Nat × List Nat × Nat) × List Key × Nat :=
  let v := c.vopc
  let x := ins.getD 0 .nil
  let js := upto bx.2.2.1 bx.2.2.2
  let fs := js.map fun j => vecField bx tab m j
  let k := constEl c.ftz (vopConst v x.fmt o.fmt) c.konst
  let hasY := vopY v && c.addrAt 44 != 0
  let zi := if hasY then 2 else 1
  if vopWhole v then
    let xs := (List.range (x.size 0)).map fun i => s.vIn c.ftz x i m b
    let keys := xs.flatMap (·.keys)
    if v = 0x25 then (convertRes c.ftz c.cvt o.fmt ((vopScan 0 xs).zip fs), keys, 0)
    else
      let r := vopReduce v c.ftz x.fmt.isInt xs
      (convertRes c.ftz c.cvt o.fmt [(.num r.1, fs.headD 0)], keys, r.2)
  else
    let es := js.map fun j =>
      let xe := s.vIn c.ftz x j m b
      let ye := if hasY then s.vIn c.ftz (ins.getD 1 .nil) j m b else k
      let ze := if vopZ v then s.vIn c.ftz (ins.getD zi .nil) j m b else xe
      (vopElem v c.sub c.compat xe ye ze, xe.keys ++ (if vopY v then ye.keys else []) ++ (if vopZ v then ze.keys else []), xe.code)
    let keys := es.flatMap (·.2.1)
    if v = 0x0B && x.fmt == o.fmt && o.fmt.isMx && x.size 0 == o.size 0 then
      let ix := x.batchIx b (if x.size 1 = 1 then 0 else m)
      let sc := (List.range (cdiv bx.2.2.2 32 - bx.2.2.1 / 32)).map fun i => (s.byteAt (x.scaleAddr (bx.2.2.1 / 32 + i) ix)).toNat
      let codes := es.map (·.2.2)
      ((codes ++ List.replicate (alignUp codes.length 32 - codes.length) 0, sc, 0), keys, 0)
    else (convertRes c.ftz c.cvt o.fmt ((es.map (·.1)).zip fs), keys, 0)

/-- Run an item whose rows are computed by `row` from the state before its writes (R155). -/
def PartRun.vecRows (r : PartRun) (o : Desc) (bx : Nat × Nat × Nat × Nat) (b : List Nat) (lanes : List Lane)
    (row : Nat → (List Nat × List Nat × Nat) × List Key × Nat) : PartRun :=
  let out := (upto bx.1 bx.2.1).map fun m => (m, row m)
  let s := out.foldl (fun (t : State) e => t.writeRun o bx.2.2.1 (e.1 :: b) e.2.1) r.s
  let fl := (out.flatMap fun e => e.2.2.1).eraseDups.length + sumOf (out.map fun e => e.2.1.2.2 + e.2.2.2)
  { r with s := s, lanes := lanes, fl := r.fl + fl }

/-- One item of a VOP with VOPC 0x00 (R154). -/
def PartRun.stageItem (kvw : PartRun → Cmd → List SideWr → PartRun) (c : Cmd) (cl : Nat) (r : PartRun) (it : Item) : PartRun :=
  let o := c.plan.desc 0
  let x := c.plan.desc 1
  let bx := c.vecBox o false it
  let cx := c.stCx r.s cl it.b (o.size 0)
  let sts := c.plan.stages
  let ms := upto bx.1 bx.2.1
  let wide := sts.any (·.typ == 0x06)
  let c0 := if wide then bx.2.2.1 / 128 * 128 else bx.2.2.1
  let r := r.read (inWords x false bx it.b ++ sts.flatMap fun st => r.s.stageWords cx st ms bx.2.2.1 bx.2.2.2)
  if r.status != 0 then r
  else
    let s := r.s
    let fd := vecFields c.cvt.stoch bx r.lanes
    let rows := ms.map fun m =>
      let es := (upto c0 bx.2.2.2).map fun j => s.vIn c.ftz x j m it.b
      let fs := (upto c0 bx.2.2.2).map fun j => if c.cvt.stoch then [vecField bx fd.1 m j] else []
      let g := s.runStages { cx with lo := bx.2.2.1, hi := bx.2.2.2 } sts m c0 ⟨es.map (·.wide), x.fmt.isMx, fs, ([], [], 0), .fp32, [], 0, []⟩
      let codes := if sts.any (·.typ == 0x0B) then
          convertRes c.ftz c.cvt o.fmt (es.zipIdx.map fun e => (.raw e.1, (fs.getD e.2 []).headD 0)) else g.codes
      (m, codes, es.flatMap (·.keys) ++ g.keys, g.fl, g.wr)
    let s1 := rows.foldl (fun (t : State) e => (t.writeRun o bx.2.2.1 (e.1 :: it.b) e.2.1).sideRuns e.2.2.2.2) s
    let fl := (rows.flatMap fun e => e.2.2.1).eraseDups.length + sumOf (rows.map fun e => e.2.2.2.1)
    kvw { r with s := s1, lanes := fd.2, fl := r.fl + fl } c (rows.flatMap fun e => e.2.2.2.2)

/-- One item of a VOP. -/
def PartRun.vopItem (kvw : PartRun → Cmd → List SideWr → PartRun) (c : Cmd) (cl : Nat) (r : PartRun) (it : Item) : PartRun :=
  if c.vopc = 0 then r.stageItem kvw c cl it
  else
    let o := c.plan.desc 0
    let ins := c.plan.descs.drop 1
    let bx := c.vecBox o (vopWhole c.vopc) it
    let r := r.read (ins.flatMap fun d => inWords d (vopWhole c.vopc) bx it.b)
    if r.status != 0 then r
    else
      let fd := vecFields c.cvt.stoch bx r.lanes
      r.vecRows o bx it.b fd.2 (r.s.vopRow c o ins bx it.b fd.1)

/-- Regions of a VOP item, side outputs of its stage included. -/
def Cmd.vopRegions (c : Cmd) (it : Item) : List Region :=
  let o := c.plan.desc 0
  let bx := c.vecBox o (vopWhole c.vopc) it
  vecRegions o bx it.b ++ c.plan.stages.flatMap fun st => match st.typ, st.d1 with
    | 0x09, some d => vecRegions d bx it.b
    | 0x07, some d => (upto bx.1 bx.2.1).map fun m => Region.mk d (2 * (bx.2.2.1 / 128)) 2 (m :: it.b)
    | _, _ => []

/-! ### SFP -/

/-- MODE. -/
def Cmd.sfpLoad (c : Cmd) : Bool := c.bits 50 0 1 = 1
/-- PROG. -/
def Cmd.prog (c : Cmd) : Nat := c.bits 51 0 6

/-- The operand-area fields of SFP (Table 6-10). -/
def sfpArea (c : Cmd) : Chk Unit := do
  ensure (!c.sfpLoad || c.addrAt 32 == 0) (rejAddr 0x28 1 (c.addrAt 32))
  ensure (!c.sfpLoad || c.addrAt 38 == 0) (rejAddr 0x28 2 (c.addrAt 38))
  ensure (c.bits 50 1 7 == 0) (rejCmd 0x28 50)
  ensure (c.bits 51 6 2 == 0) (rejCmd 0x28 51)
  reservedFrom c 0x28 52 63

/-- The checks of SFP with MODE 0 (R169, R170). -/
def sfpRunCheck (s : State) (c : Cmd) : Chk Plan := do
  let p := s.partOf c.ctx
  let cs ← commonChecks s c (pure ())
  let refs := [DRef.mk 1 (c.addrAt 32) (fun _ => true) [0], DRef.mk 2 (c.addrAt 38) (fun _ => true) [0]]
  let ds ← loadDescs s c refs (sfpArea c) fun l =>
    ensureAll (l.zipIdx.map fun d => (!d.1.fmt.isInt, rejIn 0x28 (d.2 + 1) d.1.at_ 6))
  let nil : Opd := (0, .nil)
  let o := ds.getD 0 nil
  let x := ds.getD 1 nil
  ensureAll (vopSizes 0x0C o x [x])
  itemCheck (vopWalk false c.walkCol o.2 16)
  storeCheck s cs [c.prog]
  rangeCheck s p 0x05 ds
  overlapCheck (fun i d => i.2.sameAs d.2) [x] [o]
  let t ← tileCheck s c (o.2.size 1) 0 (vecNeed [x.2.fmt] (fun tm => vecTile tm o.2.fmt) fun _ => 0)
  let w := vopWalk false c.walkCol o.2 t.1
  let pc := s.progsOf cs c.prog
  let cnt := vecCount c.cvt.stoch cs w fun cl it =>
    let rw := it.rows t.1 (o.2.size 1)
    vecItem (rw.2 - rw.1) (max (1 + b2n o.2.fmt.isMx) (pipeLoad (s.getF F.sfuPipemapRetired cl) * 4 * pc)) pc
  countCheck s c cnt
  return { descs := ds.map (·.2), outIx := 0, stages := [], walk := w, tm := t.1, gw := 0, single := t.2.1, units := t.2.2, count := cnt,
           image := some (s.getF F.sfuStoreImageid (cs.headD 0)), extra := [] }

/-- One item of an SFP run. -/
def PartRun.sfpItem (c : Cmd) (cl : Nat) (r : PartRun) (it : Item) : PartRun :=
  let o := c.plan.desc 0
  let x := c.plan.desc 1
  let bx := c.vecBox o false it
  let r := r.read (inWords x false bx it.b)
  if r.status != 0 then r
  else
    let fd := vecFields c.cvt.stoch bx r.lanes
    let img := (r.s.cluster cl).image
    r.vecRows o bx it.b fd.2 fun m =>
      let es := (upto bx.2.2.1 bx.2.2.2).map fun j => (r.s.vIn c.ftz x j m it.b, vecField bx fd.1 m j)
      (convertRes c.ftz c.cvt o.fmt (es.map fun e => (.num (progRun c.compat img c.prog e.1.wide), e.2)), es.flatMap (·.1.keys), 0)

/-- The checks of SFP with MODE 1: the image is read whole and checked (R169, R170). -/
def sfpLoadCheck (s : State) (c : Cmd) : Chk Plan := do
  let p := s.partOf c.ctx
  let _ ← commonChecks s c (pure ())
  let a := c.addrAt 44
  addrIn s p 0x05 3 a 1
  sfpArea c
  ensure (a % 64 == 0) (rejAddr 0x28 3 a)
  ensure (s.owned p a imageBytes) (rejAddr 0x05 3 a)
  countCheck s c 137
  let img ← readStruct s 3 a imageBytes
  ensure (!imageBad img) (rejAddr 0x2C 3 a)
  return { Plan.plain 137 (img.map (·.toNat)) with outIx := 1 }

/-- The image that a load installs. -/
def Plan.imageBytes (p : Plan) : List Byte := p.extra.map (BitVec.ofNat 8)

/-- A part of a running program keeps a load from installing (R171). -/
def Cmd.runsProgram (c : Cmd) : Bool := c.plan.image.isSome

end Sys2Proof.Machine
end

