-- ==== Sys2Proof/Machine/Conv.lean ====
section
/-!
DEFINITION. Machine/Conv.lean: CONV (Chapter 10): convolution on the array, pooling and upsampling on the vector engine, with the
geometry, the staged input and its selvedge, and the seam of R257.
-/
namespace Sys2Proof.Machine

/-! ### Geometry (Tables 10-1 and 10-2) -/

/-- The geometry of a CONV: OP, PADMODE, and per axis (width, height, frames) the window, stride, dilation, factor and paddings. -/
structure Geo where
  op : Nat
  pad : Nat
  k : List Nat
  s : List Nat
  dl : List Nat
  u : List Nat
  pl : List Nat
  ph : List Nat
  groups : Nat
  tw : Nat
  excl : Bool

/-- OP of a CONV. -/
def Cmd.convOp (c : Cmd) : Nat := c.bits 62 0 3

/-- The geometry that a block holds (Table 10-2). -/
def parseGeo (c : Cmd) (b : List Byte) : Geo :=
  let three := fun off w => (List.range 3).map fun i => fieldAt b (off + w * i) w
  { op := c.convOp, pad := c.bits 62 3 2, k := three 0 1, s := three 3 1, dl := three 6 1, u := three 9 1, pl := three 12 2,
    ph := three 18 2, groups := fieldAt b 24 4, tw := bits (fieldAt b 28 1) 0 4, excl := bit (fieldAt b 29 1) 0 }

/-- A geometry as plain numbers, for a plan. -/
def Geo.nums (g : Geo) : List Nat :=
  [g.op, g.pad] ++ g.k ++ g.s ++ g.dl ++ g.u ++ g.pl ++ g.ph ++ [g.groups, g.tw, b2n g.excl]

/-- The geometry that a plan holds. -/
def Geo.ofNums (l : List Nat) : Geo :=
  let three := fun off => (l.drop off).take 3
  { op := l.getD 0 0, pad := l.getD 1 0, k := three 2, s := three 5, dl := three 8, u := three 11, pl := three 14, ph := three 17,
    groups := l.getD 20 0, tw := l.getD 21 0, excl := l.getD 22 0 == 1 }

/-- The first field of a geometry block that breaks Table 10-2 or holds a value that OP does not use (R247). -/
def geoBad (g : Geo) (b : List Byte) : Option Nat :=
  let win := decide (g.op ≤ 2)
  let up := g.op == 3 || g.op == 4
  let inR := fun lo hi v => decide (lo ≤ v) && decide (v ≤ hi)
  let tests : List (Nat × Bool) :=
    (List.range 9).map (fun i => (i, !(if win then inR 1 64 (fieldAt b i 1) else fieldAt b i 1 == 0))) ++
    (List.range 3).map (fun i => (9 + i, !(if up then inR 1 16 (fieldAt b (9 + i) 1) else fieldAt b (9 + i) 1 == 0))) ++
    (List.range 6).map (fun i => (12 + 2 * i, !(if win then inR 0 1023 (fieldAt b (12 + 2 * i) 2) else fieldAt b (12 + 2 * i) 2 == 0))) ++
    [(24, !(if g.op = 0 then decide (1 ≤ g.groups) else g.groups == 0)),
     (28, !(inR 0 9 g.tw || g.tw == 15) || bits (fieldAt b 28 1) 4 4 != 0),
     (29, bits (fieldAt b 29 1) 1 7 != 0 || (g.excl && g.op != 2) || fieldAt b 30 34 != 0)]
  (tests.find? (·.2)).map (·.1)

/-- Window element `kk` of output index `o` along an axis of input size `i`: the input index and whether it lies in range; none for an
absent element (R249, R250). -/
def Geo.tap (g : Geo) (ax i o kk : Nat) : Option (Nat × Bool) :=
  let p : Int := (o * g.s.getD ax 1 : Nat) - (g.pl.getD ax 0 : Nat) + (kk * g.dl.getD ax 1 : Nat)
  if 0 ≤ p && decide (p < i) then some (p.toNat, true)
  else if g.pad = 0 || i = 0 then none
  else if g.pad = 1 then some (if p < 0 then 0 else i - 1, false)
  else
    let r : Int := if p < 0 then -p else 2 * ((i : Int) - 1) - p
    some (r.toNat, false)

/-- KV. -/
def Geo.kv (g : Geo) : Nat := g.k.getD 0 1 * g.k.getD 1 1 * g.k.getD 2 1

/-- kw, kh and kt of window position π (R250). -/
def Geo.window (g : Geo) (pi : Nat) : List Nat :=
  let kw := g.k.getD 0 1
  let kh := g.k.getD 1 1
  [pi % kw, pi / kw % kh, pi / (kw * kh)]

/-- The input coordinates of a window position of an output position, and whether all were in range; none when absent (R249). -/
def Geo.src (g : Geo) (isz o : List Nat) (pi : Nat) : Option (List Nat × Bool) :=
  let t := fun ax => g.tap ax (isz.getD ax 1) (o.getD ax 0) ((g.window pi).getD ax 0)
  match t 0, t 1, t 2 with
  | some a, some b, some c => some ([a.1, b.1, c.1], a.2 && b.2 && c.2)
  | _, _, _ => none

/-- The FP32 value nearest the quotient of two naturals. -/
def ratNum (p q : Nat) : Num := if q = 0 then .nan else r32 (.fin false (p * 2 ^ 200 / q * 2 + b2n (p * 2 ^ 200 % q != 0)) (-201))

/-- The source indices of output index `o` of an axis under OP 4, with their weights (R259). -/
def Geo.lin (g : Geo) (ax i o : Nat) : List (Nat × Num) :=
  let u := g.u.getD ax 1
  if u ≤ 1 then [(o, .one)]
  else
    let q := o / u
    let r := o % u
    let up := decide (u ≤ 2 * r + 1)
    let i0 : Int := if up then q else (q : Int) - 1
    let f := if up then 2 * r + 1 - u else 2 * r + 1 + u
    let cl := fun (x : Int) => (clampInt 0 ((i : Int) - 1) x).toNat
    [(cl i0, ratNum (2 * u - f) (2 * u)), (cl (i0 + 1), ratNum f (2 * u))]

/-! ### What the items of a CONV share -/

/-- A CONV with its operands. -/
structure Cv where
  g : Geo
  x : Desc
  w : Desc
  y : Desc
  stages : List Stage
  stream : Bool
  accInt : Bool
  f : Nat
  tm : Nat
  tr : Bool

/-- The issued CONV. -/
def Cmd.cv (c : Cmd) : Cv :=
  let g := Geo.ofNums c.plan.extra
  { g := g, x := c.plan.desc 0, w := c.plan.desc 1, y := c.plan.desc 2, stages := c.plan.stages, stream := c.streamB && g.op == 0,
    accInt := c.accInt, f := c.factor, tm := c.plan.tm, tr := transposed c.plan.stages }

/-- Stages of a side. -/
def Cv.side (v : Cv) (sd : Nat) : List Stage := v.stages.filter fun st => st.side == sd && st.typ != 0x0A

/-- The format in which the array sees X (R128). -/
def Cv.xFmt (v : Cv) : Fmt := ((v.side 0).getLast?.map (·.sfmt)).getD v.x.fmt

/-- Sizes of X along width, height and frames. -/
def Cv.isz (v : Cv) : List Nat := [v.x.size 1, v.x.size 2, v.x.size 3]

/-- Output size along axis `ax` (R248); 0 where the rule gives none. -/
def Cv.osz (v : Cv) (ax : Nat) : Nat :=
  let i := v.x.size (ax + 1)
  if v.g.op ≥ 3 then i * v.g.u.getD ax 1
  else
    let n : Int := (i : Int) + v.g.pl.getD ax 0 + v.g.ph.getD ax 0 - (v.g.dl.getD ax 1 * (v.g.k.getD ax 1 - 1) : Nat) - 1
    (n.fdiv (v.g.s.getD ax 1) + 1).toNat

/-- Channels of Y. -/
def Cv.cout (v : Cv) : Nat := if v.tr then v.y.size 1 else v.y.size 0

/-- CG. -/
def Cv.cg (v : Cv) : Nat := v.x.size 0 / v.g.groups
/-- COG. -/
def Cv.cog (v : Cv) : Nat := v.cout / v.g.groups
/-- K. -/
def Cv.kk (v : Cv) : Nat := v.g.kv * v.cg

/-- PG (R253). -/
def Cv.pg (v : Cv) : Nat :=
  if v.g.op = 0 && !v.stream && !v.xFmt.isMx && !v.w.fmt.isMx && decide (v.kk ≤ 128) && decide (v.cog ≤ 128) && decide (0 < v.kk) &&
      decide (0 < v.cog) then min (min (128 / v.kk) (128 / v.cog)) v.g.groups
  else 1

/-- The format that streams. -/
def Cv.strFmt (v : Cv) : Fmt := if v.stream then v.w.fmt else v.xFmt
/-- The format that stands. -/
def Cv.staFmt (v : Cv) : Fmt := if v.stream then v.xFmt else v.w.fmt

/-- P of R251. -/
def Cv.p (v : Cv) : Nat := if v.stream then 128 else v.tm

/-- Tile width and height (R251). -/
def Cv.tile (v : Cv) : Nat × Nat :=
  let tc := min (min (v.osz 0) v.p) (if v.g.tw = 15 then v.p else 2 ^ v.g.tw)
  (tc, min (v.osz 1) (v.p / tc))

/-- TUW. -/
def Cv.tuw (v : Cv) : Nat := cdiv (v.osz 0) v.tile.1
/-- Spatial tiles of a frame. -/
def Cv.spatial (v : Cv) : Nat := cdiv (v.osz 1) v.tile.2 * v.tuw

/-- Column tiles of a group under STREAM = 0. -/
def Cv.perGroup (v : Cv) : Nat := cdiv v.cog 128

/-- The walk of a CONV (R252, Table 10-3). -/
def Cv.walk (v : Cv) (col : Bool) : Walk :=
  let chan := if v.g.op ≠ 0 then cdiv (v.x.size 0) 128
    else if v.stream then v.g.groups * cdiv v.cog v.tm
    else if v.pg ≤ 1 then v.g.groups * v.perGroup else cdiv v.g.groups v.pg
  if v.stream then ⟨v.osz 2, v.x.size 4, 1, chan, v.spatial, v.f, col⟩ else ⟨v.osz 2, v.x.size 4, 1, v.spatial, chan, v.f, col⟩

/-- Output positions of spatial tile `q`, row-major: (ow, oh) (R251). -/
def Cv.positions (v : Cv) (q : Nat) : List (Nat × Nat) :=
  let t := v.tile
  let uh := q / v.tuw
  let uw := q % v.tuw
  (upto (uh * t.2) (min ((uh + 1) * t.2) (v.osz 1))).flatMap fun oh =>
    (upto (uw * t.1) (min ((uw + 1) * t.1) (v.osz 0))).map fun ow => (ow, oh)

/-- The spatial tile of an item. -/
def Cv.tileNo (v : Cv) (it : Item) : Nat := if v.stream then it.v else it.u

/-- First group, number of groups, first output channel and its end of an item (R252, R253). -/
def Cv.chans (v : Cv) (it : Item) : Nat × Nat × Nat × Nat :=
  if v.g.op ≠ 0 then (0, 1, it.v * 128, tileEnd it.v 128 (v.x.size 0))
  else if v.stream then
    let n := cdiv v.cog v.tm
    let g := it.u / n
    (g, 1, g * v.cog + it.u % n * v.tm, g * v.cog + tileEnd (it.u % n) v.tm v.cog)
  else if v.pg ≤ 1 then
    let g := it.v / v.perGroup
    (g, 1, g * v.cog + it.v % v.perGroup * 128, g * v.cog + tileEnd (it.v % v.perGroup) 128 v.cog)
  else
    let g := it.v * v.pg
    let n := min v.pg (v.g.groups - g)
    (g, n, g * v.cog, (g + n) * v.cog)

/-- Columns that an item computes: its own, or the whole blocks or groups of 128 that hold them where a conversion or a statistic of
its epilogue spans them (R48, R130). [Log 34 DESIGN CHOICE] -/
def Cv.cols (v : Cv) (n0 n1 : Nat) : Nat × Nat :=
  let e := v.side 2
  let a := if e.any (·.typ == 0x07) then 128 else if v.y.fmt.isMx || e.any (·.sfmt.isMx) then 32 else 1
  (n0 / a * a, min (alignUp n1 a) v.cout)

/-- Chunks of an item (R83). -/
def Cv.chunks (v : Cv) (it : Item) : List Nat :=
  let q := splitChunks v.kk v.f it.p
  upto q.1 (q.1 + q.2)

/-- Channel block, window position and channel of a group at reduction index κ (R250). -/
def Cv.kappa (v : Cv) (k : Nat) : Nat × Nat × Nat :=
  let cb := k / (128 * v.g.kv)
  let w := min 128 (v.cg - 128 * cb)
  let r := k % (128 * v.g.kv)
  (cb, r / w, 128 * cb + r % w)

/-- Segments of a streamed row of a chunk (R254). -/
def Cv.segs (v : Cv) (n ch : Nat) : Nat :=
  let b := chunkBox v.kk ch
  n * (((upto b.1 b.2).map fun k => ((v.kappa k).1, (v.kappa k).2.1)).eraseDups).length

/-! ### Staging (R255, R257) -/

/-- Input coordinates along an axis that the outputs `os` touch, ascending: the window's rectangle, or the frames it names, with the
elements that padding maps to. -/
def Cv.axis (v : Cv) (ax : Nat) (os : List Nat) : List Nat :=
  let i := v.x.size (ax + 1)
  let hit :=
    if v.g.op = 3 then os.map fun o => o / v.g.u.getD ax 1
    else if v.g.op = 4 then os.flatMap fun o => ((v.g.lin ax i o).filter fun t => !t.2.isZero).map (·.1)
    else os.flatMap fun o => (List.range (v.g.k.getD ax 1)).filterMap fun k => (v.g.tap ax i o k).map (·.1)
  let lo := hit.foldl min i
  if ax = 2 then (List.range i).filter hit.contains else if hit.isEmpty then [] else upto lo (maxOf hit + 1)

/-- Staged input positions [iw, ih, it] of the output positions of a tile (frame `ot`). [Log 35 DEDUCED] -/
def Cv.staged (v : Cv) (ps : List (Nat × Nat)) (ot : Nat) : List (List Nat) :=
  let ws := v.axis 0 (ps.map (·.1)).eraseDups
  let hs := v.axis 1 (ps.map (·.2)).eraseDups
  (v.axis 2 [ot]).flatMap fun t => hs.flatMap fun h => ws.map fun w => [w, h, t]

/-- Channel blocks that an item stages: first channel of X and end, in the order of its chunks. [Log 35 DEDUCED] -/
def Cv.blocks (v : Cv) (it : Item) : List (Nat × Nat) :=
  let ch := v.chans it
  if v.g.op ≠ 0 then [(ch.2.2.1, ch.2.2.2)]
  else if v.pg > 1 then [(ch.1 * v.cg, (ch.1 + ch.2.1) * v.cg)]
  else
    let cbs := ((v.chunks it).flatMap fun c => let b := chunkBox v.kk c; (upto b.1 b.2).map fun k => (v.kappa k).1).eraseDups
    cbs.map fun cb => (ch.1 * v.cg + 128 * cb, ch.1 * v.cg + min (128 * cb + 128) v.cg)

/-- A staged block: its first channel, and for every staged position the values that enter the array or the vector engine. -/
structure StBlock where
  c0 : Nat
  pos : List (List Nat)
  vals : List (List Num)
  keys : List Key
  fl : Nat
  wr : List SideWr

/-- Position of a coordinate triple as one number, for flush keys. -/
def Cv.lin (v : Cv) (p : List Nat) : Nat := p.getD 0 0 + v.x.size 1 * (p.getD 1 0 + v.x.size 2 * p.getD 2 0)

/-- Stage channels [c0, c1) of positions `pos` of batch entry `n`, prologue included; `flds i` gives the random fields of staged
row `i` (R257). -/
def State.stageBlockX (s : State) (x : StCx) (v : Cv) (n c0 c1 : Nat) (pos : List (List Nat)) (flds : Nat → List (List Nat)) : StBlock :=
  let pro := v.side 0
  let rows := pos.zipIdx.map fun e =>
    let ix := e.1 ++ [n]
    let es := (upto c0 c1).map fun c => (s.elemNum x.ftz v.x c ix, c)
    let keys := es.filterMap fun q => if q.1.2 = 0 then none else some (v.x.at_, q.2, v.lin e.1)
    if pro.isEmpty then (es.map fun q => if v.g.op = 0 then q.1.1 else widen v.x.fmt q.1.1, keys, 0, [])
    else
      let r := s.runStages { x with b := [] } pro n c0
        ⟨es.map fun q => widen v.x.fmt q.1.1, v.x.fmt.isMx, flds e.2, ([], [], 0), v.x.fmt, [], 0, []⟩
      (if v.g.op = 0 then exactVals r.fmt r.codes es.length else r.vals, keys ++ r.keys, r.fl, r.wr)
  ⟨c0, pos, rows.map (·.1), rows.flatMap (·.2.1), sumOf (rows.map (·.2.2.1)), rows.flatMap (·.2.2.2)⟩

/-- The staged value at a coordinate and a channel of X. -/
def StBlock.at (b : StBlock) (p : List Nat) (c : Nat) : Num := ((b.vals[b.pos.idxOf p]?).getD []).getD (c - b.c0) .zero

/-- The staged value at a coordinate and channel among blocks. -/
def blockAt (bs : List StBlock) (p : List Nat) (c : Nat) : Num :=
  match bs.find? fun b => decide (b.c0 ≤ c) && decide (c < b.c0 + ((b.vals.headD []).length)) with
  | some b => b.at p c
  | none => .zero

/-- Words that the staging of an item reads. [Log 83 DEDUCED] -/
def Cv.stageIn (v : Cv) (it : Item) : List Nat :=
  let pos := v.staged (v.positions (v.tileNo it)) (it.b.getD 0 0)
  (v.blocks it).flatMap fun b => pos.flatMap fun p => v.x.runWords b.1 (b.2 - b.1) (p ++ [it.b.getD 1 0])

/-- Rows of m of an item: oh·OW + ow (R257). -/
def Cv.mRow (v : Cv) (p : Nat × Nat) : Nat := p.2 * v.osz 0 + p.1

/-! ### Output -/

/-- Regions that an item writes; `owner` when it runs the epilogue. -/
def Cv.regions (v : Cv) (it : Item) (owner : Bool) : List Region :=
  let ps := v.positions (v.tileNo it)
  let ch := v.chans it
  let n0 := ch.2.2.1
  let n1 := ch.2.2.2
  let y := if v.tr then (upto n0 n1).flatMap fun n => ps.map fun p => Region.mk v.y (v.mRow p) 1 [n, it.b.getD 0 0, it.b.getD 1 0, 0]
    else ps.map fun p => Region.mk v.y n0 (n1 - n0) [p.1, p.2, it.b.getD 0 0, it.b.getD 1 0]
  let epi := (v.side 2).flatMap fun st => match st.typ, st.d1 with
    | 0x09, some d => ps.map fun p => Region.mk d n0 (n1 - n0) (v.mRow p :: it.b)
    | 0x07, some d => ps.map fun p => Region.mk d (2 * (n0 / 128)) (2 * (cdiv n1 128 - n0 / 128)) (v.mRow p :: it.b)
    | _, _ => []
  let pro := (v.side 0).flatMap fun st => match st.typ, st.d1 with
    | 0x09, some d => (v.blocks it).map fun b => Region.mk d b.1 (b.2 - b.1) [it.b.getD 1 0, 0, 0, 0]
    | _, _ => []
  (if owner then y ++ epi else []) ++ pro

/-- The prologue's side outputs: with one staged position its value, else a free one, since every position of a batch entry writes the
same row (R257). [Log 34 DESIGN CHOICE] -/
def State.proSide (s : State) (single : Bool) (wr : List SideWr) : State :=
  if single then s.sideRuns wr
  else wr.foldl (fun t w => match w with
    | .run d i0 ix r => t.freeRun d i0 r.1.length ix
    | .kv _ _ _ _ => t) s

/-- Store the values of output row `p` at channels from `n0`, with their store fields; answers the flush count (R133). [Log 34 DESIGN CHOICE] -/
def State.cvStore (s : State) (c : Cmd) (v : Cv) (b : List Nat) (p : Nat × Nat) (n0 : Nat) (vals : List (Num × Nat)) : State × Nat :=
  if v.tr then
    vals.zipIdx.foldl (fun (t : State × Nat) e =>
      let ix := [n0 + e.2, b.getD 0 0, b.getD 1 0, 0]
      if v.y.fmt.isMx then (t.1.freeRun v.y (v.mRow p) 1 ix, t.2)
      else
        let r := convertRun c.ftz c.cvt v.y.fmt [e.1]
        (t.1.writeRun v.y (v.mRow p) ix r, t.2 + r.2.2)) (s, 0)
  else
    let r := convertRun c.ftz c.cvt v.y.fmt vals
    (s.writeRun v.y n0 [p.1, p.2, b.getD 0 0, b.getD 1 0] r, r.2.2)

/-- Fields of output element (position number `i`, channel `n`) of an item. -/
def Cv.elemFields (v : Cv) (c : Cmd) (n0 n1 : Nat) (tab : List (List Nat)) (i n : Nat) : List Nat :=
  let k := stochCount (v.side 2) + b2n c.cvt.stoch
  if k = 0 || n < n0 || n1 ≤ n then []
  else if v.stream then laneFields tab i (n - n0) k
  else if v.g.op = 0 then laneFields tab (n - n0) i k
  else laneFields tab (n % 128) i k

/-- The fields that the epilogue of an item takes from each lane, and the lanes after it (R279). -/
def Cv.epiFields (v : Cv) (c : Cmd) (it : Item) (ls : List Lane) : List (List Nat) × List Lane :=
  let n := stochCount (v.side 2) + b2n c.cvt.stoch
  let ch := v.chans it
  let np := (v.positions (v.tileNo it)).length
  let nc := ch.2.2.2 - ch.2.2.1
  if n = 0 then ([], ls) else drawLanes (fun l => if l < (if v.stream then np else nc) then (if v.stream then nc else np) * n else 0) ls

/-- Finish the output tile of an item: epilogue and final store; `rows` holds for each position the results of the computed columns
(R133, R257). -/
def PartRun.cvFinish (r : PartRun) (c : Cmd) (cl : Nat) (v : Cv) (it : Item) (rows : List (List Num)) (tab : List (List Nat)) : PartRun :=
  let ch := v.chans it
  let n0 := ch.2.2.1
  let n1 := ch.2.2.2
  let cc := v.cols n0 n1
  let ps := v.positions (v.tileNo it)
  let x := c.stCx r.s cl it.b v.kk
  let r := r.read ((v.side 2).flatMap fun st => r.s.stageWords x st (ps.map v.mRow) cc.1 cc.2)
  if r.status != 0 then r
  else
    let s0 := r.s
    let fin := (ps.zip rows).zipIdx.map fun e =>
      let fs := (upto cc.1 cc.2).map fun n => v.elemFields c n0 n1 tab e.2 n
      let sg := s0.runStages x (v.side 2) (v.mRow e.1.1) cc.1 ⟨e.1.2, false, fs, ([], [], 0), .fp32, [], 0, []⟩
      (e.1.1, (sg.vals.zip fs).map (fun q => (q.1, lastField q.2)), sg)
    let s1 := fin.foldl (fun t e => t.sideRuns e.2.2.wr) r.s
    let st := fin.foldl (fun (t : State × Nat) e =>
      let wide := v.y.fmt.isMx && !v.tr
      let vals := if wide then e.2.1 else (e.2.1.drop (n0 - cc.1)).take (n1 - n0)
      let q := t.1.cvStore c v it.b e.1 (if wide then cc.1 else n0) vals
      (q.1, t.2 + q.2)) (s1, 0)
    let fl := (fin.flatMap fun e => e.2.2.keys).eraseDups.length + sumOf (fin.map fun e => e.2.2.fl) + st.2
    { r with s := st.1, fl := r.fl + fl }

/-! ### OP 0 on the array -/

/-- Words of W that an item reads: its output channels, the channels and window positions of its chunks. -/
def Cv.wWords (v : Cv) (it : Item) : List Nat :=
  let ch := v.chans it
  let cc := v.cols ch.2.2.1 ch.2.2.2
  ((v.chunks it).flatMap fun c => let b := chunkBox v.kk c; (upto b.1 b.2).flatMap fun k =>
    let q := v.kappa k
    (upto cc.1 cc.2).flatMap fun co => v.w.runWords q.2.2 1 (co :: v.g.window q.2.1)).eraseDups

/-- The random fields of the prologue of staged row `i` of block number `bi` (R279). -/
def proFields (np npos : Nat) (tab : List (List Nat)) (bi width : Nat) (i : Nat) : List (List Nat) :=
  (List.range width).map fun l => laneFields tab l (bi * npos + i) np

/-- Draw the prologue fields of an item, lane = channel within its block. [Log 26 DEDUCED] -/
def Cv.proDraw (v : Cv) (it : Item) (npos : Nat) (ls : List Lane) : List (List Nat) × List Lane :=
  let np := stochCount (v.side 0)
  if np = 0 then ([], ls)
  else drawLanes (fun l => np * npos * ((v.blocks it).filter fun b => decide (l < b.2 - b.1)).length) ls

/-- The staged blocks of an item. -/
def State.cvStage (s : State) (c : Cmd) (cl : Nat) (v : Cv) (it : Item) (tab : List (List Nat)) : List StBlock :=
  let pos := v.staged (v.positions (v.tileNo it)) (it.b.getD 0 0)
  let np := stochCount (v.side 0)
  (v.blocks it).zipIdx.map fun b =>
    s.stageBlockX (c.stCx s cl it.b v.kk) v (it.b.getD 1 0) b.1.1 b.1.2 pos fun i =>
      if np = 0 then (List.range (b.1.2 - b.1.1)).map fun _ => [] else proFields np pos.length tab b.2 (b.1.2 - b.1.1) i

/-- Run one item of OP 0 (R250 to R257). [Log 35 DEDUCED] -/
def PartRun.convItem (c : Cmd) (cl : Nat) (r : PartRun) (it : Item) : PartRun :=
  let v := c.cv
  let ch := v.chans it
  let cc := v.cols ch.2.2.1 ch.2.2.2
  let ps := v.positions (v.tileNo it)
  let chs := v.chunks it
  let spos := v.staged ps (it.b.getD 0 0)
  let x := c.stCx r.s cl it.b v.kk
  let pw := (v.side 0).flatMap fun st => (v.blocks it).flatMap fun b => r.s.stageWords { x with b := [] } st [it.b.getD 1 0] b.1 b.2
  let r := r.read (v.stageIn it ++ v.wWords it ++ pw)
  if r.status != 0 then r
  else
    let s := r.s
    let pd := v.proDraw it spos.length r.lanes
    let bs := s.cvStage c cl v it pd.1
    let a := fun (g : Nat) (p : Nat × Nat) (k : Nat) =>
      let q := v.kappa k
      (v.g.src v.isz [p.1, p.2, it.b.getD 0 0] q.2.1).map fun t => blockAt bs t.1 (g * v.cg + q.2.2)
    let w := fun (co k : Nat) => let q := v.kappa k; s.mmElem c.ftz v.w 0 q.2.2 co (v.g.window q.2.1)
    let ks := chs.map fun n => let b := chunkBox v.kk n; upto b.1 b.2
    let ws := (upto cc.1 cc.2).map fun co => (co, ks.map fun l => l.map fun k => w co k)
    let entries := ps.map fun p => ws.map fun e =>
      accEntry c.ftz v.accInt (List.zipWith (fun l wl => (l.zip wl).filterMap fun q => (a (e.1 / v.cog) p q.1).map fun t => t.mul q.2.1) ks e.2)
    let d := v.strFmt.digits
    let gs := upto ch.1 (ch.1 + ch.2.1)
    let passes := (chs.zip ks).zipIdx.map fun e =>
      let sg := cdiv (v.segs ch.2.1 e.1.1) 8
      if v.stream then
        let ls := (ws.filter fun q => decide (ch.2.2.1 ≤ q.1) && decide (q.1 < ch.2.2.2)).map fun q => rowLen d ((q.2.getD e.2 []).map (·.1))
        Pass.mk (sumOf ls) (d * ls.length) (max (loadTime v.staFmt) (cdiv (v.segs 1 e.1.1 * ps.length) 8)) 0
      else
        let ls := ps.map fun p => rowLen d (gs.flatMap fun g => e.1.2.filterMap fun k => a g p k)
        Pass.mk (sumOf ls) (d * ls.length) (loadTime v.staFmt) (sumOf (ls.map fun l => max l sg - l))
    let own := entries.map fun row => (row.drop (ch.2.2.1 - cc.1)).take (ch.2.2.2 - ch.2.2.1)
    let keys := (bs.flatMap (·.keys) ++ ws.flatMap fun e => e.2.flatMap fun l => l.flatMap (·.2)).eraseDups
    let fl := keys.length + sumOf (bs.map (·.fl)) + sumOf (own.flatMap fun q => q.map (·.2))
    let s1 := s.proSide (spos.length ≤ 1) (bs.flatMap (·.wr))
    let owner := it.p == 0
    let ed := if owner then v.epiFields c it pd.2 else ([], pd.2)
    let rows := entries.map fun row => row.map (·.1)
    let r := { r with s := s1, lanes := ed.2, fl := r.fl + fl, passes := r.passes ++ passes }
    if v.f = 1 then r.cvFinish c cl v it rows ed.1
    else if owner || !chs.isEmpty then
      { r with tiles := r.tiles ++ [⟨it.t / v.f, it.p, rows.map fun row => row.map (entryCode v.accInt), [], 1, ed.1⟩] }
    else r

/-! ### OP 1 to 4 on the vector engine (R258, R259) -/

/-- A pooled value of channel `ch` at an output position (Table 10-6), with its flush count. [Log 35 DEDUCED] -/
def Cv.pool (v : Cv) (ftz : Bool) (bs : List StBlock) (o : List Nat) (ch : Nat) : Num × Nat :=
  let taps := (List.range v.g.kv).map fun pi => v.g.src v.isz o pi
  match v.g.op with
  | 1 => ((taps.filterMap id).foldl (fun (m : Num) t => m.max (blockAt bs t.1 ch)) (.inf true), 0)
  | 2 =>
    let term := fun (t : Option (List Nat × Bool)) => match t with
      | some q => if v.g.excl && !q.2 then none else some (blockAt bs q.1 ch)
      | none => if v.g.excl then none else some .zero
    let cnt := if v.g.excl then (taps.filter fun t => (t.map (·.2)).getD false).length else v.g.kv
    let r := accChunks ftz ((groups128 (taps.length + 1) taps).map fun g => chunkSum ftz (g.filterMap term))
    if cnt = 0 then (.zero, 0)
    else
      let y := rne ftz ((r.1.getD .zero).mul (ratNum 1 cnt))
      (y.1, r.2 + y.2)
  | 3 => (blockAt bs [o.getD 0 0 / v.g.u.getD 0 1, o.getD 1 0 / v.g.u.getD 1 1, o.getD 2 0 / v.g.u.getD 2 1] ch, 0)
  | _ =>
    let ax := fun i => v.g.lin i (v.x.size (i + 1)) (o.getD i 0)
    let terms := (ax 0).flatMap fun a => (ax 1).flatMap fun b => (ax 2).filterMap fun d =>
      let w := (a.2.mul b.2).mul d.2
      if w.isZero then none else some (w.mul (blockAt bs [a.1, b.1, d.1] ch))
    rne ftz (sumNum terms)

/-- A run of an MX row copied with its scales, in whole blocks (R53). [Log 27 DEDUCED] -/
def State.mxRun (s : State) (d : Desc) (i0 n : Nat) (ix : List Nat) : List Nat × List Nat × Nat :=
  let codes := (upto i0 (i0 + n)).map fun i => s.elemCode d i ix
  (codes ++ List.replicate (alignUp n 32 - n) 0,
    (List.range (cdiv n 32)).map fun b => (s.byteAt (d.scaleAddr (i0 / 32 + b) ix)).toNat, 0)

/-- A copy of a run of a row under R53 and R67: bits are kept where the formats agree, else each element is converted. [Log 27 DEDUCED] -/
def State.copyRun (s : State) (ftz : Bool) (cv : Cvt) (o d : Desc) (i0 n : Nat) (ix : List Nat) (fs : List Nat) :
    (List Nat × List Nat × Nat) × List Key :=
  let es := (upto i0 (i0 + n)).map fun i =>
    let g := flushIn ftz d.fmt (s.elemCode d i ix)
    (VEl.mk d.fmt g.1 (s.elemNum ftz d i ix).1 [], if g.2 = 0 then [] else [(d.at_, i, d.scaleAddr 0 ix)])
  (if o.fmt.isMx && d.fmt == o.fmt && i0 % 32 == 0 then s.mxRun d i0 n ix
   else convertRes ftz cv o.fmt (es.zipIdx.map fun e => (.raw e.1.1, fs.getD e.2 0)), es.flatMap (·.2))

/-- Run one item of OP 1 to 4. [Log 35 DEDUCED] -/
def PartRun.poolItem (c : Cmd) (cl : Nat) (r : PartRun) (it : Item) : PartRun :=
  let v := c.cv
  let ch := v.chans it
  let n0 := ch.2.2.1
  let n1 := ch.2.2.2
  let ps := v.positions (v.tileNo it)
  let spos := v.staged ps (it.b.getD 0 0)
  let x := c.stCx r.s cl it.b v.kk
  let pw := (v.side 0).flatMap fun st => r.s.stageWords { x with b := [] } st [it.b.getD 1 0] n0 n1
  let r := r.read (v.stageIn it ++ pw)
  if r.status != 0 then r
  else
    let s := r.s
    let pd := v.proDraw it spos.length r.lanes
    let bs := s.cvStage c cl v it pd.1
    let ed := v.epiFields c it pd.2
    let keys := (bs.flatMap (·.keys)).eraseDups.length
    let s1 := s.proSide (spos.length ≤ 1) (bs.flatMap (·.wr))
    let fl := keys + sumOf (bs.map (·.fl))
    let r : PartRun := { r with s := s1, lanes := ed.2, fl := r.fl + fl }
    if v.g.op = 3 && v.stages.isEmpty then
      let out := ps.zipIdx.map fun e =>
        let ix := [e.1.1 / v.g.u.getD 0 1, e.1.2 / v.g.u.getD 1 1, it.b.getD 0 0 / v.g.u.getD 2 1, it.b.getD 1 0]
        (e.1, (s.copyRun c.ftz c.cvt v.y v.x n0 (n1 - n0) ix ((upto n0 n1).map fun n => lastField (v.elemFields c n0 n1 ed.1 e.2 n))).1)
      { r with s := out.foldl (fun t e => t.writeRun v.y n0 [e.1.1, e.1.2, it.b.getD 0 0, it.b.getD 1 0] e.2) r.s,
               fl := r.fl + sumOf (out.map fun e => e.2.2.2) }
    else
      let rows := ps.map fun p => (upto n0 n1).map fun n => v.pool c.ftz bs [p.1, p.2, it.b.getD 0 0] n
      let n := sumOf (rows.flatMap fun q => q.map (·.2))
      let r : PartRun := { r with fl := r.fl + n }
      r.cvFinish c cl v it (rows.map fun q => q.map (·.1)) ed.1

/-! ### Checks -/

/-- Stage types that a prologue of CONV may hold, and those that no CONV may (R257). -/
def convStageOk (st : Stage) : Bool :=
  if st.side = 0 then [0x01, 0x02, 0x03, 0x05, 0x09].contains st.typ else st.typ != 0x06 && st.typ != 0x0B

/-- Check 6: the operand area and the geometry block (R247). -/
def convArea (s : State) (c : Cmd) : Chk Geo := do
  let a := c.addrAt 56
  ensure (c.convOp == 0 || c.addrAt 38 == 0) (rejAddr 0x50 2 (c.addrAt 38))
  ensure (decide (c.convOp ≤ 4) && c.bits 62 3 2 != 3 && c.bits 62 5 3 == 0) (rejCmd 0x50 62)
  reservedFrom c 0x50 63 63
  ensure (c.convOp == 0 || c.split == 0) (rejCmd 0x50 3)
  ensure (a % 64 == 0) (rejAddr 0x50 6 a)
  let b ← readStruct s 6 a 64
  match geoBad (parseGeo c b) b with
  | some off => throw (rejIn 0x50 6 a off)
  | none => return parseGeo c b

/-- The format rules of R248: `pro` when a stage list may change X's format. -/
def convFormats (c : Cmd) (pro : Bool) (ds : List Desc) : Chk Unit := do
  let int2 := fun (f : Fmt) => f == .int16 || f == .int32
  let i8 := fun (f : Fmt) => f == .int8 || f == .uint8
  let x := ds.headD .nil
  let y := ds.getLastD .nil
  let w := ds.getD 1 .nil
  ensure (if c.convOp = 0 then pro || x.fmt.isArray else !int2 x.fmt) (rejIn 0x50 1 x.at_ 6)
  ensure (c.convOp != 0 || w.fmt.isArray) (rejIn 0x50 2 w.at_ 6)
  ensure (!int2 y.fmt) (rejIn 0x50 3 y.at_ 6)
  ensure (!(c.accInt && c.convOp == 0) || ((pro || i8 x.fmt) && i8 w.fmt)) (rejCmd 0x03 1)

/-- Check 8: the sizes of R248. -/
def convSizes (v : Cv) (dg : Nat) : List (Bool × Rej) :=
  let gAt := fun off => rejIn 0x51 6 dg off
  let yAt := fun k => rejIn 0x51 3 v.y.at_ (8 + 4 * k)
  let wAt := fun k => rejIn 0x51 2 v.w.at_ (8 + 4 * k)
  let grp : List (Bool × Rej) := if v.g.op ≠ 0 then [] else
    [(v.x.size 0 % v.g.groups == 0 && v.cout % v.g.groups == 0, gAt 24), (!(v.xFmt.isMx || v.w.fmt.isMx) || v.cg % 32 == 0, gAt 24),
     (v.w.size 0 == v.cg, wAt 0), (v.w.size 1 == v.cout, wAt 1)] ++
      (List.range 3).map fun i => (v.w.size (2 + i) == v.g.k.getD i 1, wAt (2 + i))
  let pads : List (Bool × Rej) := if v.g.op ≤ 2 && v.g.pad = 2 then
      (List.range 3).flatMap fun i =>
        [(decide (v.g.pl.getD i 0 + 1 ≤ v.x.size (i + 1)) || v.g.pl.getD i 0 == 0, gAt (12 + 2 * i)),
         (decide (v.g.ph.getD i 0 + 1 ≤ v.x.size (i + 1)) || v.g.ph.getD i 0 == 0, gAt (18 + 2 * i))]
    else []
  let want := if v.tr then [v.osz 0 * v.osz 1, v.cout, v.osz 2, v.x.size 4, 1] else [v.cout, v.osz 0, v.osz 1, v.osz 2, v.x.size 4]
  let out := (List.range 5).map fun k => (v.y.size k == want.getD k 1, yAt k)
  let ch : List (Bool × Rej) := if v.g.op = 0 then [] else [(v.cout == v.x.size 0, yAt (b2n v.tr))]
  let one := if v.g.op ≤ 2 then (List.range 3).map fun i => (decide (1 ≤ v.osz i), yAt (i + 1)) else []
  grp ++ pads ++ ch ++ one ++ out

/-- SEL in bytes, and its scale bytes (Table 10-4). -/
def Cv.sel (v : Cv) : Nat × Nat :=
  let t := v.tile
  let ext := fun (ax n : Nat) =>
    let i := v.x.size (ax + 1)
    if v.g.op ≤ 2 then min i ((n - 1) * v.g.s.getD ax 1 + (v.g.k.getD ax 1 - 1) * v.g.dl.getD ax 1 + 1)
    else min i (cdiv n (v.g.u.getD ax 1) + 1)
  let kts := if v.g.op ≤ 2 then min (v.x.size 3) (v.g.k.getD 2 1)
    else if v.g.op = 4 && v.g.u.getD 2 1 > 1 then min (v.x.size 3) 2 else 1
  let cs := if v.g.op = 0 then min 128 (v.pg * v.cg) else 128
  let n := kts * ext 1 t.2 * ext 0 t.1
  (n * cs * v.x.fmt.width / 8, if v.x.fmt.isMx then n * cdiv cs 32 else 0)

/-- Buffer need in units (R255). -/
def Cv.need (v : Cv) (split : Nat) (single : Bool) : Nat :=
  let e := v.sel
  let sel := unitsOf (2 * e.1) + unitsOf (2 * e.2)
  let sm := seamBytes v.stream v.tm v.stages
  if v.g.op = 0 then
    sel + unitsOf ((if single then 1 else 2) * stBytes v.staFmt + (if v.stream then 2 * v.tm * srBytes v.strFmt else 0) +
      otBytes v.tm v.y.fmt + (if 2 ≤ split then v.tm * 512 else 0) + sm)
  else sel + unitsOf (otBytes v.tm v.y.fmt) + unitsOf (v.tm * 512) + unitsOf sm

/-- Issue-time count of an item of OP 0 (R256, R584). -/
def Cv.countItem (v : Cv) (progs : Nat → Nat) (load : Nat) (it : Item) : ItemCount :=
  let ch := v.chans it
  let np := (v.positions (v.tileNo it)).length
  let nc := ch.2.2.2 - ch.2.2.1
  let d := v.strFmt.digits
  let ps := (v.chunks it).map fun c =>
    let sg := cdiv (v.segs ch.2.1 c) 8
    if v.stream then Pass.mk (nc * d) (nc * d) (max (loadTime v.staFmt) (cdiv (v.segs 1 c * np) 8)) 0
    else Pass.mk (np * d) (np * d) (loadTime v.staFmt) (np * (max d sg - d))
  if v.stages.isEmpty then ⟨ps, 0, 0, 0⟩
  else
    let rows := (v.staged (v.positions (v.tileNo it)) (it.b.getD 0 0)).length
    let pro := sumOf ((v.blocks it).map fun b => rows * sideCost progs 0 load 0 b.1 b.2 v.stages)
    let epi := if it.p = 0 then (if v.stream then nc else np) * sideCost progs 0 load 2 ch.2.2.1 ch.2.2.2 v.stages else 0
    ⟨ps, pro, 0, epi⟩

/-- V of OP 1 to 4 (Table 10-6). -/
def Geo.poolCost (g : Geo) : Nat :=
  match g.op with
  | 1 => g.kv
  | 2 => g.kv + 1
  | 3 => 1
  | _ => 2 ^ (g.u.filter (1 < ·)).length

/-- Issue-time count of an item of OP 1 to 4 (R256), the stages of its seam included (R135). -/
def Cv.poolTime (v : Cv) (progs : Nat → Nat) (load : Nat) (it : Item) : Nat :=
  let ch := v.chans it
  let g := (v.positions (v.tileNo it)).length
  let here := (v.side 2).filter fun st => st.winMeets ch.2.2.1 ch.2.2.2
  let sv := sumOf (here.map fun st => (stageCost progs 0 st).1)
  let sg := sumOf (here.map fun st => (stageCost progs 0 st).2)
  let rows := (v.staged (v.positions (v.tileNo it)) (it.b.getD 0 0)).length
  rows * sideCost progs 0 load 0 ch.2.2.1 ch.2.2.2 v.stages + vecItem g (max 1 (max (v.g.poolCost + sv) (load * sg))) 0

/-- The issue-time count of a CONV. -/
def Cv.count (v : Cv) (s : State) (c : Cmd) (span : List Nat) (w : Walk) : Nat :=
  let st := stochAny c v.stages
  let load := fun cl => pipeLoad (s.getF F.sfuPipemapRetired cl)
  if v.g.op = 0 then
    maxOf (span.zipIdx.map fun e => clusterCount st ((w.itemsOf span.length e.2).map (v.countItem (s.progsOf span) (load e.1))))
  else vecCount st span w fun cl it => v.poolTime (s.progsOf span) (load cl) it

/-- The checks of CONV (R268). -/
def convCheck (kv : KvCheck) (s : State) (c : Cmd) : Chk Plan := do
  let p := s.partOf c.ctx
  let cs ← commonChecks s c (pure ())
  let op := c.convOp
  let dg := c.addrAt 56
  let dsAddr := c.addrAt 50
  let refs : List DRef := [⟨1, c.addrAt 32, fun _ => true, [0]⟩] ++ (if op = 0 then [⟨2, c.addrAt 38, fun _ => true, [0]⟩] else []) ++
    [⟨3, c.addrAt 44, fun _ => true, [0]⟩]
  let ds ← loadDescs s c refs (do addrIn s p 0x05 6 dg 64; let _ ← convArea s c) (convFormats c (dsAddr != 0))
  let g := parseGeo c (s.bytesAt dg 64)
  let nil : Opd := (0, .nil)
  let x := ds.headD nil
  let y := ds.getLastD nil
  let w := if op = 0 then ds.getD 1 nil else nil
  let v0 : Cv := { g := g, x := x.2, w := w.2, y := y.2, stages := [], stream := c.streamB && op == 0, accInt := c.accInt, f := c.factor, tm := 1,
                   tr := false }
  let q0 : SeamCmd := { op := 4, stream := v0.stream, accInt := c.accInt && op == 0, m := 0, n := 0, k := 0, h := 0, batch := [] }
  let list ← seamHead s c q0 y.2.fmt false false 4 dsAddr
  let raw := (list.map (·.stages)).getD []
  match list, raw.findIdx? fun st => !convStageOk st with
  | some l, some i => throw (rejIn 0x20 6 (l.addr + 32 + 32 * i) 0)
  | _, _ => pure ()
  let v1 := { v0 with stages := raw, tr := transposed raw }
  ensure (op != 0 || v1.xFmt.isArray) (rejIn 0x50 1 x.2.at_ 6)
  ensure (!v1.accInt || op != 0 || v1.xFmt == .int8 || v1.xFmt == .uint8) (rejCmd 0x03 1)
  ensureAll (convSizes v1 dg)
  let rm0 := removedTm v1.stream v1.tr y.2.fmt raw
  itemCheck ({ v1 with tm := tmSmallest rm0 }.walk c.walkCol)
  let q := { q0 with m := v1.osz 0 * v1.osz 1, n := v1.cout, k := v1.x.size 0, batch := [v1.osz 2, v1.x.size 4, 1],
                     pro := some (v1.x.size 4, [1, 1, 1]) }
  let sts ← seamBody kv s c q cs list
  let v2 := { v1 with stages := sts }
  rangeCheck s p 0x05 ds
  overlapCheck (fun i o => o.1 == 3 && resaddAlias sts i o) ((if op = 0 then [x, w] else [x]) ++ stageIns sts) (y :: stageOuts sts)
  let t ← tileCheck s c (v2.osz 0 * v2.osz 1) rm0 fun tm single => { v2 with tm := tm }.need c.split single
  let v := { v2 with tm := t.1 }
  let wk := v.walk c.walkCol
  let cnt := v.count s c cs wk
  countCheck s c cnt
  return { descs := [x.2, w.2, y.2], outIx := 2, stages := sts, walk := wk, tm := t.1, gw := 0, single := t.2.1, units := t.2.2,
           count := cnt, image := imageOf s cs sts, extra := g.nums }

/-- A CONV of a given OP; OP 5 to 7, which no OP is, belong to the row of OP 0 and are rejected there. [Log 18 DESIGN CHOICE] -/
def isConv (op : Nat) (c : Cmd) : Bool := c.opcode == 0x04 && (c.convOp == op || (op == 0 && decide (5 ≤ c.convOp)))

end Sys2Proof.Machine
end

