-- ==== Sys2Proof/Machine/Copy.lean ====
section
/-!
DEFINITION. Machine/Copy.lean: MOVE, GATHER, SCATTER and CROPRS (Chapter 10), and the poison that copies move (R510).
-/
namespace Sys2Proof.Machine

/-! ### Rows that are copied -/

/-- A run of a row copied or converted, dimension 0 of the source broadcast where its size is 1 (R262, R53). -/
def State.copyRow (s : State) (ftz : Bool) (cv : Cvt) (o d : Desc) (i0 n : Nat) (ix : List Nat) (fs : List Nat) :
    (List Nat × List Nat × Nat) × List Key :=
  if d.size 0 = 1 && o.size 0 != 1 then
    let g := flushIn ftz d.fmt (s.elemCode d 0 ix)
    let e : VEl := ⟨d.fmt, g.1, (s.elemNum ftz d 0 ix).1, []⟩
    (convertRes ftz cv o.fmt ((List.range n).map fun i => (.raw e, fs.getD i 0)), if g.2 = 0 then [] else [(d.at_, 0, d.scaleAddr 0 ix)])
  else s.copyRun ftz cv o d i0 n ix fs

/-- Words of the source of a copied run. -/
def Desc.copyWords (d o : Desc) (i0 n : Nat) (ix : List Nat) : List Nat :=
  if d.size 0 = 1 && o.size 0 != 1 then d.runWords 0 1 ix else d.runWords i0 n ix

/-- The words of a destination run that take a byte from a poisoned source burst (R510); `s` is the state the source is read from. [Log 36 DEDUCED] -/
def State.movedPoison (s : State) (o d : Desc) (i0 n : Nat) (ox ix : List Nat) : List Nat :=
  if !s.anyPoison (d.copyWords o i0 n ix) then []
  else (upto i0 (i0 + n)).flatMap fun i =>
    if s.anyPoison (d.copyWords o i 1 ix) then o.runWords i 1 ox else []

/-- Mark words as poison, but on a lost site (R326, R330). [Log 15 DEDUCED] -/
def State.markWords (s : State) (ws : List Nat) : State :=
  ws.foldl (fun t w => if t.siteLost (wordSite w) then t else t.setDev w pzDev) s

/-- A destination run that is to be written: its place, its encodings, the words to be marked as poison. -/
structure CopyOut where
  i0 : Nat
  ix : List Nat
  run : List Nat × List Nat × Nat
  keys : List Key
  bad : List Nat

/-- Perform copied runs, in order. -/
def PartRun.putCopies (r : PartRun) (o : Desc) (lanes : List Lane) (out : List CopyOut) : PartRun :=
  let s := out.foldl (fun (t : State) e => (t.writeRun o e.i0 e.ix e.run).markWords e.bad) r.s
  let fl := (out.flatMap (·.keys)).eraseDups.length + sumOf (out.map fun e => e.run.2.2)
  { r with s := s, lanes := lanes, fl := r.fl + fl, poison := r.poison || out.any fun e => !e.bad.isEmpty }

/-- Read the source words of a copy: a transfer that only copies bytes does not consume poison (R510). [Log 36 DEDUCED] -/
def PartRun.readSource (r : PartRun) (moves : Bool) (ws : List Nat) : PartRun :=
  if moves then { r with s := r.s.readWords ws.eraseDups } else r.read ws

/-! ### MOVE (R262 to R264) -/

/-- Insert a dimension into a list that ascends in its strides. -/
def insStride (e : Nat × Nat) : List (Nat × Nat) → List (Nat × Nat)
  | [] => [e]
  | f :: t => if e.1 ≤ f.1 then e :: f :: t else f :: insStride e t

/-- Some destination elements share bytes: a stride below the byte extent of the dimensions beneath it (R262). -/
def Desc.aliases (d : Desc) : Bool :=
  let dims := (upto 1 d.rank).filterMap fun k => if d.size k ≤ 1 then none else some ((d.stride k).natAbs, d.size k)
  let sorted := dims.foldr insStride []
  !d.empty && (sorted.foldl (fun (a : Bool × Nat) e => (a.1 || decide (e.1 < a.2), a.2 + (e.2 - 1) * e.1)) (false, d.rowBytes)).1

/-- The destination rule, where the sizes of the descriptor are as written (R262, R268). -/
def aliasCheck (s : State) (early : Bool) (d : Desc) : Chk Unit :=
  let plain := indMask (s.bytesAt d.at_ 64) == 0
  ensure (plain != early || !d.aliases) (rejIn 0x50 1 d.at_ 28)

/-- The format rule of every copy and conversion engine: any format of Table 2-1 (R67). -/
def anyFmt (_ : Fmt) : Bool := true

/-- Destination bursts of an item's box. -/
def boxBursts (o : Desc) (bx : Nat × Nat × Nat × Nat) (b : List Nat) : Nat :=
  (((upto bx.1 bx.2.1).flatMap fun m => o.runWords bx.2.2.1 (bx.2.2.2 - bx.2.2.1) (m :: b)).eraseDups).length

/-- Issue-time count of a copy on a span: the most destination bursts of a cluster (R264). -/
def copyCount (o : Desc) (tm : Nat) (span : List Nat) (w : Walk) : Nat :=
  maxOf (span.zipIdx.map fun e => sumOf ((w.itemsOf span.length e.2).map fun it =>
    boxBursts o (it.u * tm, tileEnd it.u tm (o.size 1), it.v * 128, tileEnd it.v 128 (o.size 0)) it.b))

/-- Tile rows of a copy: the spec states no buffer need for it, so the first candidate within the cap that R108 does not skip, with
no unit claimed. [Log 23 DEDUCED] -/
def copyTm (s : State) (c : Cmd) (rows : Nat) : Chk (Nat × Bool × Nat) := tileCheck s c rows 0 fun _ _ => 0

/-- The checks of MOVE (R262, R263, R268). -/
def moveCheck (s : State) (c : Cmd) : Chk Plan := do
  let p := s.partOf c.ctx
  let cs ← commonChecks s c (pure ())
  let refs := [DRef.mk 1 (c.addrAt 32) anyFmt [0], DRef.mk 2 (c.addrAt 38) anyFmt [0]]
  let ds ← loadDescs s c refs (reservedFrom c 0x50 44 63) fun l => do
    ensureAll (l.zipIdx.map fun d => (decide (d.1.rank ≤ 4), rejIn 0x50 (d.2 + 1) d.1.at_ 6))
    aliasCheck s true (l.headD .nil)
  let nil : Opd := (0, .nil)
  let o := ds.headD nil
  let x := ds.getD 1 nil
  aliasCheck s false o.2
  ensureAll ((List.range 5).map fun k => (x.2.size k == o.2.size k || x.2.size k == 1, rejIn 0x51 2 x.2.at_ (8 + 4 * k)))
  itemCheck (outWalk o.2.sizes 16 c.walkCol)
  rangeCheck s p 0x05 ds
  let meet := x.2.meets o.2
  ensure (!meet || (o.2.fmt == x.2.fmt && o.2.rank == x.2.rank && o.2.sizes == x.2.sizes && o.2.strides == x.2.strides)) (rejIn 0x06 1 o.2.at_ 0)
  let t ← copyTm s c (o.2.size 1)
  let w := outWalk o.2.sizes t.1 c.walkCol
  let cnt := copyCount o.2 t.1 (if meet then [cs.headD 0] else cs) w
  countCheck s c cnt
  return { descs := ds.map (·.2), outIx := 0, stages := [], walk := w, tm := t.1, gw := 0, single := t.2.1, units := t.2.2, count := cnt,
           image := none, extra := [b2n meet] }

/-- A MOVE that runs as a translated copy on span cluster 0 (R263). -/
def Plan.translated (p : Plan) : Bool := p.extra == [1]

/-- The copied runs of one item of a MOVE, read from `s`. -/
def State.moveOut (s : State) (c : Cmd) (o x : Desc) (bx : Nat × Nat × Nat × Nat) (b : List Nat) (tab : List (List Nat)) : List CopyOut :=
  let n := bx.2.2.2 - bx.2.2.1
  (upto bx.1 bx.2.1).map fun m =>
    let ix := x.batchIx b (if x.size 1 = 1 then 0 else m)
    let q := s.copyRow c.ftz c.cvt o x bx.2.2.1 n ix ((upto bx.2.2.1 bx.2.2.2).map fun j => vecField bx tab m j)
    ⟨bx.2.2.1, m :: b, q.1, q.2, if o.fmt == x.fmt then s.movedPoison o x bx.2.2.1 n (m :: b) ix else []⟩

/-- Run one item of a MOVE (R262). -/
def PartRun.moveItem (c : Cmd) (r : PartRun) (it : Item) : PartRun :=
  let o := c.plan.desc 0
  let x := c.plan.desc 1
  let bx := c.vecBox o false it
  let ws := (upto bx.1 bx.2.1).flatMap fun m =>
    x.copyWords o bx.2.2.1 (bx.2.2.2 - bx.2.2.1) (x.batchIx it.b (if x.size 1 = 1 then 0 else m))
  let r := r.readSource (o.fmt == x.fmt) ws
  if r.status != 0 then r
  else
    let fd := vecFields c.cvt.stoch bx r.lanes
    r.putCopies o fd.2 (r.s.moveOut c o x bx it.b fd.1)

/-- Run a translated copy: every byte is read before any is written over (R263). [Log 36 DEDUCED] -/
def PartRun.moveAll (c : Cmd) (r : PartRun) (its : List Item) : PartRun :=
  let o := c.plan.desc 0
  let x := c.plan.desc 1
  let s := r.s.readWords x.allWords
  let out := its.foldl (fun (a : List CopyOut × List Lane) it =>
    let bx := c.vecBox o false it
    let fd := vecFields c.cvt.stoch bx a.2
    (a.1 ++ s.moveOut c o x bx it.b fd.1, fd.2)) ([], r.lanes)
  { r with s := s }.putCopies o out.2 out.1

/-! ### GATHER and SCATTER (R265 to R267) -/

/-- COMB. -/
def Cmd.comb (c : Cmd) : Nat := c.bits 50 2 2
/-- OOB. -/
def Cmd.oob (c : Cmd) : Nat := c.bits 50 0 2

/-- Check 6 of GATHER and SCATTER: operand area (R265). -/
def xferArea (c : Cmd) (gather : Bool) : Chk Unit := do
  ensure (c.bits 50 4 4 == 0 && decide (c.oob ≤ 1) && (if gather then c.comb == 0 else decide (c.comb ≤ 2))) (rejCmd 0x50 50)
  reservedFrom c 0x50 51 63

/-- Check 6 of GATHER and SCATTER: formats and destination (R265). -/
def xferFormats (s : State) (c : Cmd) (l : List Desc) : Chk Unit := do
  let o := l.headD .nil
  let x := l.getD 1 .nil
  let i := l.getD 2 .nil
  ensure (!(o.fmt.isMx || x.fmt.isMx) || o.fmt == x.fmt) (rejIn 0x50 2 x.at_ 6)
  ensure (!(c.comb != 0 && o.fmt.isMx)) (rejIn 0x50 1 o.at_ 6)
  ensure (i.fmt == .int32) (rejIn 0x50 3 i.at_ 6)
  aliasCheck s true o

/-- Check 8 of GATHER and SCATTER (R265): `full` is the tensor whose batch sizes the command has, `other` the one that may broadcast. -/
def xferSizes (gather : Bool) (o x i : Opd) : List (Bool × Rej) :=
  let at_ := fun (e : Opd) (k : Nat) => rejIn 0x51 e.1 e.2.at_ (8 + 4 * k)
  [(x.2.size 0 == o.2.size 0, at_ x 0), (i.2.size 0 == (if gather then o.2.size 1 else x.2.size 1), at_ i 0)] ++
  ([2, 3].map fun k => (x.2.size k == o.2.size k || x.2.size k == 1, at_ x k)) ++
  ([2, 3].map fun k => (i.2.size (k - 1) == o.2.size k || i.2.size (k - 1) == 1, at_ i (k - 1))) ++
  [(o.2.size 4 == 1, at_ o 4), (x.2.size 4 == 1, at_ x 4), (i.2.size 3 == 1, at_ i 3), (i.2.size 4 == 1, at_ i 4)]

/-- The checks of GATHER and SCATTER (R265 to R268). -/
def xferCheck (gather : Bool) (s : State) (c : Cmd) : Chk Plan := do
  let p := s.partOf c.ctx
  let cs ← commonChecks s c (pure ())
  let refs := [DRef.mk 1 (c.addrAt 32) anyFmt [0], DRef.mk 2 (c.addrAt 38) anyFmt [0], DRef.mk 3 (c.addrAt 44) anyFmt [0]]
  let ds ← loadDescs s c refs (xferArea c gather) (xferFormats s c)
  let nil : Opd := (0, .nil)
  let o := ds.headD nil
  let x := ds.getD 1 nil
  let i := ds.getD 2 nil
  aliasCheck s false o.2
  ensureAll (xferSizes gather o x i)
  itemCheck (outWalk o.2.sizes 16 c.walkCol)
  rangeCheck s p 0x05 ds
  overlapCheck (fun _ _ => false) [x, i] [o]
  let t ← copyTm s c (o.2.size 1)
  let w := outWalk o.2.sizes t.1 c.walkCol
  let cnt := copyCount o.2 t.1 cs w
  countCheck s c cnt
  return { descs := ds.map (·.2), outIx := 0, stages := [], walk := w, tm := t.1, gw := 0, single := t.2.1, units := t.2.2, count := cnt,
           image := none, extra := [] }

/-- Indices of dimensions 1 to 4 of the index tensor for a batch entry. -/
def Desc.idxIx (i : Desc) (b : List Nat) : List Nat :=
  [if i.size 1 = 1 then 0 else b.getD 0 0, if i.size 2 = 1 then 0 else b.getD 1 0, 0, 0]

/-- An index of GATHER or SCATTER: the row it names, none when it skips; `bad` is the outcome of an index outside the rows. -/
def idxRow (rows : Nat) (v : Int) : Option Nat := if 0 ≤ v && decide (v < rows) then some v.toNat else none

/-- An index that fails the part under OOB = 0 (R265). -/
def idxBad (oob rows : Nat) (v : Int) : Bool := oob == 0 && v != -1 && (idxRow rows v).isNone

/-- Signed index `k` of the index tensor. -/
def State.idxAt (s : State) (i : Desc) (b : List Nat) (k : Nat) : Int := toInt 32 (s.elemCode i k (i.idxIx b))

/-- A row of +0 in a format. -/
def zeroRun (ftz : Bool) (cv : Cvt) (f : Fmt) (n : Nat) : List Nat × List Nat × Nat :=
  convertRun ftz cv f (List.replicate n (.zero, 0))

/-- Run one item of a GATHER (R266). -/
def PartRun.gatherItem (c : Cmd) (r : PartRun) (it : Item) : PartRun :=
  let o := c.plan.desc 0
  let x := c.plan.desc 1
  let i := c.plan.desc 2
  let bx := c.vecBox o false it
  let c0 := bx.2.2.1
  let n := bx.2.2.2 - c0
  let r := r.read (i.runWords bx.1 (bx.2.1 - bx.1) (i.idxIx it.b))
  if r.status != 0 then r
  else
    let ids := (upto bx.1 bx.2.1).map fun m => (m, r.s.idxAt i it.b m)
    if ids.any fun e => idxBad c.oob (x.size 1) e.2 then r.fail 0x53 0
    else
      let rows := ids.map fun e => (e.1, idxRow (x.size 1) e.2)
      let mv := o.fmt == x.fmt
      let r := r.readSource mv (rows.flatMap fun e => match e.2 with
        | some k => x.runWords c0 n (x.batchIx it.b k)
        | none => [])
      if r.status != 0 then r
      else
        let fd := vecFields c.cvt.stoch bx r.lanes
        let s := r.s
        r.putCopies o fd.2 (rows.map fun e =>
          let ox := e.1 :: it.b
          match e.2 with
          | none => ⟨c0, ox, zeroRun c.ftz c.cvt o.fmt n, [], []⟩
          | some k =>
            let ix := x.batchIx it.b k
            let q := s.copyRun c.ftz c.cvt o x c0 n ix ((upto c0 (c0 + n)).map fun j => vecField bx fd.1 e.1 j)
            ⟨c0, ox, q.1, q.2, if mv then s.movedPoison o x c0 n ox ix else []⟩)

/-- The combination of one source row into a destination row (R267). -/
def State.scatterRun (s : State) (c : Cmd) (o x : Desc) (c0 n : Nat) (ox ix : List Nat) (fs : List Nat) :
    (List Nat × List Nat × Nat) × List Key :=
  if c.comb = 0 then s.copyRun c.ftz c.cvt o x c0 n ix fs
  else
    let es := (upto c0 (c0 + n)).map fun j =>
      let a := s.elemNum c.ftz o j ox
      let b := s.elemNum c.ftz x j ix
      (if c.comb = 1 then sumNum [a.1, b.1] else a.1.max b.1, a.2, if b.2 = 0 then [] else [(x.at_, j, x.scaleAddr 0 ix)])
    let e := convertRun c.ftz c.cvt o.fmt ((es.map (·.1)).zip fs)
    ((e.1, e.2.1, e.2.2 + sumOf (es.map (·.2.1))), es.flatMap (·.2.2))

/-- Run one item of a SCATTER (R267). [Log 36 DEDUCED] -/
def PartRun.scatterItem (c : Cmd) (r : PartRun) (it : Item) : PartRun :=
  let o := c.plan.desc 0
  let x := c.plan.desc 1
  let i := c.plan.desc 2
  let bx := c.vecBox o false it
  let c0 := bx.2.2.1
  let n := bx.2.2.2 - c0
  let r := r.read (i.runWords 0 (i.size 0) (i.idxIx it.b))
  if r.status != 0 then r
  else
    let ids := (List.range (i.size 0)).map fun k => (k, r.s.idxAt i it.b k)
    if ids.any fun e => idxBad c.oob (o.size 1) e.2 then r.fail 0x53 0
    else
      let hits := ids.filterMap fun e => (idxRow (o.size 1) e.2).bind fun m =>
        if bx.1 ≤ m && decide (m < bx.2.1) then some (e.1, m) else none
      let mv := c.comb == 0 && o.fmt == x.fmt
      let dst := if c.comb = 0 then [] else hits.flatMap fun h => o.runWords c0 n (h.2 :: it.b)
      let r := r.readSource mv (dst ++ hits.flatMap fun h => x.runWords c0 n (x.batchIx it.b h.1))
      if r.status != 0 then r
      else
        let hb := (0, hits.length, c0, bx.2.2.2)
        let fd := vecFields c.cvt.stoch hb r.lanes
        { hits.zipIdx.foldl (fun (r : PartRun) h =>
          let ox := h.1.2 :: it.b
          let ix := x.batchIx it.b h.1.1
          let q := r.s.scatterRun c o x c0 n ox ix ((upto c0 bx.2.2.2).map fun j => vecField hb fd.1 h.2 j)
          r.putCopies o r.lanes [⟨c0, ox, q.1, q.2, if mv then r.s.movedPoison o x c0 n ox ix else []⟩]) r with lanes := fd.2 }

/-! ### CROPRS (R260, R261) -/

/-- The byte range of `n` bytes at `a` as a tensor of bytes, for the range and overlap checks. -/
def rawDesc (a n : Nat) : Desc := { Desc.nil with at_ := a, base := a, fmt := .uint8, sizes := [n, 1, 1, 1, 1] }

/-- The checks of CROPRS (R260, R268). -/
def cropCheck (s : State) (c : Cmd) : Chk Plan := do
  let p := s.partOf c.ctx
  let cs ← commonChecks s c (pure ())
  let refs := [DRef.mk 1 (c.addrAt 32) anyFmt [0], DRef.mk 2 (c.addrAt 38) anyFmt [0]]
  let db := c.addrAt 44
  let int2 := fun (f : Fmt) => f == .int16 || f == .int32
  let ds ← loadDescs s c refs (do
      addrIn s p 0x05 3 db 1
      ensure (c.bits 54 1 7 == 0) (rejCmd 0x50 54)
      reservedFrom c 0x50 55 63
      ensure (db % 32 == 0) (rejAddr 0x50 3 db)) fun l =>
    ensureAll (l.zipIdx.map fun d => (!int2 d.1.fmt, rejIn 0x50 (d.2 + 1) d.1.at_ 6))
  let nil : Opd := (0, .nil)
  let x := ds.headD nil
  let o := ds.getD 1 nil
  let at_ := fun k => rejIn 0x51 2 o.2.at_ (8 + 4 * k)
  ensureAll [(o.2.size 0 == x.2.size 0, at_ 0), (decide (1 ≤ o.2.size 3) && decide (o.2.size 3 ≤ 65536), at_ 3), (o.2.size 4 == 1, at_ 4)]
  itemCheck (outWalk o.2.sizes 16 c.walkCol)
  rangeCheck s p 0x05 (ds ++ [(3, rawDesc db (32 * o.2.size 3))])
  overlapCheck (fun _ _ => false) [x, (3, rawDesc db (32 * o.2.size 3))] [o]
  let need := fun tm (_ : Bool) => unitsOf (2 * tm * 4 * 128 * x.2.fmt.width / 8) + unitsOf (otBytes tm o.2.fmt) + unitsOf (tm * 512)
  let t ← tileCheck s c (o.2.size 1) 0 need
  let w := outWalk o.2.sizes t.1 c.walkCol
  let cnt := vecCount c.cvt.stoch cs w fun _ it =>
    let rw := it.rows t.1 (o.2.size 1)
    vecItem (rw.2 - rw.1) (if c.bits 54 0 1 = 1 then 3 else 1) 0
  countCheck s c cnt
  return { descs := [x.2, o.2], outIx := 1, stages := [], walk := w, tm := t.1, gw := 0, single := t.2.1, units := t.2.2, count := cnt,
           image := none, extra := [] }

/-- The sampling position of output index `j` of `n` between two corners (R261). -/
def cropPos (lo hi : Num) (n j : Nat) : Num :=
  fma32 (.fin false (2 * j + 1) (-1)) (mul32 (add32 hi lo.negate) (ratNum 1 n)) (add32 lo (dy (-1) (-1)))

/-- The position lies in [−0.5, I − 0.5]. [Log 36 DEDUCED] -/
def cropIn (p : Num) (i : Nat) : Bool := p != .nan && !p.lt (dy (-1) (-1)) && !(dy (2 * (i : Int) - 1) (-1)).lt p

/-- The indices of an axis with their weights: bilinear, or the nearest one (R261). -/
def cropTaps (bilinear : Bool) (i : Nat) (p : Num) : List (Nat × Num) :=
  let cl := fun (v : Int) => (clampInt 0 ((i : Int) - 1) v).toNat
  if bilinear then
    let i0 := floorInt p
    let f := sumNum [p, intNum (-i0)]
    [(cl i0, r32 (sumNum [.one, f.negate])), (cl (i0 + 1), r32 f)]
  else [(cl (floorInt (sumNum [p, dy 1 (-1)])), .one)]

/-- A box record: BATCH, FRAME, X0, Y0, X1, Y1, flushes of the corners (Table 10-8). -/
structure Box where
  batch : Int
  frame : Int
  x0 : Num
  y0 : Num
  x1 : Num
  y1 : Num
  fl : Nat

/-- Read box `k` of a list. -/
def State.box (s : State) (ftz : Bool) (db k : Nat) : Box :=
  let a := db + 32 * k
  let f := fun i => f32In ftz (s.numAt (a + 8 + 4 * i) 4)
  ⟨toInt 32 (s.numAt a 4), toInt 32 (s.numAt (a + 4) 4), (f 0).1, (f 1).1, (f 2).1, (f 3).1, sumOf ((List.range 4).map fun i => (f i).2)⟩

/-- The source taps of an output position: none when it is not sampled. [Log 36 DEDUCED] -/
def Box.taps (q : Box) (bil : Bool) (x o : Desc) (m row : Nat) : Option (List (Nat × Nat × Num)) :=
  let sx := cropPos q.x0 q.x1 (o.size 1) m
  let sy := cropPos q.y0 q.y1 (o.size 2) row
  if cropIn sx (x.size 1) && cropIn sy (x.size 2) then
    some ((cropTaps bil (x.size 1) sx).flatMap fun a => (cropTaps bil (x.size 2) sy).filterMap fun b =>
      let w := a.2.mul b.2
      if w.isZero then none else some (a.1, b.1, w))
  else none

/-- Run one item of a CROPRS (R261). -/
def PartRun.cropItem (c : Cmd) (r : PartRun) (it : Item) : PartRun :=
  let x := c.plan.desc 0
  let o := c.plan.desc 1
  let bx := c.vecBox o false it
  let c0 := bx.2.2.1
  let n := bx.2.2.2 - c0
  let db := c.addrAt 44
  let k := it.b.getD 1 0
  let bil := c.bits 54 0 1 == 1
  let r := r.read (wordsOf (db + 32 * k) 32)
  if r.status != 0 then r
  else
    let q := r.s.box c.ftz db k
    let okB := decide (0 ≤ q.batch) && decide (q.batch < x.size 4)
    let okF := decide (0 ≤ q.frame) && decide (q.frame < x.size 3)
    if q.batch ≠ -1 && !(okB && okF) then r.fail 0x52 0
    else
      let nan := [q.x0, q.y0, q.x1, q.y1].any (· == .nan)
      let rows := (upto bx.1 bx.2.1).map fun m => (m, if q.batch = -1 || nan then none else q.taps bil x o m (it.b.getD 0 0))
      let ix := fun (t : Nat × Nat × Num) => [t.1, t.2.1, q.frame.toNat, q.batch.toNat]
      let r := r.read (rows.flatMap fun e => (e.2.getD []).flatMap fun t => x.runWords c0 n (ix t))
      if r.status != 0 then r
      else
        let fd := vecFields c.cvt.stoch bx r.lanes
        let s := r.s
        let ext := constEl c.ftz .fp32 (c.field 50 4)
        let out := rows.map fun e =>
          let fs := (upto c0 (c0 + n)).map fun j => vecField bx fd.1 e.1 j
          let fill := fun (v : VRes) (ks : List Key) => (convertRes c.ftz c.cvt o.fmt (fs.map fun f => (v, f)), ks)
          let g := if q.batch = -1 then fill (.num .zero) []
            else if nan then fill (.num .nan) []
            else match e.2 with
              | none => fill (.raw ext) ext.keys
              | some ts =>
                if !bil then s.copyRun c.ftz c.cvt o x c0 n (ix (ts.headD (0, 0, .one))) fs
                else
                  let es := (upto c0 (c0 + n)).map fun j => ts.map fun t => (t, s.elemNum c.ftz x j (ix t))
                  let vals := es.map fun l => r32 (sumNum (l.map fun p => p.1.2.2.mul (widen x.fmt p.2.1)))
                  (convertRun c.ftz c.cvt o.fmt (vals.zip fs), (es.zipIdx.flatMap fun l => l.1.filterMap fun p =>
                    if p.2.2 = 0 then none else some (x.at_, c0 + l.2, x.scaleAddr 0 (ix p.1))))
          CopyOut.mk c0 (e.1 :: it.b) g.1 g.2 []
        let r := r.putCopies o fd.2 out
        { r with fl := r.fl + q.fl }

end Sys2Proof.Machine
end

