-- ==== Sys2Proof/Machine/Flash.lean ====
section
/-!
DEFINITION. Machine/Flash.lean: the flash tier (Chapter 14): FLREAD and FLWRITE, regions and their versions, the read path of a
codeword, staged writes and the hold-up store, bad blocks, wear, the patrol and lost LUNs.
-/
namespace Sys2Proof.Machine

/-! ### Engines that finish anchor commands -/

/-- Statuses that do not tear down the context (R120, R366, R526 and the chapters that give them). -/
def tearsDown (st : Nat) : Bool := !([0x00, 0x0E, 0x0F, 0x7B, 0x7C, 0x7D, 0x7F, 0x9A, 0x9C, 0x9D, 0x9E, 0xC8].contains st)

/-- The engine of an anchor command has finished it with a status (R118). -/
def State.engineDone (s : State) (id status : Nat) (poisoned : Bool) : State :=
  match s.cmd? id with
  | none => s
  | some c =>
    if c.ready || c.st != .issued then s
    else
      let t := s.setCmd { c with ready := true, status := status, poisoned := c.poisoned || poisoned }
      if tearsDown status then t.faultCtx c.ctx ⟨status, 0x30, 0, 0, some id, none⟩ else t

/-! ### Regions -/

/-- Set the flash tier. -/
def State.setFlash (s : State) (f : Flash) : State := { s with flash := f }

/-- Region `r` beside its registers. -/
def State.flRegion (s : State) (r : Nat) : FlRegion := tget (fun _ => FlRegion.fresh) s.flash.regions r

/-- Set region `r`. -/
def State.setRegion (s : State) (r : Nat) (v : FlRegion) : State :=
  s.setFlash { s.flash with regions := tset (fun _ => FlRegion.fresh) s.flash.regions r v }

/-- A state whose memory is a region's content, so that tensors of KIND 0b10 are read through it (R342): poisoned blocks hold poison. -/
def regionView (s : State) (data : Tab Byte) (bad : List Nat) : State :=
  { s with mem := data, regs := [],
           ecc := (bad.flatMap fun b => (List.range 64).map fun i => b * 64 + i).foldl (fun t w => tset (fun _ => 0) t w pzDev) [] }

/-- 4 KiB blocks that `n` bytes at offset `a` touch. -/
def blocksOf (a n : Nat) : List Nat := if n = 0 then [] else upto (a / 4096) ((a + n - 1) / 4096 + 1)

/-- Blocks of a region that a tensor touches. -/
def Desc.regionBlocks (d : Desc) : List Nat := (d.allWords.map (· / 64)).eraseDups

/-- Write bytes at an offset of a content table. -/
def putTab (t : Tab Byte) (a : Nat) : List Byte → Tab Byte
  | [] => t
  | b :: l => putTab (tset (fun _ => 0) t a b) (a + 1) l

/-- `n` bytes at an offset of a content table. -/
def getTab (t : Tab Byte) (a n : Nat) : List Byte := (List.range n).map fun i => tget (fun _ => 0) t (a + i)

/-! ### Checks (R364) -/

/-- REGION. -/
def Cmd.region (c : Cmd) : Nat := Sys2Proof.Machine.bits (c.field 44 2) 0 10
/-- OP of FLWRITE. -/
def Cmd.flOp (c : Cmd) : Nat := c.bits 46 0 3
/-- VERS. -/
def Cmd.vers (c : Cmd) : Nat := c.field 48 4

/-- The flash tests of check 4: `types` are the region types that the operation allows. [Log 42 DEDUCED] -/
def flashRights (s : State) (c : Cmd) (write : Bool) (types : List Nat) : Chk Unit := do
  let p := s.partOf c.ctx
  let r := c.region
  ensure (s.getF F.fltStatusState 0 != 1) (rejCmd 0x81 44)
  ensure (s.flag (if write then F.chtPartFlw else F.chtPartFlr) p) (rejCmd 0x79 44)
  ensure (r != 0 && s.getF F.fltRgninfoOwner r == p && types.contains (s.getF F.fltRgninfoType r)) (rejCmd 0x79 44)

/-- Checks 1 to 4 of a flash command. [Log 42 DEDUCED] -/
def flashCommon (s : State) (c : Cmd) (write : Bool) (types : List Nat) : Chk Unit := do
  headerChecks c (pure ())
  flashRights s c write types
  tokenCheck s c

/-- The range of a tensor inside a region (R342): the descriptor fails with status 0x7A. -/
def regionCheck (s : State) (r : Nat) (o : Opd) : Chk Unit :=
  match o.2.ranges.find? fun g => decide (g.1 < 0) || decide (g.1 + (g.2 : Int) > ((s.getF F.fltRgninfoSize r * 4096 : Nat) : Int)) with
  | some g => throw (rejAddr 0x7A o.1 (ofInt 64 g.1))
  | none => pure ()

/-- The checks of FLREAD. -/
def flreadCheck (s : State) (c : Cmd) : Chk Plan := do
  flashCommon s c false [1, 2]
  let refs := [DRef.mk 1 (c.addrAt 32) anyFmt [0, 1, 2, 3], DRef.mk 2 (c.addrAt 38) anyFmt [0, 1, 2, 3]]
  let ds ← loadDescs s c refs (do
      ensure (c.bits 45 2 6 == 0) (rejCmd 0x78 44)
      reservedFrom c 0x78 46 63) fun l => do
    let d := l.headD .nil
    let x := l.getD 1 .nil
    ensure (d.kind == 0) (rejIn 0x78 1 d.at_ 7)
    ensure (x.kind == 2) (rejIn 0x78 2 x.at_ 7)
    ensure (d.fmt == x.fmt) (rejIn 0x78 1 d.at_ 6)
  let nil : Opd := (0, .nil)
  let d := ds.headD nil
  let x := ds.getD 1 nil
  ensureAll ((List.range 5).map fun k => (d.2.size k == x.2.size k, rejIn 0x78 1 d.2.at_ (8 + 4 * k)))
  rangeCheck s (s.partOf c.ctx) 0x7A [d]
  regionCheck s c.region x
  countCheck s c 0
  return { Plan.none with descs := ds.map (·.2), outIx := 0 }

/-- Byte size of a rank-1 destination of FLWRITE. -/
def Desc.flatBytes (d : Desc) : Nat := d.rowBytes

/-- The checks of FLWRITE (R344): OP 5 to 7 are refused at check 6. -/
def flwriteCheck (s : State) (c : Cmd) : Chk Plan := do
  let op := c.flOp
  let data := op == 0 || op == 2
  flashCommon s c true (if op = 0 then [2] else if op ≤ 4 then [1] else [1, 2])
  let refs := if data then [DRef.mk 1 (c.addrAt 32) anyFmt [0, 1, 2, 3], DRef.mk 2 (c.addrAt 38) anyFmt [0, 1, 2, 3]] else []
  let ds ← loadDescs s c refs (do
      ensure (data || c.addrAt 32 == 0) (rejAddr 0x78 1 (c.addrAt 32))
      ensure (data || c.addrAt 38 == 0) (rejAddr 0x78 2 (c.addrAt 38))
      ensure (c.bits 45 2 6 == 0) (rejCmd 0x78 44)
      ensure (c.bits 46 4 4 == 0 && decide (op ≤ 4) && (op == 1 || c.bits 46 3 1 == 0)) (rejCmd 0x78 46)
      reservedFrom c 0x78 47 47
      ensure (op != 0 || c.vers == 0) (rejCmd 0x78 48)
      reservedFrom c 0x78 52 63) fun l =>
    if data then do
      let d := l.headD .nil
      let x := l.getD 1 .nil
      ensure (d.kind == 2) (rejIn 0x78 1 d.at_ 7)
      ensure (d.rank == 1) (rejIn 0x78 1 d.at_ 6)
      ensure (d.base % 4096 == 0) (rejIn 0x78 1 d.at_ 0)
      ensure (x.kind == 0) (rejIn 0x78 2 x.at_ 7)
      ensure (d.fmt == x.fmt) (rejIn 0x78 2 x.at_ 6)
    else pure ()
  if data then do
    let nil : Opd := (0, .nil)
    let d := ds.headD nil
    let x := ds.getD 1 nil
    ensure (d.2.flatBytes % 4096 == 0) (rejIn 0x78 1 d.2.at_ 8)
    ensure (d.2.count == x.2.count) (rejIn 0x78 2 x.2.at_ 8)
    regionCheck s c.region d
    rangeCheck s (s.partOf c.ctx) 0x7A [x]
  else pure ()
  countCheck s c 0
  return { Plan.none with descs := ds.map (·.2), outIx := 0 }

/-! ### Reading (R343, R349, R350) -/

/-- Copy a tensor out of a region's content, poison of unreadable blocks with it (R350). -/
def State.copyOut (s : State) (d x : Desc) (data : Tab Byte) (bad : List Nat) : State × Bool :=
  let v := regionView s data bad
  let out := (List.range x.rows).map fun r =>
    let ix := x.rowIx r
    let run := if x.fmt.isMx then v.mxRun x 0 (x.size 0) ix else ((List.range (x.size 0)).map fun i => v.elemCode x i ix, [], 0)
    (ix, run, v.movedPoison d x 0 (x.size 0) (d.rowIx r) ix)
  (out.foldl (fun (t : State) e => (t.writeRun d 0 e.1 e.2.1).markWords e.2.2) s, out.any fun e => !e.2.2.isEmpty)

/-- Blocks of an old version are released once no read that began before the switch which replaced them still runs (R345). -/
def State.releaseHeld (s : State) (r : Nat) : State :=
  let v := s.flRegion r
  let busy := fun (e : Nat × Nat) => s.flash.jobs.any fun j => j.region == r && decide (j.epoch < e.1)
  let t := s.setRegion r { v with held := v.held.filter busy }
  t.setFlash { t.flash with free := t.flash.free + sumOf ((v.held.filter fun e => !busy e).map (·.2)) }

/-- A job with every block read is carried out: an FLREAD's tensor is copied and the command is done. A fetch stays for its agent. -/
def State.finishJob (s : State) (j : FlJob) : State :=
  match j.who with
  | .fetch _ => s
  | .read id =>
    let t := s.setFlash { s.flash with jobs := s.flash.jobs.filter (· != j) }
    let t := t.releaseHeld j.region
    match t.cmd? id with
    | none => t
    | some c =>
      if c.st != .issued then t
      else
        let r := t.copyOut (c.plan.desc 0) (c.plan.desc 1) j.data j.bad
        r.1.engineDone id (if r.2 then 0x7C else 0) r.2

/-- An FLREAD has passed its checks: it samples the content that it will read (R343, R347). [Log 42 DEDUCED] -/
def State.goFlread (s : State) (c : Cmd) : State :=
  let v := s.flRegion c.region
  let j : FlJob := ⟨.read c.id, c.region, v.data, v.bad, (c.plan.desc 1).regionBlocks, v.switches⟩
  let t := s.goAnchor c
  let t := t.setFlash { t.flash with jobs := t.flash.jobs ++ [j] }
  if j.left.isEmpty then t.finishJob j else t

/-- Where a codeword lies on the NAND: channel, LUN, and its place as R359 gives it. -/
structure NandAt where
  ch : Nat
  lun : Nat
  loc : Nat

/-- Count the steps that a codeword needed (Table 14-5); a poisoned one is recorded (class FLPOISON of Table 21-3). -/
def State.codeword (s : State) (r block step : Nat) (w : NandAt) : State :=
  let s := if 2 ≤ step then s.bump F.fltCnt0Retry 0 1 else s
  let s := if 3 ≤ step then s.bump F.fltCnt0Soft 0 1 else s
  let s := if step = 4 then s.bump F.fltCnt1Parrec 0 1 else s
  let s := if 5 ≤ step then
      (s.bump F.fltCnt1Poisoned 0 1).record { cls := 0x10, sev := 0, kind := 3, unit := w.ch, sub := w.lun, addr := block * 4096, syn := w.loc }
    else s
  if 2 ≤ step then s.setFlash { s.flash with relocate := (s.flash.relocate ++ [(r, block)]).eraseDups } else s

/-- A codeword of a job was read at a step of Table 14-5, 5 for none: a block that is lost stays lost. -/
def State.jobRead (s : State) (n block step : Nat) (w : NandAt) : State :=
  match s.flash.jobs[n]? with
  | none => s
  | some j =>
    if !j.left.contains block then s
    else
      let lost := j.bad.contains block
      let step := if lost then 5 else step
      let k := { j with left := j.left.filter (· != block), bad := if step ≥ 5 && !lost then j.bad ++ [block] else j.bad }
      let t := s.codeword j.region block step w
      let t := t.setFlash { t.flash with jobs := t.flash.jobs.set n k }
      let t := if step ≥ 5 && !lost then
          let v := t.flRegion j.region
          t.setRegion j.region { v with bad := (v.bad ++ [block]).eraseDups }
        else t
      if k.left.isEmpty then t.finishJob k else t

/-! ### Staging (R360, R362) -/

/-- Bytes staged. -/
def Flash.staged (f : Flash) : Nat := sumOf (f.writes.map (·.bytes))

/-- FLT_HUP shows the staged total in MiB, rounded up. -/
def State.showStaged (s : State) : State := s.setF F.fltHupStaged 0 (cdiv s.flash.staged 0x100000)

/-- The store is READY. -/
def State.holdReady (s : State) : Bool := s.getF F.fltHupState 0 == 2

/-- A write of `n` bytes may be staged now: in READY only within STAGELIM (R362), and not after PWRFAIL_N fell (R363). -/
def State.canStage (s : State) (n : Nat) : Bool :=
  !s.flash.flushing && (!s.holdReady || decide (s.flash.staged + n ≤ s.getF F.fltHupStagelim 0 * 0x100000))

/-- Stage a write: durable at once in READY, else when its wordline groups are programmed (R360). -/
def State.stage (s : State) (r bytes : Nat) (upd : Bool) (blocks : List Nat) (prev : Tab Byte) : State :=
  let f := s.flash
  (s.setFlash { f with writes := f.writes ++ [⟨f.nextWrite, r, bytes, upd, s.holdReady, blocks, prev⟩], nextWrite := f.nextWrite + 1 }).showStaged

/-- Write number `n` is durable: programmed, or staged under the store. -/
def Flash.isDurable (f : Flash) (n : Nat) : Bool := f.writes.all fun w => w.id != n || w.durable

/-- Free units that `n` blocks of a region take: SLC mode takes one unit per bit of the dense mode (R340). [Log 42 DEDUCED] -/
def State.flUnits (s : State) (r n : Nat) : Nat := if s.getF F.fltRgninfoType r = 2 then n * s.flash.cellBits else n

/-- Take free units. -/
def State.takeFree (s : State) (n : Nat) : State := s.setFlash { s.flash with free := s.flash.free - n }

/-- Give back free units. -/
def State.giveFree (s : State) (n : Nat) : State := s.setFlash { s.flash with free := s.flash.free + n }

/-- The runs of bytes that FLWRITE puts at region offsets: packed elements, then scales (R344). -/
def State.flBytes (s : State) (d x : Desc) : List (Nat × List Byte) :=
  let el := (d.base, packBytes d.fmt.width (s.tensorCodes x))
  if d.fmt.isMx then
    let ix := fun n => (n % x.size 0, x.rowIx (n / x.size 0))
    [el, (d.scaleBase, (List.range d.blocks).map fun b => BitVec.ofNat 8 (s.elemScale x (ix (32 * b)).1 (ix (32 * b)).2))]
  else [el]

/-- Blocks of a list of runs. -/
def runBlocks (l : List (Nat × List Byte)) : List Nat := (l.flatMap fun e => blocksOf e.1 e.2.length).eraseDups

/-- Write runs into a region: into its committed content, or into the pending update. Poisoned blocks that are written whole heal. -/
def FlRegion.put (v : FlRegion) (upd : Bool) (l : List (Nat × List Byte)) : FlRegion :=
  let bl := runBlocks l
  let w := fun (t : Tab Byte) => l.foldl (fun a e => putTab a e.1 e.2) t
  match upd, v.upd with
  | true, some u => { v with upd := some ⟨w u.data, (u.blocks ++ bl).eraseDups, u.bad.filter (!bl.contains ·)⟩ }
  | true, none => v
  | false, _ => { v with data := w v.data, written := (v.written ++ bl).eraseDups, bad := v.bad.filter (!bl.contains ·) }

/-! ### Updates (R345 to R348) -/

/-- The version after `v`: 0 is skipped. -/
def nextVersion (v : Nat) : Nat := if lo32 (v + 1) = 0 then 1 else lo32 (v + 1)

/-- Discard the pending update of a region; its free units come back. -/
def State.dropUpdate (s : State) (r : Nat) : State :=
  let v := s.flRegion r
  let t := s.setRegion r { v with upd := none }
  let t := t.giveFree (v.upd.map (·.blocks.length) |>.getD 0)
  let t := t.setFlash { t.flash with writes := t.flash.writes.filter fun w => !(w.upd && w.region == r) }
  ((t.setF F.fltRgnverBuilding r 0).setF F.fltRgninfoPend r 0).showStaged

/-- Switch a region to its pending update (R345): replaced blocks wait for the FLREADs that hold them. -/
def State.commitUpdate (s : State) (r : Nat) : State :=
  let v := s.flRegion r
  match v.upd with
  | none => s
  | some u =>
    let gone := (u.blocks.filter v.written.contains).length
    let t := s.setRegion r { v with data := u.data, bad := u.bad, written := (v.written ++ u.blocks).eraseDups, upd := none, switches := v.switches + 1,
                                    held := v.held ++ [(v.switches + 1, gone)] }
    let t := t.setF F.fltRgnverCommitted r (t.getF F.fltRgnverBuilding r)
    let t := t.setFlash { t.flash with writes := t.flash.writes.map fun w => if w.region == r then { w with upd := false } else w }
    ((t.setF F.fltRgnverBuilding r 0).setF F.fltRgninfoPend r 0).releaseHeld r

/-- What the engine makes of the FLWRITE at the head of a region's queue. -/
inductive FlAns where
  | wait
  | done (s : State) (status : Nat)
  | staged (s : State)

/-- The data operations, OP 0 and OP 2: capacity, wear, poison of the source, staging (R345, R348, R354, R509). -/
def State.flData (s : State) (c : Cmd) : FlAns :=
  let r := c.region
  let d := c.plan.desc 0
  let x := c.plan.desc 1
  let upd := c.flOp == 2
  let ws := x.allWords
  let t := s.readWords ws
  let l := s.flBytes d x
  let bl := runBlocks l
  let n := s.flUnits r bl.length
  let bytes := sumOf (l.map fun e => e.2.length)
  if s.flag F.fltRgninfoWorn r then .done s 0x80
  else if upd && (s.getF F.fltRgnverBuilding r == 0 || s.getF F.fltRgnverBuilding r != c.vers) then .done s 0x7E
  else if s.flash.free < n then .done s 0x7F
  else if !s.canStage bytes then .wait
  else if s.anyPoison ws then .done t 0x0D
  else
    let v := t.flRegion r
    let fresh := bl.filter fun b => !(if upd then ((v.upd.map (·.blocks)).getD []).contains b else false)
    let gone := if upd then 0 else s.flUnits r (bl.filter v.written.contains).length
    let t := (t.takeFree (s.flUnits r fresh.length)).giveFree gone
    let t := t.setRegion r (v.put upd l)
    .staged (t.stage r bytes upd bl v.data)

/-- What the engine makes of an FLWRITE (R345, R346, R348). -/
def State.flPerform (s : State) (c : Cmd) : FlAns :=
  let r := c.region
  let b := s.getF F.fltRgnverBuilding r
  match c.flOp with
  | 0 => s.flData c
  | 1 =>
    if c.vers != nextVersion (s.getF F.fltRgnverCommitted r) then .done s 0x7E
    else if b != 0 && c.bits 46 3 1 = 0 then .done s 0x7B
    else
      let s := if b = 0 then s else s.dropUpdate r
      let v := s.flRegion r
      let t := s.setRegion r { v with upd := some ⟨v.data, [], v.bad⟩ }
      .done ((t.setF F.fltRgnverBuilding r c.vers).setF F.fltRgninfoPend r 1) 0
  | 2 => s.flData c
  | 3 =>
    if b = 0 || b != c.vers then .done s 0x7E
    else if s.flash.writes.any fun w => w.upd && w.region == r && !w.durable then .wait
    else .done (s.commitUpdate r) 0
  | _ => if b = 0 || b != c.vers then .done s 0x7E else .done (s.dropUpdate r) 0

/-- A spill write that has been staged completes once it is durable: its command waits under the number of its write. -/
def State.flWaits (s : State) (id : Nat) : Option Nat := (s.cmd? id).bind fun c => c.plan.extra.head?

/-- Perform the commands of a region in order while the first of them can go on (R345). [Log 42 DEDUCED] -/
def State.flashRun (s : State) (r : Nat) : (fuel : Nat) → State
  | 0 => s
  | f + 1 =>
    let v := s.flRegion r
    match v.ops with
    | [] => s
    | id :: rest =>
      let pop := fun (t : State) => t.setRegion r { t.flRegion r with ops := rest }
      match s.cmd? id with
      | none => (pop s).flashRun r f
      | some c =>
        if c.st != .issued || c.ready then (pop s).flashRun r f
        else match c.plan.extra with
        | [n] => if s.flash.isDurable n then ((pop s).engineDone id 0 false).flashRun r f else s
        | _ =>
          match s.flPerform c with
          | .wait => s
          | .done t st => ((pop t).engineDone id st false).flashRun r f
          | .staged t =>
            if c.flOp = 2 then ((pop t).engineDone id 0 false).flashRun r f
            else (t.setCmd { c with plan := { c.plan with extra := [t.flash.nextWrite - 1] } }).flashRun r f

/-- Every region goes on. -/
def State.flashAll (s : State) : State := s.flash.regions.foldl (fun t e => t.flashRun e.1 (e.2.ops.length + 2)) s

/-- A superseding begin that arrives discards the pending update and the commands of it that have issued (R346). -/
def State.supersede (s : State) (c : Cmd) : State :=
  let r := c.region
  if c.flOp = 1 && c.bits 46 3 1 = 1 && s.getF F.fltRgnverBuilding r != 0 &&
      c.vers == nextVersion (s.getF F.fltRgnverCommitted r) then
    let v := s.flRegion r
    let gone := v.ops.filter fun id => ((s.cmd? id).map fun d => decide (2 ≤ d.flOp)).getD false
    let t := s.setRegion r { v with ops := v.ops.filter (!gone.contains ·) }
    let t := t.dropUpdate r
    gone.foldl (fun t id => t.engineDone id 0x7D false) t
  else s

/-- An FLWRITE has passed its checks: it joins its region's queue (R345). -/
def State.goFlwrite (s : State) (c : Cmd) : State :=
  let t := (s.goAnchor c).supersede c
  let v := t.flRegion c.region
  (t.setRegion c.region { v with ops := v.ops ++ [c.id] }).flashRun c.region (v.ops.length + 3)

/-- Programs complete: the writes of their wordline groups are durable and no longer staged (R360). -/
def State.programmed (s : State) (ids : List Nat) : State :=
  ((s.setFlash { s.flash with writes := s.flash.writes.filter fun w => !ids.contains w.id }).showStaged).flashAll

/-! ### Wear, bad blocks, patrol, lost LUNs -/

/-- Too few spare blocks of a mode make every region of the mode read-only (R354). -/
def State.checkWorn (s : State) : State :=
  let f := s.flash
  let low := fun (sp cap : Nat) => decide (sp * 64 < cap)
  (List.range 1024).foldl (fun (t : State) r =>
    let ty := t.getF F.fltRgninfoType r
    if (ty = 1 && low f.spareDense f.capDense) || (ty = 2 && low f.spareSlc f.capSlc) then t.setF F.fltRgninfoWorn r 1 else t) s

/-- Retire a block as grown bad; its data moves to a spare (R351, class FLBADBLK of Table 21-3). -/
def State.growBad (s : State) (slc : Bool) (w : NandAt) : State :=
  let f := s.flash
  let t := s.setFlash (if slc then { f with spareSlc := f.spareSlc - 1 } else { f with spareDense := f.spareDense - 1 })
  ((t.bump F.fltWearGrownbad 0 1).record { cls := 0x11, sev := 0, kind := 3, unit := w.ch, sub := w.lun, syn := w.loc }).checkWorn

/-- Mark blocks of a region as unreadable, in its content and in its pending update (R350, R357). -/
def State.loseBlocks (s : State) (r : Nat) (bl : List Nat) : State :=
  let v := s.flRegion r
  let up := v.upd.map fun u => { u with bad := (u.bad ++ bl.filter (!u.blocks.contains ·)).eraseDups }
  let t := s.setRegion r { v with bad := (v.bad ++ bl).eraseDups, upd := up }
  t.setFlash { t.flash with jobs := t.flash.jobs.map fun j =>
    if j.region == r then { j with bad := (j.bad ++ bl.filter j.left.contains).eraseDups } else j }

/-- The erase count of the most-worn block of a mode has risen to `n`: FLT_WEAR shows it in 0.1% of the rating, and an error record is
written at the rating and at every further 10% (R352, class FLWEAR of Table 21-3). -/
def State.worn (s : State) (slc : Bool) (n : Nat) : State :=
  let f := s.flash
  let rate := if slc then s.getF F.fltSlcrateRating 0 else f.rating
  let mil := if rate = 0 then 0 else n * 1000 / rate
  let s := s.setF (if slc then F.fltWearSlcused else F.fltWearDenseused) 0 (min mil 65535)
  let step := if mil < 1000 then 0 else mil / 100 - 9
  let old := if slc then f.wornSlc else f.wornDense
  if old < step then
    let t := s.setFlash (if slc then { s.flash with wornSlc := step } else { s.flash with wornDense := step })
    t.record { cls := 0x14, sev := 0, kind := 3, unit := b2n slc, syn := mil }
  else s

/-! ### The hold-up store (R362) -/

/-- STAGELIM in MiB at a bank voltage of `v` times 10 mV: min(STAGECAP, 0.8 × T × FLUSHRATE), 0 when T ≤ 0. T × 10^9 is
½ × CAPMF × (V² − VMIN²) × 10^2 / PFLUSH − 2 × 10^6 with CAPMF in mF and V in 10 mV. The rule states no T for PFLUSH = 0. [Log 84 DESIGN CHOICE] -/
def State.stageLim (s : State) (v : Nat) : Nat :=
  let g := fun f => s.getF f 0
  let vmin := g F.fltHupcfgVmin
  let cap := g F.fltHupcfgStagecap
  let pf := g F.fltHupcfgPflush
  if pf = 0 then min cap (Config.stagelimOpen (g F.fltHupcfgCapmf) vmin v)
  else if v ≤ vmin then 0
  else
    let num : Int := (g F.fltHupcfgCapmf * (v * v - vmin * vmin) : Nat) - (40000 * pf : Nat)
    if num ≤ 0 then 0
    else
      let mib := num.toNat * 8 * g F.fltHupcfgFlushrate * 10000000 / (pf * 2 * 10000000 * 10 * 0x100000)
      min cap mib

/-- Leave READY: every staged byte is programmed at once, later writes are write-through. -/
def State.leaveReady (s : State) (st : Nat) : State :=
  if s.getF F.fltHupState 0 = 2 && st ≠ 2 then
    (s.setF F.fltHupState 0 st).programmed ((s.flash.writes.filter (·.durable)).map (·.id))
  else s.setF F.fltHupState 0 st

/-- A measurement of the bank voltage: the limit and the state (R362, Table 14-6). -/
def State.holdMeasure (s : State) (v : Nat) : State :=
  let s := (s.setF F.fltHupVmeas 0 v).setF F.fltHupStagelim 0 (s.stageLim v)
  let cap := s.getF F.fltHupcfgStagecap 0
  let low := decide (v < s.getF F.fltHupcfgVmin 0)
  let st := s.getF F.fltHupState 0
  let s :=
    if s.getF F.fltHupcfgCapmf 0 = 0 || low || !s.flash.probeOk then
      (s.leaveReady 0).setFlash { (s.leaveReady 0).flash with goodSince := none }
    else if st = 0 then (s.setF F.fltHupState 0 1).setFlash { s.flash with goodSince := if s.getF F.fltHupStagelim 0 = cap then some s.now else none }
    else if st = 1 then
      if s.getF F.fltHupStagelim 0 = cap then
        match s.flash.goodSince with
        | none => s.setFlash { s.flash with goodSince := some s.now }
        | some t => if t + 10000000000 ≤ s.now then s.setF F.fltHupState 0 2 else s
      else s.setFlash { s.flash with goodSince := none }
    else s
  s.flashAll

/-- A probe of the bank: it passes when the voltage step implies at least 0.8 × CAPMF (R362). -/
def State.holdProbe (s : State) (ok : Bool) : State :=
  (s.setFlash { s.flash with probeOk := ok }).holdMeasure (s.getF F.fltHupVmeas 0)

/-- PWRFAIL_N has fallen: durable writes go into the flush journal; of the others each block keeps its old or its new content, which is
open; pending updates are lost with power (R363, R347). [Log 42 DEDUCED] -/
def State.flashFlush (s : State) : State :=
  let s := s.setFlash { s.flash with flushing := true }
  let lost := s.flash.writes.filter fun w => !w.durable && !w.upd
  let blk := lost.flatMap fun w => w.blocks.map fun b => (w.region, b, w.prev)
  let t := blk.zipIdx.foldl (fun (t : State) e =>
    if (Config.freeByte (s.fresh + e.2)).toNat % 2 = 0 then
      let v := t.flRegion e.1.1
      t.setRegion e.1.1 { v with data := putTab v.data (e.1.2.1 * 4096) (getTab e.1.2.2 (e.1.2.1 * 4096) 4096) }
    else t) s
  let t := t.bumpFresh blk.length
  (t.setFlash { t.flash with writes := [] }).showStaged

/-- Every pending update is discarded (R347). -/
def State.dropUpdates (s : State) (p : Nat → Bool) : State :=
  s.flash.regions.foldl (fun t e => if p e.1 && e.2.upd.isSome then t.dropUpdate e.1 else t) s

/-! ### Meanings -/

/-- FLREAD (R343): the command issues, samples the version that it reads, and starts its page reads. -/
def execFlread (q : Nat) (s : State) : Host.Outcome State Fault Refusal :=
  .next (s.issue q (fun c => c.opcode == 0x38) flreadCheck State.goFlread)

/-- An FLWRITE of one OP; OP 5 to 7, which no OP is, belong to the row of OP 0. [Log 18 DESIGN CHOICE] -/
def isFlwrite (op : Nat) (c : Cmd) : Bool := c.opcode == 0x39 && (c.flOp == op || (op == 0 && decide (5 ≤ c.flOp)))

/-- FLWRITE_SPILL (R348). -/
def execFlwriteSpill (q : Nat) (s : State) : Host.Outcome State Fault Refusal := .next (s.issue q (isFlwrite 0) flwriteCheck State.goFlwrite)

/-- FLWRITE_BEGIN (R345, R346). -/
def execFlwriteBegin (q : Nat) (s : State) : Host.Outcome State Fault Refusal := .next (s.issue q (isFlwrite 1) flwriteCheck State.goFlwrite)

/-- FLWRITE_DATA (R345). -/
def execFlwriteData (q : Nat) (s : State) : Host.Outcome State Fault Refusal := .next (s.issue q (isFlwrite 2) flwriteCheck State.goFlwrite)

/-- FLWRITE_COMMIT (R345). -/
def execFlwriteCommit (q : Nat) (s : State) : Host.Outcome State Fault Refusal := .next (s.issue q (isFlwrite 3) flwriteCheck State.goFlwrite)

/-- FLWRITE_ABANDON (R345). -/
def execFlwriteAbandon (q : Nat) (s : State) : Host.Outcome State Fault Refusal := .next (s.issue q (isFlwrite 4) flwriteCheck State.goFlwrite)

/-- FLASH_READ_COMPLETE (R343, R349): the codeword of a block of read job `job`, at a place of the NAND, was delivered at a step of
Table 14-5, 5 for none. [Log 5 DESIGN CHOICE] -/
def execFlashReadComplete (job block step ch lun loc : Nat) (s : State) : Host.Outcome State Fault Refusal :=
  .next (s.jobRead job block step ⟨ch, lun, loc⟩)

/-- PROGRAM_COMPLETE (R360): the wordline groups of these staged writes are programmed. -/
def execProgramComplete (writes : List Nat) (s : State) : Host.Outcome State Fault Refusal := .next (s.programmed writes)

/-- GROWN_BAD_BLOCK (R351): a block of a mode, at a place of the NAND, is retired, its data moved to a spare. [Log 43 DESIGN CHOICE] -/
def execGrownBadBlock (slc : Bool) (ch lun block : Nat) (s : State) : Host.Outcome State Fault Refusal := .next (s.growBad slc ⟨ch, lun, block⟩)

/-- WEAR_LEVEL_MOVE (R352): every 2^16 erases data moves; `worst` is the erase count of the most-worn block of the mode afterwards.
[Log 43 DESIGN CHOICE] -/
def execWearLevelMove (slc : Bool) (worst : Nat) (s : State) : Host.Outcome State Fault Refusal :=
  .next ((s.setFlash { s.flash with erases := s.flash.erases + 65536 }).worn slc worst)

/-- RETENTION_PATROL (R353): the patrol read a codeword of a written block at a step of Table 14-5; `old` says that the corrected bits or
the age of the block call for relocation, which leaves the content as it is. A block that no step reads is poisoned. -/
def execRetentionPatrol (region block step : Nat) (old : Bool) (ch lun loc : Nat) (s : State) : Host.Outcome State Fault Refusal :=
  .next (if !(s.flRegion region).written.contains block then s
    else
      let step := if (s.flRegion region).bad.contains block then 5 else step
      let t := s.codeword region block step ⟨ch, lun, loc⟩
      let t := if 5 ≤ step then t.loseBlocks region [block] else t
      let keep := t.flash.relocate.filter (· != (region, block))
      if old || 2 ≤ step then t.setFlash { t.flash with relocate := keep } else t)

/-- LUN_FAIL (R356): a LUN (channel × 16 + LUN) is retired and its rebuild starts. [Log 43 DESIGN CHOICE] -/
def execLunFail (lun : Nat) (s : State) : Host.Outcome State Fault Refusal :=
  .next (if s.getF F.fltStatusState 0 = 3 then
      let t := ((s.setF F.fltStatusState 0 4).setF F.fltStatusLostlun 0 lun).setF F.fltStatusRebuild 0 0
      t.record { cls := 0x12, sev := 2, kind := 3, unit := lun / 16, sub := lun % 16, syn := lun }
    else s)

/-- DOUBLE_LUN_FAIL (R357): a second LUN of a stripe set fails before the rebuild ends; `lost` are the blocks, by region, of the stripes
on both LUNs that are not rebuilt. [Log 43 DESIGN CHOICE] -/
def execDoubleLunFail (lun : Nat) (lost : List (Nat × List Nat)) (s : State) : Host.Outcome State Fault Refusal :=
  .next (if s.getF F.fltStatusState 0 = 4 then
      let t := lost.foldl (fun t e => t.loseBlocks e.1 e.2) (s.setF F.fltStatusState 0 5)
      t.record { cls := 0x13, sev := 2, kind := 3, unit := lun / 16, sub := lun % 16, syn := lun }
    else s)

/-- REBUILD_COMPLETE (R356): the rebuild ends and the tier is ready. -/
def execRebuildComplete (s : State) : Host.Outcome State Fault Refusal :=
  .next (if s.getF F.fltStatusState 0 = 4 || s.getF F.fltStatusState 0 = 5 then
      ((s.setF F.fltStatusState 0 3).setF F.fltStatusLostlun 0 0xFFF).setF F.fltStatusRebuild 0 0
    else s)

/-- HOLDUP_MEASURE (R362): the bank voltage, in 10 mV. -/
def execHoldupMeasure (v : Nat) (s : State) : Host.Outcome State Fault Refusal := .next (s.holdMeasure v)

/-- HOLDUP_PROBE (R362): whether the voltage step of the probe implies at least 0.8 × CAPMF. -/
def execHoldupProbe (ok : Bool) (s : State) : Host.Outcome State Fault Refusal := .next (s.holdProbe ok)

end Sys2Proof.Machine
end

