-- ==== Sys2Proof/Machine/Access.lean ====
section
/-!
DEFINITION. Machine/Access.lean: who may act on which registers (R369, R555, R559, R560), and the function events that a refusal or
an event of a partition raises (R402).
-/
namespace Sys2Proof.Machine

/-- Functions 1 to 63 that are bound to a partition. -/
def State.fnsOf (s : State) (p : Nat) : List Nat := (List.range 64).filter fun n => n != 0 && s.fnPart n == p

/-- Raise a cause in every function that is bound to a partition. -/
def State.raisePart (s : State) (p : Nat) (f : Fld) : State := (s.fnsOf p).foldl (fun t n => t.raiseEvt n f) s

/-- Refuse a register access: ACCERR in the function, or an MCTP error completion (R555, R559). -/
def State.refuseAcc (s : State) (a : Acr) : State :=
  match a with
  | .fn n => s.raiseEvt n F.pciEvtcauseAccerr
  | .mb => s.emit (.mctp 2 0 0)

/-- An access to a register of partition `p` (R369). -/
def State.forPart (s : State) (a : Acr) (p : Nat) (k : State → State) : State := if s.mayAct a p then k s else s.refuseAcc a

/-- An access to a register of the device, a site, a port or an engine: the physical function and the management bus only (R560). -/
def State.forDevice (s : State) (a : Acr) (k : State → State) : State :=
  match a with
  | .fn 0 | .mb => k s
  | .fn _ => s.refuseAcc a

/-- The global number of unit `n` as the accessor counts it: a virtual function counts from the first unit of its partition's grant
(R560); none beyond the grant. -/
def State.unitOf (s : State) (a : Acr) (first count : Fld) (all n : Nat) : Option Nat :=
  match a with
  | .fn 0 | .mb => if n < all then some n else none
  | .fn f =>
    let p := s.fnPart f
    if p < 16 && decide (n < s.getF count p) then some (s.getF first p + n) else none

/-- The function whose own register set an access uses: a function's own; the management bus names one (R559). -/
def fnSet (a : Acr) (set : Nat) : Nat :=
  match a with
  | .fn n => n
  | .mb => set

/-- The number of an accessor among those that hold a two-slot latch (R556). [Log 50 DEDUCED] -/
def acrIx (a : Acr) : Nat :=
  match a with
  | .fn n => n
  | .mb => 64

/-- The whole value of a two-slot register that a write of its low slot applies (R556). [Log 50 DEDUCED] -/
def State.wide (s : State) (a : Acr) (v : Nat) : Nat := v % 0x10000000000000000 + tget (fun _ => 0) s.latch (acrIx a) <<< 64

/-- The accessor's latch is set. [Log 50 DEDUCED] -/
def State.setLatch (s : State) (a : Acr) (v : Nat) : State := { s with latch := tset (fun _ => 0) s.latch (acrIx a) (v % 0x10000000000000000) }

end Sys2Proof.Machine
end

