-- ==== Sys2Proof/Machine/Kv.lean ====
section
/-!
DEFINITION. Machine/Kv.lean: the key/value cache (Chapter 8): paged descriptors, the pool and its agent, appends and commits of
KVSTORE, KVFORK, KVFREE and KVPREFETCH.
-/
namespace Sys2Proof.Machine

/-! ### Pools and their tables (R203 to R206) -/

/-- The agent of a partition. -/
def State.agent (s : State) (p : Nat) : Agent := tget (fun _ => Agent.fresh) s.agents p

/-- Set the agent of a partition. -/
def State.setAgent (s : State) (p : Nat) (a : Agent) : State := { s with agents := tset (fun _ => Agent.fresh) s.agents p a }

/-- The pool is ready (R209). -/
def State.kvReady (s : State) (p : Nat) : Bool := s.getF F.kvtStateState p == 2 && (s.agent p).pool.isSome

/-- The partition is of the ring class (R201). -/
def State.ringClass (s : State) (p : Nat) : Bool := s.flag F.kvtSlotsRing p

/-- Slot `v` lies in the partition's range (R202). -/
def State.inSlots (s : State) (p : Nat) (v : Int) : Bool :=
  decide (0 ≤ v) && inRange (s.getF F.kvtSlotsSlotfirst p) (s.getF F.kvtSlotsSlotcount p) v.toNat

/-- Reaches of a partition. -/
def State.reachesOf (s : State) (p : Nat) : List Nat := (List.range 80).filter (s.hasReach p)

/-- The lowest non-retired cluster of the partition's reaches (R207). -/
def State.agentHome (s : State) (p : Nat) : Option Nat := (s.clustersOf (s.reachesOf p)).head?

/-- The agent runs: the cluster it runs in has not been retired since (R208). -/
def State.agentUp (s : State) (p : Nat) : Bool :=
  match (s.agent p).cluster with
  | some c => s.clusterUp c
  | none => (s.agentHome p).isSome

/-- The agent takes requests: it runs, and no operation is in progress (R207). -/
def State.agentIdle (s : State) (p : Nat) : Bool := s.agentUp p && (s.agent p).busy.isNone

/-- Bytes of a frame (R205). -/
def Pool.frameBytes (u : Pool) : Nat := u.nl * u.page

/-- PTCAP (Table 8-2). -/
def Pool.ptcap (u : Pool) : Nat := u.maxlen / u.tpf

/-- Total number of frames. -/
def Pool.frames (u : Pool) : Nat := sumOf (u.exts.map (·.2))

/-- FB(f): frames are numbered across the extents (R205). -/
def frameAddr (size : Nat) : List (Nat × Nat) → Nat → Nat
  | [], _ => 0
  | e :: t, f => if f < e.2 then e.1 + f * size else frameAddr size t (f - e.2)

/-- The address of frame `f` of a pool. -/
def Pool.addr (u : Pool) (f : Nat) : Nat := frameAddr u.frameBytes u.exts f

/-- The address of token `t` of a frame: layer, component, byte `off` of the token's heads (R205). -/
def Pool.tokenAddr (u : Pool) (f layer comp t off : Nat) : Nat :=
  u.addr f + layer * u.page + comp * (u.tpf * u.kb) + t * (if comp = 0 then u.kb else u.vb) + off

/-- Slot descriptor of a slot of the partition. -/
def State.slotAddr (s : State) (p : Nat) (u : Pool) (slot : Nat) : Nat := u.slottab + 16 * (slot - s.getF F.kvtSlotsSlotfirst p)

/-- LENGTH, NMAP and NFLASH of a slot (Table 8-4). -/
def State.slotField (s : State) (p : Nat) (u : Pool) (slot i : Nat) : Nat := s.numAt (s.slotAddr p u slot + 4 * i) 4

/-- Set a field of a slot descriptor. -/
def State.setSlot (s : State) (p : Nat) (u : Pool) (slot i v : Nat) : State := s.writeBytes (s.slotAddr p u slot + 4 * i) (leBytes 4 v)

/-- Add to a field of a slot descriptor. -/
def State.addSlot (s : State) (p : Nat) (u : Pool) (slot i : Nat) (d : Int) : State :=
  s.setSlot p u slot i (ofInt 32 ((s.slotField p u slot i : Int) + d))

/-- Address of page-table entry `x` of a slot (Table 8-5). -/
def State.ptAddr (s : State) (p : Nat) (u : Pool) (slot x : Nat) : Nat :=
  u.ptbase + 8 * ((slot - s.getF F.kvtSlotsSlotfirst p) * u.ptcap + x)

/-- Page-table entry: VALID, FL and LOC. -/
def State.ptEntry (s : State) (p : Nat) (u : Pool) (slot x : Nat) : Bool × Bool × Nat :=
  let v := s.numAt (s.ptAddr p u slot x) 8
  let fl := bit v 62
  (bit v 63, fl, if fl then bits v 0 48 else bits v 0 28)

/-- Write a page-table entry that is valid, or clear it. -/
def State.setPt (s : State) (p : Nat) (u : Pool) (slot x : Nat) (e : Option (Bool × Nat)) : State :=
  s.writeBytes (s.ptAddr p u slot x) (leBytes 8 (match e with
    | some (fl, loc) => 2 ^ 63 + b2n fl * 2 ^ 62 + loc
    | none => 0))

/-- A frame descriptor: NEXT, STATE, REFCNT (Table 8-6). -/
def State.frameDesc (s : State) (u : Pool) (f : Nat) : Nat × Nat × Nat :=
  let v := s.numAt (u.fdbase + 8 * f) 8
  (bits v 20 28, bits v 17 3, bits v 0 16)

/-- Write a frame descriptor. -/
def State.setFrame (s : State) (u : Pool) (f next st ref : Nat) : State :=
  s.writeBytes (u.fdbase + 8 * f) (leBytes 8 (next * 2 ^ 20 + st * 2 ^ 17 + ref))

/-- REFCNT of a frame. -/
def State.refcnt (s : State) (u : Pool) (f : Nat) : Nat := (s.frameDesc u f).2.2

/-! ### The free list (R210, R211) -/

/-- Pop the free list: the frame, STATE 1 or 2 and REFCNT 1; LOWEVT as FREECNT falls below LOWMARK. None when the list is empty. -/
def State.popFrame (s : State) (p : Nat) (u : Pool) (st : Nat) : Option (Nat × State) :=
  let a := s.agent p
  if a.head = noFrame then none
  else
    let f := a.head
    let n := s.getF F.kvtStateFreecnt p
    let t := (s.setAgent p { a with head := (s.frameDesc u f).1 }).setFrame u f 0 st 1
    let t := t.setF F.kvtStateFreecnt p (n - 1)
    let low := s.getF F.kvtLowmarkLowmark p
    let t := if n - 1 < low && low ≤ n then
        let r := t.setF F.kvtStateLowevt p 1
        if s.flag F.kvtStateLowevt p then r else r.raisePart p F.pciEvtcauseKvlow
      else t
    some (f, t)

/-- Return a frame to the head of the free list. -/
def State.pushFrame (s : State) (p : Nat) (u : Pool) (f : Nat) : State :=
  let a := s.agent p
  ((s.setFrame u f a.head 0 0).setAgent p { a with head := f }).setF F.kvtStateFreecnt p (s.getF F.kvtStateFreecnt p + 1)

/-- One page-table entry less names a frame; it returns to the list when none does. Answers whether it did. -/
def State.dropRef (s : State) (p : Nat) (u : Pool) (f : Nat) : State × Bool :=
  let d := s.frameDesc u f
  if d.2.2 ≤ 1 then (s.pushFrame p u f, true) else (s.setFrame u f d.1 d.2.1 (d.2.2 - 1), false)

/-- An operation failed for want of a frame (Table 8-14). -/
def State.noFrames (s : State) (p : Nat) : State := s.bump F.kvtCnt0Allocfail p 1

/-- The agent has written and cleared its intent: what the journal's bytes then hold is its own (R208). [Log 39 DESIGN CHOICE] -/
def State.journal (s : State) (u : Pool) : State :=
  let f := s.freeBytes 64
  f.2.writeBytes u.journal f.1

/-- Nanoseconds that a cluster stalls on the agent: timing, so the sum that KVT_STALLNS takes is open (Table 8-16). [Log 24 DESIGN CHOICE] -/
def State.agentStall (s : State) (p : Nat) : State :=
  let f := s.freeBytes 4
  f.2.bump F.kvtStallnsStallns p (leNat f.1)

/-! ### Spill units (Table 8-2, R221, R222) -/

/-- Bit of a spill unit in the spill bitmap. -/
def State.spillBit (s : State) (u : Pool) (k : Nat) : Bool := bit (s.byteAt (u.spillmap + k / 8)).toNat (k % 8)

/-- Set or clear the bit of a spill unit. -/
def State.setSpill (s : State) (u : Pool) (k : Nat) (v : Bool) : State :=
  let b := (s.byteAt (u.spillmap + k / 8)).toNat
  let w := 2 ^ (k % 8)
  s.writeBytes (u.spillmap + k / 8) (leBytes 1 (if v then b ||| w else b - (if bit b (k % 8) then w else 0)))

/-- The lowest free spill unit. -/
def State.freeUnit (s : State) (u : Pool) : Option Nat :=
  if u.spillreg = 0 then none else (List.range u.spillunits).find? fun k => !s.spillBit u k

/-! ### Moving frames -/

/-- Words of a frame that are poisoned. -/
def State.badWords (s : State) (u : Pool) (f : Nat) : List Nat :=
  (wordsOf (u.addr f) u.frameBytes).filter fun w => (s.wordClass w).isPoison

/-- Copy every byte of a frame into another, burst by burst, poison with it (R215). -/
def State.copyFrame (s : State) (u : Pool) (src dst : Nat) : State :=
  let bad := s.badWords u src
  let t := s.readWords (wordsOf (u.addr src) u.frameBytes)
  (t.writeBytes (u.addr dst) (t.bytesAt (u.addr src) u.frameBytes)).markWords
    (bad.map fun w => u.addr dst / 64 + (w - u.addr src / 64))

/-- Write the content of a spill unit into a frame; unreadable blocks are written as poison (R222, R350). Answers whether any was. -/
def State.fillFrame (s : State) (u : Pool) (unit f : Nat) (data : Tab Byte) (bad : List Nat) : State × Bool :=
  let off := unit * u.frameBytes
  let here := bad.filter fun b => decide (off ≤ b * 4096) && decide (b * 4096 < off + u.frameBytes)
  let t := s.writeBytes (u.addr f) (getTab data off u.frameBytes)
  (here.foldl (fun (t : State) b => t.poisonBytes (u.addr f + (b * 4096 - off)) 4096) t, !here.isEmpty)

/-- A fetched entry is mapped: its frame, its spill unit freed (R222 steps 4 and 5). -/
def State.fetched (s : State) (p : Nat) (u : Pool) (slot x f unit : Nat) : State :=
  ((((s.setFrame u f 0 1 1).setPt p u slot x (some (false, f))).setSpill u unit false).addSlot p u slot 2 (-1)).journal u

/-- A fetch that a cluster requested, done at once (R222): the state, its status, and the frame. [Log 38 DEDUCED] -/
def State.fetchNow (s : State) (p : Nat) (u : Pool) (slot x unit : Nat) : State × Nat × Nat :=
  let s := (s.bump F.kvtCnt1Stallfetch p 1).agentStall p
  match s.popFrame p u 2 with
  | none => (s.noFrames p, 0x3B, 0)
  | some (f, t) =>
    let v := t.flRegion u.spillreg
    (((t.fillFrame u unit f v.data v.bad).1).fetched p u slot x f unit, 0, f)

/-! ### agent_map (R215) -/

/-- The agent's map operation: the state, its status, and the frame of the position. -/
def State.agentMap (s : State) (p : Nat) (slot : Int) (pos : Nat) : State × Nat × Nat :=
  match (s.agent p).pool with
  | none => (s, 0x40, 0)
  | some u =>
    if !s.inSlots p slot then (s, 0x39, 0)
    else
      let sl := slot.toNat
      let x := pos / u.tpf
      if u.maxlen ≤ pos || pos < s.slotField p u sl 0 then (s, 0x3A, 0)
      else
        let e := s.ptEntry p u sl x
        if !e.1 then
          match s.popFrame p u 1 with
          | none => (s.noFrames p, 0x3B, 0)
          | some (f, t) => (((t.setPt p u sl x (some (false, f))).addSlot p u sl 1 1).journal u, 0, f)
        else if e.2.1 then s.fetchNow p u sl x e.2.2
        else if 1 < s.refcnt u e.2.2 then
          match s.popFrame p u 1 with
          | none => (s.noFrames p, 0x3B, 0)
          | some (f, t) =>
            let t := t.copyFrame u e.2.2 f
            let t := (t.dropRef p u e.2.2).1
            (((t.setPt p u sl x (some (false, f))).bump F.kvtCnt0Cow p 1).journal u, 0, f)
        else (s.journal u, 0, e.2.2)

/-! ### Paged descriptors (R212, Table 8-11) -/

/-- Bytes 28 to 32 of a paged descriptor. -/
def Desc.pagedWord (d : Desc) : Nat := ofInt 40 (d.stride 1)

/-- LAYER. -/
def Desc.layer (d : Desc) : Nat := bits d.pagedWord 0 16

/-- COMP. -/
def Desc.comp (d : Desc) : Nat := bits d.pagedWord 16 1

/-- Bytes of the heads of a token of a paged descriptor. -/
def Desc.headBytes (d : Desc) : Nat := d.size 0 * d.size 2 * d.fmt.width / 8

/-- The first field of a paged descriptor that breaks Table 8-11 or disagrees with the pool; `store` for KVSTORE. -/
def pagedBad (u : Pool) (store : Bool) (b : List Byte) : Option Nat :=
  let d := parseDesc 0 b
  let w := d.size 0 * d.fmt.width / 8
  let tests : List (Nat × Bool) :=
    [(0, if store then d.base != 0 else d.base % 4 != 0), (6, d.rank != 4), (6, d.fmt != (if d.comp = 0 then u.kfmt else u.vfmt)),
     (7, indMask b != 0), (8, !(d.size 0 == 64 || d.size 0 == 128) || w % 64 != 0), (12, d.size 1 != 0),
     (16, d.headBytes != (if d.comp = 0 then u.kb else u.vb)), (20, store && d.size 3 != 1), (24, d.size 4 != 1),
     (28, decide (u.nl ≤ d.layer)), (30, bits (fieldAt b 30 1) 1 7 != 0)] ++
    (List.range 17).map (fun i => (31 + i, fieldAt b (31 + i) 1 != 0)) ++ [(48, d.scaleBase != 0), (54, d.indBase != 0)]
  (tests.find? (·.2)).map (·.1)

/-- The check of a paged descriptor at `a`, reported under `slot`: the ring class, the pool state, then its fields (R201, R209, R212). -/
def pagedCheck (s : State) (p : Nat) (store : Bool) (slot a : Nat) (b : List Byte) : Chk Unit := do
  ensure (!s.ringClass p) (rejIn 0x38 slot a 7)
  ensure (s.kvReady p) (rejIn 0x40 slot a 0)
  match (s.agent p).pool with
  | none => throw (rejIn 0x40 slot a 0)
  | some u =>
    match pagedBad u store b with
    | some off => throw (rejIn 0x38 slot a off)
    | none => pure ()

/-! ### KVSTORE -/

/-- K0[0] = COMMIT (R214). -/
def Stage.commits (st : Stage) : Bool := bit st.k0 0

/-- The shape of D1 of a KVSTORE in the ring class (R177, R224): the first field that breaks it. -/
def ringKvBad (values : Bool) (d : Desc) : Option Nat :=
  let tests : List (Nat × Bool) :=
    [(6, !d.fmt.isArray || (values && d.fmt.isMx)), (7, d.kind != 0), (8, !(d.size 0 == 64 || d.size 0 == 128)), (24, d.size 4 != 1)]
  (tests.find? (·.2)).map (·.1)

/-- The checks of a KVSTORE record (R209, R214, R224). -/
def kvCheck : KvCheck := fun s c q place b st prev => do
  let p := s.partOf c.ctx
  let a1 := opdAddr b false
  let a2 := opdAddr b true
  let ring := s.ringClass p
  ensure (a1 != 0) (place 4)
  let r1 ← loadDesc s 0x20 ⟨6, a1, Fmt.isArray, [0, 1, 2, 3]⟩
  let d1 := parseDesc a1 r1
  ensure (d1.kind == (if ring then 0 else 1)) { rejIn 0x38 6 a1 7 with tag := d1.dtag }
  if ring then pure () else withTag d1.dtag (pagedCheck s p true 6 a1 r1)
  ensure (ring || d1.comp == b2n (bit st.param 0)) { rejIn 0x38 6 a1 30 with tag := d1.dtag }
  ensure (a2 != 0) (place 10)
  let r2 ← loadDesc s 0x20 ⟨6, a2, anyFmt, [0, 1, 2, 3]⟩
  let m := parseDesc a2 r2
  ensure (m.rank == 2 && m.fmt == .int32) { rejIn 0x38 6 a2 6 with tag := m.dtag }
  ensure (m.kind == 0) { rejIn 0x38 6 a2 7 with tag := m.dtag }
  ensure (ring || decide (st.k0 < 2)) (place 16)
  ensure (ring || st.k1 == 0) (place 20)
  let d1 ← if ring then resolveDesc s c.ctx 6 a1 r1 else pure d1
  let m ← resolveDesc s c.ctx 6 a2 r2
  match (if ring then ringKvBad (bit st.param 0) d1 else none) with
  | some off => throw { rejIn 0x38 6 a1 off with tag := d1.dtag }
  | none => pure ()
  ensure (m.size 0 == 2) { rejIn 0x38 6 a2 8 with tag := m.dtag }
  ensure (m.size 1 == q.m) { rejIn 0x38 6 a2 12 with tag := m.dtag }
  ensure (st.clo % d1.size 0 == 0) (place 24)
  ensure (st.chi == st.clo + d1.size 0 * d1.size 2) (place 28)
  ensure (st.sfmt == (prev.map (·.sfmt)).getD .fp32) (place 2)
  ensure (ring || q.batch.all (· == 1)) (place 0)
  return { st with d1 := some d1, d2 := some m }

/-- The slot and the position of row `m` of a token map (R214). -/
def State.mapRow (s : State) (d : Desc) (m : Nat) : Int × Nat :=
  (toInt 32 (s.elemCode d 0 [m, 0, 0, 0]), s.elemCode d 1 [m, 0, 0, 0])

/-- The columns of a row that a KVSTORE appends: offset into the window and their values with fields. -/
def Stage.kvCols (st : Stage) (c0 : Nat) (vals : List (Num × Nat)) : Nat × List (Num × Nat) :=
  let a := max c0 st.clo
  (a - st.clo, (vals.drop (a - c0)).take (st.chi - a))

/-- Append one row in a standard-class partition: `last` is the last mapped pair of the item with its frame (R215). -/
def PartRun.kvRow (c : Cmd) (p : Nat) (st : Stage) (r : PartRun × Option (Nat × Nat × Nat)) (m : Nat) (vals : Nat × List (Num × Nat)) :
    PartRun × Option (Nat × Nat × Nat) :=
  let d := st.d1.getD .nil
  let mp := st.d2.getD .nil
  let r1 := r.1.read (mp.runWords 0 2 [m, 0, 0, 0])
  let e := r1.s.mapRow mp m
  if r1.status != 0 || e.1 = -1 then (r1, r.2)
  else match (r1.s.agent p).pool with
  | none => (r1.fail 0x40 0, r.2)
  | some u =>
    let x := e.2 / u.tpf
    let same := match r.2 with
      | some (a, b, _) => (a : Int) == e.1 && b == x
      | none => false
    let q := if same then (r1.s, 0, ((r.2.map (·.2.2)).getD 0)) else (r1.s.agentStall p).agentMap p e.1 e.2
    let r2 : PartRun := { r1 with s := q.1 }
    if q.2.1 != 0 then (r2.fail q.2.1 0, r.2)
    else
      let o := convertRun c.ftz st.conv d.fmt vals.2
      let t := r2.s.writeBytes (u.tokenAddr q.2.2 d.layer d.comp (e.2 % u.tpf) (vals.1 * d.fmt.width / 8)) (packBytes d.fmt.width o.1)
      ({ r2 with s := t, fl := r2.fl + o.2.2 }, some (e.1.toNat, x, q.2.2))

/-- Append one row in a ring-class partition (R224). -/
def PartRun.ringRow (c : Cmd) (st : Stage) (r : PartRun) (m : Nat) (vals : Nat × List (Num × Nat)) : PartRun :=
  let d := st.d1.getD .nil
  let mp := st.d2.getD .nil
  let r1 := r.read (mp.runWords 0 2 [m, 0, 0, 0])
  let e := r1.s.mapRow mp m
  let skip := st.k1 != 0 && (decide (e.2 < st.k0) || decide (st.k0 + st.k1 ≤ e.2))
  let tok := if st.k1 != 0 then e.2 - st.k0 else e.2
  if r1.status != 0 || e.1 = -1 || skip then r1
  else if d.size 1 ≤ tok then r1.fail 0x3A 0
  else
    let hd := d.size 0
    let heads := upto (vals.1 / hd) (cdiv (vals.1 + vals.2.length) hd)
    heads.foldl (fun (r : PartRun) h =>
      let i0 := vals.1 - h * hd
      let part := (vals.2.drop (h * hd - vals.1)).take (hd - i0)
      let o := convertRun c.ftz st.conv d.fmt part
      { r with s := r.s.writeRun d i0 [tok, h, e.1.toNat, 0] o, fl := r.fl + o.2.2 }) r1

/-- The appends of an item: for each KVSTORE record, its rows in ascending order (R215, R224). -/
def PartRun.kvWrites (r : PartRun) (c : Cmd) (wr : List SideWr) : PartRun :=
  let p := r.s.partOf c.ctx
  ((c.plan.stages.filter (·.typ == 0x0B)).eraseDups).foldl (fun (r : PartRun) st =>
    let rows := wr.filterMap fun w => match w with
      | .kv t m c0 vals => if t = st then some (m, st.kvCols c0 vals) else none
      | .run _ _ _ _ => none
    let rows := rows.filter fun e => !e.2.2.isEmpty
    if r.s.ringClass p then
      rows.foldl (fun (r : PartRun) e => if r.status != 0 then r else r.ringRow c st e.1 e.2) r
    else
      (rows.foldl (fun (q : PartRun × Option (Nat × Nat × Nat)) e =>
        if q.1.status != 0 then q else PartRun.kvRow c p st q e.1 e.2) (r, none)).1) r

/-- The command commits: some KVSTORE record of it has COMMIT = 1, in the standard class (R216). -/
def State.kvCommits (s : State) (c : Cmd) : Bool :=
  !s.ringClass (s.partOf c.ctx) && c.plan.stages.any fun st => st.typ == 0x0B && st.commits

/-- The agent commits a command: LENGTH of every slot in the token maps of its committing records rises to 1 + the largest position
mapped to it (R216). [Log 38 DEDUCED] -/
def State.kvCommit (s : State) (c : Cmd) : State :=
  let p := s.partOf c.ctx
  if !s.kvCommits c then s
  else match (s.agent p).pool with
  | none => s
  | some u =>
    let es := (c.plan.stages.filter fun st => st.typ == 0x0B && st.commits).flatMap fun st =>
      let mp := st.d2.getD .nil
      (List.range (mp.size 1)).map fun m => s.mapRow mp m
    let es := es.filter fun e => s.inSlots p e.1
    let slots := (es.map fun e => e.1.toNat).eraseDups
    (slots.foldl (fun (t : State) sl =>
      let top := maxOf ((es.filter fun e => e.1.toNat == sl).map fun e => e.2 + 1)
      t.setSlot p u sl 0 (max (t.slotField p u sl 0) top)) s).journal u

/-! ### Initialisation (R204, R209, R210) -/

/-- The pool record at an address. -/
def State.parsePool (s : State) (a : Nat) : Pool :=
  let b := s.bytesAt a 64
  let f := fun off n => fieldAt b off n
  let fm := fun v => (Fmt.ofCode v).getD .fp32
  { nl := f 0 2, page := 16384 * 2 ^ bits (f 2 1) 0 2, tpf := 2 ^ f 3 1, kfmt := fm (bits (f 4 1) 0 4), vfmt := fm (bits (f 4 1) 4 4),
    kb := f 8 4, vb := f 12 4, maxlen := f 16 4, spillreg := f 20 2, slottab := f 24 6, ptbase := f 30 6, fdbase := f 36 6,
    journal := f 42 6, spillmap := f 48 6, spillunits := f 54 4,
    exts := (List.range (f 58 1)).map fun i => (s.numAt (a + 64 + 16 * i) 6, s.numAt (a + 64 + 16 * i + 6) 4) }

/-- Byte ranges of the tables, the journal, the spill bitmap and the extents. -/
def State.poolRanges (s : State) (p : Nat) (u : Pool) : List (Nat × Nat) :=
  let n := s.getF F.kvtSlotsSlotcount p
  [(u.slottab, 16 * n), (u.ptbase, 8 * n * u.ptcap), (u.fdbase, 8 * u.frames), (u.journal, 64)] ++
    (if u.spillreg = 0 then [] else [(u.spillmap, cdiv u.spillunits 8)]) ++ u.exts.map fun e => (e.1, e.2 * u.frameBytes)

/-- No two ranges of a list meet. -/
def apart : List (Nat × Nat) → Bool
  | [] => true
  | r :: t => (t.all fun x => !rangesMeet r.1 r.2 x.1 x.2) && apart t

/-- The number of the first condition of R204 that fails; a record that does not lie in an owned site fails the seventh. -/
def State.poolBad (s : State) (p a : Nat) : Option Nat :=
  let u := s.parsePool a
  let okFmt := fun v => decide (v ≤ 4) || v == 0xB || v == 0xC
  let fm := s.numAt (a + 4) 1
  let rs := s.poolRanges p u
  let tests : List (Nat × Bool) :=
    [(7, !s.owned p a (64 + 16 * s.numAt (a + 58) 1)), (1, !okFmt (bits fm 0 4) || !okFmt (bits fm 4 4)),
     (2, u.kb = 0 || u.kb % 64 != 0 || u.vb = 0 || u.vb % 64 != 0), (3, decide (u.page < u.tpf * (u.kb + u.vb))),
     (4, u.maxlen % u.tpf != 0 || decide (u.maxlen < u.tpf) || decide (4194304 < u.maxlen)), (5, u.exts.any fun e => e.1 % u.page != 0),
     (6, u.exts.any fun e => !s.owned p e.1 (e.2 * u.frameBytes)),
     (7, (rs.any fun r => r.2 != 0 && !s.owned p r.1 r.2) || !apart rs),
     (8, u.frames = 0 || decide (2 ^ 28 - 2 < u.frames)),
     (9, if u.spillreg = 0 then u.spillmap != 0 else !(decide (u.spillreg < 1024) && s.getF F.fltRgninfoType u.spillreg == 2 && s.getF F.fltRgninfoOwner u.spillreg == p))]
  (tests.find? (·.2)).map (·.1)

/-- Write zeros over a range: whole bursts become clean words; the words at its ends are merged (R325). -/
def State.zeroRange (s : State) (a n : Nat) : State :=
  if n = 0 then s
  else
    let ends := [a / 64, (a + n - 1) / 64].eraseDups.filter fun w => decide (w * 64 < a) || decide (a + n < w * 64 + 64)
    let t := ends.foldl (fun (t : State) w => t.decodeWord w 1) s
    if s.siteLost (a / siteWindow) then s
    else { t with mem := tclear (fun k => decide (a ≤ k) && decide (k < a + n)) t.mem,
                  ecc := tclear (fun w => decide (a ≤ w * 64) && decide (w * 64 + 64 ≤ a + n)) t.ecc }

/-- The initial free list: frame k of every extent that has one, for k = 0, 1, … (R210). -/
def Pool.freeOrder (u : Pool) : List Nat :=
  let first := u.exts.zipIdx.map fun e => (sumOf ((u.exts.take e.2).map (·.2)), e.1.2)
  (List.range (maxOf (u.exts.map (·.2)))).flatMap fun k => first.filterMap fun e => if k < e.2 then some (e.1 + k) else none

/-- Link frames into a free list. -/
def State.linkFrames (s : State) (u : Pool) : List Nat → State
  | [] => s
  | [f] => s.setFrame u f noFrame 0 0
  | f :: g :: t => (s.setFrame u f g 0 0).linkFrames u (g :: t)

/-- Initialise the pool of a partition (R209). -/
def State.poolInit (s : State) (p : Nat) : State :=
  let a := s.getF F.kvtPoolPooladdr p
  let home := s.agentHome p
  let g := s.agent p
  match s.poolBad p a with
  | some n =>
    let an := home.getD 0
    let t := ((s.setF F.kvtStateIniterr p 1).setF F.kvtStateState p 0).setAgent p { g with pool := none, cluster := home, initWaits := false }
    t.record { cls := 0x34, sev := 0, kind := 1, unit := an, island := clusterIsland an, addr := a, syn := n }
  | none =>
    let u := s.parsePool a
    let n := s.getF F.kvtSlotsSlotcount p
    let t := ((s.zeroRange u.slottab (16 * n)).zeroRange u.ptbase (8 * n * u.ptcap))
    let t := if u.spillreg = 0 then t else t.zeroRange u.spillmap (cdiv u.spillunits 8)
    let fs := u.freeOrder
    let t := (t.linkFrames u fs).setAgent p { g with pool := some u, head := fs.headD noFrame, cluster := home, initWaits := false }
    let t := t.setF F.kvtStateFreecnt p fs.length
    (t.setF F.kvtStateIniterr p 0).setF F.kvtStateState p 2

/-- An INIT starts at once, or after the operation in progress (R209). [Log 38 DEDUCED] -/
def State.kvtInit (s : State) (p : Nat) : State :=
  if s.agentIdle p then s.poolInit p else s.setAgent p { s.agent p with initWaits := true }

/-! ### KVFORK, KVFREE and KVPREFETCH (R218 to R222) -/

/-- The values A, B and C of Table 8-12, the result block. -/
def Plan.kvA (l : Plan) : Nat := l.extra.getD 0 0
/-- B. -/
def Plan.kvB (l : Plan) : Nat := l.extra.getD 1 0
/-- C. -/
def Plan.kvC (l : Plan) : Nat := l.extra.getD 2 0
/-- RES. -/
def Cmd.res (c : Cmd) : Nat := c.addrAt 48

/-- MODE of KVFREE. -/
def Cmd.kvMode (c : Cmd) : Nat := c.bits 44 0 2

/-- One of A, B and C: its value, or its indirect source (R218). -/
def kvOperand (s : State) (c : Cmd) (i : Nat) : Chk Nat :=
  let v := c.field (32 + 4 * i) 4
  if c.bits 45 i 1 = 1 then indirect s c.ctx (c.addrAt 54) v (rejCmd 0x07 (32 + 4 * i)) else return v

/-- The checks of KVFORK, KVFREE and KVPREFETCH (R218). -/
def kvOpCheck (s : State) (c : Cmd) : Chk Plan := do
  let p := s.partOf c.ctx
  let op := c.opcode
  let _ ← commonChecks s c (pure ())
  let res := c.res
  let ind := c.addrAt 54
  let im := c.bits 45 0 3
  let memInd := (List.range 3).any fun i => im.testBit i && c.field (32 + 4 * i) 4 >>> 28 == 1
  ensure (res == 0 || s.owned p res 1) (rejAddr 0x05 1 res)
  ensure ((!memInd && ind == 0) || s.owned p ind 1) (rejAddr 0x05 2 ind)
  ensure (!s.ringClass p) (rejCmd 0x38 0)
  let evict := op == 0x21 && c.kvMode == 1
  ensure (op != 0x21 || c.kvMode != 0 || c.field 40 4 == 0) (rejCmd 0x38 40)
  ensure (c.bits 44 2 6 == 0 && decide (c.kvMode ≤ (if op = 0x21 then 1 else 0))) (rejCmd 0x38 44)
  ensure (c.bits 45 3 5 == 0) (rejCmd 0x38 45)
  reservedFrom c 0x38 46 47
  ensure (ind % 4 == 0 && (memInd || ind == 0)) (rejAddr 0x38 2 ind)
  reservedFrom c 0x38 60 63
  let a ← kvOperand s c 0
  let b ← kvOperand s c 1
  let d ← kvOperand s c 2
  ensure (s.kvReady p) (rejCmd 0x40 0)
  ensure (s.inSlots p a) (rejCmd 0x39 32)
  ensure (op != 0x20 || s.inSlots p b) (rejCmd 0x39 36)
  ensure (res == 0 || s.owned p res 16) (rejAddr 0x05 1 res)
  countCheck s c 0
  let _ := evict
  return Plan.plain 0 [a, b, d]

/-- Write the result block of a command (Table 8-13). -/
def State.putResult (s : State) (c : Cmd) (a r k q : Nat) : State :=
  if c.res = 0 then s else s.writeBytes c.res (leBytes 4 a ++ leBytes 4 r ++ leBytes 4 k ++ leBytes 4 q)

/-- The agent has ended a request; a command that has ended in the meantime learns nothing of it. -/
def State.kvDone (s : State) (g : AgReq) (status : Nat) : State :=
  match s.cmd? g.cmd with
  | none => s
  | some c => (s.putResult c g.acted g.released g.skipped g.poisoned).engineDone c.id status false

/-- KVFORK at the agent (R219): status, or the state with its count of shared entries. -/
def State.kvFork (s : State) (p : Nat) (u : Pool) (a b len : Nat) : State × Nat × Nat :=
  let n := cdiv len u.tpf
  let es := (List.range n).map fun x => s.ptEntry p u a x
  let valid := (es.zipIdx.filter fun e => e.1.1).map fun e => (e.2, e.1.2.1, e.1.2.2)
  if a = b || s.slotField p u b 0 != 0 || s.slotField p u b 1 != 0 then (s, 0x3D, 0)
  else if s.slotField p u a 0 < len then (s, 0x3A, 0)
  else if valid.any fun e => e.2.1 then (s, 0x3E, 0)
  else if valid.any fun e => s.refcnt u e.2.2 == 65535 then (s, 0x3C, 0)
  else
    let t := valid.foldl (fun (t : State) e =>
      let d := t.frameDesc u e.2.2
      (t.setFrame u e.2.2 d.1 d.2.1 (d.2.2 + 1)).setPt p u b e.1 (some (false, e.2.2))) s
    (((t.setSlot p u b 1 valid.length).setSlot p u b 0 len).journal u, 0, valid.length)

/-- KVFREE with MODE 0 at the agent (R220): status, entries unmapped, frames released. -/
def State.kvTruncate (s : State) (p : Nat) (u : Pool) (a len : Nat) : State × Nat × Nat × Nat :=
  if s.slotField p u a 0 < len then (s, 0x3A, 0, 0)
  else
    let xs := (upto (cdiv len u.tpf) u.ptcap).filter fun x => (s.ptEntry p u a x).1
    let r := xs.foldl (fun (r : State × Nat × Nat) x =>
      let e := r.1.ptEntry p u a x
      let t := r.1.setPt p u a x none
      if e.2.1 then (t.setSpill u e.2.2 false, r.2.1, r.2.2 + 1)
      else
        let q := t.dropRef p u e.2.2
        (q.1, r.2.1 + b2n q.2, r.2.2)) (s, 0, 0)
    let t := r.1.addSlot p u a 1 (-(xs.length : Int))
    let t := (t.addSlot p u a 2 (-(r.2.2 : Int))).setSlot p u a 0 len
    (t.journal u, 0, xs.length, r.2.1)

/-- One entry past the range of an eviction or a prefetch (R221, R222). -/
def Pool.entryEnd (u : Pool) (p1 : Nat) : Nat := cdiv p1 u.tpf

/-- What a visit of one entry comes to: the operation goes on, waits for the flash tier, or ends with a status. -/
inductive AgAns where
  | again (s : State) (g : AgReq)
  | wait (s : State)
  | done (s : State) (g : AgReq) (status : Nat)

/-- The next entry of an eviction (R221). -/
def State.evictNext (s : State) (p : Nat) (u : Pool) (g : AgReq) : AgAns :=
  if g.till ≤ g.cur then .done s g 0
  else
    let e := s.ptEntry p u g.slot g.cur
    let next := { g with cur := g.cur + 1 }
    if !e.1 || e.2.1 then .again s next
    else if 1 < s.refcnt u e.2.2 then .again s { next with skipped := g.skipped + 1 }
    else match s.freeUnit u with
    | none => .done s g 0x3F
    | some k =>
      let r := u.spillreg
      let n := u.frameBytes
      let off := k * n
      let bl := blocksOf off n
      if s.flag F.fltRgninfoWorn r then .done s g 0x80
      else if s.flash.free < s.flUnits r bl.length then .done s g 0x7F
      else if !s.canStage n then .wait (s.setAgent p { s.agent p with queue := g :: (s.agent p).queue })
      else
        let bad := s.badWords u e.2.2
        let v := s.flRegion r
        let t := s.readWords (wordsOf (u.addr e.2.2) n)
        let v' := v.put false [(off, t.bytesAt (u.addr e.2.2) n)]
        let hurt := (bad.map fun w => (off + (w * 64 - u.addr e.2.2)) / 4096).eraseDups
        let t := (t.takeFree (t.flUnits r bl.length)).giveFree (t.flUnits r (bl.filter v.written.contains).length)
        let t := t.setRegion r { v' with bad := (v'.bad ++ hurt).eraseDups }
        let t := t.stage r n false bl v.data
        let w := t.flash.nextWrite - 1
        let g := { g with poisoned := g.poisoned + b2n (!bad.isEmpty) }
        .wait ((t.setSpill u k true).setAgent p { t.agent p with busy := some (.evict g k w) })

/-- The next entry of a prefetch (R222). -/
def State.prefetchNext (s : State) (p : Nat) (u : Pool) (g : AgReq) : AgAns :=
  if g.till ≤ g.cur then .done s g 0
  else
    let e := s.ptEntry p u g.slot g.cur
    if !e.1 || !e.2.1 then .again s { g with cur := g.cur + 1, skipped := g.skipped + 1 }
    else match s.popFrame p u 2 with
    | none => .done (s.noFrames p) g 0x3B
    | some (f, t) =>
      let v := t.flRegion u.spillreg
      let j : FlJob := ⟨.fetch p, u.spillreg, v.data, v.bad, blocksOf (e.2.2 * u.frameBytes) u.frameBytes, v.switches⟩
      let t := t.setFlash { t.flash with jobs := t.flash.jobs ++ [j] }
      .wait (t.setAgent p { t.agent p with busy := some (.fetch g f) })

/-- The first visit of a request: KVFORK and truncate are performed whole; the range of an eviction or prefetch is checked (R219 to
R222). -/
def State.agentFirst (s : State) (p : Nat) (u : Pool) (c : Cmd) (g : AgReq) : AgAns :=
  let l := c.plan
  if c.opcode = 0x20 then
    let r := s.kvFork p u l.kvA l.kvB l.kvC
    .done r.1 { g with acted := r.2.2 } r.2.1
  else if c.opcode = 0x21 && c.kvMode = 0 then
    let r := s.kvTruncate p u l.kvA l.kvB
    .done r.1 { g with acted := r.2.2.1, released := r.2.2.2 } r.2.1
  else
    let order := if c.opcode = 0x21 then decide (l.kvB < l.kvC) else decide (l.kvB ≤ l.kvC)
    if order && decide (l.kvC ≤ s.slotField p u l.kvA 0) then
      .again s { g with started := true, evict := c.opcode == 0x21, slot := l.kvA, till := u.entryEnd l.kvC,
                        cur := if l.kvB = l.kvC then u.entryEnd l.kvC else l.kvB / u.tpf }
    else .done s g 0x3A

/-- What the agent makes of the request at the front of its queue. Of a command that has ended, a prefetch that the agent has accepted goes on (R208), and
nothing else. -/
def State.agentStep (s : State) (p : Nat) (u : Pool) (g : AgReq) : AgAns :=
  match s.cmd? g.cmd with
  | none => if g.started && !g.evict then s.prefetchNext p u g else .done s g 0
  | some c => if !g.started then s.agentFirst p u c g else if g.evict then s.evictNext p u g else s.prefetchNext p u g

/-- A request that goes on: each entry of an eviction is an operation of its own, so its request queues behind those that arrived meanwhile (R221);
a prefetch is one operation and comes next (R207). -/
def requeue (go : Bool) (g : AgReq) (l : List AgReq) : List AgReq := if go && g.evict then l ++ [g] else g :: l

/-- A prefetch that has begun is the next request: its operation is still in progress. -/
def Agent.prefetching (a : Agent) : Bool := (a.queue.head?.map fun g => g.started && !g.evict).getD false

/-- The agent performs requests in order of arrival until an operation waits for the flash tier, or none is left (R207). [Log 38 DEDUCED] -/
def State.agentRun (s : State) (p : Nat) : (fuel : Nat) → State
  | 0 => s
  | n + 1 =>
    let a := s.agent p
    if !s.agentIdle p then s
    else if a.initWaits && !a.prefetching then (s.poolInit p).agentRun p n
    else match a.queue with
    | [] => s
    | g :: rest =>
      let s1 := s.setAgent p { a with queue := rest }
      match a.pool with
      | none => (s1.kvDone g 0x40).agentRun p n
      | some u =>
        match s1.agentStep p u g with
        | .again t g' => (t.setAgent p { t.agent p with queue := requeue g.started g' (t.agent p).queue }).agentRun p n
        | .wait t => t
        | .done t g' st => (t.kvDone g' st).agentRun p n

/-- Fuel for the entries that the requests of an agent still have. -/
def State.agentFuel (s : State) (p : Nat) : Nat :=
  let a := s.agent p
  (a.queue.length + 2) * (((a.pool.map (·.ptcap)).getD 0) + 3) + 4

/-- The agent goes on. [Log 38 DEDUCED] -/
def State.agentGo (s : State) (p : Nat) : State := s.agentRun p (s.agentFuel p)

/-- A KVFORK, KVFREE or KVPREFETCH has passed its checks and goes to the agent. -/
def State.goKv (s : State) (c : Cmd) : State :=
  let s := s.goAnchor c
  let p := s.partOf c.ctx
  (s.setAgent p { s.agent p with queue := (s.agent p).queue ++ [⟨c.id, false, false, 0, 0, 0, 0, 0, 0, 0⟩] }).agentGo p

/-- The flash write of an evicted frame is committed: the entry becomes flash-resident and the frame is free (R221). -/
def State.evicted (s : State) (p : Nat) : State :=
  let a := s.agent p
  match a.busy, a.pool with
  | some (.evict g k w), some u =>
    if !(s.agentUp p && s.flash.isDurable w) then s
    else
      let f := (s.ptEntry p u g.slot g.cur).2.2
      let t := (s.setPt p u g.slot g.cur (some (true, k))).addSlot p u g.slot 2 1
      let t := (t.pushFrame p u f).journal u
      let g' := { g with cur := g.cur + 1, acted := g.acted + 1, released := g.released + 1 }
      (t.setAgent p { t.agent p with busy := none, queue := requeue true g' (t.agent p).queue }).agentGo p
  | _, _ => s.agentGo p

/-- The read of a spill unit is done: the entry is mapped to its frame (R222). -/
def State.fetchEnd (s : State) (p : Nat) : State :=
  let a := s.agent p
  match a.busy, a.pool with
  | some (.fetch g f), some u =>
    match s.flash.jobs.find? fun j => j.who == .fetch p with
    | none => s
    | some j =>
      if !(s.agentUp p && j.left.isEmpty) then s
      else
        let t := (s.setFlash { s.flash with jobs := s.flash.jobs.filter (· != j) }).releaseHeld j.region
        let unit := (t.ptEntry p u g.slot g.cur).2.2
        let r := t.fillFrame u unit f j.data j.bad
        let t := (r.1.fetched p u g.slot g.cur f unit).bump F.kvtCnt1Prefetch p 1
        let g' := { g with cur := g.cur + 1, acted := g.acted + 1, poisoned := g.poisoned + b2n r.2 }
        (t.setAgent p { t.agent p with busy := none, queue := requeue true g' (t.agent p).queue }).agentGo p
  | _, _ => s.agentGo p

/-! ### Meanings -/

/-- KVFORK (R219). -/
def execKvfork (q : Nat) (s : State) : Host.Outcome State Fault Refusal :=
  .next (s.issue q (fun c => c.opcode == 0x20) kvOpCheck State.goKv)

/-- KVFREE_TRUNCATE (R220); MODE 2 and 3, which no KVFREE has, belong to this row and are rejected. [Log 18 DESIGN CHOICE] -/
def execKvfreeTruncate (q : Nat) (s : State) : Host.Outcome State Fault Refusal :=
  .next (s.issue q (fun c => c.opcode == 0x21 && c.kvMode != 1) kvOpCheck State.goKv)

/-- KVFREE_EVICT (R221). -/
def execKvfreeEvict (q : Nat) (s : State) : Host.Outcome State Fault Refusal :=
  .next (s.issue q (fun c => c.opcode == 0x21 && c.kvMode == 1) kvOpCheck State.goKv)

/-- KVPREFETCH (R222). -/
def execKvprefetch (q : Nat) (s : State) : Host.Outcome State Fault Refusal :=
  .next (s.issue q (fun c => c.opcode == 0x22) kvOpCheck State.goKv)

/-- KVT_INIT (R209): an access writes `v` to KVT_CTRL of partition `p`. A nonzero reserved bit keeps the action from starting (R557). -/
def execKvtInit (a : Acr) (p v : Nat) (s : State) : Host.Outcome State Fault Refusal :=
  .next (s.forPart a p fun t => if v = 1 then t.kvtInit p else t)

/-- AGENT_MAP (R215): a cluster of partition `p` requests the map of a position of a slot; its stall is counted. -/
def execAgentMap (p : Nat) (slot : Int) (pos : Nat) (s : State) : Host.Outcome State Fault Refusal :=
  .next (if s.agentIdle p then ((s.agentStall p).agentMap p slot pos).1 else s)

/-- A command that commits, whose parts have all reported with status 0x00 and which the agent has not committed yet. -/
def State.commitDue (s : State) (c : Cmd) : Bool :=
  c.st == .issued && c.status == 0 && !c.ready && s.kvCommits c && !c.parts.isEmpty && c.parts.all (·.reported)

/-- The agent commits a command once (R216). -/
def State.commitOnce (s : State) (c : Cmd) : State := (s.kvCommit c).setCmd { c with ready := true }

/-- KV_COMMIT (R216): the agent commits a command whose parts have all reported with status 0x00. -/
def execKvCommit (q seq : Nat) (s : State) : Host.Outcome State Fault Refusal :=
  .next (match s.cmdAt? q seq with
    | some c => if s.commitDue c && s.agentIdle (s.partOf c.ctx) then s.commitOnce c else s
    | none => s)

/-- KV_FETCH (R222): the fetch in progress of a partition's agent ends. -/
def execKvFetch (p : Nat) (s : State) : Host.Outcome State Fault Refusal := .next (s.fetchEnd p)

/-- KV_EVICT_ENTRY (R221): the eviction in progress of a partition's agent ends. -/
def execKvEvictEntry (p : Nat) (s : State) : Host.Outcome State Fault Refusal := .next (s.evicted p)

/-- AGENT_TAKEOVER (R208): the agent's cluster is retired, the next one takes over, reads the journal and goes on. -/
def execAgentTakeover (p : Nat) (s : State) : Host.Outcome State Fault Refusal :=
  .next (match (s.agent p).cluster with
    | some c => if s.clusterUp c then s else (s.setAgent p { s.agent p with cluster := s.agentHome p }).agentGo p
    | none => s)

end Sys2Proof.Machine
end

