-- ==== Sys2Proof/Machine/Chain.lean ====
section
/-!
DEFINITION. Machine/Chain.lean: the running softmax that CHAIN and ATTN share (R140, R182), and CHAIN: its checks, tiles and count, and
its two chained products (R138 to R140, R145).
-/
namespace Sys2Proof.Machine

/-! ### The running softmax of a row (R140) -/

/-- The running state of a row: maximum, sum, and whether a chunk was entered; the accumulated outputs. -/
structure Soft where
  m : Num
  l : Option Num
  ys : List (Option Num)
  fl : Nat

/-- Before the first chunk. -/
def Soft.start (n : Nat) : Soft := ⟨.inf true, none, List.replicate n none, 0⟩

/-- A special function under FTZ: input flush, function, flush of the FP32 result (R160, R64). -/
def sfuRes (ftz compat : Bool) (code : Nat) (v : Num) : Num × Nat :=
  let i := sfuInput ftz false v
  let o := rne ftz (sfuFunc compat code i.1)
  (o.1, i.2 + o.2)

/-- The row takes a chunk of scores: the new maximum, and the correction of what it holds. [Log 32 DEDUCED] -/
def Soft.raise (ftz compat : Bool) (t : Soft) (zs : List Num) : Soft :=
  let mn := zs.foldl Num.max t.m
  match t.l with
  | some l =>
    if !mn.eqv t.m && mn != .inf true then
      let d := rne ftz (t.m.add mn.negate)
      let c := sfuRes ftz compat 0 d.1
      let l' := rne ftz (l.mul c.1)
      let ys := t.ys.map fun y => y.map fun v => rne ftz (v.mul c.1)
      ⟨mn, some l'.1, ys.map fun y => y.map (·.1), t.fl + d.2 + c.2 + l'.2 + sumOf (ys.map fun y => (y.map (·.2)).getD 0)⟩
    else { t with m := mn }
  | none => { t with m := mn }

/-- The probability of a score: exp2(rne(z − m)), +0 while no score is above −∞. [Log 32 DEDUCED] -/
def Soft.prob (ftz compat : Bool) (t : Soft) (z : Num) : Num × Nat :=
  if t.m = .inf true then (.zero, 0)
  else
    let d := rne ftz (z.add t.m.negate)
    let p := sfuRes ftz compat 0 d.1
    (p.1, d.2 + p.2)

/-- Add a chunk's probability sum to l. [Log 32 DEDUCED] -/
def Soft.addSum (ftz : Bool) (t : Soft) (ps : List Num) : Soft :=
  let s := chunkSum ftz ps
  match t.l with
  | none => { t with l := some s.1, fl := t.fl + s.2 }
  | some l => let r := rne ftz (l.add s.1); { t with l := some r.1, fl := t.fl + s.2 + r.2 }

/-- Add a chunk's products to the outputs, one list of terms for each output (R79). [Log 32 DEDUCED] -/
def Soft.addProducts (ftz : Bool) (t : Soft) (prods : List (List Num)) : Soft :=
  let r := List.zipWith (fun y ps => let s := chunkSum ftz ps; let a := accAdd ftz y s.1; (a.1, s.2 + a.2)) t.ys prods
  { t with ys := r.map fun e => some e.1, fl := t.fl + sumOf (r.map (·.2)) }

/-- The normalised outputs: rne(Y × rcp(l)), or +0 for a row whose maximum stayed −∞, with the flush count. [Log 32 DEDUCED] -/
def Soft.normal (ftz compat : Bool) (t : Soft) : List Num × Nat :=
  if t.m = .inf true then (t.ys.map fun _ => .zero, t.fl)
  else
    let c := sfuRes ftz compat 3 (t.l.getD .zero)
    let r := t.ys.map fun y => rne ftz ((y.getD .zero).mul c.1)
    (r.map (·.1), t.fl + c.2 + sumOf (r.map (·.2)))

/-! ### Geometry (R138, R139) -/

/-- What the items of a CHAIN share. -/
structure Ch where
  ka : Nat
  kb : Nat
  ke : Nat
  m : Nat
  h : Nat
  n : Nat
  k : Nat
  tm : Nat
  gw : Nat
  tr : Bool
  accInt : Bool
  a : Desc
  b : Desc
  e : Desc
  c : Desc
  stages : List Stage

/-- KA, KB and KE of a CHAIN. -/
def Cmd.chBit (c : Cmd) (i : Nat) : Nat := c.bits 62 i 1

/-- The geometry of a CHAIN over its descriptors and stages. -/
def Cmd.chOf (c : Cmd) (a b e d : Desc) (sts : List Stage) (tm gw : Nat) : Ch :=
  { ka := c.chBit 0, kb := c.chBit 1, ke := c.chBit 2, m := a.size (1 - c.chBit 0), h := b.size (1 - c.chBit 1),
    n := e.size (1 - c.chBit 2), k := a.size (c.chBit 0), tm := tm, gw := gw, tr := transposed sts, accInt := c.accInt, a := a, b := b,
    e := e, c := d, stages := sts }

/-- The geometry of an issued CHAIN. -/
def Cmd.ch (c : Cmd) : Ch := c.chOf (c.plan.desc 0) (c.plan.desc 1) (c.plan.desc 2) (c.plan.desc 3) c.plan.stages c.plan.tm c.plan.gw

/-- The first product with the epilogue of the whole command, as a product of 128-column tiles. -/
def Ch.mm (g : Ch) : Mm :=
  { stream := false, ka := g.ka, kb := g.kb, m := g.m, n := g.n, k := g.k, f := 1, tm := g.tm, tr := g.tr, accInt := g.accInt, a := g.a,
    b := g.b, c := g.c, stages := g.stages }

/-- Middle stages. -/
def Ch.mids (g : Ch) : List Stage := g.stages.filter (·.side == 1)

/-- HFMT. -/
def Ch.hFmt (g : Ch) : Fmt := (g.mids.getLast?.map (·.sfmt)).getD .fp32

/-- The list holds a ROWSOFTMAX. [Log 31 DEDUCED] -/
def Ch.soft (g : Ch) : Bool := g.mids.any (·.typ == 0x0C)

/-- Output tiles of the group of an item: first and end. -/
def Ch.tiles (g : Ch) (it : Item) : Nat × Nat := (it.v * g.gw, min ((it.v + 1) * g.gw) (cdiv g.n 128))

/-- Row tile and tile number of an item as an item of the epilogue. -/
def Ch.tileItem (it : Item) (v : Nat) : Item := { it with v := v }

/-- Regions that an item writes: its output tiles, the side outputs of the epilogue, and those of prologue and middle stages. -/
def Ch.regions (g : Ch) (it : Item) : List Region :=
  let ts := g.tiles it
  let ms := upto (it.u * g.tm) (tileEnd it.u g.tm g.m)
  let side := fun (sd n : Nat) => (g.stages.filter (·.side == sd)).flatMap fun st => match st.typ, st.d1 with
    | 0x09, some d => ms.map fun m => Region.mk d 0 n (m :: it.b)
    | _, _ => []
  (upto ts.1 ts.2).flatMap (fun v => ({ g.mm with stages := g.stages.filter (·.side == 2) }).regions (Ch.tileItem it v) true) ++ side 0 g.k ++ side 1 g.h

/-! ### One item -/

/-- A hidden chunk of a row: its values in HFMT, the softmax state after it, flush count, keys, side writes. -/
structure HidRow where
  nums : List Num
  soft : Soft
  fl : Nat
  keys : List Key
  wr : List SideWr

/-- The middle stages of one row of a hidden chunk (R139, R140). [Log 31 DEDUCED] -/
def State.hidRow (s : State) (c : Cmd) (g : Ch) (x : StCx) (m c0 : Nat) (t : Soft) (vals : List Num) (flds : List (List Nat)) : HidRow :=
  let mids := g.mids
  let fs := flds.map fun l => l.headD 0
  match mids.head? with
  | some st =>
    if st.typ = 0x0C then
      let k := f32In c.ftz st.k0
      let zs := vals.map fun v => rne c.ftz (v.mul k.1)
      let t1 := t.raise c.ftz c.compat (zs.map (·.1))
      let ps := zs.map fun z => t1.prob c.ftz c.compat z.1
      let e := convertRun c.ftz st.conv st.sfmt ((ps.map (·.1)).zip fs)
      let rest := if st.conv.stoch then flds.map List.tail else flds
      let r := s.runStages x (mids.drop 1) m c0 ⟨runVals st.sfmt e ps.length, st.sfmt.isMx, rest, e, st.sfmt, [], 0, []⟩
      let nums := exactVals r.fmt r.codes vals.length
      let t2 := t1.addSum c.ftz nums
      ⟨nums, t2, sumOf (zs.map (·.2)) + sumOf (ps.map (·.2)) + e.2.2 + r.fl, r.keys ++ (if k.2 = 0 then [] else [(0, 12, st.k0)]), r.wr⟩
    else
      let vs := if g.accInt && st.typ != 0x01 then vals.map r32 else vals
      let r := s.runStages x mids m c0 ⟨vs, false, flds, ([], [], 0), .fp32, [], 0, []⟩
      ⟨exactVals r.fmt r.codes vals.length, t, r.fl, r.keys, r.wr⟩
  | none => ⟨vals, t, 0, [], []⟩

/-- What an item has after some hidden chunks. -/
structure ChRun where
  rows : List Soft
  lanes : List Lane
  passes : List (Nat × Pass)
  fl : Nat
  keys : List Key
  wr : List SideWr

/-- Add the products of a hidden chunk to a row: FP32 accumulation, or integer (R79, R81). [Log 31 DEDUCED] -/
def Soft.addHidden (ftz int : Bool) (t : Soft) (prods : List (List Num)) : Soft :=
  if int then
    { t with ys := List.zipWith (fun y ps => some (numOfInt (sat32 (intOf (y.getD .zero) + ps.foldl (fun a p => a + intOf p) (0 : Int))) 0)) t.ys prods }
  else t.addProducts ftz prods

/-- One hidden chunk of an item: F(h), its middle stages, S(h) (R139). -/
def State.hidChunk (s : State) (c : Cmd) (g : Ch) (x : StCx) (it : Item) (r : ChRun) (h : Nat) : ChRun :=
  let ms := upto (it.u * g.tm) (tileEnd it.u g.tm g.m)
  let hb := chunkBox g.h h
  let js := upto hb.1 hb.2
  let chs := List.range (chunksOf g.k)
  let np := stochCount (g.mm.side 0)
  let nm := stochCount g.mids
  let cnt := fun l => np * ms.length * (chs.filter fun ch => let kb := chunkBox g.k ch; decide (l < kb.2 - kb.1)).length
  let pd := if np = 0 then ([], r.lanes) else drawLanes cnt r.lanes
  let md := if nm = 0 then ([], pd.2) else drawLanes (fun l => if l < js.length then nm * ms.length else 0) pd.2
  let aRows := chs.zipIdx.map fun ce => ms.zipIdx.map fun me =>
    let kb := chunkBox g.k ce.1
    s.aSeg x g.mm me.1 ce.1 ((List.range (kb.2 - kb.1)).map fun l => if np = 0 then [] else laneFields pd.1 l (ce.2 * ms.length + me.2) np)
  let bCols := chs.map fun ch => js.map fun j => let kb := chunkBox g.k ch; (upto kb.1 kb.2).map fun k => s.mmElem c.ftz g.b g.kb k j it.b
  let entries := ms.zipIdx.map fun me => js.zipIdx.map fun je =>
    accEntry c.ftz g.accInt (List.zipWith (fun ar bc =>
      List.zipWith Num.mul ((ar[me.2]?.map (·.nums)).getD []) ((bc.getD je.2 []).map (·.1))) aRows bCols)
  let hid := ms.zipIdx.map fun me =>
    s.hidRow c g x me.1 hb.1 (r.rows.getD me.2 (Soft.start 0)) ((entries.getD me.2 []).map (·.1))
      (js.zipIdx.map fun je => if nm = 0 then [] else laneFields md.1 je.2 me.2 nm)
  let ts := g.tiles it
  let ns := upto (ts.1 * 128) (min (ts.2 * 128) g.n)
  let eCols := ns.map fun n => js.map fun j => s.mmElem c.ftz g.e g.ke j n it.b
  let rows := hid.map fun q => q.soft.addHidden c.ftz (g.accInt && !g.soft) (eCols.map fun col => List.zipWith Num.mul q.nums (col.map (·.1)))
  let dA := g.mm.aFmt.digits
  let dH := g.hFmt.digits
  let fp := aRows.map fun row => let ls := row.map fun a => rowLen dA a.nums; (2 * h, Pass.mk (sumOf ls) (dA * ls.length) (loadTime g.b.fmt) 0)
  let hl := hid.map fun q => rowLen dH q.nums
  let sp := (upto ts.1 ts.2).map fun _ => (2 * h + 3, Pass.mk (sumOf hl) (dH * hl.length) (loadTime g.e.fmt) 0)
  let keys := (aRows.flatMap fun q => q.flatMap (·.keys)) ++ (bCols.flatMap fun q => q.flatMap fun z => z.flatMap (·.2)) ++
    (hid.flatMap (·.keys)) ++ eCols.flatMap fun q => q.flatMap (·.2)
  let fl := (if h = 0 then sumOf (aRows.flatMap fun q => q.map (·.fl)) else 0) + sumOf (entries.flatMap fun q => q.map (·.2)) + sumOf (hid.map (·.fl))
  { rows := rows, lanes := md.2, passes := r.passes ++ fp ++ sp, fl := r.fl + fl, keys := r.keys ++ keys,
    wr := r.wr ++ (aRows.flatMap fun q => q.flatMap (·.wr)) ++ hid.flatMap (·.wr) }

/-- Passes in the order F(0), F(1), S(0), F(2), S(1), … of R139: by the number each carries. -/
def passOrder (l : List (Nat × Pass)) : List Pass :=
  (List.range (maxOf (l.map (·.1)) + 1)).flatMap fun k => (l.filter fun e => e.1 == k).map (·.2)

/-- Words that an item reads before its epilogue: rows of A, B, the columns of E of its group, operands of prologue and middle. [Log 83 DEDUCED] -/
def State.chWords (s : State) (c : Cmd) (cl : Nat) (g : Ch) (it : Item) : List Nat :=
  let ms := upto (it.u * g.tm) (tileEnd it.u g.tm g.m)
  let ts := g.tiles it
  let x := c.stCx s cl it.b g.k
  if g.h = 0 then []
  else
    g.a.blockWords g.ka it.b 0 g.k (it.u * g.tm) (tileEnd it.u g.tm g.m) ++ g.b.blockWords g.kb it.b 0 g.k 0 g.h ++
      g.e.blockWords g.ke it.b 0 g.h (ts.1 * 128) (min (ts.2 * 128) g.n) ++
      ((g.mm.side 0).flatMap fun st => s.stageWords x st ms 0 g.k) ++ (g.mids.flatMap fun st => s.stageWords x st ms 0 g.h)

/-- Run one item of a CHAIN. -/
def PartRun.chainItem (kvw : PartRun → Cmd → List SideWr → PartRun) (c : Cmd) (cl : Nat) (r : PartRun) (it : Item) : PartRun :=
  let g := c.ch
  let r := r.read (r.s.chWords c cl g it)
  if r.status != 0 then r
  else
    let s := r.s
    let x := c.stCx s cl it.b g.k
    let rows := tileEnd it.u g.tm g.m - it.u * g.tm
    let ts := g.tiles it
    let width := min (ts.2 * 128) g.n - ts.1 * 128
    let q := (List.range (chunksOf g.h)).foldl (s.hidChunk c g x it)
      ⟨List.replicate rows (Soft.start width), r.lanes, [], 0, [], []⟩
    let ys := q.rows.map fun t => if g.soft then t.normal c.ftz c.compat else (t.ys.map fun y => y.getD .zero, t.fl)
    let fl := q.keys.eraseDups.length + q.fl + sumOf (ys.map (·.2))
    let r : PartRun := { r with s := s.sideRuns q.wr, lanes := q.lanes, fl := r.fl + fl, passes := r.passes ++ passOrder q.passes }
    (upto ts.1 ts.2).foldl (fun (r : PartRun) v =>
      if r.status != 0 then r
      else
        let ti := Ch.tileItem it v
        let bx := g.mm.box ti
        let ed := g.mm.epiFields c bx r.lanes
        let tile := ys.map fun y => (y.1.drop ((v - ts.1) * 128)).take (bx.2.2.2 - bx.2.2.1)
        let r : PartRun := { r with lanes := ed.2 }
        r.finishTile kvw c cl { g.mm with n := g.n } ti tile [] ed.1) r

/-! ### Checks -/

/-- Sizes of GW in the order of R145. -/
def gwSizes (tv : Nat) : List Nat := ((List.range (Nat.log2 (max tv 1) + 2)).map fun i => max 1 (cdiv tv (2 ^ i))).eraseDups

/-- The choice of R145: mode, then GW, then TM: GW, TM, single buffering, units. -/
def chooseChain (share rows cap removed tv : Nat) (need : Nat → Nat → Bool → Nat) : Option (Nat × Nat × Bool × Nat) :=
  let cands := (tmCands removed).filter (· ≤ cap)
  match cands.getLast? with
  | none => none
  | some tmin =>
    let fits := fun single => (gwSizes tv).findSome? fun gw =>
      (cands.find? fun tm => !(decide (tmin < tm) && decide (rows ≤ tm / 2)) && decide (need gw tm single ≤ share)).map fun tm =>
        (gw, tm, single, need gw tm single)
    fits false <|> fits true

/-- Buffer need of a CHAIN (R145). -/
def Ch.need (g : Ch) (gw tm : Nat) (single : Bool) : Nat :=
  let n := if single then 1 else 2
  let ht := tm * 128 * g.hFmt.width / 8 + (if g.hFmt.isMx then tm * 4 else 0)
  unitsOf (n * stBytes g.b.fmt + 2 * tm * srBytes g.mm.aFmt + otBytes tm g.c.fmt + seamBytes false tm g.stages +
    n * stBytes g.e.fmt + 2 * ht + tm * gw * 512)

/-- R of the middle stages on hidden chunk `h` (R142, Table 5-5). -/
def Ch.midCost (g : Ch) (progs : Nat → Nat) (load h : Nat) : Nat :=
  let hb := chunkBox g.h h
  let here := g.mids.filter fun st => st.winMeets hb.1 hb.2
  let costs := here.map fun st =>
    let q := stageCost progs (if h = 0 then 0 else g.gw) st
    if st.typ = 0x0C && h = 0 then (q.1, 4) else q
  max 1 (max (sumOf (costs.map (·.1))) (load * sumOf (costs.map (·.2))))

/-- Issue-time count of an item (R87, R144, R584): its passes at the full digit count, and the waits for middle stages and the seam. [Log 22 DEDUCED] -/
def Ch.countItem (g : Ch) (progs : Nat → Nat) (load : Nat) (it : Item) : ItemCount :=
  let rows := tileEnd it.u g.tm g.m - it.u * g.tm
  let ts := g.tiles it
  let dA := g.mm.aFmt.digits
  let ck := List.range (chunksOf g.k)
  let ch := List.range (chunksOf g.h)
  let rp := fun c => let kb := chunkBox g.k c; sideCost progs 0 load 0 kb.1 kb.2 g.stages
  let f := ck.map fun c => let s := rows * max dA (rp c); Pass.mk s s (loadTime g.b.fmt) 0
  let sdig := rows * g.hFmt.digits
  let ps := ch.flatMap fun h => f.map (fun p => (2 * h, p)) ++ (upto ts.1 ts.2).map fun _ => (2 * h + 3, Pass.mk sdig sdig (loadTime g.e.fmt) 0)
  let fTime := sumOf (f.map (·.sum))
  let mid := ch.map fun h => rows * g.midCost progs load h
  let midWait := sumOf (mid.zipIdx.map fun e => e.1 - (if e.2 + 1 < ch.length then fTime else 0))
  let epi := sumOf ((upto ts.1 ts.2).map fun v => rows * sideCost progs 0 load 2 (v * 128) (min (v * 128 + 128) g.n) g.stages)
  ⟨passOrder ps, ch.length * sumOf (ck.map fun c => rows * rp c) + sumOf mid, midWait, epi⟩

/-- The checks of CHAIN (R138, R135). -/
def chainCheck (kv : KvCheck) (s : State) (c : Cmd) : Chk Plan := do
  let p := s.partOf c.ctx
  let cs ← commonChecks s c (pure ())
  let ds := c.addrAt 56
  let refs : List DRef := [⟨1, c.addrAt 32, fun _ => true, [0]⟩, ⟨2, c.addrAt 38, Fmt.isArray, [0]⟩, ⟨3, c.addrAt 44, Fmt.isArray, [0]⟩,
    ⟨4, c.addrAt 50, fun _ => true, [0]⟩]
  let i8 := fun (f : Fmt) => f == .int8 || f == .uint8
  let os ← loadDescs s c refs (do
      ensure (!c.streamB) (rejCmd 0x20 1)
      ensure (c.trows != 1) (rejCmd 0x20 1)
      ensure (c.split == 0) (rejCmd 0x20 3)
      ensure (ds != 0) (rejAddr 0x20 6 ds)
      ensure (c.bits 62 3 5 == 0) (rejCmd 0x20 62)
      reservedFrom c 0x20 63 63) fun l => do
    let d := fun i => l.getD i .nil
    ensure (!((d 0).fmt.isMx && c.chBit 0 == 1)) (rejIn 0x03 1 (d 0).at_ 6)
    ensure (!((d 1).fmt.isMx && c.chBit 1 == 1)) (rejIn 0x03 2 (d 1).at_ 6)
    ensure (!((d 2).fmt.isMx && c.chBit 2 == 1)) (rejIn 0x03 3 (d 2).at_ 6)
    ensure (!c.accInt || (i8 (d 1).fmt && i8 (d 2).fmt)) (rejCmd 0x03 1)
  let nil : Opd := (0, .nil)
  let a := os.getD 0 nil
  let b := os.getD 1 nil
  let e := os.getD 2 nil
  let d := os.getD 3 nil
  let g0 := c.chOf a.2 b.2 e.2 d.2 [] 1 1
  let q : SeamCmd := { op := 2, stream := false, accInt := c.accInt, m := g0.m, n := g0.n, k := g0.k, h := g0.h,
                       batch := [d.2.size 2, d.2.size 3, d.2.size 4] }
  let list ← seamHead s c q d.2.fmt true false 6 ds
  let raw := (list.map (·.stages)).getD []
  let place := fun i off => rejIn 0x20 6 (ds + 32 + 32 * i) off
  ensure (raw.any (·.side == 1)) (rejIn 0x20 6 ds 0)
  match lastOf raw 1 with
  | some i => ensure (sfmtArray raw i) (place i 2)
  | none => pure ()
  match raw.zipIdx.find? fun r => r.1.typ == 0x0C && firstOf raw 1 != some r.2 with
  | some r => throw (place r.2 0)
  | none => pure ()
  let g1 := c.chOf a.2 b.2 e.2 d.2 raw 1 1
  ensure g1.mm.aFmt.isArray (rejIn 0x03 1 a.2.at_ 6)
  ensure (!c.accInt || (i8 g1.mm.aFmt && i8 g1.hFmt)) (rejCmd 0x03 1)
  let bad := fun (o : Opd) (k : Nat) => rejIn 0x04 o.1 o.2.at_ (8 + 4 * k)
  let nd := b2n g1.tr
  ensureAll ([(b.2.size (c.chBit 1) == g0.k, bad b (c.chBit 1)), (e.2.size (c.chBit 2) == g0.h, bad e (c.chBit 2)),
    (d.2.size nd == g0.n, bad d nd), (d.2.size (1 - nd) == g0.m, bad d (1 - nd))] ++
    ([2, 3, 4].flatMap fun k => [a, b, e].map fun o => (o.2.size k == d.2.size k || o.2.size k == 1, bad o k)))
  let rm0 := removedTm false g1.tr d.2.fmt raw
  let tv := cdiv g0.n 128
  let walk := fun tm gw => Walk.mk (d.2.size 2) (d.2.size 3) (d.2.size 4) (cdiv g0.m tm) (cdiv tv gw) 1 c.walkCol
  itemCheck (walk (tmSmallest rm0) 1)
  let sts ← seamBody kv s c q cs list
  rangeCheck s p 0x05 os
  overlapCheck (fun i o => o.1 == 4 && resaddAlias sts i o) ([a, b, e] ++ stageIns sts) (d :: stageOuts sts)
  let g2 := c.chOf a.2 b.2 e.2 d.2 sts 1 1
  match chooseChain (s.getF F.shtCtxstatShare c.ctx) g0.m (rowsCap c.trows) rm0 tv (fun gw tm single => g2.need gw tm single) with
  | none => throw (rejNone 0x0A)
  | some t =>
    let g := c.chOf a.2 b.2 e.2 d.2 sts t.2.1 t.1
    let w := walk t.2.1 t.1
    let cnt := maxOf (cs.zipIdx.map fun z =>
      clusterCount (stochAny c sts) ((w.itemsOf cs.length z.2).map (g.countItem (s.progsOf cs) (pipeLoad (s.getF F.sfuPipemapRetired z.1)))))
    countCheck s c cnt
    return { descs := os.map (·.2), outIx := 3, stages := sts, walk := w, tm := t.2.1, gw := t.1, single := t.2.2.1, units := t.2.2.2,
             count := cnt, image := imageOf s cs sts, extra := [] }

/-- A command of the CHAIN row. -/
def isChain (c : Cmd) : Bool := c.opcode == 0x02

end Sys2Proof.Machine
end

