-- ==== Sys2Proof/Machine/Attn.lean ====
section
/-!
DEFINITION. Machine/Attn.lean: ATTN (Chapter 7): its checks, positions and masks, the recurrence on one item over dense, paged or visiting
keys, and its issue-time count.
-/
namespace Sys2Proof.Machine

/-! ### Operand area, parameter block and ring block (Tables 7-1, 7-2, 7-6) -/

/-- MASK. -/
def Cmd.mask (c : Cmd) : Nat := c.bits 62 4 4
/-- PFMT. -/
def Cmd.pFmt (c : Cmd) : Fmt := (Fmt.ofCode (c.bits 62 0 4)).getD .fp32
/-- LSEW. -/
def Cmd.lseW (c : Cmd) : Bool := c.bits 63 1 1 = 1
/-- RING. -/
def Cmd.ringA (c : Cmd) : Bool := c.bits 63 0 1 = 1

/-- What the items of an ATTN share: descriptors, parameter and ring block, slots and lengths of paged keys by batch entry, sampled query
positions, tile rows, stages. -/
structure At where
  q : Desc
  k : Desc
  v : Desc
  o : Desc
  lse : Option Desc
  posRows : Option (Nat × Nat)
  pos : List Int
  mask : Nat
  pfmt : Fmt
  ring : Bool
  par : List Byte
  rb : List Byte
  slots : List Nat
  nks : List Nat
  tm : Nat
  stages : List Stage

/-- A field of the parameter block. -/
def At.f (g : At) (off n : Nat) : Nat := fieldAt g.par off n
/-- A field of the ring block. -/
def At.r (g : At) (off n : Nat) : Nat := fieldAt g.rb off n
/-- Head size. -/
def At.d (g : At) : Nat := g.q.size 0
/-- Query rows. -/
def At.nq (g : At) : Nat := g.q.size 1
/-- Keys of a batch entry. -/
def At.nk (g : At) (b : Nat) : Nat := if g.k.kind = 1 then g.nks.getD b 0 else g.k.size 1
/-- Key/value heads. -/
def At.hkv (g : At) : Nat := g.k.size 2
/-- Query heads. -/
def At.hq (g : At) : Nat := g.q.size 2
/-- The ROPE record of an operand: 0 = Q, 1 = K (R184). -/
def At.rope (g : At) (sel : Nat) : Option Stage := g.stages.find? fun st => st.side == 0 && bits st.param 4 1 == sel
/-- The format in which Q or K enters the array. -/
def At.inFmt (g : At) (sel : Nat) : Fmt := ((g.rope sel).map (·.sfmt)).getD (if sel = 0 then g.q.fmt else g.k.fmt)
/-- Epilogue stages. -/
def At.epi (g : At) : List Stage := g.stages.filter fun st => st.side == 2 && st.typ != 0x0A

/-- What an issued ATTN holds beside its descriptors: 64 bytes of parameters, 64 of the ring block, slots with their lengths, positions. -/
def attnExtra (par rb : List Byte) (slots nks : List Nat) (pos : List Int) : List Nat :=
  par.map (·.toNat) ++ rb.map (·.toNat) ++ [slots.length] ++ slots ++ nks ++ pos.map (ofInt 32)

/-- The geometry of an ATTN with these descriptors: Q, K, V, O, then LSE and DQPOS where it names them. -/
def Cmd.atOf (c : Cmd) (ds : List Desc) (extra : List Nat) (sts : List Stage) (tm : Nat) : At :=
  let d := fun i => ds.getD i .nil
  let by_ := fun (l : List Nat) => l.map (BitVec.ofNat 8)
  let par := by_ (extra.take 64)
  let n := extra.getD 128 0
  let hasPos := fieldAt par 20 6 != 0
  let dq := if hasPos then ds[if c.lseW then 5 else 4]? else none
  { q := d 0, k := d 1, v := d 2, o := d 3, lse := if c.lseW then ds[4]? else none, posRows := dq.map fun x => (x.size 0, x.size 1),
    pos := (extra.drop (129 + 2 * n)).map (toInt 32), mask := c.mask, pfmt := c.pFmt, ring := c.ringA, par := par,
    rb := by_ ((extra.drop 64).take 64), slots := (extra.drop 129).take n, nks := (extra.drop (129 + n)).take n, tm := tm, stages := sts }

/-- The geometry of an issued ATTN. -/
def Cmd.at_ (c : Cmd) : At := c.atOf c.plan.descs c.plan.extra c.plan.stages c.plan.tm

/-! ### Positions and masks (R179 to R181) -/

/-- Position of query row `i` of batch entry `b` (R179). -/
def At.qpos (g : At) (i b : Nat) : Int :=
  match g.posRows with
  | some (n, bs) => g.pos.getD ((if bs = 1 then 0 else b) * n + i) 0
  | none => (i + g.f 16 4 : Nat)

/-- Coordinates of a position in the token grid; none outside it (Table 7-3). -/
def At.grid (g : At) (x : Int) : Option (Int × Int × Int) :=
  let gh := g.f 46 2
  let gw := g.f 44 2
  let r := x - (g.f 52 4 : Nat)
  if r < 0 || decide (((g.f 26 2 * gh * gw : Nat) : Int) ≤ r) then none
  else some (r.fdiv ((gh * gw : Nat) : Int), (r.fdiv (gw : Int)).fmod (gh : Int), r.fmod (gw : Int))

/-- The key at position `kp` is visible to the row at `qp`; `bm` is the bitmask byte of the key (R180). -/
def At.sees (g : At) (qp kp : Int) (bm : Nat) : Bool :=
  if qp < 0 then false
  else if 1 ≤ g.mask && g.mask ≤ 4 && decide (kp < (g.f 28 4 : Nat)) then true
  else match g.mask with
  | 0 => true
  | 1 => decide (kp ≤ qp)
  | 2 => decide (qp - (g.f 32 4 : Nat) ≤ kp) && decide (kp ≤ qp + (g.f 36 4 : Nat))
  | 3 => decide (kp.fdiv (g.f 40 4 : Nat) ≤ qp.fdiv (g.f 40 4 : Nat))
  | 4 =>
    match g.grid qp, g.grid kp with
    | some a, some b =>
      let dt := a.1 - b.1
      decide (dt.natAbs ≤ g.f 48 1) && decide ((a.2.1 - b.2.1).natAbs ≤ g.f 49 1) && decide ((a.2.2 - b.2.2).natAbs ≤ g.f 50 1) &&
        (!bit (g.f 51 1) 0 || decide (0 ≤ dt))
    | _, _ => true
  | _ => bit bm (kp.toNat % 8)

/-- Address of the bitmask byte of row `i` and key position `kp`. -/
def At.maskAddr (g : At) (i kp : Nat) : Nat := g.f 56 6 + i * g.f 40 4 + kp / 8

/-! ### Where the keys are -/

/-- The keys that an item attends: tensors of K and V (of this device, or of a visiting block), the head in them, the position of key 0. -/
structure KeySrc where
  k : Desc
  v : Desc
  head : Nat
  kpos : Int

/-- A row of `d` elements at an address. -/
def flatRow (f : Fmt) (a n : Nat) : Desc := { Desc.nil with base := a, fmt := f, sizes := [n, 1, 1, 1, 1] }

/-- The row of key `j` in K or V: a tensor and indices; `frames` maps page-table entries to frames for paged keys (R205). -/
def KeySrc.row (w : KeySrc) (u : Option Pool) (frames : List (Nat × Nat)) (values : Bool) (b j : Nat) : Desc × List Nat :=
  let d := if values then w.v else w.k
  match u with
  | some p =>
    let f := ((frames.find? fun e => e.1 == j / p.tpf).map (·.2)).getD 0
    (flatRow d.fmt (p.tokenAddr f d.layer d.comp (j % p.tpf) (w.head * d.size 0 * d.fmt.width / 8)) (d.size 0), [0, 0, 0, 0])
  | none => (d, d.batchIx [w.head, b, 0] j)

/-- The frames of the entries that cover keys j0 to j1 − 1 of a paged entry (R213): a status, and the frames. -/
def PartRun.pages (r : PartRun) (p : Nat) (u : Pool) (slot j0 j1 : Nat) : PartRun × List (Nat × Nat) :=
  (upto (j0 / u.tpf) (cdiv j1 u.tpf)).foldl (fun (q : PartRun × List (Nat × Nat)) x =>
    if q.1.status != 0 then q
    else
      let e := q.1.s.ptEntry p u slot x
      if !e.1 then (q.1.fail 0x41 0, q.2)
      else if !e.2.1 then (q.1, q.2 ++ [(x, e.2.2)])
      else
        let t := q.1.s.fetchNow p u slot x e.2.2
        let r := { q.1 with s := t.1 }
        if t.2.1 != 0 then (r.fail t.2.1 0, q.2) else (r, q.2 ++ [(x, t.2.2)])) (r, [])

/-! ### One item -/

/-- A query row of an item: its number, its running state, the count of visible keys. -/
structure AtRow where
  i : Nat
  t : Soft
  nu : Nat

/-- What an item has done so far: the part, its rows, Q as the array sees it once the item has entered a chunk, flush keys. -/
structure AtRun where
  r : PartRun
  rows : List AtRow
  q : Option (List (List Num))
  keys : List Key

/-- A row of Q or K through its ROPE prologue, with its random fields (R184, R185). -/
def State.ropeIn (s : State) (x : StCx) (st : Option Stage) (d : Desc) (ix : List Nat) (m n : Nat) (flds : List (List Nat)) :
    List Num × List Key × Nat :=
  let es := (List.range n).map fun i => let e := s.elemNum x.ftz d i ix; (e.1, if e.2 = 0 then [] else [(d.base, i, d.scaleAddr 0 ix)])
  match st with
  | none => (es.map (·.1), es.flatMap (·.2), 0)
  | some t =>
    let g := s.runStages x [t] m 0 ⟨es.map (fun e => widen d.fmt e.1), d.fmt.isMx, flds, ([], [], 0), d.fmt, [], 0, []⟩
    (exactVals g.fmt g.codes n, es.flatMap (·.2) ++ g.keys, g.fl)

/-- Fields for `rows` rows of `n` lanes under a stage that draws one field an element. [Log 26 DEDUCED] -/
def ropeFields (st : Option Stage) (rows n : Nat) (ls : List Lane) : List (List Nat) × List Lane :=
  if (st.map (·.conv.stoch)).getD false then drawLanes (fun l => if l < n then rows else 0) ls else ([], ls)

/-- The fields of row `r` of `n` lanes. -/
def rowFields (st : Option Stage) (tab : List (List Nat)) (r n : Nat) : List (List Nat) :=
  (List.range n).map fun l => if (st.map (·.conv.stoch)).getD false then laneFields tab l r 1 else []

/-- Enter one chunk of keys (R182, R186, R187). -/
def AtRun.chunk (c : Cmd) (cl p : Nat) (g : At) (it : Item) (w : KeySrc) (nk : Nat) (a : AtRun) (ch : Nat) : AtRun :=
  let h := it.b.getD 0 0
  let b := it.b.getD 1 0
  let js := (fun e => upto e.1 e.2) (chunkBox nk ch)
  let kp := fun (j : Nat) => w.kpos + (j : Int)
  let bmWords := if g.mask = 5 then a.rows.flatMap fun t => wordsOf (g.maskAddr t.i (ch * 128)) (cdiv js.length 8) else []
  let r := if a.r.status != 0 then a.r else a.r.read bmWords
  if r.status != 0 then { a with r := r }
  else
    let s := r.s
    let sees := fun (t : AtRow) (j : Nat) =>
      g.sees (g.qpos t.i b) (kp j) (if g.mask = 5 then (s.byteAt (g.maskAddr t.i (kp j).toNat)).toNat else 0)
    let ent := a.rows.map fun t => js.any (sees t)
    if !ent.any id then { a with r := r }
    else
      let pool := if g.k.kind = 1 then (s.agent p).pool else none
      let pg := match pool with
        | some u => r.pages p u (g.slots.getD b 0) (ch * 128) (ch * 128 + js.length)
        | none => (r, [])
      let rowsOf := fun (values : Bool) => js.map fun j => w.row pool pg.2 values b j
      let x0 := { c.stCx s cl [h, b, 0] g.d with pos := some 0 }
      let xq := fun (t : AtRow) => { x0 with pos := some (g.qpos t.i b) }
      let qWords := if a.q.isSome then [] else a.rows.flatMap fun t => g.q.runWords 0 g.d (g.q.batchIx [h, b, 0] t.i) ++
        match g.rope 0 with
        | some st => s.stageWords (xq t) st [t.i] 0 g.d
        | none => []
      let kWords := (rowsOf false ++ rowsOf true).flatMap fun e => e.1.runWords 0 g.d e.2
      let kRope := match g.rope 1 with
        | some st => js.flatMap fun j => s.stageWords { x0 with pos := some (kp j) } st [j] 0 g.d
        | none => []
      let r := if pg.1.status != 0 then pg.1 else pg.1.read (qWords ++ kWords ++ kRope)
      if r.status != 0 then { a with r := r }
      else
        let s := r.s
        let qd := if a.q.isSome then ([], r.lanes) else ropeFields (g.rope 0) a.rows.length g.d r.lanes
        let qNew := a.rows.zipIdx.map fun t =>
          s.ropeIn (xq t.1) (g.rope 0) g.q (g.q.batchIx [h, b, 0] t.1.i) t.1.i g.d (rowFields (g.rope 0) qd.1 t.2 g.d)
        let qs := a.q.getD (qNew.map (·.1))
        let kd := ropeFields (g.rope 1) js.length g.d qd.2
        let ks := (rowsOf false).zipIdx.map fun e =>
          let j := ch * 128 + e.2
          s.ropeIn { x0 with pos := some (kp j) } (g.rope 1) e.1.1 e.1.2 j g.d (rowFields (g.rope 1) kd.1 e.2 g.d)
        let vs := (rowsOf true).map fun e => s.ropeIn x0 none e.1 e.2 0 g.d []
        let sig := f32In c.ftz (g.f 12 4)
        let low := dy (-1) 119
        let new := (a.rows.zip ent).zipIdx.map fun e =>
          let t := e.1.1
          if !e.1.2 then (t, 1, 1, 0)
          else
            let qv := qs.getD e.2 []
            let vis := js.map (sees t)
            let sc := List.zipWith (fun (k : List Num × List Key × Nat) (v : Bool) =>
              if v then let cs := chunkSum c.ftz (List.zipWith Num.mul qv k.1); let z := rne c.ftz (cs.1.mul sig.1); (z.1.max low, cs.2 + z.2)
              else (dy (-1) 120, 0)) ks vis
            let t1 := t.t.raise c.ftz c.compat (sc.map (·.1))
            let ps := (List.range js.length).filterMap fun n =>
              if vis.getD n false then
                let z := t1.prob c.ftz c.compat ((sc.getD n (.zero, 0)).1)
                let o := encodeElem c.ftz .rne none g.pfmt z.1
                some (n, decodeElem g.pfmt o.1, z.2 + o.2)
              else none
            let nums := ps.map (·.2.1)
            let t2 := t1.addSum c.ftz nums
            let t3 := t2.addProducts c.ftz ((List.range g.d).map fun n => ps.map fun q => q.2.1.mul (((vs.getD q.1 ([], [], 0)).1).getD n .zero))
            (⟨t.i, t3, satAdd 32 t.nu ps.length⟩, rowLen (g.inFmt 0).digits qv, rowLen g.pfmt.digits nums,
              sumOf (sc.map (·.2)) + sumOf (ps.map (·.2.2)))
        let n := a.rows.length
        let sf := sumOf (new.map (·.2.1))
        let ss := sumOf (new.map (·.2.2.1))
        let lk := loadTime (g.inFmt 1)
        let wait := (passTime sf (loadTime g.v.fmt) - sf) + (passTime ss lk - ss) + (if a.q.isSome then 0 else lk)
        let ex := (r.extra.1 + sf + ss, r.extra.2.1 + n * (g.inFmt 0).digits + n * g.pfmt.digits, r.extra.2.2 + wait)
        let fl := sumOf (new.map (·.2.2.2)) + sumOf (ks.map (·.2.2)) + (if a.q.isSome then 0 else sumOf (qNew.map (·.2.2)))
        let keys := (if a.q.isSome then [] else qNew.flatMap (·.2.1)) ++ (ks.flatMap (·.2.1)) ++ (vs.flatMap (·.2.1)) ++
          (if sig.2 = 0 then [] else [(0, 7, g.f 12 4)])
        { r := { r with lanes := kd.2, fl := r.fl + fl, extra := ex }, rows := new.map (·.1), q := some qs, keys := a.keys ++ keys }

/-- The rows of an item. -/
def At.rowsOf (g : At) (it : Item) : List Nat := upto (it.u * g.tm) (tileEnd it.u g.tm g.nq)

/-- Attend an item over one source of keys: the rows' normalised outputs and their log-sum-exp (R182, R183). -/
def PartRun.attend (c : Cmd) (cl p : Nat) (g : At) (it : Item) (w : KeySrc) (r : PartRun) : PartRun × List (List Num × Num) :=
  let nk := g.nk (it.b.getD 1 0)
  let a := (List.range (chunksOf nk)).foldl (AtRun.chunk c cl p g it w nk)
    ⟨r, (g.rowsOf it).map fun i => ⟨i, Soft.start g.d, 0⟩, none, []⟩
  let out := a.rows.map fun t =>
    if t.nu = 0 then (List.replicate g.d Num.zero, Num.inf true, 0)
    else
      let y := t.t.normal c.ftz c.compat
      let l := sfuRes c.ftz c.compat 2 (t.t.l.getD .zero)
      let e := rne c.ftz (t.t.m.add l.1)
      (y.1, e.1, y.2 + (if c.lseW || g.ring then l.2 + e.2 else 0))
  ({ a.r with fl := a.r.fl + a.keys.eraseDups.length + sumOf (out.map (·.2.2)) }, out.map fun o => (o.1, o.2.1))

/-- Write the outputs of an item: its epilogue, the store of O under CVT, LSE (R183, R184). -/
def PartRun.attStore (c : Cmd) (cl : Nat) (g : At) (it : Item) (rows : List (List Num × Num)) (r : PartRun) : PartRun :=
  let h := it.b.getD 0 0
  let b := it.b.getD 1 0
  let ms := g.rowsOf it
  let x := c.stCx r.s cl [h, b, 0] g.d
  let r := r.read (g.epi.flatMap fun st => r.s.stageWords x st ms 0 g.d)
  if r.status != 0 then r
  else
    let s := r.s
    let n := stochCount g.epi + b2n c.cvt.stoch
    let ed := if n = 0 then ([], r.lanes) else drawLanes (fun l => if l < g.d then ms.length * n else 0) r.lanes
    let fin := (ms.zip rows).zipIdx.map fun e =>
      let fs := (List.range g.d).map fun j => if n = 0 then [] else laneFields ed.1 j e.2 n
      let q := s.runStages x g.epi e.1.1 0 ⟨e.1.2.1, false, fs, ([], [], 0), .fp32, [], 0, []⟩
      (e.1.1, convertRun c.ftz c.cvt g.o.fmt ((q.vals.zip fs).map fun v => (v.1, lastField v.2)), q, e.1.2.2)
    let s := fin.foldl (fun (t : State) e => (t.sideRuns e.2.2.1.wr).writeRun g.o 0 (g.o.batchIx [h, b, 0] e.1) e.2.1) s
    let s := match g.lse with
      | some d => fin.foldl (fun (t : State) e => t.writeRun d e.1 (d.batchIx [b, 0, 0] h) ([encOf e.2.2.2], [], 0)) s
      | none => s
    let fl := (fin.flatMap fun e => e.2.2.1.keys).eraseDups.length + sumOf (fin.map fun e => e.2.2.1.fl + e.2.1.2.2)
    { r with s := s, lanes := ed.2, fl := r.fl + fl }

/-- The keys of this device for an item (R177). -/
def At.localKeys (g : At) (it : Item) : KeySrc := ⟨g.k, g.v, it.b.getD 0 0 / (g.hq / g.hkv), 0⟩

/-- Run one item of an ATTN without a ring. -/
def PartRun.attnItem (c : Cmd) (cl : Nat) (r : PartRun) (it : Item) : PartRun :=
  let g := c.at_
  let p := r.s.partOf c.ctx
  let a := r.attend c cl p g it (g.localKeys it)
  if a.1.status != 0 then a.1 else a.1.attStore c cl g it a.2

/-- Regions that an item writes. -/
def At.regions (g : At) (it : Item) : List Region :=
  let h := it.b.getD 0 0
  let b := it.b.getD 1 0
  let ms := g.rowsOf it
  (ms.map fun m => Region.mk g.o 0 g.d (g.o.batchIx [h, b, 0] m)) ++
    (match g.lse with
      | some d => [Region.mk d (ms.headD 0) ms.length (d.batchIx [b, 0, 0] h)]
      | none => []) ++
    g.epi.flatMap fun st => match st.typ, st.d1 with
      | 0x09, some d => ms.map fun m => Region.mk d 0 g.d (d.batchIx [h, b, 0] m)
      | _, _ => []

/-! ### Issue-time count and buffer need (R189, R190) -/

/-- Chunks that count at issue (R190). -/
def At.counted (g : At) (it : Item) : Nat :=
  let b := it.b.getD 1 0
  let n := chunksOf (g.nk b)
  if g.mask = 5 || g.posRows.isSome then n
  else ((List.range n).filter fun ch => (g.rowsOf it).any fun i =>
    let e := chunkBox (g.nk b) ch
    (upto e.1 e.2).any fun j => g.sees (g.qpos i b) (j : Int) 0).length

/-- Prologue cost of an operand (Table 5-5). -/
def At.ropeCost (g : At) (sel : Nat) : Nat := ((g.rope sel).map fun st => 2 + b2n st.sfmt.isMx).getD 0

/-- Issue-time count of an item (R190); `load` is the factor of R159. -/
def At.countItem (g : At) (progs : Nat → Nat) (load : Nat) (it : Item) : Nat :=
  let lk := loadTime (g.inFmt 1)
  let pf := max (max (g.tm * (g.inFmt 0).digits) (loadTime g.v.fmt)) 16
  let ps := max (max (g.tm * g.pfmt.digits) lk) 16
  let rh := fun n => max (3 + min n 1) (load * (4 + min n 1))
  let per := (List.range (g.counted it)).map fun n => max (pf + ps) (g.tm * rh n + 128 * g.ropeCost 1)
  lk + g.tm * g.ropeCost 0 + sumOf per + g.tm * max (4 * load) (sideCost progs 0 load 2 0 g.d g.epi) + 38

/-- Buffer need of a tile in units, each term rounded (R189). -/
def At.need (g : At) (tm : Nat) (single : Bool) : Nat :=
  let n := if single then 1 else 2
  unitsOf (n * (stBytes (g.inFmt 1) + stBytes g.v.fmt)) + unitsOf (2 * tm * srBytes (g.inFmt 0)) +
    unitsOf (2 * (tm * 128 * g.pfmt.width / 8)) + unitsOf (tm * 512) + unitsOf (tm * 8) + unitsOf (tm * 4) +
    unitsOf (otBytes tm g.o.fmt + (if g.lse.isSome then tm * 4 else 0)) + (if g.mask = 5 then unitsOf (2 * tm * 16) else 0) +
    unitsOf (seamBytes false tm g.stages)

/-- The walk of an ATTN (R186). -/
def At.walk (g : At) (tm : Nat) (col : Bool) : Walk := ⟨g.o.size 2, g.o.size 3, g.o.size 4, cdiv g.nq tm, 1, 1, col⟩

/-! ### Checks (R198) -/

/-- The parameter fields that a mask kind uses: offset and width (Tables 7-2, 7-3). -/
def maskUses (kind : Nat) : List Nat :=
  match kind with
  | 1 => [28]
  | 2 => [28, 32, 36]
  | 3 => [28, 40]
  | 4 => [26, 28, 44, 46, 48, 49, 50, 51, 52]
  | 5 => [40]
  | _ => []

/-- The first field of the parameter block that breaks its rules (Table 7-2, R178, R180), in byte order. -/
def paramBad (c : Cmd) (b : List Byte) : Option Nat :=
  let f := fun off n => fieldAt b off n
  let uses := maskUses c.mask
  let unused := fun off n => !uses.contains off && f off n != 0
  let tests : List (Nat × Bool) :=
    [(0, (f 0 6 != 0) != c.lseW), (26, unused 26 2), (28, unused 28 4), (32, unused 32 4), (36, unused 36 4),
     (40, unused 40 4 || (c.mask == 3 && f 40 4 == 0) || (c.mask == 5 && f 40 4 % 16 != 0)), (44, unused 44 2), (46, unused 46 2),
     (48, unused 48 1), (49, unused 49 1), (50, unused 50 1), (51, unused 51 1 || decide (2 ≤ f 51 1)), (52, unused 52 4),
     (56, c.mask != 5 && !c.ringA && f 56 6 != 0), (62, f 62 2 != 0)]
  (tests.find? (·.2)).map (·.1)

/-- The first field of the ring block that breaks Table 7-6 or R195. -/
def ringBad (b : List Byte) : Option Nat :=
  let f := fun off n => fieldAt b off n
  let tests : List (Nat × Bool) :=
    [(0, decide (f 0 2 < 2) || decide (256 < f 0 2)), (2, decide (f 0 2 ≤ f 2 2)), (4, decide (11 < bits (f 4 1) 4 4) || decide (11 < bits (f 4 1) 0 4)),
     (5, decide (2 ≤ f 5 1)), (6, decide (4095 < f 6 2)), (8, decide (4095 < f 8 2)), (10, decide (4095 < f 10 2)), (22, f 22 2 != 0),
     (60, f 5 1 == 0 && decide (2 ^ 32 < f 0 2 * f 60 4))]
  (tests.find? (·.2)).map (·.1)

/-- R184: the first record and field of an ATTN stage list that break it. -/
def attnStageBad (d : Nat) (paged : Bool) (l : List Stage) : Option (Nat × Nat) :=
  let one := fun (e : Stage × Nat) =>
    let st := e.1
    let rope := st.typ == 0x06 && st.side == 0
    let sel := bits st.param 4 1
    let tests : List (Nat × Bool) :=
      [(0, !(rope || (st.side == 2 && [0x01, 0x05, 0x09].contains st.typ))), (2, rope && !st.sfmt.isArray),
       (3, rope && (st.headSize != d || (sel == 1 && paged) || (l.take e.2).any fun q => q.side == 0 && bits q.param 4 1 == sel)),
       (24, rope && st.clo != 0), (28, rope && st.chi != 0)]
    (tests.find? (·.2)).map fun t => (e.2, t.1)
  l.zipIdx.findSome? one

/-- Check 5 for the addresses of the parameter block (R583). -/
def attnAddrs (s : State) (p : Nat) (c : Cmd) : Chk Unit := do
  let dp := c.addrAt 56
  addrIn s p 0x05 6 dp 64
  let b ← readStruct s 6 dp 64
  let at5 := fun off n => let a := fieldAt b off 6; ensure (a == 0 || s.owned p a n) (rejAddr 0x05 6 a)
  at5 6 288
  at5 0 64
  at5 20 64
  if c.mask = 5 || c.ringA then addrIn s p 0x05 6 (fieldAt b 56 6) (if c.ringA then 64 else 1) else pure ()

/-- Check 6 for the operand area, the parameter block and the ring block. -/
def attnFields (s : State) (c : Cmd) : Chk Unit := do
  let dp := c.addrAt 56
  let par := s.bytesAt dp 64
  ensure (decide (c.mask ≤ 5) && decide (c.bits 62 0 4 ≤ 4)) (rejCmd 0x30 62)
  ensure (c.bits 63 2 6 == 0) (rejCmd 0x30 63)
  ensure (!c.streamB) (rejCmd 0x30 1)
  ensure (c.split == 0) (rejCmd 0x30 3)
  ensure (!c.accInt) (rejCmd 0x03 1)
  ensure (dp % 64 == 0) (rejAddr 0x30 6 dp)
  match paramBad c par with
  | some off => throw (rejIn 0x30 6 dp off)
  | none => pure ()
  if c.ringA then do
    ensure (c.mask != 5) (rejCmd 0x30 62)
    let a := fieldAt par 56 6
    ensure (a % 64 == 0) (rejAddr 0x30 6 a)
    let rb ← readStruct s 6 a 64
    match ringBad rb with
    | some off => throw (rejIn 0x30 6 a off)
    | none => pure ()
  else pure ()

/-- The end of check 6: formats, then the pool state and the paged rules, then ports and arrival counters of a ring (Table 7-7). -/
def attnFormats (s : State) (c : Cmd) (ds : List Desc) : Chk Unit := do
  let p := s.partOf c.ctx
  let d := fun i => ds.getD i .nil
  let fmt := fun (slot : Nat) (x : Desc) (ok : Bool) => ensure ok (rejIn 0x30 slot x.at_ 6)
  fmt 1 (d 0) (d 0).fmt.isArray
  fmt 2 (d 1) (d 1).fmt.isArray
  fmt 3 (d 2) ((d 2).fmt.isArray && !(d 2).fmt.isMx)
  fmt 4 (d 3) ((d 3).fmt != .int16 && (d 3).fmt != .int32)
  if c.lseW then fmt 6 (d 4) ((d 4).fmt == .fp32) else pure ()
  match ds[if c.lseW then 5 else 4]? with
  | some x => fmt 6 x (x.fmt == .int32)
  | none => pure ()
  let paged := (d 1).kind == 1 || (d 2).kind == 1
  ensure (!(c.ringA && (d 1).kind == 1)) (rejIn 0x30 2 (d 1).at_ 7)
  ensure (!(c.ringA && (d 2).kind == 1)) (rejIn 0x30 3 (d 2).at_ 7)
  if paged then do
    let slot := if (d 1).kind = 1 then 2 else 3
    let x := if (d 1).kind = 1 then d 1 else d 2
    ensure (!s.ringClass p) (rejIn 0x38 slot x.at_ 7)
    ensure (s.kvReady p) (rejIn 0x40 slot x.at_ 0)
    if (d 1).kind = 1 then pagedCheck s p false 2 (d 1).at_ (s.bytesAt (d 1).at_ 64) else pure ()
    if (d 2).kind = 1 then pagedCheck s p false 3 (d 2).at_ (s.bytesAt (d 2).at_ 64) else pure ()
    ensure ((d 1).kind == (d 2).kind) (rejIn 0x38 3 (d 2).at_ 7)
    ensure ((d 1).base == (d 2).base) (rejIn 0x38 3 (d 2).at_ 0)
    ensure ((d 1).size 3 == (d 2).size 3) (rejIn 0x38 3 (d 2).at_ 20)
    ensure ((d 1).layer == (d 2).layer) (rejIn 0x38 3 (d 2).at_ 28)
    ensure ((d 1).comp == 0) (rejIn 0x38 2 (d 1).at_ 30)
    ensure ((d 2).comp == 1) (rejIn 0x38 3 (d 2).at_ 30)
  else pure ()
  if c.ringA then do
    let a := fieldAt (s.bytesAt (c.addrAt 56) 64) 56 6
    let rb := s.bytesAt a 64
    let links := s.getF F.chtPartLinks p
    ensure (bit links (bits (fieldAt rb 4 1) 4 4) && bit links (bits (fieldAt rb 4 1) 0 4)) (rejIn 0x32 6 a 4)
    ensureAll ([6, 8, 10].map fun off => (s.ownsArrival p (fieldAt rb off 2), rejIn 0x63 6 a off))
  else pure ()

/-- BLKBYTES of a ring: the ranges of K and V, rounded up to 64 (Table 7-6). -/
def blkBytes (k v : Desc) : Nat := alignUp (sumOf (k.ranges.map (·.2)) + sumOf (v.ranges.map (·.2))) 64

/-- Check 8: shapes (R177, R179). -/
def attnShapes (q k v o : Opd) (lse dq : Option Desc) : List (Bool × Rej) :=
  let at_ : Opd → Nat → Rej := fun x i => { rejIn 0x31 x.1 x.2.at_ (8 + 4 * i) with tag := x.2.dtag }
  let dims := fun (x : Opd) (want : List (List Nat)) => want.zipIdx.map fun e => (e.1.contains (x.2.size e.2), at_ x e.2)
  let z := fun i => q.2.size i
  let paged := k.2.kind == 1
  dims q [[64, 128], [z 1], [z 2], [z 3], [1]] ++
    dims k ([[z 0], [k.2.size 1], [k.2.size 2], if paged then [z 3] else [z 3, 1], [1]]) ++
    [(k.2.size 2 != 0 && z 2 % k.2.size 2 == 0, at_ k 2)] ++
    dims v ((List.range 5).map fun i => [k.2.size i]) ++ dims o ((List.range 5).map fun i => [z i]) ++
    (match lse with
      | some x => dims (6, x) [[z 1], [z 2], [z 3], [1], [1]]
      | none => []) ++
    (match dq with
      | some x => dims (6, x) [[z 1], [z 3, 1], [1], [1], [1]]
      | none => [])

/-- The records of an ATTN list with the 1D position map ignored (R184). -/
def attnRecs (l : SeamList) : SeamList :=
  { l with recs := l.recs.map fun b =>
      if fieldAt b 0 1 = 0x06 then b.take 3 ++ leBytes 1 (fieldAt b 3 1 - b2n (bit (fieldAt b 3 1) 1) * 2) ++ b.drop 4 else b }

/-- The slot list of paged keys: slots and lengths (R213). -/
def attnSlots (s : State) (p : Nat) (k : Desc) : Chk (List Nat × List Nat) := do
  if k.kind != 1 || !s.owned p k.base (4 * k.size 3) then return ([], [])
  else
    logRead k.base (4 * k.size 3)
    ensure (!s.anyPoison (wordsOf k.base (4 * k.size 3))) (rejAddr 0x0D 6 k.base)
    match (s.agent p).pool with
    | none => return ([], [])
    | some u =>
      let es := (List.range (k.size 3)).map fun b => (b, toInt 32 (s.numAt (k.base + 4 * b) 4))
      ensureAll (es.map fun e => (s.inSlots p e.2, rejIn 0x39 6 (k.base + 4 * e.1) 0))
      let slots := es.map fun e => e.2.toNat
      let lens ← slots.mapM fun sl => do
        let a := s.slotAddr p u sl
        logRead a 4
        ensure (!s.anyPoison (wordsOf a 4)) (rejIn 0x07 6 a 0)
        return s.numAt a 4
      return (slots, lens)

/-- The query positions as the anchor reads them (R179, R511). -/
def attnPos (s : State) (p : Nat) : Option Desc → Chk (List Int)
  | none => return []
  | some d => do
    if (badRange s p d).isSome then return []
    else
      modify (· ++ d.allWords)
      ensure (!s.anyPoison d.allWords) { rejIn 0x0D 6 d.at_ 0 with tag := d.dtag }
      return (List.range d.rows).flatMap fun r => (List.range (d.size 0)).map fun i => toInt 32 (s.elemCode d i (d.rowIx r))

/-- The checks of ATTN (R198, Table 7-7). [Log 30 DEDUCED] -/
def attnCheck (s : State) (c : Cmd) : Chk Plan := do
  let p := s.partOf c.ctx
  let cs ← commonChecks s c (pure ())
  ensure (!c.ringA || s.ringClass p) (rejCmd 0x32 63)
  let dp := c.addrAt 56
  let par := s.bytesAt dp 64
  let dl := fieldAt par 0 6
  let dqp := fieldAt par 20 6
  let main : List DRef := [⟨1, c.addrAt 32, anyFmt, [0]⟩, ⟨2, c.addrAt 38, anyFmt, [0, 1]⟩, ⟨3, c.addrAt 44, anyFmt, [0, 1]⟩, ⟨4, c.addrAt 50, anyFmt, [0]⟩]
  let more := (if dl = 0 then [] else [DRef.mk 6 dl anyFmt [0]]) ++ (if dqp = 0 then [] else [DRef.mk 6 dqp anyFmt [0]])
  let os ← loadDescs s c (main ++ (if s.owned p dp 64 then more else [])) (do attnAddrs s p c; attnFields s c) (attnFormats s c)
  let nil : Opd := (0, .nil)
  let o := fun i => os.getD i nil
  let lse := if c.lseW then (os[4]?).map (·.2) else none
  let dq := if dqp = 0 then none else (os[if c.lseW then 5 else 4]?).map (·.2)
  let d := (o 0).2.size 0
  let ds := fieldAt par 6 6
  let q : SeamCmd := { op := 3, stream := false, accInt := false, m := (o 0).2.size 1, n := d, k := d, h := 0,
                       batch := [(o 0).2.size 2, (o 0).2.size 3, 1] }
  let list ← seamHead s c q (o 3).2.fmt false false 6 ds
  let raw := (list.map (·.stages)).getD []
  match attnStageBad d ((o 1).2.kind == 1) raw with
  | some (i, off) => throw (rejIn 0x30 6 (ds + 32 + 32 * i) off)
  | none => pure ()
  ensureAll (attnShapes (o 0) (o 1) (o 2) (o 3) lse dq)
  let sl ← attnSlots s p (o 1).2
  let nk := if (o 1).2.kind = 1 then maxOf sl.2 else (o 1).2.size 1
  ensure (c.mask != 5 || decide (cdiv nk 8 ≤ fieldAt par 40 4)) (rejIn 0x31 6 dp 40)
  let rbA := fieldAt par 56 6
  let rb := if c.ringA then s.bytesAt rbA 64 else leBytes 64 0
  ensure (!c.ringA || fieldAt rb 16 6 == blkBytes (o 1).2 (o 2).2) (rejIn 0x31 6 rbA 16)
  let pos ← attnPos s p dq
  let extra := attnExtra par rb sl.1 sl.2 pos
  let dsc := os.map (·.2)
  let g0 := c.atOf dsc extra [] 1
  itemCheck (g0.walk 16 c.walkCol)
  let sts ← seamBody kvCheck s c q cs (list.map attnRecs)
  let g1 := c.atOf dsc extra sts 1
  let bm := if c.mask = 5 && g1.nq != 0 && nk != 0 then [(6, rawDesc rbA ((g1.nq - 1) * fieldAt par 40 4 + cdiv nk 8))] else []
  let work := 4 * (g1.nq * g1.hq * g1.o.size 3 * (d + 1))
  let rings : List Opd := if c.ringA then
      [(6, rawDesc (fieldAt rb 24 6) (fieldAt rb 16 6)), (6, rawDesc (fieldAt rb 30 6) (fieldAt rb 16 6)), (6, rawDesc (fieldAt rb 54 6) work)]
    else []
  let slotList : List Opd := if (o 1).2.kind = 1 then [(6, rawDesc (o 1).2.base (4 * (o 1).2.size 3))] else []
  rangeCheck s p 0x05 (os ++ bm ++ rings ++ slotList)
  let ins := [o 0] ++ (if (o 1).2.kind = 1 then slotList else [o 1, o 2]) ++ (dq.map fun x => (6, x)).toList ++ bm ++ stageIns sts
  overlapCheck (fun _ _ => false) ins ([o 3] ++ (lse.map fun x => (6, x)).toList ++ stageOuts sts ++ rings)
  let t ← tileCheck s c g1.nq 0 g1.need
  let g := { g1 with tm := t.1 }
  let w := g.walk t.1 c.walkCol
  let cnt := vecCount (stochAny c sts) cs w fun cl it => g.countItem (s.progsOf cs) (pipeLoad (s.getF F.sfuPipemapRetired cl)) it
  countCheck s c cnt
  return { descs := dsc, outIx := 3, stages := sts, walk := w, tm := t.1, gw := 1, single := t.2.1, units := t.2.2, count := cnt,
           image := imageOf s cs sts, extra := extra }

/-- The command reads paged keys, so its parts use the agent (R213). -/
def Cmd.pagedKeys (c : Cmd) : Bool := c.opcode == 0x03 && (c.plan.desc 1).kind == 1

/-- A command of the ATTN row. -/
def isAttn (c : Cmd) : Bool := c.opcode == 0x03

end Sys2Proof.Machine
end

