-- ==== Sys2Proof/Machine/Ring.lean ====
section
/-!
DEFINITION. Machine/Ring.lean: the steps of a ring ATTN on one item: visiting blocks, the merge of partial outputs, the last store
(R193 to R196).
-/
namespace Sys2Proof.Machine

/-- NDEV. -/
def At.ndev (g : At) : Nat := g.r 0 2
/-- LAYOUT = 1: by head. -/
def At.byHead (g : At) : Bool := bit (g.r 5 1) 0
/-- Owner of the block of step `s` (R194). -/
def At.ringSrc (g : At) (s : Nat) : Nat := (g.r 2 2 + g.ndev - s % g.ndev) % g.ndev

/-- Bytes of the element range of a tensor, and its lowest address. -/
def Desc.span_ (d : Desc) : Int × Nat := d.range.getD (d.base, 0)

/-- A tensor moved so that its element range starts at `a`, its scales after it. -/
def Desc.movedTo (d : Desc) (a : Nat) : Desc :=
  { d with base := ((a : Int) + ((d.base : Int) - d.span_.1)).toNat, scaleBase := a + d.span_.2 }

/-- Bytes of all ranges of a tensor. -/
def Desc.rangeBytes (d : Desc) : Nat := sumOf (d.ranges.map (·.2))

/-- K and V of step `s`: the local ones, or the block in its receive buffer (R193, R194). -/
def At.visit (g : At) (s : Nat) : Desc × Desc :=
  if s = 0 then (g.k, g.v)
  else
    let a := g.r (if (s - 1) % 2 = 0 then 24 else 30) 6
    (g.k.movedTo a, g.v.movedTo (a + g.k.rangeBytes))

/-- The keys of an item at step `s`; none when its head is not of that step (R195, R196). -/
def At.ringKeys (g : At) (it : Item) (s : Nat) : Option KeySrc :=
  let h := it.b.getD 0 0
  let kv := g.visit s
  let src := g.ringSrc s
  if g.byHead then
    let n := h / (g.hq / (g.ndev * g.hkv))
    if src * g.hkv ≤ n && decide (n < (src + 1) * g.hkv) then some ⟨kv.1, kv.2, n - src * g.hkv, 0⟩ else none
  else some ⟨kv.1, kv.2, h / (g.hq / g.hkv), (src * g.r 60 4 : Nat)⟩

/-- Y of WORK as a tensor of O's shape (R193). -/
def At.workY (g : At) : Desc :=
  let w := g.r 54 6
  let b := 4 * g.d
  { Desc.nil with base := w, fmt := .fp32, rank := 5, sizes := g.o.sizes,
                  strides := [(b : Int), (b * g.nq : Nat), (b * g.nq * g.hq : Nat), (b * g.nq * g.hq * g.o.size 3 : Nat)] }

/-- L of WORK: query rows, heads, batch. -/
def At.workL (g : At) : Desc :=
  let w := g.r 54 6 + 4 * (g.d * g.nq * g.hq * g.o.size 3)
  { Desc.nil with base := w, fmt := .fp32, rank := 3, sizes := [g.nq, g.hq, g.o.size 3, 1, 1],
                  strides := [(4 * g.nq : Nat), (4 * g.nq * g.hq : Nat), 0, 0] }

/-- The merge of a step's partial row into the state of a row (R195): (Y, L), its flush count. -/
def mergeRow (ftz compat : Bool) (a b : List Num × Num) : (List Num × Num) × Nat :=
  if b.2 = .inf true then (a, 0)
  else if a.2 = .inf true then (b, 0)
  else
    let sub := fun (x y : Num) => rne ftz (x.add y.negate)
    let ex := fun (x : Num × Nat) => let e := sfuRes ftz compat 0 x.1; (e.1, x.2 + e.2)
    let m := a.2.max b.2
    let ea := ex (sub a.2 m)
    let eb := ex (sub b.2 m)
    let sm := rne ftz (ea.1.add eb.1)
    let lg := sfuRes ftz compat 2 sm.1
    let l := rne ftz (m.add lg.1)
    let fa := ex (sub a.2 l.1)
    let fb := ex (sub b.2 l.1)
    let ys := List.zipWith (fun y z =>
      let p := rne ftz (y.mul fa.1)
      let q := rne ftz (sumNum [z.mul fb.1, p.1])
      (q.1, p.2 + q.2)) a.1 b.1
    ((ys.map (·.1), l.1), ea.2 + eb.2 + sm.2 + lg.2 + l.2 + fa.2 + fb.2 + sumOf (ys.map (·.2)))

/-- Step `s` of an item of a ring ATTN: the partial, its merge, and after the last step the outputs (R194 to R196). -/
def PartRun.ringItem (c : Cmd) (cl s : Nat) (r : PartRun) (it : Item) : PartRun :=
  let g := c.at_
  match g.ringKeys it s with
  | none => r
  | some w =>
    let p := r.s.partOf c.ctx
    let a := r.attend c cl p g it w
    if a.1.status != 0 then a.1
    else if g.byHead then a.1.attStore c cl g it a.2
    else
      let h := it.b.getD 0 0
      let b := it.b.getD 1 0
      let ms := g.rowsOf it
      let yw := fun (m : Nat) => g.workY.runWords 0 g.d [m, h, b, 0]
      let lw := g.workL.runWords (ms.headD 0) ms.length [h, b, 0, 0]
      let r := if s = 0 then a.1 else a.1.read (ms.flatMap yw ++ lw)
      if r.status != 0 then r
      else
        let old := ms.map fun m => ((List.range g.d).map fun i => f32 (r.s.elemCode g.workY i [m, h, b, 0]), f32 (r.s.elemCode g.workL m [h, b, 0, 0]))
        let new : List ((List Num × Num) × Nat) := if s = 0 then a.2.map fun n => (n, 0) else List.zipWith (mergeRow c.ftz c.compat) old a.2
        let rows := new.map (·.1)
        let fl := sumOf (new.map fun (e : (List Num × Num) × Nat) => e.2)
        let r : PartRun := { r with fl := r.fl + fl }
        let t := (ms.zip rows).foldl (fun (t : State) (e : Nat × List Num × Num) => t.writeRun g.workY 0 [e.1, h, b, 0] (e.2.1.map encOf, [], 0)) r.s
        let t := t.writeRun g.workL (ms.headD 0) [h, b, 0, 0] (rows.map fun (e : List Num × Num) => encOf e.2, [], 0)
        let r : PartRun := { r with s := t }
        if s + 1 = g.ndev then r.attStore c cl g it rows else r

end Sys2Proof.Machine
end

