-- ==== Sys2Proof/Machine/RngCmds.lean ====
section
/-!
DEFINITION. Machine/RngCmds.lean: RNGFILL and SAMPLE (Chapter 11): their checks, counts and items.
-/
namespace Sys2Proof.Machine

/-! ### RNGFILL -/

/-- DIST. -/
def Cmd.dist (c : Cmd) : Nat := c.bits 54 0 4
/-- SUBSEL. -/
def Cmd.subSel (c : Cmd) : Nat := c.bits 55 0 2

/-- The operand area and CVT of RNGFILL at check 6 (R271, R274). -/
def rngArea (c : Cmd) : Chk Unit := do
  ensure (!c.cvt.stoch) (rejCmd 0x58 1)
  ensure (!(c.dist == 4 && c.field 50 4 != 0)) (rejCmd 0x58 50)
  ensure (decide (c.dist ≤ 4)) (rejCmd 0x58 54)
  ensure (c.bits 55 2 6 == 0 && c.subSel != 3) (rejCmd 0x58 55)
  ensure (!(c.dist == 2 && c.field 56 4 != 0)) (rejCmd 0x58 56)
  ensure (!((c.dist == 2 || c.dist == 3) && c.field 60 4 != 0)) (rejCmd 0x58 60)

/-- The output format that a distribution permits (Table 11-2). -/
def rngFmtOk (dist : Nat) (d : Desc) : Bool :=
  if dist = 4 then d.fmt == .int32 && d.rank == 2
  else if dist = 2 then d.fmt == .int32
  else d.fmt != .int16 && d.fmt != .int32

/-- V and Σ of a row segment (R276). -/
def rngCost (dist : Nat) (mx : Bool) : Nat × Nat :=
  let q := match dist with | 2 => (20, 0) | 1 => (23, 8) | 4 => (1024, 0) | _ => (21, 0)
  (q.1 + b2n mx, q.2)

/-- Buffer need of RNGFILL in units (R276). -/
def rngNeed (f : Fmt) (tm : Nat) (_ : Bool) : Nat :=
  unitsOf (tm * 128 * f.width / 8) + (if f.isMx then unitsOf (tm * 4) else 0) + unitsOf (tm * 512)

/-- Counter word X3 as issue resolves it (Table 11-1). [Log 37 DEDUCED] -/
def State.rngX3 (s : State) (c : Cmd) : Nat :=
  match c.subSel with
  | 0 => c.field 50 4
  | 1 => c.step
  | _ => s.getF F.shtCregValue (c.ctx * 16 + c.bits 54 4 4)

/-- The checks of RNGFILL (R290). [Log 37 DEDUCED] -/
def rngCheck (s : State) (c : Cmd) : Chk Plan := do
  let p := s.partOf c.ctx
  let cs ← commonChecks s c (pure ())
  let ds ← loadDescs s c [DRef.mk 1 (c.addrAt 32) anyFmt [0]] (rngArea c) fun l =>
    ensureAll (l.map fun d => (rngFmtOk c.dist d, rejIn 0x58 1 d.at_ 6))
  let o : Opd := ds.headD (0, .nil)
  ensure (!(c.dist == 4 && o.2.size 0 != 8)) (rejIn 0x59 1 o.2.at_ 8)
  itemCheck (outWalk o.2.sizes 16 c.walkCol)
  rangeCheck s p 0x05 ds
  let t ← tileCheck s c (o.2.size 1) 0 (rngNeed o.2.fmt)
  let w := outWalk o.2.sizes t.1 c.walkCol
  let q := rngCost c.dist o.2.fmt.isMx
  let cnt := vecCount false cs w fun cl it =>
    let rw := it.rows t.1 (o.2.size 1)
    let g := rw.2 - rw.1
    vecItem (if c.dist = 4 then cdiv g 16 else g) (max q.1 (pipeLoad (s.getF F.sfuPipemapRetired cl) * q.2)) (b2n (q.2 != 0))
  countCheck s c cnt
  return { descs := ds.map (·.2), outIx := 0, stages := [], walk := w, tm := t.1, gw := 0, single := t.2.1, units := t.2.2, count := cnt,
           image := none, extra := [s.rngX3 c] }

/-- Element index of an element of the output (R272). -/
def elemIndex (o : Desc) (j m : Nat) (b : List Nat) : Nat :=
  j + o.size 0 * (m + o.size 1 * (b.getD 0 0 + o.size 2 * (b.getD 1 0 + o.size 3 * b.getD 2 0)))

/-- The value of element (j, m) of batch entry `b` (R274, R283). -/
def Cmd.rngElem (c : Cmd) (o : Desc) (j m : Nat) (b : List Nat) : Num :=
  if c.dist = 4 then intNum (toInt 32 ((streamState (c.field 38 8) (c.field 46 4 + m)).words.getD j 0))
  else rngValue c.dist (c.field 38 8) (c.field 46 4) (c.plan.extra.headD 0) (decodeElem .fp32 (c.field 56 4))
    (decodeElem .fp32 (c.field 60 4)) (elemIndex o j m b)

/-- Run one item of RNGFILL (R276). -/
def PartRun.rngItem (c : Cmd) (r : PartRun) (it : Item) : PartRun :=
  let o := c.plan.desc 0
  let bx := c.vecBox o false it
  r.vecRows o bx it.b r.lanes fun m =>
    (convertRes c.ftz c.cvt o.fmt ((upto bx.2.2.1 bx.2.2.2).map fun j => (.num (c.rngElem o j m it.b), 0)), [], 0)

/-! ### SAMPLE -/

/-- STBASE. -/
def Cmd.stBase (c : Cmd) : Nat := c.addrAt 50
/-- The mode fields of SAMPLE (Table 11-5). -/
def Cmd.sampleMode (c : Cmd) : SampleMode :=
  let m := c.field 60 2
  ⟨decodeElem .fp32 (c.field 56 4), bit m 14, bit m 13, m % 8192, c.field 62 2⟩

/-- A finite positive FP32 encoding. -/
def finitePos (v : Nat) : Bool := decide (0 < v) && decide (v < 0x7F800000)

/-- The operand area of SAMPLE at check 6 (R282). -/
def sampleArea (c : Cmd) : Chk Unit := do
  let m := c.sampleMode
  ensure (c.stBase % 64 == 0) (rejAddr 0x58 4 c.stBase)
  ensure (finitePos (c.field 56 4)) (rejCmd 0x58 56)
  ensure (!bit (c.field 60 2) 15 && decide (m.topK ≤ 4096) && !(m.greedy && m.topK != 0) && !(m.topP != 0 && m.topK == 0)) (rejCmd 0x58 60)
  ensure (!(m.greedy && m.topP != 0)) (rejCmd 0x58 62)

/-- Formats and ranks of SAMPLE: logits, output, slot list (R282). -/
def sampleFmtOk (i : Nat) (d : Desc) : Bool :=
  match i with
  | 0 => (d.fmt == .fp32 || d.fmt == .bf16 || d.fmt == .fp16) && d.rank == 2
  | 1 => d.fmt == .int32 && d.rank == 2
  | _ => d.fmt == .int32 && d.rank == 1

/-- Slot of row `i` of a SAMPLE. -/
def State.sampleSlot (s : State) (d : Desc) (i : Nat) : Int := toInt 32 (s.elemCode d i [0, 0, 0, 0])

/-- The slots that the partition may name: its range, or 0 to 16,383 in a ring (R283, R202). -/
def State.slotOk (s : State) (p : Nat) (v : Int) : Bool :=
  if s.flag F.kvtSlotsRing p then decide (0 ≤ v) && decide (v < 16384)
  else decide (0 ≤ v) && inRange (s.getF F.kvtSlotsSlotfirst p) (s.getF F.kvtSlotsSlotcount p) v.toNat

/-- Check 8 of SAMPLE: the slot list (R283). [Log 37 DEDUCED] -/
def slotCheck (s : State) (p : Nat) (d : Opd) : Chk (List Nat) := do
  let n := d.2.size 0
  let ws := d.2.runWords 0 n [0, 0, 0, 0]
  ensure (s.owned p d.2.base (4 * n)) (rejAddr 0x05 d.1 d.2.base)
  modify (· ++ ws)
  ensure (!s.anyPoison ws) (rejAddr 0x0D d.1 (((ws.find? fun w => (s.wordClass w).isPoison).getD 0) * 64))
  let vs := (List.range n).map fun i => (i, s.sampleSlot d.2 i)
  vs.forM fun e => ensure (s.slotOk p e.2) (rejIn 0x39 6 (d.2.base + 4 * e.1) 0)
  vs.forM fun e => ensure (!((vs.take e.1).any fun f => f.2 == e.2)) (rejIn 0x5A 6 (d.2.base + 4 * e.1) 0)
  return vs.map fun e => e.2.toNat

/-- Array cycles of a row of SAMPLE (R289). -/
def sampleRowTime (m : SampleMode) (v : Nat) : Nat :=
  let nch := cdiv v 128
  if m.greedy then 2 * nch + 2 * nch * b2n m.lpWhole + 96
  else if m.topK = 0 then 6 * nch + 96
  else 10 * nch + 14 * m.topK + 96

/-- The checks of SAMPLE (R290). -/
def sampleCheck (s : State) (c : Cmd) : Chk Plan := do
  let p := s.partOf c.ctx
  let cs ← commonChecks s c (pure ())
  let refs := [DRef.mk 1 (c.addrAt 32) anyFmt [0], DRef.mk 2 (c.addrAt 38) anyFmt [0], DRef.mk 3 (c.addrAt 44) anyFmt [0]]
  let ds ← loadDescs s c refs (do addrIn s p 0x05 4 c.stBase 1; sampleArea c) fun l =>
    ensureAll (l.zipIdx.map fun d => (sampleFmtOk d.2 d.1, rejIn 0x58 (d.2 + 1) d.1.at_ 6))
  let nil : Opd := (0, .nil)
  let l := ds.getD 0 nil
  let o := ds.getD 1 nil
  let sl := ds.getD 2 nil
  let n := l.2.size 1
  ensureAll [(decide (1 ≤ l.2.size 0) && decide (l.2.size 0 ≤ 2 ^ 20), rejIn 0x59 1 l.2.at_ 8),
    (decide (1 ≤ n) && decide (n ≤ 4096), rejIn 0x59 1 l.2.at_ 12),
    (o.2.size 0 == 2, rejIn 0x59 2 o.2.at_ 8), (o.2.size 1 == n, rejIn 0x59 2 o.2.at_ 12), (sl.2.size 0 == n, rejIn 0x59 3 sl.2.at_ 8)]
  let slots ← slotCheck s p sl
  let lo := slots.foldl min (slots.headD 0)
  let tab : Opd := (4, rawDesc (c.stBase + 32 * lo) (32 * (maxOf slots + 1 - lo)))
  rangeCheck s p 0x05 (ds ++ [tab])
  overlapCheck (fun _ _ => false) [l, sl] [o]
  ensure (!(tab.2.meets l.2 || tab.2.meets o.2 || tab.2.meets sl.2)) (rejAddr 0x06 4 tab.2.base)
  let units := unitsOf 69632
  ensure (decide (units ≤ s.getF F.shtCtxstatShare c.ctx)) (rejNone 0x0A)
  let w : Walk := ⟨1, 1, 1, n, 1, 1, false⟩
  let cnt := vecCount false cs w fun _ _ => sampleRowTime c.sampleMode (l.2.size 0)
  countCheck s c cnt
  return { descs := ds.map (·.2), outIx := 1, stages := [], walk := w, tm := 1, gw := 0, single := false, units := units, count := cnt,
           image := none, extra := slots }

/-- Reads of a row of logits (R289). -/
def sampleReads (m : SampleMode) : Nat := if m.greedy then 1 + b2n m.lpWhole else if m.topK = 0 then 2 else 5

/-- Run one row of SAMPLE (R283 to R289). -/
def PartRun.sampleItem (c : Cmd) (r : PartRun) (it : Item) : PartRun :=
  let l := c.plan.desc 0
  let o := c.plan.desc 1
  let i := it.t
  let md := c.sampleMode
  let a := c.stBase + 32 * c.plan.extra.getD i 0
  let lw := l.runWords 0 (l.size 0) [i, 0, 0, 0]
  let r := (List.range (sampleReads md)).foldl (fun (t : PartRun) _ => if t.status = 0 then t.read lw else t) (r.read (wordsOf a 32))
  if r.status != 0 then r
  else
    let g := Xo.ofBytes (r.s.bytesAt a 32)
    if g == ⟨0, 0, 0, 0⟩ then r.fail 0x5B a
    else
      let xs := (List.range (l.size 0)).map fun j => (r.s.elemNum false l j [i, 0, 0, 0]).1
      let q := sampleRow md xs g.out
      let f := f32Bits c.ftz q.2
      let t := (r.s.writeRun o 0 [i, 0, 0, 0] ([ofInt 32 q.1, f.1], [], 0)).writeBytes a g.next.bytes
      { r with s := t, fl := r.fl + f.2 }

/-- The output row of a SAMPLE item; its stream-table entry is written as poison beside it when the item fails (R291). -/
def Cmd.sampleRegions (c : Cmd) (it : Item) : List Region :=
  [⟨c.plan.desc 1, 0, 2, [it.t, 0, 0, 0]⟩, ⟨rawDesc (c.stBase + 32 * c.plan.extra.getD it.t 0) 32, 0, 32, [0, 0, 0, 0]⟩]

end Sys2Proof.Machine
end

