-- ==== Sys2Proof/Machine/Parts.lean ====
section
/-!
DEFINITION. Machine/Parts.lean: the life of a command after issue: parts start and run (R97, R375), reduction parts merge (R111), parts
report (R118, R119), the command completes and its record is written (R118, R399), store images install (R171).
-/
namespace Sys2Proof.Machine

/-! ### What a part does -/

/-- The unit with which a part starts: 0 = array, 1 = vector engine, 2 = move engine (R375). -/
def Cmd.unit (c : Cmd) : Nat :=
  if [0x10, 0x11, 0x12].contains c.opcode then 2
  else if [0x01, 0x02, 0x03].contains c.opcode || (c.opcode == 0x04 && c.convOp == 0) then 0
  else 1

/-- An SFP that loads a store image. -/
def Cmd.loadsImage (c : Cmd) : Bool := c.opcode == 0x09 && c.sfpLoad

/-- The items of a part (R110); a translated MOVE runs them all on span cluster 0 (R263). -/
def Cmd.partItems (c : Cmd) (cl : Nat) : List Item :=
  let i := c.span.idxOf cl
  if c.loadsImage then []
  else if c.opcode = 0x10 && c.plan.translated then (if i = 0 then c.plan.walk.itemsOf 1 0 else [])
  else c.plan.walk.itemsOf c.span.length i

/-- F of a command that may split its reduction. -/
def Cmd.splitF (c : Cmd) : Nat := if c.opcode = 0x01 || (c.opcode = 0x04 && c.convOp = 0) then c.factor else 1

/-- An item has chunks of its own (R83). -/
def Cmd.contributes (c : Cmd) (it : Item) : Bool := if c.opcode = 0x01 then !(c.mm.chunks it).isEmpty else !(c.cv.chunks it).isEmpty

/-- The regions that an item writes (R119). -/
def Cmd.regions (c : Cmd) (it : Item) : List Region :=
  match c.opcode with
  | 0x01 => c.mm.regions it (it.p == 0)
  | 0x02 => c.ch.regions it
  | 0x03 => c.at_.regions it
  | 0x04 => c.cv.regions it (it.p == 0)
  | 0x08 => c.vopRegions it
  | 0x19 => c.sampleRegions it
  | _ => let o := c.plan.desc c.plan.outIx; vecRegions o (c.vecBox o false it) it.b

/-- Run one item of a part. -/
def PartRun.item (c : Cmd) (cl : Nat) (r : PartRun) (it : Item) : PartRun :=
  if r.status != 0 then r
  else match c.opcode with
  | 0x01 => r.mmItem PartRun.kvWrites c cl it
  | 0x02 => r.chainItem PartRun.kvWrites c cl it
  | 0x03 => if c.ringA then r.ringItem c cl 0 it else r.attnItem c cl it
  | 0x04 => if c.convOp = 0 then r.convItem c cl it else r.poolItem c cl it
  | 0x08 => r.vopItem PartRun.kvWrites c cl it
  | 0x09 => r.sfpItem c cl it
  | 0x10 => r.moveItem c it
  | 0x11 => r.gatherItem c it
  | 0x12 => r.scatterItem c it
  | 0x13 => r.cropItem c it
  | 0x18 => r.rngItem c it
  | _ => r.sampleItem c it

/-- A part before its first item. -/
def PartRun.start (s : State) (lanes : List Lane) : PartRun :=
  { s := s, lanes := lanes, status := 0, addr := 0, fl := 0, passes := [], tiles := [], poison := false }

/-- The lane generators of a part: only a command that draws random fields has them (R279). -/
def Cmd.partLanes (c : Cmd) (cl : Nat) : List Lane := if stochAny c c.plan.stages then c.lanes (c.span.idxOf cl) else []

/-- Run the items of a part; a program part whose cluster holds another image fails (R171). -/
def State.runPart (s : State) (c : Cmd) (cl : Nat) : PartRun :=
  let r := PartRun.start s (c.partLanes cl)
  let its := c.partItems cl
  if c.plan.image.any fun i => i != s.getF F.sfuStoreImageid cl then r.fail 0x2B 0
  else if c.opcode = 0x10 && c.plan.translated then (if its.isEmpty then r else r.moveAll c its)
  else its.foldl (PartRun.item c cl) r

/-! ### Failed parts (R119) -/

/-- The mark, in place of a part number, that a contributing part of a tile has failed. -/
def deadMark : Nat := 64

/-- Cluster that owns output tile `x` (R111). -/
def Cmd.ownerOf (c : Cmd) (x : Nat) : Nat := c.span.getD (x * c.splitF % c.span.length) 0

/-- Cluster of part `p` of tile `x`. -/
def Cmd.clusterOf (c : Cmd) (x p : Nat) : Nat := c.span.getD ((x * c.splitF + p) % c.span.length) 0

/-- The part in a cluster. -/
def Cmd.part? (c : Cmd) (cl : Nat) : Option Part := c.parts.find? (·.cluster == cl)

/-- Change the part in a cluster. -/
def Cmd.mapPart (c : Cmd) (cl : Nat) (f : Part → Part) : Cmd :=
  { c with parts := c.parts.map fun p => if p.cluster = cl then f p else p }

/-- The tile is finished: its owner has started, has not failed, and no longer waits for parts of it. -/
def Cmd.tileDone (c : Cmd) (x : Nat) : Bool :=
  match c.part? (c.ownerOf x) with
  | some p => p.st == .running && p.status == 0 && !(c.tiles.any fun e => e.tile == x && e.part == 0)
  | none => false

/-- Poison a tile at its owner, whose bit of PARTS is set (R119). -/
def State.killTile (s : State) (c : Cmd) (x : Nat) : State × Cmd :=
  let it := c.plan.walk.item (x * c.splitF)
  let o := c.ownerOf x
  (s.poisonRegions (c.regions it),
   { c with poisoned := true, bad := if c.bad.contains o then c.bad else c.bad ++ [o],
            tiles := c.tiles.filter fun e => !(e.tile == x && decide (e.part < deadMark)) })

/-- A part fails: the regions of its items are poison, and the tiles to which it contributes are poisoned by their owners (R119). -/
def State.failPart (s : State) (c : Cmd) (cl status addr : Nat) : State × Cmd :=
  let its := c.partItems cl
  let f := c.splitF
  let t := s.poisonRegions (its.flatMap c.regions)
  let c1 := c.mapPart cl fun p => { p with st := .running, status := status, addr := addr, poison := p.poison || !its.isEmpty }
  let given := if f = 1 then [] else (its.filter fun it => it.p != 0 && c.contributes it).map fun it => it.t / f
  let c2 := { c1 with tiles := (c1.tiles.filter fun e => decide (e.part = deadMark) || c.clusterOf e.tile e.part != cl) ++
                given.map fun x => ⟨x, deadMark, [], [], 0, []⟩ }
  given.foldl (fun (a : State × Cmd) x => if c1.tileDone x then a.1.killTile a.2 x else a) (t, c2)

/-- What a finished run leaves in its part. -/
def Part.ran (p : Part) (r : PartRun) (ring : Bool) : Part :=
  { p with st := .running, poison := p.poison || r.poison, flushN := p.flushN + r.fl,
           dig := p.dig + sumOf (r.passes.map (·.sum)) + r.extra.1, full := p.full + sumOf (r.passes.map (·.full)) + r.extra.2.1,
           lanes := if ring then r.lanes else [] }

/-- The cluster counters of a run (R92, R528). -/
def State.countRun (s : State) (cl : Nat) (r : PartRun) : State :=
  let s := s.bump F.aryStrcycStrcyc cl (sumOf (r.passes.map (·.sum)) + r.extra.1)
  let s := s.bump F.aryStrmaxStrmax cl (sumOf (r.passes.map (·.full)) + r.extra.2.1)
  let s := s.bump F.aryLdwaitLdwait cl (loadWait r.passes + r.extra.2.2)
  s.bump F.cntFlushElems cl r.fl

/-- Take a run into its command: its tiles and counts, or its failure. -/
def State.afterRun (c : Cmd) (cl : Nat) (r : PartRun) : State :=
  let s := r.s.countRun cl r
  let c := c.mapPart cl fun p => p.ran r c.ringA
  if r.status = 0 then s.setCmd { c with tiles := c.tiles ++ r.tiles }
  else
    let a := s.failPart c cl r.status r.addr
    a.1.setCmd a.2

/-! ### PART_START (R375) -/

/-- The command's parts use the agent of the partition (R213, R215). -/
def State.usesAgent (s : State) (c : Cmd) : Bool :=
  c.pagedKeys || (!s.ringClass (s.partOf c.ctx) && c.plan.stages.any (·.typ == 0x0B))

/-- The agent is there for the maps that the command's parts ask for (R207). -/
def State.agentFree (s : State) (c : Cmd) : Bool := !s.usesAgent c || s.agentIdle (s.partOf c.ctx)

/-- The part in cluster `cl` has not reported. -/
def Cmd.openIn (c : Cmd) (cl : Nat) : Bool := c.st == .issued && c.parts.any fun p => p.cluster == cl && !p.reported

/-- A FENCE of cluster scope holds a later part back until earlier parts in the cluster have finished (R303). -/
def State.partFenced (s : State) (c : Cmd) (cl : Nat) : Bool :=
  s.fences.any fun b => decide (b.id < c.id) && b.ctx == c.ctx && (b.whole || b.q == c.q) && b.span.contains cl &&
    s.cmds.any fun e => decide (e.id < b.id) && e.ctx == b.ctx && (b.whole || b.q == e.q) && (e.st == .fetched || e.openIn cl)

/-- A program part waits behind an earlier load (R171). -/
def State.behindLoad (s : State) (c : Cmd) (cl : Nat) : Bool :=
  c.runsProgram && s.cmds.any fun l => l.loadsImage && l.openIn cl && decide (l.id < c.id)

/-- Credits of a context in use in a cluster, in units (R115). -/
def State.creditsUsed (s : State) (x cl : Nat) : Nat :=
  sumOf (s.cmds.map fun c => if c.ctx = x && c.openIn cl && c.parts.any (fun p => p.cluster == cl && p.st == .running) then c.plan.units else 0)

/-- The part of `c` in cluster `cl` is ready to start on unit `u` (R375). -/
def State.partReady (s : State) (cl u : Nat) (c : Cmd) : Bool :=
  c.openIn cl && c.parts.any (fun p => p.cluster == cl && p.st == .ready) && c.unit == u && !c.loadsImage &&
    decide (s.creditsUsed c.ctx cl + c.plan.units ≤ s.getF F.shtCtxstatShare c.ctx) && !s.partFenced c cl && !s.behindLoad c cl &&
    s.agentFree c

/-- `a` starts before `b` in cluster `cl`: class, oldest last start, context number, order of fetch (R375). -/
def State.startsBefore (s : State) (cl : Nat) (a b : Cmd) : Bool :=
  let key := fun (c : Cmd) => [b2n !(s.flag F.shtCtxstatClass c.ctx), tget (fun _ => 0) (s.cluster cl).starts c.ctx, c.ctx, c.id]
  decide (key a < key b)

/-- The ready part that the shuttle starts next. [Log 81 DESIGN CHOICE] -/
def State.nextPart (s : State) (cl u : Nat) : Option Cmd :=
  (s.cmds.filter (s.partReady cl u)).foldl (fun a c => match a with
    | none => some c
    | some b => if s.startsBefore cl c b then some c else a) none

/-- The last start of a context in a cluster is now. -/
def State.noteStart (s : State) (x cl : Nat) : State :=
  let v := s.cluster cl
  s.setCluster cl { v with starts := tset (fun _ => 0) v.starts x (v.nextStart + 1), nextStart := v.nextStart + 1 }

/-- PART_START (R375): unit `unit` of a cluster is free, and the shuttle starts the chosen ready part; the part's whole work is done in
this step, and its credits are held until it reports. [Log 11 DEDUCED; 81 DESIGN CHOICE] -/
def execPartStart (cluster unit : Nat) (s : State) : Host.Outcome State Fault Refusal :=
  .next (if !(s.running && s.clusterUp cluster) then s
    else match s.nextPart cluster unit with
    | none => s
    | some c => State.afterRun c cluster ((s.noteStart c.ctx cluster).runPart c cluster))

/-! ### MERGE_SLOT_GRANT (R111) -/

/-- The next part of tile `x` after part `p − 1` that has chunks. -/
def Cmd.nextMerge (c : Cmd) (x p : Nat) : Option Nat :=
  (upto p c.splitF).find? fun i => c.contributes (c.plan.walk.item (x * c.splitF + i))

/-- Finish a merged tile at its owner. -/
def PartRun.finishMerged (c : Cmd) (cl : Nat) (e : PartTile) (r : PartRun) : PartRun :=
  let it := c.plan.walk.item (e.tile * c.splitF)
  let rows := e.vals.map fun row => row.map (entryNum c.accInt)
  if c.opcode = 0x01 then r.finishTile PartRun.kvWrites c cl c.mm it rows e.quiet e.flds else r.cvFinish c cl c.cv it rows e.flds

/-- Merge a part tile into the owner's (R83). -/
def Cmd.mergeTiles (c : Cmd) (a b : PartTile) : PartTile × Nat :=
  let g := List.zipWith (List.zipWith fun x y => mergeEntry c.ftz c.accInt (entryNum c.accInt x) (entryNum c.accInt y)) a.vals b.vals
  ({ a with vals := g.map fun row => row.map fun v => entryCode c.accInt v.1, quiet := List.zipWith (· && ·) a.quiet b.quiet, next := b.part + 1 },
   sumOf (g.map fun row => sumOf (row.map (·.2))))

/-- The lowest waiting tile of a cluster in a command, as owner. -/
def Cmd.ownTile (c : Cmd) (cl : Nat) : Option PartTile :=
  (c.tiles.filter fun e => e.part == 0 && c.ownerOf e.tile == cl).foldl (fun a e => match a with
    | none => some e
    | some b => if e.tile < b.tile then some e else a) none

/-- A tile whose contributing part has failed. -/
def Cmd.tileDead (c : Cmd) (x : Nat) : Bool := c.tiles.any fun e => e.tile == x && e.part == deadMark

/-- The owner can act on its lowest waiting tile: it is dead, its next part has arrived, or no part is left. -/
def Cmd.grantDue (c : Cmd) (cl : Nat) : Bool :=
  c.openIn cl && match c.ownTile cl with
  | none => false
  | some e => c.tileDead e.tile || (match c.nextMerge e.tile e.next with
    | none => true
    | some p => c.tiles.any fun d => d.tile == e.tile && d.part == p)

/-- Merge one part of the owner's lowest waiting tile; the tile is finished with its last part. -/
def State.grant (s : State) (c : Cmd) (cl : Nat) (e : PartTile) : State :=
  if c.tileDead e.tile then
    let a := s.killTile c e.tile
    a.1.setCmd a.2
  else
    let d := (c.nextMerge e.tile e.next).bind fun p => c.tiles.find? fun d => d.tile == e.tile && d.part == p
    let m := match d with
      | some d => c.mergeTiles e d
      | none => (e, 0)
    let rest := c.tiles.filter fun x => x != e && some x != d
    let r := { PartRun.start s [] with fl := m.2 }
    if (c.nextMerge e.tile m.1.next).isSome then State.afterRun { c with tiles := rest ++ [m.1] } cl r
    else State.afterRun { c with tiles := rest } cl (r.finishMerged c cl m.1)

/-- MERGE_SLOT_GRANT (R111): a cluster that owns output tiles grants its merge slot to the next part of its lowest waiting tile. -/
def execMergeSlotGrant (cluster : Nat) (s : State) : Host.Outcome State Fault Refusal :=
  .next (match s.cmds.find? (·.grantDue cluster) with
    | none => s
    | some c => match c.ownTile cluster with
      | none => s
      | some e => if c.tileDead e.tile || s.agentFree c then s.grant c cluster e else s)

/-! ### PART_COMPLETE (R118, R119) -/

/-- Steps of a ring ATTN are left. -/
def Cmd.ringLeft (c : Cmd) : Bool := c.opcode == 0x03 && c.ringA && decide (c.ring + 1 < c.at_.ndev)

/-- The part in a cluster has finished: it has run, its tiles are stored or taken by their owners, its ring is through, or it has failed. -/
def Cmd.partDone (c : Cmd) (cl : Nat) : Bool :=
  match c.part? cl with
  | none => false
  | some p => !p.reported && p.st == .running &&
      (p.status != 0 || (!c.ringLeft && !(c.tiles.any fun e =>
        if e.part = 0 then c.ownerOf e.tile == cl
        else decide (e.part < deadMark) && c.clusterOf e.tile e.part == cl && ((c.part? (c.ownerOf e.tile)).map (·.status)).getD 0 == 0)))

/-- The anchor takes the report of a part: the first failure gives the command its status (R22, R118). -/
def State.reportPart (s : State) (c : Cmd) (cl : Nat) (cause : Option Nat) : State :=
  match c.part? cl with
  | none => s
  | some p =>
    let c := c.mapPart cl fun p => { p with reported := true }
    if p.status = 0 then s.setCmd c
    else
      let c := { c with bad := if c.bad.contains cl then c.bad else c.bad ++ [cl], status := if c.status = 0 then p.status else c.status,
                        addr := if c.status = 0 then p.addr else c.addr }
      let t := s.setCmd c
      if tearsDown p.status then t.faultCtx c.ctx ⟨p.status, 0x30, p.addr, 0, some c.id, cause⟩ else t

/-- PART_COMPLETE (R118): the part of the command at position `seq` of queue `q` in a cluster has written its outputs; it returns its
credits and reports. [Log 11 DEDUCED] -/
def execPartComplete (cluster q seq : Nat) (s : State) : Host.Outcome State Fault Refusal :=
  .next (match s.cmdAt? q seq with
    | none => s
    | some c => if c.st == .issued && c.partDone cluster then s.reportPart c cluster none else s)

/-! ### COMMAND_COMPLETE and COMPLETION_RECORD_WRITE (R118, R399) -/

/-- An earlier command that a SIGNAL or FENCE covers is not done: it is tracked, or its record waits for room in a ring that the scope
takes in (R301, R303). -/
def State.earlierOpen (s : State) (f : Cmd) : Bool :=
  (s.cmds.any fun c => c.coveredBy f) ||
    s.queues.any fun e => e.2.ctx == f.ctx && (f.wholeCtx || e.1 == f.q) && (e.2.cqDev || f.scope == 2) &&
      e.2.waiting.any fun r => decide (r.id < f.id)

/-- Apply the enabled entries of a SIGNAL in ascending order (R301). -/
def State.signalEntries (s : State) (c : Cmd) : State :=
  (List.range 3).foldl (fun (t : State) e =>
    let o := 40 + 8 * e
    let v := c.field (o + 4) 4
    if c.bits (o + 2) 0 1 = 0 then t else if c.bits (o + 2) 1 1 = 1 then t.setToken (c.field o 2) v else t.addToken (c.field o 2) v) s

/-- A FENCE of cluster scope is kept while an earlier command that it covers is tracked. -/
def State.pruneFences (s : State) : State :=
  { s with fences := s.fences.filter fun b => s.cmds.any fun c => decide (c.id < b.id) && c.ctx == b.ctx && (b.whole || c.q == b.q) }

/-- Posted writes of the command have no WACK yet (R306, R419). -/
def State.postsOpen (s : State) (id : Nat) : Bool :=
  s.ports.any fun e => e.2.txWr.any (·.cmd == id) || e.2.sent.any fun w => w.cmd == id && w.code.isNone

/-- The command has nothing left to wait for. -/
def State.completeDue (s : State) (c : Cmd) : Bool :=
  c.st == .issued && match opRuns c.opcode with
  | some .tiled => c.parts.all (·.reported) && !s.postsOpen c.id && !(s.commitDue c && !s.agentIdle (s.partOf c.ctx))
  | _ => if c.opcode = 0x29 || c.opcode = 0x2A then !s.earlierOpen c else c.ready

/-- What a command does as it completes, before R118: a copy that moved poison takes status 0xC8 (R510), a carry-over block becomes valid
(R231), appends are committed (R216), a SIGNAL applies its entries (R301). -/
def State.beforeComplete (s : State) (c : Cmd) : State × Cmd :=
  if [0x10, 0x11, 0x12].contains c.opcode && c.status = 0 && c.parts.any (·.poison) then (s, { c with status := 0xC8 })
  else
    let t := s.coFinish c
    let t := if s.commitDue c then t.kvCommit c else t
    (if c.opcode = 0x29 then t.signalEntries c else t, c)

/-- COMMAND_COMPLETE (R118): every part of the command at position `seq` of queue `q` has reported, or its engine has finished. -/
def execCommandComplete (q seq : Nat) (s : State) : Host.Outcome State Fault Refusal :=
  .next (match s.cmdAt? q seq with
    | none => s
    | some c =>
      if s.running && s.completeDue c then
        let a := s.beforeComplete c
        (a.1.completeCmd a.2).pruneFences
      else s)

/-- COMPLETION_RECORD_WRITE (R399): the oldest waiting record of a queue is written once its ring has room. -/
def execCompletionRecordWrite (q : Nat) (s : State) : Host.Outcome State Fault Refusal := .next (s.writeWaiting q)

/-! ### IMAGE_INSTALL (R171) -/

/-- The load that installs next in a cluster: the oldest, once every program part that was fetched before it, or that runs, has
reported. -/
def State.nextLoad (s : State) (cl : Nat) : Option Cmd :=
  match s.cmds.find? fun l => l.loadsImage && l.openIn cl && l.parts.any (fun p => p.cluster == cl && p.st == .ready) with
  | none => none
  | some l =>
    if s.cmds.any fun c => c.runsProgram && c.openIn cl && (decide (c.id < l.id) || c.parts.any fun p => p.cluster == cl && p.st == .running)
    then none else some l

/-- IMAGE_INSTALL (R171): the shuttle of a cluster installs the image of the oldest load; IMAGEID changes with its last byte. -/
def execImageInstall (cluster : Nat) (s : State) : Host.Outcome State Fault Refusal :=
  .next (if !(s.running && s.clusterUp cluster) then s
    else match s.nextLoad cluster with
    | none => s
    | some l =>
      let img := l.plan.imageBytes
      let t := (s.setCluster cluster { s.cluster cluster with image := img }).setF F.sfuStoreImageid cluster (imageId img)
      t.setCmd (l.mapPart cluster fun p => { p with st := .running }))

end Sys2Proof.Machine
end

