-- ==== Sys2Proof/Machine/Commands.lean ====
section
/-!
DEFINITION. Machine/Commands.lean: the tiled commands at issue (R96, R116): one meaning for each row, over its checks. A row acts when the
oldest command of queue `q` that has not issued is its own and may issue; otherwise nothing happens.
-/
namespace Sys2Proof.Machine

/-- A command of an opcode. [Log 18 DESIGN CHOICE] -/
def isOp (op : Nat) (c : Cmd) : Bool := c.opcode == op

/-- A VOP of a VOPC; one whose VOPC is no operation belongs to the row of VOPC 0x00 and is rejected there. [Log 18 DESIGN CHOICE] -/
def isVop (v : Nat) (c : Cmd) : Bool := c.opcode == 0x08 && (c.vopc == v || (v == 0 && !vopKnown c.vopc))

/-- An SFP of a MODE. [Log 18 DESIGN CHOICE] -/
def isSfp (load : Bool) (c : Cmd) : Bool := c.opcode == 0x09 && c.sfpLoad == load

/-- MMA (R100): an MMA issues, is checked and is handed to the shuttles of its span. -/
def execMma (q : Nat) (s : State) : Host.Outcome State Fault Refusal := .next (s.issue q isMma (mmaCheck kvCheck) State.goMma)

/-- CHAIN (R138): a CHAIN issues. -/
def execChain (q : Nat) (s : State) : Host.Outcome State Fault Refusal := .next (s.issue q isChain (chainCheck kvCheck) State.goTiled)

/-- CONV (R250): a CONV with OP 0 issues, or one whose OP is no operation is rejected. -/
def execConv (q : Nat) (s : State) : Host.Outcome State Fault Refusal := .next (s.issue q (isConv 0) (convCheck kvCheck) State.goTiled)

/-- MAXPOOL (R258): a CONV with OP 1 issues. -/
def execMaxpool (q : Nat) (s : State) : Host.Outcome State Fault Refusal := .next (s.issue q (isConv 1) (convCheck kvCheck) State.goTiled)

/-- AVGPOOL (R258): a CONV with OP 2 issues. -/
def execAvgpool (q : Nat) (s : State) : Host.Outcome State Fault Refusal := .next (s.issue q (isConv 2) (convCheck kvCheck) State.goTiled)

/-- UPNEAREST (R258): a CONV with OP 3 issues. -/
def execUpnearest (q : Nat) (s : State) : Host.Outcome State Fault Refusal := .next (s.issue q (isConv 3) (convCheck kvCheck) State.goTiled)

/-- UPLINEAR (R259): a CONV with OP 4 issues. -/
def execUplinear (q : Nat) (s : State) : Host.Outcome State Fault Refusal := .next (s.issue q (isConv 4) (convCheck kvCheck) State.goTiled)

/-- STAGE (R154): a VOP with VOPC 0x00 issues, or one whose VOPC is no operation is rejected. -/
def execStage (q : Nat) (s : State) : Host.Outcome State Fault Refusal := .next (s.issue q (isVop 0x00) (vopCheck kvCheck) State.goTiled)

/-- ADD (R151): a VOP with VOPC 0x01 issues. -/
def execAdd (q : Nat) (s : State) : Host.Outcome State Fault Refusal := .next (s.issue q (isVop 0x01) (vopCheck kvCheck) State.goTiled)

/-- SUB (R151): a VOP with VOPC 0x02 issues. -/
def execSub (q : Nat) (s : State) : Host.Outcome State Fault Refusal := .next (s.issue q (isVop 0x02) (vopCheck kvCheck) State.goTiled)

/-- MUL (R151): a VOP with VOPC 0x03 issues. -/
def execMul (q : Nat) (s : State) : Host.Outcome State Fault Refusal := .next (s.issue q (isVop 0x03) (vopCheck kvCheck) State.goTiled)

/-- FMA (R151): a VOP with VOPC 0x04 issues. -/
def execFma (q : Nat) (s : State) : Host.Outcome State Fault Refusal := .next (s.issue q (isVop 0x04) (vopCheck kvCheck) State.goTiled)

/-- MAX (R151): a VOP with VOPC 0x05 issues. -/
def execMax (q : Nat) (s : State) : Host.Outcome State Fault Refusal := .next (s.issue q (isVop 0x05) (vopCheck kvCheck) State.goTiled)

/-- MIN (R151): a VOP with VOPC 0x06 issues. -/
def execMin (q : Nat) (s : State) : Host.Outcome State Fault Refusal := .next (s.issue q (isVop 0x06) (vopCheck kvCheck) State.goTiled)

/-- ABS (R151): a VOP with VOPC 0x07 issues. -/
def execAbs (q : Nat) (s : State) : Host.Outcome State Fault Refusal := .next (s.issue q (isVop 0x07) (vopCheck kvCheck) State.goTiled)

/-- NEG (R151): a VOP with VOPC 0x08 issues. -/
def execNeg (q : Nat) (s : State) : Host.Outcome State Fault Refusal := .next (s.issue q (isVop 0x08) (vopCheck kvCheck) State.goTiled)

/-- CMP (R151): a VOP with VOPC 0x09 issues. -/
def execCmp (q : Nat) (s : State) : Host.Outcome State Fault Refusal := .next (s.issue q (isVop 0x09) (vopCheck kvCheck) State.goTiled)

/-- SELECT (R151): a VOP with VOPC 0x0A issues. -/
def execSelect (q : Nat) (s : State) : Host.Outcome State Fault Refusal := .next (s.issue q (isVop 0x0A) (vopCheck kvCheck) State.goTiled)

/-- CONVERT (R151): a VOP with VOPC 0x0B issues. -/
def execConvert (q : Nat) (s : State) : Host.Outcome State Fault Refusal := .next (s.issue q (isVop 0x0B) (vopCheck kvCheck) State.goTiled)

/-- FUNC (R160): a VOP with VOPC 0x0C issues. -/
def execFunc (q : Nat) (s : State) : Host.Outcome State Fault Refusal := .next (s.issue q (isVop 0x0C) (vopCheck kvCheck) State.goTiled)

/-- IADD (R151): a VOP with VOPC 0x10 issues. -/
def execIadd (q : Nat) (s : State) : Host.Outcome State Fault Refusal := .next (s.issue q (isVop 0x10) (vopCheck kvCheck) State.goTiled)

/-- ISUB (R151): a VOP with VOPC 0x11 issues. -/
def execIsub (q : Nat) (s : State) : Host.Outcome State Fault Refusal := .next (s.issue q (isVop 0x11) (vopCheck kvCheck) State.goTiled)

/-- IMUL (R151): a VOP with VOPC 0x12 issues. -/
def execImul (q : Nat) (s : State) : Host.Outcome State Fault Refusal := .next (s.issue q (isVop 0x12) (vopCheck kvCheck) State.goTiled)

/-- IAND (R151): a VOP with VOPC 0x13 issues. -/
def execIand (q : Nat) (s : State) : Host.Outcome State Fault Refusal := .next (s.issue q (isVop 0x13) (vopCheck kvCheck) State.goTiled)

/-- IOR (R151): a VOP with VOPC 0x14 issues. -/
def execIor (q : Nat) (s : State) : Host.Outcome State Fault Refusal := .next (s.issue q (isVop 0x14) (vopCheck kvCheck) State.goTiled)

/-- IXOR (R151): a VOP with VOPC 0x15 issues. -/
def execIxor (q : Nat) (s : State) : Host.Outcome State Fault Refusal := .next (s.issue q (isVop 0x15) (vopCheck kvCheck) State.goTiled)

/-- ISHL (R151): a VOP with VOPC 0x16 issues. -/
def execIshl (q : Nat) (s : State) : Host.Outcome State Fault Refusal := .next (s.issue q (isVop 0x16) (vopCheck kvCheck) State.goTiled)

/-- ISHR (R151): a VOP with VOPC 0x17 issues. -/
def execIshr (q : Nat) (s : State) : Host.Outcome State Fault Refusal := .next (s.issue q (isVop 0x17) (vopCheck kvCheck) State.goTiled)

/-- RSUM (R153): a VOP with VOPC 0x20 issues. -/
def execRsum (q : Nat) (s : State) : Host.Outcome State Fault Refusal := .next (s.issue q (isVop 0x20) (vopCheck kvCheck) State.goTiled)

/-- RMAX (R153): a VOP with VOPC 0x21 issues. -/
def execRmax (q : Nat) (s : State) : Host.Outcome State Fault Refusal := .next (s.issue q (isVop 0x21) (vopCheck kvCheck) State.goTiled)

/-- RMIN (R153): a VOP with VOPC 0x22 issues. -/
def execRmin (q : Nat) (s : State) : Host.Outcome State Fault Refusal := .next (s.issue q (isVop 0x22) (vopCheck kvCheck) State.goTiled)

/-- ARGMAX (R153): a VOP with VOPC 0x23 issues. -/
def execArgmax (q : Nat) (s : State) : Host.Outcome State Fault Refusal := .next (s.issue q (isVop 0x23) (vopCheck kvCheck) State.goTiled)

/-- ARGMIN (R153): a VOP with VOPC 0x24 issues. -/
def execArgmin (q : Nat) (s : State) : Host.Outcome State Fault Refusal := .next (s.issue q (isVop 0x24) (vopCheck kvCheck) State.goTiled)

/-- ISCAN (R153): a VOP with VOPC 0x25 issues. -/
def execIscan (q : Nat) (s : State) : Host.Outcome State Fault Refusal := .next (s.issue q (isVop 0x25) (vopCheck kvCheck) State.goTiled)

/-- SFP_RUN (R169): an SFP with MODE 0 issues. -/
def execSfpRun (q : Nat) (s : State) : Host.Outcome State Fault Refusal := .next (s.issue q (isSfp false) sfpRunCheck State.goTiled)

/-- SFP_LOAD (R170): an SFP with MODE 1 issues: its image is checked, and its parts wait to install it. -/
def execSfpLoad (q : Nat) (s : State) : Host.Outcome State Fault Refusal := .next (s.issue q (isSfp true) sfpLoadCheck State.goTiled)

/-- MOVE (R262): a MOVE issues. -/
def execMove (q : Nat) (s : State) : Host.Outcome State Fault Refusal := .next (s.issue q (isOp 0x10) moveCheck State.goTiled)

/-- GATHER (R266): a GATHER issues. -/
def execGather (q : Nat) (s : State) : Host.Outcome State Fault Refusal := .next (s.issue q (isOp 0x11) (xferCheck true) State.goTiled)

/-- SCATTER (R267): a SCATTER issues. -/
def execScatter (q : Nat) (s : State) : Host.Outcome State Fault Refusal := .next (s.issue q (isOp 0x12) (xferCheck false) State.goTiled)

/-- CROPRS (R261): a CROPRS issues. -/
def execCroprs (q : Nat) (s : State) : Host.Outcome State Fault Refusal := .next (s.issue q (isOp 0x13) cropCheck State.goTiled)

/-- RNGFILL (R272): an RNGFILL issues. -/
def execRngfill (q : Nat) (s : State) : Host.Outcome State Fault Refusal := .next (s.issue q (isOp 0x18) rngCheck State.goTiled)

/-- SAMPLE (R284): a SAMPLE issues. -/
def execSample (q : Nat) (s : State) : Host.Outcome State Fault Refusal := .next (s.issue q (isOp 0x19) sampleCheck State.goTiled)

end Sys2Proof.Machine
end

