-- ==== Sys2Proof/Machine/Sync.lean ====
section
/-!
DEFINITION. Machine/Sync.lean: WAIT, SIGNAL and FENCE (Chapter 12), MARK and DUMP (Chapter 22), and the token and arrival counters that
registers write.
-/
namespace Sys2Proof.Machine

/-- Bits of a byte of the operand area are 0. -/
def zeroBits (c : Cmd) (status off lo w at_ : Nat) : Bool × Rej := (c.bits off lo w == 0, rejCmd status at_)

/-! ### WAIT (R302) -/

/-- The checks of WAIT (R314): arrival counters at check 4, reserved bits at check 6. -/
def waitCheck (s : State) (c : Cmd) : Chk Plan := do
  let _ ← commonChecks s c (pure ())
  let p := s.partOf c.ctx
  ensureAll ((List.range 2).map fun i => (!c.aen i || s.ownsArrival p (c.arrival i).1, rejCmd 0x63 (32 + 2 * i)))
  ensureAll [zeroBits c 0x61 33 4 4 32, zeroBits c 0x61 35 4 4 34, zeroBits c 0x61 52 2 6 52]
  reservedFrom c 0x61 53 63
  countCheck s c 0
  return Plan.plain 0 []

/-- The oldest unissued command of a queue is a WAIT that an arrival counter with LOST = 1 ends (R310). -/
def State.lostWait (s : State) (q : Nat) : Option Cmd :=
  match s.oldest? q with
  | some c => if c.opcode == 0x28 && !c.satisfied && s.waitLost c && s.running && s.ctxActive c.ctx && !s.fenced c then some c else none
  | none => none

/-- WAIT (R302): the command issues once its waits are satisfied and completes; on a counter that lost its port it ends with status
0x62 (R310). -/
def execWait (q : Nat) (s : State) : Host.Outcome State Fault Refusal :=
  .next (match s.lostWait q with
    | some c => s.rejectCmd c (rejNone 0x62)
    | none => s.issue q (fun c => c.opcode == 0x28) waitCheck State.goNow)

/-! ### SIGNAL (R301) -/

/-- SCOPE and CTX of byte 32: reserved bits and values at check 6 (R314). -/
def scopeFields (c : Cmd) : Chk Unit := ensure (c.bits 32 3 5 == 0 && c.scope != 3) (rejCmd 0x61 32)

/-- The checks of SIGNAL (R314). -/
def signalCheck (s : State) (c : Cmd) : Chk Plan := do
  let _ ← commonChecks s c (pure ())
  let p := s.partOf c.ctx
  ensureAll ((List.range 3).map fun e => (c.bits (42 + 8 * e) 0 1 == 0 || s.ownsToken p (c.field (40 + 8 * e) 2), rejCmd 0x08 (40 + 8 * e)))
  scopeFields c
  reservedFrom c 0x61 33 39
  ensureAll ((List.range 3).flatMap fun e => [zeroBits c 0x61 (42 + 8 * e) 2 6 (42 + 8 * e), zeroBits c 0x61 (43 + 8 * e) 0 8 (43 + 8 * e)])
  countCheck s c 0
  return Plan.plain 0 []

/-- A SIGNAL has passed its checks: under SCOPE 0 it applies its entries and completes, else it waits for the earlier commands. -/
def State.goSignal (s : State) (c : Cmd) : State :=
  if c.scope = 0 then (s.signalEntries c).goAnchorNow c else s.goAnchor c

/-- SIGNAL (R301). -/
def execSignal (q : Nat) (s : State) : Host.Outcome State Fault Refusal :=
  .next (s.issue q (fun c => c.opcode == 0x29) signalCheck State.goSignal)

/-! ### FENCE (R303) -/

/-- The checks of FENCE (R314). -/
def fenceCheck (s : State) (c : Cmd) : Chk Plan := do
  let _ ← commonChecks s c (pure ())
  scopeFields c
  reservedFrom c 0x61 33 63
  countCheck s c 0
  return Plan.plain 0 []

/-- A FENCE has passed its checks: at cluster scope it completes and leaves a bar in its span; else it holds later commands back until it
completes. -/
def State.goFence (s : State) (c : Cmd) : State :=
  let c := { c with span := s.issueSpan c }
  if c.scope = 0 then
    let t : State := { s with fences := s.fences ++ [FenceBar.mk c.id c.q c.ctx c.wholeCtx c.span] }
    (((t.setCmd c).traceStart c).completeCmd c).pruneFences
  else ((s.setCmd c).latchWaits).traceStart c

/-- FENCE (R303). -/
def execFence (q : Nat) (s : State) : Host.Outcome State Fault Refusal :=
  .next (s.issue q (fun c => c.opcode == 0x2A) fenceCheck State.goFence)

/-! ### MARK (R535) and DUMP (R536) -/

/-- The checks of MARK. -/
def markCheck (s : State) (c : Cmd) : Chk Plan := do
  let _ ← commonChecks s c (pure ())
  reservedFrom c 0xDA 38 63
  countCheck s c 0
  return Plan.plain 0 []

/-- A MARK has passed its checks: one MARK event (R533), then it completes. -/
def State.goMark (s : State) (c : Cmd) : State :=
  (s.trace c 3 0 (leBytes 4 (c.field 32 4) ++ leBytes 2 (c.field 36 2))).goAnchorNow c

/-- MARK (R535). -/
def execMark (q : Nat) (s : State) : Host.Outcome State Fault Refusal :=
  .next (s.issue q (fun c => c.opcode == 0x2B) markCheck State.goMark)

/-- COUNT of a DUMP. -/
def Cmd.dumpCount (c : Cmd) : Nat := c.field 46 1

/-- The checks of DUMP (R536). -/
def dumpCheck (s : State) (c : Cmd) : Chk Plan := do
  let _ ← commonChecks s c (pure ())
  ensure (c.bits 47 1 7 == 0) (rejCmd 0xD8 47)
  ensure (c.field 48 8 % 4096 == 0) (rejCmd 0xD8 48)
  ensure (c.field 56 4 != 0 && c.field 56 4 % 4096 == 0) (rejCmd 0xD8 56)
  reservedFrom c 0xD8 60 63
  ensure (c.dumpCount == 0 || (s.ctx c.ctx).dumps.any (·.isNone)) (rejNone 0xD9)
  countCheck s c 0
  return Plan.plain 0 []

/-- A DUMP has passed its checks: COUNT = 0 frees every slot of the context, else the lowest free slot is armed. -/
def State.goDump (s : State) (c : Cmd) : State :=
  let v := s.ctx c.ctx
  let ds := if c.dumpCount = 0 then v.dumps.map fun _ => none
    else v.dumps.set (v.dumps.findIdx (·.isNone)) (some ⟨c.id, c.bytes.drop 32, 0⟩)
  (s.setCtx c.ctx { v with dumps := ds }).goAnchorNow c

/-- DUMP (R536). [Log 55 DEDUCED] -/
def execDump (q : Nat) (s : State) : Host.Outcome State Fault Refusal :=
  .next (s.issue q (fun c => c.opcode == 0x2C) dumpCheck State.goDump)

/-! ### Counters (R298, R299, R309) -/

/-- SHT_TOK (R298): an access sets counter `n`, counted as the accessor counts it. -/
def execShtTok (acr : Acr) (n v : Nat) (s : State) : Host.Outcome State Fault Refusal :=
  .next (match s.unitOf acr F.shtTokallocTokfirst F.shtTokallocTokcount 65536 n with
    | some t => s.setToken t (lo32 v)
    | none => s.refuseAcc acr)

/-- SHT_TOKADD (R299): an access adds to counter `n`. -/
def execShtTokadd (acr : Acr) (n v : Nat) (s : State) : Host.Outcome State Fault Refusal :=
  .next (match s.unitOf acr F.shtTokallocTokfirst F.shtTokallocTokcount 65536 n with
    | some t => s.addToken t (lo32 v)
    | none => s.refuseAcc acr)

/-- ZLK_ARR (R309): an access sets arrival counter `n`. -/
def execZlkArr (acr : Acr) (n v : Nat) (s : State) : Host.Outcome State Fault Refusal :=
  .next (match s.unitOf acr F.zlkArrallocArrfirst F.zlkArrallocArrcount 4096 n with
    | some a => (s.setF F.zlkArrCount a (lo64 v)).latchWaits
    | none => s.refuseAcc acr)

end Sys2Proof.Machine
end

