-- ==== Sys2Proof/Machine/Contexts.lean ====
section
/-!
DEFINITION. Machine/Contexts.lean: the life of contexts (Chapter 15): creation, faults and their teardown, watchdogs, resets and destroys,
and disabling of queues.
-/
namespace Sys2Proof.Machine

/-! ### Ending commands -/

/-- Set port `p` beside its registers. -/
def State.setPort (s : State) (p : Nat) (v : Port) : State := { s with ports := tset (fun _ => Port.fresh) s.ports p v }

/-- Port `p` beside its registers. -/
def State.port (s : State) (p : Nat) : Port := tget (fun _ => Port.fresh) s.ports p

/-- Harbour engines stop the operations of these commands: reads of flash regions, and writes of sends that have not been placed (R383
step 3). Key/value agent operations go on (R208). -/
def State.stopEngines (s : State) (ids : List Nat) : State :=
  let mine := fun (j : FlJob) => match j.who with
    | .read id => ids.contains id
    | .fetch _ => false
  let gone := (s.flash.jobs.filter mine).map (·.region)
  let t := s.setFlash { s.flash with jobs := s.flash.jobs.filter fun j => !mine j }
  let t := gone.foldl State.releaseHeld t
  (List.range 12).foldl (fun t p => t.setPort p { t.port p with txWr := (t.port p).txWr.filter fun w => !ids.contains w.cmd }) t

/-- A command ends with a status, unless it already has its own: END event and record (R120, R534). -/
def State.endAs (s : State) (c : Cmd) (status : Nat) : State :=
  let c := if c.status = 0 then { c with status := status } else c
  (s.traceEnd c).finishCmd c

/-- Every tracked command of context `x` ends with status 0x0F unless it has its own (R120). -/
def State.abortCtx (s : State) (x : Nat) : State :=
  let cs := s.cmds.filter (·.ctx == x)
  let t := cs.foldl (fun t c => t.endAs c 0x0F) s
  (t.stopEngines (cs.map (·.id))).pruneFences

/-! ### Resets and destroys (R373, R401) -/

/-- An operation of function `fn` ends: status, BUSY and the EVT cause (Tables 15-9, 16-10). -/
def State.ctxOpEnd (s : State) (fn status : Nat) : State :=
  (((s.setF F.shtCtxcmdstatStatus fn status).setF F.shtCtxcmdstatBusy fn 0).raiseEvt fn F.pciEvtcauseEvt)

/-- The queues bound to a context. -/
def State.boundTo (s : State) (x : Nat) : List Nat := (s.queues.filter fun e => e.2.ctx == x && s.getF F.pciQstatState e.1 != 0).map (·.1)

/-- A reset starts: RESETTING, the tails are sampled, commands end with 0x0F (R373, R401). -/
def State.startReset (s : State) (x : Nat) (r : CtxReset) : State :=
  let s := s.setF F.shtCtxstatState x 3
  let r := { r with waits := false, tails := (s.boundTo x).map fun q => (q, (s.queue q).sqTail) }
  (s.setCtx x { s.ctx x with reset := some r }).abortCtx x

/-- A teardown of context `x` is in progress: it is due, or the records of its step 4 still wait for room (R383, R399). -/
def State.tearing (s : State) (x : Nat) : Bool :=
  (s.ctx x).fault.isSome || (s.getF F.shtCtxstatState x == 2 && s.queues.any fun e => e.2.ctx == x && !e.2.waiting.isEmpty)

/-- Request a reset: it waits for a teardown in progress (R385). -/
def State.askReset (s : State) (x : Nat) (r : CtxReset) : State :=
  if s.tearing x then s.setCtx x { s.ctx x with reset := some { r with waits := true } } else s.startReset x r

/-- The per-context registers take their reset values (Table 19-14). -/
def State.resetCtxRegs (s : State) (x : Nat) : State :=
  s.clearRegs fun r i => if r = R.shtCreg.idx then i / 16 == x
    else [R.shtNumctl.idx, R.shtWdog.idx, R.sfuMode.idx, R.rngLseed.idx, R.rngLsalt.idx].contains r && i == x

/-- A queue skips to a tail (R401). -/
def State.skipTo (s : State) (q tail : Nat) : State :=
  let h := s.getF F.pciQstatSqhead q
  (s.setF F.pciQstatSqhead q tail).bump F.pciQstatSkipped q ((tail + 0x100000000 - h) % 0x100000000)

/-- The agent of partition `p` still has an operation of a command that is no longer tracked (R208). -/
def State.orphans (s : State) (p : Nat) : Bool :=
  let a := s.agent p
  let gone := fun (g : AgReq) => (s.cmd? g.cmd).isNone
  a.queue.any gone || match a.busy with
    | some (.evict g _ _) | some (.fetch g _) => gone g
    | none => false

/-- A reset ends: ACTIVE or FREE (R373, R401, Table 19-14). -/
def State.finishReset (s : State) (x : Nat) (r : CtxReset) : State :=
  let s := (s.resetCtxRegs x).setF F.shtCtxstatFstatus x 0
  let s := r.tails.foldl (fun t e => if t.getF F.pciQstatState e.1 == 1 && (t.queue e.1).ctx == x then t.skipTo e.1 e.2 else t) s
  let s := if r.destroy then (s.setF F.shtCtxstatState x 0).setCtx x Context.free
    else (s.setF F.shtCtxstatState x 1).setCtx x { Context.free with reaches := (s.ctx x).reaches }
  match r.by_ with
  | some fn => s.ctxOpEnd fn 0
  | none => s

/-- A reset or destroy that waited for a teardown (R385), or for issued commands after a function-level reset (R384), starts. -/
def State.beginWaiting (s : State) (x : Nat) : State :=
  match (s.ctx x).reset with
  | some r => if r.waits && !s.tearing x && !(s.cmds.any fun c => c.ctx == x && c.st == .issued) then s.startReset x r else s
  | none => s

/-- CONTEXT_RESET_END (R401): the parts of the context have stopped and its agent operations are done. [Log 45 DEDUCED] -/
def execContextResetEnd (ctx : Nat) (s : State) : Host.Outcome State Fault Refusal :=
  .next (
    let s := s.beginWaiting ctx
    match (s.ctx ctx).reset with
    | some r => if r.waits || s.getF F.shtCtxstatState ctx != 3 || s.orphans (s.partOf ctx) then s else s.finishReset ctx r
    | none => s)

/-! ### Teardown (R383) -/

/-- Close handling `r`, unless a context's teardown still belongs to it (R507). [Log 44 DEDUCED] -/
def State.settle (s : State) (r : Nat) : State :=
  if s.ctxs.any fun e => (e.2.fault.map (·.cause)).getD none == some r then s else { s with handling := s.handling.filter (· != r) }

/-- Tear context `x` down: FAULTED, records of its commands, the error record of the fault, the owner's interrupt; a reset that waited
starts. -/
def State.teardown (s : State) (x : Nat) (f : CtxFault) : State :=
  let v := s.ctx x
  let s := (s.setF F.shtCtxstatState x 2).setF F.shtCtxstatFstatus x f.status
  let s := if f.cls = 0x30 then s.cmdFault x f v.faultOp v.faultTag else s
  let s := s.abortCtx x
  let s := s.setCtx x { s.ctx x with fault := none, faultOp := none, faultTag := 0 }
  let s := match f.cause with
    | some r => s.settle r
    | none => s
  let s := s.raiseEvt (s.getF F.shtCtxstatOwner x) F.pciEvtcauseEvt
  match v.reset with
  | some r => if r.by_.isSome && !s.tearing x then s.startReset x r else s
  | none => s

/-- The command that failed has ended: it is not tracked as issued any more (R119: its other parts run to completion first). -/
def State.faultSettled (s : State) (f : CtxFault) : Bool :=
  match f.cmd.bind s.cmd? with
  | some c => c.st != .issued
  | none => true

/-- CONTEXT_TEARDOWN (R383): the context's first fault is handled. [Log 44 DEDUCED] -/
def execContextTeardown (ctx : Nat) (s : State) : Host.Outcome State Fault Refusal :=
  .next (match (s.ctx ctx).fault with
    | some f => if s.running && s.faultSettled f then s.teardown ctx f else s
    | none => s)

/-! ### Watchdogs (R312) -/

/-- The waits of a running ring ATTN for its next step: counter and target (R194). -/
def Cmd.ringWaits (c : Cmd) : List (Nat × Nat) :=
  let g := c.at_
  let k := c.ring + 1
  if !c.ringLeft then []
  else (g.r (if (k - 1) % 2 = 0 then 6 else 8) 2, (k + 1) / 2 * g.r 16 6) ::
    (if k < g.ndev - 1 then [(g.r 10 2, (k - 1) * 64)] else [])

/-- The open watched waits of a command: whether an arrival counter, number, target, value (R312). -/
def State.openWaits (s : State) (c : Cmd) : List (Bool × Nat × Nat × Nat) :=
  let arr := fun (w : Nat × Nat) => (true, w.1, w.2, s.getF F.zlkArrCount w.1)
  if c.st == .fetched then
    (List.range 2).filterMap (fun i => if c.waits.getD i true then none else some (false, c.wtok i, c.wval i, s.getF F.shtTokValue (c.wtok i))) ++
    (List.range 2).filterMap (fun i => if c.waits.getD (2 + i) true then none else some (arr (c.arrival i)))
  else if c.opcode == 0x03 && c.ringA && c.st == .issued then (c.ringWaits.filter fun w => !s.arrivalSat w.1 w.2).map arr
  else []

/-- Every part of a command fails with one status, and the bits of PARTS are set for its whole span (R197). -/
def State.failAll (s : State) (c : Cmd) (status : Nat) : State :=
  let a := (c.parts.filter fun p => p.status == 0).foldl (fun (a : State × Cmd) p => a.1.failPart a.2 p.cluster status 0) (s, c)
  a.1.setCmd { a.2 with parts := a.2.parts.map fun p => { p with reported := true }, bad := a.2.span,
                        status := if a.2.status = 0 then status else a.2.status }

/-- The waiting command completes with a status, and its context faults with record class `cls` already written. -/
def State.endWaiting (s : State) (c : Cmd) (status cls : Nat) : State :=
  let t := if c.st == .fetched then s.setCmd { c with st := .ended, status := status } else s.failAll c status
  t.faultCtx c.ctx ⟨status, cls, 0, 0, some c.id, none⟩

/-- One check of a command's open wait. -/
def State.watch (s : State) (c : Cmd) : State :=
  match c.openAt, s.openWaits c with
  | some t, w :: _ =>
    if s.ctxActive c.ctx && decide (t + s.getF F.shtWdogLimit c.ctx * 1000000 ≤ s.now) then
      let r := s.record { cls := 0x31, sev := 1, kind := 0, unit := w.2.1, sub := b2n w.1, op := some (c.bytes, s.partOf c.ctx, c.ctx),
                          addr := w.2.2.1, syn := w.2.2.2, status := 0x60 }
      r.endWaiting c 0x60 0x31
    else s
  | _, _ => s

/-- WATCHDOG_CHECK (R312): the device checks every open watched wait. [Log 3 DESIGN CHOICE] -/
def execWatchdogCheck (s : State) : Host.Outcome State Fault Refusal :=
  .next (if s.running then s.cmds.foldl State.watch s else s)

/-! ### SHT_CTXCMD (R370 to R373) -/

/-- OP of a command register write in bits [63:60]. [Log 19 DESIGN CHOICE] -/
def opOf (v : Nat) : Nat := bits v 60 4

/-- An operation is refused at its checks, or ends at once. -/
def State.ctxOp (s : State) (fn x status : Nat) : State := (s.setF F.shtCtxcmdstatCtx fn x).ctxOpEnd fn status

/-- A byte of the descriptor window of function `fn` (R580). -/
def State.ctxDesc (s : State) (fn off n : Nat) : Nat :=
  leNat (((List.range 12).flatMap fun i => leBytes 8 (s.getF F.shtCtxdescBytes (fn * 12 + i))).drop off |>.take n)

/-- An amendment that affects the partition is pending or applying (R470). -/
def State.amending (s : State) (p : Nat) : Bool :=
  let st := s.getF F.chtAmdst2State 0
  (st == 1 || st == 2) && bit (s.getF F.chtAmdst2Affected 0) p

/-- The shares that contexts hold in the clusters of a reach (Table 15-6). -/
def State.sharesIn (s : State) (r : Nat) : Nat :=
  sumOf (s.ctxs.map fun e => if s.getF F.shtCtxstatState e.1 != 0 && e.2.reaches.contains r then s.getF F.shtCtxstatShare e.1 else 0)

/-- The status of a creation (Table 15-6). -/
def State.createStatus (s : State) (fn v : Nat) : Nat :=
  let d := s.ctxDesc fn
  let x := bits (d 0 2) 0 10
  let p := bits (d 2 1) 4 4
  let share := bits (d 4 2) 0 9
  let n := d 6 1
  let rs := (List.range n).map fun i => d (16 + i) 1
  let mine := if fn = 0 then p else s.fnPart fn
  if s.amending mine then 0x8D
  else if opOf v != 1 || bits v 22 38 != 0 || d 0 2 / 1024 != 0 || bits (d 2 1) 1 3 != 0 || d 3 1 != 0 || d 4 2 / 512 != 0 || d 7 9 != 0 ||
      (List.range 80).any (fun i => decide (n ≤ i) && d (16 + i) 1 != 0) || share < 32 || 320 < share || n < 1 || 80 < n || mine != p then 0x88
  else if !inRange (s.getF F.chtPartCtxfirst p) (s.getF F.chtPartCtxcount p) x || rs.any (fun r => !s.hasReach p r) || rs.eraseDups.length != n then 0x89
  else if s.getF F.shtCtxstatState x != 0 then 0x8A
  else if rs.any fun r => (List.range 10).any (fun i => !s.isRetired (10 * r + i)) && decide (320 < share + s.sharesIn r) then 0x8B
  else 0

/-- The context that a passed creation makes (R372). -/
def State.create (s : State) (fn : Nat) : State :=
  let d := s.ctxDesc fn
  let x := bits (d 0 2) 0 10
  let s := s.resetCtxRegs x
  let s := ((s.setF F.shtCtxstatState x 1).setF F.shtCtxstatClass x (bits (d 2 1) 0 1)).setF F.shtCtxstatPart x (bits (d 2 1) 4 4)
  let s := ((s.setF F.shtCtxstatShare x (bits (d 4 2) 0 9)).setF F.shtCtxstatFstatus x 0).setF F.shtCtxstatOwner x fn
  s.setCtx x { Context.free with reaches := (List.range (d 6 1)).map fun i => d (16 + i) 1 }

/-- A write of SHT_CTXCMD by an accessor; refused while an operation of the function runs (Table 15-9). -/
def State.ctxCmd (s : State) (acr : Acr) (set : Nat) (k : Nat → State) : State :=
  let fn := fnSet acr set
  if 64 ≤ fn then s.refuseAcc acr
  else if s.flag F.shtCtxcmdstatBusy fn then s.setF F.shtCtxcmdstatStatus fn 0x8D
  else k fn

/-- CONTEXT_CREATE (R372): an access writes `v` to SHT_CTXCMD of a function; values of OP that name no operation are refused here too.
[Log 19 DESIGN CHOICE; 45 DEDUCED] -/
def execContextCreate (acr : Acr) (set v : Nat) (s : State) : Host.Outcome State Fault Refusal :=
  .next (if [2, 3, 4].contains (opOf v) then s
    else s.ctxCmd acr set fun fn =>
      let st := if opOf v != 1 then 0x88 else s.createStatus fn v
      let x := if opOf v != 1 then 0 else bits (s.ctxDesc fn 0 2) 0 10
      (if st = 0 then s.create fn else s).ctxOp fn x st)

/-- Context `x` is in the range of function `fn`'s partition; the physical function may act on any (R370). -/
def State.ctxInRange (s : State) (fn x : Nat) : Bool :=
  fn == 0 || (s.fnPart fn < 16 && inRange (s.getF F.chtPartCtxfirst (s.fnPart fn)) (s.getF F.chtPartCtxcount (s.fnPart fn)) x)

/-- The status of a reset or destroy (R370, R373). -/
def State.resetStatus (s : State) (fn v : Nat) : Nat :=
  let x := bits v 12 10
  let st := s.getF F.shtCtxstatState x
  if bits v 22 38 != 0 then 0x88
  else if !s.ctxInRange fn x || (st != 0 && fn != 0 && s.getF F.shtCtxstatOwner x != fn) then 0x89
  else if st = 0 || st = 3 || (s.ctx x).reset.isSome then 0x8A
  else if opOf v = 2 && !(s.boundTo x).isEmpty then 0x8C
  else 0

/-- A reset or destroy, by OP. -/
def State.resetCmd (s : State) (acr : Acr) (set v op : Nat) : State :=
  if opOf v != op then s
  else s.ctxCmd acr set fun fn =>
    let x := bits v 12 10
    let st := s.resetStatus fn v
    if st != 0 then s.ctxOp fn x st
    else ((s.setF F.shtCtxcmdstatCtx fn x).setF F.shtCtxcmdstatBusy fn 1).askReset x ⟨some fn, op == 2, false, []⟩

/-- CONTEXT_DESTROY (R373). -/
def execContextDestroy (acr : Acr) (set v : Nat) (s : State) : Host.Outcome State Fault Refusal := .next (s.resetCmd acr set v 2)

/-- CONTEXT_RESET (R373). -/
def execContextReset (acr : Acr) (set v : Nat) (s : State) : Host.Outcome State Fault Refusal := .next (s.resetCmd acr set v 3)

/-! ### Disabling a queue (R121, R384) -/

/-- The bytes of command `n` of a queue: from its ring in device memory, or the `i`-th of those that a host ring delivers. -/
def State.ringCommand (s : State) (q n i : Nat) (host : List (List Byte)) : List Byte :=
  let u := s.queue q
  if u.sqDev then s.bytesAt (u.sqBase + 64 * (n % 2 ^ u.sqLog2)) 64 else ((host.getD i []) ++ leBytes 64 0).take 64

/-- A command as the anchor tracks it from its fetch on. -/
def newCmd (id q ctx seq : Nat) (bytes : List Byte) (span : List Nat) : Cmd :=
  { id := id, q := q, ctx := ctx, seq := seq, bytes := bytes, span := span, st := .fetched, waits := [false, false, false, false], openAt := none,
    ftz := false, compat := false, lseed := 0, lsalt := 0, plan := Plan.none, parts := [], tiles := [], status := 0, dslot := 0, dfield := 0,
    addr := 0, flush := false, poisoned := false, bad := [], armed := [], ring := 0, ready := false }

/-- The entries of a ring from SQHEAD to SQTAIL complete with status 0x0E, in ring order (R121). -/
def State.endRing (s : State) (q : Nat) (host : List (List Byte)) : State :=
  let u := s.queue q
  let h := s.getF F.pciQstatSqhead q
  let n := (u.sqTail + 0x100000000 - h) % 0x100000000
  let t := (List.range n).foldl (fun (t : State) i =>
    let seq := lo32 (h + i)
    let b := t.ringCommand q seq i host
    let t := if u.sqDev then t.readWords (wordsOf (u.sqBase + 64 * (seq % 2 ^ u.sqLog2)) 64) else t
    let c := newCmd t.nextCmd q u.ctx seq b []
    { t with nextCmd := t.nextCmd + 1 }.endAs c 0x0E) s
  t.setF F.pciQstatSqhead q u.sqTail

/-- A queue is disabled: commands that have not issued complete with 0x0E, those in the windows first (R121); entries that a reset under
way will skip are skipped first (Table 15-16a). -/
def State.disableQueue (s : State) (q : Nat) (host : List (List Byte)) : State :=
  let x := (s.queue q).ctx
  let s := s.setF F.pciQstatState q 2
  let s : State := match (s.ctx x).reset with
    | some r =>
      match r.tails.find? fun (e : Nat × Nat) => e.1 == q with
      | some e => (s.skipTo q e.2).setCtx x { s.ctx x with reset := some { r with tails := r.tails.filter fun (e : Nat × Nat) => e.1 != q } }
      | none => s
    | none => s
  let s := (s.cmds.filter fun c => c.q == q && c.st == .fetched).foldl (fun t c => t.endAs c 0x0E) s
  (s.endRing q host).pruneFences

/-- QUEUE_DISABLE (R121, R384): SHT_CTXCMD with OP 4; `host` are the commands that wait in a ring in host memory. [Log 46 DESIGN CHOICE] -/
def execQueueDisable (acr : Acr) (set v : Nat) (host : List (List Byte)) (s : State) : Host.Outcome State Fault Refusal :=
  .next (if opOf v != 4 then s
    else s.ctxCmd acr set fun fn =>
      let q := bits v 0 12
      let x := (s.queue q).ctx
      let st := s.getF F.pciQstatState q
      if bits v 22 38 != 0 then s.ctxOp fn x 0x88
      else if st != 0 && fn != 0 && s.getF F.shtCtxstatOwner x != fn then s.ctxOp fn x 0x89
      else if st != 1 then s.ctxOp fn x 0x8A
      else (s.disableQueue q host).ctxOp fn x 0)

end Sys2Proof.Machine
end

