-- ==== Sys2Proof/Machine/Hostif.lean ====
section
/-!
DEFINITION. Machine/Hostif.lean: the host interface (Chapter 16): fetching commands, creating and destroying queues, doorbells, interrupt
moderation, the aperture, and PCIe lane failures.
-/
namespace Sys2Proof.Machine

/-! ### Fetching (R95, R398, R400) -/

/-- The next command of a queue may be fetched: the queue is ENABLED, its context ACTIVE, the ring not empty, fewer than 16 commands of the
context are tracked (R95, R398). -/
def State.mayFetch (s : State) (q : Nat) : Bool :=
  let u := s.queue q
  s.running && s.getF F.pciQstatState q == 1 && s.ctxActive u.ctx && (s.anchor u.ctx).isSome && u.sqTail != s.getF F.pciQstatSqhead q &&
    decide (s.tracked u.ctx < 16)

/-- The next command of a queue cannot be read: its record and error record are written and its context faults (R400). -/
def State.fetchFail (s : State) (q : Nat) : State :=
  let u := s.queue q
  let h := s.getF F.pciQstatSqhead q
  let s := (s.setF F.pciQstatSqhead q (h + 1)).oweRecord q s.nextCmd
    (recordOf 0x95 false (s.flag F.shtNumctlFlushed u.ctx) false q 0 0 0 0 0 0 0 h [])
  let s := { s with nextCmd := s.nextCmd + 1 }
  let s := s.record { cls := 0x22, sev := 1, kind := 5, unit := s.getF F.pciQstatOwner q, addr := u.sqBase + 64 * (h % 2 ^ u.sqLog2), status := 0x95 }
  s.faultCtx u.ctx ⟨0x95, 0x22, 0, 0, none, none⟩

/-- COMMAND_FETCH (R95, R374): the anchor fetches the next command of queue `q`; `bytes` is what a ring in host memory delivers. A ring
word in device memory that is poison is a command that cannot be read (R400). [Log 48 DEDUCED; 49 DESIGN CHOICE] -/
def execCommandFetch (q : Nat) (bytes : List Byte) (s : State) : Host.Outcome State Fault Refusal :=
  .next (if !s.mayFetch q then s
    else
      let u := s.queue q
      let h := s.getF F.pciQstatSqhead q
      let a := u.sqBase + 64 * (h % 2 ^ u.sqLog2)
      let b := s.ringCommand q h 0 [bytes]
      let c0 := newCmd s.nextCmd q u.ctx h b []
      let hs := s.holders u.ctx c0
      if !hs.all (s.windowFree u.ctx) then s
      else
        let t := if u.sqDev then s.readWords (wordsOf a 64) else s
        if u.sqDev && s.anyPoison (wordsOf a 64) then t.fetchFail q
        else
          let t := t.setF F.pciQstatSqhead q (h + 1)
          let t : State := { t with cmds := t.cmds ++ [{ c0 with span := hs }], nextCmd := t.nextCmd + 1 }
          t.latchWaits)

/-- QFETCH_FAILURE (R400): the read of the next command of queue `q` from host memory ends with an error, times out, or brings poison. [Log 48 DEDUCED] -/
def execQfetchFailure (q : Nat) (s : State) : Host.Outcome State Fault Refusal :=
  .next (if s.mayFetch q && !(s.queue q).sqDev then s.fetchFail q else s)

/-! ### Queue operations (R394 to R396) -/

/-- A queue operation of function `fn` ends. -/
def State.qOp (s : State) (fn q status : Nat) : State :=
  ((s.setF F.pciQcmdstatStatus fn status).setF F.pciQcmdstatQueue fn q).raiseEvt fn F.pciEvtcauseEvt

/-- The queue descriptor window of function `fn` (R581). -/
def State.qDesc (s : State) (fn : Nat) : List Byte := (List.range 8).flatMap fun i => leBytes 8 (s.getF F.pciQdescBytes (fn * 8 + i))

/-- The queue that a descriptor asks for (Table 16-3). -/
def queueOf (d : List Byte) : Queue :=
  let g := fieldAt d
  { Queue.free with ctx := bits (g 0 2) 0 10, sqLog2 := bits (g 2 1) 0 5, cqLog2 := bits (g 3 1) 0 5, cqDev := bit (g 4 1) 1, sqDev := bit (g 4 1) 0,
                    sqBase := g 8 8, cqBase := g 16 8, ien := bit (g 24 2) 15, vector := bits (g 24 2) 0 11, modCnt := g 26 2, modTime := g 28 2 }

/-- The descriptor's reserved fields are 0 (R395). -/
def queueReserved (d : List Byte) : Bool :=
  let g := fieldAt d
  g 0 2 / 1024 == 0 && g 2 1 / 32 == 0 && g 3 1 / 32 == 0 && g 4 1 / 4 == 0 && g 5 3 == 0 && bits (g 24 2) 11 4 == 0 && g 30 34 == 0

/-- A free queue, the lowest. -/
def State.freeQueue (s : State) : Option Nat := (List.range 4096).find? fun q => s.getF F.pciQstatState q == 0

/-- Queues that a function holds. -/
def State.queuesHeld (s : State) (fn : Nat) : Nat :=
  ((List.range 4096).filter fun q => s.getF F.pciQstatState q != 0 && s.getF F.pciQstatOwner q == fn).length

/-- The status of a creation (Table 16-4). -/
def State.qCreateStatus (s : State) (fn v : Nat) : Nat :=
  let d := s.qDesc fn
  let u := queueOf d
  let lg := fun (n : Nat) => decide (4 ≤ n) && decide (n ≤ 16)
  let ring := fun (dev : Bool) (a n : Nat) => !dev || s.owned (s.partOf u.ctx) a n
  if opOf v != 1 || bits v 12 48 != 0 || !queueReserved d || !lg u.sqLog2 || !lg u.cqLog2 || u.sqBase % 4096 != 0 || u.cqBase % 4096 != 0 ||
      decide (s.getF F.chtFuncMsixsize fn ≤ u.vector) then 0x90
  else if !(s.getF F.shtCtxstatState u.ctx == 1 && (fn == 0 || s.getF F.shtCtxstatOwner u.ctx == fn)) then 0x92
  else if !ring u.sqDev u.sqBase (64 * 2 ^ u.sqLog2) || !ring u.cqDev u.cqBase (128 * 2 ^ u.cqLog2) then 0x91
  else if s.freeQueue.isNone || decide (s.getF F.pciQcmdstatQlimit fn ≤ s.queuesHeld fn) then 0x94
  else 0

/-- A queue becomes ENABLED with its PCI_QSTAT at reset (Table 16-7). -/
def State.makeQueue (s : State) (fn q : Nat) : State :=
  let t := s.setQueue q (queueOf (s.qDesc fn))
  let t := [F.pciQstatCqtail, F.pciQstatSqhead, F.pciQstatSkipped, F.pciQstatQerr].foldl (fun (t : State) f => t.setF f q 0) t
  (t.setF F.pciQstatState q 1).setF F.pciQstatOwner q fn

/-- A write of PCI_QCMD by an accessor; refused while an operation of the function runs (Table 16-4). -/
def State.qCmd (s : State) (acr : Acr) (set : Nat) (k : Nat → State) : State :=
  let fn := fnSet acr set
  if 64 ≤ fn then s.refuseAcc acr
  else if s.flag F.pciQcmdstatBusy fn then s.setF F.pciQcmdstatStatus fn 0x93
  else k fn

/-- QUEUE_CREATE (R396): an access writes `v` to PCI_QCMD of a function; values of OP that name no operation are refused here too.
[Log 19 DESIGN CHOICE; 47 DEDUCED] -/
def execQueueCreate (acr : Acr) (set v : Nat) (s : State) : Host.Outcome State Fault Refusal :=
  .next (if opOf v = 2 then s
    else s.qCmd acr set fun fn =>
      let st := s.qCreateStatus fn v
      let q := s.freeQueue.getD 0
      if st = 0 then (s.makeQueue fn q).qOp fn q 0 else s.qOp fn (s.getF F.pciQcmdstatQueue fn) st)

/-- QUEUE_DESTROY (R396). [Log 47 DEDUCED] -/
def execQueueDestroy (acr : Acr) (set v : Nat) (s : State) : Host.Outcome State Fault Refusal :=
  .next (if opOf v != 2 then s
    else s.qCmd acr set fun fn =>
      let q := bits v 0 12
      if bits v 12 48 != 0 then s.qOp fn q 0x90
      else if fn != 0 && s.getF F.pciQstatOwner q != fn then s.qOp fn q 0x92
      else if s.getF F.pciQstatState q != 2 || !(s.queue q).waiting.isEmpty || s.cmds.any (·.q == q) then s.qOp fn q 0x91
      else ((s.setF F.pciQstatState q 0).setQueue q Queue.free).qOp fn q 0)

/-! ### Doorbells (R397 to R399) -/

/-- A discarded doorbell sets QERR of the queue, and the QERR cause of the function that owns it (Tables 16-7, 16-10). -/
def State.qErr (s : State) (q : Nat) : State :=
  let t := s.setF F.pciQstatQerr q 1
  if s.getF F.pciQstatState q = 0 then t else t.raiseEvt (s.getF F.pciQstatOwner q) F.pciEvtcauseQerr

/-- Function `fn` owns queue `q`. -/
def State.ownsQueue (s : State) (fn q : Nat) : Bool := s.getF F.pciQstatState q != 0 && s.getF F.pciQstatOwner q == fn

/-- PCI_SQDB (R397, R398): function `fn` writes the submission doorbell of queue `q`. A nonzero reserved bit starts no action (R557). -/
def execPciSqdb (fn q v : Nat) (s : State) : Host.Outcome State Fault Refusal :=
  .next (if bits v 32 32 != 0 then s
    else
      let u := s.queue q
      let h := s.getF F.pciQstatSqhead q
      if !s.ownsQueue fn q || decide (2 ^ u.sqLog2 < (lo32 v + 0x100000000 - h) % 0x100000000) then s.qErr q
      else s.setQueue q { u with sqTail := lo32 v })

/-- PCI_CQDB (R397, R399): function `fn` writes the completion doorbell of queue `q`. -/
def execPciCqdb (fn q v : Nat) (s : State) : Host.Outcome State Fault Refusal :=
  .next (if bits v 32 32 != 0 then s
    else
      let u := s.queue q
      let d := fun (x : Nat) => (x + 0x100000000 - u.cqHead) % 0x100000000
      if !s.ownsQueue fn q || decide (d (s.getF F.pciQstatCqtail q) < d (lo32 v)) then s.qErr q
      else s.setQueue q { u with cqHead := lo32 v })

/-! ### Interrupt moderation (R402, R442) -/

/-- The moderation time of a queue has passed since its first unsignalled record. -/
def modDue (unsig modTime firstAt now : Nat) : Bool := unsig != 0 && modTime != 0 && decide (firstAt + modTime * 1000 ≤ now)

/-- MODTIME of a stream, in µs (Table 18-2). -/
def Stream.modTime (v : Stream) : Nat := fieldAt v.desc 44 2

/-- Stream `n` beside its registers. -/
def State.stream (s : State) (n : Nat) : Stream := tget (fun _ => Stream.free) s.streams n

/-- Set stream `n`. -/
def State.setStream (s : State) (n : Nat) (v : Stream) : State := { s with streams := tset (fun _ => Stream.free) s.streams n v }

/-- Send the vector of a stream (R442). -/
def State.streamMsg (s : State) (n : Nat) : State :=
  let v := s.stream n
  (s.setStream n { v with unsig := 0, firstAt := 0 }).sendMsix (s.getF F.cdcSstatOwner n) (bits (fieldAt v.desc 40 2) 0 11)

/-- INTERRUPT_MODERATION_TIMER (R402): MODTIME of a queue, or of a stream, after its first unsignalled record. [Log 3 DESIGN CHOICE] -/
def execInterruptModerationTimer (isStream : Bool) (n : Nat) (s : State) : Host.Outcome State Fault Refusal :=
  .next (if isStream then
      let v := s.stream n
      if modDue v.unsig v.modTime v.firstAt s.now then s.streamMsg n else s
    else
      let u := s.queue n
      if u.ien && modDue u.unsig u.modTime u.firstAt s.now then s.queueMsg n else s)

/-! ### The aperture (R393) -/

/-- Function `fn` may access the range through its aperture. -/
def State.apertureOk (s : State) (fn a n : Nat) : Bool := s.inSite (fun site => fn == 0 || s.siteOwner site == s.fnPart fn) a n

/-- A refused request: error record and ACCERR. -/
def State.apertureRefuse (s : State) (fn a : Nat) : State :=
  (s.record { cls := 0x21, sev := 0, kind := 5, unit := fn, sub := 0xFF, addr := a }).raiseEvt fn F.pciEvtcauseAccerr

/-- APERTURE_READ (R393): the data returns burst by burst, that of a poisoned burst in a poisoned TLP. -/
def execApertureRead (fn addr len : Nat) (s : State) : Host.Outcome State Fault Refusal :=
  .next (if s.apertureOk fn addr len then
      (wordsOf addr len).foldl (fun (t : State) w =>
        let lo := max addr (w * 64)
        (t.readWord w).emit (.readReply fn (s.bytesAt lo (min (addr + len) (w * 64 + 64) - lo)) (s.wordClass w).isPoison)) s
    else (s.apertureRefuse fn addr).emit (.unsupported fn))

/-- APERTURE_WRITE (R393): a poisoned TLP marks every burst that it touches as poison. -/
def execApertureWrite (fn addr : Nat) (bytes : List Byte) (poisoned : Bool) (s : State) : Host.Outcome State Fault Refusal :=
  .next (if s.apertureOk fn addr bytes.length then
      (if poisoned then s.poisonBytes addr bytes.length else s.writeBytes addr bytes)
    else s.apertureRefuse fn addr)

/-! ### The PCIe link (R391) -/

/-- PCIE_LANE_FAIL (R391): a lane fails and the link retrains at a narrower width, x8 or x4, until device reset. -/
def execPcieLaneFail (lane width : Nat) (s : State) : Host.Outcome State Fault Refusal :=
  .next (if (width == 8 || width == 4) && decide (width < s.pcieLanes) then
      { s with pcieLanes := width }.record { cls := 0x20, sev := 2, kind := 5, unit := 0, sub := lane, syn := width }
    else s)

end Sys2Proof.Machine
end

