-- ==== Sys2Proof/Machine/Sites.lean ====
section
/-!
DEFINITION. Machine/Sites.lean: what a memory site does on its own and on request (Chapter 13): reads and writes at its controller, the
patrol scrubber, MR4 polls, loss, clearing and margining.
-/
namespace Sys2Proof.Machine

/-! ### Requests at a controller (R323 to R326) -/

/-- A request reaches a controller only inside the usable range of an accessible site (R36, R37). -/
def State.reaches (s : State) (a n : Nat) : Bool := s.inSite (fun _ => true) a n

/-- SITE_READ (R323): a read of word `w`: its data, corrected or flagged as poison, with any write-back. [Log 16 DEDUCED] -/
def execSiteRead (w : Nat) (s : State) : Host.Outcome State Fault Refusal :=
  .next (if s.reaches (64 * w) 64 then
      let t := s.readWord w
      t.emit (.siteReply w (t.bytesAt (64 * w) 64) (s.wordClass w).isPoison)
    else s)

/-- SITE_WRITE (R325): a write of all 64 bytes of word `w` stores a clean word. [Log 16 DEDUCED] -/
def execSiteWrite (w : Nat) (bytes : List Byte) (s : State) : Host.Outcome State Fault Refusal :=
  .next (if s.reaches (64 * w) 64 && bytes.length == 64 then s.writeWord (64 * w) bytes else s)

/-- The bytes that a mask names. -/
def State.putMasked (s : State) (a mask : Nat) (bytes : List Byte) : State :=
  (List.range 64).foldl (fun t i => if bit mask i then t.putByte (a + i) (bytes.getD i 0) else t) s

/-- SITE_PARTIAL_WRITE (R325): a write of the bytes of word `w` that a mask names, merged by the class of the old word (Table 13-4); a mask
of all 64 bytes is a whole write. [Log 16 DEDUCED] -/
def execSitePartialWrite (w mask : Nat) (bytes : List Byte) (s : State) : Host.Outcome State Fault Refusal :=
  .next (if !s.reaches (64 * w) 64 then s
    else if (List.range 64).all (bit mask) then s.writeWord (64 * w) ((bytes ++ leBytes 64 0).take 64)
    else
      let t := s.bump F.cntSitewrBytes (wordSite w) 64
      if t.siteLost (wordSite w) then t else (t.decodeWord w 1).putMasked (64 * w) mask bytes)

/-- POISON_WRITE (R326): a writer marks a region as poison. -/
def execPoisonWrite (addr len : Nat) (s : State) : Host.Outcome State Fault Refusal :=
  .next (if s.reaches addr len then s.poisonBytes addr len else s)

/-! ### The scrubber (R328) -/

/-- Site `n` beside its registers. -/
def State.site (s : State) (n : Nat) : Site := tget (fun _ => Site.fresh) s.sites n

/-- Set site `n`. -/
def State.setSite (s : State) (n : Nat) (v : Site) : State := { s with sites := tset (fun _ => Site.fresh) s.sites n v }

/-- Words of one channel's data region. -/
def State.chanWords (s : State) (n : Nat) : Nat := s.siteCap n / 16 * 15 / 256

/-- Word number of the patrol position `i` of site `n`: ascending words, one channel after another (R319, R328). -/
def State.patrolWord (s : State) (n i : Nat) : Nat :=
  let c := i / s.chanWords n
  let k := i % s.chanWords n
  (n * siteWindow + k / 4 * 1024 + c * 256) / 64 + k % 4

/-- SCRUB_STEP (R328): the scrubber of a ready site decodes its next word; after the last word a pass is counted. -/
def execScrubStep (site : Nat) (s : State) : Host.Outcome State Fault Refusal :=
  .next (if s.getF F.memScrubPeriod site = 0 || s.getF F.memStatusState site != 2 then s
    else
      let v := s.site site
      let t := s.decodeWord (s.patrolWord site v.scrub) 2
      if v.scrub + 1 < 4 * s.chanWords site then t.setSite site { v with scrub := v.scrub + 1 }
      else (t.setSite site { v with scrub := 0 }).bumpSat F.memScrubPasses site 1)

/-! ### Temperature and refresh (R331 to R333) -/

/-- Reason 5 of PWR_THR follows HOT of every site (Table 20-3). -/
def State.memReason (s : State) : State :=
  let r := s.getF F.pwrThrReason 0
  let hot := (List.range 48).any fun n => s.flag F.memThermHot n
  s.setF F.pwrThrReason 0 (r - (if bit r 5 then 32 else 0) + (if hot then 32 else 0))

/-- MR4_POLL (R331, R332): one reading per channel: MR4 value, multiplier that its refresh-rate field calls for (0 = 1×, 1 = 2×, 2 = 4×),
whether it reports a temperature above the high operating limit. -/
def execMr4Poll (site : Nat) (readings : List (Nat × Nat × Bool)) (s : State) : Host.Outcome State Fault Refusal :=
  .next (let st := s.getF F.memStatusState site
    if st < 2 || 4 < st || readings.isEmpty then s
    else
      let v := s.site site
      let m := min 2 (maxOf (readings.map fun r => r.2.1))
      let hotNow := readings.any fun r => r.2.2
      let hot := s.flag F.memThermHot site
      let stay := hotNow || (hot && !v.cool)
      let cur := s.getF F.memThermMult site
      let want := if hotNow then 2 else m
      let mult := if stay then 2 else if cur ≤ want then want else if v.lower = 0 then cur else max want (v.lower - 1)
      let calm := if m = 0 then v.calm + 1 else 0
      let fast := if m != 0 then true else s.flag F.memThermFast site && decide (calm < 16)
      let lower := if mult ≤ want then 0 else want + 1
      let t := s.setF F.memThermMr4 site ((readings.find? fun r => min 2 r.2.1 == m).map (·.1) |>.getD 0)
      let t := ((t.setF F.memThermMult site mult).setF F.memThermHot site (b2n stay)).setF F.memThermFast site (b2n fast)
      (t.setSite site { v with calm := calm, lower := lower, cool := hot && !hotNow }).memReason)

/-- REFRESH (R333): a per-bank refresh falls due; it takes access slots and changes nothing else. -/
def execRefresh (_site : Nat) (s : State) : Host.Outcome State Fault Refusal := .next s

/-! ### Loss, clearing and margining (R329, R330, R334, R335) -/

/-- A site is declared lost, on its own or by the handling of a record (R330, R518). -/
def State.loseSite (s : State) (n : Nat) (cause : Option Nat) : State :=
  let st := s.getF F.memStatusState n
  if st = 0 || st = 5 then s
  else (s.setF F.memStatusState n 5).record { cls := 0x02, sev := 2, kind := 2, unit := n, island := siteIsland n, cause := cause }

/-- SITE_LOST (R330). -/
def execSiteLost (site : Nat) (s : State) : Host.Outcome State Fault Refusal := .next (if site < 48 then s.loseSite site none else s)

/-- Every word of the data region becomes a clean word of zeros (R329). -/
def State.clearSite (s : State) (n : Nat) : State :=
  let lo := n * siteWindow
  let hi := lo + s.siteCap n / 16 * 15
  { s with mem := tclear (fun a => decide (lo ≤ a) && decide (a < hi)) s.mem,
           ecc := tclear (fun w => decide (lo ≤ 64 * w) && decide (64 * w < hi)) s.ecc }

/-- The status of a MEM_OPCTL request (Table 13-14). -/
def State.memStatus (s : State) (v : Nat) : Nat :=
  let op := bits v 28 3
  let n := bits v 18 6
  let st := s.getF F.memStatusState n
  if !(op == 1 || op == 2) || 48 ≤ n || 1 < bits v 0 8 || bits v 8 10 != 0 then 0x73
  else if st < 2 || st = 5 then 0x71
  else if st != 2 then 0x70
  else if s.siteOwner n != 31 then 0x72
  else 0

/-- A request through MEM_OPCTL (R335); a refusal while an operation runs changes STATUS only. -/
def State.memRequest (s : State) (acr : Acr) (v : Nat) : State :=
  s.forDevice acr fun s =>
    if !bit v 31 then s
    else if s.flag F.memOpstatBusy 0 then s.setF F.memOpstatStatus 0 0x70
    else
      let st := s.memStatus v
      let n := bits v 18 6
      let t := (s.setF F.memOpstatStatus 0 st).setF F.memOpstatSite 0 n
      if st != 0 then t.raiseEvt 0 F.pciEvtcauseEvt
      else
        let m := bits v 28 3 == 2
        let u : State := { t with memOp := some ⟨m, n, bits v 24 2, bits v 26 2⟩ }
        (u.setF F.memOpstatBusy 0 1).setF F.memStatusState n (if m then 4 else 3)

/-- MEM_CLEAR (R329): an access writes `v` to MEM_OPCTL with OP 1, or with a value that names no operation. [Log 17 DEDUCED; 19 DESIGN CHOICE] -/
def execMemClear (acr : Acr) (v : Nat) (s : State) : Host.Outcome State Fault Refusal :=
  .next (if bits v 28 3 = 2 then s else s.memRequest acr v)

/-- MEM_MARGIN (R334): an access writes `v` to MEM_OPCTL with OP 2. [Log 17 DEDUCED] -/
def execMemMargin (acr : Acr) (v : Nat) (s : State) : Host.Outcome State Fault Refusal :=
  .next (if bits v 28 3 = 2 then s.memRequest acr v else s)

/-- The edges of the 16 lanes go to MEM_MGRES0 to MEM_MGRES3 (Table 13-13a). -/
def State.putMargins (s : State) (edges : List (Int × Int)) : State :=
  let fs := [(F.memMgresLo0, F.memMgresHi0), (F.memMgresLo1, F.memMgresHi1), (F.memMgresLo2, F.memMgresHi2), (F.memMgresLo3, F.memMgresHi3)]
  (List.range 16).foldl (fun t l =>
    let e := edges.getD l (-128, -128)
    let f := fs.getD (l % 4) (F.memMgresLo0, F.memMgresHi0)
    (t.setF f.1 (l / 4) (ofInt 8 e.1)).setF f.2 (l / 4) (ofInt 8 e.2)) s

/-- MEM_OP_COMPLETE (R335): the running clear or margin operation ends; `edges` are the lowest and highest passing steps of each lane. The
clear that follows a sweep ends in the same step, and the scrubber starts its pass again (Table 13-15). [Log 17 DEDUCED] -/
def execMemOpComplete (edges : List (Int × Int)) (s : State) : Host.Outcome State Fault Refusal :=
  .next (match s.memOp with
    | none => s
    | some m =>
      let lost := s.getF F.memStatusState m.site == 5
      let t : State := { s with memOp := none }
      let t := (t.setF F.memOpstatBusy 0 0).setF F.memOpstatStatus 0 (if lost then 0x71 else 0)
      let t := if lost then t
        else
          let t := if m.margin then t.putMargins edges else t
          let t := (t.clearSite m.site).setF F.memStatusState m.site 2
          t.setSite m.site { t.site m.site with scrub := 0 }
      (t.raiseEvt 0 F.pciEvtcauseEvt).emit (.mctp 3 m.site (if lost then 0x71 else 0)))

end Sys2Proof.Machine
end

