-- ==== Sys2Proof/Machine/Faults.lean ====
section
/-!
DEFINITION. Machine/Faults.lean: faults of clusters and of the harbour die, retirement, the error queue's pop and fleet test bundles
(Chapter 21).
-/
namespace Sys2Proof.Machine

/-! ### Handlings (R507) -/

/-- Open the handling of the record just written. -/
def State.openHandling (s : State) : State := { s with handling := s.lastSeq :: s.handling }

/-- The operation fields of a record about a command. -/
def State.opOfCmd (s : State) (c : Cmd) : Option (List Byte × Nat × Nat) := some (c.bytes, s.partOf c.ctx, c.ctx)

/-- A hardware failure of the part of a command in a cluster, recorded by the record just written: the part fails with 0x0C, reports, and
the record's handling stays open until its context is torn down (R91, R119, R507). -/
def State.hwFail (s : State) (c : Cmd) (cl addr : Nat) : State :=
  let r := s.lastSeq
  let s := s.openHandling
  let a := s.failPart c cl 0x0C addr
  ((a.1.setCmd a.2).reportPart a.2 cl (some r)).settle r

/-- The command at position `seq` of queue `q`, when its part in the cluster has started and has not failed or reported. -/
def State.runningIn (s : State) (cl q seq : Nat) : Option Cmd :=
  match s.cmdAt? q seq with
  | some c => if c.st == .issued && c.parts.any (fun p => p.cluster == cl && p.st == .running && !p.reported && p.status == 0) then some c else none
  | none => none

/-! ### Retirement (R514, Table 4-11) -/

/-- An issued command of a retired anchor completes with 0x0C: every cluster of its span is marked and its outputs are poison. [Log 77 DEDUCED] -/
def State.anchorGone (s : State) (c : Cmd) (cause : Option Nat) : State :=
  let t := s.failAll c 0x0C
  match t.cmd? c.id with
  | none => t
  | some d =>
    let t := t.setCmd { d with ready := true, poisoned := true }
    let t := if d.opcode = 0x38 then (d.plan.desc 0).allWords.foldl (fun (u : State) w => u.poisonBytes (64 * w) 64) (t.stopEngines [d.id]) else t
    t.faultCtx d.ctx ⟨0x0C, 0x30, 0, 0, some d.id, cause⟩

/-- Commands that the old anchor had fetched and not issued are fetched again by the new one: the queues go back to the first of them. -/
def State.refetch (s : State) (x : Nat) : State :=
  let old := s.cmds.filter fun c => c.ctx == x && c.st == .fetched
  let t := (s.boundTo x).foldl (fun (t : State) q => match old.find? (·.q == q) with
    | some c => t.setF F.pciQstatSqhead q c.seq
    | none => t) s
  { t with cmds := t.cmds.filter fun c => !(c.ctx == x && c.st == .fetched) }

/-- Retire a cluster (R514): its parts fail with 0x0C, the contexts that it anchored move to their next cluster; the teardowns that follow belong
to the handling of the CLRETIRE record, which the handling of `cause` may have written (R507). [Log 44 DEDUCED] -/
def State.retireCluster (s : State) (cl reason : Nat) (cause : Option Nat) : State :=
  if s.isRetired cl || 800 ≤ cl then s
  else
    let anchored := (s.ctxs.filter fun e => s.getF F.shtCtxstatState e.1 != 0 && s.anchor e.1 == some cl).map (·.1)
    let w := s.getF F.erqRetiredBits (cl / 64)
    let s := { s with retired := s.retired ++ [cl] }.setF F.erqRetiredBits (cl / 64) (w + 2 ^ (cl % 64))
    let s := s.record { cls := 0x0C, sev := 2, kind := 1, unit := cl, island := clusterIsland cl, syn := reason, cause := cause }
    let r := s.lastSeq
    let s := s.openHandling
    let s := (s.cmds.filter fun c => c.openIn cl && !anchored.contains c.ctx).foldl (fun (t : State) c =>
      match t.cmd? c.id with
      | some d =>
        let a := t.failPart d cl 0x0C 0
        (a.1.setCmd a.2).reportPart a.2 cl (some r)
      | none => t) s
    (anchored.foldl (fun (t : State) x =>
      let cs := t.cmds.filter fun c => c.ctx == x && c.st == .issued
      if cs.isEmpty then t.refetch x else cs.foldl (fun (t : State) c => t.anchorGone c (some r)) t) s).settle r

/-! ### Cluster faults -/

/-- 24 h of timebase in ns. -/
def dayNs : Nat := 86400000000000

/-- ARRAY_CHECK_FAIL (R91): a check of a column fails while the part of a command runs; `why` bit 0 is parity, bit 1 residue; `addr` is the
first output byte of the failed item. A second failure of the cluster within 24 h retires it (R514). -/
def execArrayCheckFail (cluster q seq column why addr : Nat) (s : State) : Host.Outcome State Fault Refusal :=
  .next (match s.runningIn cluster q seq with
    | none => s
    | some c =>
      if !([0x01, 0x02, 0x03].contains c.opcode || (c.opcode == 0x04 && c.convOp == 0)) then s
      else
        let t := s.record { cls := 0x08, sev := 1, kind := 1, unit := cluster, sub := column, island := clusterIsland cluster, op := s.opOfCmd c,
                            addr := addr, syn := why, status := 0x0C }
        let r := t.lastSeq
        let again := match (t.cluster cluster).lastChk with
          | some x => decide (t.now ≤ x + dayNs)
          | none => false
        let t := t.setCluster cluster { t.cluster cluster with lastChk := some t.now }
        let t := t.hwFail c cluster addr
        if again then t.retireCluster cluster 1 (some r) else t)

/-- SFU_PIPE_PARITY (R159): a pipe of a cluster fails its parity check: the part that used it fails and the pipe is retired. -/
def execSfuPipeParity (cluster pipe q seq : Nat) (s : State) : Host.Outcome State Fault Refusal :=
  .next (let old := s.getF F.sfuPipemapRetired cluster
    if 32 ≤ pipe || bit old pipe || !s.clusterUp cluster then s
    else
      let c := s.runningIn cluster q seq
      let t := s.record { cls := 0x09, sev := 1, kind := 1, unit := cluster, sub := pipe, island := clusterIsland cluster,
                          op := c.bind s.opOfCmd, status := 0x0C }
      let r := t.lastSeq
      let t := match c with
        | some c => t.hwFail c cluster 0
        | none => t
      (t.setF F.sfuPipemapRetired cluster (old + 2 ^ pipe)).record
        { cls := 0x0D, sev := 2, kind := 1, unit := cluster, sub := pipe, island := clusterIsland cluster, cause := some r })

/-- A row of a buffer macro is remapped to a spare; a ninth one retires the cluster (R515). -/
def State.remapRow (s : State) (cl mac row : Nat) (cause : Option Nat) : State :=
  let v := s.cluster cl
  let n := tget (fun _ => 0) v.remaps mac
  if 8 ≤ n then s.retireCluster cl 3 cause
  else s.setCluster cl { v with remaps := tset (fun _ => 0) v.remaps mac (n + 1), rowErrs := tset (fun _ => 0) v.rowErrs (mac * 65536 + row) 0 }

/-- LBF_ECC (R515): a word at byte `off` of the local buffer, in a row of a macro of a bank, is corrected, or is uncorrectable and fails the
part of a command that reads it. -/
def execLbfEcc (cluster bank mac row off syn : Nat) (unc : Bool) (q seq : Nat) (s : State) : Host.Outcome State Fault Refusal :=
  .next (if !s.clusterUp cluster then s
    else if unc then
      let c := s.runningIn cluster q seq
      let t := s.record { cls := 0x0B, sev := 1, kind := 1, unit := cluster, sub := bank, island := clusterIsland cluster,
                          op := c.bind s.opOfCmd, addr := off, syn := syn, status := 0x0C }
      let r := t.lastSeq
      let t := match c with
        | some c => t.hwFail c cluster 0
        | none => t
      t.remapRow cluster mac row (some r)
    else
      let t := s.record { cls := 0x0A, sev := 0, kind := 1, unit := cluster, sub := bank, island := clusterIsland cluster, addr := off, syn := syn }
      let v := t.cluster cluster
      let last := tget (fun _ => 0) v.rowErrs (mac * 65536 + row)
      if last != 0 && decide (t.now + 1 ≤ last + 3600000000000) then t.remapRow cluster mac row none
      else t.setCluster cluster { v with rowErrs := tset (fun _ => 0) v.rowErrs (mac * 65536 + row) (t.now + 1) })

/-- ACCUMULATOR_STORE_ERROR (R514): an uncorrectable error in the accumulator store or the shuttle of a cluster. -/
def execAccumulatorStoreError (cluster : Nat) (s : State) : Host.Outcome State Fault Refusal := .next (s.retireCluster cluster 2 none)

/-! ### ERQ_CTL (Table 21-13) -/

/-- Statuses 0xCA to 0xCC go to ERQ_TSTAT (R526). -/
def State.tstat (s : State) (st : Nat) : State := s.setF F.erqTstatStatus 0 st

/-- The write names no operation, or sets a reserved bit. [Log 51 DEDUCED] -/
def erqCtlBad (v : Nat) : Bool := bits v 30 2 == 0 || bits v 30 2 == 3 || bits v 10 20 != 0

/-- RETIRE_CLUSTER (R514): an access writes `v` to ERQ_CTL with OP 2, or with a value that names no operation. [Log 19 DESIGN CHOICE] -/
def execRetireCluster (acr : Acr) (v : Nat) (s : State) : Host.Outcome State Fault Refusal :=
  .next (if bits v 30 2 = 1 then s
    else s.forDevice acr fun s => if erqCtlBad v || 800 ≤ bits v 0 10 then s.tstat 0xCC else s.retireCluster (bits v 0 10) 5 none)

/-- CLEAR_RETIREMENT_LIST (R514): an access writes `v` to ERQ_CTL with OP 1: the list is cleared at the next device reset. -/
def execClearRetirementList (acr : Acr) (v : Nat) (s : State) : Host.Outcome State Fault Refusal :=
  .next (if bits v 30 2 != 1 then s
    else s.forDevice acr fun s => if erqCtlBad v then s.tstat 0xCC else { s with clearRetired := true })

/-! ### Straits, the harbourmaster, the harbour die -/

/-- STRAIT_LANE_FAIL (R516): a lane of a strait (0–3 harbour, 4–7 between islands) is replaced by a spare, or lost. [Log 79 DESIGN CHOICE] -/
def execStraitLaneFail (strait lane : Nat) (s : State) : Host.Outcome State Fault Refusal :=
  .next (let n := tget (fun _ => 0) s.straits strait
    { s with straits := tset (fun _ => 0) s.straits strait (n + 1) }.record
      { cls := 0x0E, sev := 2, kind := 7, unit := strait, sub := lane, syn := Config.straitSpares strait - (n + 1) })

/-- HMLOCK (R517): the two cores of the harbourmaster disagree and restart; operations in progress start again, work goes on. -/
def execHmlock (s : State) : Host.Outcome State Fault Refusal := .next (s.record { cls := 0x48, sev := 2, kind := 7, unit := 8 })

/-- A fatal record stops the device (R508): handlings, commands and harbour engine operations end where they stand, with no records. -/
def State.fatalStop (s : State) : State :=
  let s : State := { s with handling := [], cmds := [], fences := [] }
  let s := s.setFlash { s.flash with jobs := [] }
  let s := (List.range 16).foldl (fun (t : State) p => t.setAgent p { t.agent p with queue := [], busy := none, initWaits := false }) s
  s.streams.foldl (fun (t : State) e => t.setStream e.1 { e.2 with frame := none }) s

/-- Write a fatal record and stop. -/
def State.fatal (s : State) (cls kind unit syn : Nat) : State :=
  (s.record { cls := cls, sev := 3, kind := kind, unit := unit, syn := syn }).fatalStop

/-- HBDIE (R519): an uncorrectable error in the state of the harbour die. -/
def execHbdie (s : State) : Host.Outcome State Fault Refusal := .next (s.fatal 0x44 7 20 0)

/-! ### The error queue (R506) -/

/-- ERQ_POP (R506): an access writes an RSEQ; the oldest record goes when it is its own. -/
def execErqPop (acr : Acr) (v : Nat) (s : State) : Host.Outcome State Fault Refusal :=
  .next (s.forDevice acr fun s =>
    match s.erq with
    | r :: t => if fieldAt r 12 4 = v then ({ s with erq := t } : State).showOldest else s
    | [] => s)

/-! ### Fleet test bundles (R521 to R524) -/

/-- Length of a bundle by its header. -/
def bundleLen (b : List Byte) : Nat := 64 + 128 * fieldAt b 12 2 + fieldAt b 16 4 + 128

/-- The key that SIGNER names: a fused image key that is not revoked, or an entry of the charter's signer table (R521). -/
def State.bundleKey (s : State) (b : List Byte) : Option (List Byte) :=
  let k := fieldAt b 6 1
  if k < 4 then (if Config.keyRevoked k then none else some (Config.imagePub k))
  else if 0x10 ≤ k && k < 0x18 then s.boot.signers[k - 0x10]?
  else none

/-- The items of a bundle. -/
def bundleItems (b : List Byte) : List (List Byte) := (List.range (fieldAt b 12 2)).map fun i => (b.drop (64 + 128 * i)).take 128

/-- An item keeps R522: opcode, CVT, and the addresses of its operand area. [Log 80 DEDUCED] -/
def itemOk (i : List Byte) : Bool :=
  let c := newCmd 0 0 0 0 (i.take 64) []
  [0x01, 0x02, 0x08, 0x09, 0x18, 0x04].contains c.opcode && c.bits 1 0 1 == 0 &&
    (List.range (descFields c)).all fun k => decide (c.field (32 + 6 * k) 6 < 65536)

/-- The header keeps Table 21-9. -/
def bundleHead (b : List Byte) : Bool :=
  let g := fieldAt b
  g 0 4 == 0x4C444E42 && g 4 2 == 1 && g 7 1 / 2 == 0 && decide (1 ≤ g 12 2) && decide (g 12 2 ≤ 1024) && g 14 2 != 0 && g 20 44 == 0 &&
    decide (b.length ≤ 0x100000)

/-- The status of a load: 0xCA for the signature or its key, 0xCB for the rest; `long` says that an item's issue-time count is above 65,536. -/
def State.bundleStatus (s : State) (b : List Byte) (long : Bool) : Nat :=
  let n := b.length - 128
  if b.length != bundleLen b then 0xCB
  else match s.bundleKey b with
    | none => 0xCA
    | some k =>
      if !Config.sigOk k (b.take n) (b.drop (n + 32)) then 0xCA
      else if !bundleHead b || long || !(bundleItems b).all itemOk then 0xCB
      else 0

/-- BUNDLE_LOAD (R522): an access writes `v` to the low slot of ERQ_TCTL with OP 1, or with a value that names no operation; `bundle` is what the
host or the management bus delivers. [Log 19 DESIGN CHOICE] -/
def execBundleLoad (acr : Acr) (v : Nat) (bundle : List Byte) (long : Bool) (s : State) : Host.Outcome State Fault Refusal :=
  .next (if bits v 62 2 = 2 then s
    else s.forDevice acr fun s =>
      let s := s.setLatch acr 0
      if bits v 62 2 != 1 || bits v 0 62 != 0 || s.flag F.erqTstatBusy 0 then s.tstat 0xCC
      else
        let st := s.bundleStatus bundle long
        if st != 0 then s.tstat st
        else
          let b : Bundle := ⟨fieldAt bundle 8 4, bit (fieldAt bundle 7 1) 0, fieldAt bundle 14 2, bundleItems bundle,
            (bundle.drop (64 + 128 * fieldAt bundle 12 2)).take (fieldAt bundle 16 4)⟩
          let t : State := { s with bundle := some b }
          let t := t.clusters.foldl (fun (t : State) e => t.setCluster e.1 { e.2 with testPos := 0, testAt := none }) t
          (t.setF F.erqTstatBundleid 0 b.id).tstat 0)

/-- BUNDLE_STOP (R522): an access writes `v` to ERQ_TCTL with OP 2. -/
def execBundleStop (acr : Acr) (v : Nat) (s : State) : Host.Outcome State Fault Refusal :=
  .next (if bits v 62 2 != 2 then s
    else s.forDevice acr fun s =>
      let s := s.setLatch acr 0
      if bits v 0 62 != 0 then s.tstat 0xCC
      else (({ s with bundle := none } : State).setF F.erqTstatBundleid 0 0).tstat 0)

/-- A cluster may run its next test item (R523): nothing in its windows, 16 units that no share holds, and PERIOD minutes since its last run.
[Log 80 DEDUCED] -/
def State.testDue (s : State) (cl : Nat) (b : Bundle) : Bool :=
  let v := s.cluster cl
  s.running && s.clusterUp cl && s.windowUse cl == 0 && decide (s.sharesIn (clusterReach cl) + 16 ≤ 320) && !b.items.isEmpty &&
    (v.testPos != 0 || match v.testAt with
      | some t => decide (t + b.period * 60000000000 ≤ s.now)
      | none => true)

/-- FLEET_TEST_ITEM (R523, R524): a cluster runs its next item; `crc` is the CRC-64 that it computes of the output. [Log 80 DEDUCED] -/
def execFleetTestItem (cluster crc : Nat) (s : State) : Host.Outcome State Fault Refusal :=
  .next (match s.bundle with
    | none => s
    | some b =>
      if !s.testDue cluster b then s
      else
        let v := s.cluster cluster
        let item := b.items.getD (v.testPos % b.items.length) []
        let want := fieldAt item 120 8
        let next := (v.testPos + 1) % b.items.length
        let t := s.setCluster cluster { v with testPos := next, testAt := if v.testPos = 0 then some s.now else v.testAt }
        if crc = want then t.bump F.cntTestPass cluster 1
        else
          let t := (t.bump F.cntTestFail cluster 1).record
            { cls := 0x50, sev := if b.retire then 2 else 0, kind := 1, unit := cluster, island := clusterIsland cluster,
              op := some (item.take 64, 0, 0), addr := want, syn := crc }
          if b.retire then t.retireCluster cluster 4 (some t.lastSeq) else t)

/-! ### The trace registers (R531, R532) -/

/-- CNT_TRCFG (R531, R556): an access writes `v` to the low slot for partition `p`; the high half is what the accessor's latch holds. [Log 55 DEDUCED] -/
def execCntTrcfg (acr : Acr) (p v : Nat) (s : State) : Host.Outcome State Fault Refusal :=
  .next (s.forPart acr p fun s =>
    let v := s.wide acr v
    let s := s.setLatch acr 0
    let g := fun (f : Fld) => bits v f.lo f.w
    let s := [F.cntTrcfgLayerhi, F.cntTrcfgLayerlo, F.cntTrcfgBase, F.cntTrcfgKinds, F.cntTrcfgRlog2, F.cntTrcfgWrap].foldl
      (fun (t : State) f => t.setF f p (g f)) s
    let s := if bit v 3 then s.setF F.cntTrcfgCfgerr p 0 else s
    let r := g F.cntTrcfgRlog2
    let base := g F.cntTrcfgBase
    if !bit v 0 then s.setF F.cntTrcfgEn p 0
    else if base % 4096 = 0 && 6 ≤ r && s.owned p base (64 * 2 ^ r) then
      let s := ((s.setF F.cntTrcfgEn p 1).setF F.cntTrptrHead p 0).setF F.cntTrptrTail p 0
      { s with evseq := tset (fun _ => 0) s.evseq p 0 }
    else (s.setF F.cntTrcfgEn p 0).setF F.cntTrcfgCfgerr p 1)

/-- CNT_TRPTR (R532): an access writes the low slot, HEAD, for partition `p`; a HEAD beyond TAIL is ignored. -/
def execCntTrptr (acr : Acr) (p v : Nat) (s : State) : Host.Outcome State Fault Refusal :=
  .next (s.forPart acr p fun s =>
    let s := s.setLatch acr 0
    let h := s.getF F.cntTrptrHead p
    let d := fun (x : Nat) => (x + 0x100000000 - h) % 0x100000000
    if d (lo32 v) ≤ d (s.getF F.cntTrptrTail p) then s.setF F.cntTrptrHead p (lo32 v) else s)

end Sys2Proof.Machine
end

