-- ==== Sys2Proof/Machine/Links.lean ====
section
/-!
DEFINITION. Machine/Links.lean: the Zaljan ports (Chapter 17): flits, replay and credits (R409 to R413), posted writes at both ends (R416 to
R419), ZSEND, the posts of ring ATTN, lane degrade, loss and training.
-/
namespace Sys2Proof.Machine

/-! ### Ports -/

/-- Port `p` is UP. -/
def State.portUp (s : State) (p : Nat) : Bool := decide (p < 12) && s.getF F.zlkPstatState p == 3

/-- The port carries traffic: it is UP and the harbour engines run (R508). -/
def State.portRuns (s : State) (p : Nat) : Bool := s.portUp p && s.running

/-- The port is UP and its ROLE is ARCH. -/
def State.archPort (s : State) (p : Nat) : Bool := s.portUp p && s.flag F.zlkPcfgRole p

/-- Change port `p`. -/
def State.mapPort (s : State) (p : Nat) (f : Port → Port) : State := s.setPort p (f (s.port p))

/-! ### Flits (R409, R410) -/

/-- A flit of a type: SEQ, ACKSEQ, DGR, returned credits by class, slots. -/
def mkFlit (ftype seq ack dgr : Nat) (ret : List Nat) (slots : List (List Byte)) : List Byte :=
  let h := ftype <<< 60 + seq <<< 48 + ack <<< 36 + dgr <<< 34 + ret.getD 0 0 <<< 20 + ret.getD 1 0 <<< 14 + ret.getD 2 0 <<< 8 + slots.length <<< 4
  let b := leBytes 8 h ++ ((slots.flatMap fun s => s) ++ leBytes 240 0).take 240
  b ++ leBytes 8 (crc64 b)

/-- Credits that one header can return (Table 17-3). -/
def creditMax : List Nat := [4095, 63, 63]

/-- The port sends a flit without messages: its ACKSEQ, its width request and the credits to return. -/
def State.sendBare (s : State) (p ftype dgr : Nat) : State :=
  let v := s.port p
  let ret := List.zipWith min v.returns creditMax
  (s.setPort p { v with returns := List.zipWith (· - ·) v.returns ret }).emit (.flit p (mkFlit ftype 0 v.rxSeq dgr ret []))

/-- A slot of 16 bytes. -/
def slotOf (v : Nat) : List Byte := leBytes 16 v

/-- Slots of a WR message by its header (R416). -/
def wrSlots (hdr : Nat) : Nat := 1 + 4 * (bits hdr 32 6 + 1)

/-- Split bytes into slots; `fuel` bounds their number. -/
def toSlots : (fuel : Nat) → List Byte → List (List Byte)
  | 0, _ => []
  | f + 1, b => if b.isEmpty then [] else (b.take 16 ++ leBytes 16 0).take 16 :: toSlots f (b.drop 16)

/-- A port while it fills one flit: what it still holds, the slots placed, the side-band kind placed. -/
structure Fill where
  v : Port
  slots : List (List Byte)
  kind : Option Nat

/-- Take credits of class `k`. -/
def Port.spend (v : Port) (k n : Nat) : Port := { v with credits := v.credits.set k (v.credits.getD k 0 - n) }

/-- The slots of a message under way go first. -/
def Fill.rest (f : Fill) : Fill :=
  let k := 15 - f.slots.length
  { f with slots := f.slots ++ f.v.txSlots.take k, v := { f.v with txSlots := f.v.txSlots.drop k } }

/-- At most one side-band message (R410); a TBREPLY takes t3 − t2 as it leaves (Table 20-4). [Log 58 DEDUCED] -/
def Fill.sideBand (now : Nat) (f : Fill) : Fill :=
  match f.v.txSb with
  | m :: t =>
    if 15 ≤ f.slots.length || f.v.credits.getD 2 0 = 0 then f
    else
      let k := bits m 8 8
      let m' := if k = 0x22 then bits m 0 96 + ((now + 2 ^ 64 - bits m 32 64) % 2 ^ 32) <<< 96 else m
      { f with slots := f.slots ++ [slotOf m'], v := { f.v with txSb := t }.spend 2 1, kind := some k }
  | [] => f

/-- Write acknowledgements. [Log 58 DEDUCED] -/
def Fill.wacks (f : Fill) : Fill :=
  let n := min (15 - f.slots.length) (min f.v.txWack.length (f.v.credits.getD 1 0))
  { f with slots := f.slots ++ (f.v.txWack.take n).map slotOf, v := { f.v with txWack := f.v.txWack.drop n }.spend 1 n }

/-- Posted writes while slots and write credits last. [Log 58 DEDUCED] -/
def Fill.writes : (fuel : Nat) → Fill → Fill
  | 0, f => f
  | k + 1, f =>
    match f.v.txWr with
    | w :: t =>
      let n := wrSlots w.hdr
      if 15 ≤ f.slots.length || f.v.credits.getD 0 0 < n then f
      else
        let w' := { w with wid := f.v.wid }
        let all := slotOf (w.hdr + f.v.wid <<< 80) :: toSlots n w.data
        let room := 15 - f.slots.length
        let v := { f.v with txWr := t, wid := (f.v.wid + 1) % 65536, sent := f.v.sent ++ [w'], txSlots := all.drop room }
        Fill.writes k { f with slots := f.slots ++ all.take room, v := v.spend 0 n }
    | [] => f

/-- A port fills a data flit (R410). [Log 58 DEDUCED] -/
def Port.fill (v : Port) (now : Nat) : Fill := Fill.writes 4 ((Fill.rest ⟨v, [], none⟩).sideBand now).wacks

/-- The time stamp of a TBPROBE as it leaves: t1 of the running hop, or of the probe to the parent (R493, R497). -/
def State.stampProbe (s : State) (p : Nat) (kind : Option Nat) : State :=
  if kind != some 0x21 then s
  else match s.arch.hop with
    | some h => if h.port = p then { s with arch := { s.arch with hop := some { h with t1 := some s.now } } }
                else { s with arch := { s.arch with trimT1 := some s.now } }
    | none => { s with arch := { s.arch with trimT1 := some s.now } }

/-- The port sends data flits while messages, credits and places in the replay buffer last (R412, R413). [Log 58 DEDUCED] -/
def State.pump (s : State) (p : Nat) : (fuel : Nat) → State
  | 0 => s
  | k + 1 =>
    let v := s.port p
    let f := v.fill s.now
    if f.slots.isEmpty || 512 ≤ v.unacked.length then s
    else
      let ret := List.zipWith min v.returns creditMax
      let b := mkFlit 1 v.txSeq v.rxSeq v.dgr ret f.slots
      let w := { f.v with txSeq := (v.txSeq + 1) % 4096, unacked := v.unacked ++ [⟨v.txSeq, s.now, b⟩],
                          returns := List.zipWith (· - ·) v.returns ret }
      (((s.setPort p w).emit (.flit p b)).stampProbe p f.kind).pump p k

/-- Most data flits that the messages of a port can take. -/
def Port.work (v : Port) : Nat := v.txSlots.length + v.txSb.length + v.txWack.length + sumOf (v.txWr.map fun w => wrSlots w.hdr)

/-- The port sends what it can, then an idle flit with its acknowledgement and credits (R409). [Log 58 DEDUCED] -/
def State.serve (s : State) (p : Nat) : State :=
  if s.portRuns p then (s.pump p (s.port p).work).sendBare p 0 (s.port p).dgr else s

/-! ### Side-band messages (R424) -/

/-- A new message of this device on a port; `body` holds its bits at their places in the slot. -/
def State.sendSb (s : State) (p kind body : Nat) : State :=
  if s.portRuns p then
    (s.mapPort p fun v => { v with txSb := v.txSb ++ [3 + kind <<< 8 + s.getF F.zlkArchDevnum 0 <<< 16 + body] }).serve p
  else s

/-- Forward a message on another port. -/
def State.forwardSb (s : State) (p m : Nat) : State :=
  if s.portRuns p then
    let m' := m - bits m 4 4 <<< 4 + min 15 (bits m 4 4 + 1) <<< 4
    (s.mapPort p fun v => { v with txSb := v.txSb ++ [m'] }).serve p
  else s

/-- The harbourmaster takes the next side-band message of a port when it is of a kind: message, reception stamp, and the state with its
credit on the way back (R413). -/
def State.takeSb (s : State) (p kind : Nat) : Option (Nat × Nat × State) :=
  match (s.port p).rxSb with
  | (m, t) :: rest =>
    if bits m 8 8 = kind && s.portRuns p then
      some (m, t, (s.mapPort p fun v => { v with rxSb := rest, returns := v.returns.set 2 (v.returns.getD 2 0 + 1) }).serve p)
    else none
  | [] => none

/-- Ports of the tree of R427: the parent's and the children's. -/
def State.treePorts (s : State) : List Nat := s.arch.parent.toList ++ s.arch.children.map (·.1)

/-- The lead of the archipelago. -/
def State.isLead (s : State) : Bool := s.flag F.zlkArchLead 0

/-- Set the archipelago state. -/
def State.setArch (s : State) (a : Arch) : State := { s with arch := a }

/-- A sweep breaks at a child's port (R495): the break goes up with the child's number, or the lead notes it. [Log 62 DEDUCED] -/
def State.breakAt (s : State) (p : Nat) : State :=
  let n := ((s.arch.children.find? fun c => c.1 == p).map (·.2)).getD 0xFFFF
  let s := s.setArch { s.arch with hop := s.arch.hop.filter (·.port != p), bad := true, broke := s.arch.broke ++ [p],
                                   align := s.arch.align.filter (· != p), owed := s.arch.owed.filter (· != p) }
  if s.isLead then s.setF F.tmbAlignStatus 0 0xC0
  else match s.arch.parent with
    | some q => s.sendSb q 0x24 (s.arch.algen <<< 32 + n <<< 64)
    | none => s

/-- A probe of the running hop leaves. -/
def State.probe (s : State) : State :=
  match s.arch.hop with
  | some h => (s.setArch { s.arch with hop := some { h with t1 := none } }).sendSb h.port 0x21 0
  | none => s

/-- The sweep below this device is done: the lead notes its outcome, another device reports its subtree complete (R494). -/
def State.sweepDone (s : State) : State :=
  let s := s.setF F.tmbAlignSweeping 0 0
  if s.isLead then (if s.arch.bad then s else s.setF F.tmbAlignStatus 0 0)
  else if s.arch.bad then s
  else match s.arch.parent with
    | some p => s.sendSb p 0x24 (s.arch.algen <<< 32 + 1 <<< 48)
    | none => s

/-- Go on to the next child, or end when every child has reported. -/
def State.nextHop (s : State) : State :=
  if s.arch.hop.isSome then s
  else match s.arch.align with
    | p :: t => (s.setArch { s.arch with align := t, hop := some ⟨p, 0, 0, none, none⟩ }).probe
    | [] => if s.arch.owed.isEmpty && s.flag F.tmbAlignSweeping 0 then s.sweepDone else s

/-! ### ZSEND and the posts of a ring (R420 to R423) -/

/-- Ring commands that run and use a port. -/
def Cmd.usesPort (c : Cmd) (p : Nat) : Bool :=
  c.opcode == 0x03 && c.ringA && c.st == .issued && (Sys2Proof.Machine.bits (c.at_.r 4 1) 4 4 == p || Sys2Proof.Machine.bits (c.at_.r 4 1) 0 4 == p)

/-- PORT of a ZSEND. -/
def Cmd.zport (c : Cmd) : Nat := c.bits 48 0 4

/-- The prefix of the range whose WRs all carried code 0 or 5, in bytes (R422). -/
def ackedPrefix (l : List TxWr) : Nat :=
  sumOf ((l.takeWhile fun w => w.code == some 0 || w.code == some 5).map fun w => 64 * (bits w.hdr 32 6 + 1))

/-- The status of a ZSEND whose WACKs have all come (R421). -/
def codeStatus (codes : List Nat) : Nat :=
  if codes.any fun c => c == 1 || c == 2 || c == 3 then 0x9B
  else if codes.contains 4 then 0x9C
  else if codes.contains 5 then 0x9D
  else 0

/-- A ZSEND ends with a status: its report block is written, and its WRs are forgotten (R422). -/
def State.endZsend (s : State) (c : Cmd) (status : Nat) : State :=
  let p := c.zport
  let mine := (s.port p).sent.filter fun w => w.cmd == c.id
  let s := s.mapPort p fun v => { v with sent := v.sent.filter fun w => w.cmd != c.id, txWr := v.txWr.filter fun w => w.cmd != c.id }
  let rpt := c.addrAt 56
  let first := ((mine.filterMap (·.code)).find? (· != 0)).getD 0
  let s := if rpt = 0 then s
    else s.writeBytes rpt (leBytes 8 (ackedPrefix mine) ++ leBytes 1 first ++ leBytes 3 0 ++ leBytes 4 (s.getF F.zlkPstatEvtno p))
  s.engineDone c.id status false

/-- A ring command fails with a status (R119, R197). [Log 40 DEDUCED] -/
def State.failRing (s : State) (c : Cmd) (status : Nat) : State :=
  let t := s.failAll c status
  let t := (List.range 12).foldl (fun (t : State) p => t.mapPort p fun v => { v with txWr := v.txWr.filter fun w => w.cmd != c.id }) t
  if tearsDown status then t.faultCtx c.ctx ⟨status, 0x30, 0, 0, some c.id, none⟩ else t

/-- A WACK has come for a write of command `id` on a port: the send ends when all have, a ring command fails on a nonzero code. -/
def State.settleWr (s : State) (p id code : Nat) : State :=
  match s.cmd? id with
  | none => s.mapPort p fun v => { v with sent := v.sent.filter fun w => w.cmd != id || w.code.isNone }
  | some c =>
    if c.opcode = 0x30 then
      let v := s.port p
      if (v.txWr.any fun w => w.cmd == id) || (v.sent.any fun w => w.cmd == id && w.code.isNone) then s
      else s.endZsend c (codeStatus ((v.sent.filter fun w => w.cmd == id).filterMap (·.code)))
    else
      let t := s.mapPort p fun v => { v with sent := v.sent.filter fun w => w.cmd != id || w.code.isNone }
      if code = 0 || c.status != 0 then t else t.failRing c (codeStatus [code])

/-- Take the oldest WACK of a port (R419): match it by WID, return its credit. -/
def State.takeWack (s : State) (p : Nat) : State :=
  match (s.port p).rxWack with
  | [] => s
  | m :: rest =>
    let wid := bits m 8 16
    let code := bits m 4 4
    let s := s.mapPort p fun v => { v with rxWack := rest, returns := v.returns.set 1 (v.returns.getD 1 0 + 1) }
    match (s.port p).sent.find? fun w => w.wid == wid && w.code.isNone with
    | none => s
    | some w =>
      (s.mapPort p fun v => { v with sent := v.sent.map fun x => if x.wid = wid && x.code.isNone then { x with code := some code } else x }).settleWr p
        w.cmd code

/-- The chunks of 64 bytes of a range that a send reads, each with its poison flag. [Log 41 DEDUCED] -/
def State.chunks (s : State) (a n : Nat) : List (List Byte × Bool) :=
  (List.range (n / 64)).map fun i => (s.bytesAt (a + 64 * i) 64, s.anyPoison (wordsOf (a + 64 * i) 64))

/-- Groups of chunks that travel as one WR (R421): offset, bytes, poison; newest first while they are gathered. -/
def groupChunks (daddr : Nat) (l : List (List Byte × Bool)) : List (Nat × List Byte × Bool) :=
  (l.zipIdx.foldl (fun (a : List (Nat × List Byte × Bool)) (e : (List Byte × Bool) × Nat) =>
    let one := (64 * e.2, if e.1.2 then leBytes 64 0 else e.1.1, e.1.2)
    match a with
    | g :: t => if g.2.2 || e.1.2 || (daddr + 64 * e.2) % 4096 = 0 then one :: g :: t else (g.1, g.2.1 ++ e.1.1, false) :: t
    | [] => [one]) []).reverse

/-- The WRs of a send: `base` holds the header fields other than WID, ADDR, LEN and PSN (Table 17-4). -/
def mkWrs (id daddr base : Nat) (l : List (List Byte × Bool)) : List TxWr :=
  (groupChunks daddr l).map fun g =>
    ⟨id, g.1, base + bits ((daddr + g.1) / 64) 0 42 <<< 38 + (g.2.1.length / 64 - 1) <<< 32 + b2n g.2.2 <<< 14 + 1, g.2.1, 0, none⟩

/-- Header fields of a WR: GEN, ACNT, DPART, GENEN, ACEN. -/
def wrBase (gen acnt dpart genen acen : Nat) : Nat := gen <<< 96 + acnt <<< 20 + dpart <<< 16 + genen <<< 13 + acen <<< 12

/-- Queue WRs on a port. -/
def State.queueWrs (s : State) (p : Nat) (l : List TxWr) : State := (s.mapPort p fun v => { v with txWr := v.txWr ++ l }).serve p

/-- The checks of ZSEND (R423). [Log 41 DEDUCED] -/
def zsendCheck (s : State) (c : Cmd) : Chk Plan := do
  let _ ← commonChecks s c (pure ())
  let p := s.partOf c.ctx
  let src := c.addrAt 32
  let rpt := c.addrAt 56
  let len := c.field 44 4
  ensure (bit (s.getF F.chtPartLinks p) c.zport) (rejCmd 0x99 48)
  addrIn s p 0x05 1 src 1
  if rpt = 0 then pure () else addrIn s p 0x05 3 rpt 1
  ensure (src % 64 == 0) (rejAddr 0x98 1 src)
  ensure (c.addrAt 38 % 64 == 0) (rejAddr 0x98 2 (c.addrAt 38))
  ensure (len != 0 && len % 64 == 0) (rejCmd 0x98 44)
  ensure (c.bits 50 4 4 == 0) (rejCmd 0x98 49)
  ensure (c.bits 51 2 6 == 0) (rejCmd 0x98 51)
  ensure (rpt % 16 == 0) (rejAddr 0x98 3 rpt)
  reservedFrom c 0x98 62 63
  addrIn s p 0x05 1 src len
  if rpt = 0 then pure () else addrIn s p 0x05 3 rpt 16
  countCheck s c 0
  return Plan.plain 0 []

/-- A ZSEND has passed its checks: its source is read and its WRs wait on the port, or the port is not UP. [Log 41 DEDUCED] -/
def State.goZsend (s : State) (c : Cmd) : State :=
  let t := s.goAnchor c
  let p := c.zport
  if !t.portUp p then t.endZsend c 0x9E
  else
    let src := c.addrAt 32
    let len := c.field 44 4
    let l := t.chunks src len
    let t := t.readWords (wordsOf src len)
    t.queueWrs p (mkWrs c.id (c.addrAt 38) (wrBase (c.field 52 4) (bits (c.field 49 2) 0 12) (c.bits 48 4 4) (c.bits 51 1 1) (c.bits 51 0 1)) l)

/-- ZSEND (R421). -/
def execZsend (q : Nat) (s : State) : Host.Outcome State Fault Refusal := .next (s.issue q (isOp 0x30) zsendCheck State.goZsend)

/-! ### Ring ATTN (R193 to R197) -/

/-- Bytes of ranges with the poison of each, in order. -/
def State.rangeCells (s : State) (rs : List (Int × Nat)) : List (Byte × Bool) :=
  rs.flatMap fun r => (List.range r.2).map fun i => let a := r.1.toNat + i; (s.byteAt a, (s.wordClass (a / 64)).isPoison)

/-- Cells as chunks of 64 bytes; `fuel` bounds their number. -/
def cellChunks : (fuel : Nat) → List (Byte × Bool) → List (List Byte × Bool)
  | 0, _ => []
  | f + 1, l => if l.isEmpty then [] else ((l.take 64).map (·.1), (l.take 64).any (·.2)) :: cellChunks f (l.drop 64)

/-- Post the block of step `k` to the next device (R194): the K ranges, the V ranges, and bytes up to BLKBYTES that the spec leaves open. A
port that is not UP fails the command as a lost one does (R197). [Log 40 DEDUCED] -/
def State.ringPost (s : State) (c : Cmd) (k : Nat) : State :=
  let g := c.at_
  let p := bits (g.r 4 1) 4 4
  if !s.portUp p then s.failRing c 0x33
  else
    let n := g.r 16 6
    let kv := g.visit k
    let rs := kv.1.ranges ++ kv.2.ranges
    let cells := s.rangeCells rs
    let pad := s.freeBytes (n - cells.length)
    let t := pad.2.readWords (rs.flatMap fun r => wordsOf r.1.toNat r.2).eraseDups
    let even := k % 2 = 0
    t.queueWrs p (mkWrs c.id (g.r (if even then 36 else 42) 6) (wrBase (g.r 12 4) (g.r (if even then 6 else 8) 2) (s.partOf c.ctx) 1 1)
      (cellChunks (n / 64 + 1) (cells ++ pad.1.map fun b => (b, false))))

/-- Acknowledge a step to the previous device: 64 bytes counted in its AACK (R194). [Log 40 DEDUCED] -/
def State.ringAck (s : State) (c : Cmd) : State :=
  let g := c.at_
  let p := bits (g.r 4 1) 0 4
  if !s.portUp p then s.failRing c 0x33
  else
    let f := s.freeBytes 64
    f.2.queueWrs p (mkWrs c.id (g.r 48 6) (wrBase (g.r 12 4) (g.r 10 2) (s.partOf c.ctx) 1 1) [(f.1, false)])

/-- An ATTN has passed its checks: its parts are ready, and a ring posts its local block (R194). -/
def State.goAttn (s : State) (c : Cmd) : State :=
  let t := s.goTiled c
  if !c.ringA then t
  else match t.cmd? c.id with
    | some d => t.ringPost d 0
    | none => t

/-- ATTN (R182): an ATTN issues. -/
def execAttn (q : Nat) (s : State) : Host.Outcome State Fault Refusal := .next (s.issue q isAttn attnCheck State.goAttn)

/-- The parts of a ring command compute the partials of step `k` (R195, R196). -/
def State.ringParts (s : State) (id k : Nat) (cls : List Nat) : State :=
  cls.foldl (fun (t : State) cl =>
    match t.cmd? id with
    | none => t
    | some c => match c.part? cl with
      | none => t
      | some p =>
        if p.status != 0 || p.reported then t
        else
          let r := (c.partItems cl).foldl (fun (r : PartRun) it => if r.status != 0 then r else r.ringItem c cl k it) (PartRun.start t p.lanes)
          State.afterRun c cl r) s

/-- Run step `k` of a ring command, its waits satisfied: forward, compute, acknowledge (R194). [Log 40 DEDUCED] -/
def State.ringStep (s : State) (c : Cmd) (k : Nat) : State :=
  let c' := { c with openAt := none, ring := k }
  let t := s.setCmd c'
  let t := if k + 1 < c.at_.ndev then t.ringPost c' k else t
  let t := t.ringParts c.id k c.span
  match t.cmd? c.id with
  | some d => if d.status = 0 then t.ringAck d else t
  | none => t

/-- ATTN_RING_STEP (R194): the ring ATTN at position `seq` of queue `q` evaluates the waits of its next step, and runs it when they are
satisfied. A wait on a counter that lost its port fails the command (R197, R310). [Log 40 DEDUCED] -/
def execAttnRingStep (q seq : Nat) (s : State) : Host.Outcome State Fault Refusal :=
  .next (match s.cmdAt? q seq with
    | none => s
    | some c =>
      if !(s.running && c.st == .issued && c.status == 0 && c.ringLeft && c.parts.all fun p => p.st == .running) then s
      else
        let left := c.ringWaits.filter fun w => !s.arrivalSat w.1 w.2
        if left.any fun w => s.flag F.zlkArrcfgLost w.1 then s.failRing c 0x33
        else if left.isEmpty then s.ringStep c (c.ring + 1)
        else s.setCmd { c with openAt := some (c.openAt.getD s.now) })

/-! ### Loss (R430) -/

/-- Last ACKSEQ received on a port. [Log 57 DESIGN CHOICE] -/
def Port.acked (v : Port) : Nat :=
  match v.unacked with
  | f :: _ => (f.seq + 4095) % 4096
  | [] => (v.txSeq + 4095) % 4096

/-- A link event: record, LINKEVT in the physical function and in the functions whose partition may use the port (Table 16-10). -/
def State.linkEvent (s : State) (p ackTx ackRx : Nat) (back : Bool) : State :=
  let s := s.record { cls := 0x18, sev := 2, kind := 4, unit := p, sub := 0xFF,
                      syn := s.getF F.zlkPstatEvtno p + ackTx <<< 32 + ackRx <<< 44 + b2n back <<< 63 }
  ((List.range 64).filter fun n => n == 0 || (decide (s.fnPart n < 16) && bit (s.getF F.chtPartLinks (s.fnPart n)) p)).foldl
    (fun (t : State) n => t.raiseEvt n F.pciEvtcauseLinkevt) s

/-- LOST rises in every counter that the port feeds (R310). -/
def State.setLost (s : State) (p : Nat) : State :=
  (List.range 4096).foldl (fun (t : State) a => if bit (t.getF F.zlkArrcfgPorts a) p then t.setF F.zlkArrcfgLost a 1 else t) s

/-- The steps of a loss, in their order (R430); a sweep that still waits for the port breaks there (R494, R495). [Log 59 DEDUCED; 62 DEDUCED] -/
def State.loseLink (s : State) (p : Nat) : State :=
  let v := s.port p
  let s := (List.range v.rxWack.length).foldl (fun (t : State) _ => t.takeWack p) s
  let s := s.mapPort p fun w => { w with unacked := [], txSb := [], txWack := [], txSlots := [], rxSlots := [], rxWr := [], replays := 0, gap := false, dgr := 0 }
  let s := s.setLost p
  let zs := s.cmds.filter fun c => c.opcode == 0x30 && c.st == .issued && !c.ready && c.zport == p
  let s := zs.foldl (fun (t : State) c => t.endZsend c 0x9A) s
  let s := (s.cmds.filter (·.usesPort p)).foldl (fun (t : State) c => t.failRing c 0x33) s
  let s := s.mapPort p fun w => { w with txWr := [], sent := [] }
  let s := s.linkEvent p v.rxSeq v.acked false
  let s := s.setF F.zlkPstatState p 4
  let s := (s.mapPort p fun w => { w with step := 1, since := s.now }).sendBare p 3 0
  if !s.flag F.tmbAlignSweeping 0 then s
  else if s.arch.owed.contains p then (s.breakAt p).nextHop
  else if s.treePorts.contains p then s.setArch { s.arch with broke := s.arch.broke ++ [p] }
  else s

/-- Both halves of the port hold a faulty lane. -/
def bothHalves (faulty : Nat) : Bool := decide (faulty % 16 ≠ 0) && decide (faulty / 16 ≠ 0)

/-- LINK_LOSS (R430): an UP port declares the loss: its peer announced it, no good flit has come for 2 µs while no width change is under way,
or 16 replays have passed without progress. [Log 59 DEDUCED] -/
def execLinkLoss (port : Nat) (announced : Bool) (s : State) : Host.Outcome State Fault Refusal :=
  .next (let v := s.port port
    if s.portUp port && (announced || decide (16 ≤ v.replays) || (v.dgr == 0 && decide (v.since + 2000 ≤ s.now))) then s.loseLink port else s)

/-! ### Receiving flits (R409 to R413) -/

/-- Messages gathered from slots: the slots of the WR under way, complete WRs, WACKs, side-band slots, and whether a slot has an invalid
type. -/
structure Parsed where
  cur : List (List Byte)
  wrs : List (List (List Byte))
  wacks : List Nat
  sbs : List Nat
  bad : Bool

/-- Take one slot. -/
def Parsed.slot (a : Parsed) (b : List Byte) : Parsed :=
  if a.cur.isEmpty then
    let ty := fieldAt b 0 1 % 16
    if ty = 1 then { a with cur := [b] }
    else if ty = 2 then { a with wacks := a.wacks ++ [leNat b] }
    else if ty = 3 then { a with sbs := a.sbs ++ [leNat b] }
    else { a with bad := true }
  else
    let l := a.cur ++ [b]
    if l.length < wrSlots (leNat (l.headD [])) then { a with cur := l } else { a with cur := [], wrs := a.wrs ++ [l] }

/-- A field of a flit's header. -/
def flitField (b : List Byte) (lo w : Nat) : Nat := bits (fieldAt b 0 8) lo w

/-- The slots of a flit. -/
def flitSlots (b : List Byte) : List (List Byte) := (List.range (flitField b 4 4)).map fun i => (b.drop (8 + 16 * i)).take 16

/-- The messages of a flit after the slots that the port holds. -/
def Port.parse (v : Port) (b : List Byte) : Parsed := (flitSlots b).foldl Parsed.slot ⟨v.rxSlots, [], [], [], false⟩

/-- A good flit (R411). -/
def Port.good (v : Port) (b : List Byte) (fecBad : Bool) : Bool :=
  let ty := flitField b 60 4
  !fecBad && b.length == 256 && crc64 (b.take 248) == fieldAt b 248 8 && decide (ty ≤ 3) && flitField b 32 2 == 0 && flitField b 0 4 == 0 &&
    (if ty = 1 then !(flitField b 48 12 == (v.rxSeq + 1) % 4096 && (v.parse b).bad) else flitField b 48 12 == 0 && flitField b 4 4 == 0)

/-- The FEC counters (Table 17-15). -/
def State.fecCount (s : State) (p sym unc : Nat) : State := (s.bump F.zlkCnt1Fecsym p sym).bumpSat F.zlkCnt1Fecunc p unc

/-- A gap opens: one NAK for it (R412). -/
def State.openGap (s : State) (p : Nat) : State :=
  if (s.port p).gap then s else (s.mapPort p fun v => { v with gap := true }).sendBare p 2 (s.port p).dgr

/-- Narrow or widen a port to the lanes that a width request names (R415). -/
def State.setWidth (s : State) (p dgr : Nat) : State :=
  (s.setF F.zlkPstatNarrow p (b2n (dgr != 3))).setF F.zlkPstatHalf p (b2n (dgr == 2))

/-- The lanes in use are those that a request names. -/
def State.widthIs (s : State) (p dgr : Nat) : Bool :=
  if dgr = 3 then !s.flag F.zlkPstatNarrow p else s.flag F.zlkPstatNarrow p && s.flag F.zlkPstatHalf p == (dgr == 2)

/-- The peer requests a width: this side answers with a control flit and follows (R415). -/
def State.widthAsked (s : State) (p dgr : Nat) : State :=
  if dgr = 0 || s.widthIs p dgr then s else (s.sendBare p 3 dgr).setWidth p dgr

/-- What every good flit brings: acknowledgement and credits (R411, R412). -/
def State.takeHeader (s : State) (p : Nat) (b : List Byte) : State :=
  let ack := flitField b 36 12
  let ret := [flitField b 20 12, flitField b 14 6, flitField b 8 6]
  s.mapPort p fun v =>
    let hit := v.unacked.any fun (f : TxFlit) => f.seq == ack
    let rest := if hit then (v.unacked.dropWhile fun f => f.seq != ack).drop 1 else v.unacked
    { v with unacked := rest, replays := if hit then 0 else v.replays, credits := List.zipWith (· + ·) v.credits ret, since := s.now }

/-- Kinds of side-band messages that are not discarded (Tables 17-7, 20-4). [Log 56 DEDUCED] -/
def sbKinds : List Nat := [0x01, 0x02, 0x03, 0x04, 0x10, 0x11, 0x20, 0x21, 0x22, 0x23, 0x24]

/-- An accepted data flit: its messages join those that wait (R410, R424). -/
def State.acceptData (s : State) (p : Nat) (b : List Byte) : State :=
  s.mapPort p fun v =>
    let m := v.parse b
    let keep := m.sbs.filter fun x => sbKinds.contains (bits x 8 8)
    { v with rxSeq := flitField b 48 12, gap := false, rxSlots := m.cur, rxWr := v.rxWr ++ m.wrs, rxWack := v.rxWack ++ m.wacks,
             rxSb := v.rxSb ++ keep.map fun x => (x, s.now), returns := v.returns.set 2 (v.returns.getD 2 0 + (m.sbs.length - keep.length)) }

/-- FLIT_RECEIVE (R411): a flit other than a NAK or a width change arrives at an UP port; `fecBad` says that it overlaps an uncorrectable
codeword, `sym` and `unc` are the symbols corrected and the codewords found uncorrectable. [Log 56 DEDUCED] -/
def execFlitReceive (port : Nat) (flit : List Byte) (fecBad : Bool) (sym unc : Nat) (s : State) : Host.Outcome State Fault Refusal :=
  .next (
    let ty := flitField flit 60 4
    if !s.portRuns port || ty = 2 || (ty = 3 && flitField flit 34 2 != 0) then s
    else
      let s := s.fecCount port sym unc
      let v := s.port port
      if !v.good flit fecBad then (s.bump F.zlkCnt0Damaged port 1).openGap port
      else if ty = 1 && flitField flit 48 12 != (v.rxSeq + 1) % 4096 then s.openGap port
      else
        let t := (s.takeHeader port flit).widthAsked port (flitField flit 34 2)
        if ty = 1 then (t.acceptData port flit).serve port else t.pump port (t.port port).work)

/-! ### Replay (R412) -/

/-- Send every unacknowledged flit again; after 16 replays without an advance the link is lost. -/
def State.replay (s : State) (p : Nat) : State :=
  let v := s.port p
  if v.unacked.isEmpty then s
  else if 16 ≤ v.replays then s.loseLink p
  else
    let s := (s.setPort p { v with replays := v.replays + 1, unacked := v.unacked.map fun f => { f with at_ := s.now } }).bump F.zlkCnt0Replay p 1
    v.unacked.foldl (fun (t : State) f => t.emit (.flit p f.bytes)) s

/-- NAK (R412): a NAK flit arrives at an UP port. [Log 56 DEDUCED] -/
def execNak (port : Nat) (flit : List Byte) (fecBad : Bool) (sym unc : Nat) (s : State) : Host.Outcome State Fault Refusal :=
  .next (if !s.portRuns port || flitField flit 60 4 != 2 then s
    else
      let s := s.fecCount port sym unc
      if !(s.port port).good flit fecBad then (s.bump F.zlkCnt0Damaged port 1).openGap port
      else
        let t := ((s.takeHeader port flit).widthAsked port (flitField flit 34 2)).replay port
        if t.portRuns port then t.pump port (t.port port).work else t)

/-- REPLAY_TIMEOUT (R412): the oldest unacknowledged flit of a port is more than 4 µs old. [Log 3 DESIGN CHOICE] -/
def execReplayTimeout (port : Nat) (s : State) : Host.Outcome State Fault Refusal :=
  .next (match (s.port port).unacked with
    | f :: _ => if s.portRuns port && decide (f.at_ + 4000 < s.now) then s.replay port else s
    | [] => s)

/-! ### Posted writes at the receiver (R417 to R419) -/

/-- Destination address of a WR. -/
def wrAddr (hdr : Nat) : Nat := bits hdr 38 42 * 64
/-- Payload bytes of a WR. -/
def wrBytes (hdr : Nat) : Nat := 64 * (bits hdr 32 6 + 1)

/-- The code of the first check that fails (Table 17-5); 0 for none. -/
def State.wrCheck (s : State) (p hdr : Nat) : Nat :=
  let dp := bits hdr 16 4
  let ac := bits hdr 20 12
  if !bit (s.getF F.chtPartLinks dp) p then 1
  else if !s.owned dp (wrAddr hdr) (wrBytes hdr) then 2
  else if bit hdr 12 && !(s.ownsArrival dp ac && bit (s.getF F.zlkArrcfgPorts ac) p) then 3
  else if bit hdr 13 && bits hdr 96 32 != s.getF F.zlkPgenGen (dp * 12 + p) then 4
  else 0

/-- WACKs go out in WID order: those of the finished writes at the head of the list (R419). -/
def State.flushWacks (s : State) (p : Nat) : State :=
  (s.mapPort p fun v =>
    let done := v.rx.takeWhile fun (r : RxWr) => r.fin
    { v with rx := v.rx.drop done.length, txWack := v.txWack ++ done.map fun r => 2 + r.code <<< 4 + r.wid <<< 8 }).serve p

/-- WR (R417): an UP port checks the next write of its buffer and performs or refuses it. -/
def execWr (port : Nat) (s : State) : Host.Outcome State Fault Refusal :=
  .next (match (s.port port).rxWr with
    | [] => s
    | l :: rest =>
      if !s.portRuns port then s
      else
        let hdr := leNat (l.headD [])
        let wid := bits hdr 80 16
        let code := s.wrCheck port hdr
        let data := ((l.drop 1).flatMap fun x => x).take (wrBytes hdr)
        let e : RxWr := ⟨wid, hdr, data, if code != 0 then code else if bit hdr 14 then 5 else 0, code != 0⟩
        let t := s.mapPort port fun v => { v with rxWr := rest, rx := v.rx ++ [e], returns := v.returns.set 0 (v.returns.getD 0 0 + wrSlots hdr) }
        let t := if code = 0 then t
          else (t.bumpSat F.zlkCnt1Rxref port 1).record { cls := 0x1A, sev := 0, kind := 4, unit := port, sub := 0xFF, addr := wrAddr hdr, syn := wid + code <<< 16 }
        t.flushWacks port)

/-- WR_PERFORMED (R418): every burst of the checked write with identifier `wid` is performed at device scope; its bytes are counted and its
WACK is due. -/
def execWrPerformed (port wid : Nat) (s : State) : Host.Outcome State Fault Refusal :=
  .next (match (s.port port).rx.find? fun r => r.wid == wid && !r.fin with
    | none => s
    | some r =>
      if !s.running then s
      else
        let t := if bit r.hdr 14 then s.poisonBytes (wrAddr r.hdr) 64 else s.writeBytes (wrAddr r.hdr) r.data
        let ac := bits r.hdr 20 12
        let t := if bit r.hdr 12 then (t.bump F.zlkArrCount ac (wrBytes r.hdr)).latchWaits else t
        let t := t.mapPort port fun v =>
          { v with rx := if s.portUp port then v.rx.map fun x => if x = r then { x with fin := true } else x else v.rx.filter (· != r) }
        t.flushWacks port)

/-- WACK (R419): an UP port matches the next write acknowledgement to its write. -/
def execWack (port : Nat) (s : State) : Host.Outcome State Fault Refusal :=
  .next (if s.portRuns port && !(s.port port).rxWack.isEmpty then (s.takeWack port).serve port else s)

/-! ### Lanes (R415) -/

/-- LANE_FAULT (R415): the receiver of an UP port finds a lane faulty and asks for the sound half; a faulty lane in each half loses the
link. -/
def execLaneFault (port lane : Nat) (s : State) : Host.Outcome State Fault Refusal :=
  .next (let old := s.getF F.zlkPstatFaulty port
    if !s.portUp port || 8 ≤ lane || bit old lane then s
    else
      let m := old + 2 ^ lane
      let t := s.setF F.zlkPstatFaulty port m
      if bothHalves m then t.loseLink port
      else if old != 0 then t
      else
        let d := if lane < 4 then 2 else 1
        let t := t.record { cls := 0x19, sev := 2, kind := 4, unit := port, sub := lane, syn := m }
        (t.mapPort port fun v => { v with dgr := d }).sendBare port 0 d)

/-- WIDTH_CHANGE (R415): a control flit with a width request arrives at an UP port: the answer to this side's own request, or the peer's.
[Log 56 DEDUCED] -/
def execWidthChange (port : Nat) (flit : List Byte) (fecBad : Bool) (sym unc : Nat) (s : State) : Host.Outcome State Fault Refusal :=
  .next (let d := flitField flit 34 2
    if !s.portRuns port || flitField flit 60 4 != 3 || d = 0 then s
    else
      let s := s.fecCount port sym unc
      if !(s.port port).good flit fecBad then (s.bump F.zlkCnt0Damaged port 1).openGap port
      else
        let t := s.takeHeader port flit
        if (t.port port).dgr = d then (t.mapPort port fun v => { v with dgr := 0 }).setWidth port d
        else t.widthAsked port d)

/-! ### Training (R407, R431) -/

/-- The port trains. -/
def State.training (s : State) (p : Nat) : Bool := decide (p < 12) && (s.getF F.zlkPstatState p == 2 || s.getF F.zlkPstatState p == 4)

/-- TRAINING_STEP_TIMEOUT (R407): step `step` of a port's training passes its limit, and training starts again from step 1.
[Log 3 DESIGN CHOICE; 59 DEDUCED] -/
def execTrainingStepTimeout (port _step : Nat) (s : State) : Host.Outcome State Fault Refusal :=
  .next (if s.training port then s.mapPort port fun v => { v with step := 1 } else s)

/-- What step 4 brings and steps 1 to 3 found: the peer's serial, port, ROLE, REACH and EVTNO; lanes that failed, which narrow the port as a lane
that fails later does (R407, R415), lane order reversed, lanes inverted (Tables 17-2, 17-10). [Log 57 DESIGN CHOICE; 59 DEDUCED] -/
def State.linkUp (s : State) (p serial peer evt faulty : Nat) (rev : Bool) (pol : Nat) : State :=
  let back := s.getF F.zlkPstatState p == 4
  let same := s.getF F.zlkNbrNbrserial p == serial
  let ev := lo32 (max (s.getF F.zlkPstatEvtno p) evt + 1)
  let s := (s.setF F.zlkPstatEvtno p ev).setWidth p (if faulty = 0 then 3 else if faulty < 16 then 2 else 1)
  let s := ((s.setF F.zlkPstatFaulty p faulty).setF F.zlkPstatLanerev p (b2n rev)).setF F.zlkPstatPolinv p pol
  let s := (s.setF F.zlkNbrNbrserial p serial).setF F.zlkNbrNbrport p peer
  let v := s.port p
  let s := s.setPort p { Port.fresh with step := 5, since := s.now, credits := [4096, 256, 64], wid := v.wid, rx := v.rx.filter fun r => !r.fin }
  let s := s.setF F.zlkPstatState p 3
  let s := if faulty = 0 then s
    else s.record { cls := 0x19, sev := 2, kind := 4, unit := p, sub := ((List.range 8).find? fun l => bit faulty l).getD 0, syn := faulty }
  let s := if back then s.linkEvent p 0xFFF 0xFFF true else s
  if same && s.arch.broke.contains p then
    let s := s.setArch { s.arch with broke := s.arch.broke.filter (· != p) }
    if s.arch.parent = some p then s.sendSb p 0x02 (Config.serial.toNat <<< 32 + (p * 16 + peer + 0xFFFF00) <<< 96) else s
  else s

/-- LINK_UP (R407, R408): training of a port ends. A peer of another ROLE or REACH, or a failed lane in each half, keeps it training.
[Log 5 DESIGN CHOICE; 59 DEDUCED] -/
def execLinkUp (port serial peer role reach evt faulty : Nat) (rev : Bool) (pol : Nat) (s : State) : Host.Outcome State Fault Refusal :=
  .next (if s.training port && s.getF F.zlkPcfgRole port == role && s.getF F.zlkPcfgReach port == reach && !bothHalves faulty && decide (faulty < 256)
    then s.linkUp port serial peer evt faulty rev pol else s)

/-- RETRAIN_LIMIT (R431): a port has retrained for RETRYLIM ms. [Log 3 DESIGN CHOICE; 59 DEDUCED] -/
def execRetrainLimit (port : Nat) (s : State) : Host.Outcome State Fault Refusal :=
  .next (let lim := s.getF F.zlkPcfgRetrylim port
    if port < 12 && s.getF F.zlkPstatState port == 4 && lim != 0 && decide ((s.port port).since + lim * 1000000 ≤ s.now) then s.setF F.zlkPstatState port 5
    else s)

/-- RETRAIN (R407): an access writes `v` to ZLK_PCTL of a port; an UP port first takes the loss steps. A port that is ABSENT or DISABLED does
not train. [Log 59 DEDUCED] -/
def execRetrain (acr : Acr) (port v : Nat) (s : State) : Host.Outcome State Fault Refusal :=
  .next (s.forDevice acr fun s =>
    if v != 1 || 12 ≤ port then s
    else
      let st := s.getF F.zlkPstatState port
      if st = 3 then s.loseLink port
      else if st < 2 then s
      else (s.setF F.zlkPstatState port (if st = 5 then 4 else st)).mapPort port fun w => { w with step := 1, since := s.now })

/-! ### Eye scan (R432) -/

/-- EYE_SCAN (R432): an access writes `v` to ZLK_EYECTL. [Log 60 DESIGN CHOICE] -/
def execEyeScan (acr : Acr) (v : Nat) (s : State) : Host.Outcome State Fault Refusal :=
  .next (s.forDevice acr fun s =>
    let tgt := bits v 11 4
    if !bit v 31 || bits v 15 16 != 0 || bits v 0 4 != 0 then s
    else if s.flag F.zlkEyeresBusy 0 then s.setF F.zlkEyeresStatus 0 0xA1
    else if tgt < 6 || 12 < tgt || 11 < bits v 7 4 then s.setF F.zlkEyeresStatus 0 0xA2
    else s.setF F.zlkEyeresBusy 0 1)

/-- EYE_SCAN_COMPLETE (R432): the running scan ends with the eye's inner height in mV and width in 1/64 UI. -/
def execEyeScanComplete (height width : Nat) (s : State) : Host.Outcome State Fault Refusal :=
  .next (if s.flag F.zlkEyeresBusy 0 then
      (((s.setF F.zlkEyeresBusy 0 0).setF F.zlkEyeresStatus 0 0).setF F.zlkEyeresHeight 0 height).setF F.zlkEyeresWidth 0 width
    else s)

end Sys2Proof.Machine
end

