-- ==== Sys2Proof/Machine/Power.lean ====
section
/-!
DEFINITION. Machine/Power.lean: power requests (R472, R473) and the power controller (R480 to R488): frequencies under the cap, throttle reasons,
sensors, the slope limit.
-/
namespace Sys2Proof.Machine

/-! ### The sequencer (R472, R473) -/

/-- Highest phase up. -/
def State.phase (s : State) : Nat := s.getF F.hbmPwrstatPhase 0

/-- Set the sequencer. -/
def State.setSeqr (s : State) (q : Sequencer) : State := { s with seqr := q }

/-- The highest phase that the device may reach now: 6 in board test (R578), 3 in recovery (R462), else 7. -/
def State.topPhase (s : State) : Nat :=
  if s.pins.boardTest then 6 else if s.phase = 3 && s.flag F.hbmBootstatRecovery 0 then 3 else 7

/-- An amendment applies (Table 19-10). -/
def State.applying (s : State) : Bool := s.getF F.chtAmdst2State 0 == 2

/-- Start to run in a direction, when the device rests short of its end. Phase 7 does not run down while an amendment applies (R473). -/
def State.runPhases (s : State) (up : Bool) : State :=
  if (up && decide (s.phase < s.topPhase)) || (!up && decide (0 < s.phase) && !s.applying) then
    (s.setSeqr { s.seqr with moving := true }).setF F.hbmPwrstatDir 0 (b2n up)
  else s

/-- A power request sets the direction at the next phase boundary, or at once when the device rests (R472, R473); sources as SRC of Table
19-12. -/
def State.requestPower (s : State) (on : Bool) (src : Nat) : State :=
  let t := (s.setSeqr { s.seqr with want := on }).setF F.hbmPwrstatSrc 0 src
  if t.seqr.moving then t else t.runPhases on

/-- Set the power controller. -/
def State.setPower (s : State) (p : Power) : State := { s with power := p }

/-- Set throttle reason `n` (Table 20-3). -/
def State.setReason (s : State) (n : Nat) (b : Bool) : State :=
  let r := s.getF F.pwrThrReason 0
  s.setF F.pwrThrReason 0 (r - (if bit r n then 2 ^ n else 0) + (if b then 2 ^ n else 0))

/-! ### Frequencies (R480, R481) -/

/-- Set-point of an island rail at a frequency, in mV (R480). -/
def State.vOf (s : State) (f : Nat) : Nat := s.getF F.pwrVfVmv f

/-- An island goes to a frequency: a lowering switches at once, a raise waits for its rail ramp (R481). [Log 64 DEDUCED] -/
def State.applyFreq (s : State) (i f : Nat) : State :=
  let cur := s.getF F.pwrIslandFreq i
  let s := s.setPower { s.power with raise_ := tset (fun _ => 0) s.power.raise_ i (if cur < f then f else 0) }
  if f < cur then (s.setF F.pwrIslandFreq i f).setF F.pwrIslandVmv i (s.vOf f) else s

/-- CLOCK_SWITCH (R481): the rail ramp of a raise is complete, and the island's clock switches. -/
def execClockSwitch (island : Nat) (s : State) : Host.Outcome State Fault Refusal :=
  .next (let f := tget (fun _ => 0) s.power.raise_ island
    if f = 0 then s
    else
      let t := s.setPower { s.power with raise_ := tset (fun _ => 0) s.power.raise_ island 0 }
      (t.setF F.pwrIslandVmv island (t.vOf f)).setF F.pwrIslandFreq island f)

/-- A reason that a computation leaves out. -/
inductive Without where
  | none | cap | thermal | current | group | external
  deriving DecidableEq, Repr

/-- This device is a member of a frequency group of its formed archipelago (R489). -/
def State.inGroup (s : State) : Bool := s.getF F.zlkArchState 0 == 2 && s.getF F.pwrFgrpGroup 0 != 0

/-- Thermal limit of an island. -/
def State.thermLim (s : State) (i : Nat) : Nat := s.power.thermF.getD i 36
/-- Current limit of an island. -/
def State.currLim (s : State) (i : Nat) : Nat := s.power.currF.getD i 36
/-- External limit (Table 20-3). -/
def State.extLim (s : State) : Nat := if s.pins.extLow then s.getF F.pwrCfgExtfreq 0 else 36

/-- The highest frequency of an island that every reason except cap allows, less one that is left out (R480, R484, R488). -/
def State.allowed (s : State) (w : Without) (i : Nat) : Nat :=
  let th := if w = .thermal then 36 else s.thermLim i
  let cu := if w = .current then 36 else s.currLim i
  let ex := if w = .external then 36 else s.extLim
  let fixed := s.flag F.pwrOpfixFixed 0
  let cool := decide (toInt 8 (s.getF F.pwrIslandTj i) + 10 ≤ (s.getF F.pwrCfgTjthr 0 : Int))
  let base := if fixed then s.getF F.pwrOpfixFreq 0 else if cool && th == 36 && cu == 36 && ex == 36 then 36 else 32
  let gr := if w = .group || fixed || !s.inGroup then 36
    else if s.flag F.pwrFgrpGlost 0 then min (s.getF F.pwrFgrpGf 0) (s.getF F.pwrIslandFreq i) else s.getF F.pwrFgrpGf 0
  min base (min (min th cu) (min ex gr))

/-! ### Prediction (R483, R484) -/

/-- Index of a key in the learned table. -/
def learnIx (key : List Byte) : Nat := crc32 key % 4096

/-- The key of a command. -/
def State.learnKey (s : State) (c : Cmd) : List Byte := leBytes 1 (s.partOf c.ctx) ++ leBytes 2 c.layer ++ leBytes 2 c.oper

/-- The learned dynamic power per busy cluster, in mW; 500 for an absent key. -/
def State.learned (s : State) (key : List Byte) : Nat :=
  let e := tget (fun _ => ([], 0)) s.power.table (learnIx key)
  if e.1 = key then e.2 else 500

/-- A completed command's measured power `x` in mW updates the entry of its key. -/
def State.learn (s : State) (key : List Byte) (x : Nat) : State :=
  let p := s.learned key
  s.setPower { s.power with table := tset (fun _ => ([], 0)) s.power.table (learnIx key) (key, ((p : Int) + ((x : Int) - p) / 8).toNat) }

/-- Σ n·p of the commands of an island: their parts there that have not reported. -/
def State.dynOf (s : State) (i : Nat) : Nat :=
  sumOf (s.cmds.map fun c => if c.st = .issued then (c.parts.filter fun p => clusterIsland p.cluster == i && !p.reported).length * s.learned (s.learnKey c) else 0)

/-- 20,480,000 times the predicted power of an island in mW at a frequency (R483): 32 steps of 50 MHz make 1.6 GHz, and 0.80 V is 800 mV. -/
def State.predict (s : State) (leak : List Nat) (dyn : List Nat) (i f : Nat) : Nat :=
  dyn.getD i 0 * f * s.vOf f * s.vOf f + leak.getD i 0 * s.vOf f * 25600

/-- The island, of those above 0.40 GHz, with the largest predicted power; ties go to the lower number. [Log 64 DEDUCED] -/
def hottest (p : Nat → Nat) (f : List Nat) : Option Nat :=
  ((List.range 4).filter fun i => 8 < f.getD i 8).foldl (fun a i => match a with
    | none => some i
    | some j => if p j < p i then some i else a) none

/-- Lower frequencies until the prediction fits `b` (R484); `fuel` bounds the steps. [Log 64 DEDUCED] -/
def State.fit (s : State) (leak dyn : List Nat) (b : Int) : (fuel : Nat) → List Nat → List Nat
  | 0, f => f
  | k + 1, f =>
    let p := fun i => s.predict leak dyn i (f.getD i 8)
    if (sumOf ((List.range 4).map p) : Int) ≤ b then f
    else match hottest p f with
      | some j => s.fit leak dyn b k (f.set j (f.getD j 8 - 1))
      | none => f

/-- The island frequencies (R484), with `b` the power left for the islands in mW; an island that the cap holds does not boost (R480). [Log 64 DEDUCED] -/
def State.freqs (s : State) (w : Without) (leak dyn : List Nat) (b : Int) : List Nat :=
  let f := (List.range 4).map (s.allowed w)
  if w = .cap || s.flag F.pwrOpfixFixed 0 then f
  else List.zipWith (fun a g => if g < a && 32 < g then 32 else g) f (s.fit leak dyn (b * 20480000) 112 f)

/-- Some island would run faster without a reason. -/
def lowers (f without : List Nat) : Bool := (List.zipWith (fun a b => decide (a < b)) f without).any id

/-- One step of current limiting of an island (Table 20-3): `amps` is its rail's current. -/
def State.limitCurrent (s : State) (i amps : Nat) : State :=
  if !s.power.stretched.contains i then s
  else if 100 * amps < 95 * s.getF F.pwrCfgIccmax 0 then
    s.setPower { s.power with stretched := s.power.stretched.filter (· != i), currF := s.power.currF.set i 36 }
  else s.setPower { s.power with currF := s.power.currF.set i (max 8 (s.getF F.pwrIslandFreq i - 1)) }

/-- The control computation: frequencies, reasons, and what the device's own limits allow on every island (R484, R486, R490). [Log 64 DEDUCED] -/
def State.control (s : State) (harbour : Nat) (leak : List Nat) : State :=
  let cap := 10000 * s.getF F.pwrCapCap 0
  let b := (cap : Int) - harbour - (cap / 50 : Nat)
  let dyn := (List.range 4).map s.dynOf
  let go := fun w => s.freqs w leak dyn b
  let f := go .none
  let own := go .group
  let s := s.setPower { s.power with allow := own.foldl min 36 }
  let s := ((s.setReason 0 (lowers f (go .cap))).setReason 1 (lowers f (go .thermal))).setReason 2 (lowers f (go .current) || !s.power.stretched.isEmpty)
  let s := (s.setReason 4 (s.inGroup && decide (s.getF F.pwrFgrpGf 0 < s.power.allow) && !s.flag F.pwrOpfixFixed 0)).setReason 6 (lowers f (go .external))
  (List.range 4).foldl (fun (t : State) i => t.applyFreq i (f.getD i 8)) s

/-- POWER_CONTROL_STEP (R482 to R484): with what the sensors measure: harbour-die power in mW, leakage of each island in mW at 0.80 V, rail
currents in A, the power of commands completed since the last step by key, package power in W and energy since the last step in mJ.
[Log 5 DESIGN CHOICE] -/
def execPowerControlStep (harbour : Nat) (leak amps : List Nat) (done : List (List Byte × Nat)) (pkgw mj : Nat) (s : State) :
    Host.Outcome State Fault Refusal :=
  .next (if s.phase < 4 then s
    else
      let t := done.foldl (fun (t : State) (e : List Byte × Nat) => t.learn e.1 e.2) s
      let t := (t.setF F.pwrPowerPkgw 0 pkgw).bump F.pwrPowerEnergy 0 mj
      let t := (List.range 4).foldl (fun (t : State) i => t.limitCurrent i (amps.getD i 0)) t
      t.control harbour leak)

/-! ### Reasons that act at once (R486) -/

/-- CURRENT_TRIP (R486): an island rail's current is above ICCMAX: its clock is stretched, and a raise under way is abandoned. -/
def execCurrentTrip (island : Nat) (s : State) : Host.Outcome State Fault Refusal :=
  .next (if 4 ≤ island || s.power.stretched.contains island then s
    else (s.setPower { s.power with stretched := s.power.stretched ++ [island], raise_ := tset (fun _ => 0) s.power.raise_ island 0,
                                    currF := s.power.currF.set island (s.getF F.pwrIslandFreq island) }).setReason 2 true)

/-- EXTTHR_N_FALL (R486): every island goes to EXTFREQ or lower. -/
def execExtthrNFall (s : State) : Host.Outcome State Fault Refusal :=
  .next (let t : State := { s with pins := { s.pins with extLow := true } }
    let e := t.getF F.pwrCfgExtfreq 0
    let t := t.setReason 6 ((List.range 4).any fun i => decide (e < t.getF F.pwrIslandFreq i))
    (List.range 4).foldl (fun (t : State) i => t.applyFreq i (min e (t.getF F.pwrIslandFreq i))) t)

/-- EXTTHR_RELEASE (R486): EXTTHR_N has been high for 1 ms; the next control step raises. -/
def execExtthrRelease (s : State) : Host.Outcome State Fault Refusal :=
  .next (({ s with pins := { s.pins with extLow := false } } : State).setReason 6 false)

/-- The hottest of a list of sensors. -/
def hotOf (l : List Int) : Int := l.foldl max (l.headD 0)

/-- The thermal reason of an island after a reading (Table 20-3): it falls by 50 MHz while a sensor is above TJTHR. [Log 64 DEDUCED] -/
def State.thermStep (s : State) (i : Nat) (tj : Int) : State :=
  let s := s.setF F.pwrIslandTj i (ofInt 8 tj)
  if (s.getF F.pwrCfgTjthr 0 : Int) < tj then
    let f := max 8 (s.getF F.pwrIslandFreq i - 1)
    (s.setPower { s.power with thermF := s.power.thermF.set i f }).applyFreq i (min f (s.getF F.pwrIslandFreq i))
  else s.setPower { s.power with thermF := s.power.thermF.set i 36 }

/-- First sensor that reaches a temperature. [Log 65 DEDUCED] -/
def sensorAt (l : List Int) (t : Int) : Option Nat := (l.zipIdx.find? fun e => t ≤ e.1).map (·.2)

/-- SENSOR_READ (R486, R487): the readings of the 16 sensors of each island and of the 8 of the harbour die, in °C. [Log 5 DESIGN CHOICE; 65 DEDUCED] -/
def execSensorRead (readings : List Int) (s : State) : Host.Outcome State Fault Refusal :=
  .next (
    let l := (readings ++ List.replicate 72 0).take 72
    let t := s.setPower { s.power with sensors := l }
    let t := (List.range 4).foldl (fun (t : State) i => t.thermStep i (hotOf ((l.drop (16 * i)).take 16))) t
    let t := t.setReason 1 ((List.range 4).any fun i => t.thermLim i < 36)
    let t := if t.pins.thermtrip && l.all (· < 95) then ({ t with pins := { t.pins with thermtrip := false } } : State).emit (.pin 0 true) else t
    let rising := fun (u : State) => match sensorAt l 125 with
      | some n =>
        if u.pins.thermtrip || u.phase = 0 then u
        else ((({ u with pins := { u.pins with thermtrip := true } } : State).emit (.pin 0 false)).fatal 0x41 7 9 n).requestPower false 3
      | none => u
    match sensorAt l 115 with
    | some n => if t.power.hot || t.phase = 0 then rising t else rising (((t.setPower { t.power with hot := true }).fatal 0x40 7 9 n).requestPower false 3)
    | none => t.setPower { t.power with hot := false })

/-! ### The slope limit (R485) -/

/-- 1/32 of full activity, in units of 2^−16. -/
def slopeStep : Nat := 2048

/-- The activity of a cluster over the next µs: what its work would give, within 1/32 of the last. -/
def slopeTo (a want : Nat) : Nat := max (a - slopeStep) (min want (a + slopeStep))

/-- SLOPE_TICK (R485): a µs passes; `work` gives the activity that each cluster's work would have, in 2^−16, 0 for those not listed. [Log 64 DEDUCED] -/
def execSlopeTick (work : List (Nat × Nat)) (s : State) : Host.Outcome State Fault Refusal :=
  .next (
    let want := fun cl => ((work.find? fun e => e.1 == cl).map (·.2)).getD 0
    let cls := (s.clusters.map (·.1) ++ work.map (·.1)).eraseDups
    let held := cls.any fun cl => decide ((s.cluster cl).act + slopeStep < want cl)
    (cls.foldl (fun (t : State) cl => t.setCluster cl { t.cluster cl with act := slopeTo (t.cluster cl).act (want cl) }) s).setReason 3 held)

/-! ### PWR_CAP (R482) -/

/-- PWR_CAP (R482): an access writes `v`; CAP stays within 60 and CAPMAX. -/
def execPwrCap (acr : Acr) (v : Nat) (s : State) : Host.Outcome State Fault Refusal :=
  .next (s.forDevice acr fun s => s.setF F.pwrCapCap 0 (min (s.getF F.pwrCapCapmax 0) (max 60 (bits v 0 11))))

end Sys2Proof.Machine
end

