-- ==== Sys2Proof/Machine/Arch.lean ====
section
/-!
DEFINITION. Machine/Arch.lean: archipelagos: formation (R425 to R428), frequency groups (R489 to R491), the timebase sweep and the rate trim
(R492 to R497), and the timebase itself.
-/
namespace Sys2Proof.Machine

/-! ### Formation (R426 to R428) -/

/-- The election key of this device (R426). -/
def State.archKey (s : State) : Nat :=
  let p := s.getF F.zlkArchcfgLeadprio 0
  if p = 0 then 0 else p <<< 56 + Config.serial.toNat

/-- Set STATE and STATUS of ZLK_ARCH. -/
def State.archState (s : State) (st status : Nat) : State := (s.setF F.zlkArchState 0 st).setF F.zlkArchStatus 0 status

/-- The device takes part in a formation: FORMING, its own key as the best; a running sweep is abandoned (R426, Table 20-18). [Log 61 DEDUCED] -/
def State.startForm (s : State) : State :=
  let t := ((s.archState 1 0).setF F.zlkArchLead 0 0).setF F.tmbAlignSweeping 0 0
  t.setArch { t.arch with best := t.archKey, bestAt := t.now, ended := false, parent := none, children := [], formMax := t.getF F.zlkArchFormno 0,
                          replies := 0, fg := [], timer := none, align := [], owed := [], hop := none, bad := false, trimT1 := none }

/-- FORM (R426): an access writes `v` to ZLK_ARCHCTL; refused while a formation runs. -/
def execForm (acr : Acr) (v : Nat) (s : State) : Host.Outcome State Fault Refusal :=
  .next (s.forDevice acr fun s =>
    if v != 1 then s else if s.getF F.zlkArchState 0 = 1 then s.setF F.zlkArchStatus 0 0xA1 else s.startForm)

/-- The election of a forming device has not ended. -/
def State.electing (s : State) : Bool := s.getF F.zlkArchState 0 == 1 && !s.arch.ended

/-- ELECTION_TICK (R426): every 10 µs the device sends its best key on each UP ARCH port. -/
def execElectionTick (s : State) : Host.Outcome State Fault Refusal :=
  .next (if s.electing then
      ((List.range 12).filter s.archPort).foldl (fun (t : State) p => t.sendSb p 0x01 (t.arch.best <<< 32 + t.arch.formMax <<< 112)) s
    else s)

/-- ELECT (R426): a message of a port with another device's best key; a device that forms nothing joins. [Log 61 DEDUCED] -/
def execElect (port : Nat) (s : State) : Host.Outcome State Fault Refusal :=
  .next (match s.takeSb port 0x01 with
    | none => s
    | some (m, _, t) =>
      let t := if t.getF F.zlkArchState 0 = 1 then t else t.startForm
      let k := bits m 32 64
      let t := t.setArch { t.arch with formMax := max t.arch.formMax (bits m 112 16) }
      if t.electing && decide (t.arch.best < k) then t.setArch { t.arch with best := k, bestAt := t.now, parent := some port } else t)

/-- The connected ARCH ports with their neighbour ports. -/
def State.connected (s : State) : List (Nat × Nat) := ((List.range 12).filter s.archPort).map fun p => (p, s.getF F.zlkNbrNbrport p)

/-- TOPO bodies of this device: its serial and up to three ports in each; an unused place holds 0xFF. [Log 61 DEDUCED] -/
def topoBodies (serial : Nat) (l : List (Nat × Nat)) : List Nat :=
  (List.range (max 1 (cdiv l.length 3))).map fun k =>
    let ps := (l.drop (3 * k)).take 3
    serial <<< 32 + sumOf ((List.range 3).map fun i => (((ps[i]?).map fun e => e.1 * 16 + e.2).getD 0xFF) <<< (96 + 8 * i))

/-- ELECTION_END (R426, R427): the best key has not changed for 5 ms: without a key formation fails; the device whose key is the best is the
lead; any other sends its TOPO messages to its parent. A lead without a neighbour has no topology. -/
def execElectionEnd (s : State) : Host.Outcome State Fault Refusal :=
  .next (if !s.electing || decide (s.now < s.arch.bestAt + 5000000) then s
    else if s.arch.best = 0 then s.archState 3 0xA0
    else
      let t := s.setArch { s.arch with ended := true }
      if s.arch.best = s.archKey then (if t.connected.isEmpty then t.archState 3 0x9F else t.setF F.zlkArchLead 0 1)
      else match s.arch.parent with
        | some p => (topoBodies Config.serial.toNat t.connected).foldl (fun (t : State) b => t.sendSb p 0x02 b) t
        | none => t)

/-- What the lead has gathered: for each device, in the order of Table 17-8 where the adjacency has one, the port of the lead that leads to
it and its ports with the device at the other end of each. -/
abbrev TopoMap := List (Nat × List (Nat × Nat))

/-- Neighbours of device `i`, without repeats. -/
def nbrsOf (m : TopoMap) (i : Nat) : List Nat := (((m.getD i (0, [])).2.map (·.2)).eraseDups).filter (· != i)

/-- Two places of a topology are neighbours: ring, chain, torus (R425, Table 17-16). -/
def adjacent (topo nx ny a b : Nat) : Bool :=
  if topo = 0 then (a + 1) % nx == b || (b + 1) % nx == a
  else if topo = 1 then a + 1 == b || b + 1 == a
  else
    let near := fun (x y n : Nat) => (x + 1) % n == y || (y + 1) % n == x
    (a / nx == b / nx && near (a % nx) (b % nx) nx) || (a % nx == b % nx && near (a / nx) (b / nx) ny)

/-- The neighbour at the lead's lowest connected port, and at its next one that is not in `skip`. -/
def firstDir (m : TopoMap) (me : Nat) (skip : List Nat) : Option Nat :=
  ((m.getD me (0, [])).2.foldl (fun (a : Option (Nat × Nat)) e =>
    if skip.contains e.2 then a
    else match a with
      | none => some e
      | some b => if e.1 < b.1 then some e else a) none).map (·.2)

/-- The map is exactly the charter's topology in the numbering of Table 17-8, with the lead at place `me`. [Log 61 DEDUCED] -/
def topoOk (topo nx ny me : Nat) (m : TopoMap) : Bool :=
  let n := if topo = 2 then nx * ny else nx
  m.length == n && decide (me < n) &&
    (List.range n).all (fun a => (List.range n).all fun b => a == b || (nbrsOf m a).contains b == adjacent topo nx ny a b) &&
    (if topo = 1 then
      if (nbrsOf m me).length ≤ 1 then me == 0 else firstDir m me [] == some (me - 1)
    else me == 0 && firstDir m 0 [] == some 1 && (topo != 2 || firstDir m 0 [1, nx - 1] == some nx))

/-- The NUMBER message of a device, sent on the port that leads to it (R428). -/
def State.sendNumber (s : State) (p num formno : Nat) : State :=
  s.sendSb p 0x03 (num <<< 32 + s.getF F.zlkArchcfgNx 0 <<< 48 + s.getF F.zlkArchcfgNy 0 <<< 64 + s.getF F.zlkArchcfgTopo 0 <<< 80 + formno <<< 112)

/-- Set the outcome of numbering: DEVNUM, NDEV, FORMNO, FORMED. -/
def State.setNumber (s : State) (num n formno : Nat) : State :=
  let t := s.setArch { s.arch with leadAt := s.now }
  (((t.setF F.zlkArchDevnum 0 num).setF F.zlkArchNdev 0 n).setF F.zlkArchFormno 0 formno).archState 2 0

/-- The lead numbers the devices (R427, R428). -/
def State.number (s : State) (me : Nat) (m : TopoMap) : State :=
  let fo := (s.arch.formMax + 1) % 65536
  let fo := if fo = 0 then 1 else fo
  let t := s.setNumber me m.length fo
  let kids := ((m.zipIdx.filter fun e => e.2 != me).map fun e => e.1.1).eraseDups
  let old := t.arch.children
  let t := t.setArch { t.arch with replies := m.length - 1, children := kids.map fun p => (p, ((old.find? fun c => c.1 == p).map (·.2)).getD 0xFFFF) }
  m.zipIdx.foldl (fun (t : State) e => if e.2 = me then t else t.sendNumber e.1.1 e.2 fo) t

/-! ### The timebase sweep (R494, R495) -/

/-- An aligned device aligns its children, in ascending port order. -/
def State.alignChildren (s : State) : State :=
  let ps := (List.range 12).filter fun p => s.arch.children.any fun c => c.1 == p
  (s.setArch { s.arch with align := ps, owed := ps, hop := none }).nextHop

/-- Send a message to every child. -/
def State.toChildren (s : State) (kind body : Nat) : State := s.arch.children.foldl (fun (t : State) c => t.sendSb c.1 kind body) s

/-- The lead starts a sweep (R494). -/
def State.startSweep (s : State) : State :=
  let g := (s.getF F.tmbAlignAlgen 0 + 1) % 65536
  let g := if g = 0 then 1 else g
  let t := (((s.setF F.tmbAlignAlgen 0 g).setF F.tmbAlignAligned 0 1).setF F.tmbAlignErrns 0 0).setF F.tmbAlignSweeping 0 1
  let t := t.setArch { t.arch with algen := g, bad := false, timer := none, broke := [] }
  (t.toChildren 0x20 (g <<< 32)).alignChildren

/-- TMB_CTL_SWEEP (R494): an access writes `v` to TMB_CTL. -/
def execTmbCtlSweep (acr : Acr) (v : Nat) (s : State) : Host.Outcome State Fault Refusal :=
  .next (s.forDevice acr fun s =>
    if v != 1 then s
    else if s.getF F.zlkArchState 0 != 2 then s.setF F.tmbAlignStatus 0 0xC3
    else if !s.isLead then s.setF F.tmbAlignStatus 0 0xC2
    else if s.flag F.tmbAlignSweeping 0 then s.setF F.tmbAlignStatus 0 0xC1
    else s.startSweep)

/-- TOPO (R427): a device forwards another's TOPO to its parent, and counts the port as a child. At the lead, the message that completes the
gathering brings the map: the lead's place in it, and the map; a map that is not the charter's topology fails the formation. On a FORMED
archipelago a TOPO tells the lead that a broken hop is back, and it starts a sweep (R496). [Log 61 DEDUCED] -/
def execTopo (port : Nat) (map : Option (Nat × List (Nat × List (Nat × Nat)))) (s : State) : Host.Outcome State Fault Refusal :=
  .next (match s.takeSb port 0x02 with
    | none => s
    | some (m, _, t) =>
      let forming := t.getF F.zlkArchState 0 == 1
      let t := if forming && !t.arch.children.any (fun c => c.1 == port) then t.setArch { t.arch with children := t.arch.children ++ [(port, 0xFFFF)] } else t
      if !t.isLead then
        match t.arch.parent with
        | some p => t.forwardSb p m
        | none => t
      else if forming then
        match map with
        | none => t
        | some (me, l) =>
          if topoOk (t.getF F.zlkArchcfgTopo 0) (t.getF F.zlkArchcfgNx 0) (t.getF F.zlkArchcfgNy 0) me l then t.number me l else t.archState 3 0x9F
      else if t.getF F.zlkArchState 0 = 2 && !t.flag F.tmbAlignSweeping 0 then t.startSweep
      else t)

/-- NUMBER (R428): the message gives this device its number, or goes on to a child's subtree. [Log 61 DEDUCED] -/
def execNumber (port : Nat) (child : Option Nat) (s : State) : Host.Outcome State Fault Refusal :=
  .next (match s.takeSb port 0x03 with
    | none => s
    | some (m, _, t) =>
      match child with
      | some p => t.forwardSb p m
      | none =>
        let n := if bits m 80 2 = 2 then bits m 48 16 * bits m 64 16 else bits m 48 16
        (t.setNumber (bits m 32 16) n (bits m 112 16)).sendSb port 0x04 0)

/-- FORMED (R428): a reply goes on to the parent; at the lead the last one starts the timebase sweep. A reply that has made one hop tells
the child's number. [Log 61 DEDUCED] -/
def execFormed (port : Nat) (s : State) : Host.Outcome State Fault Refusal :=
  .next (match s.takeSb port 0x04 with
    | none => s
    | some (m, _, t) =>
      let t := if bits m 4 4 = 0 then
          t.setArch { t.arch with children := t.arch.children.map fun c => if c.1 = port then (port, bits m 16 16) else c }
        else t
      if !t.isLead then
        match t.arch.parent with
        | some p => t.forwardSb p m
        | none => t
      else
        let t := t.setArch { t.arch with replies := t.arch.replies - 1 }
        if t.arch.replies = 0 && s.arch.replies != 0 then t.startSweep else t)

/-- TBSTART (R494): forwarded to the children; the sweep runs here too, and its 50 ms timer starts. -/
def execTbstart (port : Nat) (s : State) : Host.Outcome State Fault Refusal :=
  .next (match s.takeSb port 0x20 with
    | none => s
    | some (m, _, t) =>
      let t := t.arch.children.foldl (fun (t : State) c => t.forwardSb c.1 m) t
      let t := t.setF F.tmbAlignSweeping 0 1
      t.setArch { t.arch with algen := bits m 32 16, timer := some (t.now + 50000000), bad := false, align := [], owed := [], hop := none, broke := [] })

/-- TBPROBE (R494): answered with the probe's reception stamp; the reply takes t3 − t2 as it leaves. -/
def execTbprobe (port : Nat) (s : State) : Host.Outcome State Fault Refusal :=
  .next (match s.takeSb port 0x21 with
    | none => s
    | some (_, t2, t) => t.sendSb port 0x22 (t2 <<< 32))

/-- Round trip less the child's own time, and the correction of the child: minus its offset (R494). [Log 62 DEDUCED] -/
def round (t1 t2 d t4 : Int) : Int × Int := ((t4 - t1) - d, -(((t2 - t1) + (t2 + d - t4)) / 2))

/-- The best of the rounds: the first with the smallest round trip. -/
def bestRound (a : Option (Nat × Int)) (r : Int × Int) : Option (Nat × Int) :=
  match a with
  | some b => if r.1 < (b.1 : Int) then some (r.1.toNat, r.2) else a
  | none => some (r.1.toNat, r.2)

/-- The rate trim moves by one step of 2^−32 against the measured offset, within 200 ppm (R497). [Log 62 DEDUCED] -/
def trimTo (trim off : Int) : Int :=
  let t := if 0 < off then trim - 1 else if off < 0 then trim + 1 else trim
  max (-858993) (min 858993 t)

/-- TBREPLY (R494, R497): it ends a round of the running hop; after the 16th the child is set. From the parent it ends a trim round. [Log 62 DEDUCED] -/
def execTbreply (port : Nat) (s : State) : Host.Outcome State Fault Refusal :=
  .next (match s.takeSb port 0x22 with
    | none => s
    | some (m, t4, t) =>
      let r := fun (t1 : Nat) => round t1 (bits m 32 64) (bits m 96 32) t4
      match t.arch.hop with
      | some h =>
        match (if h.port = port then h.t1 else none) with
        | some t1 =>
          let b := bestRound h.best (r t1)
          if h.round + 1 < 16 then (t.setArch { t.arch with hop := some { h with round := h.round + 1, misses := 0, best := b } }).probe
          else
            let w := b.getD (0, 0)
            let t := t.setArch { t.arch with hop := none }
            (t.sendSb port 0x23 (ofInt 64 w.2 <<< 32 + t.getF F.tmbAlignAlgen 0 <<< 96 + ((t.getF F.tmbAlignErrns 0 + 8 + w.1 / 8) % 65536) <<< 112)).nextHop
        | none => t
      | none =>
        match (if t.arch.parent = some port then t.arch.trimT1 else none) with
        | some t1 => t.setArch { t.arch with trimT1 := none, trim := trimTo t.arch.trim (r t1).2 }
        | none => t)

/-- TBPROBE_RETRY (R494): the reply to the running probe is 100 µs overdue; the third miss breaks the hop. -/
def execTbprobeRetry (s : State) : Host.Outcome State Fault Refusal :=
  .next (match s.arch.hop with
    | some h =>
      match h.t1 with
      | some t1 =>
        if s.now < t1 + 100000 then s
        else if 2 ≤ h.misses then (s.breakAt h.port).nextHop
        else (s.setArch { s.arch with hop := some { h with misses := h.misses + 1 } }).probe
      | none => s
    | none => s)

/-- TBSET (R494): the parent's correction: the timebase steps, the device is aligned and aligns its children. -/
def execTbset (port : Nat) (s : State) : Host.Outcome State Fault Refusal :=
  .next (match s.takeSb port 0x23 with
    | none => s
    | some (m, _, t) =>
      let g := bits m 96 16
      let t := t.setF F.tmbNowNs 0 (ofInt 64 (t.now + toInt 64 (bits m 32 64)))
      let t := ((t.setF F.tmbAlignAlgen 0 g).setF F.tmbAlignAligned 0 1).setF F.tmbAlignErrns 0 (bits m 112 16)
      (t.setArch { t.arch with algen := g, timer := none }).alignChildren)

/-- TBDONE (R495): a child's subtree is complete, or the sweep broke in it; a break goes on to the parent, and the lead notes it. -/
def execTbdone (port : Nat) (s : State) : Host.Outcome State Fault Refusal :=
  .next (match s.takeSb port 0x24 with
    | none => s
    | some (m, _, t) =>
      let t := t.setArch { t.arch with owed := t.arch.owed.filter (· != port) }
      let t := if bit m 48 then t
        else
          let t := t.setArch { t.arch with bad := true }
          if t.isLead then t.setF F.tmbAlignStatus 0 0xC0
          else match t.arch.parent with
            | some p => t.forwardSb p m
            | none => t
      t.nextHop)

/-- SWEEP_TIMER_EXPIRY (R495): no TBSET came within 50 ms: not aligned; offset and ALGEN stay. [Log 3 DESIGN CHOICE] -/
def execSweepTimerExpiry (s : State) : Host.Outcome State Fault Refusal :=
  .next (match s.arch.timer with
    | some e =>
      if s.now < e then s
      else ((s.setF F.tmbAlignAligned 0 0).setF F.tmbAlignSweeping 0 0).setArch { s.arch with timer := none }
    | none => s)

/-- RATE_TRIM_PROBE (R497): between sweeps an aligned device probes its parent. -/
def execRateTrimProbe (s : State) : Host.Outcome State Fault Refusal :=
  .next (match s.arch.parent with
    | some p => if s.flag F.tmbAlignAligned 0 && !s.flag F.tmbAlignSweeping 0 then (s.setArch { s.arch with trimT1 := none }).sendSb p 0x21 0 else s
    | none => s)

/-! ### Frequency groups (R489 to R491) -/

/-- Reports of the last 3 ms. -/
def State.recent (s : State) : List (Nat × Nat × Nat) := s.arch.fg.filter fun e => decide (s.now ≤ e.2.2 + 3000000)

/-- This device leads its group: it is a member, and no member with a lower number is heard (R489). -/
def State.leadsGroup (s : State) : Bool := s.inGroup && s.recent.all fun e => decide (s.getF F.zlkArchDevnum 0 ≤ e.1)

/-- Note a member's report; members not heard for 10 ms are cut off (R491). -/
def State.noteReport (s : State) (dev fmax : Nat) : State :=
  let keep := s.arch.fg.filter fun e => e.1 != dev && decide (s.now ≤ e.2.2 + 10000000)
  let t := s.setArch { s.arch with fg := keep ++ [(dev, fmax, s.now)] }
  t.setF F.pwrFgrpGlead 0 (b2n t.leadsGroup)

/-- Run at GF (R490): no island faster than GF; islands that the device's own limits allow rise to it. -/
def State.applyGf (s : State) (gf : Nat) : State :=
  let t := s.setF F.pwrFgrpGf 0 gf
  (List.range 4).foldl (fun (t : State) i => t.applyFreq i (min gf (min t.power.allow (t.allowed .none i)))) t

/-- The lead sets GF to the lowest recent report, never higher while a report is missing, and announces a change from the last it has set (R490). -/
def State.setGf (s : State) : State :=
  if !s.leadsGroup then s
  else
    let cur := ((s.arch.switches.getLast?).map (·.2)).getD (s.getF F.pwrFgrpGf 0)
    let gf := s.recent.foldl (fun a e => min a e.2.1) 36
    if gf = cur || (cur < gf && s.recent.length != s.arch.fg.length) then s
    else
      let t := s.now + 300000
      let body := t <<< 32 + gf <<< 96 + s.getF F.pwrFgrpGroup 0 <<< 102 + s.getF F.tmbAlignAlgen 0 <<< 110
      let u := s.treePorts.foldl (fun (u : State) p => u.sendSb p 0x11 body) s
      u.setArch { u.arch with switches := u.arch.switches ++ [(t, gf)] }

/-- FGREPORT_TICK (R490): a member reports its FMAX along the tree; the lead counts its own. [Log 63 DEDUCED] -/
def execFgreportTick (s : State) : Host.Outcome State Fault Refusal :=
  .next (if !s.inGroup then s
    else
      let t := s.treePorts.foldl (fun (t : State) p => t.sendSb p 0x10 (t.power.allow <<< 32 + t.getF F.pwrFgrpGroup 0 <<< 38)) s
      (t.noteReport (t.getF F.zlkArchDevnum 0) t.power.allow).setGf)

/-- FGREPORT (R490): a report goes on along the tree; a member of the group notes it, and a report of a lower member is a word from the lead.
[Log 63 DEDUCED] -/
def execFgreport (port : Nat) (s : State) : Host.Outcome State Fault Refusal :=
  .next (match s.takeSb port 0x10 with
    | none => s
    | some (m, _, t) =>
      let t := (t.treePorts.filter (· != port)).foldl (fun (t : State) p => t.forwardSb p m) t
      if !t.inGroup || bits m 38 8 != t.getF F.pwrFgrpGroup 0 then t
      else
        let dev := bits m 16 16
        let t := t.noteReport dev (bits m 32 6)
        let t := if t.recent.all fun e => decide (dev ≤ e.1) then t.setArch { t.arch with leadAt := t.now } else t
        t.setGf)

/-- FGSWITCH (R490, R491): a switch to GF at an instant; a device that is not aligned under its ALGEN applies it now. [Log 63 DEDUCED] -/
def execFgswitch (port : Nat) (s : State) : Host.Outcome State Fault Refusal :=
  .next (match s.takeSb port 0x11 with
    | none => s
    | some (m, _, t) =>
      let t := (t.treePorts.filter (· != port)).foldl (fun (t : State) p => t.forwardSb p m) t
      if !t.inGroup || bits m 102 8 != t.getF F.pwrFgrpGroup 0 then t
      else
        let t := (t.setF F.pwrFgrpGlost 0 0).setArch { t.arch with leadAt := t.now }
        let gf := bits m 96 6
        if t.flag F.tmbAlignAligned 0 && t.getF F.tmbAlignAlgen 0 == bits m 110 16 then
          t.setArch { t.arch with switches := t.arch.switches ++ [(bits m 32 64, gf)] }
        else t.applyGf gf)

/-- The pending switch with the earliest instant that has come. -/
def State.dueSwitch (s : State) : Option (Nat × Nat) :=
  (s.arch.switches.filter fun e => decide (e.1 ≤ s.now)).foldl (fun a e => match a with
    | none => some e
    | some b => if e.1 < b.1 then some e else a) none

/-- FGSWITCH_INSTANT (R490): the instant of a pending switch has come; they apply in the order of their instants. [Log 63 DEDUCED] -/
def execFgswitchInstant (s : State) : Host.Outcome State Fault Refusal :=
  .next (match s.dueSwitch with
    | some e => (s.setArch { s.arch with switches := s.arch.switches.erase e }).applyGf e.2
    | none => s)

/-- GLOST_TIMEOUT (R491): a member that does not lead has had no word from the lead for 10 ms. [Log 63 DEDUCED] -/
def execGlostTimeout (s : State) : Host.Outcome State Fault Refusal :=
  .next (if s.inGroup && !s.leadsGroup && decide (s.arch.leadAt + 10000000 ≤ s.now) then s.setF F.pwrFgrpGlost 0 1 else s)

/-! ### The timebase (R492, R497) -/

/-- The fraction of a nanosecond that the rate trim adds in one count, and what has gathered into a whole one. -/
def trimTick (a : Arch) : Int × Int := ((a.trimAcc + a.trim) / 4294967296, (a.trimAcc + a.trim) % 4294967296)

/-- The throttle durations count a microsecond (Table 20-12). -/
def State.countThrottle (s : State) : State :=
  (List.range 7).foldl (fun (t : State) n => if bit (t.getF F.pwrThrReason 0) n then t.bump F.pwrThrdurUs n 1 else t) s

/-- One count of the timebase, once phase 2 is up (R492): throttle reasons are counted each µs, and folded records of a past millisecond are
written (R504). [Log 2 DESIGN CHOICE; 82 DESIGN CHOICE] -/
def State.idle (s : State) : State :=
  if s.phase < 2 then s
  else
    let d := trimTick s.arch
    let old := s.now
    let t := (s.setArch { s.arch with trimAcc := d.2 }).setF F.tmbNowNs 0 ((old : Int) + 1 + d.1).toNat
    let t := if old / 1000 = t.now / 1000 then t else t.countThrottle
    if old / 1000000 = t.now / 1000000 then t else t.writeFolded

end Sys2Proof.Machine
end

