-- ==== Sys2Proof/Machine/Codec.lean ====
section
/-!
DEFINITION. Machine/Codec.lean: video streams, frames and engines (Chapter 18). What a bitstream holds and what coding makes of samples comes
with the block-row event.
-/
namespace Sys2Proof.Machine

/-! ### Descriptors -/

/-- A field of a stream's descriptor (Table 18-2). -/
def Stream.g (v : Stream) (off n : Nat) : Nat := fieldAt v.desc off n
/-- A bit of byte 0. -/
def Stream.flag (v : Stream) (i : Nat) : Bool := bit (v.g 0 1) i
/-- DIR = 1. -/
def Stream.encodes (v : Stream) : Bool := v.flag 0
/-- CLASS = 1. -/
def Stream.live (v : Stream) : Bool := v.flag 5
/-- REFMODE = 1: long-term slots. -/
def Stream.slots (v : Stream) : Bool := v.flag 6
/-- Rounded up to a multiple. -/
def upTo (v m : Nat) : Nat := cdiv v m * m
/-- WIDTH and HEIGHT. -/
def Stream.width (v : Stream) : Nat := v.g 4 2
/-- HEIGHT. -/
def Stream.height (v : Stream) : Nat := v.g 6 2
/-- Coded area S (R436). -/
def Stream.area (v : Stream) : Nat := upTo v.width 8 * upTo v.height 8
/-- MAXREF or MAXDPB. -/
def Stream.maxRef (v : Stream) : Nat := v.g 8 1
/-- POOLN. -/
def Stream.poolN (v : Stream) : Nat := v.g 3 1
/-- PITCH. -/
def Stream.pitch (v : Stream) : Nat := v.g 10 2
/-- BUFSTRIDE. -/
def Stream.bufStride (v : Stream) : Nat := v.g 22 4
/-- Address of pool buffer `i` (R439). -/
def Stream.bufAt (v : Stream) (i : Nat) : Nat := v.g 16 6 + i * v.bufStride
/-- Entries of the frame ring, as a power of two. -/
def Stream.frLog2 (v : Stream) : Nat := bits (v.g 38 1) 4 4 + 4
/-- Entries of the completion ring, as a power of two. -/
def Stream.crLog2 (v : Stream) : Nat := bits (v.g 38 1) 0 4 + 4
/-- Engine index: E0 to E3, then D0 to D3. -/
def Stream.engine (v : Stream) : Nat := bits (v.g 1 1) 0 2 + (if v.encodes then 0 else 4)

/-- A stream that has only a descriptor. -/
def streamOf (d : List Byte) : Stream := { Stream.free with desc := d }

/-- Largest picture of an HEVC level: luma samples (ITU-T H.265, Table A.8). -/
def hevcMax (idc : Nat) : Option Nat :=
  if idc = 30 then some 36864 else if idc = 60 then some 122880 else if idc = 63 then some 245760 else if idc = 90 then some 552960
  else if idc = 93 then some 983040 else if idc = 120 || idc = 123 then some 2228224
  else if idc = 150 || idc = 153 || idc = 156 then some 8912896
  else if idc = 180 || idc = 183 || idc = 186 then some 35651584 else none

/-- Largest picture of an AV1 level: samples, width, height (AV1 specification, Annex A). -/
def av1Max (ix : Nat) : Option (Nat × Nat × Nat) :=
  if ix = 0 then some (147456, 2048, 1152) else if ix = 1 then some (278784, 2816, 1584) else if ix = 4 then some (665856, 4352, 2448)
  else if ix = 5 then some (1065024, 5504, 3096) else if ix = 8 || ix = 9 then some (2359296, 6144, 3456)
  else if 12 ≤ ix && ix ≤ 15 then some (8912896, 8192, 4352) else if 16 ≤ ix && ix ≤ 19 then some (35651584, 16384, 8704) else none

/-- LEVEL admits WIDTH × HEIGHT. -/
def Stream.levelOk (v : Stream) : Bool :=
  let w := v.width
  let h := v.height
  if v.flag 1 then match av1Max (v.g 2 1) with
    | some (a, x, y) => decide (w * h ≤ a) && decide (w ≤ x) && decide (h ≤ y)
    | none => false
  else match hevcMax (v.g 2 1) with
    | some a => decide (w * h ≤ a) && decide (w * w ≤ 8 * a) && decide (h * h ≤ 8 * a)
    | none => false

/-- Check 2 of Table 18-3 on the descriptor. -/
def Stream.descOk (v : Stream) : Bool :=
  let g := v.g
  let bps := if v.flag 3 then 2 else 1
  let w64 := upTo v.width 64
  let h64 := upTo v.height 64
  let parts := v.pitch * h64 + (if v.flag 4 then 0 else v.pitch * h64 / 2) + w64 / 16 * (h64 / 16) * 16
  let m := v.maxRef
  g 1 1 / 4 == 0 && decide (1 ≤ v.poolN) && decide (v.poolN ≤ 32) && decide (16 ≤ v.width) && decide (v.width ≤ 8192) && decide (16 ≤ v.height) &&
    decide (v.height ≤ 4320) &&
    (if v.encodes then v.levelOk && decide (1 ≤ m) && decide (m ≤ 4) && g 9 1 == 0
     else g 2 1 == 0 && decide ((if v.flag 1 then 9 else 2) ≤ m) && decide (m ≤ 16) && decide (g 9 1 ≤ 8)) &&
    v.pitch % 64 == 0 && decide (w64 * bps ≤ v.pitch) && (v.live == (g 12 4 != 0)) && g 16 6 % 4096 == 0 && v.bufStride % 4096 == 0 &&
    decide (parts ≤ v.bufStride) && g 26 6 % 4096 == 0 && g 32 6 % 4096 == 0 && decide (v.frLog2 ≤ 12) && decide (v.crLog2 ≤ 12) &&
    g 39 1 / 4 == 0 && bits (g 40 2) 11 4 == 0 && g 46 18 == 0

/-- Pool buffers that a stream needs (R441). -/
def Stream.need (v : Stream) : Nat := if v.encodes then v.maxRef + 1 else v.maxRef + v.g 9 1

/-! ### Stream operations (R440, R455) -/

/-- State of a stream: 0 = FREE, 1 = OPEN, 2 = DISABLED. -/
def State.streamState (s : State) (n : Nat) : Nat := s.getF F.cdcSstatState n

/-- Streams that are not FREE and satisfy a test. -/
def State.streamsBy (s : State) (p : Nat → Stream → Bool) : List Nat :=
  (List.range 256).filter fun n => s.streamState n != 0 && p n (s.stream n)

/-- Admission of a stream of partition `p` (R449, check 5 of Table 18-3). -/
def State.admits (s : State) (p : Nat) (v : Stream) : Bool :=
  let e := v.engine
  let ix := p * 8 + e
  let mine := s.streamsBy fun n u => u.engine == e && s.getF F.cdcSstatPart n == p
  let rate := fun (l : List Nat) => sumOf (l.map fun n => let u := s.stream n; if u.live then u.area * u.g 12 4 else 0)
  let own := if v.live then v.area * v.g 12 4 else 0
  decide (mine.length < s.getF F.cdcShareStreams ix) && !s.flag F.cdcEctlEngdis e &&
    (!v.live || (decide (rate (s.streamsBy fun _ u => u.engine == e) + own ≤ 2000000000000) &&
      decide (64 * (rate mine + own) ≤ s.getF F.cdcShareLiverate ix * 2000000000000)))

/-- A FREE stream, the lowest. -/
def State.freeStream (s : State) : Option Nat := (List.range 256).find? fun n => s.streamState n == 0

/-- The status of an open (Table 18-3). [Log 67 PRESUMED; 68 DESIGN CHOICE] -/
def State.openStatus (s : State) (fn val : Nat) : Nat :=
  let a := bits val 0 48
  let p := s.fnPart fn
  let v := streamOf (s.bytesAt a 64)
  let dev := fun (loc a n : Nat) => loc == 0 || s.owned p a n
  if s.amending p then 0xB5
  else if opOf val != 1 || bits val 56 4 != 0 || a % 64 != 0 then 0xA8
  else if !s.owned p a 64 then 0xA9
  else if s.anyPoison (wordsOf a 64) || !v.descOk then 0xA8
  else if !s.owned p (v.g 16 6) (v.poolN * v.bufStride) || !dev (bits (v.g 39 1) 0 1) (v.g 26 6) (64 * 2 ^ v.frLog2) ||
      !dev (bits (v.g 39 1) 1 1) (v.g 32 6) (128 * 2 ^ v.crLog2) then 0xA9
  else if v.poolN < v.need then 0xAA
  else if s.freeStream.isNone || !s.admits p v then 0xAB
  else 0

/-- The outcome of a stream operation of a function. -/
def State.cdcOp (s : State) (fn n status : Nat) : State := (s.setF F.cdcScmdstatStatus fn status).setF F.cdcScmdstatStream fn n

/-- A write of CDC_SCMD; refused while an operation of the function runs (Table 18-8). -/
def State.cdcCmd (s : State) (acr : Acr) (set : Nat) (k : Nat → State) : State :=
  let fn := fnSet acr set
  if 64 ≤ fn then s.refuseAcc acr else if s.flag F.cdcScmdstatBusy fn then s.setF F.cdcScmdstatStatus fn 0xB5 else k fn

/-- A stream opens. -/
def State.openStream (s : State) (fn n : Nat) (d : List Byte) : State :=
  let v := streamOf d
  let t := s.setStream n v
  let t := [F.cdcSstatCtail, F.cdcSstatFhead, F.cdcSstatRefmarks, F.cdcSstatSerr].foldl (fun (t : State) f => t.setF f n 0) t
  let t := (t.setF F.cdcSstatState n 1).setF F.cdcSstatEngine n v.engine
  (t.setF F.cdcSstatPart n (s.fnPart fn)).setF F.cdcSstatOwner n fn

/-- STREAM_OPEN (R440): an access writes `v` to CDC_SCMD of a function with OP 1, or with a value that names no operation. [Log 19 DESIGN CHOICE] -/
def execStreamOpen (acr : Acr) (set v : Nat) (s : State) : Host.Outcome State Fault Refusal :=
  .next (if opOf v = 2 || opOf v = 3 then s
    else s.cdcCmd acr set fun fn =>
      let st := s.openStatus fn v
      let a := bits v 0 48
      let t := if s.owned (s.fnPart fn) a 64 then s.readWords (wordsOf a 64) else s
      let n := s.freeStream.getD 0
      if st = 0 then (t.openStream fn n (s.bytesAt a 64)).cdcOp fn n 0 else t.cdcOp fn (s.getF F.cdcScmdstatStream fn) st)

/-! ### Frame records (R442, R445) -/

/-- REFMARKS shows the buffers in use (Table 18-9). -/
def State.showMarks (s : State) (n : Nat) : State :=
  let v := s.stream n
  s.setF F.cdcSstatRefmarks n ((v.refs ++ v.pics.map (·.1)).eraseDups.foldl (fun a i => a ||| 2 ^ i) 0)

/-- Set a stream and its marks. -/
def State.putStream (s : State) (n : Nat) (v : Stream) : State := (s.setStream n v).showMarks n

/-- Engine `e` beside its registers. -/
def State.engine (s : State) (e : Nat) : Engine := tget (fun _ => Engine.fresh) s.engines e

/-- Set engine `e`. -/
def State.setEngine (s : State) (e : Nat) (v : Engine) : State := { s with engines := tset (fun _ => Engine.fresh) s.engines e v }

/-- The counts of batch cycles served restart when no batch frame of the engine is ready (R444, R450). -/
def State.restServed (s : State) (e : Nat) : State :=
  if (s.streamsBy fun _ u => u.engine == e && !u.live && (u.frame.map (·.sat)).getD false).isEmpty then
    s.setEngine e { s.engine e with served := [] }
  else s

/-- The stream becomes FREE. -/
def State.freeTheStream (s : State) (n : Nat) : State :=
  let t := s.engines.foldl (fun (t : State) e => if e.2.cur = some n then { t with engines := tset (fun _ => Engine.fresh) t.engines e.1 { e.2 with cur := none } } else t) s
  ((t.setF F.cdcSstatState n 0).putStream n Stream.free).restServed (s.stream n).engine

/-- A DISABLED stream with nothing left to write. -/
def State.streamDone (s : State) (n : Nat) : Bool :=
  let v := s.stream n
  s.streamState n == 2 && v.waiting.isEmpty && v.frame.isNone && s.getF F.cdcSstatFhead n == v.written

/-- A stream of a function that was reset closes once it is done (R455). -/
def State.autoClose (s : State) (n : Nat) : State := if (s.stream n).closing && s.streamDone n then s.freeTheStream n else s

/-- Room in the completion ring of a stream. -/
def State.crRoom (s : State) (n : Nat) : Bool :=
  let v := s.stream n
  decide ((s.getF F.cdcSstatCtail n + 0x100000000 - v.cHead) % 0x100000000 < 2 ^ v.crLog2)

/-- Write a frame record: TEND and LATE, CTAIL, the signal that follows it, the interrupt (R402, R442, R445). -/
def State.putFrameRecord (s : State) (n : Nat) (w : WaitFrame) : State :=
  let v := s.stream n
  let late := w.deadline != 0 && decide (w.deadline < s.now)
  let b := stampTend w.bytes s.now
  let b := b.take 1 ++ leBytes 1 (fieldAt b 1 1 + b2n late) ++ b.drop 2
  let s := if late || fieldAt b 0 1 = 0xB0 then s.bumpSat F.cdcEcntLate v.engine 1 else s
  let tl := s.getF F.cdcSstatCtail n
  let a := v.g 32 6 + 128 * (tl % 2 ^ v.crLog2)
  let s := if bit (v.g 39 1) 1 then s.writeBytes a b else s.emit (.hostWrite (s.getF F.cdcSstatOwner n) a b false)
  let s := s.setF F.cdcSstatCtail n (tl + 1)
  let s := match w.signal with
    | some (t, k) => s.addToken t k
    | none => s
  if bit (v.g 40 2) 15 then
    let v := s.stream n
    let s := s.setStream n { v with unsig := v.unsig + 1, firstAt := if v.unsig = 0 then s.now else v.firstAt }
    if max 1 (v.g 42 2) ≤ v.unsig + 1 then s.streamMsg n else s
  else s

/-- Owe a record. -/
def State.oweFrame (s : State) (n : Nat) (w : WaitFrame) : State :=
  let v := s.stream n
  if v.waiting.isEmpty && s.crRoom n then s.putFrameRecord n w else s.setStream n { v with waiting := v.waiting ++ [w] }

/-- FRAME_RECORD_WRITE (R442): the oldest waiting record of a stream is written once its ring has room. -/
def execFrameRecordWrite (stream : Nat) (s : State) : Host.Outcome State Fault Refusal :=
  .next (match (s.stream stream).waiting with
    | w :: t => if s.crRoom stream then ((s.setStream stream { s.stream stream with waiting := t }).putFrameRecord stream w).autoClose stream else s
    | [] => s)

/-- The record of a frame (Table 18-5) without TEND and LATE. -/
def frameRecord (v : Stream) (f : Frame) (n status outlen : Nat) (outputs : List (Nat × Nat)) : List Byte :=
  let enc := v.encodes
  leBytes 1 status ++ leBytes 1 (b2n f.preempted * 16 + b2n f.poisoned * 8 + b2n f.badRef * 4 + b2n (f.conc != 0) * 2) ++ leBytes 1 n ++
    leBytes 1 v.engine ++ leBytes 4 f.seq ++ (f.desc.drop 58).take 4 ++ leBytes 8 f.tstart ++ leBytes 8 0 ++
    leBytes 4 (if enc then outlen else f.conc) ++ leBytes 4 (if enc then 0 else f.firstErr) ++ leBytes 1 (if enc then 0 else f.classes) ++
    leBytes 1 (if enc then 0 else f.pic) ++ leBytes 1 outputs.length ++ leBytes 1 0 ++
    ((outputs.flatMap fun o => leBytes 1 o.1 ++ leBytes 4 o.2) ++ leBytes 20 0).take 20 ++ leBytes 68 0

/-- A frame completes: its engine is free, its record is owed. -/
def State.endFrame (s : State) (n : Nat) (f : Frame) (status outlen : Nat) (outputs : List (Nat × Nat)) : State :=
  let v := s.stream n
  let e := v.engine
  let s := if (s.engine e).cur = some n then s.setEngine e { s.engine e with cur := none } else s
  let g := fieldAt f.desc
  let sig := if bit (g 0 1) 7 && (status = 0 || status = 0xAD) then some (g 40 2, g 42 2) else none
  let s := (s.putStream n { v with frame := none }).restServed e
  (s.oweFrame n ⟨frameRecord v f n status outlen outputs, sig, g 50 8⟩).autoClose n

/-! ### Doorbells and disabling -/

/-- Function `fn` owns the stream. -/
def State.ownsStream (s : State) (fn n : Nat) : Bool := decide (n < 256) && s.streamState n != 0 && s.getF F.cdcSstatOwner n == fn

/-- CDC_FDB (R442): function `fn` writes FTAIL of a stream. -/
def execCdcFdb (fn stream v : Nat) (s : State) : Host.Outcome State Fault Refusal :=
  .next (if bits v 32 32 != 0 then s
    else if !s.ownsStream fn stream then s.raiseEvt fn F.pciEvtcauseAccerr
    else
      let u := s.stream stream
      if 2 ^ u.frLog2 < (lo32 v + 0x100000000 - s.getF F.cdcSstatFhead stream) % 0x100000000 then s.setF F.cdcSstatSerr stream 1
      else s.setStream stream { u with fTail := lo32 v })

/-- CDC_CDB (R442): function `fn` writes CHEAD of a stream. -/
def execCdcCdb (fn stream v : Nat) (s : State) : Host.Outcome State Fault Refusal :=
  .next (if bits v 32 32 != 0 then s
    else if !s.ownsStream fn stream then s.raiseEvt fn F.pciEvtcauseAccerr
    else
      let u := s.stream stream
      let d := fun (x : Nat) => (x + 0x100000000 - u.cHead) % 0x100000000
      if d (s.getF F.cdcSstatCtail stream) < d (lo32 v) then s.setF F.cdcSstatSerr stream 1
      else s.setStream stream { u with cHead := lo32 v })

/-- A stream is disabled: a frame that has not started ends with 0xB1, and so will those of the ring up to FTAIL (R455). -/
def State.disableStream (s : State) (n : Nat) : State :=
  if s.streamState n != 1 then s
  else
    let v := s.stream n
    let s := (s.setF F.cdcSstatState n 2).setStream n { v with written := v.fTail }
    match v.frame with
    | some f => if f.started then s else s.endFrame n f 0xB1 0 []
    | none => s.autoClose n

/-- STREAM_DISABLE (R455): CDC_SCMD with OP 3. [Log 68 DESIGN CHOICE] -/
def execStreamDisable (acr : Acr) (set v : Nat) (s : State) : Host.Outcome State Fault Refusal :=
  .next (if opOf v != 3 then s
    else s.cdcCmd acr set fun fn =>
      let n := bits v 48 8
      if bits v 56 4 != 0 then s.cdcOp fn n 0xA8
      else if s.streamState n != 1 || !(fn == 0 || s.ownsStream fn n) then s.cdcOp fn n 0xB4
      else (s.disableStream n).cdcOp fn n 0)

/-- STREAM_CLOSE (R455): CDC_SCMD with OP 2. -/
def execStreamClose (acr : Acr) (set v : Nat) (s : State) : Host.Outcome State Fault Refusal :=
  .next (if opOf v != 2 then s
    else s.cdcCmd acr set fun fn =>
      let n := bits v 48 8
      if bits v 56 4 != 0 then s.cdcOp fn n 0xA8
      else if !s.streamDone n || !(fn == 0 || s.ownsStream fn n) then s.cdcOp fn n 0xB4
      else (s.freeTheStream n).cdcOp fn n 0)

/-- ENGDIS (R455): an access writes `v` to CDC_ECTL of an engine; the engine's streams are disabled, and it opens none until it is cleared. -/
def execEngdis (acr : Acr) (engine v : Nat) (s : State) : Host.Outcome State Fault Refusal :=
  .next (s.forDevice acr fun s =>
    if 8 ≤ engine then s
    else
      let t := s.setF F.cdcEctlEngdis engine (bits v 0 1)
      if bit v 0 then (t.streamsBy fun _ u => u.engine == engine).foldl State.disableStream t else t)

/-! ### Fetching frames (R443) -/

/-- A field of a frame's descriptor (Table 18-4). -/
def Frame.g (f : Frame) (off n : Nat) : Nat := fieldAt f.desc off n
/-- A bit of its byte 0. -/
def Frame.flag (f : Frame) (i : Nat) : Bool := bit (f.g 0 1) i

/-- A frame as it is fetched. -/
def newFrame (d : List Byte) (seq : Nat) : Frame :=
  { desc := d, seq := seq, started := false, row := 0, held := false, preempted := false, tstart := 0, sat := false, out := [], conc := 0,
    firstErr := 0xFFFFFFFF, classes := 0, poisoned := false, badRef := false, status := 0, pic := 0xFF }

/-- Table 18-4 and the token ranges: 0xA8; the ranges: 0xA9. [Log 68 DESIGN CHOICE] -/
def State.frameStatus (s : State) (p : Nat) (v : Stream) (f : Frame) : Nat :=
  let g := f.g
  let enc := v.encodes
  let tok := fun (on : Bool) t => !on || s.ownsToken p t
  let luma := v.pitch * v.height
  if g 62 2 != 0 || 16 < g 2 1 || g 28 6 % 16 != 0 || (f.flag 7 && g 42 2 == 0) ||
      (enc && (bits (g 0 1) 2 2 == 3 || (if v.flag 1 then false else decide (51 < g 1 1)) || (v.slots && g 24 4 != 0) ||
        (!v.slots && decide (v.poolN ≤ g 3 1)))) ||
      (!enc && (g 2 1 != 0 || g 18 6 != 0)) ||
      !tok (f.flag 6) (g 34 2) || !tok (f.flag 7) (g 40 2) || !tok (if enc then f.flag 4 else f.flag 5) (g 44 2) then 0xA8
  else if enc then
    (if s.owned p (g 8 6) (luma + (if v.flag 4 then 0 else v.pitch * cdiv v.height 2)) && s.owned p (g 18 6) (g 14 4) && (g 2 1 == 0 || s.owned p (g 28 6) (16 * g 2 1))
     then 0 else 0xA9)
  else if f.flag 0 || s.owned p (g 8 6) (g 14 4) then 0 else 0xA9

/-- RELMASK: held pictures that software releases (R447). -/
def Stream.release (v : Stream) (mask : Nat) : Stream := { v with pics := v.pics.filter fun e => !bit mask e.1 }

/-- FRAME_FETCH (R442, R443): the next descriptor of a stream is fetched and checked; `bytes` is what a ring in host memory delivers. A
disabled stream's descriptors end with 0xB1 (R455). [Log 68 DESIGN CHOICE] -/
def execFrameFetch (stream : Nat) (bytes : List Byte) (s : State) : Host.Outcome State Fault Refusal :=
  .next (
    let v := s.stream stream
    let h := s.getF F.cdcSstatFhead stream
    let st := s.streamState stream
    let tail := if st = 2 then v.written else v.fTail
    if st = 0 || !s.running || v.frame.isSome || tail = h then s
    else
      let a := v.g 26 6 + 64 * (h % 2 ^ v.frLog2)
      let dev := bit (v.g 39 1) 0
      let b := if dev then s.bytesAt a 64 else (bytes ++ leBytes 64 0).take 64
      let bad := dev && s.anyPoison (wordsOf a 64)
      let t := if dev then s.readWords (wordsOf a 64) else s
      let t := t.setF F.cdcSstatFhead stream (h + 1)
      let f := newFrame b h
      let t := t.setStream stream { v with frame := some f }
      if st = 2 then t.endFrame stream f 0xB1 0 []
      else if bad then t.endFrame stream f 0xB2 0 []
      else
        let e := t.frameStatus (s.getF F.cdcSstatPart stream) v f
        if e != 0 then t.endFrame stream f e 0 []
        else (t.putStream stream (if v.encodes then { v with frame := some f } else { (v.release (f.g 24 4)) with frame := some f })).latchWaits)

/-! ### Scheduling (R444, R450) -/

/-- The row wait of a frame is satisfied for row `r`. -/
def State.rowReady (s : State) (v : Stream) (f : Frame) (r : Nat) : Bool :=
  !(v.encodes && f.flag 4) || s.tokenSat (f.g 44 2) ((f.g 46 4 + r + 1) % 0x100000000)

/-- A live encode frame with DLPOL = 1 whose deadline has passed (R451). -/
def State.pastDeadline (s : State) (v : Stream) (f : Frame) : Bool :=
  v.encodes && v.live && v.flag 7 && f.g 50 8 != 0 && decide (f.g 50 8 < s.now)

/-- The frame of a stream that its engine can take now: a new one that is ready, or a suspended one whose row wait is satisfied. -/
def State.takeable (s : State) (n : Nat) (resume : Bool) : Option Frame :=
  match (s.stream n).frame with
  | none => none
  | some f =>
    let v := s.stream n
    let rows := s.rowReady v f f.row
    if resume then (if f.started && f.held && rows then some f else none)
    else if !f.started && f.sat && rows && !s.pastDeadline v f && (v.live || s.getF F.cdcShareWeight (s.getF F.cdcSstatPart n * 8 + v.engine) != 0)
    then some f else none

/-- Live streams of an engine in the order in which it takes their frames: earliest nonzero deadline, then stream number. -/
def State.firstLive (s : State) (e : Nat) (resume : Bool) : Option Nat :=
  let l := (List.range 256).filterMap fun n =>
    if s.streamState n != 0 && (s.stream n).live && (s.stream n).engine == e then (s.takeable n resume).map fun f => (n, f.g 50 8) else none
  (l.foldl (fun (a : Option (Nat × Nat)) x => match a with
    | none => some x
    | some b => if (x.2 != 0 && b.2 == 0) || (x.2 != 0 && decide (x.2 < b.2)) then some x else a) none).map (·.1)

/-- Batch streams of an engine that have a frame to take, by stream number, each with its partition. -/
def State.batchList (s : State) (e : Nat) (resume : Bool) : List (Nat × Nat) :=
  (List.range 256).filterMap fun n =>
    if s.streamState n != 0 && !(s.stream n).live && (s.stream n).engine == e && (s.takeable n resume).isSome then some (n, s.getF F.cdcSstatPart n) else none

/-- The batch stream that an engine takes: the partition with the smallest ratio of cycles served to WEIGHT, then the stream after the last
one served. -/
def State.firstBatch (s : State) (e : Nat) (resume : Bool) : Option Nat :=
  let l := s.batchList e resume
  let v := s.engine e
  let served := fun p => tget (fun _ => 0) v.served p
  let w := fun p => s.getF F.cdcShareWeight (p * 8 + e)
  let best := (l.map (·.2)).foldl (fun (a : Option Nat) p => match a with
    | none => some p
    | some b => if served p * w b < served b * w p || (served p * w b = served b * w p && p < b) then some p else a) none
  match best with
  | none => none
  | some p =>
    let mine := (l.filter fun x => x.2 == p).map (·.1)
    let last := tget (fun _ => 0) v.last p
    ((mine.find? fun n => last < n + 1) <|> mine.head?)

/-- Frames of an engine that have started and are not complete. -/
def State.slotsHeld (s : State) (e : Nat) : Nat :=
  (s.streamsBy fun _ u => u.engine == e && (u.frame.map (·.started)).getD false).length

/-- The stream whose frame a free engine takes next, and whether that is a new frame (R450). [Log 69 DEDUCED] -/
def State.nextFrame (s : State) (e : Nat) : Option (Nat × Bool) :=
  let new := fun (o : Option Nat) => if s.slotsHeld e < 4 then o.map fun n => (n, true) else none
  let old := fun (o : Option Nat) => o.map fun n => (n, false)
  old (s.firstLive e true) <|> new (s.firstLive e false) <|> old (s.firstBatch e true) <|> new (s.firstBatch e false)

/-- References that a new frame may use (R446); KEY clears every mark first. -/
def Stream.refsOk (v : Stream) (f : Frame) : Bool :=
  let refs := if f.flag 1 then [] else v.refs
  let names := (List.range 4).map fun i => f.g (4 + i) 1
  let inter := bits (f.g 0 1) 2 2 != 0
  let use := if inter then names.filter (· != 0xFF) else []
  if v.slots then use.all (fun i => decide (i < v.maxRef) && refs.contains i) && (f.g 3 1 == 0xFF || decide (f.g 3 1 < v.maxRef))
  else use.all refs.contains && !refs.contains (f.g 3 1)

/-- A region list entry is valid: its reserved bytes are 0 (R448). -/
def State.roiOk (s : State) (f : Frame) : Bool := (List.range (f.g 2 1)).all fun i => s.numAt (f.g 28 6 + 16 * i + 10) 6 == 0

/-- Put a frame back into its stream. -/
def State.putFrame (s : State) (n : Nat) (f : Frame) : State := s.putStream n { s.stream n with frame := some f }

/-- Start the frame of a stream on an engine. -/
def State.startFrame (s : State) (e n : Nat) (f : Frame) : State :=
  let v := s.stream n
  let f := { f with started := true, tstart := s.now }
  let roi := wordsOf (f.g 28 6) (16 * f.g 2 1)
  if v.encodes then
    if !v.refsOk f then (s.putFrame n f).endFrame n f 0xAE 0 []
    else
      let s := (s.putStream n { v with refs := if f.flag 1 then [] else v.refs, frame := some f }).readWords roi
      if s.anyPoison roi then s.endFrame n f 0xB2 0 []
      else if !s.roiOk f then s.endFrame n f 0xA8 0 []
      else s.setEngine e { s.engine e with cur := some n }
  else if f.flag 0 then (s.putFrame n f).setEngine e { s.engine e with cur := some n }
  else match (List.range v.poolN).find? fun i => !v.refs.contains i && !(v.pics.any fun x => x.1 == i) with
    | none => (s.putFrame n f).endFrame n f 0xAE 0 []
    | some b =>
      let ws := wordsOf (f.g 8 6) (f.g 14 4)
      let f := { f with pic := b, poisoned := s.anyPoison ws }
      let s := s.readWords ws
      (s.putStream n { v with frame := some f, damaged := v.damaged.filter (· != b) }).setEngine e { s.engine e with cur := some n }

/-- FRAME_START (R450): a free engine takes its next frame. [Log 66 DESIGN CHOICE] -/
def execFrameStart (engine : Nat) (s : State) : Host.Outcome State Fault Refusal :=
  .next (if 8 ≤ engine || !s.running || (s.engine engine).cur.isSome then s
    else
      let s := s.restServed engine
      match s.nextFrame engine with
      | none => s
      | some (n, new) =>
        let s := if (s.stream n).live then s else s.setEngine engine { s.engine engine with last := tset (fun _ => 0) (s.engine engine).last (s.getF F.cdcSstatPart n) (n + 1) }
        match (s.stream n).frame with
        | none => s
        | some f => if new then s.startFrame engine n f
                    else (s.putFrame n { f with held := false }).setEngine engine { s.engine engine with cur := some n })

/-- FRAME_DEADLINE (R451): a live encode frame with DLPOL = 1 has not started by its deadline. [Log 3 DESIGN CHOICE] -/
def execFrameDeadline (stream : Nat) (s : State) : Host.Outcome State Fault Refusal :=
  .next (match (s.stream stream).frame with
    | some f => if s.running && s.streamState stream != 0 && !f.started && s.pastDeadline (s.stream stream) f then s.endFrame stream f 0xB0 0 [] else s
    | none => s)

/-! ### Block rows (R436 to R439, R444 to R447, R450 to R454) -/

/-- The picture buffer that a frame writes. -/
def Stream.target (v : Stream) (f : Frame) : Nat :=
  if v.encodes then (if f.g 3 1 = 0xFF then v.maxRef else f.g 3 1) else f.pic

/-- Bursts of the input band of block row `r` of an encode frame (R439). -/
def Stream.band (v : Stream) (f : Frame) (r : Nat) : List Nat :=
  let n := min 64 (v.height - 64 * r)
  let src := f.g 8 6
  wordsOf (src + v.pitch * 64 * r) (v.pitch * n) ++
    (if v.flag 4 then [] else wordsOf (src + v.pitch * v.height + v.pitch * 32 * r) (v.pitch * cdiv n 2))

/-- Block rows of an encode frame. -/
def Stream.rows (v : Stream) : Nat := cdiv v.height 64

/-- Codec cycles of a block row of an encode frame (R436). -/
def Stream.rowCycles (v : Stream) (r : Nat) : Nat := cdiv (upTo v.width 8 * min 64 (upTo v.height 8 - 64 * r)) 2

/-- Writes into a picture buffer; a burst outside it is not written (R452). -/
def State.writePic (s : State) (v : Stream) (b : Nat) (l : List (Nat × List Byte)) : State :=
  l.foldl (fun (t : State) w => if w.1 + w.2.length ≤ v.bufStride then t.writeBytes (v.bufAt b + w.1) w.2 else t) s

/-- Parts of a picture buffer written as poison. -/
def State.poisonPic (s : State) (v : Stream) (b : Nat) (l : List (Nat × Nat)) : State :=
  l.foldl (fun (t : State) w => if w.1 + w.2 ≤ v.bufStride then t.poisonBytes (v.bufAt b + w.1) w.2 else t) s

/-- An encode frame is complete: too large a bitstream keeps nothing; else it is written and the marks become KEEP, or the slot holds the
picture (R446). -/
def State.finishEncode (s : State) (n : Nat) (f : Frame) : State :=
  let v := s.stream n
  if f.g 14 4 < f.out.length then s.endFrame n f 0xAF 0 []
  else
    let s := s.writeBytes (f.g 18 6) f.out
    let refs := if v.slots then (if f.g 3 1 = 0xFF || v.refs.contains (f.g 3 1) then v.refs else v.refs ++ [f.g 3 1])
      else (List.range 32).filter (bit (f.g 24 4))
    (s.putStream n { v with refs := refs }).endFrame n f 0 f.out.length []

/-- A decode frame is complete (R447, R453, R454). -/
def State.finishDecode (s : State) (n : Nat) (f : Frame) (ev : RowEvent) : State :=
  let v := s.stream n
  let outs := if f.status = 0xAC || f.status = 0xAE then [] else ev.outputs.take 4
  let st := if f.status != 0 then f.status else if f.poisoned then 0xB2 else if f.conc != 0 then 0xAD else 0
  let f := if f.status = 0xAC || f.status = 0xAE then { f with pic := 0xFF } else f
  let bad := f.poisoned || f.conc != 0
  let v := { v with refs := ev.refs.filter (· < v.poolN), pics := (v.pics.filter fun x => !(outs.any fun o => o.1 == x.1)) ++ outs,
                    damaged := if bad && f.pic < v.poolN then v.damaged ++ [f.pic] else v.damaged }
  let s := s.bump F.cdcEcntConcblk v.engine f.conc
  (s.putStream n v).endFrame n f st 0 outs

/-- The engine is at a block-row boundary of a frame that goes on: a row wait, or a live frame for a batch one, suspends it (R444, R450). -/
def State.boundary (s : State) (e n : Nat) (f : Frame) : State :=
  let v := s.stream n
  let hold := { f with held := true, preempted := true }
  let free := s.setEngine e { s.engine e with cur := none }
  if !s.rowReady v f f.row then free.putFrame n hold
  else if !v.live && ((s.firstLive e true).isSome || ((s.firstLive e false).isSome && decide (s.slotsHeld e < 4))) then
    (free.putFrame n hold).bumpSat F.cdcEcntPreempt e 1
  else s.putFrame n f

/-- Count batch cycles served (R450). -/
def State.serveBatch (s : State) (e n cycles : Nat) : State :=
  if (s.stream n).live then s
  else
    let v := s.engine e
    let p := s.getF F.cdcSstatPart n
    s.setEngine e { v with served := tset (fun _ => 0) v.served p (tget (fun _ => 0) v.served p + cycles) }

/-- A block row of an encode frame. [Log 66 DESIGN CHOICE] -/
def State.encodeRow (s : State) (e n : Nat) (f : Frame) (ev : RowEvent) : State :=
  let v := s.stream n
  let ws := v.band f f.row
  let s := (s.readWords ws).serveBatch e n (v.rowCycles f.row)
  if s.anyPoison ws then s.endFrame n f 0xB2 0 []
  else
    let s := s.writePic v (v.target f) ev.writes
    let f := { f with row := f.row + 1, out := f.out ++ ev.bits }
    if f.row < v.rows then s.boundary e n f else s.finishEncode n f

/-- A block row of a decode frame: it signals the rows that are final (R445). [Log 66 DESIGN CHOICE] -/
def State.decodeRow (s : State) (e n : Nat) (f : Frame) (ev : RowEvent) : State :=
  let v := s.stream n
  let s := s.serveBatch e n ev.cycles
  let s := if f.flag 0 || ev.status != 0 then s else (s.writePic v f.pic ev.writes).poisonPic v f.pic ev.poison
  let out := ev.writes.any fun w => decide (v.bufStride < w.1 + w.2.length)
  let cls := ev.classes ||| (if out then 64 else 0)
  let f := { f with conc := f.conc + ev.conc, firstErr := if f.firstErr = 0xFFFFFFFF then ev.firstErr.getD 0xFFFFFFFF else f.firstErr,
                    classes := f.classes ||| cls, poisoned := f.poisoned || !ev.poison.isEmpty,
                    badRef := f.badRef || ev.used.any v.damaged.contains, status := if f.status = 0 then ev.status else f.status, row := f.row + 1 }
  let k := if f.flag 5 && f.status = 0 then b2n (decide (2 ≤ f.row)) + b2n ev.last else 0
  let s := s.putFrame n f
  let s := if k = 0 then s else s.addToken (f.g 44 2) k
  if ev.last || f.status != 0 then s.finishDecode n f ev else s.boundary e n f

/-- BLOCK_ROW (R436): an engine finishes a block row of the frame that it works on. [Log 5 DESIGN CHOICE; 66 DESIGN CHOICE; 69 DEDUCED] -/
def execBlockRow (engine : Nat) (ev : RowEvent) (s : State) : Host.Outcome State Fault Refusal :=
  .next (match (s.engine engine).cur with
    | none => s
    | some n =>
      match (s.stream n).frame with
      | none => s
      | some f =>
        if !s.running || f.held then s
        else if (s.stream n).encodes then s.encodeRow engine n f ev else s.decodeRow engine n f ev)

/-- CODEC_HW_ERROR (R454): a parity or residue failure of an engine ends its frame with 0xB3 and poisons its outputs. -/
def execCodecHwError (engine : Nat) (s : State) : Host.Outcome State Fault Refusal :=
  .next (match (s.engine engine).cur with
    | none => s
    | some n =>
      match (s.stream n).frame with
      | none => s
      | some f =>
        if !s.running then s
        else
          let v := s.stream n
          let t := s.record { cls := 0x28, sev := 1, kind := 6, unit := engine, sub := n, status := 0xB3 }
          let t := if v.encodes then t.poisonBytes (f.g 18 6) (f.g 14 4) else t
          let t := if v.encodes || !f.flag 0 then t.poisonPic v (v.target f) [(0, v.bufStride)] else t
          t.endFrame n { f with poisoned := true } 0xB3 0 [])

end Sys2Proof.Machine
end

