-- ==== Sys2Proof/Machine/Boot.lean ====
section
/-!
DEFINITION. Machine/Boot.lean: the boot flash, images and their fallback, image writes (R458 to R463).
-/
namespace Sys2Proof.Machine

/-! ### The boot flash (R458 to R460) -/

/-- Set the boot flash and what the harbourmaster keeps beside its registers. -/
def State.setBoot (s : State) (b : Boot) : State := { s with boot := b }

/-- The boot flash is one that the harbourmaster accepts (R458). [Log 70 DESIGN CHOICE] -/
def bootFlashOk : Bool := Config.bootOctal && decide (64 ≤ Config.bootMib) && decide (Config.bootMib ≤ 1024)

/-- Bytes of an image slot (Table 19-1). -/
def imageSlot : Nat := (Config.bootMib * 0x100000 - 0x800000) / 2

/-- Offset of an image slot in the boot flash (Table 19-1). -/
def imageOff (i : Nat) : Nat := 0x800000 + i * imageSlot

/-- The directory in use: of two valid copies the one with the larger GEN, copy 0 when they are equal; without a valid copy PREF = CHSLOT = 0
(R460). -/
def Boot.dir (b : Boot) : BootDir :=
  match b.dirs.getD 0 none, b.dirs.getD 1 none with
  | some d, some e => if d.gen < e.gen then e else d
  | some d, none => d
  | none, some e => e
  | none, none => ⟨0, 0, 0⟩

/-- Change the directory: both copies hold GEN + 1 and the new content in the end (R460). -/
def Boot.putDir (b : Boot) (pref chslot : Nat) : Boot :=
  let d : BootDir := ⟨lo32 (b.dir.gen + 1), pref, chslot⟩
  { b with dirs := [some d, some d] }

/-! ### Images (R461, R462) -/

/-- MINSECVER, as fused or as raised since (R461, R463). -/
def State.secFloor (s : State) : Nat := s.boot.minSec.getD Config.minSecVer.toNat

/-- The first of checks 1 to 4 of R462 that a slot's content fails; 0 = none. -/
def imageCheck (im : Option (List Byte)) (floor : Nat) : Nat :=
  match im with
  | none => 1
  | some b =>
    let g := fieldAt b
    let n := 256 + g 12 4
    let key := (b.drop 32).take 96
    if g 0 4 != 0x49565254 || g 4 2 != 1 || g 6 1 != 0xB0 || g 16 16 != 0 || g 128 32 != 0 || decide (imageSlot < n) || decide (b.length < n) then 1
    else if decide (3 < g 7 1) || Config.keyRevoked (g 7 1) || Config.sha384 key != Config.imageKey (g 7 1) then 2
    else if g 8 4 < floor then 3
    else if !Config.sigOk key (b.take 160 ++ (b.drop 256).take (n - 256)) ((b.drop 160).take 96) then 4
    else 0

/-- The first failing check of image `i`, check 5 among them (R462). -/
def State.imageFail (s : State) (i : Nat) : Nat :=
  let c := imageCheck (s.boot.images.getD i none) s.secFloor
  if c != 0 then c else if s.seqr.aliveFails.contains i then 5 else 0

/-- The images in the order in which the boot ROM tries them. -/
def State.imageOrder (s : State) : List Nat := [s.boot.dir.pref, 1 - s.boot.dir.pref]

/-- The image that the boot ROM starts; none: recovery (R458, R462, Table 25-7). -/
def State.bootImage (s : State) : Option Nat :=
  if s.pins.recov || !bootFlashOk then none else s.imageOrder.find? fun i => s.imageFail i == 0

/-- An image was rejected: FAILA or FAILB, and a record. -/
def State.rejectImage (s : State) (i : Nat) : State :=
  let c := s.imageFail i
  (s.setF (if i = 0 then F.hbmBootstatFaila else F.hbmBootstatFailb) 0 c).record
    { cls := 0x38, sev := 0, kind := 7, unit := 8, addr := imageOff i, syn := c }

/-- The boot ROM's part of phase 3 (R462). -/
def State.bootImages (s : State) : State :=
  let tried := if s.pins.recov || !bootFlashOk then [] else s.imageOrder.takeWhile fun i => s.imageFail i != 0
  let t := tried.foldl State.rejectImage s
  match s.bootImage with
  | some i => (t.setF F.hbmBootstatImage 0 i).setF F.hbmBootstatRecovery 0 0
  | none => t.setF F.hbmBootstatRecovery 0 1

/-- Phase 3 runs up. -/
def State.inPhase3 (s : State) : Bool := s.seqr.moving && s.flag F.hbmPwrstatDir 0 && s.phase == 2 && !s.pins.boardTest

/-- IMAGE_ALIVE_TIMEOUT (R462 check 5): the firmware that the ROM started does not report alive within 2 s. -/
def execImageAliveTimeout (s : State) : Host.Outcome State Fault Refusal :=
  .next (match s.inPhase3, s.bootImage with
    | true, some i => s.setSeqr { s.seqr with aliveFails := s.seqr.aliveFails ++ [i] }
    | _, _ => s)

/-! ### HBM_FWCTL (R463) -/

/-- STATUS of HBM_RSTSTAT. -/
def State.rstStatus (s : State) (st : Nat) : State := s.setF F.hbmRststatStatus 0 st

/-- The slot that OP 1 writes: the one that is not running, image A in recovery. -/
def State.freeSlot (s : State) : Nat := if s.flag F.hbmBootstatRecovery 0 then 0 else 1 - s.getF F.hbmBootstatImage 0

/-- IMAGE_WRITE (R463): an access writes `v` to the low slot of HBM_FWCTL with OP 1, or with a value that names no operation; `bytes` is what the
source delivers. The slot is erased first. [Log 19 DESIGN CHOICE; 72 DESIGN CHOICE] -/
def execImageWrite (acr : Acr) (v : Nat) (bytes : List Byte) (s : State) : Host.Outcome State Fault Refusal :=
  .next (if bits v 62 2 = 2 then s
    else s.forDevice acr fun s =>
      let s := s.setLatch acr 0
      let n := bits v 0 30
      if bits v 62 2 != 1 || bits v 30 32 != 0 || decide (imageSlot < n) || s.flag F.hbmRststatBusy 0 then s.rstStatus 0xBE
      else
        let k := s.freeSlot
        let im := (bytes ++ List.replicate (n - bytes.length) 0).take n
        (s.setBoot { s.boot with images := s.boot.images.set k none, imgWrite := some (k, im) }).setF F.hbmRststatBusy 0 1)

/-- IMAGE_WRITE_COMPLETE (R463): the copy is checked under checks 1 to 4; the directory names the slot, or the slot is erased again. A device in
recovery then runs phase 3 again. [Log 72 DESIGN CHOICE] -/
def execImageWriteComplete (s : State) : Host.Outcome State Fault Refusal :=
  .next (match s.boot.imgWrite with
    | none => s
    | some (k, im) =>
      let t := (s.setBoot { s.boot with imgWrite := none }).setF F.hbmRststatBusy 0 0
      if imageCheck (some im) t.secFloor != 0 then t.rstStatus 0xBE
      else
        let b := { t.boot with images := t.boot.images.set k (some im) }
        let t := (t.setBoot (b.putDir k b.dir.chslot)).rstStatus 0
        if t.phase = 3 && t.flag F.hbmBootstatRecovery 0 && !t.seqr.moving && t.seqr.want then
          (t.setF F.hbmPwrstatPhase 0 2).runPhases true
        else t)

/-- RAISE_MINSECVER (R463): an access writes `v` to the low slot of HBM_FWCTL with OP 2: MINSECVER rises to the SECVER of the running image.
[Log 72 DESIGN CHOICE] -/
def execRaiseMinsecver (acr : Acr) (v : Nat) (s : State) : Host.Outcome State Fault Refusal :=
  .next (if bits v 62 2 != 2 then s
    else s.forDevice acr fun s =>
      let s := s.setLatch acr 0
      match s.boot.images.getD (s.getF F.hbmBootstatImage 0) none with
      | some im =>
        if bits v 30 32 != 0 || s.flag F.hbmRststatBusy 0 || s.flag F.hbmBootstatRecovery 0 || s.phase < 3 then s.rstStatus 0xBE
        else
          let m := max s.secFloor (fieldAt im 8 4)
          ((s.setBoot { s.boot with minSec := some m }).setF F.hbmBootstatMinsecver 0 m).rstStatus 0
      | none => s.rstStatus 0xBE)

end Sys2Proof.Machine
end

