-- ==== Sys2Proof/Machine/Charter.lean ====
section
/-!
DEFINITION. Machine/Charter.lean: charter records and their checks, the charter at boot, amendments (R464 to R471).
-/
namespace Sys2Proof.Machine

/-! ### LK fields (R465, R558) -/

/-- The entry `k` of the table of fields belongs to an LK field. -/
def lkKey (k : Nat) : Bool := allFlds.any fun f => f.acc == .lk && f.lo == k % 128 && f.reg.idx == k / 128 % 256

/-- The register that a triple names, with its instance here (R554, R465). -/
def regAt (block slot inst : Nat) : Option (Reg × Nat) :=
  (allRegs.find? fun r => r.block == block && decide (r.slot ≤ slot) && decide (slot < r.slot + r.cnt) && r.width == 1 &&
      decide (r.first ≤ inst) && decide (inst < r.insts)).map fun r => (r, inst * r.cnt + (slot - r.slot))

/-- The LK fields of a register. -/
def Reg.lk (r : Reg) : List Fld := r.flds.filter (·.acc == .lk)

/-- A charter state: the LK fields as a table of fields, the installed signer table, CHARTERNO, whether a KIND 0 charter is installed. -/
structure Chart where
  regs : Tab Nat
  signers : List (List Byte)
  no : Nat
  full : Bool
  deriving DecidableEq, Repr

/-- The unchartered state over the registers of `s` (R468). -/
def State.unchartered (s : State) : Chart := ⟨tclear lkKey s.regs, [], 0, false⟩

/-- The installed charter state. -/
def State.chart (s : State) : Chart := ⟨s.regs, s.boot.signers, s.getF F.chtAmdstatCharterno 0, s.getF F.hbmBootstatCharter 0 != 2⟩

/-- The device as it would be under a charter state. -/
def State.under (s : State) (c : Chart) : State := { s with regs := c.regs }

/-! ### Records (R464, R465) -/

/-- KIND, NSIG, NSIGNER and NREC of a record (Table 19-4). -/
def chKind (b : List Byte) : Nat := fieldAt b 6 1 % 2
def chSig (b : List Byte) : Nat := fieldAt b 7 1
def chSigner (b : List Byte) : Nat := fieldAt b 31 1
def chRec (b : List Byte) : Nat := fieldAt b 32 4

/-- The signer table is present. -/
def chTable (b : List Byte) : Bool := chKind b == 0 || bit (fieldAt b 6 1) 1

/-- OWNERKEY of a KIND 0 record. -/
def chOwner (b : List Byte) : List Byte := (b.drop 64).take 96

/-- Offset of the signer table, of the records and of the signature blocks. -/
def chTableAt (b : List Byte) : Nat := if chKind b = 0 then 160 else 64
def chRecAt (b : List Byte) : Nat := chTableAt b + 96 * chSigner b
def chSigAt (b : List Byte) : Nat := chRecAt b + 16 * chRec b

/-- The keys of the signer table. -/
def chKeys (b : List Byte) : List (List Byte) := (List.range (chSigner b)).map fun i => (b.drop (chTableAt b + 96 * i)).take 96

/-- BLOCK, REG, INST and VALUE of the records; the two bytes that are 0. -/
def chRecs (b : List Byte) : List (Nat × Nat × Nat × Nat × Nat) :=
  (List.range (chRec b)).map fun i =>
    let g := fun off n => fieldAt b (chRecAt b + 16 * i + off) n
    (g 0 2, g 2 2, g 4 2, g 8 8, g 6 2)

/-- The signature blocks: index, bytes 1 to 31, signature. -/
def chBlocks (b : List Byte) : List (Nat × Nat × List Byte) :=
  (List.range (chSig b)).map fun i =>
    let o := chSigAt b + 128 * i
    (fieldAt b o 1, fieldAt b (o + 1) 31, (b.drop (o + 32)).take 96)

/-- The charter state after a record (R465). -/
def Chart.apply (c : Chart) (b : List Byte) : Chart :=
  let base := if chKind b = 0 then tclear lkKey c.regs else c.regs
  let regs := (chRecs b).foldl (fun (t : Tab Nat) r =>
    match regAt r.1 r.2.1 r.2.2.1 with
    | some (g, i) => g.lk.foldl (fun (t : Tab Nat) f => tset (fun _ => f.dflt i) t (f.key i) (bits r.2.2.2.1 f.lo f.w)) t
    | none => t) base
  ⟨regs, if chTable b then chKeys b else c.signers, fieldAt b 8 8, true⟩

/-! ### Checks (Table 19-6) -/

/-- Check 2: the format. -/
def formatOk (b : List Byte) : Bool :=
  let g := fieldAt b
  g 0 4 == 0x52544843 && g 4 2 == 1 && decide (g 6 1 < 4) && chSig b == chKind b + 1 && decide (chRec b ≤ 65536) && g 40 24 == 0 &&
    (if chTable b then decide (1 ≤ chSigner b) && decide (chSigner b ≤ 8) else chSigner b == 0) &&
    (chKind b == 1 || g 16 8 == 0) && g 36 4 == chSigAt b + 128 * chSig b && b.length == g 36 4 && decide (g 36 4 ≤ 0x200000) &&
    (chRecs b).all (fun r => r.2.2.2.2 == 0) && (chBlocks b).all (fun x => x.2.1 == 0)

/-- Check 3: serial and numbers. [Log 73 DEDUCED] -/
def Chart.numberOk (c : Chart) (b : List Byte) : Bool :=
  let n := fieldAt b 8 8
  (fieldAt b 24 7 == 0 || fieldAt b 24 7 == Config.serial.toNat) && decide (c.no < n) &&
    (chKind b == 0 || (c.full && fieldAt b 16 8 == c.no))

/-- Check 4: keys and signatures. -/
def Chart.sigsOk (c : Chart) (owner : Option (List Byte)) (b : List Byte) : Bool :=
  let msg := b.take (chSigAt b)
  let bl := chBlocks b
  if chKind b = 0 then
    (match owner with
      | some d => Config.sha384 (chOwner b) == d
      | none => true) && bl.all fun x => x.1 == 0xFF && Config.sigOk (chOwner b) msg x.2.2
  else
    let keys := bl.map fun x => c.signers.getD x.1 []
    bl.all (fun x => decide (x.1 < c.signers.length) && Config.sigOk (c.signers.getD x.1 []) msg x.2.2) &&
      (bl.map (·.1)).eraseDups.length == bl.length && keys.eraseDups.length == keys.length

/-- Check 5: the records name LK fields, each instance once. -/
def recordsOk (b : List Byte) : Bool :=
  let rs := chRecs b
  let at_ := fun (r : Nat × Nat × Nat × Nat × Nat) => regAt r.1 r.2.1 r.2.2.1
  rs.all (fun r => match at_ r with
    | some (g, _) => !g.lk.isEmpty && sumOf (g.lk.map fun f => bits r.2.2.2.1 f.lo f.w <<< f.lo) == r.2.2.2.1
    | none => false) &&
  (let ks := rs.map fun r => (at_ r).map fun x => (x.1.idx, x.2)
   ks.eraseDups.length == ks.length)

/-- Two of the sixteen partitions conflict. -/
def partPairs (p : Nat → Nat → Bool) : Bool := (List.range 16).any fun a => (List.range 16).any fun b => decide (a < b) && p a b

/-- The ranges of two partitions meet. -/
def State.meet (t : State) (first count : Fld) (a b : Nat) : Bool :=
  let n := fun p => t.getF count p
  n a != 0 && n b != 0 && rangesMeet (t.getF first a) (n a) (t.getF first b) (n b)

/-- Partition `p` is sealed. -/
def State.isSealed (t : State) (p : Nat) : Bool := !t.flag F.chtPartMode p

/-- Partition `p` holds a share of codec engine `e`. -/
def State.usesEngine (t : State) (p e : Nat) : Bool :=
  t.getF F.cdcShareStreams (8 * p + e) != 0 || t.getF F.cdcShareLiverate (8 * p + e) != 0 || t.getF F.cdcShareWeight (8 * p + e) != 0

/-- Regions of a partition: number, TYPE, SIZE. -/
def State.regionsOf (t : State) (p : Nat) : List (Nat × Nat × Nat) :=
  ((List.range 1024).filter fun r => t.getF F.fltRgninfoType r != 0 && t.getF F.fltRgninfoOwner r == p).map fun r =>
    (r, t.getF F.fltRgninfoType r, t.getF F.fltRgninfoSize r)

/-- Reaches of partition `p`. -/
def State.reachesIn (t : State) (p : Nat) : List Nat := (List.range 80).filter (t.hasReach p)

/-- R202 and R367: nothing that is granted to one partition is granted to another. -/
def State.disjoint (t : State) : Bool :=
  !partPairs fun a b =>
    (t.getF F.chtPreachloReach a).land (t.getF F.chtPreachloReach b) != 0 || (t.getF F.chtPreachhiReach a).land (t.getF F.chtPreachhiReach b) != 0 ||
    t.meet F.chtPartCtxfirst F.chtPartCtxcount a b || t.meet F.shtTokallocTokfirst F.shtTokallocTokcount a b ||
    t.meet F.zlkArrallocArrfirst F.zlkArrallocArrcount a b || t.meet F.kvtSlotsSlotfirst F.kvtSlotsSlotcount a b

/-- R341, R340: the regions fit the tier, as trained or, before its first training, at its largest. [Log 73 DEDUCED] -/
def State.tierFits (t : State) : Bool :=
  let cell := if t.flash.cellBits = 0 then 3 else t.flash.cellBits
  let cap := if t.flash.usable = 0 then 0x800000000 * 57 / 64 * 31 / 32 else t.flash.usable
  decide (sumOf ((List.range 16).flatMap fun p => (t.regionsOf p).map fun r => if r.2.1 = 2 then r.2.2 * cell else r.2.2) ≤ cap)

/-- R360: the staging window of a partition with flash write rights lies on one of its sites. -/
def State.stagingOk (t : State) (p : Nat) : Bool :=
  let n := t.getF F.fltStageSize p
  let site := t.getF F.fltStageSite p
  if t.flag F.chtPartFlw p then decide (64 ≤ n) && decide (n ≤ 1024) && decide (site < 48) && t.siteOwner site == p else n == 0

/-- R368: what a sealed partition holds no other partition holds; its regions lie on LUN indices of its own. -/
def State.sealOk (t : State) : Bool :=
  (!partPairs fun a b =>
    (t.isSealed a || t.isSealed b) &&
      ((t.getF F.chtPartLinks a).land (t.getF F.chtPartLinks b) != 0 || (List.range 8).any (fun e => t.usesEngine a e && t.usesEngine b e) ||
        (t.getF F.chtPartLuns a).land (t.getF F.chtPartLuns b) != 0)) &&
  (List.range 16).all fun p => if t.isSealed p then (t.regionsOf p).isEmpty || t.getF F.chtPartLuns p != 0 else t.getF F.chtPartLuns p == 0

/-- The resources of Table 15-12 that the grants of a partition use. [Log 73 DEDUCED] -/
def State.usesRes (t : State) (p x : Nat) : Bool :=
  let onIsland := fun (i : Nat) => (t.reachesIn p).any (· / 20 == i) || (List.range 48).any (fun n => siteIsland n == i && t.siteOwner n == p)
  if x < 8 then onIsland (x % 4)
  else if x < 10 then !(t.fnsOf p).isEmpty
  else if x < 22 then bit (t.getF F.chtPartLinks p) (x - 10)
  else if x = 22 then t.flag F.chtPartFlr p
  else t.flag F.chtPartFlw p

/-- R379: no granted use without a rate. -/
def State.ratesOk (t : State) (p : Nat) : Bool := (List.range 24).all fun x => !t.usesRes p x || t.getF F.chtRegRate (24 * p + x) != 0

/-- Ranges lie in their number spaces. -/
def State.spacesOk (t : State) (p : Nat) : Bool :=
  decide (t.getF F.chtPartCtxfirst p + t.getF F.chtPartCtxcount p ≤ 1024) &&
  decide (t.getF F.shtTokallocTokfirst p + t.getF F.shtTokallocTokcount p ≤ 65536) &&
  decide (t.getF F.zlkArrallocArrfirst p + t.getF F.zlkArrallocArrcount p ≤ 4096) &&
  decide (t.getF F.kvtSlotsSlotfirst p + t.getF F.kvtSlotsSlotcount p ≤ 16384)

/-- R488: a fixed point that the cap can never bind. -/
def State.fixedOk (t : State) : Bool :=
  !t.flag F.pwrOpfixFixed 0 || decide (4 * t.getF F.pwrVfPmax (t.getF F.pwrOpfixFreq 0) + 250 ≤ 10 * t.getF F.pwrCapCapmax 0)

/-- Check 6, on the whole state that would result. [Log 73 DEDUCED] -/
def State.charterOk (t : State) : Bool :=
  t.disjoint && t.tierFits && t.sealOk && t.fixedOk &&
  (List.range 16).all (fun p => t.stagingOk p && t.ratesOk p && t.spacesOk p) &&
  (List.range 64).all (fun f => decide (1 ≤ t.getF F.chtFuncMsixsize f) && decide (t.getF F.chtFuncMsixsize f ≤ 2048)) &&
  decide (sumOf ((List.range 64).map fun f => t.getF F.chtFuncMsixsize f) ≤ 2048) &&
  decide (sumOf ((List.range 64).map fun f => t.getF F.pciQcmdstatQlimit f) ≤ 4096)

/-- Checks 2 to 6 against a charter state: the status of the first that fails; 0 = none (Table 19-6). -/
def State.recordStatus (s : State) (c : Chart) (b : List Byte) : Nat :=
  if !formatOk b then 0xB9
  else if !c.numberOk b then 0xBA
  else if !c.sigsOk s.boot.owner b then 0xB8
  else if !recordsOk b then 0xB9
  else if !(s.under (c.apply b)).charterOk then 0xBB
  else 0

/-! ### The charter at boot (R468) -/

/-- Verify the records of a slot in order: the charter state, or the index of the first record that fails. -/
def State.verifyFrom (s : State) (c : Chart) (ix : Nat) : List (List Byte) → Chart ⊕ Nat
  | [] => .inl c
  | b :: t => if chKind b = (if ix = 0 then 0 else 1) ∧ s.recordStatus c b = 0 then s.verifyFrom (c.apply b) (ix + 1) t else .inr ix

/-- Verify slot `k`; an empty slot fails at its first record. -/
def State.verifySlot (s : State) (k : Nat) : Chart ⊕ Nat :=
  match s.boot.slots.getD k [] with
  | [] => .inr 0
  | l => s.verifyFrom s.unchartered 0 l

/-- The first charter that passes programs the owner digest (R467). -/
def State.fuseOwner (s : State) (b : List Byte) : State :=
  match s.boot.owner with
  | none => if chKind b = 0 then s.setBoot { s.boot with owner := some (Config.sha384 (chOwner b)) } else s
  | some _ => s

/-- Load the LK fields, the signer table and CHARTERNO of a charter state that slot `k` holds. TJTHR of 0 stores 95 and CAP stays within CAPMAX
(Tables 20-5, 20-6). [Log 74 DEDUCED] -/
def State.loadChart (s : State) (c : Chart) (k : Nat) : State :=
  let t := (s.under c).setBoot { s.boot with signers := c.signers }
  let t := if t.getF F.pwrCfgTjthr 0 = 0 then t.setF F.pwrCfgTjthr 0 95 else t
  let t := t.setF F.pwrCapCap 0 (min (t.getF F.pwrCapCap 0) (t.getF F.pwrCapCapmax 0))
  (t.setF F.chtAmdstatCharterno 0 c.no).setF F.hbmBootstatCharter 0 k

/-- A charter slot fails at a record. -/
def State.slotRecord (s : State) (k ix : Nat) : State :=
  s.record { cls := 0x39, sev := 0, kind := 7, unit := 8, addr := 0x100000 + k * 0x200000, syn := ix }

/-- The charter's part of phase 3 (R468): the slot that CHSLOT names, then the other, else unchartered. -/
def State.bootCharter (s : State) : State :=
  let k := s.boot.dir.chslot
  let use := fun (t : State) (c : Chart) (k : Nat) => (t.fuseOwner ((t.boot.slots.getD k []).headD [])).loadChart c k
  match s.verifySlot k with
  | .inl c => use s c k
  | .inr i =>
    let s := s.slotRecord k i
    match s.verifySlot (1 - k) with
    | .inl c => use s c (1 - k)
    | .inr j => ((s.slotRecord (1 - k) j).loadChart s.unchartered 2).setF F.chtAmdst2State 0 3

/-! ### Delivering an amendment (R469, R470) -/

/-- STATE of CHT_AMDST2 when no amendment is pending. -/
def State.restState (s : State) : Nat := if s.getF F.hbmBootstatCharter 0 = 2 then 3 else 0

/-- STATUS of CHT_AMDST2. -/
def State.amdStatus (s : State) (st : Nat) : State := s.setF F.chtAmdst2Status 0 st

/-- The pending amendment goes. -/
def State.dropAmendment (s : State) : State :=
  ((s.setBoot { s.boot with record := none }).setF F.chtAmdst2State 0 s.restState).setF F.chtAmdst2Affected 0 0

/-- Fields of a register differ between two states. -/
def regDiffers (a b : State) (r : Reg) (i : Nat) : Bool := r.lk.any fun f => a.getF f i != b.getF f i

/-- The change from `a` to `b` touches LK fields or grants of partition `p` (R470, Table 15-1). [Log 74 DEDUCED] -/
def touches (a b : State) (p : Nat) : Bool :=
  [R.chtPart, R.chtPreachlo, R.chtPreachhi, R.zlkArralloc, R.shtTokalloc, R.kvtSlots, R.fltStage].any (fun r => regDiffers a b r p) ||
  (List.range 24).any (fun x => regDiffers a b R.chtReg (24 * p + x)) || (List.range 8).any (fun e => regDiffers a b R.cdcShare (8 * p + e)) ||
  (List.range 48).any (fun n => a.siteOwner n != b.siteOwner n && (a.siteOwner n == p || b.siteOwner n == p)) ||
  (List.range 1024).any (fun r => regDiffers a b R.fltRgninfo r && ((a.getF F.fltRgninfoType r != 0 && a.getF F.fltRgninfoOwner r == p) ||
    (b.getF F.fltRgninfoType r != 0 && b.getF F.fltRgninfoOwner r == p))) ||
  (List.range 64).any (fun f => regDiffers a b R.chtFunc f && (a.fnPart f == p || b.fnPart f == p)) ||
  (List.range 24).any (fun x => (List.range 16).any fun k =>
    let o := fun (s : State) => bits (s.getF F.chtSlotsOwner x) (4 * k) 4
    o a != o b && (o a == p || o b == p))

/-- AFFECTED of a record: every partition for a full charter (R469, R470). -/
def State.affectedBy (s : State) (b : List Byte) : Nat :=
  if chKind b = 0 then 0xFFFF
  else sumOf (((List.range 16).filter fun p => touches s (s.under (s.chart.apply b)) p).map (2 ^ ·))

/-- The active charter slot (R460); of an unchartered device, the one that is not written next. -/
def State.activeSlot (s : State) : Nat := if s.getF F.hbmBootstatCharter 0 < 2 then s.getF F.hbmBootstatCharter 0 else s.boot.dir.chslot

/-- Check 7: room in the active slot. -/
def State.slotFull (s : State) (b : List Byte) : Bool :=
  let l := s.boot.slots.getD s.activeSlot []
  chKind b == 1 && (decide (255 ≤ l.length - 1) || decide (0x200000 < sumOf (l.map List.length) + b.length))

/-- The outcome of a delivery (Table 19-6). [Log 73 DEDUCED] -/
def State.deliver (s : State) (b : List Byte) : State :=
  let st := s.getF F.chtAmdst2State 0
  let bad := if st = 1 || st = 2 then 0xBC
    else if s.recordStatus s.chart b != 0 then s.recordStatus s.chart b
    else if s.slotFull b then 0xBD
    else 0
  if bad != 0 then s.amdStatus bad
  else
    let a := s.affectedBy b
    let t := (s.fuseOwner b).amdStatus 0
    ((t.setBoot { t.boot with record := some b }).setF F.chtAmdst2State 0 1).setF F.chtAmdst2Affected 0 a

/-- The harbourmaster's firmware runs and takes amendments: not while OFF, in recovery (R462) or in board test (Table 25-11). [Log 73 DEDUCED] -/
def State.takesAmendments (s : State) : Bool := decide (3 ≤ s.phase) && !s.flag F.hbmBootstatRecovery 0 && !s.pins.boardTest

/-- AMENDMENT_SUBMIT (R469): the physical function writes `v` to CHT_AMDCTL with OP 1, or with a value that names no operation, and the record lies
at CHT_AMDADDR; or the management bus delivers the record. [Log 19 DESIGN CHOICE] -/
def execAmendmentSubmit (acr : Acr) (v : Nat) (record : List Byte) (s : State) : Host.Outcome State Fault Refusal :=
  .next (match acr with
    | .mb => if !s.takesAmendments then s.emit (.mctp 4 0xBE 0) else (s.deliver record).emit (.mctp 4 ((s.deliver record).getF F.chtAmdst2Status 0) 0)
    | .fn 0 =>
      if bits v 30 2 = 2 then s
      else if bits v 30 2 != 1 || bits v 0 30 != 0 || s.getF F.chtAmdaddrAddr 0 % 64 != 0 || !s.takesAmendments then s.amdStatus 0xBE
      else s.deliver record
    | .fn _ => s.refuseAcc acr)

/-- AMENDMENT_DISCARD (R470): the physical function writes `v` to CHT_AMDCTL with OP 2. -/
def execAmendmentDiscard (acr : Acr) (v : Nat) (s : State) : Host.Outcome State Fault Refusal :=
  .next (match acr with
    | .fn 0 =>
      if bits v 30 2 != 2 then s
      else if bits v 0 30 != 0 || s.getF F.chtAmdst2State 0 != 1 then s.amdStatus 0xBE
      else s.dropAmendment.amdStatus 0xBF
    | _ => s.refuseAcc acr)

/-! ### Applying an amendment (R470, R471) -/

/-- Every context in the range of a partition is FREE, and every stream of its functions (R470). -/
def State.quiescent (s : State) (p : Nat) : Bool :=
  (List.range (s.getF F.chtPartCtxcount p)).all (fun i => s.getF F.shtCtxstatState (s.getF F.chtPartCtxfirst p + i) == 0) &&
    s.streams.all fun e => s.streamState e.1 == 0 || s.getF F.cdcSstatPart e.1 != p

/-- The partition that holds a token or an arrival counter. -/
def holderOf (owns : Nat → Nat → Bool) (i : Nat) : Option Nat := (List.range 16).find? fun p => owns p i

/-- Clear cluster-held state of a reach (R387). -/
def State.clearReach (s : State) (r : Nat) : State :=
  (List.range 10).foldl (fun (t : State) i =>
    let c := 10 * r + i
    (t.setCluster c { t.cluster c with image := [] }).setF F.sfuStoreImageid c 0) s

/-- The key pair of a region is destroyed: its content is gone, and a new pair serves the next owner (R358). [Log 74 DEDUCED] -/
def State.newKey (s : State) (r : Nat) : State :=
  let v := s.flRegion r
  let s := (s.dropUpdate r).giveFree (s.flUnits r (v.written.length + sumOf (v.held.map (·.2))))
  ((s.setRegion r { FlRegion.fresh with key := v.key + 1 }).setF F.fltRgnverCommitted r 0).setF F.fltRgnverBuilding r 0

/-- Sites whose ownership changes under a new state (R329, R471). [Log 74 DEDUCED] -/
def sitesMoved (a b : State) : List Nat := (List.range 48).filter fun n => a.siteOwner n != b.siteOwner n

/-- Step 1 of R471: what leaves a partition is cleared and released; the clearing of the sites goes on until AMENDMENT_COMMIT. [Log 74 DEDUCED] -/
def State.releaseMoved (s b : State) : State :=
  let sites := sitesMoved s b
  let reaches := (List.range 80).filter fun r => (List.range 16).any fun p => s.hasReach p r && !b.hasReach p r
  let regions := (List.range 1024).filter fun r => s.getF F.fltRgninfoType r != 0 &&
    (s.getF F.fltRgninfoType r != b.getF F.fltRgninfoType r || s.getF F.fltRgninfoOwner r != b.getF F.fltRgninfoOwner r)
  let pools := (List.range 16).filter fun p => regDiffers s b R.kvtSlots p
  let gone := fun (owns : State → Nat → Nat → Bool) i => match holderOf (owns s) i with
    | some p => !owns b p i
    | none => false
  let t := sites.foldl (fun (t : State) n =>
    let t := t.setF F.memStatusOwner n 31
    if t.getF F.memStatusState n == 2 then t.setF F.memStatusState n 3 else t) s
  let t := reaches.foldl State.clearReach t
  let t := regions.foldl State.newKey t
  let t := t.clearRegs fun r i => (r == R.shtTok.idx && gone State.ownsToken i) ||
    ((r == R.zlkArr.idx || r == R.zlkArrcfg.idx) && gone State.ownsArrival i)
  pools.foldl (fun (t : State) p => (t.setAgent p Agent.fresh).setF F.kvtStateState p 0) t

/-- AMENDMENT_APPLY (R470, R471): once every affected partition is quiescent, the amendment starts to apply. -/
def execAmendmentApply (s : State) : Host.Outcome State Fault Refusal :=
  .next (match s.boot.record with
    | none => s
    | some b =>
      if s.getF F.chtAmdst2State 0 != 1 || !((List.range 16).all fun p => !bit (s.getF F.chtAmdst2Affected 0) p || s.quiescent p) then s
      else (s.setF F.chtAmdst2State 0 2).releaseMoved (s.under (s.chart.apply b)))

/-- The content of the other charter slot after a commit: the active slot with the record, or a full charter alone (R471). [Log 73 DEDUCED] -/
def State.newSlot (s : State) (b : List Byte) : List (List Byte) :=
  if chKind b = 0 then [b] else s.boot.slots.getD s.activeSlot [] ++ [b]

/-- Steps 1 (its end) to 5 of R471. -/
def State.commitAmendment (s : State) (b : List Byte) : State :=
  let c := s.chart.apply b
  let t := (List.range 48).foldl (fun (t : State) n =>
    if t.getF F.memStatusState n == 3 && (t.memOp.map (·.site)) != some n then (t.clearSite n).setF F.memStatusState n 2 else t) s
  let k := 1 - t.activeSlot
  let b1 : Boot := { t.boot with slots := t.boot.slots.set k (t.newSlot b), record := none }
  let t := t.setBoot (b1.putDir b1.dir.pref k)
  let t := t.loadChart { c with regs := (t.chart.apply b).regs } k
  ((t.setF F.chtAmdst2State 0 0).setF F.chtAmdst2Affected 0 0).amdStatus 0

end Sys2Proof.Machine
end

