-- ==== Sys2Proof/Machine/Resets.lean ====
section
/-!
DEFINITION. Machine/Resets.lean: partition reset, function-level reset, device reset, the work of the power phases (R384, R472 to R475, Tables
19-11 and 19-14), and the end of an amendment.
-/
namespace Sys2Proof.Machine

/-! ### Partition reset (R474, Table 19-14) -/

/-- The contexts of a partition that are not FREE. -/
def State.ctxsIn (s : State) (p : Nat) : List Nat :=
  (s.ctxs.filter fun e => s.getF F.shtCtxstatState e.1 != 0 && s.partOf e.1 == p).map (·.1)

/-- The queues bound to contexts of a partition. -/
def State.queuesIn (s : State) (p : Nat) : List Nat :=
  (s.queues.filter fun e => s.getF F.pciQstatState e.1 != 0 && s.partOf e.2.ctx == p).map (·.1)

/-- A register entry that a partition reset of `p` puts back: every field but LK of the registers of its scope (Tables 12-1 to 12-8, 8-7 to 8-16,
15-11, 17-13, 22-5, 22-6, 6-11). -/
def State.partKey (s : State) (p k : Nat) : Bool :=
  let i := k / 32768
  match allRegs.find? fun r => r.idx == k / 128 % 256 with
  | none => false
  | some r =>
    !lkKey k &&
      (if r.scope == .partition then
        (if r == R.shtTok then s.ownsToken p i
         else if r == R.zlkArr || r == R.zlkArrcfg then s.ownsArrival p i
         else i / r.cnt == p)
      else r.scope == .devPart && s.hasReach p (clusterReach i))

/-- A reset of context `x` begins by the reset of its partition, which takes over one that runs (Table 19-17); a fault
that waits for its teardown is torn down first (R383). [Log 45 DEDUCED] -/
def State.takeOver (s : State) (x : Nat) : State :=
  let s := match (s.ctx x).fault with
    | some f => s.teardown x f
    | none => s
  match (s.ctx x).reset with
  | some r => if r.waits then s.startReset x { r with destroy := true } else s.setCtx x { s.ctx x with reset := some { r with destroy := true } }
  | none => s.startReset x ⟨none, true, false, []⟩

/-- A context becomes FREE with its partition; an operation of a function on it ends. [Log 45 DEDUCED] -/
def State.freeCtx (s : State) (x : Nat) : State :=
  let by_ := (s.ctx x).reset.bind (·.by_)
  let t := ((s.abortCtx x).resetCtxRegs x).setF F.shtCtxstatFstatus x 0
  let t := (t.setF F.shtCtxstatState x 0).setCtx x Context.free
  match by_ with
  | some fn => t.ctxOpEnd fn 0
  | none => t

/-- The state of a partition after its reset (Table 19-14). [Log 54 DEDUCED] -/
def State.resetPartition (s : State) (p : Nat) : State :=
  let qs := s.queuesIn p
  let t := (s.ctxsIn p).foldl State.freeCtx s
  let t := qs.foldl (fun (t : State) q => (t.setF F.pciQstatState q 0).setQueue q Queue.free) t
  let t : State := { t with regs := tclear (t.partKey p) t.regs, evseq := tset (fun _ => 0) t.evseq p 0 }
  let t := (t.clusters.filter fun e => t.hasReach p (clusterReach e.1)).foldl (fun (t : State) e => t.setCluster e.1 { t.cluster e.1 with image := [] }) t
  let t := (t.setAgent p Agent.fresh).setFlash { t.flash with jobs := t.flash.jobs.filter fun j => j.who != .fetch p }
  let t := (t.streamsBy fun n _ => t.streamState n != 0 && t.getF F.cdcSstatPart n == p).foldl State.freeTheStream t
  t.dropUpdates fun r => t.getF F.fltRgninfoOwner r == p

/-- PARTITION_RESET (R474, R475): an access writes `v` to HBM_RSTCTL with LEVEL 1, or with a value that names no operation. Commands of the partition
end at once with status 0x0F. [Log 19 DESIGN CHOICE; 54 DEDUCED] -/
def execPartitionReset (acr : Acr) (v : Nat) (s : State) : Host.Outcome State Fault Refusal :=
  .next (if bits v 30 2 = 2 then s
    else s.forDevice acr fun s =>
      let p := bits v 0 4
      if s.flag F.hbmRststatBusy 0 || bits v 30 2 != 1 || bits v 4 26 != 0 then s.rstStatus 0xBE
      else (s.ctxsIn p).foldl State.takeOver ((s.setBoot { s.boot with partReset := some p }).setF F.hbmRststatBusy 0 1))

/-- PARTITION_RESET_END (R474). [Log 54 DEDUCED] -/
def execPartitionResetEnd (s : State) : Host.Outcome State Fault Refusal :=
  .next (match s.boot.partReset with
    | none => s
    | some p => (((s.resetPartition p).setBoot { (s.resetPartition p).boot with partReset := none }).rstStatus 0).setF F.hbmRststatBusy 0 0)

/-! ### Function-level reset (R384) -/

/-- FUNCTION_LEVEL_RESET (R384, R392, R455): virtual function `fn` is reset or disabled: its queues and streams are disabled, each context that it owns
is destroyed once its issued commands have completed; `rings` gives the commands that wait in its rings in host memory, by queue. [Log 54 DEDUCED] -/
def execFunctionLevelReset (fn : Nat) (rings : List (Nat × List (List Byte))) (s : State) : Host.Outcome State Fault Refusal :=
  .next (if fn = 0 || 64 ≤ fn then s
    else
      let host := fun (q : Nat) => ((rings.find? fun e => e.1 == q).map (·.2)).getD []
      let qs := (s.queues.filter fun e => s.getF F.pciQstatState e.1 == 1 && s.getF F.pciQstatOwner e.1 == fn).map (·.1)
      let t := qs.foldl (fun (t : State) q => t.disableQueue q (host q)) s
      let ns := t.streamsBy fun n _ => t.streamState n != 0 && t.getF F.cdcSstatOwner n == fn
      let t := ns.foldl (fun (t : State) n => ((t.setStream n { t.stream n with closing := true }).disableStream n).autoClose n) t
      let xs := (t.ctxs.filter fun e => t.getF F.shtCtxstatState e.1 != 0 && t.getF F.shtCtxstatOwner e.1 == fn).map (·.1)
      let t := xs.foldl (fun (t : State) x =>
        let r := match (t.ctx x).reset with
          | some r => { r with destroy := true }
          | none => ⟨none, true, true, []⟩
        t.setCtx x { t.ctx x with reset := some r }) t
      t.setMsix fn Msix.fresh)

/-! ### What a device reset leaves (Table 19-14) -/

/-- A register entry that a device reset keeps: the registers that reset with the standby supply or with phases 2 and 3, COMMITTED and GROWNBAD.
[Log 75 DEDUCED] -/
def keptKey (k : Nat) : Bool :=
  k % 32768 == F.fltRgnverCommitted.key 0 || k == F.fltWearGrownbad.key 0 ||
    match allRegs.find? fun r => r.idx == k / 128 % 256 with
    | some r => r.scope == .standby || r.scope == .phase2 || r.scope == .phase3
    | none => false

/-- The harbour die and the islands as a device reset leaves them, before the charter is loaded (Table 19-14): the error queue, the firmware log and
committed flash versions stay. [Log 75 DEDUCED] -/
def State.wipe (s : State) : State :=
  let fl := s.flash
  { s with regs := s.regs.filter fun e => keptKey e.1, latch := [], ctxs := [], queues := [], cmds := [], fences := [], clusters := [], agents := [],
           evseq := [], handling := [], ports := [], arch := Arch.fresh, streams := [], engines := [], sites := [], memOp := none, bundle := none,
           lostIslands := [], pcieLanes := 16, straits := [],
           flash := { fl with regions := fl.regions.foldl (fun t e => tset (fun _ => FlRegion.fresh) t e.1 { e.2 with upd := none, ops := [], held := [] }) [], jobs := [], writes := [],
                              probeOk := false, goodSince := none, relocate := [] },
           boot := { s.boot with record := none, partReset := none },
           power := { Power.fresh with sensors := s.power.sensors, hot := s.power.hot } }

/-! ### The phases upwards (Table 19-11) -/

/-- Phase 3 up: registers take their reset values, the ROM starts an image, the charter is loaded. FATAL ends unless only a power cycle ends it
(R508, R513, R519). An amendment that was pending is
discarded with status 0xBF. -/
def State.phase3Up (s : State) : State :=
  let status := if s.boot.record.isSome then 0xBF else 0
  let t := s.wipe.clearRegs fun r _ => r == R.hbmBootstat.idx
  let t := t.setF F.erqStatusState 0 (if s.seqr.hardFatal then 2 else 0)
  let t : State := if s.clearRetired then { t with retired := [], clearRetired := false } else t
  let t := (t.setF F.hbmBootstatMinsecver 0 t.secFloor).amdStatus status
  let t := t.bootImages.bootCharter
  let t := t.setF F.pwrCapCap 0 (t.getF F.pwrCapCapmax 0)
  t.setSeqr { t.seqr with aliveFails := [] }

/-- Phase 4 up: islands on, reaches cleared, the retirement list applied (R387, R513, R514). -/
def State.phase4Up (s : State) : State :=
  let t : State := { s with clusters := [], lostIslands := [] }
  let t := t.retired.foldl (fun (t : State) c => t.setF F.erqRetiredBits (c / 64) ((t.getF F.erqRetiredBits (c / 64)).lor (2 ^ (c % 64)))) t
  let t := if !t.retired.isEmpty && t.getF F.erqStatusState 0 == 0 then t.setF F.erqStatusState 0 1 else t
  (List.range 4).foldl (fun (t : State) i => t.setF F.pwrIslandVmv i (t.vOf (t.getF F.pwrIslandFreq i))) t

/-- What training found at a site; a capacity outside Table 13-1 counts as absent (R318). -/
def trained (w : PhaseWork) (n : Nat) : Option SiteTrain := w.sites.find? fun e => e.site == n && decide (e.cap < 3) && decide (e.rate < 5)

/-- The data rate of a site group: the highest at which every present site trains (R317). -/
def groupRate (w : PhaseWork) (g : Nat) : Nat := ((List.range 4).filterMap fun i => (trained w (4 * g + i)).map (·.rate)).foldl min 4

/-- Phase 5 up for a site: trained and cleared, or absent (R318, R329). -/
def State.trainSite (w : PhaseWork) (s : State) (n : Nat) : State :=
  match trained w n with
  | some e =>
    let t := ((s.setF F.memStatusCap n e.cap).setF F.memStatusRanks n (b2n e.ranks)).setF F.memStatusRate n (groupRate w (n / 4))
    t.setF F.memStatusState n 2
  | none => (s.setF F.memStatusState n 0).record { cls := 0x03, sev := 2, kind := 2, unit := n, island := siteIsland n }

/-- Phase 5 up: every site is trained and cleared. -/
def State.phase5Up (w : PhaseWork) (s : State) : State :=
  (List.range 48).foldl (State.trainSite w) { s with mem := [], ecc := [] }

/-- Dense 4 KiB blocks that the regions take (R340). -/
def State.flashUsed (s : State) : Nat := sumOf (s.flash.regions.map fun e => s.flUnits e.1 e.2.written.length)

/-- Phase 6 up for the flash tier: trained, the flush journal replayed, or absent (R338 to R340, R363). -/
def State.trainFlash (s : State) (n : Option NandTrain) : State :=
  match n with
  | none => s.setF F.fltStatusState 0 1
  | some e =>
    let t := ((s.setF F.fltStatusLpc 0 e.lpc).setF F.fltStatusRate 0 e.rate).setF F.fltStatusState 0 3
    let fl := { t.flash with cellBits := e.cell, usable := e.raw * 57 / 64 * 31 / 32, spareDense := e.spareDense, spareSlc := e.spareSlc,
                             capDense := e.capDense, capSlc := e.capSlc, rating := e.rating, flushing := false }
    let t := t.setFlash fl
    t.setFlash { t.flash with free := t.flash.usable - t.flashUsed }

/-- Phase 6 up for a port: training begins unless its reference clock is absent or its ROLE is DISABLED (R405, R407). -/
def State.startPort (w : PhaseWork) (s : State) (p : Nat) : State :=
  if w.noRef.contains (p / 4) then s.setF F.zlkPstatState p 0
  else if s.getF F.zlkPcfgRole p = 0 then s.setF F.zlkPstatState p 1
  else (s.setF F.zlkPstatState p 2).setPort p { Port.fresh with since := s.now }

/-- Phase 7 up: formation starts where LEADPRIO is not 0 (R426). -/
def State.phase7Up (s : State) : State := if s.getF F.zlkArchcfgLeadprio 0 = 0 then s else s.startForm

/-- What phase `k` does on its way up; in board test rails and clocks only (R578). -/
def State.phaseUp (s : State) (w : PhaseWork) (k : Nat) : State :=
  if s.pins.boardTest then s
  else match k with
  | 2 => { (s.setF F.tmbNowNs 0 0).setArch { s.arch with trimAcc := 0 } with pins := { s.pins with refLost := false } }
  | 3 => s.phase3Up
  | 4 => s.phase4Up
  | 5 => s.phase5Up w
  | 6 => (List.range 12).foldl (State.startPort w) (s.trainFlash w.nand)
  | 7 => s.phase7Up
  | _ => s

/-! ### The phases downwards (Table 19-11) -/

/-- A context as phase 7 runs down: FAULTED with status 0x0F, or with the status of its own fault. [Log 75 DEDUCED] -/
def State.ctxDown (s : State) (x : Nat) : State :=
  match (s.ctx x).fault with
  | some f => s.teardown x f
  | none =>
    let t := s.abortCtx x
    if t.getF F.shtCtxstatState x = 2 then t else (t.setF F.shtCtxstatState x 2).setF F.shtCtxstatFstatus x 0x0F

/-- Phase 7 down: fetches stop and every context is torn down with status 0x0F. A device reset ends commands without records (Table 19-14).
[Log 75 DEDUCED] -/
def State.phase7Down (s : State) : State :=
  let xs := (s.ctxs.filter fun e => s.getF F.shtCtxstatState e.1 != 0).map (·.1)
  xs.foldl State.ctxDown (if s.seqr.reset then { s with cmds := [], fences := [] } else s)

/-- Phase 6 down: staged bytes are programmed, pending updates end, links announce the loss, streams end (R363, R347, R430). -/
def State.phase6Down (s : State) : State :=
  let t := s.dropUpdates fun _ => true
  let t := (t.setFlash { t.flash with writes := [], jobs := [] }).showStaged
  let t := (List.range 12).foldl (fun (t : State) p => if t.portUp p then t.loseLink p else t) t
  let t := (List.range 12).foldl (fun (t : State) p => t.setF F.zlkPstatState p 0) t
  t.streams.foldl (fun (t : State) e => t.freeTheStream e.1) t

/-- Phase 5 down: the sites are released. -/
def State.phase5Down (s : State) : State :=
  (List.range 48).foldl (fun (t : State) n => t.setF F.memStatusState n 0) { s with memOp := none, mem := [], ecc := [] }

/-- What phase `k` does on its way down. -/
def State.phaseDown (s : State) (k : Nat) : State :=
  if s.pins.boardTest then s
  else match k with
  | 7 => s.phase7Down
  | 6 => s.phase6Down
  | 5 => s.phase5Down
  | 4 => { s with clusters := [] }
  | 2 => { s with msixs := [] }
  | 1 => s.wipe.setSeqr { s.wipe.seqr with hardFatal := false }
  | _ => s

/-! ### Phase boundaries (R473, R474) -/

/-- Rest, short of or at an end. -/
def State.restPhases (s : State) : State :=
  let t := (s.setSeqr { s.seqr with moving := false }).setF F.hbmPwrstatDir 0 0
  if t.phase = 0 then { t with pins := { t.pins with boardTest := false } } else t

/-- A device reset ends, or is given up for an off request. -/
def State.endReset (s : State) : State := (s.setSeqr { s.seqr with reset := false }).setF F.hbmRststatBusy 0 0

/-- The device goes the way of the last request, or rests. -/
def State.follow (s : State) : State := s.restPhases.runPhases s.seqr.want

/-- At a phase boundary, and where a wait for one ends: a reset that waits starts, a running one goes on, else the last request sets the direction;
`up` says which way the phase that has ended ran. -/
def State.atBoundary (s : State) (up : Bool) : State :=
  if s.seqr.resetWaits && !s.applying && 3 ≤ s.phase then
    (s.setSeqr { s.seqr with reset := true, resetWaits := false, moving := true }).setF F.hbmPwrstatDir 0 0
  else if s.seqr.reset then
    if up then
      (if s.seqr.want && decide (s.phase < s.topPhase) then s.runPhases true else s.endReset.follow)
    else if 2 < s.phase then s
    else if s.seqr.want then s.restPhases.runPhases true
    else s.endReset.follow
  else s.follow

/-- The phase that runs up next, the phase below a phase; board test has no phase 3 (R578). -/
def State.phaseAbove (s : State) : Nat := if s.pins.boardTest && s.phase == 2 then 4 else s.phase + 1
def State.phaseBelow (s : State) : Nat := if s.pins.boardTest && s.phase == 4 then 2 else s.phase - 1

/-- POWER_PHASE_UP (R472, R473): the phase that runs up ends; `w` is what it finds on the board. [Log 5 DESIGN CHOICE] -/
def execPowerPhaseUp (w : PhaseWork) (s : State) : Host.Outcome State Fault Refusal :=
  .next (if !s.seqr.moving || !s.flag F.hbmPwrstatDir 0 then s
    else
      let k := s.phaseAbove
      ((s.phaseUp w k).setF F.hbmPwrstatPhase 0 k).atBoundary true)

/-- POWER_PHASE_DOWN (R472, R473): the phase that runs down ends; that of a phase whose up run was abandoned only takes its rails away. [Log 75 DEDUCED] -/
def execPowerPhaseDown (s : State) : Host.Outcome State Fault Refusal :=
  .next (if !s.seqr.moving || s.flag F.hbmPwrstatDir 0 then s
    else if s.seqr.partial_ then (s.setSeqr { s.seqr with partial_ := false }).atBoundary false
    else
      let k := s.phase
      let b := s.phaseBelow
      ((s.phaseDown k).setF F.hbmPwrstatPhase 0 b).atBoundary false)

/-! ### Device reset (R474, R475) -/

/-- A device reset is due: an image write stops, a pending amendment and a running partition reset end; it starts at the next phase boundary, after
an amendment that applies. Below phase 3 nothing happens (Table 25-11). [Log 75 DEDUCED] -/
def State.askDeviceReset (s : State) : State :=
  if s.seqr.reset || s.seqr.resetWaits || s.pins.boardTest || !(decide (3 ≤ s.phase) || s.inPhase3) then s
  else
    let s := s.setBoot { s.boot with imgWrite := none, partReset := none }
    let s := if s.getF F.chtAmdst2State 0 = 1 then ((s.setF F.chtAmdst2State 0 s.restState).setF F.chtAmdst2Affected 0 0).amdStatus 0xBF else s
    let t := (s.setSeqr { s.seqr with resetWaits := true }).setF F.hbmRststatBusy 0 1
    if t.seqr.moving then t else t.atBoundary true

/-- DEVICE_RESET (R474, R475): an access writes a value to HBM_RSTCTL with LEVEL 2, or (none) PERST_N is asserted or a hot reset arrives, which also resets
the MSI-X capabilities (R392). [Log 75 DEDUCED] -/
def execDeviceReset (src : Option (Acr × Nat)) (s : State) : Host.Outcome State Fault Refusal :=
  .next (match src with
    | none => { s.askDeviceReset with msixs := [] }
    | some (acr, v) =>
      if bits v 30 2 != 2 then s
      else s.forDevice acr fun s =>
        if s.flag F.hbmRststatBusy 0 || bits v 4 26 != 0 then s.rstStatus 0xBE else (s.rstStatus 0).askDeviceReset)

/-! ### The end of an amendment (R471) -/

/-- AMENDMENT_COMMIT (R471): the clearing of the sites has ended: the other slot and the directory are written, the new LK values loaded; a reset or an
off request that waited starts. -/
def execAmendmentCommit (s : State) : Host.Outcome State Fault Refusal :=
  .next (match s.boot.record with
    | none => s
    | some b =>
      if !s.applying then s
      else
        let t := s.commitAmendment b
        if t.seqr.moving then t else t.atBoundary true)

end Sys2Proof.Machine
end

