-- ==== Sys2Proof/Machine/Signals.lean ====
section
/-!
DEFINITION. Machine/Signals.lean: pins and straps, power requests, overruns, lost rails, clocks and islands, board test (R472, R473, R479, R518, R574,
R578, R579).
-/
namespace Sys2Proof.Machine

/-- Set the pins. -/
def State.setPins (s : State) (p : Pins) : State := { s with pins := p }

/-! ### Power requests (R472, R579) -/

/-- An on request: ignored while THERMTRIP_N is asserted, and in board test (Table 25-11, R578). -/
def State.onRequest (s : State) (src : Nat) : State :=
  if !s.pins.standby || s.pins.boardTest || s.pins.thermtrip then s else s.requestPower true src

/-- An off request; board test does not end by it (R578). -/
def State.offRequest (s : State) (src : Nat) : State :=
  if !s.pins.standby || s.pins.boardTest then s else s.requestPower false src

/-- ON_REQ_RISE (R472): ignored while PWRFAIL_N is low (Table 25-11). -/
def execOnReqRise (s : State) : Host.Outcome State Fault Refusal :=
  .next (let t := s.setPins { s.pins with onReq := true }
    if s.pins.pwrfail then t else t.onRequest 0)

/-- ON_REQ_FALL (R472). -/
def execOnReqFall (s : State) : Host.Outcome State Fault Refusal := .next ((s.setPins { s.pins with onReq := false }).offRequest 0)

/-- MB_POWER_REQUEST (R472): the management bus requests on or off; the physical function may request off only. [Log 76 DEDUCED] -/
def execMbPowerRequest (acr : Acr) (on : Bool) (s : State) : Host.Outcome State Fault Refusal :=
  .next (match acr with
    | .mb => if on then (s.rstStatus 0).onRequest 1 else (s.rstStatus 0).offRequest 1
    | .fn 0 => if on then s.rstStatus 0xBE else (s.rstStatus 0).offRequest 2
    | .fn _ => s.refuseAcc acr)

/-! ### PWRFAIL_N (R363, R473) -/

/-- A phase that runs up is abandoned: the device runs down from it. -/
def State.abandonUp (s : State) : State :=
  if s.seqr.moving && s.flag F.hbmPwrstatDir 0 then
    let t := if s.seqr.reset then s.endReset else s
    (t.setSeqr { t.seqr with partial_ := true }).setF F.hbmPwrstatDir 0 0
  else s

/-- PWRFAIL_N_FALL (R363, R473, R578): staged bytes go to the flush journal, an amendment before its commit is given up (R471), an abandoned phase runs
down, and so does the device. -/
def execPwrfailNFall (s : State) : Host.Outcome State Fault Refusal :=
  .next (let t := s.setPins { s.pins with pwrfail := true }
    if !s.pins.standby || s.pins.pwrfail then t
    else
      let t := if 6 ≤ t.phase && !t.pins.boardTest then t.flashFlush else t
      let t := if t.applying then t.dropAmendment else t
      let t := t.abandonUp
      t.requestPower false 4)

/-- PWRFAIL_N_RISE (R579): with ON_REQ high it counts as an on request. -/
def execPwrfailNRise (s : State) : Host.Outcome State Fault Refusal :=
  .next (let t := s.setPins { s.pins with pwrfail := false }
    if s.pins.pwrfail && s.pins.onReq then t.onRequest 0 else t)

/-! ### Lost rails and clocks (R472, R479, R519, Table 25-11) -/

/-- A rail of Table 25-6 as UNIT of kind 7 (Table 21-2), by its place there: VDD_I0 to VDD_I3 are 5 to 8. [Log 76 DEDUCED] -/
def railUnit (rail : Nat) : Nat := if 5 ≤ rail ∧ rail ≤ 8 then 11 + rail else 20

/-- PHASE_BOUND_OVERRUN (R472): the phase that runs up does not end within its bound, for want of a rail or because its work does not finish: RAILFAULT,
and the device runs down from that phase and stays OFF until the next on request. [Log 76 DEDUCED] -/
def execPhaseBoundOverrun (rail : Nat) (s : State) : Host.Outcome State Fault Refusal :=
  .next (if !s.seqr.moving || !s.flag F.hbmPwrstatDir 0 then s
    else
      let t := (s.fatal 0x42 7 (railUnit rail) (railUnit rail)).abandonUp
      (t.setSeqr { t.seqr with want := false }).setF F.hbmPwrstatSrc 0 5)

/-- SYSCLK_LOSS (R479): the system reference stops; only a power cycle ends the fatal state (R519). [Log 76 DEDUCED] -/
def execSysclkLoss (s : State) : Host.Outcome State Fault Refusal :=
  .next (if s.pins.refLost || !s.pins.standby then s
    else
      let t := (s.setPins { s.pins with refLost := true }).fatal 0x43 7 8 0
      t.setSeqr { t.seqr with hardFatal := true })

/-! ### Island loss (R518) -/

/-- Partition `p` holds a reach or a site of an island. -/
def State.onIsland (s : State) (p i : Nat) : Bool :=
  (s.reachesIn p).any (· / 20 == i) || (List.range 48).any fun n => siteIsland n == i && s.siteOwner n == p

/-- A command has a part on the island. -/
def Cmd.partOn (c : Cmd) (i : Nat) : Bool := c.st == .issued && c.parts.any fun p => clusterIsland p.cluster == i

/-- Step 3 for a context: its commands end, with 0xC9 where they have a part on the island, and it is torn down in the handling of record `r`,
with its first fault where one waits for its teardown (R22, R383). [Log 77 DEDUCED] -/
def State.islandCtx (s : State) (i r x : Nat) : State :=
  let cs := s.cmds.filter fun c => c.ctx == x && c.partOn i
  let t := cs.foldl (fun (t : State) c => t.endAs c 0xC9) s
  match (t.ctx x).fault with
  | some f => t.teardown x f
  | none =>
    if t.getF F.shtCtxstatState x = 1 then
      (t.setCtx x { t.ctx x with faultOp := cs.head?.map (·.bytes) }).teardown x ⟨0xC9, 0x30, 0, 0, none, some r⟩
    else t.abortCtx x

/-- An island is lost; `why` is 1 for its rail and 2 for its straits. [Log 77 DEDUCED] -/
def State.loseIsland (s : State) (i why : Nat) : State :=
  if 4 ≤ i || s.lostIslands.contains i then s
  else
    let t := s.record { cls := 0x0F, sev := 2, kind := 7, unit := if why = 1 then 16 + i else i, island := i, syn := why }
    let r := t.lastSeq
    let t := t.openHandling
    let t : State := { t with lostIslands := t.lostIslands ++ [i] }
    let t := (List.range 12).foldl (fun (t : State) j => t.loseSite (12 * i + j) (some r)) t
    let ps := (List.range 16).filter fun p => t.onIsland p i
    let t := ps.foldl (fun (t : State) p => ((t.ctxsIn p).foldl (fun (t : State) x => t.islandCtx i r x) t).resetPartition p) t
    { t with handling := t.handling.filter (· != r) }

/-- ISLAND_LOSS (R518): an island's rail fails (`why` 1) or all of its straits do (2), while its phase is up. [Log 77 DEDUCED] -/
def execIslandLoss (island why : Nat) (s : State) : Host.Outcome State Fault Refusal :=
  .next (if 4 ≤ s.phase && !s.pins.boardTest then s.loseIsland island why else s)

/-- PG_FALL (Table 25-11): the power-good of a rail of Table 25-6 falls while its phase is up. [Log 76 DEDUCED] -/
def execPgFall (rail : Nat) (s : State) : Host.Outcome State Fault Refusal :=
  .next (if s.pins.boardTest then s
    else if 5 ≤ rail ∧ rail ≤ 8 then (if 4 ≤ s.phase then s.loseIsland (rail - 5) 1 else s)
    else if rail = 9 ∨ rail = 10 then (if 5 ≤ s.phase then (List.range 48).foldl (fun (t : State) n => t.loseSite n none) s else s)
    else if 2 ≤ rail ∧ rail ≤ 4 then
      (if 1 ≤ s.phase then
        let t := s.fatal 0x42 7 20 20
        t.setSeqr { t.seqr with hardFatal := true }
      else s)
    else if 11 ≤ rail ∧ rail ≤ 13 then (if 6 ≤ s.phase then s.fatal 0x42 7 20 20 else s)
    else s)

/-! ### Standby and straps (R573, R574) -/

/-- What lies in the boot flash, the fuses and the NAND: it survives the standby supply. [Log 78 DEDUCED] -/
def State.keepFlash (s : State) : Flash :=
  let f := s.wipe.flash
  { f with flushing := false }

/-- The standby rails are down: what is left is the boot flash, the fuses, the NAND and the levels on the pins (R574). The model's own fields go on.
[Log 78 DEDUCED] -/
def State.standbyDown (s : State) : State :=
  { State.reset with
    pending := s.pending, regs := s.regs.filter fun e => e.1 % 32768 == F.fltRgnverCommitted.key 0 || e.1 == F.fltWearGrownbad.key 0,
    nextCmd := s.nextCmd, flash := s.keepFlash, fwLog := s.fwLog, retired := s.retired, clearRetired := s.clearRetired,
    boot := { s.boot with record := none, imgWrite := none, partReset := none, signers := [] },
    pins := { State.reset.pins with standby := false, onReq := s.pins.onReq, pwrfail := s.pins.pwrfail, extLow := s.pins.extLow },
    fresh := s.fresh, out := s.out }

/-- STANDBY_FALL (R573, R574): staged bytes are flushed first, if the tier runs. -/
def execStandbyFall (s : State) : Host.Outcome State Fault Refusal :=
  .next (if !s.pins.standby then s
    else if 6 ≤ s.phase && !s.flash.flushing then (s.flashFlush.dropUpdates fun _ => true).standbyDown
    else (s.dropUpdates fun _ => true).standbyDown)

/-- STANDBY_RISE (R573): the harbourmaster pair starts. [Log 78 DEDUCED] -/
def execStandbyRise (s : State) : Host.Outcome State Fault Refusal := .next (s.setPins { s.pins with standby := true })

/-- STRAP_SAMPLE (R574): the straps are sampled once, 1 ms after the standby rails reach tolerance. -/
def execStrapSample (mbaddr bfclk : Nat) (recov : Bool) (s : State) : Host.Outcome State Fault Refusal :=
  .next (if s.pins.standby && !s.pins.sampled then
      s.setPins { s.pins with sampled := true, mbaddr := 0x30 + mbaddr % 8, bfclk := bfclk % 4, recov := recov }
    else s)

/-! ### Board test (R578) -/

/-- BTEST (R578): the TAP enters board test while the device is OFF; phases 1, 2, 4, 5 and 6 rise. [Log 76 DEDUCED] -/
def execBtest (s : State) : Host.Outcome State Fault Refusal :=
  .next (if s.pins.standby && !s.pins.boardTest && !s.seqr.moving && s.phase == 0 then
      let t := s.setPins { s.pins with boardTest := true }
      (t.setSeqr { t.seqr with want := true }).runPhases true
    else s)

/-- Board test ends: every phase runs down. -/
def State.endBoardTest (s : State) : State :=
  if !s.pins.boardTest then s
  else
    let t := s.setSeqr { s.seqr with want := false }
    if t.seqr.moving then t else t.runPhases false

/-- TRST_N_FALL (R578). -/
def execTrstNFall (s : State) : Host.Outcome State Fault Refusal := .next s.endBoardTest

/-- DIFFERENT_INSTRUCTION_LOAD (R578): an instruction other than BTEST is loaded into the TAP. -/
def execDifferentInstructionLoad (s : State) : Host.Outcome State Fault Refusal := .next s.endBoardTest

end Sys2Proof.Machine
end

