-- ==== Sys2Proof/Machine/Registers.lean ====
section
/-!
DEFINITION. Machine/Registers.lean: register writes (R15, R555 to R560): where an address leads in each accessor's view, two-slot latches, stored fields,
the MSI-X tables (R392).
-/
namespace Sys2Proof.Machine

/-! ### Where an address leads (R554, R560) -/

/-- BLOCK, BASE and size (Table 24-1). -/
def blockMap : List (Nat × Nat × Nat) :=
  [(0x01, 0x200000, 0x10000), (0x02, 0x210000, 0x10000), (0x03, 0x220000, 0x10000), (0x04, 0x240000, 0x20000), (0x05, 0x260000, 0x10000),
   (0x06, 0x270000, 0x10000), (0x07, 0x280000, 0x20000), (0x08, 0x2A0000, 0x20000), (0x09, 0x2C0000, 0x10000), (0x0A, 0x300000, 0x40000),
   (0x0B, 0x340000, 0x20000)] ++
  [(0x10, 0x800000, 0x80000), (0x11, 0x900000, 0x100000), (0x12, 0xA00000, 0x40000), (0x13, 0xA40000, 0x40000), (0x14, 0xA80000, 0x40000),
   (0x15, 0xAC0000, 0x20000), (0x16, 0xB00000, 0x40000)]

/-- What lies at an address: a register with its instance here and whether the address names its high slot; a byte of the MSI-X table; nothing; or a
unit beyond the accessor's grant. -/
inductive Place where
  | reg (r : Reg) (i : Nat) (high : Bool)
  | msix (byte : Nat)
  | nothing
  | beyond
  deriving DecidableEq, Repr

/-- The register at an offset of a block, `fn` being the function whose set block 0x00 holds (R554). -/
def regIn (fn block off : Nat) : Place :=
  match allRegs.findSome? fun r =>
    if r.block != block || off < 8 * r.slot then none
    else
      let rel := off - 8 * r.slot
      let inst := if r.istr = 0 then (if block = 0 then fn else 0) else rel / r.istr
      let j := (if r.istr = 0 then rel else rel % r.istr) / 8
      if j < r.cnt * r.width && r.first ≤ inst && inst < r.insts then some (Place.reg r (inst * r.cnt + j / r.width) (j % r.width == 1)) else none with
  | some p => p
  | none => .nothing

/-- The physical function's BAR0 and the management bus's triples, spelt as the addresses of R554. -/
def wideView (fn addr : Nat) : Place :=
  if addr < 0x800 then regIn fn 0 addr
  else if 0x10000 ≤ addr ∧ addr < 0x18000 then .msix (addr - 0x10000)
  else match blockMap.find? fun b => decide (b.2.1 ≤ addr) && decide (addr < b.2.1 + b.2.2) with
    | some b => regIn fn b.1 (addr - b.2.1)
    | none => .nothing

/-- A range of a virtual function's view whose INST counts from the first unit of its partition's grant: the register, when the unit lies in the grant. -/
def granted (first count : Nat) (p : Place) : Place :=
  match p with
  | .reg r i h => if i / r.cnt < count then .reg r (i + first * r.cnt) h else .beyond
  | q => q

/-- A register of a unit that another function owns reads 0. -/
def ownedBy (mine : Nat → Bool) (p : Place) : Place :=
  match p with
  | .reg r i h => if mine i then .reg r i h else .nothing
  | q => q

/-- A partition page holds per-partition registers only (R554). -/
def partPage (p : Place) : Place :=
  match p with
  | .reg r i h => if r.istr = 0x1000 then .reg r i h else .nothing
  | q => q

/-- The view of virtual function `fn` (Table 24-6). -/
def State.vfView (s : State) (fn addr : Nat) : Place :=
  let p := s.fnPart fn
  let g := fun (f : Fld) => if p < 16 then s.getF f p else 0
  let ctx := granted (g F.chtPartCtxfirst) (g F.chtPartCtxcount)
  if addr < 0x800 then regIn fn 0 addr
  else if addr < 0x10000 then .nothing
  else if addr < 0x18000 then .msix (addr - 0x10000)
  else if addr < 0x200000 then .nothing
  else if addr < 0x300000 then granted (g F.shtTokallocTokfirst) (g F.shtTokallocTokcount) (regIn fn 0x11 (addr - 0x200000))
  else if addr < 0x340000 then ctx (regIn fn 0x10 (addr - 0x300000 + 0x20000))
  else if addr < 0x350000 then granted (g F.zlkArrallocArrfirst) (g F.zlkArrallocArrcount) (regIn fn 0x0A (addr - 0x340000 + 0x20000))
  else if addr < 0x352000 then ctx (regIn fn 0x13 (addr - 0x350000 + 0x20000))
  else if addr < 0x356000 then ctx (regIn fn 0x14 (addr - 0x352000))
  else if addr < 0x360000 then .nothing
  else if addr < 0x380000 then
    let block := (addr - 0x360000) / 0x1000
    let off := addr % 0x1000
    if block = 1 then (if off < 8 then regIn fn 1 0 else .nothing)
    else if 16 ≤ p then .beyond
    else partPage (regIn fn block (0x10000 + 0x1000 * p + off))
  else if addr < 0x390000 then ownedBy (fun q => s.ownsQueue fn q) (regIn fn 0x09 (addr - 0x380000))
  else if addr < 0x391000 then ownedBy (fun n => s.ownsStream fn n) (regIn fn 0x08 (addr - 0x390000 + 0x800))
  else .nothing

/-- What lies at an address in an accessor's view; `set` is the function that the management bus names for block 0x00. -/
def State.placeOf (s : State) (acr : Acr) (set addr : Nat) : Place :=
  match acr with
  | .fn 0 => wideView 0 addr
  | .fn n => s.vfView n addr
  | .mb => match wideView set addr with
    | .msix _ => .nothing
    | q => q

/-! ### Stored fields (R15) -/

/-- Registers whose low slot, or only slot, is written by a command of its own: a write here has no further effect. -/
def ownRow (r : Reg) : Bool :=
  [R.shtCtxcmd, R.pciQcmd, R.cdcScmd, R.hbmFwctl, R.hbmRstctl, R.pwrCap, R.tmbCtl, R.chtAmdctl, R.erqPop, R.erqTctl, R.erqCtl, R.memOpctl, R.cdcEctl,
   R.zlkArchctl, R.zlkEyectl, R.zlkPctl, R.zlkArr, R.cntTrcfg, R.cntTrptr, R.shtTok, R.shtTokadd, R.kvtCtrl].contains r

/-- The partition that holds arrival counter `a`. -/
def State.arrivalHolder (s : State) (a : Nat) : Option Nat := holderOf s.ownsArrival a

/-- What a write of `x` stores in an RW field; where the field's meaning gives a range, the value that it states (R15). EXTFREQ states none for a
value outside 8 to 36: one in the range is stored, and which is open. [Log 51 DEDUCED; 52 DESIGN CHOICE] -/
def State.storedValue (s : State) (f : Fld) (i x : Nat) : Nat :=
  if f = F.shtWdogLimit then max 1 (min 60000 x)
  else if f = F.memScrubPeriod then min 168 x
  else if f = F.fltRetcfgRetdays then max 1 x
  else if f = F.zlkArrcfgPorts then x.land (match s.arrivalHolder i with
    | some p => s.getF F.chtPartLinks p
    | none => 0)
  else if f = F.pwrCfgExtfreq then (if 8 ≤ x ∧ x ≤ 36 then x else 8 + (Config.freeByte s.fresh).toNat % 29)
  else x

/-- A write of `v` to a register acts on one field (R15). -/
def State.writeField (s : State) (i v : Nat) (f : Fld) : State :=
  match f.acc with
  | .rw => s.setF f i (s.storedValue f i (bits v f.lo f.w))
  | .w1c => s.setF f i ((s.getF f i) - (s.getF f i).land (bits v f.lo f.w))
  | _ => s

/-- A write of a whole register. -/
def State.writeReg (s : State) (r : Reg) (i v : Nat) : State :=
  let t := r.flds.foldl (fun (t : State) f => t.writeField i v f) s
  if r = R.pwrCfg then t.bumpFresh 1 else t

/-- A function of a partition may write ZLK_PGEN of a port in the partition's link rights only (Table 17-13). [Log 51 DEDUCED] -/
def State.pgenOk (s : State) (acr : Acr) (r : Reg) (i : Nat) : Bool :=
  match acr with
  | .fn 0 | .mb => true
  | .fn n => r != R.zlkPgen || (decide (s.fnPart n < 16) && bit (s.getF F.chtPartLinks (s.fnPart n)) (i % 12))

/-- Every field of the register lies in [31:0] (R555). -/
def Reg.narrow (r : Reg) : Bool := r.width == 1 && decide (r.top < 32)

/-- A write of `size` bytes at a place (R555, R556). [Log 50 DEDUCED; 51 DEDUCED] -/
def State.writePlace (s : State) (acr : Acr) (r : Reg) (i : Nat) (high : Bool) (addr size v : Nat) : State :=
  if size = 4 && !r.narrow then s.refuseAcc acr
  else if size = 4 && addr % 8 = 4 then s
  else if high then s.setLatch acr v
  else if ownRow r then s
  else if !s.pgenOk acr r i then s.refuseAcc acr
  else if r.width = 2 then (s.writeReg r i (s.wide acr v)).setLatch acr 0
  else s.writeReg r i v

/-! ### MSI-X (R392) -/

/-- Pending vectors of a function go out once nothing holds them back. -/
def State.flushMsix (s : State) (fn : Nat) : State :=
  let m := s.msixOf fn
  let go := fun (v : Nat) => m.enable && !m.fmask && !m.masked v
  let t := (m.pba.filter go).foldl (fun (t : State) v => t.emit (.msix fn v)) s
  t.setMsix fn { m with pba := m.pba.filter fun v => !go v }

/-- A write of `size` bytes at a byte of the MSI-X table of a function; of the vector control, the Mask bit only is stored. -/
def State.writeMsix (s : State) (fn byte size v : Nat) : State :=
  let e := byte / 16
  let lo := 8 * (byte % 16)
  if s.getF F.chtFuncMsixsize fn ≤ e then s
  else
    let m := s.msixOf fn
    let old := tget msixMasked m.table e
    let w := 8 * size
    let new := bits old 0 lo + (v % 2 ^ w) <<< lo + (old >>> (lo + w)) <<< (lo + w)
    (s.setMsix fn { m with table := tset msixMasked m.table e (new % 2 ^ 97) }).flushMsix fn

/-- A write of Message Control: MSI-X Enable in bit 15, Function Mask in bit 14 (PCIe base specification). [Log 53 PRESUMED] -/
def State.writeMsgCtl (s : State) (fn v : Nat) : State :=
  (s.setMsix fn { s.msixOf fn with enable := bit v 15, fmask := bit v 14 }).flushMsix fn

/-! ### The command -/

/-- REGISTER_WRITE (R555 to R560): an access writes `size` bytes of value `v` at an address of its view; `set` is the function whose set the management
bus names for block 0x00; `cfg` marks a configuration write of Message Control of a function's MSI-X capability. -/
def execRegisterWrite (acr : Acr) (set : Nat) (cfg : Bool) (addr size v : Nat) (s : State) : Host.Outcome State Fault Refusal :=
  .next (
    let fn := fnSet acr set
    if cfg then (if fn < 64 then s.writeMsgCtl fn v else s)
    else if !(size == 4 || size == 8) || addr % size != 0 then s.refuseAcc acr
    else match s.placeOf acr set addr with
      | .reg r i high => s.writePlace acr r i high addr size v
      | .msix b => s.writeMsix fn b size v
      | .nothing => s
      | .beyond => s.refuseAcc acr)

end Sys2Proof.Machine
end

