-- ==== Sys2Proof/Machine/Dispatch.lean ====
section
/-!
DEFINITION. Machine/Dispatch.lean: the meaning of every command, one arm each.
-/
namespace Sys2Proof.Machine

def exec (i : Instr) (s : State) : Host.Outcome State Fault Refusal :=
  match i with
  | .commandFetch q bytes => Sys2Proof.Machine.execCommandFetch q bytes s
  | .nop q => Sys2Proof.Machine.execNop q s
  | .mma q => Sys2Proof.Machine.execMma q s
  | .chain q => Sys2Proof.Machine.execChain q s
  | .attn q => Sys2Proof.Machine.execAttn q s
  | .attnRingStep q seq => Sys2Proof.Machine.execAttnRingStep q seq s
  | .conv q => Sys2Proof.Machine.execConv q s
  | .maxpool q => Sys2Proof.Machine.execMaxpool q s
  | .avgpool q => Sys2Proof.Machine.execAvgpool q s
  | .upnearest q => Sys2Proof.Machine.execUpnearest q s
  | .uplinear q => Sys2Proof.Machine.execUplinear q s
  | .stage q => Sys2Proof.Machine.execStage q s
  | .add q => Sys2Proof.Machine.execAdd q s
  | .sub q => Sys2Proof.Machine.execSub q s
  | .mul q => Sys2Proof.Machine.execMul q s
  | .fma q => Sys2Proof.Machine.execFma q s
  | .max q => Sys2Proof.Machine.execMax q s
  | .min q => Sys2Proof.Machine.execMin q s
  | .abs q => Sys2Proof.Machine.execAbs q s
  | .neg q => Sys2Proof.Machine.execNeg q s
  | .cmp q => Sys2Proof.Machine.execCmp q s
  | .select q => Sys2Proof.Machine.execSelect q s
  | .convert q => Sys2Proof.Machine.execConvert q s
  | .func q => Sys2Proof.Machine.execFunc q s
  | .iadd q => Sys2Proof.Machine.execIadd q s
  | .isub q => Sys2Proof.Machine.execIsub q s
  | .imul q => Sys2Proof.Machine.execImul q s
  | .iand q => Sys2Proof.Machine.execIand q s
  | .ior q => Sys2Proof.Machine.execIor q s
  | .ixor q => Sys2Proof.Machine.execIxor q s
  | .ishl q => Sys2Proof.Machine.execIshl q s
  | .ishr q => Sys2Proof.Machine.execIshr q s
  | .rsum q => Sys2Proof.Machine.execRsum q s
  | .rmax q => Sys2Proof.Machine.execRmax q s
  | .rmin q => Sys2Proof.Machine.execRmin q s
  | .argmax q => Sys2Proof.Machine.execArgmax q s
  | .argmin q => Sys2Proof.Machine.execArgmin q s
  | .iscan q => Sys2Proof.Machine.execIscan q s
  | .sfpRun q => Sys2Proof.Machine.execSfpRun q s
  | .sfpLoad q => Sys2Proof.Machine.execSfpLoad q s
  | .imageInstall cluster => Sys2Proof.Machine.execImageInstall cluster s
  | .move q => Sys2Proof.Machine.execMove q s
  | .gather q => Sys2Proof.Machine.execGather q s
  | .scatter q => Sys2Proof.Machine.execScatter q s
  | .croprs q => Sys2Proof.Machine.execCroprs q s
  | .rngfill q => Sys2Proof.Machine.execRngfill q s
  | .sample q => Sys2Proof.Machine.execSample q s
  | .kvfork q => Sys2Proof.Machine.execKvfork q s
  | .kvfreeTruncate q => Sys2Proof.Machine.execKvfreeTruncate q s
  | .kvfreeEvict q => Sys2Proof.Machine.execKvfreeEvict q s
  | .kvprefetch q => Sys2Proof.Machine.execKvprefetch q s
  | .wait q => Sys2Proof.Machine.execWait q s
  | .signal q => Sys2Proof.Machine.execSignal q s
  | .fence q => Sys2Proof.Machine.execFence q s
  | .mark q => Sys2Proof.Machine.execMark q s
  | .dump q => Sys2Proof.Machine.execDump q s
  | .zsend q => Sys2Proof.Machine.execZsend q s
  | .flread q => Sys2Proof.Machine.execFlread q s
  | .flwriteSpill q => Sys2Proof.Machine.execFlwriteSpill q s
  | .flwriteBegin q => Sys2Proof.Machine.execFlwriteBegin q s
  | .flwriteData q => Sys2Proof.Machine.execFlwriteData q s
  | .flwriteCommit q => Sys2Proof.Machine.execFlwriteCommit q s
  | .flwriteAbandon q => Sys2Proof.Machine.execFlwriteAbandon q s
  | .partStart cluster unit => Sys2Proof.Machine.execPartStart cluster unit s
  | .mergeSlotGrant cluster => Sys2Proof.Machine.execMergeSlotGrant cluster s
  | .partComplete cluster q seq => Sys2Proof.Machine.execPartComplete cluster q seq s
  | .commandComplete q seq => Sys2Proof.Machine.execCommandComplete q seq s
  | .completionRecordWrite q => Sys2Proof.Machine.execCompletionRecordWrite q s
  | .contextTeardown ctx => Sys2Proof.Machine.execContextTeardown ctx s
  | .watchdogCheck => Sys2Proof.Machine.execWatchdogCheck s
  | .shtTok acr n v => Sys2Proof.Machine.execShtTok acr n v s
  | .shtTokadd acr n v => Sys2Proof.Machine.execShtTokadd acr n v s
  | .zlkArr acr n v => Sys2Proof.Machine.execZlkArr acr n v s
  | .registerWrite acr set cfg addr size v => Sys2Proof.Machine.execRegisterWrite acr set cfg addr size v s
  | .contextCreate acr set v => Sys2Proof.Machine.execContextCreate acr set v s
  | .contextDestroy acr set v => Sys2Proof.Machine.execContextDestroy acr set v s
  | .contextReset acr set v => Sys2Proof.Machine.execContextReset acr set v s
  | .contextResetEnd ctx => Sys2Proof.Machine.execContextResetEnd ctx s
  | .queueDisable acr set v host => Sys2Proof.Machine.execQueueDisable acr set v host s
  | .queueCreate acr set v => Sys2Proof.Machine.execQueueCreate acr set v s
  | .queueDestroy acr set v => Sys2Proof.Machine.execQueueDestroy acr set v s
  | .pciSqdb fn q v => Sys2Proof.Machine.execPciSqdb fn q v s
  | .pciCqdb fn q v => Sys2Proof.Machine.execPciCqdb fn q v s
  | .qfetchFailure q => Sys2Proof.Machine.execQfetchFailure q s
  | .apertureRead fn addr len => Sys2Proof.Machine.execApertureRead fn addr len s
  | .apertureWrite fn addr bytes poisoned => Sys2Proof.Machine.execApertureWrite fn addr bytes poisoned s
  | .interruptModerationTimer isStream n => Sys2Proof.Machine.execInterruptModerationTimer isStream n s
  | .pcieLaneFail lane width => Sys2Proof.Machine.execPcieLaneFail lane width s
  | .functionLevelReset fn rings => Sys2Proof.Machine.execFunctionLevelReset fn rings s
  | .partitionReset acr v => Sys2Proof.Machine.execPartitionReset acr v s
  | .deviceReset src => Sys2Proof.Machine.execDeviceReset src s
  | .kvtInit acr p v => Sys2Proof.Machine.execKvtInit acr p v s
  | .agentMap p slot pos => Sys2Proof.Machine.execAgentMap p slot pos s
  | .kvCommit q seq => Sys2Proof.Machine.execKvCommit q seq s
  | .kvFetch p => Sys2Proof.Machine.execKvFetch p s
  | .kvEvictEntry p => Sys2Proof.Machine.execKvEvictEntry p s
  | .agentTakeover p => Sys2Proof.Machine.execAgentTakeover p s
  | .siteRead w => Sys2Proof.Machine.execSiteRead w s
  | .siteWrite w bytes => Sys2Proof.Machine.execSiteWrite w bytes s
  | .sitePartialWrite w mask bytes => Sys2Proof.Machine.execSitePartialWrite w mask bytes s
  | .poisonWrite addr len => Sys2Proof.Machine.execPoisonWrite addr len s
  | .scrubStep site => Sys2Proof.Machine.execScrubStep site s
  | .mr4Poll site readings => Sys2Proof.Machine.execMr4Poll site readings s
  | .refresh site => Sys2Proof.Machine.execRefresh site s
  | .siteLost site => Sys2Proof.Machine.execSiteLost site s
  | .memClear acr v => Sys2Proof.Machine.execMemClear acr v s
  | .memMargin acr v => Sys2Proof.Machine.execMemMargin acr v s
  | .memOpComplete edges => Sys2Proof.Machine.execMemOpComplete edges s
  | .programComplete writes => Sys2Proof.Machine.execProgramComplete writes s
  | .grownBadBlock slc ch lun block => Sys2Proof.Machine.execGrownBadBlock slc ch lun block s
  | .wearLevelMove slc worst => Sys2Proof.Machine.execWearLevelMove slc worst s
  | .retentionPatrol region block step old ch lun loc => Sys2Proof.Machine.execRetentionPatrol region block step old ch lun loc s
  | .lunFail lun => Sys2Proof.Machine.execLunFail lun s
  | .doubleLunFail lun lost => Sys2Proof.Machine.execDoubleLunFail lun lost s
  | .rebuildComplete => Sys2Proof.Machine.execRebuildComplete s
  | .holdupMeasure volts => Sys2Proof.Machine.execHoldupMeasure volts s
  | .holdupProbe ok => Sys2Proof.Machine.execHoldupProbe ok s
  | .flitReceive port flit fecBad sym unc => Sys2Proof.Machine.execFlitReceive port flit fecBad sym unc s
  | .nak port flit fecBad sym unc => Sys2Proof.Machine.execNak port flit fecBad sym unc s
  | .replayTimeout port => Sys2Proof.Machine.execReplayTimeout port s
  | .wr port => Sys2Proof.Machine.execWr port s
  | .wrPerformed port wid => Sys2Proof.Machine.execWrPerformed port wid s
  | .wack port => Sys2Proof.Machine.execWack port s
  | .elect port => Sys2Proof.Machine.execElect port s
  | .electionTick => Sys2Proof.Machine.execElectionTick s
  | .electionEnd => Sys2Proof.Machine.execElectionEnd s
  | .topo port map => Sys2Proof.Machine.execTopo port map s
  | .number port child => Sys2Proof.Machine.execNumber port child s
  | .formed port => Sys2Proof.Machine.execFormed port s
  | .fgreport port => Sys2Proof.Machine.execFgreport port s
  | .fgreportTick => Sys2Proof.Machine.execFgreportTick s
  | .fgswitch port => Sys2Proof.Machine.execFgswitch port s
  | .fgswitchInstant => Sys2Proof.Machine.execFgswitchInstant s
  | .glostTimeout => Sys2Proof.Machine.execGlostTimeout s
  | .tbstart port => Sys2Proof.Machine.execTbstart port s
  | .tbprobe port => Sys2Proof.Machine.execTbprobe port s
  | .tbreply port => Sys2Proof.Machine.execTbreply port s
  | .tbprobeRetry => Sys2Proof.Machine.execTbprobeRetry s
  | .tbset port => Sys2Proof.Machine.execTbset port s
  | .tbdone port => Sys2Proof.Machine.execTbdone port s
  | .sweepTimerExpiry => Sys2Proof.Machine.execSweepTimerExpiry s
  | .rateTrimProbe => Sys2Proof.Machine.execRateTrimProbe s
  | .tmbCtlSweep acr v => Sys2Proof.Machine.execTmbCtlSweep acr v s
  | .laneFault port lane => Sys2Proof.Machine.execLaneFault port lane s
  | .widthChange port flit fecBad sym unc => Sys2Proof.Machine.execWidthChange port flit fecBad sym unc s
  | .linkLoss port announced => Sys2Proof.Machine.execLinkLoss port announced s
  | .trainingStepTimeout port step => Sys2Proof.Machine.execTrainingStepTimeout port step s
  | .linkUp port serial peer role reach evt faulty rev pol => Sys2Proof.Machine.execLinkUp port serial peer role reach evt faulty rev pol s
  | .retrainLimit port => Sys2Proof.Machine.execRetrainLimit port s
  | .retrain acr port v => Sys2Proof.Machine.execRetrain acr port v s
  | .form acr v => Sys2Proof.Machine.execForm acr v s
  | .eyeScan acr v => Sys2Proof.Machine.execEyeScan acr v s
  | .eyeScanComplete height width => Sys2Proof.Machine.execEyeScanComplete height width s
  | .streamOpen acr set v => Sys2Proof.Machine.execStreamOpen acr set v s
  | .streamClose acr set v => Sys2Proof.Machine.execStreamClose acr set v s
  | .streamDisable acr set v => Sys2Proof.Machine.execStreamDisable acr set v s
  | .engdis acr engine v => Sys2Proof.Machine.execEngdis acr engine v s
  | .cdcFdb fn stream v => Sys2Proof.Machine.execCdcFdb fn stream v s
  | .cdcCdb fn stream v => Sys2Proof.Machine.execCdcCdb fn stream v s
  | .frameFetch stream bytes => Sys2Proof.Machine.execFrameFetch stream bytes s
  | .frameStart engine => Sys2Proof.Machine.execFrameStart engine s
  | .blockRow engine ev => Sys2Proof.Machine.execBlockRow engine ev s
  | .frameDeadline stream => Sys2Proof.Machine.execFrameDeadline stream s
  | .frameRecordWrite stream => Sys2Proof.Machine.execFrameRecordWrite stream s
  | .codecHwError engine => Sys2Proof.Machine.execCodecHwError engine s
  | .onReqRise => Sys2Proof.Machine.execOnReqRise s
  | .onReqFall => Sys2Proof.Machine.execOnReqFall s
  | .pwrfailNFall => Sys2Proof.Machine.execPwrfailNFall s
  | .pwrfailNRise => Sys2Proof.Machine.execPwrfailNRise s
  | .mbPowerRequest acr on => Sys2Proof.Machine.execMbPowerRequest acr on s
  | .powerPhaseUp w => Sys2Proof.Machine.execPowerPhaseUp w s
  | .powerPhaseDown => Sys2Proof.Machine.execPowerPhaseDown s
  | .phaseBoundOverrun rail => Sys2Proof.Machine.execPhaseBoundOverrun rail s
  | .imageAliveTimeout => Sys2Proof.Machine.execImageAliveTimeout s
  | .standbyRise => Sys2Proof.Machine.execStandbyRise s
  | .strapSample mbaddr bfclk recov => Sys2Proof.Machine.execStrapSample mbaddr bfclk recov s
  | .imageWrite acr v bytes => Sys2Proof.Machine.execImageWrite acr v bytes s
  | .raiseMinsecver acr v => Sys2Proof.Machine.execRaiseMinsecver acr v s
  | .amendmentSubmit acr v record => Sys2Proof.Machine.execAmendmentSubmit acr v record s
  | .amendmentDiscard acr v => Sys2Proof.Machine.execAmendmentDiscard acr v s
  | .amendmentApply => Sys2Proof.Machine.execAmendmentApply s
  | .powerControlStep harbour leak amps done pkgw mj => Sys2Proof.Machine.execPowerControlStep harbour leak amps done pkgw mj s
  | .clockSwitch island => Sys2Proof.Machine.execClockSwitch island s
  | .sensorRead readings => Sys2Proof.Machine.execSensorRead readings s
  | .currentTrip island => Sys2Proof.Machine.execCurrentTrip island s
  | .slopeTick work => Sys2Proof.Machine.execSlopeTick work s
  | .extthrNFall => Sys2Proof.Machine.execExtthrNFall s
  | .extthrRelease => Sys2Proof.Machine.execExtthrRelease s
  | .pwrCap acr v => Sys2Proof.Machine.execPwrCap acr v s
  | .sysclkLoss => Sys2Proof.Machine.execSysclkLoss s
  | .pgFall rail => Sys2Proof.Machine.execPgFall rail s
  | .arrayCheckFail cluster q seq column why addr => Sys2Proof.Machine.execArrayCheckFail cluster q seq column why addr s
  | .sfuPipeParity cluster pipe q seq => Sys2Proof.Machine.execSfuPipeParity cluster pipe q seq s
  | .lbfEcc cluster bank mac row off syn unc q seq => Sys2Proof.Machine.execLbfEcc cluster bank mac row off syn unc q seq s
  | .retireCluster acr v => Sys2Proof.Machine.execRetireCluster acr v s
  | .clearRetirementList acr v => Sys2Proof.Machine.execClearRetirementList acr v s
  | .straitLaneFail strait lane => Sys2Proof.Machine.execStraitLaneFail strait lane s
  | .islandLoss island why => Sys2Proof.Machine.execIslandLoss island why s
  | .hmlock => Sys2Proof.Machine.execHmlock s
  | .hbdie => Sys2Proof.Machine.execHbdie s
  | .erqPop acr v => Sys2Proof.Machine.execErqPop acr v s
  | .bundleLoad acr v bundle long => Sys2Proof.Machine.execBundleLoad acr v bundle long s
  | .bundleStop acr v => Sys2Proof.Machine.execBundleStop acr v s
  | .fleetTestItem cluster crc => Sys2Proof.Machine.execFleetTestItem cluster crc s
  | .cntTrcfg acr p v => Sys2Proof.Machine.execCntTrcfg acr p v s
  | .cntTrptr acr p v => Sys2Proof.Machine.execCntTrptr acr p v s
  | .btest => Sys2Proof.Machine.execBtest s
  | .trstNFall => Sys2Proof.Machine.execTrstNFall s
  | .flashReadComplete job block step ch lun loc => Sys2Proof.Machine.execFlashReadComplete job block step ch lun loc s
  | .amendmentCommit => Sys2Proof.Machine.execAmendmentCommit s
  | .imageWriteComplete => Sys2Proof.Machine.execImageWriteComplete s
  | .partitionResetEnd => Sys2Proof.Machine.execPartitionResetEnd s
  | .standbyFall => Sys2Proof.Machine.execStandbyFall s
  | .accumulatorStoreError cluster => Sys2Proof.Machine.execAccumulatorStoreError cluster s
  | .differentInstructionLoad => Sys2Proof.Machine.execDifferentInstructionLoad s

end Sys2Proof.Machine
end

