-- ==== Sys2Proof/Safety.lean ====
section
/-!
DEFINITION. Safety.lean: what counts as a well-formed state: every sparse table in its canonical form.
-/
namespace Sys2Proof.Machine

/-- Memory and its check deviations are canonical (addresses rise, no entry equals what an unlisted one reads as), and the indices of every other
table rise, so that a read finds what was written last. -/
def State.canon (s : State) : Bool :=
  Memory.wf s.mem && twf (fun _ => 0) s.ecc && rises s.regs && rises s.latch && rises s.ctxs && rises s.queues && rises s.clusters &&
    rises s.agents && rises s.evseq && rises s.ports && rises s.streams && rises s.engines && rises s.sites && rises s.msixs &&
    rises s.straits && rises s.flash.regions

/-- The components of a state: a frame is stated by the components that may change. -/
inductive Comp where
  | pending | regs | latch | mem | ecc | ctxs | queues | cmds | nextCmd | fences | clusters | flash | agents | evseq
  | erq | rseq | fwLog | folded | handling | retired | clearRetired | lostIslands | ports | arch | streams | engines | sites | memOp
  | boot | seqr | pins | power | bundle | msixs | pcieLanes | straits | fresh | out
  deriving DecidableEq, Repr

/-- Two states agree on a component. -/
def Comp.agree (s t : State) : Comp → Prop
  | .pending => s.pending = t.pending
  | .regs => s.regs = t.regs
  | .latch => s.latch = t.latch
  | .mem => s.mem = t.mem
  | .ecc => s.ecc = t.ecc
  | .ctxs => s.ctxs = t.ctxs
  | .queues => s.queues = t.queues
  | .cmds => s.cmds = t.cmds
  | .nextCmd => s.nextCmd = t.nextCmd
  | .fences => s.fences = t.fences
  | .clusters => s.clusters = t.clusters
  | .flash => s.flash = t.flash
  | .agents => s.agents = t.agents
  | .evseq => s.evseq = t.evseq
  | .erq => s.erq = t.erq
  | .rseq => s.rseq = t.rseq
  | .fwLog => s.fwLog = t.fwLog
  | .folded => s.folded = t.folded
  | .handling => s.handling = t.handling
  | .retired => s.retired = t.retired
  | .clearRetired => s.clearRetired = t.clearRetired
  | .lostIslands => s.lostIslands = t.lostIslands
  | .ports => s.ports = t.ports
  | .arch => s.arch = t.arch
  | .streams => s.streams = t.streams
  | .engines => s.engines = t.engines
  | .sites => s.sites = t.sites
  | .memOp => s.memOp = t.memOp
  | .boot => s.boot = t.boot
  | .seqr => s.seqr = t.seqr
  | .pins => s.pins = t.pins
  | .power => s.power = t.power
  | .bundle => s.bundle = t.bundle
  | .msixs => s.msixs = t.msixs
  | .pcieLanes => s.pcieLanes = t.pcieLanes
  | .straits => s.straits = t.straits
  | .fresh => s.fresh = t.fresh
  | .out => s.out = t.out

/-- From `s` to `t` nothing changed but the listed components. -/
def OnlyChanged (l : List Comp) (s t : State) : Prop := ∀ c, c ∉ l → c.agree s t

/-- From `s` to `t` every field of every register reads the same, but for the listed fields of the listed instances. -/
def FieldsKept (l : List (Fld × Nat)) (s t : State) : Prop := ∀ f i, (∀ e ∈ l, e.1.key e.2 ≠ f.key i) → t.getF f i = s.getF f i

/-- From `s` to `t` nothing changed but the listed fields. -/
def OnlyFields (l : List (Fld × Nat)) (s t : State) : Prop := OnlyChanged [.regs] s t ∧ FieldsKept l s t

/-- From `s` to `t` every field reads the same, but for those of the listed registers. -/
def RegsKept (rs : List Reg) (s t : State) : Prop := ∀ f i, f.key i / 128 % 256 ∉ rs.map (·.idx) → t.getF f i = s.getF f i

/-- The registers that an error record may change: those of the error queue, and the event cause that it raises (R503 to R508). -/
def recordRegs : List Reg := [R.erqStatus, R.erqData, R.erqFatal, R.pciEvtcause]

/-- The registers that an access to device memory may change: traffic counts, ECC counts and logs, and those of a record (R323, R324, R529). -/
def memoryRegs : List Reg := recordRegs ++ [R.memEcccnt, R.memEcclog, R.cntSiterd, R.cntSitewr]

/-- Every byte of device memory outside [a, a + n) reads the same. -/
def BytesKept (a n : Nat) (s t : State) : Prop := ∀ b, b < a ∨ a + n ≤ b → t.byteAt b = s.byteAt b

/-- What writing an error record may change: the error queue, its registers, the firmware log, the interrupt it raises (R503 to R507). -/
def recordComps : List Comp := [.regs, .erq, .rseq, .fwLog, .folded, .msixs, .out]

/-- What an access to device memory may change: the stored words, and what an error that the access finds leaves behind (R323, R324). -/
def memoryComps : List Comp := recordComps ++ [.mem, .ecc]

/-- The components that a command may change. Counters and the registers are one component; what a command does to them, and to which bytes of
memory, is stated command by command. -/
def changes (i : Instr) : List Comp :=
  match i with
  | .commandFetch _ _ =>
    memoryComps ++ [.ctxs, .queues, .cmds, .nextCmd, .streams]
  | .nop _ | .wait _ | .signal _ | .mark _ | .dump _ =>
    memoryComps ++ [.ctxs, .queues, .cmds, .evseq, .streams, .fresh]
  | .mma _ | .chain _ | .conv _ | .maxpool _ | .avgpool _ | .upnearest _ | .uplinear _ | .stage _ | .add _ | .sub _ | .mul _ | .fma _
  | .max _ | .min _ | .abs _ | .neg _ | .cmp _ | .select _ | .convert _ | .func _ | .iadd _ | .isub _ | .imul _ | .iand _ | .ior _
  | .ixor _ | .ishl _ | .ishr _ | .rsum _ | .rmax _ | .rmin _ | .argmax _ | .argmin _ | .iscan _ | .sfpRun _ | .sfpLoad _ | .move _
  | .gather _ | .scatter _ | .croprs _ | .rngfill _ | .sample _ =>
    memoryComps ++ [.ctxs, .cmds, .evseq, .streams]
  | .attn _ =>
    memoryComps ++ [.ctxs, .cmds, .evseq, .ports, .arch, .streams, .fresh]
  | .attnRingStep _ _ =>
    memoryComps ++ [.ctxs, .cmds, .agents, .ports, .arch, .fresh]
  | .imageInstall _ =>
    [.regs, .cmds, .clusters]
  | .kvfork _ | .kvfreeTruncate _ | .kvfreeEvict _ | .kvprefetch _ =>
    memoryComps ++ [.ctxs, .cmds, .flash, .agents, .streams, .fresh]
  | .fence _ | .commandComplete _ _ =>
    memoryComps ++ [.ctxs, .queues, .cmds, .fences, .evseq, .streams, .fresh]
  | .zsend _ =>
    memoryComps ++ [.ctxs, .cmds, .ports, .arch, .streams]
  | .flread _ | .flwriteSpill _ | .flwriteBegin _ | .flwriteData _ | .flwriteCommit _ | .flwriteAbandon _ =>
    memoryComps ++ [.ctxs, .cmds, .flash, .streams]
  | .partStart _ _ =>
    memoryComps ++ [.cmds, .clusters, .agents, .fresh]
  | .mergeSlotGrant _ =>
    memoryComps ++ [.cmds, .agents, .fresh]
  | .partComplete _ _ _ =>
    recordComps ++ [.ctxs, .cmds]
  | .completionRecordWrite _ =>
    memoryComps ++ [.queues]
  | .contextTeardown _ =>
    memoryComps ++ [.ctxs, .queues, .cmds, .fences, .flash, .evseq, .handling, .ports, .streams, .fresh]
  | .watchdogCheck =>
    memoryComps ++ [.ctxs, .cmds, .fresh]
  | .shtTok _ _ _ | .shtTokadd _ _ _ | .zlkArr _ _ _ =>
    [.regs, .cmds, .streams, .msixs, .out]
  | .registerWrite _ _ _ _ _ _ =>
    [.regs, .latch, .msixs, .fresh, .out]
  | .contextCreate _ _ _ =>
    [.regs, .ctxs, .msixs, .out]
  | .contextDestroy _ _ _ | .contextReset _ _ _ | .contextResetEnd _ =>
    memoryComps ++ [.ctxs, .queues, .cmds, .fences, .flash, .evseq, .ports, .streams, .fresh]
  | .queueDisable _ _ _ _ =>
    memoryComps ++ [.ctxs, .queues, .cmds, .nextCmd, .fences, .evseq, .streams, .fresh]
  | .queueCreate _ _ _ | .queueDestroy _ _ _ | .pciSqdb _ _ _ | .pciCqdb _ _ _ =>
    [.regs, .queues, .msixs, .out]
  | .qfetchFailure _ =>
    memoryComps ++ [.ctxs, .queues, .nextCmd]
  | .apertureRead _ _ _ | .siteRead _ | .siteWrite _ _ | .sitePartialWrite _ _ _ =>
    memoryComps
  | .apertureWrite _ _ _ _ | .poisonWrite _ _ =>
    memoryComps ++ [.fresh]
  | .interruptModerationTimer _ _ =>
    [.queues, .streams, .msixs, .out]
  | .pcieLaneFail _ _ =>
    recordComps ++ [.pcieLanes]
  | .functionLevelReset _ _ =>
    memoryComps ++ [.ctxs, .queues, .cmds, .nextCmd, .fences, .evseq, .streams, .engines, .fresh]
  | .partitionReset _ _ =>
    memoryComps ++ [.ctxs, .queues, .cmds, .fences, .flash, .evseq, .handling, .ports, .streams, .boot, .fresh]
  | .deviceReset _ =>
    [.regs, .boot, .seqr, .pins, .msixs, .out]
  | .kvtInit _ _ _ =>
    memoryComps ++ [.agents]
  | .agentMap _ _ _ =>
    memoryComps ++ [.agents, .fresh]
  | .kvCommit _ _ =>
    memoryComps ++ [.cmds, .fresh]
  | .kvFetch _ | .kvEvictEntry _ | .agentTakeover _ =>
    memoryComps ++ [.ctxs, .cmds, .flash, .agents, .fresh]
  | .scrubStep _ =>
    memoryComps ++ [.sites]
  | .mr4Poll _ _ =>
    [.regs, .sites]
  | .refresh _ =>
    []
  | .siteLost _ | .lunFail _ | .hmlock =>
    recordComps
  | .memClear _ _ | .memMargin _ _ =>
    [.regs, .memOp, .msixs, .out]
  | .memOpComplete _ =>
    [.regs, .mem, .ecc, .sites, .memOp, .msixs, .out]
  | .programComplete _ | .holdupMeasure _ | .holdupProbe _ | .flashReadComplete _ _ _ _ _ _ =>
    memoryComps ++ [.ctxs, .cmds, .flash]
  | .grownBadBlock _ _ _ _ | .wearLevelMove _ _ | .retentionPatrol _ _ _ _ _ _ _ | .doubleLunFail _ _ =>
    recordComps ++ [.flash]
  | .rebuildComplete | .glostTimeout | .retrainLimit _ | .eyeScanComplete _ _ =>
    [.regs]
  | .flitReceive _ _ _ _ _ | .elect _ | .electionEnd | .topo _ _ | .number _ _ | .formed _ | .fgreport _ | .fgreportTick | .tbstart _
  | .tbreply _ | .tbprobeRetry | .tbset _ | .tbdone _ =>
    [.regs, .ports, .arch, .out]
  | .nak _ _ _ _ _ | .replayTimeout _ | .wack _ | .laneFault _ _ | .linkLoss _ _ | .retrain _ _ _ =>
    memoryComps ++ [.ctxs, .cmds, .ports, .arch, .fresh]
  | .wr _ | .linkUp _ _ _ _ _ _ _ _ _ =>
    recordComps ++ [.ports, .arch]
  | .wrPerformed _ _ =>
    memoryComps ++ [.cmds, .ports, .arch, .streams, .fresh]
  | .electionTick | .tbprobe _ | .rateTrimProbe =>
    [.ports, .arch, .out]
  | .fgswitch _ =>
    [.regs, .ports, .arch, .power, .out]
  | .fgswitchInstant =>
    [.regs, .arch, .power]
  | .sweepTimerExpiry =>
    [.regs, .arch]
  | .tmbCtlSweep _ _ =>
    [.regs, .ports, .arch, .msixs, .out]
  | .widthChange _ _ _ _ _ =>
    [.regs, .ports, .out]
  | .trainingStepTimeout _ _ =>
    [.ports]
  | .form _ _ =>
    [.regs, .arch, .msixs, .out]
  | .eyeScan _ _ | .pwrCap _ _ =>
    [.regs, .msixs, .out]
  | .streamOpen _ _ _ =>
    memoryComps ++ [.streams]
  | .streamClose _ _ _ =>
    [.regs, .streams, .engines, .msixs, .out]
  | .streamDisable _ _ _ | .engdis _ _ _ | .frameFetch _ _ | .frameStart _ | .frameDeadline _ | .frameRecordWrite _ =>
    memoryComps ++ [.cmds, .streams, .engines]
  | .cdcFdb _ _ _ | .cdcCdb _ _ _ =>
    [.regs, .streams, .msixs, .out]
  | .blockRow _ _ | .codecHwError _ =>
    memoryComps ++ [.cmds, .streams, .engines, .fresh]
  | .onReqRise | .onReqFall | .pwrfailNRise | .btest =>
    [.regs, .seqr, .pins]
  | .pwrfailNFall =>
    [.regs, .flash, .boot, .seqr, .pins, .fresh]
  | .mbPowerRequest _ _ =>
    [.regs, .seqr, .msixs, .out]
  | .powerPhaseUp _ =>
    memoryComps ++ [.latch, .ctxs, .queues, .cmds, .fences, .clusters, .flash, .agents, .evseq, .handling, .retired, .clearRetired, .lostIslands, .ports, .arch, .streams, .engines, .sites, .memOp, .boot, .seqr, .pins, .power, .bundle, .pcieLanes, .straits]
  | .powerPhaseDown =>
    memoryComps ++ [.latch, .ctxs, .queues, .cmds, .fences, .clusters, .flash, .agents, .evseq, .handling, .lostIslands, .ports, .arch, .streams, .engines, .sites, .memOp, .boot, .seqr, .pins, .power, .bundle, .pcieLanes, .straits, .fresh]
  | .phaseBoundOverrun _ =>
    recordComps ++ [.cmds, .fences, .flash, .agents, .handling, .streams, .seqr]
  | .imageAliveTimeout =>
    [.seqr]
  | .standbyRise | .strapSample _ _ _ =>
    [.pins]
  | .imageWrite _ _ _ | .raiseMinsecver _ _ =>
    [.regs, .latch, .boot, .msixs, .out]
  | .amendmentSubmit _ _ _ | .amendmentDiscard _ _ =>
    [.regs, .boot, .msixs, .out]
  | .amendmentApply =>
    [.regs, .clusters, .flash, .agents]
  | .powerControlStep _ _ _ _ _ _ | .clockSwitch _ | .currentTrip _ =>
    [.regs, .power]
  | .sensorRead _ =>
    recordComps ++ [.cmds, .fences, .flash, .agents, .handling, .streams, .seqr, .pins, .power]
  | .slopeTick _ =>
    [.regs, .clusters]
  | .extthrNFall =>
    [.regs, .pins, .power]
  | .extthrRelease =>
    [.regs, .pins]
  | .sysclkLoss =>
    recordComps ++ [.cmds, .fences, .flash, .agents, .handling, .streams, .seqr, .pins]
  | .pgFall _ =>
    memoryComps ++ [.ctxs, .queues, .cmds, .fences, .clusters, .flash, .agents, .evseq, .handling, .lostIslands, .ports, .streams, .engines, .seqr, .fresh]
  | .arrayCheckFail _ _ _ _ _ _ | .lbfEcc _ _ _ _ _ _ _ _ _ | .fleetTestItem _ _ =>
    memoryComps ++ [.ctxs, .cmds, .clusters, .flash, .handling, .retired, .ports, .fresh]
  | .sfuPipeParity _ _ _ _ =>
    memoryComps ++ [.ctxs, .cmds, .handling, .fresh]
  | .retireCluster _ _ | .accumulatorStoreError _ =>
    memoryComps ++ [.ctxs, .cmds, .flash, .handling, .retired, .ports, .fresh]
  | .clearRetirementList _ _ =>
    [.regs, .clearRetired, .msixs, .out]
  | .straitLaneFail _ _ =>
    recordComps ++ [.straits]
  | .islandLoss _ _ =>
    memoryComps ++ [.ctxs, .queues, .cmds, .fences, .clusters, .flash, .agents, .evseq, .handling, .lostIslands, .ports, .streams, .engines, .fresh]
  | .hbdie =>
    recordComps ++ [.cmds, .fences, .flash, .agents, .handling, .streams]
  | .erqPop _ _ =>
    [.regs, .erq, .msixs, .out]
  | .bundleLoad _ _ _ _ =>
    [.regs, .latch, .clusters, .bundle, .msixs, .out]
  | .bundleStop _ _ =>
    [.regs, .latch, .bundle, .msixs, .out]
  | .cntTrcfg _ _ _ =>
    [.regs, .latch, .evseq, .msixs, .out]
  | .cntTrptr _ _ _ =>
    [.regs, .latch, .msixs, .out]
  | .trstNFall | .differentInstructionLoad =>
    [.regs, .seqr]
  | .amendmentCommit =>
    [.regs, .mem, .ecc, .boot, .seqr, .pins]
  | .imageWriteComplete =>
    [.regs, .boot, .seqr]
  | .partitionResetEnd =>
    memoryComps ++ [.ctxs, .queues, .cmds, .fences, .clusters, .flash, .agents, .evseq, .ports, .streams, .engines, .boot, .fresh]
  | .standbyFall =>
    memoryComps ++ [.latch, .ctxs, .queues, .cmds, .fences, .clusters, .flash, .agents, .evseq, .handling, .retired, .clearRetired, .lostIslands, .ports, .arch, .streams, .engines, .sites, .memOp, .boot, .seqr, .pins, .power, .bundle, .pcieLanes, .straits, .fresh]

/-! ### Rows that issue a command of a queue -/

/-- A row that issues: which of a queue's commands are its own, and their checks. -/
structure IssueRow where
  row : Instr
  mine : Cmd → Bool
  check : State → Cmd → Chk Plan

/-- The rows of Table 4-2 whose commands issue into the shuttles of their span with nothing else to do. -/
def tiledRows (q : Nat) : List IssueRow :=
  [⟨.chain q, isChain, chainCheck kvCheck⟩, ⟨.conv q, isConv 0, convCheck kvCheck⟩, ⟨.maxpool q, isConv 1, convCheck kvCheck⟩,
   ⟨.avgpool q, isConv 2, convCheck kvCheck⟩, ⟨.upnearest q, isConv 3, convCheck kvCheck⟩, ⟨.uplinear q, isConv 4, convCheck kvCheck⟩,
   ⟨.stage q, isVop 0x00, vopCheck kvCheck⟩, ⟨.add q, isVop 0x01, vopCheck kvCheck⟩, ⟨.sub q, isVop 0x02, vopCheck kvCheck⟩,
   ⟨.mul q, isVop 0x03, vopCheck kvCheck⟩, ⟨.fma q, isVop 0x04, vopCheck kvCheck⟩, ⟨.max q, isVop 0x05, vopCheck kvCheck⟩,
   ⟨.min q, isVop 0x06, vopCheck kvCheck⟩, ⟨.abs q, isVop 0x07, vopCheck kvCheck⟩, ⟨.neg q, isVop 0x08, vopCheck kvCheck⟩,
   ⟨.cmp q, isVop 0x09, vopCheck kvCheck⟩, ⟨.select q, isVop 0x0A, vopCheck kvCheck⟩, ⟨.convert q, isVop 0x0B, vopCheck kvCheck⟩,
   ⟨.func q, isVop 0x0C, vopCheck kvCheck⟩, ⟨.iadd q, isVop 0x10, vopCheck kvCheck⟩, ⟨.isub q, isVop 0x11, vopCheck kvCheck⟩,
   ⟨.imul q, isVop 0x12, vopCheck kvCheck⟩, ⟨.iand q, isVop 0x13, vopCheck kvCheck⟩, ⟨.ior q, isVop 0x14, vopCheck kvCheck⟩,
   ⟨.ixor q, isVop 0x15, vopCheck kvCheck⟩, ⟨.ishl q, isVop 0x16, vopCheck kvCheck⟩, ⟨.ishr q, isVop 0x17, vopCheck kvCheck⟩] ++
  [⟨.rsum q, isVop 0x20, vopCheck kvCheck⟩, ⟨.rmax q, isVop 0x21, vopCheck kvCheck⟩, ⟨.rmin q, isVop 0x22, vopCheck kvCheck⟩,
   ⟨.argmax q, isVop 0x23, vopCheck kvCheck⟩, ⟨.argmin q, isVop 0x24, vopCheck kvCheck⟩, ⟨.iscan q, isVop 0x25, vopCheck kvCheck⟩,
   ⟨.sfpRun q, isSfp false, sfpRunCheck⟩, ⟨.sfpLoad q, isSfp true, sfpLoadCheck⟩, ⟨.move q, isOp 0x10, moveCheck⟩,
   ⟨.gather q, isOp 0x11, xferCheck true⟩, ⟨.scatter q, isOp 0x12, xferCheck false⟩, ⟨.croprs q, isOp 0x13, cropCheck⟩,
   ⟨.rngfill q, isOp 0x18, rngCheck⟩, ⟨.sample q, isOp 0x19, sampleCheck⟩]

/-- MMA and ATTN, which issue as tiled commands too and then do more. -/
def mmaRow (q : Nat) : IssueRow := ⟨.mma q, isMma, mmaCheck kvCheck⟩
def attnRow (q : Nat) : IssueRow := ⟨.attn q, isAttn, attnCheck⟩

/-- The rows of commands that their anchor carries out, or that complete at issue. -/
def anchorRows (q : Nat) : List IssueRow :=
  [⟨.nop q, isNopRow, nopCheck⟩, ⟨.wait q, isOp 0x28, waitCheck⟩, ⟨.signal q, isOp 0x29, signalCheck⟩, ⟨.fence q, isOp 0x2A, fenceCheck⟩,
   ⟨.mark q, isOp 0x2B, markCheck⟩, ⟨.dump q, isOp 0x2C, dumpCheck⟩, ⟨.kvfork q, isOp 0x20, kvOpCheck⟩,
   ⟨.kvfreeTruncate q, fun c => c.opcode == 0x21 && c.kvMode != 1, kvOpCheck⟩,
   ⟨.kvfreeEvict q, fun c => c.opcode == 0x21 && c.kvMode == 1, kvOpCheck⟩, ⟨.kvprefetch q, isOp 0x22, kvOpCheck⟩,
   ⟨.zsend q, isOp 0x30, zsendCheck⟩, ⟨.flread q, isOp 0x38, flreadCheck⟩, ⟨.flwriteSpill q, isFlwrite 0, flwriteCheck⟩,
   ⟨.flwriteBegin q, isFlwrite 1, flwriteCheck⟩, ⟨.flwriteData q, isFlwrite 2, flwriteCheck⟩, ⟨.flwriteCommit q, isFlwrite 3, flwriteCheck⟩,
   ⟨.flwriteAbandon q, isFlwrite 4, flwriteCheck⟩]

/-- Every row that issues. -/
def issueRows (q : Nat) : List IssueRow := mmaRow q :: attnRow q :: (tiledRows q ++ anchorRows q)

/-- Row `r` has `c0`, the oldest unissued command of its queue, to issue now, and its checks answer `o` after reading the words `ws`. -/
def IssueRow.Has (r : IssueRow) (s : State) (q : Nat) (c0 : Cmd) (o : Except Rej Plan) (ws : List Nat) : Prop :=
  s.oldest? q = some c0 ∧ r.mine c0 = true ∧ s.mayIssue c0 = true ∧ (r.check s (s.sample c0)).run.run [] = (o, ws)

/-- The command as it goes on after its checks. -/
def issued (s : State) (c0 : Cmd) (p : Plan) : Cmd := { s.sample c0 with plan := p, st := .issued }

/-- The command that tiled rows track: its span, and a ready part in each cluster of the span. -/
def tiledCmd (u : State) (c : Cmd) : Cmd :=
  { c with span := u.issueSpan c, parts := (u.issueSpan c).map fun cl => ⟨cl, .ready, false, 0, false, 0, 0, 0, 0, []⟩ }

end Sys2Proof.Machine
end

