-- ==== Sys2Proof/Certificates/Slice0/Obligations.lean ====
section
/-!
DEFINITION. Certificates/Slice0/Obligations.lean: the statements for the provers. Every command answers a next state, so a statement about a command says
which state, or what holds of it. A docstring names the log entries of what the rules leave to the model.
-/
open Sys2Proof Sys2Proof.Machine

/-! ### The queue, the frames, the accessors -/

/-- A step takes the command at the front of the queue and has its effect on the state that holds the queue's rest. -/
def Obligations.StepRunsFrontCommand : Prop :=
  ∀ (s : State) (i : Instr) (rest : List Instr), s.pending = i :: rest → step s = exec i { s with pending := rest }

/-- MODEL'S CHOICE (log entry 2): with no command waiting a step is one nanosecond of the timebase once phase 2 is up (R492, R493), and nothing below it. While
no rate trim is set, NOW goes up by one and wraps. -/
def Obligations.IdleStepIsATick : Prop :=
  ∀ s : State, s.canon = true → s.pending = [] →
    (s.phase < 2 → step s = .next s) ∧
    (2 ≤ s.phase → s.arch.trim = 0 → s.arch.trimAcc = 0 → ∃ t, step s = .next t ∧ t.now = (s.now + 1) % 2 ^ 64)

/-- No command faults or is refused: each answers a next state, whatever the state. Its frame: nothing changes but the components that `changes` lists for it;
the queue of waiting commands is among those of no command. Where it goes beyond the rules it is the model's choice, log entry 4. -/
def Obligations.CommandsAnswerWithinTheirFrame : Prop :=
  (∀ (i : Instr) (s : State), ∃ t, exec i s = .next t) ∧
  (∀ (i : Instr) (s t : State), exec i s = .next t → OnlyChanged (changes i) s t)

/-- Every step keeps every sparse table, memory among them, in its canonical form. -/
def Obligations.StepsKeepCanonicalForm : Prop :=
 ∀ s t : State, s.canon = true → step s = .next t → t.canon = true

/-- The reset state has the canonical form, and is as the spec says of reset: power phase OFF, timebase 0, no fatal error, every queue, context and stream FREE,
no cluster retired, every token and arrival counter 0, no error record, the PCIe link at 16 lanes. Where it goes beyond the rules it is the model's choice,
log entries 8, 9. -/
def Obligations.ResetLeaves : Prop :=
  State.reset.canon = true ∧ State.reset.phase = 0 ∧ State.reset.now = 0 ∧ State.reset.running = true ∧ State.reset.erq = [] ∧
  State.reset.pcieLanes = 16 ∧
  (∀ q, State.reset.getF F.pciQstatState q = 0 ∧ State.reset.queue q = Queue.free) ∧
  (∀ x, State.reset.getF F.shtCtxstatState x = 0 ∧ State.reset.ctx x = Context.free) ∧
  (∀ n, State.reset.getF F.cdcSstatState n = 0) ∧
  (∀ c, State.reset.isRetired c = false) ∧
  (∀ n, State.reset.getF F.shtTokValue n = 0 ∧ State.reset.getF F.zlkArrCount n = 0)

/-- A virtual function that writes a register of the device, of a site, of a port or of an engine changes nothing but its own ACCERR cause and the interrupt
that goes with it (R369, R560). -/
def Obligations.VirtualFunctionsCannotControlTheDevice : Prop :=
  ∀ (s t : State) (n v e : Nat) (b : List Byte) (on long : Bool), s.canon = true → 0 < n → n < 64 →
    ∀ i ∈ [Instr.memClear (.fn n) v, .memMargin (.fn n) v, .engdis (.fn n) e v, .erqPop (.fn n) v, .retireCluster (.fn n) v,
        .clearRetirementList (.fn n) v, .bundleLoad (.fn n) v b long, .bundleStop (.fn n) v, .partitionReset (.fn n) v,
        .deviceReset (some (.fn n, v)), .imageWrite (.fn n) v b, .raiseMinsecver (.fn n) v, .amendmentSubmit (.fn n) v b,
        .amendmentDiscard (.fn n) v, .mbPowerRequest (.fn n) on, .pwrCap (.fn n) v, .form (.fn n) v, .eyeScan (.fn n) v,
        .retrain (.fn n) e v, .tmbCtlSweep (.fn n) v],
      exec i s = .next t → OnlyChanged [.regs, .msixs, .out] s t ∧ FieldsKept [(F.pciEvtcauseAccerr, n)] s t

/-! ### Issue (Chapter 4) -/

/-- CHAIN, CONV and its four companions, every VOP, SFP, MOVE, GATHER, SCATTER, CROPRS, RNGFILL and SAMPLE: the oldest command of a queue whose waits are
satisfied and whose checks pass issues. It is tracked as issued, with a ready part in each cluster of its span (R96, R97); every other command stays as it
was, but for waits that latch; and while the partition's trace is off, every byte of device memory reads as before. MMA and ATTN issue in the same way. A
carry-over MMA first opens its block (R230, R231); a ring ATTN then posts its first block to the next device (R194). Where it goes beyond the rules it is
the model's choice, log entries 18, 20, 21. -/
def Obligations.TiledCommandsIssue : Prop :=
  (∀ (s : State) (q : Nat) (c0 : Cmd) (p : Plan) (ws : List Nat), s.canon = true → ∀ r ∈ tiledRows q, r.Has s q c0 (.ok p) ws →
    ∃ t, exec r.row s = .next t ∧ t.cmd? c0.id = some (tiledCmd (s.readWords ws.eraseDups) (issued s c0 p)) ∧
      (∀ d ∈ s.cmds, d.id ≠ c0.id → ∃ e ∈ t.cmds, e = { d with waits := e.waits, openAt := e.openAt }) ∧
      ((s.readWords ws.eraseDups).flag F.cntTrcfgEn ((s.readWords ws.eraseDups).partOf c0.ctx) = false → ∀ a, t.byteAt a = s.byteAt a)) ∧
  (∀ (s : State) (q : Nat) (c0 : Cmd) (p : Plan) (ws : List Nat), s.canon = true →
    ((mmaRow q).Has s q c0 (.ok p) ws →
      ∃ t, exec (.mma q) s = .next t ∧
        t.cmd? c0.id = some (tiledCmd ((s.readWords ws.eraseDups).coStart (issued s c0 p)) (issued s c0 p)) ∧
        (p.co = none → (s.readWords ws.eraseDups).flag F.cntTrcfgEn ((s.readWords ws.eraseDups).partOf c0.ctx) = false →
          ∀ a, t.byteAt a = s.byteAt a)) ∧
    ((attnRow q).Has s q c0 (.ok p) ws →
      (c0.ringA = false → ∃ t, exec (.attn q) s = .next t ∧ t.cmd? c0.id = some (tiledCmd (s.readWords ws.eraseDups) (issued s c0 p)) ∧
        ((s.readWords ws.eraseDups).flag F.cntTrcfgEn ((s.readWords ws.eraseDups).partOf c0.ctx) = false → ∀ a, t.byteAt a = s.byteAt a)) ∧
      (c0.ringA = true →
        exec (.attn q) s = .next (((s.readWords ws.eraseDups).goTiled (issued s c0 p)).ringPost (tiledCmd (s.readWords ws.eraseDups) (issued s c0 p)) 0))))

/-- A command that fails a check of Table 4-8 ends with the status of that check, no byte of device memory changes, and its context is to be torn down with that
status (R116). This holds of every row that issues. Where it goes beyond the rules it is the model's choice, log entries 21, 44. -/
def Obligations.RejectedCommandsWriteNothing : Prop :=
  ∀ (s : State) (q : Nat) (c0 : Cmd) (e : Rej) (ws : List Nat), s.canon = true → ∀ r ∈ issueRows q, r.Has s q c0 (.error e) ws →
    ∃ t, exec r.row s = .next t ∧
      t.cmd? c0.id = some { s.sample c0 with st := .ended, status := e.status, dslot := e.dslot, dfield := e.dfield, addr := e.addr } ∧
      (t.ctx c0.ctx).fault = some ⟨e.status, 0x30, e.addr, e.dslot * 32 + e.dfield, some c0.id, none⟩ ∧
      (∀ a, t.byteAt a = s.byteAt a)

/-- NOP, WAIT, MARK, DUMP, and SIGNAL and FENCE of cluster scope complete at issue: a START event comes first for those that hold a window slot in the span, a
MARK event for MARK, the entries of a SIGNAL, the slot of a DUMP; the command is then completed by the steps of R118 and no longer tracked. SIGNAL and FENCE
of device or system scope stay tracked as issued until COMMAND_COMPLETE finds every earlier command done. Where it goes beyond the rules it is the model's
choice, log entries 18, 55. -/
def Obligations.SynchronizationCommandsIssue : Prop :=
  (∀ (s : State) (q : Nat) (c0 : Cmd) (p : Plan) (ws : List Nat),
    let u := s.readWords ws.eraseDups
    let c := issued s c0 p
    let d := { c with span := u.issueSpan c }
    (∀ r ∈ [IssueRow.mk (.nop q) isNopRow nopCheck, ⟨.wait q, isOp 0x28, waitCheck⟩], r.Has s q c0 (.ok p) ws →
      exec r.row s = .next (((u.setCmd d).traceStart d).completeCmd d)) ∧
    (IssueRow.Has ⟨.mark q, isOp 0x2B, markCheck⟩ s q c0 (.ok p) ws →
      exec (.mark q) s = .next (((u.trace c 3 0 (leBytes 4 (c.field 32 4) ++ leBytes 2 (c.field 36 2))).setCmd c).completeCmd c)) ∧
    (IssueRow.Has ⟨.dump q, isOp 0x2C, dumpCheck⟩ s q c0 (.ok p) ws →
      (c0.dumpCount = 0 → exec (.dump q) s = .next (((u.setCtx c.ctx { u.ctx c.ctx with dumps := (u.ctx c.ctx).dumps.map fun _ => none }).setCmd c).completeCmd c)) ∧
      (c0.dumpCount ≠ 0 → exec (.dump q) s = .next (((u.setCtx c.ctx { u.ctx c.ctx with
        dumps := (u.ctx c.ctx).dumps.set ((u.ctx c.ctx).dumps.findIdx (·.isNone)) (some ⟨c.id, c.bytes.drop 32, 0⟩) }).setCmd c).completeCmd c))) ∧
    (IssueRow.Has ⟨.signal q, isOp 0x29, signalCheck⟩ s q c0 (.ok p) ws → c0.scope = 0 →
      exec (.signal q) s = .next (((u.signalEntries c).setCmd c).completeCmd c)) ∧
    (IssueRow.Has ⟨.fence q, isOp 0x2A, fenceCheck⟩ s q c0 (.ok p) ws → c0.scope = 0 →
      exec (.fence q) s = .next ((((({ u with fences := u.fences ++ [⟨c.id, c.q, c.ctx, c.wholeCtx, d.span⟩] } : State).setCmd d).traceStart d).completeCmd d).pruneFences)) ∧
    (∀ (t : State) (x : Cmd), (t.completeCmd x).cmd? x.id = none)) ∧
  (∀ (s : State) (q : Nat) (c0 : Cmd) (p : Plan) (ws : List Nat),
    let u := s.readWords ws.eraseDups
    let c := issued s c0 p
    let d := { c with span := u.issueSpan c }
    c0.scope ≠ 0 →
    (IssueRow.Has ⟨.signal q, isOp 0x29, signalCheck⟩ s q c0 (.ok p) ws →
      ∃ t, exec (.signal q) s = .next t ∧ t.cmd? c0.id = some c ∧ (∀ n, t.getF F.shtTokValue n = u.getF F.shtTokValue n)) ∧
    (IssueRow.Has ⟨.fence q, isOp 0x2A, fenceCheck⟩ s q c0 (.ok p) ws → ∃ t, exec (.fence q) s = .next t ∧ t.cmd? c0.id = some d))

/-- KVFORK, KVFREE and KVPREFETCH go to the end of the agent's queue; an FLREAD becomes a read job of its region; an FLWRITE joins its region's queue; a ZSEND
reads its source and hands its writes to the port, or fails with 0x9E on a port that is not UP. Where it goes beyond the rules it is the model's choice, log
entries 38, 41, 42. -/
def Obligations.EngineCommandsIssue : Prop :=
  ∀ (s : State) (q : Nat) (c0 : Cmd) (p : Plan) (ws : List Nat),
    let u := s.readWords ws.eraseDups
    let c := issued s c0 p
    let v := (u.setCmd c).latchWaits
    (∀ r ∈ [IssueRow.mk (.kvfork q) (isOp 0x20) kvOpCheck, ⟨.kvfreeTruncate q, fun c => c.opcode == 0x21 && c.kvMode != 1, kvOpCheck⟩,
        ⟨.kvfreeEvict q, fun c => c.opcode == 0x21 && c.kvMode == 1, kvOpCheck⟩, ⟨.kvprefetch q, isOp 0x22, kvOpCheck⟩], r.Has s q c0 (.ok p) ws →
      exec r.row s = .next ((v.setAgent (v.partOf c.ctx) { v.agent (v.partOf c.ctx) with
        queue := (v.agent (v.partOf c.ctx)).queue ++ [⟨c.id, false, false, 0, 0, 0, 0, 0, 0, 0⟩] }).agentGo (v.partOf c.ctx))) ∧
    (IssueRow.Has ⟨.flread q, isOp 0x38, flreadCheck⟩ s q c0 (.ok p) ws → (p.desc 1).regionBlocks ≠ [] →
      exec (.flread q) s = .next (v.setFlash { v.flash with
        jobs := v.flash.jobs ++ [⟨.read c.id, c.region, (u.flRegion c.region).data, (u.flRegion c.region).bad, (p.desc 1).regionBlocks,
          (u.flRegion c.region).switches⟩] })) ∧
    (∀ r ∈ [IssueRow.mk (.flwriteSpill q) (isFlwrite 0) flwriteCheck, ⟨.flwriteBegin q, isFlwrite 1, flwriteCheck⟩,
        ⟨.flwriteData q, isFlwrite 2, flwriteCheck⟩, ⟨.flwriteCommit q, isFlwrite 3, flwriteCheck⟩, ⟨.flwriteAbandon q, isFlwrite 4, flwriteCheck⟩],
      r.Has s q c0 (.ok p) ws →
      let w := v.supersede c
      exec r.row s = .next ((w.setRegion c.region { w.flRegion c.region with ops := (w.flRegion c.region).ops ++ [c.id] }).flashRun c.region
        ((w.flRegion c.region).ops.length + 3))) ∧
    (IssueRow.Has ⟨.zsend q, isOp 0x30, zsendCheck⟩ s q c0 (.ok p) ws →
      (v.portUp c.zport = true → exec (.zsend q) s = .next ((v.readWords (wordsOf (c.addrAt 32) (c.field 44 4))).queueWrs c.zport
        (mkWrs c.id (c.addrAt 38) (wrBase (c.field 52 4) (bits (c.field 49 2) 0 12) (c.bits 48 4 4) (c.bits 51 1 1) (c.bits 51 0 1))
          (v.chunks (c.addrAt 32) (c.field 44 4))))) ∧
      (v.portUp c.zport = false → exec (.zsend q) s = .next (v.endZsend c 0x9E)))

/-! ### Parts, completion, records (Chapters 4, 6, 7, 15, 16) -/

/-- A free unit of a working cluster starts the ready part that R375 chooses, whose credits fit the context's share (R115): the part runs its items, and its
outcome is kept in its command. With no ready part, or in a cluster that is retired or lost, nothing happens. The owner of a tile that is split over the
reduction takes the next part of its lowest waiting tile: a dead tile is poisoned; a part that has arrived is merged, and the tile is finished with its last
part (R83, R111, R119). The oldest load of a cluster, once no program part is before it, installs its image: the cluster's store holds it, IMAGEID is its
identifier, and the load's part has run (R171). A ring ATTN takes its next step once the waits of that step are satisfied, fails with 0x33 on a lost arrival
counter, and else goes on waiting (R194, R197). Where it goes beyond the rules it is the model's choice, log entries 11, 40, 81. -/
def Obligations.PartsRun : Prop :=
  (∀ (s : State) (cl u : Nat),
    (∀ c, s.running = true → s.clusterUp cl = true → s.nextPart cl u = some c →
      exec (.partStart cl u) s = .next (State.afterRun c cl ((s.noteStart c.ctx cl).runPart c cl)) ∧
      c ∈ s.cmds ∧ c.unit = u ∧ s.creditsUsed c.ctx cl + c.plan.units ≤ s.getF F.shtCtxstatShare c.ctx ∧ s.partFenced c cl = false) ∧
    (s.running = false ∨ s.clusterUp cl = false ∨ s.nextPart cl u = none → exec (.partStart cl u) s = .next s)) ∧
  (∀ (s : State) (cl : Nat) (c : Cmd) (e d : PartTile) (p : Nat),
    s.cmds.find? (·.grantDue cl) = some c → c.ownTile cl = some e →
    (c.tileDead e.tile = true → exec (.mergeSlotGrant cl) s = .next ((s.killTile c e.tile).1.setCmd (s.killTile c e.tile).2)) ∧
    (c.tileDead e.tile = false → s.agentFree c = false → exec (.mergeSlotGrant cl) s = .next s) ∧
    (c.tileDead e.tile = false → s.agentFree c = true → c.nextMerge e.tile e.next = some p → c.tiles.find? (fun d => d.tile == e.tile && d.part == p) = some d →
      let m := c.mergeTiles e d
      let rest := c.tiles.filter fun x => x != e && some x != some d
      ((c.nextMerge e.tile m.1.next).isSome = true → exec (.mergeSlotGrant cl) s =
        .next (State.afterRun { c with tiles := rest ++ [m.1] } cl { PartRun.start s [] with fl := m.2 })) ∧
      (c.nextMerge e.tile m.1.next = none → exec (.mergeSlotGrant cl) s =
        .next (State.afterRun { c with tiles := rest } cl (({ PartRun.start s [] with fl := m.2 } : PartRun).finishMerged c cl m.1)))) ∧
    (c.tileDead e.tile = false → s.agentFree c = true → c.nextMerge e.tile e.next = none →
      exec (.mergeSlotGrant cl) s = .next (State.afterRun { c with tiles := c.tiles.filter (· != e) } cl
        (({ PartRun.start s [] with fl := 0 } : PartRun).finishMerged c cl e)))) ∧
  (∀ (s : State) (cl : Nat) (l : Cmd), s.canon = true → s.running = true → s.clusterUp cl = true → s.nextLoad cl = some l →
    ∃ t, exec (.imageInstall cl) s = .next t ∧ (t.cluster cl).image = l.plan.imageBytes ∧
      t.getF F.sfuStoreImageid cl = imageId l.plan.imageBytes % 2 ^ F.sfuStoreImageid.w ∧
      OnlyChanged [.regs, .cmds, .clusters] s t ∧ FieldsKept [(F.sfuStoreImageid, cl)] s t ∧
      (∀ k, k ≠ cl → t.cluster k = s.cluster k)) ∧
  (∀ (s : State) (q seq : Nat) (c : Cmd), s.cmdAt? q seq = some c → s.running = true → c.st = .issued → c.status = 0 → c.ringLeft = true →
    c.parts.all (fun p => p.st == .running) = true →
    let left := c.ringWaits.filter fun w => !s.arrivalSat w.1 w.2
    (left = [] → exec (.attnRingStep q seq) s = .next (s.ringStep c (c.ring + 1))) ∧
    (left.any (fun w => s.flag F.zlkArrcfgLost w.1) = true → exec (.attnRingStep q seq) s = .next (s.failRing c 0x33)) ∧
    (left ≠ [] → left.any (fun w => s.flag F.zlkArrcfgLost w.1) = false →
      exec (.attnRingStep q seq) s = .next (s.setCmd { c with openAt := some (c.openAt.getD s.now) })))

/-- A part that is done reports: its status 0 changes nothing else; a failure gives the command its status, unless an earlier one has, and its bit of PARTS, and
a status of R120 tears the context down (R22, R118, R119). A command whose parts have all reported completes by the steps of R118: what its kind does at the
end, then the token signal on success, the END event, its record when it asked for one or failed, and its tracking entry is free. Where it goes beyond the
rules it is the model's choice, log entry 11. -/
def Obligations.PartsReportAndCommandsComplete : Prop :=
  (∀ (s : State) (cl q seq : Nat) (c : Cmd) (p : Part), s.cmdAt? q seq = some c → c.st = .issued → c.partDone cl = true → c.part? cl = some p →
    (p.status = 0 → exec (.partComplete cl q seq) s = .next (s.setCmd (c.mapPart cl fun p => { p with reported := true }))) ∧
    (p.status ≠ 0 → c.status = 0 → c.bad.contains cl = false →
      let d := { c.mapPart cl (fun p => { p with reported := true }) with bad := c.bad ++ [cl], status := p.status, addr := p.addr }
      exec (.partComplete cl q seq) s = .next (if tearsDown p.status then (s.setCmd d).faultCtx c.ctx ⟨p.status, 0x30, p.addr, 0, some c.id, none⟩ else s.setCmd d))) ∧
  (∀ (s : State) (q seq : Nat) (c : Cmd), s.running = true → s.cmdAt? q seq = some c → s.completeDue c = true →
    ∃ t, exec (.commandComplete q seq) s = .next t ∧ t = ((s.beforeComplete c).1.completeCmd (s.beforeComplete c).2).pruneFences ∧ t.cmd? c.id = none)

/-- A completed command without flushed elements, poison or armed dumps adds its increment to its token on success, and only on success, before its END event;
its record is owed when NOTIFY is 1 or the status is not 0 (R118). Where it goes beyond the rules it is the model's choice, log entry 24. -/
def Obligations.CompletionSignalsAndRecords : Prop :=
  ∀ (s : State) (c : Cmd), c.parts.all (fun p => p.flushN == 0 && !p.poison) = true → c.armed = [] → c.poisoned = false → c.flush = false →
    let u := if c.status = 0 ∧ c.sgen = true then s.addToken c.stok c.sinc else s
    let v := u.traceEnd c
    s.completeCmd c = (((if c.notify = true ∨ c.status ≠ 0 then v.oweRecord c.q c.id (v.cmdRecord c) else v).dropCmd c.id).latchWaits)

/-- The oldest waiting record of a queue is written, with TEND, into the slot that CQTAIL names once the ring has room, and CQTAIL moves on; in a full ring
nothing is written (R399). For a ring in host memory of a queue that asks for no interrupt, all that changes is said. -/
def Obligations.WaitingRecordsAreWritten : Prop :=
  ∀ (s : State) (q : Nat) (r : WaitRec) (rest : List WaitRec), s.canon = true → (s.queue q).waiting = r :: rest →
    (s.cqRoom q = false → exec (.completionRecordWrite q) s = .next s) ∧
    (s.cqRoom q = true → exec (.completionRecordWrite q) s = .next ((s.setQueue q { s.queue q with waiting := rest }).putRecord q r.bytes)) ∧
    (s.cqRoom q = true → (s.queue q).cqDev = false → (s.queue q).ien = false →
      ∃ t, exec (.completionRecordWrite q) s = .next t ∧
        t.out = .hostWrite (s.getF F.pciQstatOwner q) ((s.queue q).cqBase + 128 * (s.getF F.pciQstatCqtail q % 2 ^ (s.queue q).cqLog2))
          (stampTend r.bytes s.now) false :: s.out ∧
        t.getF F.pciQstatCqtail q = (s.getF F.pciQstatCqtail q + 1) % 2 ^ 32 ∧ t.queue q = { s.queue q with waiting := rest } ∧
        OnlyChanged [.regs, .queues, .out] s t ∧ FieldsKept [(F.pciQstatCqtail, q)] s t)

/-! ### Contexts (Chapter 15) -/

/-- A creation that passes the checks of Table 15-6 makes the context ACTIVE with the class, partition, share, owner and reach list of the descriptor, and no
fault status; SHT_CTXCMDSTAT shows the context and status 0. No other context changes, and no other register but those of the context, the operation's
status and the event cause (R370, R372). A creation that fails a check of Table 15-6 writes that status and changes nothing else but the event that every
ended operation raises (R372). Where it goes beyond the rules it is the model's choice, log entries 19, 45. -/
def Obligations.ContextsAreCreated : Prop :=
  (∀ (s : State) (acr : Acr) (set v fn : Nat), s.canon = true → fnSet acr set = fn → fn < 64 → s.flag F.shtCtxcmdstatBusy fn = false → opOf v = 1 →
    s.createStatus fn v = 0 →
    let x := bits (s.ctxDesc fn 0 2) 0 10
    ∃ t, exec (.contextCreate acr set v) s = .next t ∧ t.getF F.shtCtxstatState x = 1 ∧ t.getF F.shtCtxstatClass x = bits (s.ctxDesc fn 2 1) 0 1 ∧
      t.getF F.shtCtxstatPart x = bits (s.ctxDesc fn 2 1) 4 4 ∧ t.getF F.shtCtxstatShare x = bits (s.ctxDesc fn 4 2) 0 9 ∧
      t.getF F.shtCtxstatOwner x = fn ∧ t.getF F.shtCtxstatFstatus x = 0 ∧ (t.ctx x).reaches = (List.range (s.ctxDesc fn 6 1)).map (fun i => s.ctxDesc fn (16 + i) 1) ∧
      t.getF F.shtCtxcmdstatStatus fn = 0 ∧ t.getF F.shtCtxcmdstatCtx fn = x ∧ (∀ y, y ≠ x → t.ctx y = s.ctx y) ∧
      OnlyChanged [.regs, .ctxs, .msixs, .out] s t ∧
      RegsKept [R.shtCtxstat, R.shtCreg, R.shtNumctl, R.shtWdog, R.sfuMode, R.rngLseed, R.rngLsalt, R.shtCtxcmdstat, R.pciEvtcause] s t) ∧
  (∀ (s : State) (acr : Acr) (set v fn : Nat), s.canon = true → fnSet acr set = fn → fn < 64 → s.flag F.shtCtxcmdstatBusy fn = false → opOf v = 1 →
    s.createStatus fn v ≠ 0 →
    ∃ t, exec (.contextCreate acr set v) s = .next t ∧ t.getF F.shtCtxcmdstatStatus fn = s.createStatus fn v % 256 ∧
      OnlyChanged [.regs, .msixs, .out] s t ∧
      FieldsKept [(F.shtCtxcmdstatCtx, fn), (F.shtCtxcmdstatStatus, fn), (F.shtCtxcmdstatBusy, fn), (F.pciEvtcauseEvt, fn)] s t)

/-- While an operation of a function runs, a further write of its SHT_CTXCMD only writes status 0x8D (Tables 15-6, 15-9). A reset or destroy that is admitted
shows BUSY; with a teardown in progress it waits for it (R385), else the context becomes RESETTING, the tails of its queues are sampled, and its commands
end with status 0x0F (R373, R401). A reset that is not admitted ends with the status of its check. A context reset ends in ACTIVE with its reaches kept, a
destroy in FREE; its fault status is clear, and the operation that asked for it ends with status 0 (R373, Table 15-7). A reset whose agent operations still
run goes on. Where it goes beyond the rules it is the model's choice, log entry 45. -/
def Obligations.ContextsAreReset : Prop :=
  (∀ (s : State) (acr : Acr) (set v fn : Nat) (host : List (List Byte)), fnSet acr set = fn → fn < 64 → s.flag F.shtCtxcmdstatBusy fn = true →
    (opOf v = 1 → exec (.contextCreate acr set v) s = .next (s.setF F.shtCtxcmdstatStatus fn 0x8D)) ∧
    (opOf v = 2 → exec (.contextDestroy acr set v) s = .next (s.setF F.shtCtxcmdstatStatus fn 0x8D)) ∧
    (opOf v = 3 → exec (.contextReset acr set v) s = .next (s.setF F.shtCtxcmdstatStatus fn 0x8D)) ∧
    (opOf v = 4 → exec (.queueDisable acr set v host) s = .next (s.setF F.shtCtxcmdstatStatus fn 0x8D))) ∧
  (∀ (s : State) (acr : Acr) (set v fn : Nat), fnSet acr set = fn → fn < 64 → s.flag F.shtCtxcmdstatBusy fn = false →
    let x := bits v 12 10
    let u := (s.setF F.shtCtxcmdstatCtx fn x).setF F.shtCtxcmdstatBusy fn 1
    ∀ r ∈ [(Instr.contextDestroy acr set v, 2, true), (Instr.contextReset acr set v, 3, false)], opOf v = r.2.1 →
      (s.resetStatus fn v ≠ 0 → exec r.1 s = .next (s.ctxOp fn x (s.resetStatus fn v))) ∧
      (s.resetStatus fn v = 0 → u.tearing x = true →
        exec r.1 s = .next (u.setCtx x { u.ctx x with reset := some ⟨some fn, r.2.2, true, []⟩ })) ∧
      (s.resetStatus fn v = 0 → u.tearing x = false →
        let w := u.setF F.shtCtxstatState x 3
        exec r.1 s = .next ((w.setCtx x { w.ctx x with reset := some ⟨some fn, r.2.2, false, (w.boundTo x).map fun q => (q, (w.queue q).sqTail)⟩ }).abortCtx x))) ∧
  (∀ (s : State) (x : Nat) (r : CtxReset), s.canon = true → (s.ctx x).reset = some r → r.waits = false → s.getF F.shtCtxstatState x = 3 →
    (s.orphans (s.partOf x) = true → exec (.contextResetEnd x) s = .next s) ∧
    (s.orphans (s.partOf x) = false →
      ∃ t, exec (.contextResetEnd x) s = .next t ∧ t.getF F.shtCtxstatState x = (if r.destroy then 0 else 1) ∧ t.getF F.shtCtxstatFstatus x = 0 ∧
        t.ctx x = (if r.destroy then Context.free else { Context.free with reaches := (s.ctx x).reaches }) ∧
        (∀ y, y ≠ x → t.ctx y = s.ctx y) ∧
        (∀ fn, r.by_ = some fn → t.getF F.shtCtxcmdstatStatus fn = 0 ∧ t.getF F.shtCtxcmdstatBusy fn = 0)))

/-- When a context reset ends, each queue bound to the context stays ENABLED, its SQHEAD takes the tail sampled when the reset began, the commands between get
no record and their number is added to SKIPPED (R401). -/
def Obligations.QueuesSkipAfterAReset : Prop :=
  ∀ (s : State) (x : Nat) (r : CtxReset), s.canon = true → (s.ctx x).reset = some r → r.waits = false → s.getF F.shtCtxstatState x = 3 →
    s.orphans (s.partOf x) = false → (r.tails.map (·.1)).Nodup →
    ∃ t, exec (.contextResetEnd x) s = .next t ∧
      (∀ e ∈ r.tails, s.getF F.pciQstatState e.1 = 1 → (s.queue e.1).ctx = x →
        t.getF F.pciQstatState e.1 = 1 ∧ t.getF F.pciQstatSqhead e.1 = e.2 % 2 ^ 32 ∧
        t.getF F.pciQstatSkipped e.1 = (s.getF F.pciQstatSkipped e.1 + (e.2 + 2 ^ 32 - s.getF F.pciQstatSqhead e.1) % 2 ^ 32) % 2 ^ 32 ∧
        t.getF F.pciQstatCqtail e.1 = s.getF F.pciQstatCqtail e.1) ∧
      (∀ q, t.queue q = s.queue q)

/-- The first fault of a context is handled once the command that failed has ended: FAULTED with the fault's status, the CMDFAULT record where the fault is a
command's, every command of the context ended with its own status or 0x0F, the fault forgotten, the handling closed, the owner's event raised (R383). The
watchdog check looks at every tracked command: one whose wait has been open for LIMIT ms gets a watchdog record and ends with status 0x60, and its context
faults; one whose wait is not open that long, or that does not wait, stays (R312). Where it goes beyond the rules it is the model's choice, log entry 44. -/
def Obligations.ContextsAreTornDown : Prop :=
  (∀ (s : State) (x : Nat) (f : CtxFault), s.running = true → (s.ctx x).fault = some f →
    (s.faultSettled f = false → exec (.contextTeardown x) s = .next s) ∧
    (s.faultSettled f = true → (s.ctx x).reset = none →
      let v := s.ctx x
      let a := (s.setF F.shtCtxstatState x 2).setF F.shtCtxstatFstatus x f.status
      let b := (if f.cls = 0x30 then a.cmdFault x f v.faultOp v.faultTag else a).abortCtx x
      let c := b.setCtx x { b.ctx x with fault := none, faultOp := none, faultTag := 0 }
      let d : State := { c with handling := match f.cause with | some n => c.handling.filter (· != n) | none => c.handling }
      exec (.contextTeardown x) s = .next (d.raiseEvt (d.getF F.shtCtxstatOwner x) F.pciEvtcauseEvt))) ∧
  ((∀ s : State, s.running = true → exec .watchdogCheck s = .next (s.cmds.foldl State.watch s)) ∧
  ∀ (s : State) (c : Cmd),
    (c.openAt = none ∨ s.openWaits c = [] → s.watch c = s) ∧
    (∀ (t n v x : Nat) (arr : Bool) (rest : List (Bool × Nat × Nat × Nat)), c.openAt = some t → s.openWaits c = (arr, n, v, x) :: rest → s.ctxActive c.ctx = true →
      (s.now < t + s.getF F.shtWdogLimit c.ctx * 1000000 → s.watch c = s) ∧
      (t + s.getF F.shtWdogLimit c.ctx * 1000000 ≤ s.now →
        s.watch c = (s.record { cls := 0x31, sev := 1, unit := n, sub := b2n arr, op := some (c.bytes, s.partOf c.ctx, c.ctx), addr := v, syn := x,
                                status := 0x60 }).endWaiting c 0x60 0x31)))

/-- Disabling an ENABLED queue that the function may disable: the queue is DISABLED, its unissued commands end with status 0x0E, first those in the windows,
then those in the ring, in ring order, and the operation ends with status 0 (R121, R384). Stated with the checks that come first (Table 15-6a). Where it
goes beyond the rules it is the model's choice, log entry 46. -/
def Obligations.QueuesAreDisabled : Prop :=
  ∀ (s : State) (acr : Acr) (set v fn : Nat) (host : List (List Byte)), fnSet acr set = fn → fn < 64 → s.flag F.shtCtxcmdstatBusy fn = false → opOf v = 4 →
    let q := bits v 0 12
    let x := (s.queue q).ctx
    (bits v 22 38 ≠ 0 → exec (.queueDisable acr set v host) s = .next (s.ctxOp fn x 0x88)) ∧
    (bits v 22 38 = 0 → s.getF F.pciQstatState q ≠ 0 → fn ≠ 0 → s.getF F.shtCtxstatOwner x ≠ fn →
      exec (.queueDisable acr set v host) s = .next (s.ctxOp fn x 0x89)) ∧
    (bits v 22 38 = 0 → s.getF F.pciQstatState q = 1 → fn = 0 ∨ s.getF F.shtCtxstatOwner x = fn → (s.ctx x).reset = none →
      let u := s.setF F.pciQstatState q 2
      exec (.queueDisable acr set v host) s =
        .next (((((u.cmds.filter fun c => c.q == q && c.st == .fetched).foldl (fun t c => t.endAs c 0x0E) u).endRing q host).pruneFences).ctxOp fn x 0))

/-! ### The host interface (Chapter 16) -/

/-- The anchor fetches the command that SQHEAD names, at SQBASE + 64 × (n mod 2^SQLOG2) of a ring in device memory or as the host delivers it, when the queue
may fetch and every holding cluster has a free window slot: the command is tracked last, with SEQ n and its waits as they now are, and SQHEAD moves on (R95,
R398). Nothing is fetched while the queue may not fetch, or while a cluster that would hold the command has no window slot free (R95, R374). A command that
cannot be read from host memory gets a record with STATUS 0x95, OPCODE 0 and SEQ its number; an error record is written, and the context is to be torn down
with that status (R400). Where it goes beyond the rules it is the model's choice, log entries 48, 49. -/
def Obligations.CommandsAreFetchedInRingOrder : Prop :=
  (∀ (s : State) (q : Nat) (bytes : List Byte), s.canon = true → s.mayFetch q = true →
    let u := s.queue q
    let h := s.getF F.pciQstatSqhead q
    let a := u.sqBase + 64 * (h % 2 ^ u.sqLog2)
    let b := if u.sqDev then s.bytesAt a 64 else (bytes ++ leBytes 64 0).take 64
    let c := newCmd s.nextCmd q u.ctx h b []
    (s.holders u.ctx c).all (s.windowFree u.ctx) = true → (u.sqDev = true → s.anyPoison (wordsOf a 64) = false) →
    ∃ t, exec (.commandFetch q bytes) s = .next t ∧ t.nextCmd = s.nextCmd + 1 ∧ t.getF F.pciQstatSqhead q = (h + 1) % 2 ^ 32 ∧
      t.cmds.length = s.cmds.length + 1 ∧
      (∃ d, t.cmds.getLast? = some d ∧ d = { c with span := s.holders u.ctx c, waits := d.waits, openAt := d.openAt }) ∧
      (∀ w, t.byteAt w = s.byteAt w)) ∧
  (∀ (s : State) (q : Nat) (bytes : List Byte),
    (s.mayFetch q = false → exec (.commandFetch q bytes) s = .next s ∧ exec (.qfetchFailure q) s = .next s) ∧
    (∀ cl, cl ∈ s.holders (s.queue q).ctx (newCmd s.nextCmd q (s.queue q).ctx (s.getF F.pciQstatSqhead q)
        (s.ringCommand q (s.getF F.pciQstatSqhead q) 0 [bytes]) []) → s.windowFree (s.queue q).ctx cl = false →
      exec (.commandFetch q bytes) s = .next s)) ∧
  (∀ (s : State) (q : Nat), s.mayFetch q = true → (s.queue q).sqDev = false →
    let u := s.queue q
    let h := s.getF F.pciQstatSqhead q
    let a := (s.setF F.pciQstatSqhead q (h + 1)).oweRecord q s.nextCmd (recordOf 0x95 false (s.flag F.shtNumctlFlushed u.ctx) false q 0 0 0 0 0 0 0 h [])
    let b : State := { a with nextCmd := a.nextCmd + 1 }
    let r : Rec := { cls := 0x22, sev := 1, kind := 5, unit := b.getF F.pciQstatOwner q, addr := u.sqBase + 64 * (h % 2 ^ u.sqLog2), status := 0x95 }
    exec (.qfetchFailure q) s = .next ((b.record r).faultCtx u.ctx ⟨0x95, 0x22, 0, 0, none, none⟩))

/-- A queue creation that passes the checks of Table 16-4 enables the lowest FREE queue with the rings of the descriptor and SQHEAD = SQTAIL = CQTAIL = CQHEAD =
0, and writes its number to QUEUE of PCI_QCMDSTAT with status 0; one that fails a check writes that status and changes no queue (R396). Only a DISABLED
queue that owes no record and tracks no command, of the function that asks or for the physical function, is destroyed: it is FREE again. Every other destroy
writes the status of Table 16-4 and changes no queue (R396). Where it goes beyond the rules it is the model's choice, log entry 47. -/
def Obligations.QueuesAreCreatedAndDestroyed : Prop :=
  (∀ (s : State) (acr : Acr) (set v fn : Nat), s.canon = true → fnSet acr set = fn → fn < 64 → s.flag F.pciQcmdstatBusy fn = false → opOf v = 1 →
    (∀ q, s.qCreateStatus fn v = 0 → s.freeQueue = some q →
      ∃ t, exec (.queueCreate acr set v) s = .next t ∧ t.getF F.pciQstatState q = 1 ∧ t.getF F.pciQstatOwner q = fn ∧ t.getF F.pciQstatSqhead q = 0 ∧
        t.getF F.pciQstatCqtail q = 0 ∧ (t.queue q).sqTail = 0 ∧ (t.queue q).cqHead = 0 ∧ t.queue q = queueOf (s.qDesc fn) ∧
        t.getF F.pciQcmdstatStatus fn = 0 ∧ t.getF F.pciQcmdstatQueue fn = q ∧ (∀ k, k ≠ q → t.queue k = s.queue k) ∧
        OnlyChanged [.regs, .queues, .msixs, .out] s t ∧ RegsKept [R.pciQstat, R.pciQcmdstat, R.pciEvtcause] s t) ∧
    (s.qCreateStatus fn v ≠ 0 →
      ∃ t, exec (.queueCreate acr set v) s = .next t ∧ t.getF F.pciQcmdstatStatus fn = s.qCreateStatus fn v % 256 ∧
        OnlyChanged [.regs, .msixs, .out] s t ∧ RegsKept [R.pciQcmdstat, R.pciEvtcause] s t)) ∧
  (∀ (s : State) (acr : Acr) (set v fn : Nat), s.canon = true → fnSet acr set = fn → fn < 64 → s.flag F.pciQcmdstatBusy fn = false → opOf v = 2 →
    let q := bits v 0 12
    (bits v 12 48 ≠ 0 → exec (.queueDestroy acr set v) s = .next (s.qOp fn q 0x90)) ∧
    (bits v 12 48 = 0 → fn ≠ 0 → s.getF F.pciQstatOwner q ≠ fn → exec (.queueDestroy acr set v) s = .next (s.qOp fn q 0x92)) ∧
    (bits v 12 48 = 0 → fn = 0 ∨ s.getF F.pciQstatOwner q = fn →
      s.getF F.pciQstatState q ≠ 2 ∨ (s.queue q).waiting ≠ [] ∨ s.cmds.any (·.q == q) = true → exec (.queueDestroy acr set v) s = .next (s.qOp fn q 0x91)) ∧
    (bits v 12 48 = 0 → fn = 0 ∨ s.getF F.pciQstatOwner q = fn → s.getF F.pciQstatState q = 2 → (s.queue q).waiting = [] →
      s.cmds.any (·.q == q) = false →
      ∃ t, exec (.queueDestroy acr set v) s = .next t ∧ t.getF F.pciQstatState q = 0 ∧ t.queue q = Queue.free ∧ t.getF F.pciQcmdstatStatus fn = 0 ∧
        (∀ k, k ≠ q → t.queue k = s.queue k) ∧ OnlyChanged [.regs, .queues, .msixs, .out] s t ∧
        FieldsKept [(F.pciQstatState, q), (F.pciQcmdstatStatus, fn), (F.pciQcmdstatQueue, fn), (F.pciEvtcauseEvt, fn)] s t))

/-- A submission doorbell of an owned queue sets SQTAIL when the ring can hold that many commands; a completion doorbell moves CQHEAD when it stays at or before
CQTAIL. Any other doorbell write is discarded and sets QERR (R397, R399). A nonzero reserved bit starts nothing (R557). -/
def Obligations.DoorbellsMoveTheRings : Prop :=
  ∀ (s : State) (fn q v : Nat), s.canon = true →
    (bits v 32 32 ≠ 0 → exec (.pciSqdb fn q v) s = .next s ∧ exec (.pciCqdb fn q v) s = .next s) ∧
    (bits v 32 32 = 0 → s.ownsQueue fn q = true → (lo32 v + 2 ^ 32 - s.getF F.pciQstatSqhead q) % 2 ^ 32 ≤ 2 ^ (s.queue q).sqLog2 →
      ∃ t, exec (.pciSqdb fn q v) s = .next t ∧ t.queue q = { s.queue q with sqTail := lo32 v } ∧ (∀ k, k ≠ q → t.queue k = s.queue k) ∧
        OnlyChanged [.queues] s t) ∧
    (bits v 32 32 = 0 → s.ownsQueue fn q = true →
      (lo32 v + 2 ^ 32 - (s.queue q).cqHead) % 2 ^ 32 ≤ (s.getF F.pciQstatCqtail q + 2 ^ 32 - (s.queue q).cqHead) % 2 ^ 32 →
      ∃ t, exec (.pciCqdb fn q v) s = .next t ∧ t.queue q = { s.queue q with cqHead := lo32 v } ∧ (∀ k, k ≠ q → t.queue k = s.queue k) ∧
        OnlyChanged [.queues] s t) ∧
    (bits v 32 32 = 0 → s.ownsQueue fn q = false → ∀ i ∈ [Instr.pciSqdb fn q v, .pciCqdb fn q v],
      ∃ t, exec i s = .next t ∧ t.getF F.pciQstatQerr q = 1 ∧ (∀ k, t.queue k = s.queue k) ∧ OnlyChanged [.regs, .msixs, .out] s t ∧
        FieldsKept [(F.pciQstatQerr, q), (F.pciEvtcauseQerr, s.getF F.pciQstatOwner q)] s t)

/-- A read of the aperture inside one site that the function may use sends its bytes burst by burst, those of a poisoned burst as poison, and changes no byte; a
write stores its bytes, and a poisoned one marks every burst that it touches; no byte outside the range changes. Any other access is refused: error record,
ACCERR, and for a read Unsupported Request (R393). Where it goes beyond the rules it is the model's choice, log entry 16. -/
def Obligations.TheApertureAccessesDeviceMemory : Prop :=
  ∀ (s : State) (fn addr len : Nat) (bytes : List Byte), s.canon = true →
    (s.apertureOk fn addr len = true → len ≠ 0 → addr / 64 = (addr + len - 1) / 64 →
      ∃ t, exec (.apertureRead fn addr len) s = .next t ∧ (∀ a, t.byteAt a = s.byteAt a) ∧
        ∃ o, t.out = .readReply fn (s.bytesAt addr len) (s.wordClass (addr / 64)).isPoison :: o) ∧
    (s.apertureOk fn addr bytes.length = true →
      exec (.apertureWrite fn addr bytes false) s = .next (s.writeBytes addr bytes) ∧
      exec (.apertureWrite fn addr bytes true) s = .next (s.poisonBytes addr bytes.length) ∧
      BytesKept addr bytes.length s (s.writeBytes addr bytes)) ∧
    (s.apertureOk fn addr len = false → exec (.apertureRead fn addr len) s = .next ((s.apertureRefuse fn addr).emit (.unsupported fn))) ∧
    (s.apertureOk fn addr bytes.length = false → ∀ p, exec (.apertureWrite fn addr bytes p) s = .next (s.apertureRefuse fn addr)) ∧
    (∀ a, (s.apertureRefuse fn addr).byteAt a = s.byteAt a)

/-- MODTIME after its first unsignalled record, a queue that asks for interrupts, or a stream, sends its vector and counts its records anew; earlier, nothing
happens (R402, R442). A PCIe lane failure that narrows the link sets the new width and writes a degrade record; a width that is no narrower changes nothing
(R391). Where it goes beyond the rules it is the model's choice, log entry 3. -/
def Obligations.InterruptsAndPcieLanes : Prop :=
  (∀ (s : State) (n : Nat),
    let u := s.queue n
    let w := s.stream n
    (u.ien = true → u.unsig ≠ 0 → u.modTime ≠ 0 → u.firstAt + u.modTime * 1000 ≤ s.now →
      exec (.interruptModerationTimer false n) s = .next ((s.setQueue n { u with unsig := 0, firstAt := 0 }).sendMsix (s.getF F.pciQstatOwner n) u.vector)) ∧
    (u.ien = false ∨ u.unsig = 0 ∨ u.modTime = 0 ∨ s.now < u.firstAt + u.modTime * 1000 → exec (.interruptModerationTimer false n) s = .next s) ∧
    (w.unsig ≠ 0 → w.modTime ≠ 0 → w.firstAt + w.modTime * 1000 ≤ s.now →
      exec (.interruptModerationTimer true n) s = .next ((s.setStream n { w with unsig := 0, firstAt := 0 }).sendMsix (s.getF F.cdcSstatOwner n)
        (bits (fieldAt w.desc 40 2) 0 11))) ∧
    (w.unsig = 0 ∨ w.modTime = 0 ∨ s.now < w.firstAt + w.modTime * 1000 → exec (.interruptModerationTimer true n) s = .next s)) ∧
  (∀ (s : State) (lane width : Nat), width = 8 ∨ width = 4 →
    (width < s.pcieLanes → ∃ t, exec (.pcieLaneFail lane width) s = .next t ∧ t.pcieLanes = width ∧
      t = ({ s with pcieLanes := width } : State).record { cls := 0x20, sev := 2, kind := 5, unit := 0, sub := lane, syn := width }) ∧
    (s.pcieLanes ≤ width → exec (.pcieLaneFail lane width) s = .next s))

/-! ### Tokens, arrival counters, registers, trace (Chapters 12, 22, 24) -/

/-- A write of SHT_TOK sets the named counter of the accessor's grant to the value, one of SHT_TOKADD adds to it modulo 2^32, one of ZLK_ARR sets an arrival
counter, each as one step after which every open wait is evaluated; no other register changes. A counter outside the grant is refused (R298, R299, R309). A
token wait is satisfied when (T − W) mod 2^32 is below 2^31, and a wait, once satisfied, stays satisfied for its command whatever the counters do afterwards
(R113). Where it goes beyond the rules it is the model's choice, log entry 19. -/
def Obligations.CountersAndWaits : Prop :=
  (∀ (s : State) (acr : Acr) (n v : Nat), s.canon = true →
    (∀ t, s.unitOf acr F.shtTokallocTokfirst F.shtTokallocTokcount 65536 n = some t →
      (∃ u, exec (.shtTok acr n v) s = .next u ∧ u.getF F.shtTokValue t = v % 2 ^ 32 ∧ FieldsKept [(F.shtTokValue, t)] s u ∧
        OnlyChanged [.regs, .cmds, .streams] s u ∧ u = (s.setF F.shtTokValue t (v % 2 ^ 32)).latchWaits) ∧
      (∃ u, exec (.shtTokadd acr n v) s = .next u ∧ u.getF F.shtTokValue t = (s.getF F.shtTokValue t + v) % 2 ^ 32 ∧ FieldsKept [(F.shtTokValue, t)] s u ∧
        OnlyChanged [.regs, .cmds, .streams] s u)) ∧
    (∀ a, s.unitOf acr F.zlkArrallocArrfirst F.zlkArrallocArrcount 4096 n = some a →
      ∃ u, exec (.zlkArr acr n v) s = .next u ∧ u.getF F.zlkArrCount a = v % 2 ^ 64 ∧ FieldsKept [(F.zlkArrCount, a)] s u ∧
        OnlyChanged [.regs, .cmds, .streams] s u) ∧
    (s.unitOf acr F.shtTokallocTokfirst F.shtTokallocTokcount 65536 n = none →
      exec (.shtTok acr n v) s = .next (s.refuseAcc acr) ∧ exec (.shtTokadd acr n v) s = .next (s.refuseAcc acr)) ∧
    (s.unitOf acr F.zlkArrallocArrfirst F.zlkArrallocArrcount 4096 n = none → exec (.zlkArr acr n v) s = .next (s.refuseAcc acr))) ∧
  ((∀ (s : State) (t w : Nat), s.tokenSat t w = true ↔ (s.getF F.shtTokValue t + 2 ^ 32 - w % 2 ^ 32) % 2 ^ 32 < 2 ^ 31) ∧
  ∀ (s : State) (c : Cmd) (i : Nat), c ∈ s.cmds → c.st = .fetched → c.waits.length = 4 → i < 4 →
    ∃ d ∈ s.latchWaits.cmds, d = { c with waits := d.waits, openAt := d.openAt } ∧ d.waits.length = 4 ∧
      d.waits[i]? = some (c.waits.getD i false || (s.waitsNow c).getD i false))

/-- A write of 8 aligned bytes to a one-slot register of the accessor's view with no command of its own: each RW field takes its bits of the value, each W1C
field loses the bits that are written 1, every other field of the register and every other register stays (R15, R555). What an RW field with a stated range
stores is `storedValue`. A write that is not of 4 or 8 naturally aligned bytes, one of 4 bytes to a register with a field above bit 31, one beyond the
accessor's grant, and one of ZLK_PGEN without the link right are refused and change nothing else. A write where no register lies does nothing. A write of
the high slot of a two-slot register only latches; one of its low slot applies both halves and clears the latch (R555, R556, R560). Where it goes beyond the
rules it is the model's choice, log entries 50, 51. -/
def Obligations.RegisterWritesFollowTheAccessCodes : Prop :=
  (∀ (s : State) (acr : Acr) (set addr v : Nat) (r : Reg) (i : Nat), s.canon = true → addr % 8 = 0 → s.placeOf acr set addr = .reg r i false →
    r.width = 1 → ownRow r = false → s.pgenOk acr r i = true →
    ∃ t, exec (.registerWrite acr set false addr 8 v) s = .next t ∧ RegsKept [r] s t ∧ OnlyChanged [.regs, .fresh] s t ∧
      ∀ f ∈ r.flds,
        (f.acc = .rw → t.getF f i = s.storedValue f i (bits v f.lo f.w) % 2 ^ f.w) ∧
        (f.acc = .w1c → t.getF f i = (s.getF f i - (s.getF f i).land (bits v f.lo f.w)) % 2 ^ f.w) ∧
        (f.acc ≠ .rw → f.acc ≠ .w1c → t.getF f i = s.getF f i)) ∧
  (∀ (s : State) (acr : Acr) (set addr size v : Nat),
    ((size ≠ 4 ∧ size ≠ 8) ∨ addr % size ≠ 0 → exec (.registerWrite acr set false addr size v) s = .next (s.refuseAcc acr)) ∧
    (size = 4 ∨ size = 8 → addr % size = 0 →
      (s.placeOf acr set addr = .beyond → exec (.registerWrite acr set false addr size v) s = .next (s.refuseAcc acr)) ∧
      (s.placeOf acr set addr = .nothing → exec (.registerWrite acr set false addr size v) s = .next s) ∧
      (∀ b, s.placeOf acr set addr = .msix b → exec (.registerWrite acr set false addr size v) s = .next (s.writeMsix (fnSet acr set) b size v)) ∧
      (∀ r i h, s.placeOf acr set addr = .reg r i h →
        (size = 4 → r.narrow = false → exec (.registerWrite acr set false addr size v) s = .next (s.refuseAcc acr)) ∧
        (size = 8 → h = true → exec (.registerWrite acr set false addr size v) s = .next (s.setLatch acr v)) ∧
        (size = 8 → h = false → ownRow r = true → exec (.registerWrite acr set false addr size v) s = .next s) ∧
        (size = 8 → h = false → ownRow r = false → s.pgenOk acr r i = false → exec (.registerWrite acr set false addr size v) s = .next (s.refuseAcc acr)) ∧
        (size = 8 → h = false → ownRow r = false → s.pgenOk acr r i = true → r.width = 2 →
          exec (.registerWrite acr set false addr size v) s = .next ((s.writeReg r i (s.wide acr v)).setLatch acr 0)))) ∧
    (fnSet acr set < 64 → exec (.registerWrite acr set true addr size v) s = .next (s.writeMsgCtl (fnSet acr set) v)))

/-- A write of CNT_TRCFG with EN = 1 enables tracing of the partition when the ring is aligned, large enough and owned, with the ring empty and EVSEQ 0; else
CFGERR is set and tracing is off. With EN = 0 tracing stops (R531, R532). A write of CNT_TRPTR moves HEAD when it stays at or before TAIL. Other partitions'
accessors are refused. A trace event of an enabled kind and layer takes the next EVSEQ and is written at BASE + 64 × (EVSEQ mod 2^RLOG2) while the ring has
room, and TAIL moves on (R531, R532); a full ring that does not wrap only counts the event as lost. Where it goes beyond the rules it is the model's choice,
log entry 55. -/
def Obligations.TracesFillTheirRing : Prop :=
  (∀ (s : State) (acr : Acr) (p v : Nat), s.canon = true → p < 16 →
    (s.mayAct acr p = false → exec (.cntTrcfg acr p v) s = .next (s.refuseAcc acr) ∧ exec (.cntTrptr acr p v) s = .next (s.refuseAcc acr)) ∧
    (s.mayAct acr p = true →
      let w := s.wide acr v
      let base := bits w F.cntTrcfgBase.lo F.cntTrcfgBase.w
      let r := bits w F.cntTrcfgRlog2.lo F.cntTrcfgRlog2.w
      ∃ t, exec (.cntTrcfg acr p v) s = .next t ∧ RegsKept [R.cntTrcfg, R.cntTrptr] s t ∧ OnlyChanged [.regs, .latch, .evseq] s t ∧
        t.getF F.cntTrcfgBase p = base ∧ t.getF F.cntTrcfgRlog2 p = r ∧
        (bit w 0 = false → t.getF F.cntTrcfgEn p = 0) ∧
        (bit w 0 = true → base % 4096 = 0 → 6 ≤ r → s.owned p base (64 * 2 ^ r) = true →
          t.getF F.cntTrcfgEn p = 1 ∧ t.getF F.cntTrptrHead p = 0 ∧ t.getF F.cntTrptrTail p = 0 ∧ tget (fun _ => 0) t.evseq p = 0) ∧
        (bit w 0 = true → base % 4096 ≠ 0 ∨ r < 6 ∨ s.owned p base (64 * 2 ^ r) = false → t.getF F.cntTrcfgEn p = 0 ∧ t.getF F.cntTrcfgCfgerr p = 1)) ∧
    (s.mayAct acr p = true →
      let h := s.getF F.cntTrptrHead p
      ∃ t, exec (.cntTrptr acr p v) s = .next t ∧ FieldsKept [(F.cntTrptrHead, p)] s t ∧ OnlyChanged [.regs, .latch] s t ∧
        t.getF F.cntTrptrHead p =
          if (v % 2 ^ 32 + 2 ^ 32 - h) % 2 ^ 32 ≤ (s.getF F.cntTrptrTail p + 2 ^ 32 - h) % 2 ^ 32 then v % 2 ^ 32 else h)) ∧
  (∀ (s : State) (c : Cmd) (kind status : Nat) (tail : List Byte), s.canon = true →
    let p := s.partOf c.ctx
    let n := 2 ^ s.getF F.cntTrcfgRlog2 p
    let ev := tget (fun _ => 0) s.evseq p
    let used := (s.getF F.cntTrptrTail p + 2 ^ 32 - s.getF F.cntTrptrHead p) % 2 ^ 32
    let a := s.getF F.cntTrcfgBase p + 64 * (ev % n)
    s.flag F.cntTrcfgEn p = true → bit (s.getF F.cntTrcfgKinds p) (kind - 1) = true → s.getF F.cntTrcfgLayerlo p ≤ c.layer → c.layer ≤ s.getF F.cntTrcfgLayerhi p →
    let t := s.trace c kind status tail
    tget (fun _ => 0) t.evseq p = (ev + 1) % 2 ^ 32 ∧ BytesKept a 64 s t ∧
      (used < n → t.getF F.cntTrptrTail p = (s.getF F.cntTrptrTail p + 1) % 2 ^ 32 ∧ t.getF F.cntTrptrLost p = s.getF F.cntTrptrLost p) ∧
      (n ≤ used → s.flag F.cntTrcfgWrap p = false → t.getF F.cntTrptrTail p = s.getF F.cntTrptrTail p ∧
        t.getF F.cntTrptrLost p = satAdd F.cntTrptrLost.w (s.getF F.cntTrptrLost p) 1 % 2 ^ F.cntTrptrLost.w ∧ ∀ b, t.byteAt b = s.byteAt b))

/-! ### Memory sites (Chapter 13) -/

/-- A write of all 64 bytes of a word stores a clean word: reads deliver the written bytes, every byte outside the word reads as before, every other word keeps
its class, and only the site's traffic count moves (R325). -/
def Obligations.SiteWritesStoreCleanWords : Prop :=
  ∀ (s : State) (w : Nat) (bytes : List Byte), s.canon = true → s.reaches (64 * w) 64 = true → bytes.length = 64 → s.siteLost (wordSite w) = false →
    ∃ t, exec (.siteWrite w bytes) s = .next t ∧ (∀ k, k < 64 → t.byteAt (64 * w + k) = bytes.getD k 0) ∧ t.wordClass w = .clean ∧
      BytesKept (64 * w) 64 s t ∧ (∀ x, x ≠ w → t.wordClass x = s.wordClass x) ∧ OnlyChanged [.regs, .mem, .ecc] s t ∧
      FieldsKept [(F.cntSitewrBytes, wordSite w)] s t

/-- A write under a byte mask changes the bytes that the mask names and no other byte of device memory; a word that was not poisoned is clean afterwards, and a
poisoned one stays poisoned, unless the mask names all its bytes (R296, R325, Table 13-4). Two masked writes to disjoint bytes of one burst both survive,
whichever comes first (R296). -/
def Obligations.DisjointMaskedWritesBothSurvive : Prop :=
  (∀ (s : State) (w mask : Nat) (bytes : List Byte), s.canon = true → s.reaches (64 * w) 64 = true → bytes.length = 64 → s.siteLost (wordSite w) = false →
    ∃ t, exec (.sitePartialWrite w mask bytes) s = .next t ∧
      (∀ k, k < 64 → t.byteAt (64 * w + k) = if bit mask k then bytes.getD k 0 else s.byteAt (64 * w + k)) ∧ BytesKept (64 * w) 64 s t ∧
      ((∃ k, k < 64 ∧ bit mask k = false) → (t.wordClass w).isPoison = (s.wordClass w).isPoison) ∧ RegsKept memoryRegs s t) ∧
  (∀ (s t u : State) (w m n : Nat) (a b : List Byte), s.canon = true → s.reaches (64 * w) 64 = true → a.length = 64 → b.length = 64 →
    s.siteLost (wordSite w) = false → (∀ k, k < 64 → ¬(bit m k = true ∧ bit n k = true)) →
    exec (.sitePartialWrite w m a) s = .next t → exec (.sitePartialWrite w n b) t = .next u →
    ∀ k, k < 64 → u.byteAt (64 * w + k) = if bit m k then a.getD k 0 else if bit n k then b.getD k 0 else s.byteAt (64 * w + k))

/-- Marking a range as poison leaves every word that it touches poisoned, and no byte outside the range changes (R326). A read of a word answers its bytes,
flagged as poison by its class, and changes no byte that a read delivers, corrected words being written back (R323, R324). A request outside the usable
range of an accessible site reads and writes nothing (R36, R37). Where it goes beyond the rules it is the model's choice, log entries 14, 15, 16. -/
def Obligations.SiteReadsDeliver : Prop :=
  (∀ (s : State) (addr len : Nat), s.canon = true → s.reaches addr len = true →
    ∃ t, exec (.poisonWrite addr len) s = .next t ∧ (∀ w ∈ wordsOf addr len, (t.wordClass w).isPoison = true) ∧ BytesKept addr len s t ∧
      (∀ w, w ∉ wordsOf addr len → (t.wordClass w).isPoison = (s.wordClass w).isPoison)) ∧
  (∀ (s : State) (w : Nat), s.canon = true → s.reaches (64 * w) 64 = true →
    ∃ t, exec (.siteRead w) s = .next t ∧ (∃ o, t.out = .siteReply w (s.bytesAt (64 * w) 64) (s.wordClass w).isPoison :: o) ∧
      (∀ a, t.byteAt a = s.byteAt a) ∧ RegsKept memoryRegs s t ∧ OnlyChanged memoryComps s t) ∧
  (∀ (s : State) (w mask addr len : Nat) (bytes : List Byte),
    (s.reaches (64 * w) 64 = false → exec (.siteRead w) s = .next s ∧ exec (.siteWrite w bytes) s = .next s ∧
      exec (.sitePartialWrite w mask bytes) s = .next s) ∧
    (s.reaches addr len = false → exec (.poisonWrite addr len) s = .next s))

/-- The scrubber of a ready site decodes the next word of its pass, which changes no delivered byte, and goes on to the next word, or counts a pass after the
last one (R328); without a period, or on a site that is not ready, it rests. A refresh changes nothing. An MR4 poll of a present site raises the refresh
multiplier at once to the largest that a channel calls for, keeps 4× and HOT while a temperature above the limit is reported, and polls fast after any
reading above 1×; reason 5 of the throttle follows HOT (R331, R332). A present site that is lost reads STATE 5 and gets one error record, and no other site
changes; an absent or lost one stays as it is. From then on every word of it reads as poison and every write to it is discarded (R330). Where it goes beyond
the rules it is the model's choice, log entry 15. -/
def Obligations.SitesStayHealthyOrAreLost : Prop :=
  (∀ (s : State) (site : Nat), s.canon = true →
    (s.getF F.memScrubPeriod site ≠ 0 → s.getF F.memStatusState site = 2 →
      ∃ t, exec (.scrubStep site) s = .next t ∧ (∀ a, t.byteAt a = s.byteAt a) ∧
        ((s.site site).scrub + 1 < 4 * s.chanWords site → (t.site site).scrub = (s.site site).scrub + 1) ∧
        (4 * s.chanWords site ≤ (s.site site).scrub + 1 → (t.site site).scrub = 0 ∧
          t.getF F.memScrubPasses site = satAdd F.memScrubPasses.w (s.getF F.memScrubPasses site) 1 % 2 ^ F.memScrubPasses.w)) ∧
    (s.getF F.memScrubPeriod site = 0 ∨ s.getF F.memStatusState site ≠ 2 → exec (.scrubStep site) s = .next s) ∧
    exec (.refresh site) s = .next s) ∧
  (∀ (s : State) (site : Nat) (readings : List (Nat × Nat × Bool)), s.canon = true → 2 ≤ s.getF F.memStatusState site → s.getF F.memStatusState site ≤ 4 →
    readings ≠ [] →
    let m := min 2 (maxOf (readings.map fun r => r.2.1))
    ∃ t, exec (.mr4Poll site readings) s = .next t ∧ RegsKept [R.memTherm, R.pwrThr] s t ∧ OnlyChanged [.regs, .sites] s t ∧
      (readings.any (fun r => r.2.2) = true → t.getF F.memThermMult site = 2 ∧ t.getF F.memThermHot site = 1) ∧
      (s.flag F.memThermHot site = false → readings.any (fun r => r.2.2) = false → s.getF F.memThermMult site ≤ m →
        t.getF F.memThermMult site = m ∧ t.getF F.memThermHot site = 0) ∧
      (m ≠ 0 → t.getF F.memThermFast site = 1)) ∧
  (∀ (s : State) (n : Nat), s.canon = true → n < 48 →
    (s.getF F.memStatusState n ≠ 0 → s.getF F.memStatusState n ≠ 5 →
      ∃ t, exec (.siteLost n) s = .next t ∧ t.siteLost n = true ∧ (∀ k, k ≠ n → t.getF F.memStatusState k = s.getF F.memStatusState k) ∧
        (∀ w, wordSite w = n → (t.wordClass w).isPoison = true) ∧ (∀ a, t.byteAt a = s.byteAt a) ∧ OnlyChanged recordComps s t) ∧
    (s.getF F.memStatusState n = 0 ∨ s.getF F.memStatusState n = 5 → exec (.siteLost n) s = .next s) ∧
    (∀ (w : Nat) (bytes : List Byte), wordSite w = n → s.siteLost n = true → bytes.length = 64 →
      ∃ t, exec (.siteWrite w bytes) s = .next t ∧ ∀ a, t.byteAt a = s.byteAt a))

/-- A write to MEM_OPCTL with GO = 1 while BUSY = 1 is refused with status 0x70, the running operation continues, and MEM_OPSTAT is unchanged except STATUS
(R335). -/
def Obligations.BusyMemoryOperationsRefuse : Prop :=
  ∀ (s : State) (v : Nat), s.canon = true → s.flag F.memOpstatBusy 0 = true → bit v 31 = true → ∀ acr ∈ [Acr.fn 0, .mb],
    ∀ i ∈ [if bits v 28 3 = 2 then Instr.memMargin acr v else .memClear acr v],
      ∃ t, exec i s = .next t ∧ t.getF F.memOpstatStatus 0 = 0x70 ∧ t.memOp = s.memOp ∧ OnlyFields [(F.memOpstatStatus, 0)] s t

/-- A request for a site that is present and belongs to no partition starts: BUSY, the site under clearing (3) or margining (4), the operation remembered; any
other writes the status of Table 13-14 with an event. At its end a clear leaves the site READY with every word of its data region a clean word of zeros
(R329, R334, R335). Where it goes beyond the rules it is the model's choice, log entries 17, 19. -/
def Obligations.MemoryOperationsRun : Prop :=
  ∀ (s : State) (v : Nat) (edges : List (Int × Int)), s.canon = true →
    let n := bits v 18 6
    (s.flag F.memOpstatBusy 0 = false → bit v 31 = true → s.memStatus v = 0 → ∀ acr ∈ [Acr.fn 0, .mb],
      (bits v 28 3 = 1 → ∃ t, exec (.memClear acr v) s = .next t ∧ t.flag F.memOpstatBusy 0 = true ∧ t.getF F.memStatusState n = 3 ∧
        t.memOp = some ⟨false, n, bits v 24 2, bits v 26 2⟩ ∧ OnlyChanged [.regs, .memOp] s t ∧ RegsKept [R.memOpstat, R.memStatus] s t) ∧
      (bits v 28 3 = 2 → ∃ t, exec (.memMargin acr v) s = .next t ∧ t.flag F.memOpstatBusy 0 = true ∧ t.getF F.memStatusState n = 4 ∧
        t.memOp = some ⟨true, n, bits v 24 2, bits v 26 2⟩ ∧ OnlyChanged [.regs, .memOp] s t ∧ RegsKept [R.memOpstat, R.memStatus] s t)) ∧
    (s.flag F.memOpstatBusy 0 = false → bit v 31 = true → s.memStatus v ≠ 0 → bits v 28 3 ≠ 2 → ∀ acr ∈ [Acr.fn 0, .mb],
      ∃ t, exec (.memClear acr v) s = .next t ∧ t.getF F.memOpstatStatus 0 = s.memStatus v % 256 ∧ t.memOp = s.memOp ∧
        RegsKept [R.memOpstat, R.pciEvtcause] s t) ∧
    (∀ m, s.memOp = some m → s.getF F.memStatusState m.site ≠ 5 →
      ∃ t, exec (.memOpComplete edges) s = .next t ∧ t.memOp = none ∧ t.flag F.memOpstatBusy 0 = false ∧ t.getF F.memOpstatStatus 0 = 0 ∧
        t.getF F.memStatusState m.site = 2 ∧
        (∀ a, a / siteWindow = m.site → a < m.site * siteWindow + s.siteCap m.site / 16 * 15 → t.byteAt a = 0 ∧ t.wordClass (a / 64) = .clean) ∧
        (∀ a, a < m.site * siteWindow ∨ m.site * siteWindow + s.siteCap m.site / 16 * 15 ≤ a → t.byteAt a = s.byteAt a)) ∧
    (s.memOp = none → exec (.memOpComplete edges) s = .next s)

/-! ### Flash and the key/value cache (Chapters 8, 14) -/

/-- A codeword read without error leaves its read job with one block less; when it was the last block of an FLREAD, the job is gone, the tensor is copied and
the command is done, with status 0x7C when a poisoned block was in it (R343, R349). Programmed writes are no longer staged, and FLT_HUP shows what is
(R360). A measurement of the bank voltage shows in FLT_HUP with the limit of R362. A store that is not configured, below VMIN or whose probe failed reads
STATE 0; one that is good charges, and is READY after ten seconds at its full limit (Table 14-6). A probe repeats the last measurement with its outcome.
Stated with no FLWRITE waiting. Where it goes beyond the rules it is the model's choice, log entry 42. -/
def Obligations.FlashReadsAndProgramsComplete : Prop :=
  ((∀ (s : State) (n block step ch lun loc : Nat) (j : FlJob), s.flash.jobs[n]? = some j → block ∈ j.left → block ∉ j.bad → step < 2 →
    let k := { j with left := j.left.filter (· != block) }
    let u := s.setFlash { s.flash with jobs := s.flash.jobs.set n k }
    (k.left ≠ [] → exec (.flashReadComplete n block step ch lun loc) s = .next u) ∧
    (∀ id c, k.left = [] → j.who = .read id → s.cmd? id = some c → c.st = .issued → c.ready = false →
      let w := (u.setFlash { u.flash with jobs := u.flash.jobs.filter (· != k) }).releaseHeld j.region
      let r := w.copyOut (c.plan.desc 0) (c.plan.desc 1) j.data j.bad
      ∃ t, exec (.flashReadComplete n block step ch lun loc) s = .next t ∧ t.mem = r.1.mem ∧
        t.cmd? id = some { c with ready := true, status := if r.2 then 0x7C else 0, poisoned := c.poisoned || r.2 })) ∧
  (∀ (s : State) (ids : List Nat), s.canon = true → (∀ r, (s.flRegion r).ops = []) →
    ∃ t, exec (.programComplete ids) s = .next t ∧ t.flash = { s.flash with writes := s.flash.writes.filter fun w => !ids.contains w.id } ∧
      t.getF F.fltHupStaged 0 = cdiv t.flash.staged 0x100000 % 2 ^ F.fltHupStaged.w ∧ OnlyChanged [.regs, .flash] s t ∧
      FieldsKept [(F.fltHupStaged, 0)] s t)) ∧
  (∀ (s u : State) (i : Instr) (v : Nat) (ok : Bool), s.canon = true → (∀ r, (s.flRegion r).ops = []) →
    (i = .holdupMeasure v ∧ u = s) ∨ (i = .holdupProbe ok ∧ v = s.getF F.fltHupVmeas 0 ∧ u = s.setFlash { s.flash with probeOk := ok }) →
    let lim := s.stageLim v % 2 ^ F.fltHupStagelim.w
    let good := s.getF F.fltHupcfgCapmf 0 ≠ 0 ∧ s.getF F.fltHupcfgVmin 0 ≤ v ∧ u.flash.probeOk = true
    let st := s.getF F.fltHupState 0
    ∃ t, exec i s = .next t ∧ t.getF F.fltHupVmeas 0 = v % 2 ^ F.fltHupVmeas.w ∧ t.getF F.fltHupStagelim 0 = lim ∧
      (¬good → t.getF F.fltHupState 0 = 0) ∧ (good → st = 0 → t.getF F.fltHupState 0 = 1) ∧ (good → st = 2 → t.getF F.fltHupState 0 = 2) ∧
      (good → st = 1 → lim = s.getF F.fltHupcfgStagecap 0 → ∀ g, s.flash.goodSince = some g → g + 10000000000 ≤ s.now → t.getF F.fltHupState 0 = 2) ∧
      (good → st = 1 → lim ≠ s.getF F.fltHupcfgStagecap 0 → t.getF F.fltHupState 0 = 1 ∧ t.flash.goodSince = none) ∧
      RegsKept [R.fltHup] s t ∧ OnlyChanged [.regs, .flash] s t)

/-- A block that fails is retired against the spares of its mode, counted and recorded; with fewer spares than 1/64 of the mode's capacity every region of the
mode is WORN (R351, R354). Wear moves show the most-worn block in thousandths of the rating (R352). The patrol poisons what no step can read and leaves
other content as it is (R353). A lost LUN degrades the tier, a second one loses the stripes on both, and the rebuild ends it (R356, R357). Where it goes
beyond the rules it is the model's choice, log entry 43. -/
def Obligations.FlashMediaFaults : Prop :=
  ∀ (s : State) (slc old : Bool) (ch lun block region step loc worst : Nat) (lost : List (Nat × List Nat)), s.canon = true →
    (∃ t, exec (.grownBadBlock slc ch lun block) s = .next t ∧ OnlyChanged (recordComps ++ [.flash]) s t ∧
      t.flash = (if slc then { s.flash with spareSlc := s.flash.spareSlc - 1 } else { s.flash with spareDense := s.flash.spareDense - 1 }) ∧
      t.getF F.fltWearGrownbad 0 = (s.getF F.fltWearGrownbad 0 + 1) % 2 ^ F.fltWearGrownbad.w ∧
      (∀ r, r < 1024 → s.getF F.fltRgninfoType r = (if slc then 2 else 1) →
        (if slc then t.flash.spareSlc * 64 < t.flash.capSlc else t.flash.spareDense * 64 < t.flash.capDense) → t.getF F.fltRgninfoWorn r = 1) ∧
      RegsKept (recordRegs ++ [R.fltWear, R.fltRgninfo]) s t) ∧
    (∀ rate, rate = (if slc then s.getF F.fltSlcrateRating 0 else s.flash.rating) → worst < rate →
      ∃ t, exec (.wearLevelMove slc worst) s = .next t ∧ t.flash = { s.flash with erases := s.flash.erases + 65536 } ∧
        t.getF (if slc then F.fltWearSlcused else F.fltWearDenseused) 0 = worst * 1000 / rate ∧ OnlyChanged [.regs, .flash] s t ∧
        FieldsKept [(if slc then F.fltWearSlcused else F.fltWearDenseused, 0)] s t) ∧
    ((s.flRegion region).written.contains block = false ∨ ((s.flRegion region).bad.contains block = false ∧ step < 2 ∧ old = false) →
      exec (.retentionPatrol region block step old ch lun loc) s = .next s) ∧
    ((s.flRegion region).written.contains block = true → 5 ≤ step →
      ∃ t, exec (.retentionPatrol region block step old ch lun loc) s = .next t ∧ (t.flRegion region).bad.contains block = true ∧
        (t.flRegion region).data = (s.flRegion region).data ∧ OnlyChanged (recordComps ++ [.flash]) s t) ∧
    (s.getF F.fltStatusState 0 = 3 →
      ∃ t, exec (.lunFail lun) s = .next t ∧ t.getF F.fltStatusState 0 = 4 ∧ t.getF F.fltStatusLostlun 0 = lun % 2 ^ F.fltStatusLostlun.w ∧
        t.getF F.fltStatusRebuild 0 = 0 ∧ OnlyChanged recordComps s t ∧ RegsKept (R.fltStatus :: recordRegs) s t) ∧
    (s.getF F.fltStatusState 0 = 4 →
      ∃ t, exec (.doubleLunFail lun lost) s = .next t ∧ t.getF F.fltStatusState 0 = 5 ∧
        (∀ e ∈ lost, ∀ b ∈ e.2, (t.flRegion e.1).bad.contains b = true) ∧ (∀ r, (t.flRegion r).data = (s.flRegion r).data) ∧
        OnlyChanged (recordComps ++ [.flash]) s t) ∧
    (s.getF F.fltStatusState 0 = 4 ∨ s.getF F.fltStatusState 0 = 5 →
      ∃ t, exec .rebuildComplete s = .next t ∧ t.getF F.fltStatusState 0 = 3 ∧ t.getF F.fltStatusLostlun 0 = 0xFFF ∧
        OnlyFields [(F.fltStatusState, 0), (F.fltStatusLostlun, 0), (F.fltStatusRebuild, 0)] s t) ∧
    (s.getF F.fltStatusState 0 ≠ 3 → exec (.lunFail lun) s = .next s) ∧ (s.getF F.fltStatusState 0 ≠ 4 → exec (.doubleLunFail lun lost) s = .next s) ∧
    (s.getF F.fltStatusState 0 ≠ 4 → s.getF F.fltStatusState 0 ≠ 5 → exec .rebuildComplete s = .next s)

/-- An INIT by an accessor of the partition, with its agent idle, fails with the number of the first condition of R204 that does not hold, and then writes no
memory; else the pool of the record is ready with every frame on the free list in the order of R210 (R209). While an operation runs, it waits. Where it goes
beyond the rules it is the model's choice, log entry 38. -/
def Obligations.PoolsAreInitialised : Prop :=
  ∀ (s : State) (acr : Acr) (p v : Nat), s.canon = true → p < 16 →
    (s.mayAct acr p = false → exec (.kvtInit acr p v) s = .next (s.refuseAcc acr)) ∧
    (s.mayAct acr p = true → v ≠ 1 → exec (.kvtInit acr p v) s = .next s) ∧
    (s.mayAct acr p = true → v = 1 → s.agentIdle p = false → exec (.kvtInit acr p v) s = .next (s.setAgent p { s.agent p with initWaits := true })) ∧
    (s.mayAct acr p = true → v = 1 → s.agentIdle p = true →
      let a := s.getF F.kvtPoolPooladdr p
      (∀ n, s.poolBad p a = some n →
        ∃ t, exec (.kvtInit acr p v) s = .next t ∧ t.getF F.kvtStateState p = 0 ∧ t.getF F.kvtStateIniterr p = 1 ∧ (t.agent p).pool = none ∧
          (∀ b, t.byteAt b = s.byteAt b) ∧ OnlyChanged (recordComps ++ [.agents]) s t ∧ RegsKept (R.kvtState :: recordRegs) s t) ∧
      (s.poolBad p a = none →
        ∃ t, exec (.kvtInit acr p v) s = .next t ∧ t.getF F.kvtStateState p = 2 ∧ t.getF F.kvtStateIniterr p = 0 ∧
          t.getF F.kvtStateFreecnt p = (s.parsePool a).freeOrder.length % 2 ^ F.kvtStateFreecnt.w ∧
          t.agent p = { s.agent p with pool := some (s.parsePool a), head := (s.parsePool a).freeOrder.headD noFrame, cluster := s.agentHome p, initWaits := false } ∧
          (∀ k, k ≠ p → t.agent k = s.agent k) ∧ OnlyChanged (memoryComps ++ [.agents]) s t))

/-- The agent's operations. A map of a position that is mapped to a frame of its own changes no entry; of one that is not mapped, the frame at the head of the
free list is mapped (R211, R215). A command is committed once, when all its parts have reported success (R216). An eviction or a fetch whose flash operation
is done updates the entry and its request queues again (R221, R222). When the agent's cluster is out of service the next one takes over, and goes on (R208).
Where it goes beyond the rules it is the model's choice, log entries 38, 39. -/
def Obligations.TheAgentOperates : Prop :=
  (∀ (s : State) (p slot pos : Nat) (u : Pool), s.agentIdle p = true → (s.agent p).pool = some u → s.inSlots p slot = true → pos < u.maxlen →
    s.slotField p u slot 0 ≤ pos →
    let e := s.ptEntry p u slot (pos / u.tpf)
    let w := s.agentStall p
    (e.1 = true → e.2.1 = false → s.refcnt u e.2.2 ≤ 1 → exec (.agentMap p slot pos) s = .next (w.journal u)) ∧
    (e.1 = false → (s.agent p).head ≠ noFrame →
      ∃ f t, w.popFrame p u 1 = some (f, t) ∧ f = (s.agent p).head ∧
        t.getF F.kvtStateFreecnt p = (s.getF F.kvtStateFreecnt p - 1) % 2 ^ F.kvtStateFreecnt.w ∧
        exec (.agentMap p slot pos) s = .next (((t.setPt p u slot (pos / u.tpf) (some (false, f))).addSlot p u slot 1 1).journal u)) ∧
    (e.1 = false → (s.agent p).head = noFrame → exec (.agentMap p slot pos) s = .next (w.noFrames p))) ∧
  (∀ (s : State) (q seq : Nat) (c : Cmd), s.cmdAt? q seq = some c → s.commitDue c = true →
    (s.agentIdle (s.partOf c.ctx) = true → ∃ t, exec (.kvCommit q seq) s = .next t ∧ t = (s.kvCommit c).setCmd { c with ready := true } ∧
      t.cmd? c.id = some { c with ready := true }) ∧
    (s.agentIdle (s.partOf c.ctx) = false → exec (.kvCommit q seq) s = .next s)) ∧
  (∀ (s : State) (p : Nat) (u : Pool) (g : AgReq), (s.agent p).pool = some u → s.agentUp p = true →
    let sl := g.slot
    (∀ k w, (s.agent p).busy = some (.evict g k w) → s.flash.isDurable w = true →
      let t := ((((s.setPt p u sl g.cur (some (true, k))).addSlot p u sl 2 1).pushFrame p u (s.ptEntry p u sl g.cur).2.2).journal u)
      let h : AgReq := { g with cur := g.cur + 1, acted := g.acted + 1, released := g.released + 1 }
      exec (.kvEvictEntry p) s = .next ((t.setAgent p { t.agent p with busy := none, queue := requeue true h (t.agent p).queue }).agentGo p)) ∧
    (∀ k w, (s.agent p).busy = some (.evict g k w) → s.flash.isDurable w = false → exec (.kvEvictEntry p) s = .next s) ∧
    (∀ f j, (s.agent p).busy = some (.fetch g f) → s.flash.jobs.find? (fun j => j.who == .fetch p) = some j →
      (j.left ≠ [] → exec (.kvFetch p) s = .next s) ∧
      (j.left = [] →
        let a := (s.setFlash { s.flash with jobs := s.flash.jobs.filter (· != j) }).releaseHeld j.region
        let k := (a.ptEntry p u sl g.cur).2.2
        let r := a.fillFrame u k f j.data j.bad
        let t := (r.1.fetched p u sl g.cur f k).bump F.kvtCnt1Prefetch p 1
        let h : AgReq := { g with cur := g.cur + 1, acted := g.acted + 1, poisoned := g.poisoned + b2n r.2 }
        exec (.kvFetch p) s = .next ((t.setAgent p { t.agent p with busy := none, queue := requeue true h (t.agent p).queue }).agentGo p)))) ∧
  (∀ (s : State) (p cl : Nat), (s.agent p).cluster = some cl →
    (s.clusterUp cl = true → exec (.agentTakeover p) s = .next s) ∧
    (s.clusterUp cl = false → exec (.agentTakeover p) s = .next ((s.setAgent p { s.agent p with cluster := s.agentHome p }).agentGo p)))

/-! ### Links (Chapter 17) -/

/-- A port that runs counts the FEC symbols of a flit; a damaged flit, or a data flit out of order, opens a gap and is not accepted; else its acknowledgement,
credits and width request are taken, and the messages of a data flit join those that wait (R409 to R412). A NAK that is good starts a replay. A port whose
oldest unacknowledged flit is older than 4 µs sends all of them again, in order, and counts a replay; the seventeenth in a row loses the link (R412). Where
it goes beyond the rules it is the model's choice, log entries 56, 57, 58. -/
def Obligations.FlitsAreTakenInOrder : Prop :=
  (∀ (s : State) (p sym unc : Nat) (flit : List Byte) (bad : Bool), s.portRuns p = true →
    let u := s.fecCount p sym unc
    let v := u.port p
    let ty := flitField flit 60 4
    let seq := flitField flit 48 12
    let w := (u.takeHeader p flit).widthAsked p (flitField flit 34 2)
    (ty ≠ 2 → ty ≠ 3 ∨ flitField flit 34 2 = 0 →
      (v.good flit bad = false → exec (.flitReceive p flit bad sym unc) s = .next ((u.bump F.zlkCnt0Damaged p 1).openGap p)) ∧
      (v.good flit bad = true → ty = 1 → seq ≠ (v.rxSeq + 1) % 4096 → exec (.flitReceive p flit bad sym unc) s = .next (u.openGap p)) ∧
      (v.good flit bad = true → ty = 1 → seq = (v.rxSeq + 1) % 4096 → exec (.flitReceive p flit bad sym unc) s = .next ((w.acceptData p flit).serve p)) ∧
      (v.good flit bad = true → ty ≠ 1 → exec (.flitReceive p flit bad sym unc) s = .next (w.pump p (w.port p).work))) ∧
    (ty = 2 →
      (v.good flit bad = false → exec (.nak p flit bad sym unc) s = .next ((u.bump F.zlkCnt0Damaged p 1).openGap p)) ∧
      (v.good flit bad = true →
        let t := w.replay p
        exec (.nak p flit bad sym unc) s = .next (if t.portRuns p then t.pump p (t.port p).work else t))) ∧
    (∀ x : State, x.canon = true → (x.port p).gap = true → x.openGap p = x) ∧
    (∀ x : State, x.canon = true → ((x.acceptData p flit).port p).rxSeq = seq ∧ ((x.acceptData p flit).port p).gap = false ∧
      ((x.acceptData p flit).port p).rxWr = (x.port p).rxWr ++ ((x.port p).parse flit).wrs)) ∧
  (∀ (s : State) (p : Nat) (f : TxFlit) (rest : List TxFlit), s.canon = true → s.portRuns p = true → (s.port p).unacked = f :: rest →
    (s.now ≤ f.at_ + 4000 → exec (.replayTimeout p) s = .next s) ∧
    (f.at_ + 4000 < s.now → 16 ≤ (s.port p).replays → exec (.replayTimeout p) s = .next (s.loseLink p)) ∧
    (f.at_ + 4000 < s.now → (s.port p).replays < 16 →
      ∃ t, exec (.replayTimeout p) s = .next t ∧ t.out = ((s.port p).unacked.map fun g => Out.flit p g.bytes).reverse ++ s.out ∧
        t.port p = { s.port p with replays := (s.port p).replays + 1, unacked := (s.port p).unacked.map fun g => { g with at_ := s.now } } ∧
        t.getF F.zlkCnt0Replay p = (s.getF F.zlkCnt0Replay p + 1) % 2 ^ F.zlkCnt0Replay.w ∧ OnlyChanged [.regs, .ports, .out] s t ∧
        FieldsKept [(F.zlkCnt0Replay, p)] s t))

/-- A posted write that fails a check of Table 17-5 is counted, recorded and acknowledged with its code, and writes nothing; one that passes waits (R417). A
write that is performed stores its bytes, or its poison, and adds its length to its arrival counter modulo 2^64 (R418). A WACK is matched to its write
(R419). Where it goes beyond the rules it is the model's choice, log entry 58. -/
def Obligations.PostedWritesArePerformed : Prop :=
  ∀ (s : State) (p wid : Nat), s.canon = true →
    (∀ l rest, s.portRuns p = true → (s.port p).rxWr = l :: rest →
      let hdr := leNat (l.headD [])
      let code := s.wrCheck p hdr
      let e : RxWr := ⟨bits hdr 80 16, hdr, ((l.drop 1).flatMap fun x => x).take (wrBytes hdr), if code != 0 then code else if bit hdr 14 then 5 else 0, code != 0⟩
      let u := s.mapPort p fun v => { v with rxWr := rest, rx := v.rx ++ [e], returns := v.returns.set 0 (v.returns.getD 0 0 + wrSlots hdr) }
      let r : Rec := { cls := 0x1A, sev := 0, kind := 4, unit := p, sub := 0xFF, addr := wrAddr hdr, syn := bits hdr 80 16 + code <<< 16 }
      (code = 0 → exec (.wr p) s = .next (u.flushWacks p)) ∧
      (code ≠ 0 → exec (.wr p) s = .next (((u.bumpSat F.zlkCnt1Rxref p 1).record r).flushWacks p)) ∧
      ∃ t, exec (.wr p) s = .next t ∧ OnlyChanged (recordComps ++ [.ports, .arch]) s t) ∧
    (∀ r, s.running = true → (s.port p).rx.find? (fun r => r.wid == wid && !r.fin) = some r →
      ∃ t, exec (.wrPerformed p wid) s = .next t ∧
        t.mem = (if bit r.hdr 14 then s.poisonBytes (wrAddr r.hdr) 64 else s.writeBytes (wrAddr r.hdr) r.data).mem ∧
        (bit r.hdr 14 = false → BytesKept (wrAddr r.hdr) r.data.length s t) ∧
        (bit r.hdr 12 = true → t.getF F.zlkArrCount (bits r.hdr 20 12) = (s.getF F.zlkArrCount (bits r.hdr 20 12) + wrBytes r.hdr) % 2 ^ 64) ∧
        (bit r.hdr 12 = false → ∀ n, t.getF F.zlkArrCount n = s.getF F.zlkArrCount n)) ∧
    (s.portRuns p = true → (s.port p).rxWack ≠ [] → exec (.wack p) s = .next ((s.takeWack p).serve p)) ∧
    (s.portRuns p = true → (s.port p).rxWack = [] → exec (.wack p) s = .next s)

/-- Links lose lanes, fall, and come back. The first faulty lane of a port gets a record and a request for the sound half; one in each half loses the link
(R415). A link that is lost leaves its port RETRAINING (R430). Training that ends with a peer of the same ROLE and REACH leaves it UP with fresh credits and
a new EVTNO (R407, R408); a port that has retrained for RETRYLIM ms is DOWN (R431). A write of 1 to ZLK_PCTL loses an UP link, and starts the training of
the others again. An eye scan of a port or of the PCIe link starts with BUSY; while one runs status 0xA1, on a target or lane that is none status 0xA2, and
nothing else changes. Its end shows the eye and status 0 (R432). Where it goes beyond the rules it is the model's choice, log entries 57, 59, 60. -/
def Obligations.LinksFallAndComeBack : Prop :=
  (∀ (s : State) (p : Nat), s.canon = true →
    (∀ lane, s.portUp p = true → lane < 8 → bit (s.getF F.zlkPstatFaulty p) lane = false →
      let m := s.getF F.zlkPstatFaulty p + 2 ^ lane
      let u := s.setF F.zlkPstatFaulty p m
      let d := if lane < 4 then 2 else 1
      let r : Rec := { cls := 0x19, sev := 2, kind := 4, unit := p, sub := lane, syn := m }
      (bothHalves m = true → exec (.laneFault p lane) s = .next (u.loseLink p)) ∧
      (s.getF F.zlkPstatFaulty p = 0 → exec (.laneFault p lane) s = .next (((u.record r).mapPort p fun v => { v with dgr := d }).sendBare p 0 d))) ∧
    (∀ flit sym unc, s.portRuns p = true → flitField flit 60 4 = 3 → flitField flit 34 2 ≠ 0 → ((s.fecCount p sym unc).port p).good flit false = true →
      let d := flitField flit 34 2
      let t := (s.fecCount p sym unc).takeHeader p flit
      ((t.port p).dgr = d → exec (.widthChange p flit false sym unc) s = .next ((t.mapPort p fun v => { v with dgr := 0 }).setWidth p d)) ∧
      ((t.port p).dgr ≠ d → exec (.widthChange p flit false sym unc) s = .next (t.widthAsked p d))) ∧
    (∀ announced, s.portUp p = true → announced = true ∨ 16 ≤ (s.port p).replays ∨ ((s.port p).dgr = 0 ∧ (s.port p).since + 2000 ≤ s.now) →
      ∃ t, exec (.linkLoss p announced) s = .next t ∧ t = s.loseLink p ∧ t.getF F.zlkPstatState p = 4) ∧
    (∀ step, s.training p = true → exec (.trainingStepTimeout p step) s = .next (s.mapPort p fun v => { v with step := 1 })) ∧
    (∀ serial peer role reach evt faulty rev pol, s.training p = true → s.getF F.zlkPcfgRole p = role → s.getF F.zlkPcfgReach p = reach →
      bothHalves faulty = false → faulty < 256 →
      ∃ t, exec (.linkUp p serial peer role reach evt faulty rev pol) s = .next t ∧ t.getF F.zlkPstatState p = 3 ∧
        t.getF F.zlkPstatEvtno p = lo32 (max (s.getF F.zlkPstatEvtno p) evt + 1) % 2 ^ F.zlkPstatEvtno.w ∧ t.getF F.zlkPstatFaulty p = faulty ∧
        t.getF F.zlkNbrNbrserial p = serial % 2 ^ F.zlkNbrNbrserial.w ∧
        (s.arch.broke.contains p = false → (t.port p).credits = [4096, 256, 64] ∧ (t.port p).unacked = [] ∧ (t.port p).txWr = [])) ∧
    (12 ≤ p ∨ s.getF F.zlkPstatState p ≠ 4 ∨ s.getF F.zlkPcfgRetrylim p = 0 → exec (.retrainLimit p) s = .next s) ∧
    (p < 12 → s.getF F.zlkPstatState p = 4 → s.getF F.zlkPcfgRetrylim p ≠ 0 → (s.port p).since + s.getF F.zlkPcfgRetrylim p * 1000000 ≤ s.now →
      exec (.retrainLimit p) s = .next (s.setF F.zlkPstatState p 5)) ∧
    (p < 12 → ∀ acr ∈ [Acr.fn 0, .mb],
      (s.getF F.zlkPstatState p = 3 → exec (.retrain acr p 1) s = .next (s.loseLink p)) ∧
      (s.getF F.zlkPstatState p < 2 → exec (.retrain acr p 1) s = .next s) ∧
      (s.getF F.zlkPstatState p = 5 → exec (.retrain acr p 1) s =
        .next ((s.setF F.zlkPstatState p 4).mapPort p fun w => { w with step := 1, since := s.now })))) ∧
  (∀ (s : State) (v height width : Nat), s.canon = true →
    let tgt := bits v 11 4
    (bit v 31 = true → bits v 15 16 = 0 → bits v 0 4 = 0 → ∀ acr ∈ [Acr.fn 0, .mb],
      (s.flag F.zlkEyeresBusy 0 = true → exec (.eyeScan acr v) s = .next (s.setF F.zlkEyeresStatus 0 0xA1)) ∧
      (s.flag F.zlkEyeresBusy 0 = false → tgt < 6 ∨ 12 < tgt ∨ 11 < bits v 7 4 → exec (.eyeScan acr v) s = .next (s.setF F.zlkEyeresStatus 0 0xA2)) ∧
      (s.flag F.zlkEyeresBusy 0 = false → 6 ≤ tgt → tgt ≤ 12 → bits v 7 4 ≤ 11 → exec (.eyeScan acr v) s = .next (s.setF F.zlkEyeresBusy 0 1))) ∧
    (s.flag F.zlkEyeresBusy 0 = true →
      ∃ t, exec (.eyeScanComplete height width) s = .next t ∧ t.flag F.zlkEyeresBusy 0 = false ∧ t.getF F.zlkEyeresStatus 0 = 0 ∧
        t.getF F.zlkEyeresHeight 0 = height % 2 ^ F.zlkEyeresHeight.w ∧ t.getF F.zlkEyeresWidth 0 = width % 2 ^ F.zlkEyeresWidth.w ∧
        OnlyFields [(F.zlkEyeresBusy, 0), (F.zlkEyeresStatus, 0), (F.zlkEyeresHeight, 0), (F.zlkEyeresWidth, 0)] s t) ∧
    (s.flag F.zlkEyeresBusy 0 = false → exec (.eyeScanComplete height width) s = .next s))

/-! ### Archipelagos (Chapters 17, 20) -/

/-- A formation starts with this device's key as the best one; while one runs, FORM only writes status 0xA1. A better key from a port replaces the best one and
names the parent. When it has stood for 5 ms, formation fails without a key, its owner leads, and every other device sends its TOPO to its parent (R426,
R427). Behind the lead, TOPO, NUMBER for a child and FORMED go on along the tree; a NUMBER for this device gives it its place and is answered. At the lead
the completed map forms the archipelago when it is the charter's topology, else formation fails with 0x9F; the last FORMED starts a sweep of the timebase
(R427, R428). Where it goes beyond the rules it is the model's choice, log entry 61. -/
def Obligations.ArchipelagosForm : Prop :=
  (∀ (s : State) (acr : Acr), s.canon = true → acr = .fn 0 ∨ acr = .mb →
    (s.getF F.zlkArchState 0 = 1 → exec (.form acr 1) s = .next (s.setF F.zlkArchStatus 0 0xA1)) ∧
    (s.getF F.zlkArchState 0 ≠ 1 →
      ∃ t, exec (.form acr 1) s = .next t ∧ t.getF F.zlkArchState 0 = 1 ∧ t.getF F.zlkArchLead 0 = 0 ∧ t.arch.best = s.archKey ∧ t.arch.bestAt = s.now ∧
        t.arch.ended = false ∧ t.arch.parent = none ∧ OnlyChanged [.regs, .arch] s t ∧
        FieldsKept [(F.zlkArchState, 0), (F.zlkArchStatus, 0), (F.zlkArchLead, 0), (F.tmbAlignSweeping, 0)] s t) ∧
    (s.electing = true →
      exec .electionTick s = .next (((List.range 12).filter s.archPort).foldl (fun t p => t.sendSb p 0x01 (t.arch.best <<< 32 + t.arch.formMax <<< 112)) s)) ∧
    (∀ p m t0 t, s.takeSb p 0x01 = some (m, t0, t) → t.electing = true →
      let k := bits m 32 64
      let u := t.setArch { t.arch with formMax := max t.arch.formMax (bits m 112 16) }
      (u.arch.best < k → exec (.elect p) s = .next (u.setArch { u.arch with best := k, bestAt := u.now, parent := some p })) ∧
      (k ≤ u.arch.best → exec (.elect p) s = .next u)) ∧
    (s.electing = true → s.arch.bestAt + 5000000 ≤ s.now →
      let u := s.setArch { s.arch with ended := true }
      (s.arch.best = 0 → exec .electionEnd s = .next (s.archState 3 0xA0)) ∧
      (s.arch.best ≠ 0 → s.arch.best = s.archKey → exec .electionEnd s = .next (if u.connected.isEmpty then u.archState 3 0x9F else u.setF F.zlkArchLead 0 1)) ∧
      (s.arch.best ≠ 0 → s.arch.best ≠ s.archKey → ∀ p, s.arch.parent = some p →
        exec .electionEnd s = .next ((topoBodies Config.serial.toNat u.connected).foldl (fun t b => t.sendSb p 0x02 b) u))) ∧
    (s.electing = false ∨ s.now < s.arch.bestAt + 5000000 → exec .electionEnd s = .next s)) ∧
  (∀ (s : State) (p m t0 : Nat) (t : State),
    (s.takeSb p 0x02 = some (m, t0, t) →
      let new := t.getF F.zlkArchState 0 = 1 ∧ t.arch.children.any (fun c => c.1 == p) = false
      let u := if new then t.setArch { t.arch with children := t.arch.children ++ [(p, 0xFFFF)] } else t
      (∀ map q, t.isLead = false → t.arch.parent = some q → exec (.topo p map) s = .next (u.forwardSb q m)) ∧
      (∀ me l, t.isLead = true → t.getF F.zlkArchState 0 = 1 →
        exec (.topo p (some (me, l))) s =
          .next (if topoOk (t.getF F.zlkArchcfgTopo 0) (t.getF F.zlkArchcfgNx 0) (t.getF F.zlkArchcfgNy 0) me l then u.number me l else u.archState 3 0x9F)) ∧
      (t.isLead = true → t.getF F.zlkArchState 0 = 1 → exec (.topo p none) s = .next u) ∧
      (∀ map, t.isLead = true → t.getF F.zlkArchState 0 = 2 → t.flag F.tmbAlignSweeping 0 = false → exec (.topo p map) s = .next t.startSweep)) ∧
    (s.takeSb p 0x03 = some (m, t0, t) →
      (∀ q, exec (.number p (some q)) s = .next (t.forwardSb q m)) ∧
      exec (.number p none) s = .next ((t.setNumber (bits m 32 16) (if bits m 80 2 = 2 then bits m 48 16 * bits m 64 16 else bits m 48 16) (bits m 112 16)).sendSb p 0x04 0)) ∧
    (s.takeSb p 0x04 = some (m, t0, t) →
      let kids := t.arch.children.map fun c => if c.1 = p then (p, bits m 16 16) else c
      let w := if bits m 4 4 = 0 then t.setArch { t.arch with children := kids } else t
      (∀ q, t.isLead = false → t.arch.parent = some q → exec (.formed p) s = .next (w.forwardSb q m)) ∧
      (t.isLead = true →
        let u := w.setArch { w.arch with replies := w.arch.replies - 1 }
        exec (.formed p) s = .next (if u.arch.replies = 0 ∧ s.arch.replies ≠ 0 then u.startSweep else u))) ∧
    (∀ (x : State) (num n fo : Nat), x.canon = true → num < 2 ^ F.zlkArchDevnum.w → n < 2 ^ F.zlkArchNdev.w → fo < 2 ^ F.zlkArchFormno.w →
      (x.setNumber num n fo).getF F.zlkArchDevnum 0 = num ∧ (x.setNumber num n fo).getF F.zlkArchNdev 0 = n ∧
      (x.setNumber num n fo).getF F.zlkArchFormno 0 = fo ∧ (x.setNumber num n fo).getF F.zlkArchState 0 = 2 ∧ (x.setNumber num n fo).getF F.zlkArchStatus 0 = 0))

/-- A sweep that is asked for starts on a formed archipelago, at its lead, while none runs, else a status says why not. A device answers probes with their
reception stamp; its parent takes 16 rounds, tries a probe that gets no answer three times, and then sets it: the timebase steps by the correction, and the
device is aligned and aligns its children. A device that is not set within 50 ms is not aligned (R494, R495). Where it goes beyond the rules it is the
model's choice, log entry 62. -/
def Obligations.TheTimebaseAligns : Prop :=
  ∀ (s : State), s.canon = true →
    (∀ acr ∈ [Acr.fn 0, .mb],
      (s.getF F.zlkArchState 0 ≠ 2 → exec (.tmbCtlSweep acr 1) s = .next (s.setF F.tmbAlignStatus 0 0xC3)) ∧
      (s.getF F.zlkArchState 0 = 2 → s.isLead = false → exec (.tmbCtlSweep acr 1) s = .next (s.setF F.tmbAlignStatus 0 0xC2)) ∧
      (s.getF F.zlkArchState 0 = 2 → s.isLead = true → s.flag F.tmbAlignSweeping 0 = true → exec (.tmbCtlSweep acr 1) s = .next (s.setF F.tmbAlignStatus 0 0xC1)) ∧
      (s.getF F.zlkArchState 0 = 2 → s.isLead = true → s.flag F.tmbAlignSweeping 0 = false → exec (.tmbCtlSweep acr 1) s = .next s.startSweep)) ∧
    (∀ p m t0 t, s.takeSb p 0x20 = some (m, t0, t) → t.arch.children = [] →
      ∃ u, exec (.tbstart p) s = .next u ∧ u.flag F.tmbAlignSweeping 0 = true ∧ u.arch.algen = bits m 32 16 ∧ u.arch.timer = some (t.now + 50000000) ∧
        OnlyFields [(F.tmbAlignSweeping, 0)] t { u with arch := t.arch }) ∧
    (∀ p m t2 t, s.takeSb p 0x21 = some (m, t2, t) → exec (.tbprobe p) s = .next (t.sendSb p 0x22 (t2 <<< 32))) ∧
    (∀ p m t4 t h t1, s.takeSb p 0x22 = some (m, t4, t) → t.arch.hop = some h → h.port = p → h.t1 = some t1 → h.round + 1 < 16 →
      let b := bestRound h.best (round t1 (bits m 32 64) (bits m 96 32) t4)
      exec (.tbreply p) s = .next ((t.setArch { t.arch with hop := some { h with round := h.round + 1, misses := 0, best := b } }).probe)) ∧
    (∀ p m t4 t h t1, s.takeSb p 0x22 = some (m, t4, t) → t.arch.hop = some h → h.port = p → h.t1 = some t1 → 16 ≤ h.round + 1 →
      let b := (bestRound h.best (round t1 (bits m 32 64) (bits m 96 32) t4)).getD (0, 0)
      let u := t.setArch { t.arch with hop := none }
      exec (.tbreply p) s = .next ((u.sendSb p 0x23 (ofInt 64 b.2 <<< 32 + u.getF F.tmbAlignAlgen 0 <<< 96 +
        ((u.getF F.tmbAlignErrns 0 + 8 + b.1 / 8) % 65536) <<< 112)).nextHop)) ∧
    (∀ p m t4 t t1, s.takeSb p 0x22 = some (m, t4, t) → t.arch.hop = none → t.arch.parent = some p → t.arch.trimT1 = some t1 →
      let off := (round t1 (bits m 32 64) (bits m 96 32) t4).2
      exec (.tbreply p) s = .next (t.setArch { t.arch with trimT1 := none, trim := trimTo t.arch.trim off })) ∧
    (∀ h t1, s.arch.hop = some h → h.t1 = some t1 →
      (s.now < t1 + 100000 → exec .tbprobeRetry s = .next s) ∧
      (t1 + 100000 ≤ s.now → h.misses < 2 → exec .tbprobeRetry s = .next ((s.setArch { s.arch with hop := some { h with misses := h.misses + 1 } }).probe)) ∧
      (t1 + 100000 ≤ s.now → 2 ≤ h.misses → exec .tbprobeRetry s = .next (s.breakAt h.port).nextHop)) ∧
    (∀ p m t0 t, s.takeSb p 0x23 = some (m, t0, t) → 
      ∃ u, exec (.tbset p) s = .next u ∧ u.now = ofInt 64 (t.now + toInt 64 (bits m 32 64)) ∧ u.getF F.tmbAlignAlgen 0 = bits m 96 16 ∧
        u.flag F.tmbAlignAligned 0 = true ∧ u.getF F.tmbAlignErrns 0 = bits m 112 16 ∧ u.arch.timer = none) ∧
    (∀ p m t0 t, s.takeSb p 0x24 = some (m, t0, t) → bit m 48 = true →
      exec (.tbdone p) s = .next ((t.setArch { t.arch with owed := t.arch.owed.filter (· != p) }).nextHop)) ∧
    (∀ p m t0 t, s.takeSb p 0x24 = some (m, t0, t) → bit m 48 = false → t.isLead = true →
      let u := t.setArch { t.arch with owed := t.arch.owed.filter (· != p), bad := true }
      exec (.tbdone p) s = .next (u.setF F.tmbAlignStatus 0 0xC0).nextHop) ∧
    (∀ e, s.arch.timer = some e → e ≤ s.now →
      ∃ t, exec .sweepTimerExpiry s = .next t ∧ t.flag F.tmbAlignAligned 0 = false ∧ t.flag F.tmbAlignSweeping 0 = false ∧ t.arch = { s.arch with timer := none } ∧
        t.now = s.now ∧ t.getF F.tmbAlignAlgen 0 = s.getF F.tmbAlignAlgen 0) ∧
    (∀ e, s.arch.timer = some e → s.now < e → exec .sweepTimerExpiry s = .next s) ∧
    (∀ p, s.arch.parent = some p → s.flag F.tmbAlignAligned 0 = true → s.flag F.tmbAlignSweeping 0 = false →
      exec .rateTrimProbe s = .next ((s.setArch { s.arch with trimT1 := none }).sendSb p 0x21 0))

/-- Members of a frequency group report their FMAX along the tree; a switch that its lead announces applies at its instant, or at once on a device that is not
aligned under its ALGEN: GF is the announced one. A member without a word from the lead for 10 ms has lost its group (R490, R491). Where it goes beyond the
rules it is the model's choice, log entry 63. -/
def Obligations.FrequencyGroupsSwitchTogether : Prop :=
  ∀ (s : State), s.canon = true →
    (s.inGroup = true →
      let u := s.treePorts.foldl (fun (t : State) p => t.sendSb p 0x10 (t.power.allow <<< 32 + t.getF F.pwrFgrpGroup 0 <<< 38)) s
      exec .fgreportTick s = .next (u.noteReport (u.getF F.zlkArchDevnum 0) u.power.allow).setGf) ∧
    (s.inGroup = false → exec .fgreportTick s = .next s) ∧
    (∀ p m t0 t, s.takeSb p 0x10 = some (m, t0, t) →
      let w := (t.treePorts.filter (· != p)).foldl (fun (t : State) p => t.forwardSb p m) t
      (w.inGroup = false ∨ bits m 38 8 ≠ w.getF F.pwrFgrpGroup 0 → exec (.fgreport p) s = .next w) ∧
      (w.inGroup = true → bits m 38 8 = w.getF F.pwrFgrpGroup 0 →
        let u := w.noteReport (bits m 16 16) (bits m 32 6)
        exec (.fgreport p) s = .next (if u.recent.all fun e => decide (bits m 16 16 ≤ e.1) then u.setArch { u.arch with leadAt := u.now } else u).setGf)) ∧
    (∀ p m t0 t, s.takeSb p 0x11 = some (m, t0, t) →
      let w := (t.treePorts.filter (· != p)).foldl (fun (t : State) p => t.forwardSb p m) t
      w.inGroup = true → bits m 102 8 = w.getF F.pwrFgrpGroup 0 →
      let u := (w.setF F.pwrFgrpGlost 0 0).setArch { w.arch with leadAt := w.now }
      (u.flag F.tmbAlignAligned 0 = true → u.getF F.tmbAlignAlgen 0 = bits m 110 16 →
        exec (.fgswitch p) s = .next (u.setArch { u.arch with switches := u.arch.switches ++ [(bits m 32 64, bits m 96 6)] })) ∧
      (u.flag F.tmbAlignAligned 0 = false ∨ u.getF F.tmbAlignAlgen 0 ≠ bits m 110 16 → exec (.fgswitch p) s = .next (u.applyGf (bits m 96 6)))) ∧
    (∀ e, s.dueSwitch = some e →
      ∃ t, exec .fgswitchInstant s = .next t ∧ t.getF F.pwrFgrpGf 0 = e.2 % 2 ^ F.pwrFgrpGf.w ∧ e.1 ≤ s.now ∧ t.arch.switches = s.arch.switches.erase e) ∧
    (s.dueSwitch = none → exec .fgswitchInstant s = .next s) ∧
    (s.inGroup = true → s.leadsGroup = false → s.arch.leadAt + 10000000 ≤ s.now → exec .glostTimeout s = .next (s.setF F.pwrFgrpGlost 0 1)) ∧
    (s.inGroup = false ∨ s.leadsGroup = true ∨ s.now < s.arch.leadAt + 10000000 → exec .glostTimeout s = .next s)

/-! ### Power, clocks and thermals (Chapter 20) -/

/-- From phase 4 on a control step takes its measurements, shows the package power and adds the energy, and never raises an island's clock: a lowering switches
at once, a raise waits for its rail ramp, whose end switches the clock and shows the set-point of the new frequency (R480 to R484). Where it goes beyond the
rules it is the model's choice, log entry 64. -/
def Obligations.ControlStepsOnlyLowerAtOnce : Prop :=
  ∀ (s : State) (harbour pkgw mj : Nat) (leak amps : List Nat) (done : List (List Byte × Nat)), s.canon = true →
    (s.phase < 4 → exec (.powerControlStep harbour leak amps done pkgw mj) s = .next s) ∧
    (4 ≤ s.phase → ∃ t, exec (.powerControlStep harbour leak amps done pkgw mj) s = .next t ∧
      t.getF F.pwrPowerPkgw 0 = pkgw % 2 ^ F.pwrPowerPkgw.w ∧ t.getF F.pwrPowerEnergy 0 = (s.getF F.pwrPowerEnergy 0 + mj) % 2 ^ F.pwrPowerEnergy.w ∧
      (∀ i, t.getF F.pwrIslandFreq i ≤ s.getF F.pwrIslandFreq i) ∧ OnlyChanged [.regs, .power] s t ∧ RegsKept [R.pwrPower, R.pwrThr, R.pwrIsland] s t) ∧
    (∀ i, let f := tget (fun _ => 0) s.power.raise_ i
      (f = 0 → exec (.clockSwitch i) s = .next s) ∧
      (f ≠ 0 → ∃ t, exec (.clockSwitch i) s = .next t ∧ t.getF F.pwrIslandFreq i = f % 2 ^ F.pwrIslandFreq.w ∧
        t.getF F.pwrIslandVmv i = s.vOf f % 2 ^ F.pwrIslandVmv.w ∧ OnlyChanged [.regs, .power] s t ∧
        FieldsKept [(F.pwrIslandFreq, i), (F.pwrIslandVmv, i)] s t))

/-- The reasons that act at once: a rail above ICCMAX stretches its island's clock; EXTTHR_N low takes every island to EXTFREQ or lower until it is released;
every sensor reading is shown, and one at 115 °C stops the device and asks for power off (R486, R487). The activity of no cluster moves by more than 1/32 of
full activity in a µs, and comes as near to its work as that allows (R485). A write of PWR_CAP keeps CAP within 60 W and CAPMAX (R482). Where it goes beyond
the rules it is the model's choice, log entries 64, 65. -/
def Obligations.ThrottlesActAtOnce : Prop :=
  (∀ (s : State) (readings : List Int), s.canon = true →
    (∀ i, i < 4 → s.power.stretched.contains i = false →
      ∃ t, exec (.currentTrip i) s = .next t ∧ t.power.stretched = s.power.stretched ++ [i] ∧ bit (t.getF F.pwrThrReason 0) 2 = true ∧
        OnlyFields [(F.pwrThrReason, 0)] s { t with power := s.power }) ∧
    (∃ t, exec .extthrNFall s = .next t ∧ t.pins.extLow = true ∧ (∀ i, i < 4 → t.getF F.pwrIslandFreq i ≤ s.getF F.pwrCfgExtfreq 0) ∧
      OnlyChanged [.regs, .pins, .power] s t ∧ RegsKept [R.pwrThr, R.pwrIsland] s t) ∧
    (∃ t, exec .extthrRelease s = .next t ∧ t.pins = { s.pins with extLow := false } ∧ bit (t.getF F.pwrThrReason 0) 6 = false ∧
      OnlyChanged [.regs, .pins] s t ∧ FieldsKept [(F.pwrThrReason, 0)] s t) ∧
    (let l := (readings ++ List.replicate 72 0).take 72
     ∃ t, exec (.sensorRead readings) s = .next t ∧ t.power.sensors = l ∧
       (∀ i, i < 4 → t.getF F.pwrIslandTj i = ofInt 8 (hotOf ((l.drop (16 * i)).take 16))) ∧
       (sensorAt l 115 = none → t.power.hot = false ∧ t.running = s.running ∧ t.seqr = s.seqr) ∧
       (sensorAt l 115 ≠ none → s.power.hot = false → s.phase ≠ 0 → t.power.hot = true ∧ t.running = false ∧ t.seqr.want = false))) ∧
  (∀ (s : State) (work : List (Nat × Nat)) (v : Nat), s.canon = true →
    (∃ t, exec (.slopeTick work) s = .next t ∧ OnlyChanged [.regs, .clusters] s t ∧ FieldsKept [(F.pwrThrReason, 0)] s t ∧
      ∀ cl, (t.cluster cl).image = (s.cluster cl).image ∧ (t.cluster cl).act ≤ (s.cluster cl).act + slopeStep ∧
        (s.cluster cl).act ≤ (t.cluster cl).act + slopeStep) ∧
    (∀ acr ∈ [Acr.fn 0, .mb], exec (.pwrCap acr v) s = .next (s.setF F.pwrCapCap 0 (min (s.getF F.pwrCapCapmax 0) (max 60 (bits v 0 11))))))

/-! ### Video codecs (Chapter 18) -/

/-- An open that passes Table 18-3 opens the lowest FREE stream for the function and its partition, on the engine that the descriptor names, with every pointer
and mark at 0; CDC_SCMDSTAT shows the stream and status 0. One that fails writes its status, and no stream changes (R440). The owner of an OPEN stream, or
the physical function, disables it: no descriptor after FTAIL counts any more, and a frame that has not started ends with 0xB1. A DISABLED stream with
nothing left to write closes: it is FREE. Every other disable or close gets status 0xB4. Disabling an engine disables its streams (R455). A doorbell of the
stream's owner moves FTAIL when the ring can hold that many descriptors, and CHEAD when it stays at or before CTAIL; else SERR is set. A function that does
not own the stream gets ACCERR (R442). Where it goes beyond the rules it is the model's choice, log entries 67, 68. -/
def Obligations.StreamsOpenAndClose : Prop :=
  (∀ (s : State) (acr : Acr) (set v fn : Nat), s.canon = true → fnSet acr set = fn → fn < 64 → s.flag F.cdcScmdstatBusy fn = false →
    opOf v ≠ 2 → opOf v ≠ 3 →
    let d := s.bytesAt (bits v 0 48) 64
    (∀ n, s.openStatus fn v = 0 → s.freeStream = some n →
      ∃ t, exec (.streamOpen acr set v) s = .next t ∧ t.streamState n = 1 ∧ t.stream n = streamOf d ∧ t.getF F.cdcSstatEngine n = (streamOf d).engine % 2 ^ F.cdcSstatEngine.w ∧
        t.getF F.cdcSstatOwner n = fn ∧ t.getF F.cdcSstatFhead n = 0 ∧ t.getF F.cdcSstatCtail n = 0 ∧ t.getF F.cdcSstatRefmarks n = 0 ∧
        t.getF F.cdcScmdstatStatus fn = 0 ∧ t.getF F.cdcScmdstatStream fn = n % 2 ^ F.cdcScmdstatStream.w ∧ (∀ k, k ≠ n → t.stream k = s.stream k) ∧
        (∀ a, t.byteAt a = s.byteAt a)) ∧
    (s.openStatus fn v ≠ 0 →
      ∃ t, exec (.streamOpen acr set v) s = .next t ∧ t.getF F.cdcScmdstatStatus fn = s.openStatus fn v % 2 ^ F.cdcScmdstatStatus.w ∧
        (∀ k, t.stream k = s.stream k ∧ t.streamState k = s.streamState k) ∧ (∀ a, t.byteAt a = s.byteAt a))) ∧
  (∀ (s : State) (acr : Acr) (set v fn : Nat), s.canon = true → fnSet acr set = fn → fn < 64 → s.flag F.cdcScmdstatBusy fn = false →
    let n := bits v 48 8
    let may := fn = 0 ∨ s.ownsStream fn n = true
    (opOf v = 3 → bits v 56 4 = 0 → s.streamState n = 1 → may → exec (.streamDisable acr set v) s = .next ((s.disableStream n).cdcOp fn n 0)) ∧
    (opOf v = 3 → bits v 56 4 = 0 → s.streamState n ≠ 1 ∨ ¬may → exec (.streamDisable acr set v) s = .next (s.cdcOp fn n 0xB4)) ∧
    (s.streamState n = 1 → (s.stream n).frame = none → (s.stream n).closing = false →
      s.disableStream n = (s.setF F.cdcSstatState n 2).setStream n { s.stream n with written := (s.stream n).fTail }) ∧
    (opOf v = 2 → bits v 56 4 = 0 → s.streamDone n = true → may →
      ∃ t, exec (.streamClose acr set v) s = .next t ∧ t.streamState n = 0 ∧ t.stream n = Stream.free ∧ (∀ k, k ≠ n → t.stream k = s.stream k) ∧
        t.getF F.cdcScmdstatStatus fn = 0 ∧ OnlyChanged [.regs, .streams, .engines] s t) ∧
    (opOf v = 2 → bits v 56 4 = 0 → s.streamDone n = false ∨ ¬may → exec (.streamClose acr set v) s = .next (s.cdcOp fn n 0xB4)) ∧
    (∀ e, e < 8 → ∀ a ∈ [Acr.fn 0, .mb],
      let t := s.setF F.cdcEctlEngdis e (bits v 0 1)
      (bit v 0 = false → exec (.engdis a e v) s = .next t) ∧
      (bit v 0 = true → exec (.engdis a e v) s = .next ((t.streamsBy fun _ u => u.engine == e).foldl State.disableStream t)))) ∧
  (∀ (s : State) (fn n v : Nat), s.canon = true → bits v 32 32 = 0 →
    (s.ownsStream fn n = false → ∀ i ∈ [Instr.cdcFdb fn n v, .cdcCdb fn n v], exec i s = .next (s.raiseEvt fn F.pciEvtcauseAccerr)) ∧
    (s.ownsStream fn n = true →
      let room := (lo32 v + 2 ^ 32 - s.getF F.cdcSstatFhead n) % 2 ^ 32 ≤ 2 ^ (s.stream n).frLog2
      let behind := (lo32 v + 2 ^ 32 - (s.stream n).cHead) % 2 ^ 32 ≤ (s.getF F.cdcSstatCtail n + 2 ^ 32 - (s.stream n).cHead) % 2 ^ 32
      (room → exec (.cdcFdb fn n v) s = .next (s.setStream n { s.stream n with fTail := lo32 v })) ∧
      (¬room → exec (.cdcFdb fn n v) s = .next (s.setF F.cdcSstatSerr n 1)) ∧
      (behind → exec (.cdcCdb fn n v) s = .next (s.setStream n { s.stream n with cHead := lo32 v })) ∧
      (¬behind → exec (.cdcCdb fn n v) s = .next (s.setF F.cdcSstatSerr n 1))))

/-- A stream fetches the descriptor that FHEAD names and FHEAD moves on; one that fails its checks ends with their status, one of a disabled stream with 0xB1
(R442, R443, R455). An engine that is free takes the frame that R450 chooses. A late live frame ends with 0xB0 (R451). The oldest waiting record is written
once the ring has room (R442). A failure of an engine ends its frame with 0xB3, with its outputs poisoned (R454). Where it goes beyond the rules it is the
model's choice, log entries 66, 68, 69. -/
def Obligations.FramesAreCoded : Prop :=
  ∀ (s : State) (n : Nat) (bytes : List Byte), s.canon = true → s.running = true →
    let v := s.stream n
    let h := s.getF F.cdcSstatFhead n
    let b := (bytes ++ leBytes 64 0).take 64
    let u := s.setF F.cdcSstatFhead n (h + 1)
    let f := newFrame b h
    let w := u.setStream n { v with frame := some f }
    let st := w.frameStatus (s.getF F.cdcSstatPart n) v f
    (bit (v.g 39 1) 0 = false → v.frame = none →
      (s.streamState n = 2 → v.written ≠ h → exec (.frameFetch n bytes) s = .next (w.endFrame n f 0xB1 0 [])) ∧
      (s.streamState n = 1 → v.fTail ≠ h → st ≠ 0 → exec (.frameFetch n bytes) s = .next (w.endFrame n f st 0 [])) ∧
      (s.streamState n = 1 → v.fTail ≠ h → st = 0 →
        ∃ t, exec (.frameFetch n bytes) s = .next t ∧ t.getF F.cdcSstatFhead n = (h + 1) % 2 ^ F.cdcSstatFhead.w ∧
          (∃ sat, (t.stream n).frame = some { f with sat := sat }) ∧ (∀ a, t.byteAt a = s.byteAt a))) ∧
    (∀ e f, e < 8 → (s.engine e).cur = none → v.frame = some f →
      let y := s.restServed e
      let last := tset (fun _ => 0) (y.engine e).last (y.getF F.cdcSstatPart n) (n + 1)
      let x := if v.live then y else y.setEngine e { y.engine e with last := last }
      (y.nextFrame e = some (n, true) → exec (.frameStart e) s = .next (x.startFrame e n f)) ∧
      (y.nextFrame e = some (n, false) → exec (.frameStart e) s = .next ((x.putFrame n { f with held := false }).setEngine e { x.engine e with cur := some n })) ∧
      (y.nextFrame e = none → exec (.frameStart e) s = .next y)) ∧
    (∀ f, v.frame = some f → s.streamState n ≠ 0 → f.started = false → s.pastDeadline v f = true →
      exec (.frameDeadline n) s = .next (s.endFrame n f 0xB0 0 [])) ∧
    (∀ r rest, v.waiting = r :: rest →
      (s.crRoom n = false → exec (.frameRecordWrite n) s = .next s) ∧
      (s.crRoom n = true → exec (.frameRecordWrite n) s = .next (((s.setStream n { v with waiting := rest }).putFrameRecord n r).autoClose n))) ∧
    (∀ e f, (s.engine e).cur = some n → v.frame = some f →
      (∀ ev, f.held = false → exec (.blockRow e ev) s = .next (if v.encodes then s.encodeRow e n f ev else s.decodeRow e n f ev)) ∧
      let r : Rec := { cls := 0x28, sev := 1, kind := 6, unit := e, sub := n, status := 0xB3 }
      let a := if v.encodes then (s.record r).poisonBytes (f.g 18 6) (f.g 14 4) else s.record r
      let z := if v.encodes || !f.flag 0 then a.poisonPic v (v.target f) [(0, v.bufStride)] else a
      exec (.codecHwError e) s = .next (z.endFrame n { f with poisoned := true } 0xB3 0 []))

/-! ### Power phases, resets, boot and charter (Chapters 19, 25) -/

/-- An on or off request sets the direction, and SRC its source, at once when the device rests; ON_REQ acts unless PWRFAIL_N is low, THERMTRIP_N is asserted or
the device is in board test; the physical function may ask for off only. A fall of PWRFAIL_N asks for off, and from phase 6 on flushes the staged bytes
(R363, R472, R473). Where it goes beyond the rules it is the model's choice, log entry 76. -/
def Obligations.PowerRequestsSetTheDirection : Prop :=
  ∀ s : State, s.canon = true →
    (∀ i w src, (i, w, src) ∈ [(Instr.onReqRise, true, 0), (.onReqFall, false, 0), (.mbPowerRequest .mb true, true, 1), (.mbPowerRequest .mb false, false, 1),
        (.mbPowerRequest (.fn 0) false, false, 2)] →
      s.pins.standby = true → s.pins.boardTest = false → (w = true → s.pins.thermtrip = false) → (i = .onReqRise → s.pins.pwrfail = false) →
      ∃ t, exec i s = .next t ∧ t.seqr.want = w ∧ t.getF F.hbmPwrstatSrc 0 = src ∧ t.phase = s.phase ∧
        (s.seqr.moving = false → w = true → s.phase < s.topPhase → t.seqr.moving = true ∧ t.flag F.hbmPwrstatDir 0 = true) ∧
        (s.seqr.moving = false → w = false → 0 < s.phase → s.applying = false → t.seqr.moving = true ∧ t.flag F.hbmPwrstatDir 0 = false) ∧
        OnlyChanged [.regs, .seqr, .pins] s t ∧ RegsKept [R.hbmPwrstat, R.hbmRststat] s t) ∧
    (s.pins.pwrfail = true ∨ s.pins.thermtrip = true ∨ s.pins.standby = false ∨ s.pins.boardTest = true →
      exec .onReqRise s = .next (s.setPins { s.pins with onReq := true })) ∧
    exec (.mbPowerRequest (.fn 0) true) s = .next (s.rstStatus 0xBE) ∧
    (s.pins.standby = true → s.pins.pwrfail = false →
      ∃ t, exec .pwrfailNFall s = .next t ∧ t.pins = { s.pins with pwrfail := true } ∧ t.seqr.want = false ∧ t.getF F.hbmPwrstatSrc 0 = 4 ∧ t.phase = s.phase ∧
        (6 ≤ s.phase → s.pins.boardTest = false → t.flash.flushing = true ∧ t.flash.writes = []) ∧ (∀ a, t.byteAt a = s.byteAt a)) ∧
    (let u := s.setPins { s.pins with pwrfail := false }
     exec .pwrfailNRise s = .next (if s.pins.pwrfail = true ∧ s.pins.onReq = true then u.onRequest 0 else u))

/-- A running phase ends in the phase above or below, one at a time; a phase whose bound is overrun is abandoned: fatal, the device runs down from it and stays
OFF until the next on request, with SRC 5. Where no phase runs in that direction nothing happens (R472, R473). Where it goes beyond the rules it is the
model's choice, log entries 75, 76. -/
def Obligations.PhasesMoveOneAtATime : Prop :=
  ∀ (s : State) (w : PhaseWork) (rail : Nat), s.canon = true →
    (s.seqr.moving = true → s.flag F.hbmPwrstatDir 0 = true →
      (∃ t, exec (.powerPhaseUp w) s = .next t ∧ t.phase = s.phaseAbove % 8 ∧ t.seqr.want = s.seqr.want) ∧
      (∃ t, exec (.phaseBoundOverrun rail) s = .next t ∧ t.running = false ∧ t.seqr.want = false ∧ t.getF F.hbmPwrstatSrc 0 = 5 ∧
        t.flag F.hbmPwrstatDir 0 = false ∧ t.seqr.moving = true ∧ t.phase = s.phase)) ∧
    (s.seqr.moving = true → s.flag F.hbmPwrstatDir 0 = false →
      (s.seqr.partial_ = false → ∃ t, exec .powerPhaseDown s = .next t ∧ t.phase = s.phaseBelow % 8 ∧ t.seqr.want = s.seqr.want) ∧
      (s.seqr.partial_ = true → ∃ t, exec .powerPhaseDown s = .next t ∧ t.phase = s.phase ∧ t.seqr.partial_ = false ∧ ∀ a, t.byteAt a = s.byteAt a)) ∧
    (s.seqr.moving = false ∨ s.flag F.hbmPwrstatDir 0 = false → exec (.powerPhaseUp w) s = .next s ∧ exec (.phaseBoundOverrun rail) s = .next s) ∧
    (s.seqr.moving = false ∨ s.flag F.hbmPwrstatDir 0 = true → exec .powerPhaseDown s = .next s)

/-- The standby supply falls: the device is OFF, at reset but for what lies in the boot flash, the fuses and the NAND. It rises: the straps are sampled once.
The TAP enters board test while the device is OFF, and the rails rise; any other instruction, or TRST_N, ends it (R573, R574, R578). Where it goes beyond
the rules it is the model's choice, log entries 76, 78. -/
def Obligations.StandbyStrapsAndBoardTest : Prop :=
  ∀ (s : State) (mbaddr bfclk : Nat) (recov : Bool), s.canon = true →
    (s.pins.standby = true →
      ∃ t, exec .standbyFall s = .next t ∧ t.pins.standby = false ∧ t.phase = 0 ∧ t.seqr = State.reset.seqr ∧ t.mem = [] ∧ t.erq = [] ∧ t.cmds = [] ∧
        t.fwLog = s.fwLog ∧ t.retired = s.retired ∧ t.boot.images = s.boot.images ∧ t.boot.slots = s.boot.slots ∧ t.boot.minSec = s.boot.minSec ∧
        (∀ r, t.getF F.fltRgnverCommitted r = s.getF F.fltRgnverCommitted r)) ∧
    exec .standbyRise s = .next (s.setPins { s.pins with standby := true }) ∧
    (s.pins.standby = true → s.pins.sampled = false →
      ∃ t, exec (.strapSample mbaddr bfclk recov) s = .next t ∧
        t.pins = { s.pins with sampled := true, mbaddr := 0x30 + mbaddr % 8, bfclk := bfclk % 4, recov := recov } ∧ OnlyChanged [.pins] s t) ∧
    (s.pins.standby = false ∨ s.pins.sampled = true → exec (.strapSample mbaddr bfclk recov) s = .next s) ∧
    (s.pins.standby = true → s.pins.boardTest = false → s.seqr.moving = false → s.phase = 0 →
      ∃ t, exec .btest s = .next t ∧ t.pins.boardTest = true ∧ t.seqr.want = true ∧ t.seqr.moving = true ∧ t.flag F.hbmPwrstatDir 0 = true) ∧
    (∀ i ∈ [Instr.trstNFall, .differentInstructionLoad],
      (s.pins.boardTest = false → exec i s = .next s) ∧
      (s.pins.boardTest = true → s.seqr.moving = false → 0 < s.phase → s.applying = false →
        ∃ t, exec i s = .next t ∧ t.seqr.want = false ∧ t.seqr.moving = true ∧ t.flag F.hbmPwrstatDir 0 = false) ∧
      (s.pins.boardTest = true → s.seqr.moving = true → exec i s = .next (s.setSeqr { s.seqr with want := false })))

/-- A partition reset shows BUSY while every context of the partition is reset, and ends with status 0 and its contexts FREE; a reset that is not well formed,
or is asked for while one runs, gets 0xBE. A function-level reset disables the queues of its function and destroys its contexts. A device reset starts at
once when the device rests at phase 3 or above, else at the next phase boundary; a hot reset also resets the MSI-X capabilities (R384, R392, R474, R475).
Where it goes beyond the rules it is the model's choice, log entries 54, 75. -/
def Obligations.ResetsRun : Prop :=
  ∀ (s : State) (v : Nat), s.canon = true →
    (∀ acr ∈ [Acr.fn 0, .mb],
      (s.flag F.hbmRststatBusy 0 = true → bits v 30 2 ≠ 2 → exec (.partitionReset acr v) s = .next (s.rstStatus 0xBE)) ∧
      (bits v 30 2 = 1 → bits v 4 26 = 0 → s.flag F.hbmRststatBusy 0 = false →
        exec (.partitionReset acr v) s = .next ((s.ctxsIn (bits v 0 4)).foldl State.takeOver
          ((s.setBoot { s.boot with partReset := some (bits v 0 4) }).setF F.hbmRststatBusy 0 1))) ∧
      (bits v 30 2 = 2 → s.flag F.hbmRststatBusy 0 = true ∨ bits v 4 26 ≠ 0 → exec (.deviceReset (some (acr, v))) s = .next (s.rstStatus 0xBE)) ∧
      (bits v 30 2 = 2 → s.flag F.hbmRststatBusy 0 = false → bits v 4 26 = 0 →
        exec (.deviceReset (some (acr, v))) s = .next (s.rstStatus 0).askDeviceReset)) ∧
    (∀ p, s.boot.partReset = some p →
      ∃ t, exec .partitionResetEnd s = .next t ∧ t.boot.partReset = none ∧ t.flag F.hbmRststatBusy 0 = false ∧ t.getF F.hbmRststatStatus 0 = 0 ∧
        (∀ x ∈ s.ctxsIn p, t.getF F.shtCtxstatState x = 0) ∧ tget (fun _ => 0) t.evseq p = 0) ∧
    (s.boot.partReset = none → exec .partitionResetEnd s = .next s) ∧
    exec (.deviceReset none) s = .next { s.askDeviceReset with msixs := [] } ∧
    (3 ≤ s.phase → s.seqr.moving = false → s.seqr.reset = false → s.seqr.resetWaits = false → s.applying = false → s.pins.boardTest = false →
      s.askDeviceReset.seqr.reset = true ∧ s.askDeviceReset.seqr.moving = true ∧ s.askDeviceReset.flag F.hbmPwrstatDir 0 = false ∧
      s.askDeviceReset.flag F.hbmRststatBusy 0 = true) ∧
    (∀ fn rings, 0 < fn → fn < 64 →
      ∃ t, exec (.functionLevelReset fn rings) s = .next t ∧ t.msixOf fn = Msix.fresh ∧
        (∀ q ∈ s.queues.map (·.1), s.getF F.pciQstatState q = 1 → s.getF F.pciQstatOwner q = fn → t.getF F.pciQstatState q = 2) ∧
        ((∀ q ∈ s.queues.map (·.1), s.getF F.pciQstatState q = 1 → s.getF F.pciQstatOwner q ≠ fn) →
          (∀ n, n < 256 → s.streamState n ≠ 0 → s.getF F.cdcSstatOwner n ≠ fn) →
          ∀ x ∈ s.ctxs.map (·.1), s.getF F.shtCtxstatState x ≠ 0 → s.getF F.shtCtxstatOwner x = fn → ∃ r, (t.ctx x).reset = some r ∧ r.destroy = true))

/-- A firmware image is written into the slot that is not in use, and becomes the preferred one if its checks pass; else the write ends with 0xBE (R463).
MINSECVER only rises. An image whose firmware does not report alive fails check 5 (R462). Where it goes beyond the rules it is the model's choice, log
entries 71, 72. -/
def Obligations.ImagesAreWritten : Prop :=
  ∀ (s : State) (v : Nat) (bytes : List Byte), s.canon = true → ∀ acr ∈ [Acr.fn 0, .mb],
    let n := bits v 0 30
    let u := s.setLatch acr 0
    let im := (bytes ++ List.replicate (n - bytes.length) 0).take n
    (bits v 62 2 = 1 → bits v 30 32 = 0 → n ≤ imageSlot → s.flag F.hbmRststatBusy 0 = false →
      exec (.imageWrite acr v bytes) s =
        .next ((u.setBoot { u.boot with images := u.boot.images.set u.freeSlot none, imgWrite := some (u.freeSlot, im) }).setF F.hbmRststatBusy 0 1)) ∧
    (bits v 62 2 ≠ 2 → bits v 62 2 ≠ 1 ∨ bits v 30 32 ≠ 0 ∨ imageSlot < n ∨ s.flag F.hbmRststatBusy 0 = true →
      exec (.imageWrite acr v bytes) s = .next (u.rstStatus 0xBE)) ∧
    (∀ k w, s.boot.imgWrite = some (k, w) →
      ∃ t, exec .imageWriteComplete s = .next t ∧ t.boot.imgWrite = none ∧ t.flag F.hbmRststatBusy 0 = false ∧
        (imageCheck (some w) s.secFloor ≠ 0 → t.getF F.hbmRststatStatus 0 = 0xBE ∧ t.boot.images = s.boot.images ∧ t.boot.dirs = s.boot.dirs) ∧
        (imageCheck (some w) s.secFloor = 0 → t.getF F.hbmRststatStatus 0 = 0 ∧ t.boot.images = s.boot.images.set k (some w) ∧ t.boot.dir.pref = k)) ∧
    (∀ w, bits v 62 2 = 2 → bits v 30 32 = 0 → s.boot.images.getD (s.getF F.hbmBootstatImage 0) none = some w → s.flag F.hbmRststatBusy 0 = false →
      s.flag F.hbmBootstatRecovery 0 = false → 3 ≤ s.phase →
      ∃ t, exec (.raiseMinsecver acr v) s = .next t ∧ t.boot.minSec = some (max s.secFloor (fieldAt w 8 4)) ∧ t.getF F.hbmRststatStatus 0 = 0 ∧
        OnlyChanged [.regs, .latch, .boot] s t) ∧
    (∀ i, s.inPhase3 = true → s.bootImage = some i → exec .imageAliveTimeout s = .next (s.setSeqr { s.seqr with aliveFails := s.seqr.aliveFails ++ [i] }))

/-- A delivered amendment is refused with the status of its first failing check, or 0xBC while one is pending or applies; else it is pending with the partitions
that it affects. The physical function may discard it with status 0xBF. Once those partitions are quiescent it applies, and its commit leaves no amendment,
with status 0 (R469 to R471). Where it goes beyond the rules it is the model's choice, log entries 73, 74. -/
def Obligations.AmendmentsAreDelivered : Prop :=
  ∀ (s : State) (b : List Byte), s.canon = true →
    let st := s.getF F.chtAmdst2State 0
    (s.takesAmendments = true → s.getF F.chtAmdaddrAddr 0 % 64 = 0 → exec (.amendmentSubmit (.fn 0) (2 ^ 30) b) s = .next (s.deliver b)) ∧
    (s.takesAmendments = true →
      exec (.amendmentSubmit .mb 0 b) s = .next ((s.deliver b).emit (.mctp 4 ((s.deliver b).getF F.chtAmdst2Status 0) 0))) ∧
    (s.takesAmendments = false → exec (.amendmentSubmit .mb 0 b) s = .next (s.emit (.mctp 4 0xBE 0)) ∧
      exec (.amendmentSubmit (.fn 0) (2 ^ 30) b) s = .next (s.amdStatus 0xBE)) ∧
    (st = 1 ∨ st = 2 → s.deliver b = s.amdStatus 0xBC) ∧
    (st ≠ 1 → st ≠ 2 → s.recordStatus s.chart b ≠ 0 → s.deliver b = s.amdStatus (s.recordStatus s.chart b)) ∧
    (st ≠ 1 → st ≠ 2 → s.recordStatus s.chart b = 0 → s.slotFull b = true → s.deliver b = s.amdStatus 0xBD) ∧
    (st ≠ 1 → st ≠ 2 → s.recordStatus s.chart b = 0 → s.slotFull b = false →
      (s.deliver b).boot.record = some b ∧ (s.deliver b).getF F.chtAmdst2State 0 = 1 ∧ (s.deliver b).getF F.chtAmdst2Status 0 = 0 ∧
      (s.deliver b).getF F.chtAmdst2Affected 0 = s.affectedBy b % 2 ^ 16 ∧ OnlyChanged [.regs, .boot] s (s.deliver b)) ∧
    (st = 1 → exec (.amendmentDiscard (.fn 0) (2 ^ 31)) s = .next (s.dropAmendment.amdStatus 0xBF)) ∧
    (st ≠ 1 → exec (.amendmentDiscard (.fn 0) (2 ^ 31)) s = .next (s.amdStatus 0xBE)) ∧
    (∀ r, s.boot.record = some r → st = 1 →
      (((List.range 16).all fun p => !bit (s.getF F.chtAmdst2Affected 0) p || s.quiescent p) = false → exec .amendmentApply s = .next s) ∧
      (((List.range 16).all fun p => !bit (s.getF F.chtAmdst2Affected 0) p || s.quiescent p) = true →
        exec .amendmentApply s = .next ((s.setF F.chtAmdst2State 0 2).releaseMoved (s.under (s.chart.apply r))))) ∧
    (∀ r, s.boot.record = some r → s.applying = true →
      ∃ t, exec .amendmentCommit s = .next t ∧ t.boot.record = none ∧ t.getF F.chtAmdst2State 0 = 0 ∧ t.getF F.chtAmdst2Status 0 = 0 ∧
        t.boot.slots = s.boot.slots.set (1 - s.activeSlot) (s.newSlot r))

/-! ### Errors and faults (Chapter 21) -/

/-- A record of a class that is not folded joins the error queue, or is counted as lost in a full one, takes the next RSEQ, is logged from severity 2 on, and
stops the device at severity 3 (R503 to R508). A folded one is counted with those of its millisecond. A pop that names the RSEQ of the oldest record removes
it, and ERQ_DATA shows the next one; any other pop changes nothing (R506). Where it goes beyond the rules it is the model's choice, log entry 10. -/
def Obligations.RecordsAreQueuedAndPopped : Prop :=
  ∀ (s : State) (r : Rec), s.canon = true →
    (isFolded r.cls = false →
      (s.record r).rseq = lo32 (s.rseq + 1) ∧ (s.record r).folded = s.folded ∧
      (s.erq.length < 1024 → (s.record r).erq = s.erq ++ [s.makeRec r]) ∧
      (1024 ≤ s.erq.length → (s.record r).erq = s.erq ∧
        (s.record r).getF F.erqStatusLost 0 = satAdd F.erqStatusLost.w (s.getF F.erqStatusLost 0) 1 % 2 ^ F.erqStatusLost.w) ∧
      (s.record r).fwLog = (if 2 ≤ r.sev then [s.makeRec r] else []) ++ s.fwLog ∧
      (r.sev = 3 → (s.record r).running = false) ∧ (r.sev ≠ 3 → (s.record r).running = s.running) ∧
      (s.record r).getF F.erqStatusCount 0 = (s.record r).erq.length % 2 ^ F.erqStatusCount.w) ∧
    (isFolded r.cls = true → (s.record r).erq = s.erq ∧ (s.record r).rseq = s.rseq) ∧
    OnlyChanged recordComps s (s.record r) ∧ RegsKept recordRegs s (s.record r) ∧
    (∀ v, ∀ acr ∈ [Acr.fn 0, .mb],
      (∀ a rest, s.erq = a :: rest → fieldAt a 12 4 = v →
        ∃ t, exec (.erqPop acr v) s = .next t ∧ t.erq = rest ∧ t.getF F.erqStatusCount 0 = rest.length % 2 ^ F.erqStatusCount.w ∧
          (∀ i, i < 8 → t.getF F.erqDataBytes i = fieldAt (rest.headD []) (8 * i) 8 % 2 ^ F.erqDataBytes.w) ∧ OnlyChanged [.regs, .erq] s t ∧
          RegsKept [R.erqStatus, R.erqData] s t) ∧
      (∀ a rest, s.erq = a :: rest → fieldAt a 12 4 ≠ v → exec (.erqPop acr v) s = .next s) ∧
      (s.erq = [] → exec (.erqPop acr v) s = .next s))

/-- Faults of a running part in its cluster are recorded, fail the part with 0x0C and close with its context's teardown: an array check (a second one within 24
hours retires the cluster), the parity of an SFU pipe, which is retired, and an uncorrectable word of the local buffer, whose row is remapped. A corrected
word is recorded; the second within an hour in its row remaps it (R91, R159, R514, R515). Where it goes beyond the rules it is the model's choice, log entry
44. -/
def Obligations.ClusterFaultsFailTheirPart : Prop :=
  ∀ (s : State) (cl q seq why addr pipe bank mac row off syn col : Nat) (c : Cmd), s.canon = true → s.runningIn cl q seq = some c →
    (c.opcode ∈ [0x01, 0x02, 0x03] ∨ (c.opcode = 0x04 ∧ c.convOp = 0) →
      let r : Rec := { cls := 0x08, sev := 1, kind := 1, unit := cl, sub := col, island := clusterIsland cl, op := s.opOfCmd c, addr := addr, syn := why, status := 0x0C }
      let t := s.record r
      let u := (t.setCluster cl { t.cluster cl with lastChk := some t.now }).hwFail c cl addr
      ((s.cluster cl).lastChk = none ∨ (∃ x, (s.cluster cl).lastChk = some x ∧ x + dayNs < s.now) →
        exec (.arrayCheckFail cl q seq col why addr) s = .next u) ∧
      (∀ x, (s.cluster cl).lastChk = some x → s.now ≤ x + dayNs →
        exec (.arrayCheckFail cl q seq col why addr) s = .next (u.retireCluster cl 1 (some t.lastSeq)))) ∧
    (pipe < 32 → bit (s.getF F.sfuPipemapRetired cl) pipe = false → s.clusterUp cl = true →
      ∃ t, exec (.sfuPipeParity cl pipe q seq) s = .next t ∧
        t.getF F.sfuPipemapRetired cl = (s.getF F.sfuPipemapRetired cl + 2 ^ pipe) % 2 ^ F.sfuPipemapRetired.w) ∧
    (s.clusterUp cl = true →
      let r : Rec := { cls := 0x0B, sev := 1, kind := 1, unit := cl, sub := bank, island := clusterIsland cl, op := s.opOfCmd c, addr := off, syn := syn, status := 0x0C }
      exec (.lbfEcc cl bank mac row off syn true q seq) s = .next (((s.record r).hwFail c cl 0).remapRow cl mac row (some (s.record r).lastSeq))) ∧
    (s.clusterUp cl = true →
      let r : Rec := { cls := 0x0A, sev := 0, kind := 1, unit := cl, sub := bank, island := clusterIsland cl, addr := off, syn := syn }
      let t := s.record r
      let last := tget (fun _ => 0) (t.cluster cl).rowErrs (mac * 65536 + row)
      (last = 0 → exec (.lbfEcc cl bank mac row off syn false q seq) s =
        .next (t.setCluster cl { t.cluster cl with rowErrs := tset (fun _ => 0) (t.cluster cl).rowErrs (mac * 65536 + row) (t.now + 1) })) ∧
      (last ≠ 0 → t.now + 1 ≤ last + 3600000000000 → exec (.lbfEcc cl bank mac row off syn false q seq) s = .next (t.remapRow cl mac row none)))

/-- A cluster is retired once, by an error of its accumulator store or by ERQ_CTL: it joins the list and its bit of ERQ_RETIRED is set (R514). The list goes at
the next device reset when that was asked for. A strait's lost lane and a restart of the harbourmaster are recorded, and nothing else changes (R516, R517).
Where it goes beyond the rules it is the model's choice, log entries 77, 79. -/
def Obligations.RetirementsAndSpares : Prop :=
  ∀ (s : State) (cl v strait lane : Nat), s.canon = true →
    (∀ i, i = .accumulatorStoreError cl ∨ (∃ acr ∈ [Acr.fn 0, .mb], i = .retireCluster acr v ∧ cl = bits v 0 10 ∧ bits v 30 2 = 2 ∧ bits v 10 20 = 0) →
      (s.isRetired cl = true → cl < 800 → exec i s = .next s) ∧
      (s.isRetired cl = false → cl < 800 → ∃ t, exec i s = .next t ∧ t.retired = s.retired ++ [cl] ∧
        (s.cmds = [] → (∀ x, s.anchor x ≠ some cl) → t.isRetired cl = true ∧ OnlyChanged (recordComps ++ [.retired]) s t))) ∧
    (∀ acr ∈ [Acr.fn 0, .mb],
      (bits v 30 2 ≠ 1 → bits v 30 2 ≠ 2 ∨ bits v 10 20 ≠ 0 ∨ 800 ≤ bits v 0 10 → exec (.retireCluster acr v) s = .next (s.tstat 0xCC)) ∧
      (bits v 30 2 = 1 → bits v 10 20 ≠ 0 → exec (.clearRetirementList acr v) s = .next (s.tstat 0xCC)) ∧
      (bits v 30 2 = 1 → bits v 10 20 = 0 → exec (.clearRetirementList acr v) s = .next { s with clearRetired := true })) ∧
    (∃ t, exec (.straitLaneFail strait lane) s = .next t ∧ tget (fun _ => 0) t.straits strait = tget (fun _ => 0) s.straits strait + 1 ∧
      OnlyChanged (recordComps ++ [.straits]) s t ∧ RegsKept recordRegs s t) ∧
    (∃ t, exec .hmlock s = .next t ∧ OnlyChanged recordComps s t ∧ RegsKept recordRegs s t ∧ t.running = s.running)

/-- An uncorrectable error of the harbour die, a lost reference clock, or a lost rail of the harbour stops the device: STATE 2, no command is left, and no byte
of memory changes. A stopped device starts no part, completes no command, and its engines stand (R508, R519). An island that is lost loses its sites (R518).
Where it goes beyond the rules it is the model's choice, log entries 75, 77. -/
def Obligations.FatalErrorsStopTheDevice : Prop :=
  ∀ s : State, s.canon = true →
    (∀ i, i = .hbdie ∨ (i = .sysclkLoss ∧ s.pins.refLost = false ∧ s.pins.standby = true) ∨
        (∃ rail, i = .pgFall rail ∧ s.pins.boardTest = false ∧ ((2 ≤ rail ∧ rail ≤ 4 ∧ 1 ≤ s.phase) ∨ (11 ≤ rail ∧ rail ≤ 13 ∧ 6 ≤ s.phase))) →
      ∃ t, exec i s = .next t ∧ t.running = false ∧ t.cmds = [] ∧ t.flash.jobs = [] ∧ (∀ a, t.byteAt a = s.byteAt a) ∧
        (i ≠ .hbdie → (∀ rail, 11 ≤ rail → i ≠ .pgFall rail) → t.seqr.hardFatal = true)) ∧
    (s.running = false → ∀ cl u q seq n e, ∀ i ∈ [Instr.partStart cl u, .commandComplete q seq, .attnRingStep q seq, .imageInstall cl, .watchdogCheck, .contextTeardown n,
        .fleetTestItem cl e, .frameFetch n [], .frameStart e, .frameDeadline n, .codecHwError e, .wrPerformed n e, .wr n, .wack n],
      exec i s = .next s) ∧
    (∀ island why, island < 4 → island ∉ s.lostIslands → 4 ≤ s.phase → s.pins.boardTest = false →
      ∀ i, i = .islandLoss island why ∨ (i = .pgFall (5 + island) ∧ why = 1) →
      ∃ t, exec i s = .next t ∧ t = s.loseIsland island why ∧ t.lostIslands = s.lostIslands ++ [island] ∧
        ((∀ p, p < 16 → s.onIsland p island = false) → ∀ j, j < 12 → s.getF F.memStatusState (12 * island + j) ≠ 0 → t.siteLost (12 * island + j) = true))

/-- A bundle whose signature and items pass is loaded, and every cluster starts it anew; one that fails a check, or is loaded while an operation runs, leaves
the running one (R521, R522). A cluster that may run its next item counts a pass or a fail by the CRC, and a fail is recorded and retires the cluster when
the bundle says so (R523, R524). Where it goes beyond the rules it is the model's choice, log entries 71, 80. -/
def Obligations.FleetTestsRun : Prop :=
  ∀ (s : State) (v : Nat) (b : List Byte) (long : Bool), s.canon = true → ∀ acr ∈ [Acr.fn 0, .mb],
    let u := s.setLatch acr 0
    (bits v 62 2 = 1 → bits v 0 62 = 0 → s.flag F.erqTstatBusy 0 = false → s.bundleStatus b long = 0 →
      ∃ t, exec (.bundleLoad acr v b long) s = .next t ∧ t.getF F.erqTstatStatus 0 = 0 ∧ t.getF F.erqTstatBundleid 0 = fieldAt b 8 4 % 2 ^ F.erqTstatBundleid.w ∧
        t.bundle = some ⟨fieldAt b 8 4, bit (fieldAt b 7 1) 0, fieldAt b 14 2, bundleItems b, (b.drop (64 + 128 * fieldAt b 12 2)).take (fieldAt b 16 4)⟩ ∧
        (∀ cl, (t.cluster cl).image = (s.cluster cl).image ∧ (t.cluster cl).testPos = 0 ∧ (t.cluster cl).testAt = none)) ∧
    (bits v 62 2 = 1 → bits v 0 62 = 0 → s.flag F.erqTstatBusy 0 = false → s.bundleStatus b long ≠ 0 →
      exec (.bundleLoad acr v b long) s = .next (u.tstat (s.bundleStatus b long))) ∧
    (bits v 62 2 = 2 → bits v 0 62 = 0 →
      ∃ t, exec (.bundleStop acr v) s = .next t ∧ t.bundle = none ∧ t.getF F.erqTstatBundleid 0 = 0 ∧ t.getF F.erqTstatStatus 0 = 0) ∧
    (∀ cl crc w, s.bundle = some w → s.testDue cl w = true →
      let x := s.cluster cl
      let item := w.items.getD (x.testPos % w.items.length) []
      let t := s.setCluster cl { x with testPos := (x.testPos + 1) % w.items.length, testAt := if x.testPos = 0 then some s.now else x.testAt }
      let r : Rec := { cls := 0x50, sev := if w.retire then 2 else 0, kind := 1, unit := cl, island := clusterIsland cl, op := some (item.take 64, 0, 0), addr := fieldAt item 120 8, syn := crc }
      let f := (t.bump F.cntTestFail cl 1).record r
      (crc = fieldAt item 120 8 → exec (.fleetTestItem cl crc) s = .next (t.bump F.cntTestPass cl 1)) ∧
      (crc ≠ fieldAt item 120 8 → exec (.fleetTestItem cl crc) s = .next (if w.retire then f.retireCluster cl 4 (some f.lastSeq) else f)))

/-! ### Numbers (Chapters 2, 6) -/

/-- A conversion to an integer format rounds under the selected mode, to nearest with ties to even or by its random field, and then saturates; NaN and zeros
give 0, an infinity the end of the range, a negative value in UINT8 0 (R59). -/
def Obligations.ConversionsToIntegersSaturate : Prop :=
  ∀ (f : Fmt) (ftz : Bool) (c : Cvt) (r : Option Nat), f.isInt = true →
    let lo := f.intRange.1
    let hi := f.intRange.2
    let conv := fun v => (encodeElem ftz c r f v).1
    conv .nan = 0 ∧ (∀ neg e, conv (.fin neg 0 e) = 0) ∧ conv (.inf false) = ofInt f.width hi ∧ conv (.inf true) = ofInt f.width lo ∧
    (f = .uint8 → ∀ mag e, conv (.fin true mag e) = 0) ∧
    (∀ neg mag e, ∃ k : Nat, conv (.fin neg mag e) = ofInt f.width (clampInt lo hi (if neg then -(k : Int) else k)) ∧
      (0 ≤ e → k = mag * 2 ^ e.toNat) ∧
      (e < 0 →
        (r = none → 2 * (k * 2 ^ (-e).toNat) ≤ 2 * mag + 2 ^ (-e).toNat ∧ 2 * mag ≤ 2 * (k * 2 ^ (-e).toNat) + 2 ^ (-e).toNat ∧
          (2 * mag + 2 ^ (-e).toNat = 2 * (k * 2 ^ (-e).toNat) ∨ 2 * mag = 2 * (k * 2 ^ (-e).toNat) + 2 ^ (-e).toNat → k % 2 = 0)) ∧
        (∀ x, r = some x → k = mag / 2 ^ (-e).toNat + if x < mag % 2 ^ (-e).toNat * 65536 / 2 ^ (-e).toNat then 1 else 0)))

/-- The integer operations of a VOP compute the exact integer result, which the store saturates to the output format (R151): sums, differences, products, and
shifts by the low five bits of the second operand; the bitwise ones work on 32-bit two's complement. Where it goes beyond the rules it is the model's
choice, log entry 27. -/
def Obligations.IntegerOperationsAreExact : Prop :=
  ∀ (v sub : Nat) (compat ftz : Bool) (c : Cvt) (r : Option Nat) (x y z : VEl) (f : Fmt), f ∈ [Fmt.int8, .uint8, .int16, .int32] →
    let a := x.int
    let b := y.int
    let out := (encodeElem ftz c r f (vopElem v sub compat x y z).val).1
    let sat := fun i => ofInt f.width (clampInt f.intRange.1 f.intRange.2 i)
    (v = 0x10 → out = sat (a + b)) ∧ (v = 0x11 → out = sat (a - b)) ∧ (v = 0x12 → out = sat (a * b)) ∧
    (v = 0x16 → out = sat (a * 2 ^ (b % 32).toNat)) ∧ (v = 0x17 → out = sat (a.fdiv (2 ^ (b % 32).toNat))) ∧
    (f = .int32 → v = 0x13 → out = ofInt 32 a &&& ofInt 32 b) ∧ (f = .int32 → v = 0x14 → out = ofInt 32 a ||| ofInt 32 b) ∧
    (f = .int32 → v = 0x15 → out = ofInt 32 a ^^^ ofInt 32 b)
end

