-- ==== Sys2Proof/Laws/Tab.lean ====
section
/-!
SUPPORT. Laws/Tab.lean: sparse tables: what a read finds after a write, and that every operation keeps the indices rising and the canonical form.
-/
namespace Sys2Proof.Machine

variable {α : Type}

theorem risesAbove_mono {lo lo' : Nat} (t : Tab α) (h : lo' ≤ lo) (ht : risesAbove lo t = true) : risesAbove lo' t = true := by
  cases t with
  | nil => rfl
  | cons e t => simp only [risesAbove, Bool.and_eq_true, decide_eq_true_eq] at ht ⊢; exact ⟨by omega, ht.2⟩

theorem twfAbove_mono [DecidableEq α] {d : Nat → α} {lo lo' : Nat} (t : Tab α) (h : lo' ≤ lo) (ht : twfAbove d lo t = true) :
    twfAbove d lo' t = true := by
  cases t with
  | nil => rfl
  | cons e t => simp only [twfAbove, Bool.and_eq_true, decide_eq_true_eq] at ht ⊢; exact ⟨⟨by omega, ht.1.2⟩, ht.2⟩

theorem twfAbove_rises [DecidableEq α] {d : Nat → α} {lo : Nat} (t : Tab α) (ht : twfAbove d lo t = true) : risesAbove lo t = true := by
  induction t generalizing lo with
  | nil => rfl
  | cons e t ih =>
    simp only [twfAbove, risesAbove, Bool.and_eq_true, decide_eq_true_eq] at ht ⊢
    exact ⟨ht.1.1, ih ht.2⟩

/-- A canonical table has rising indices. -/
theorem twf_rises [DecidableEq α] {d : Nat → α} {t : Tab α} (h : twf d t = true) : rises t = true := twfAbove_rises t h

/-- An index below the first listed one is unlisted. -/
theorem tget_below (d : Nat → α) {lo k : Nat} (t : Tab α) (h : risesAbove lo t = true) (hk : k < lo) : tget d t k = d k := by
  induction t generalizing lo with
  | nil => rfl
  | cons e t ih =>
    simp only [risesAbove, Bool.and_eq_true, decide_eq_true_eq] at h
    simp only [tget]
    rw [if_neg (by omega)]
    exact ih h.2 (by omega)

/-- A read finds the value that was written last at its index. -/
theorem tget_tset_same [DecidableEq α] (d : Nat → α) (t : Tab α) (k : Nat) (v : α) (h : rises t = true) : tget d (tset d t k v) k = v := by
  suffices g : ∀ lo, risesAbove lo t = true → tget d (tset d t k v) k = v from g 0 h
  clear h
  induction t with
  | nil => intro lo _; simp only [tset]; split <;> simp_all [tget]
  | cons e t ih =>
    intro lo h
    simp only [risesAbove, Bool.and_eq_true, decide_eq_true_eq] at h
    simp only [tset]
    split
    · split
      · next hv => simp only [tget]; rw [if_neg (by omega), tget_below d t h.2 (by omega), hv]
      · simp [tget]
    · split
      · next hk =>
        split
        · next hv => rw [tget_below d t h.2 (by omega), hv]
        · simp [tget]
      · simp only [tget]; rw [if_neg (by omega)]; exact ih _ h.2

/-- A write leaves what reads at every other index find. -/
theorem tget_tset_ne [DecidableEq α] (d d' : Nat → α) (t : Tab α) {k j : Nat} (v : α) (h : j ≠ k) : tget d (tset d' t k v) j = tget d t j := by
  induction t with
  | nil => simp only [tset]; split <;> simp [tget, Ne.symm h]
  | cons e t ih =>
    simp only [tset]
    split
    · split
      · rfl
      · simp only [tget]; rw [if_neg (Ne.symm h)]
    · split
      · next hk =>
        have hj : e.1 ≠ j := by omega
        split
        · simp only [tget]; rw [if_neg hj]
        · simp only [tget]; rw [if_neg hj, if_neg (Ne.symm h)]
      · simp only [tget]; rw [ih]

theorem risesAbove_tset [DecidableEq α] {d : Nat → α} {lo k : Nat} (t : Tab α) (v : α) (hk : lo ≤ k) (h : risesAbove lo t = true) :
    risesAbove lo (tset d t k v) = true := by
  induction t generalizing lo with
  | nil => simp only [tset]; split <;> simp [risesAbove, hk]
  | cons e t ih =>
    simp only [risesAbove, Bool.and_eq_true, decide_eq_true_eq] at h
    simp only [tset]
    split
    · split
      · simpa [risesAbove] using h
      · simp only [risesAbove, Bool.and_eq_true, decide_eq_true_eq]; exact ⟨hk, by omega, h.2⟩
    · split
      · next hk' =>
        split
        · exact risesAbove_mono t (by omega) h.2
        · simp only [risesAbove, Bool.and_eq_true, decide_eq_true_eq]; exact ⟨hk, hk' ▸ h.2⟩
      · simp only [risesAbove, Bool.and_eq_true, decide_eq_true_eq]; exact ⟨h.1, ih (by omega) h.2⟩

theorem twfAbove_tset [DecidableEq α] {d : Nat → α} {lo k : Nat} (t : Tab α) (v : α) (hk : lo ≤ k) (h : twfAbove d lo t = true) :
    twfAbove d lo (tset d t k v) = true := by
  induction t generalizing lo with
  | nil => simp only [tset]; split <;> simp [twfAbove, *]
  | cons e t ih =>
    simp only [twfAbove, Bool.and_eq_true, decide_eq_true_eq] at h
    simp only [tset]
    split
    · split
      · simpa [twfAbove] using h
      · next hv => simp only [twfAbove, Bool.and_eq_true, decide_eq_true_eq]; exact ⟨⟨hk, hv⟩, ⟨by omega, h.1.2⟩, h.2⟩
    · split
      · next hk' =>
        split
        · exact twfAbove_mono t (by omega) h.2
        · next hv => simp only [twfAbove, Bool.and_eq_true, decide_eq_true_eq]; exact ⟨⟨hk, hv⟩, hk' ▸ h.2⟩
      · simp only [twfAbove, Bool.and_eq_true, decide_eq_true_eq]; exact ⟨h.1, ih (by omega) h.2⟩

/-- A write keeps the indices rising. -/
theorem rises_tset [DecidableEq α] {d : Nat → α} {t : Tab α} (k : Nat) (v : α) (h : rises t = true) : rises (tset d t k v) = true :=
  risesAbove_tset t v (Nat.zero_le k) h

/-- A write keeps the canonical form. -/
theorem twf_tset [DecidableEq α] {d : Nat → α} {t : Tab α} (k : Nat) (v : α) (h : twf d t = true) : twf d (tset d t k v) = true :=
  twfAbove_tset t v (Nat.zero_le k) h

theorem risesAbove_filter {lo : Nat} (p : Nat × α → Bool) (t : Tab α) (h : risesAbove lo t = true) : risesAbove lo (t.filter p) = true := by
  induction t generalizing lo with
  | nil => rfl
  | cons e t ih =>
    simp only [risesAbove, Bool.and_eq_true, decide_eq_true_eq] at h
    rw [List.filter_cons]
    split
    · simp only [risesAbove, Bool.and_eq_true, decide_eq_true_eq]; exact ⟨h.1, ih h.2⟩
    · exact risesAbove_mono _ (by omega) (ih h.2)

theorem twfAbove_filter [DecidableEq α] {d : Nat → α} {lo : Nat} (p : Nat × α → Bool) (t : Tab α) (h : twfAbove d lo t = true) :
    twfAbove d lo (t.filter p) = true := by
  induction t generalizing lo with
  | nil => rfl
  | cons e t ih =>
    simp only [twfAbove, Bool.and_eq_true, decide_eq_true_eq] at h
    rw [List.filter_cons]
    split
    · simp only [twfAbove, Bool.and_eq_true, decide_eq_true_eq]; exact ⟨h.1, ih h.2⟩
    · exact twfAbove_mono _ (by omega) (ih h.2)

/-- Dropping entries keeps the indices rising. -/
theorem rises_filter {t : Tab α} (p : Nat × α → Bool) (h : rises t = true) : rises (t.filter p) = true := risesAbove_filter p t h

/-- Dropping entries keeps the canonical form. -/
theorem twf_filter [DecidableEq α] {d : Nat → α} {t : Tab α} (p : Nat × α → Bool) (h : twf d t = true) : twf d (t.filter p) = true :=
  twfAbove_filter p t h

/-- Clearing keeps the indices rising. -/
theorem rises_tclear {t : Tab α} (p : Nat → Bool) (h : rises t = true) : rises (tclear p t) = true := rises_filter _ h

/-- Clearing keeps the canonical form. -/
theorem twf_tclear [DecidableEq α] {d : Nat → α} {t : Tab α} (p : Nat → Bool) (h : twf d t = true) : twf d (tclear p t) = true :=
  twf_filter _ h

theorem risesAbove_map {β : Type} {lo : Nat} (f : Nat × α → Nat × β) (hf : ∀ e, (f e).1 = e.1) (t : Tab α) (h : risesAbove lo t = true) :
    risesAbove lo (t.map f) = true := by
  induction t generalizing lo with
  | nil => rfl
  | cons e t ih =>
    simp only [risesAbove, Bool.and_eq_true, decide_eq_true_eq] at h
    simp only [List.map_cons, risesAbove, Bool.and_eq_true, decide_eq_true_eq, hf]
    exact ⟨h.1, ih h.2⟩

/-- Changing values only keeps the indices rising. -/
theorem rises_map {β : Type} (f : Nat × α → Nat × β) (hf : ∀ e, (f e).1 = e.1) {t : Tab α} (h : rises t = true) : rises (t.map f) = true :=
  risesAbove_map f hf t h

/-- A read finds the unlisted value where a clearing reached, and the old value elsewhere. -/
theorem tget_tclear (d : Nat → α) (p : Nat → Bool) (t : Tab α) (k : Nat) : tget d (tclear p t) k = if p k then d k else tget d t k := by
  unfold tclear
  induction t with
  | nil => simp [tget]
  | cons e t ih =>
    rw [List.filter_cons]
    by_cases hp : p e.1
    · rw [if_neg (by simp [hp]), ih]
      by_cases hk : e.1 = k
      · subst hk; simp [hp]
      · simp [tget, hk]
    · rw [if_pos (by simp [hp])]
      simp only [tget]
      rw [ih]
      by_cases hk : e.1 = k
      · subst hk; simp [hp]
      · simp [hk]

end Sys2Proof.Machine
end

