-- ==== Sys2Proof/Laws/Kept.lean ====
section
/-!
SUPPORT. Laws/Kept.lean: what an operation may change: only the components `E` differ from a first state, and the canonical forms of that state
still hold. One lemma for each component.
-/
namespace Sys2Proof.Machine

/-- From `s0` to `s` only components in `E` have changed, and canonical tables are still canonical. -/
def Kept (E : Comp → Prop) (s0 s : State) : Prop := (∀ c, ¬E c → c.agree s0 s) ∧ (s0.canon = true → s.canon = true)

variable {E : Comp → Prop} {s0 s : State}

theorem Kept.refl (s : State) : Kept E s s := ⟨fun c _ => by cases c <;> rfl, fun h => h⟩

theorem State.canon_iff : s.canon = true ↔ Memory.wf s.mem = true ∧ twf (fun _ => 0) s.ecc = true ∧ rises s.regs = true ∧ rises s.latch = true ∧ rises s.ctxs = true ∧ rises s.queues = true ∧ rises s.clusters = true ∧ rises s.agents = true ∧ rises s.evseq = true ∧ rises s.ports = true ∧ rises s.streams = true ∧ rises s.engines = true ∧ rises s.sites = true ∧ rises s.msixs = true ∧ rises s.straits = true ∧ rises s.flash.regions = true := by
  simp only [State.canon, Bool.and_eq_true, and_assoc]

/-- What is left to show when a step changes the components `E` only. -/
theorem Kept.trans_of {t : State} (h : Kept E s0 s) (ha : ∀ c, ¬E c → c.agree s t) (hc : s.canon = true → t.canon = true) : Kept E s0 t :=
  ⟨fun c e => by
    have a := h.1 c e
    have b := ha c e
    cases c <;> exact Eq.trans a b, fun w => hc (h.2 w)⟩

theorem Kept.regs (h : Kept E s0 s) (w : s0.canon = true) : rises s.regs = true := (State.canon_iff.1 (h.2 w)).2.2.1

theorem kept_regs (v : _) (h : Kept E s0 s) (hv : rises s.regs = true → rises v = true) (e_regs : E .regs := by assumption) : Kept E s0 { s with regs := v } := by
  refine h.trans_of (fun c n => by cases c <;> first | rfl | exact absurd (by assumption) n) fun w => ?_
  have g := State.canon_iff.1 w
  exact State.canon_iff.2 (by simp_all)

theorem kept_latch (v : _) (h : Kept E s0 s) (hv : rises s.latch = true → rises v = true) (e_latch : E .latch := by assumption) : Kept E s0 { s with latch := v } := by
  refine h.trans_of (fun c n => by cases c <;> first | rfl | exact absurd (by assumption) n) fun w => ?_
  have g := State.canon_iff.1 w
  exact State.canon_iff.2 (by simp_all)

theorem kept_mem (v : _) (h : Kept E s0 s) (hv : Memory.wf s.mem = true → Memory.wf v = true) (e_mem : E .mem := by assumption) : Kept E s0 { s with mem := v } := by
  refine h.trans_of (fun c n => by cases c <;> first | rfl | exact absurd (by assumption) n) fun w => ?_
  have g := State.canon_iff.1 w
  exact State.canon_iff.2 (by simp_all)

theorem kept_ecc (v : _) (h : Kept E s0 s) (hv : twf (fun _ => 0) s.ecc = true → twf (fun _ => 0) v = true) (e_ecc : E .ecc := by assumption) : Kept E s0 { s with ecc := v } := by
  refine h.trans_of (fun c n => by cases c <;> first | rfl | exact absurd (by assumption) n) fun w => ?_
  have g := State.canon_iff.1 w
  exact State.canon_iff.2 (by simp_all)

theorem kept_ctxs (v : _) (h : Kept E s0 s) (hv : rises s.ctxs = true → rises v = true) (e_ctxs : E .ctxs := by assumption) : Kept E s0 { s with ctxs := v } := by
  refine h.trans_of (fun c n => by cases c <;> first | rfl | exact absurd (by assumption) n) fun w => ?_
  have g := State.canon_iff.1 w
  exact State.canon_iff.2 (by simp_all)

theorem kept_queues (v : _) (h : Kept E s0 s) (hv : rises s.queues = true → rises v = true) (e_queues : E .queues := by assumption) : Kept E s0 { s with queues := v } := by
  refine h.trans_of (fun c n => by cases c <;> first | rfl | exact absurd (by assumption) n) fun w => ?_
  have g := State.canon_iff.1 w
  exact State.canon_iff.2 (by simp_all)

theorem kept_cmds (e_cmds : E .cmds) (v : _) : Kept E s0 { s with cmds := v } ↔ Kept E s0 s :=
  ⟨fun h => h.trans_of (fun c n => by cases c <;> first | rfl | exact absurd (by assumption) n) (fun w => w), fun h => h.trans_of (fun c n => by cases c <;> first | rfl | exact absurd (by assumption) n) (fun w => w)⟩

theorem kept_nextCmd (e_nextCmd : E .nextCmd) (v : _) : Kept E s0 { s with nextCmd := v } ↔ Kept E s0 s :=
  ⟨fun h => h.trans_of (fun c n => by cases c <;> first | rfl | exact absurd (by assumption) n) (fun w => w), fun h => h.trans_of (fun c n => by cases c <;> first | rfl | exact absurd (by assumption) n) (fun w => w)⟩

theorem kept_fences (e_fences : E .fences) (v : _) : Kept E s0 { s with fences := v } ↔ Kept E s0 s :=
  ⟨fun h => h.trans_of (fun c n => by cases c <;> first | rfl | exact absurd (by assumption) n) (fun w => w), fun h => h.trans_of (fun c n => by cases c <;> first | rfl | exact absurd (by assumption) n) (fun w => w)⟩

theorem kept_clusters (v : _) (h : Kept E s0 s) (hv : rises s.clusters = true → rises v = true) (e_clusters : E .clusters := by assumption) : Kept E s0 { s with clusters := v } := by
  refine h.trans_of (fun c n => by cases c <;> first | rfl | exact absurd (by assumption) n) fun w => ?_
  have g := State.canon_iff.1 w
  exact State.canon_iff.2 (by simp_all)

theorem kept_flash (v : Flash) (h : Kept E s0 s) (hv : rises s.flash.regions = true → rises v.regions = true) (e_flash : E .flash := by assumption) : Kept E s0 { s with flash := v } := by
  refine h.trans_of (fun c n => by cases c <;> first | rfl | exact absurd (by assumption) n) fun w => ?_
  have g := State.canon_iff.1 w
  exact State.canon_iff.2 (by simp_all)

theorem kept_agents (v : _) (h : Kept E s0 s) (hv : rises s.agents = true → rises v = true) (e_agents : E .agents := by assumption) : Kept E s0 { s with agents := v } := by
  refine h.trans_of (fun c n => by cases c <;> first | rfl | exact absurd (by assumption) n) fun w => ?_
  have g := State.canon_iff.1 w
  exact State.canon_iff.2 (by simp_all)

theorem kept_evseq (v : _) (h : Kept E s0 s) (hv : rises s.evseq = true → rises v = true) (e_evseq : E .evseq := by assumption) : Kept E s0 { s with evseq := v } := by
  refine h.trans_of (fun c n => by cases c <;> first | rfl | exact absurd (by assumption) n) fun w => ?_
  have g := State.canon_iff.1 w
  exact State.canon_iff.2 (by simp_all)

theorem kept_erq (e_erq : E .erq) (v : _) : Kept E s0 { s with erq := v } ↔ Kept E s0 s :=
  ⟨fun h => h.trans_of (fun c n => by cases c <;> first | rfl | exact absurd (by assumption) n) (fun w => w), fun h => h.trans_of (fun c n => by cases c <;> first | rfl | exact absurd (by assumption) n) (fun w => w)⟩

theorem kept_rseq (e_rseq : E .rseq) (v : _) : Kept E s0 { s with rseq := v } ↔ Kept E s0 s :=
  ⟨fun h => h.trans_of (fun c n => by cases c <;> first | rfl | exact absurd (by assumption) n) (fun w => w), fun h => h.trans_of (fun c n => by cases c <;> first | rfl | exact absurd (by assumption) n) (fun w => w)⟩

theorem kept_fwLog (e_fwLog : E .fwLog) (v : _) : Kept E s0 { s with fwLog := v } ↔ Kept E s0 s :=
  ⟨fun h => h.trans_of (fun c n => by cases c <;> first | rfl | exact absurd (by assumption) n) (fun w => w), fun h => h.trans_of (fun c n => by cases c <;> first | rfl | exact absurd (by assumption) n) (fun w => w)⟩

theorem kept_folded (e_folded : E .folded) (v : _) : Kept E s0 { s with folded := v } ↔ Kept E s0 s :=
  ⟨fun h => h.trans_of (fun c n => by cases c <;> first | rfl | exact absurd (by assumption) n) (fun w => w), fun h => h.trans_of (fun c n => by cases c <;> first | rfl | exact absurd (by assumption) n) (fun w => w)⟩

theorem kept_handling (e_handling : E .handling) (v : _) : Kept E s0 { s with handling := v } ↔ Kept E s0 s :=
  ⟨fun h => h.trans_of (fun c n => by cases c <;> first | rfl | exact absurd (by assumption) n) (fun w => w), fun h => h.trans_of (fun c n => by cases c <;> first | rfl | exact absurd (by assumption) n) (fun w => w)⟩

theorem kept_retired (e_retired : E .retired) (v : _) : Kept E s0 { s with retired := v } ↔ Kept E s0 s :=
  ⟨fun h => h.trans_of (fun c n => by cases c <;> first | rfl | exact absurd (by assumption) n) (fun w => w), fun h => h.trans_of (fun c n => by cases c <;> first | rfl | exact absurd (by assumption) n) (fun w => w)⟩

theorem kept_clearRetired (e_clearRetired : E .clearRetired) (v : _) : Kept E s0 { s with clearRetired := v } ↔ Kept E s0 s :=
  ⟨fun h => h.trans_of (fun c n => by cases c <;> first | rfl | exact absurd (by assumption) n) (fun w => w), fun h => h.trans_of (fun c n => by cases c <;> first | rfl | exact absurd (by assumption) n) (fun w => w)⟩

theorem kept_lostIslands (e_lostIslands : E .lostIslands) (v : _) : Kept E s0 { s with lostIslands := v } ↔ Kept E s0 s :=
  ⟨fun h => h.trans_of (fun c n => by cases c <;> first | rfl | exact absurd (by assumption) n) (fun w => w), fun h => h.trans_of (fun c n => by cases c <;> first | rfl | exact absurd (by assumption) n) (fun w => w)⟩

theorem kept_ports (v : _) (h : Kept E s0 s) (hv : rises s.ports = true → rises v = true) (e_ports : E .ports := by assumption) : Kept E s0 { s with ports := v } := by
  refine h.trans_of (fun c n => by cases c <;> first | rfl | exact absurd (by assumption) n) fun w => ?_
  have g := State.canon_iff.1 w
  exact State.canon_iff.2 (by simp_all)

theorem kept_arch (e_arch : E .arch) (v : _) : Kept E s0 { s with arch := v } ↔ Kept E s0 s :=
  ⟨fun h => h.trans_of (fun c n => by cases c <;> first | rfl | exact absurd (by assumption) n) (fun w => w), fun h => h.trans_of (fun c n => by cases c <;> first | rfl | exact absurd (by assumption) n) (fun w => w)⟩

theorem kept_streams (v : _) (h : Kept E s0 s) (hv : rises s.streams = true → rises v = true) (e_streams : E .streams := by assumption) : Kept E s0 { s with streams := v } := by
  refine h.trans_of (fun c n => by cases c <;> first | rfl | exact absurd (by assumption) n) fun w => ?_
  have g := State.canon_iff.1 w
  exact State.canon_iff.2 (by simp_all)

theorem kept_engines (v : _) (h : Kept E s0 s) (hv : rises s.engines = true → rises v = true) (e_engines : E .engines := by assumption) : Kept E s0 { s with engines := v } := by
  refine h.trans_of (fun c n => by cases c <;> first | rfl | exact absurd (by assumption) n) fun w => ?_
  have g := State.canon_iff.1 w
  exact State.canon_iff.2 (by simp_all)

theorem kept_sites (v : _) (h : Kept E s0 s) (hv : rises s.sites = true → rises v = true) (e_sites : E .sites := by assumption) : Kept E s0 { s with sites := v } := by
  refine h.trans_of (fun c n => by cases c <;> first | rfl | exact absurd (by assumption) n) fun w => ?_
  have g := State.canon_iff.1 w
  exact State.canon_iff.2 (by simp_all)

theorem kept_memOp (e_memOp : E .memOp) (v : _) : Kept E s0 { s with memOp := v } ↔ Kept E s0 s :=
  ⟨fun h => h.trans_of (fun c n => by cases c <;> first | rfl | exact absurd (by assumption) n) (fun w => w), fun h => h.trans_of (fun c n => by cases c <;> first | rfl | exact absurd (by assumption) n) (fun w => w)⟩

theorem kept_boot (e_boot : E .boot) (v : _) : Kept E s0 { s with boot := v } ↔ Kept E s0 s :=
  ⟨fun h => h.trans_of (fun c n => by cases c <;> first | rfl | exact absurd (by assumption) n) (fun w => w), fun h => h.trans_of (fun c n => by cases c <;> first | rfl | exact absurd (by assumption) n) (fun w => w)⟩

theorem kept_seqr (e_seqr : E .seqr) (v : _) : Kept E s0 { s with seqr := v } ↔ Kept E s0 s :=
  ⟨fun h => h.trans_of (fun c n => by cases c <;> first | rfl | exact absurd (by assumption) n) (fun w => w), fun h => h.trans_of (fun c n => by cases c <;> first | rfl | exact absurd (by assumption) n) (fun w => w)⟩

theorem kept_pins (e_pins : E .pins) (v : _) : Kept E s0 { s with pins := v } ↔ Kept E s0 s :=
  ⟨fun h => h.trans_of (fun c n => by cases c <;> first | rfl | exact absurd (by assumption) n) (fun w => w), fun h => h.trans_of (fun c n => by cases c <;> first | rfl | exact absurd (by assumption) n) (fun w => w)⟩

theorem kept_power (e_power : E .power) (v : _) : Kept E s0 { s with power := v } ↔ Kept E s0 s :=
  ⟨fun h => h.trans_of (fun c n => by cases c <;> first | rfl | exact absurd (by assumption) n) (fun w => w), fun h => h.trans_of (fun c n => by cases c <;> first | rfl | exact absurd (by assumption) n) (fun w => w)⟩

theorem kept_bundle (e_bundle : E .bundle) (v : _) : Kept E s0 { s with bundle := v } ↔ Kept E s0 s :=
  ⟨fun h => h.trans_of (fun c n => by cases c <;> first | rfl | exact absurd (by assumption) n) (fun w => w), fun h => h.trans_of (fun c n => by cases c <;> first | rfl | exact absurd (by assumption) n) (fun w => w)⟩

theorem kept_msixs (v : _) (h : Kept E s0 s) (hv : rises s.msixs = true → rises v = true) (e_msixs : E .msixs := by assumption) : Kept E s0 { s with msixs := v } := by
  refine h.trans_of (fun c n => by cases c <;> first | rfl | exact absurd (by assumption) n) fun w => ?_
  have g := State.canon_iff.1 w
  exact State.canon_iff.2 (by simp_all)

theorem kept_pcieLanes (e_pcieLanes : E .pcieLanes) (v : _) : Kept E s0 { s with pcieLanes := v } ↔ Kept E s0 s :=
  ⟨fun h => h.trans_of (fun c n => by cases c <;> first | rfl | exact absurd (by assumption) n) (fun w => w), fun h => h.trans_of (fun c n => by cases c <;> first | rfl | exact absurd (by assumption) n) (fun w => w)⟩

theorem kept_straits (v : _) (h : Kept E s0 s) (hv : rises s.straits = true → rises v = true) (e_straits : E .straits := by assumption) : Kept E s0 { s with straits := v } := by
  refine h.trans_of (fun c n => by cases c <;> first | rfl | exact absurd (by assumption) n) fun w => ?_
  have g := State.canon_iff.1 w
  exact State.canon_iff.2 (by simp_all)

theorem kept_fresh (e_fresh : E .fresh) (v : _) : Kept E s0 { s with fresh := v } ↔ Kept E s0 s :=
  ⟨fun h => h.trans_of (fun c n => by cases c <;> first | rfl | exact absurd (by assumption) n) (fun w => w), fun h => h.trans_of (fun c n => by cases c <;> first | rfl | exact absurd (by assumption) n) (fun w => w)⟩

theorem kept_out (e_out : E .out) (v : _) : Kept E s0 { s with out := v } ↔ Kept E s0 s :=
  ⟨fun h => h.trans_of (fun c n => by cases c <;> first | rfl | exact absurd (by assumption) n) (fun w => w), fun h => h.trans_of (fun c n => by cases c <;> first | rfl | exact absurd (by assumption) n) (fun w => w)⟩

theorem kept_mem_ecc (v v' : _) (h : Kept E s0 s) (hv : Memory.wf s.mem = true → Memory.wf v = true)
    (hv' : twf (fun _ => 0) s.ecc = true → twf (fun _ => 0) v' = true) (e_mem : E .mem := by assumption) (e_ecc : E .ecc := by assumption) :
    Kept E s0 { s with mem := v, ecc := v' } :=
  kept_ecc (s := { s with mem := v }) v' (kept_mem v h hv) hv'

theorem kept_regs_evseq (v v' : _) (h : Kept E s0 s) (hv : rises s.regs = true → rises v = true)
    (hv' : rises s.evseq = true → rises v' = true) (e_regs : E .regs := by assumption) (e_evseq : E .evseq := by assumption) :
    Kept E s0 { s with regs := v, evseq := v' } :=
  kept_evseq (s := { s with regs := v }) v' (kept_regs v h hv) hv'

theorem kept_retired_clear (e_retired : E .retired) (e_clearRetired : E .clearRetired) (v v' : _) : Kept E s0 { s with retired := v, clearRetired := v' } ↔ Kept E s0 s :=
  ⟨fun h => h.trans_of (fun c n => by cases c <;> first | rfl | exact absurd (by assumption) n) (fun w => w), fun h => h.trans_of (fun c n => by cases c <;> first | rfl | exact absurd (by assumption) n) (fun w => w)⟩

theorem kept_cmds_fences (e_cmds : E .cmds) (e_fences : E .fences) (v v' : _) : Kept E s0 { s with cmds := v, fences := v' } ↔ Kept E s0 s :=
  ⟨fun h => h.trans_of (fun c n => by cases c <;> first | rfl | exact absurd (by assumption) n) (fun w => w), fun h => h.trans_of (fun c n => by cases c <;> first | rfl | exact absurd (by assumption) n) (fun w => w)⟩

theorem kept_next_cmds (e_nextCmd : E .nextCmd) (e_cmds : E .cmds) (v v' : _) : Kept E s0 { s with nextCmd := v, cmds := v' } ↔ Kept E s0 s :=
  ⟨fun h => h.trans_of (fun c n => by cases c <;> first | rfl | exact absurd (by assumption) n) (fun w => w), fun h => h.trans_of (fun c n => by cases c <;> first | rfl | exact absurd (by assumption) n) (fun w => w)⟩

theorem kept_clusters_lost (h : Kept E s0 s) (e_clusters : E .clusters := by assumption) (e_lostIslands : E .lostIslands := by assumption) :
    Kept E s0 { s with clusters := [], lostIslands := [] } :=
  kept_clusters (s := { s with lostIslands := [] }) _ ((kept_lostIslands e_lostIslands _).2 h) (fun _ => rfl)

theorem kept_mem_nil (h : Kept E s0 s) (e_mem : E .mem := by assumption) (e_ecc : E .ecc := by assumption) :
    Kept E s0 { s with mem := [], ecc := [] } := kept_mem_ecc _ _ h (fun _ => rfl) (fun _ => rfl)

theorem kept_no_mem (v : _) (h : Kept E s0 s) (e_memOp : E .memOp := by assumption) (e_mem : E .mem := by assumption)
    (e_ecc : E .ecc := by assumption) : Kept E s0 { s with memOp := v, mem := [], ecc := [] } :=
  kept_mem_ecc (s := { s with memOp := v }) _ _ ((kept_memOp e_memOp _).2 h) (fun _ => rfl) (fun _ => rfl)

theorem kept_clusters_nil (h : Kept E s0 s) (e_clusters : E .clusters := by assumption) : Kept E s0 { s with clusters := [] } :=
  kept_clusters _ h (fun _ => rfl)

theorem kept_msixs_nil (h : Kept E s0 s) (e_msixs : E .msixs := by assumption) : Kept E s0 { s with msixs := [] } :=
  kept_msixs _ h (fun _ => rfl)

theorem kept_ite {c : Prop} [Decidable c] {a b : State} (ha : Kept E s0 a) (hb : Kept E s0 b) : Kept E s0 (if c then a else b) := by
  split <;> assumption

theorem kept_foldl {α : Type} (f : State → α → State) (hf : ∀ t x, Kept E s0 t → Kept E s0 (f t x)) (xs : List α) {s : State} (h : Kept E s0 s) :
    Kept E s0 (xs.foldl f s) := by
  induction xs generalizing s with
  | nil => exact h
  | cons x xs ih => exact ih (hf s x h)

theorem kept_foldl_fst {α β : Type} (f : State × β → α → State × β) (hf : ∀ t x, Kept E s0 t.1 → Kept E s0 (f t x).1) (xs : List α) {a : State × β}
    (h : Kept E s0 a.1) : Kept E s0 (xs.foldl f a).1 := by
  induction xs generalizing a with
  | nil => exact h
  | cons x xs ih => exact ih (hf a x h)

theorem kept_foldl_mid {α β γ : Type} (f : β × State × γ → α → β × State × γ) (hf : ∀ t x, Kept E s0 t.2.1 → Kept E s0 (f t x).2.1) (xs : List α)
    {a : β × State × γ} (h : Kept E s0 a.2.1) : Kept E s0 (xs.foldl f a).2.1 := by
  induction xs generalizing a with
  | nil => exact h
  | cons x xs ih => exact ih (hf a x h)

theorem kept_foldl_last {α β γ : Type} (f : β × γ × State → α → β × γ × State) (hf : ∀ t x, Kept E s0 t.2.2 → Kept E s0 (f t x).2.2) (xs : List α)
    {a : β × γ × State} (h : Kept E s0 a.2.2) : Kept E s0 (xs.foldl f a).2.2 := by
  induction xs generalizing a with
  | nil => exact h
  | cons x xs ih => exact ih (hf a x h)

end Sys2Proof.Machine
end

