-- ==== Sys2Proof/Laws/KeptOps.lean ====
section
/-!
SUPPORT. Laws/KeptOps.lean: the operations of Machine/Ops.lean change neither the queue nor the canonical forms.
-/
namespace Sys2Proof.Machine

set_option Elab.async false
set_option linter.all false

variable {E : Comp → Prop} {s0 : State}

theorem State.setF_kept (s : State) (f : Fld) (i : Nat) (v : Nat) (h0 : Kept E s0 s) (e_regs : E .regs := by assumption) : Kept E s0 (State.setF s f i v) := by
  exact kept_regs _ h0 (rises_tset _ _)

theorem State.bump_kept (s : State) (f : Fld) (i : Nat) (n : Nat) (h0 : Kept E s0 s) (e_regs : E .regs := by assumption) : Kept E s0 (State.bump s f i n) := by
  delta State.bump
  repeat' (first
    | (with_reducible first | assumption | apply State.setF_kept)
    | dsimp only)

theorem State.bumpSat_kept (s : State) (f : Fld) (i : Nat) (n : Nat) (h0 : Kept E s0 s) (e_regs : E .regs := by assumption) : Kept E s0 (State.bumpSat s f i n) := by
  delta State.bumpSat
  repeat' (first
    | (with_reducible first | assumption | apply State.setF_kept)
    | dsimp only)

theorem State.clearRegs_kept (s : State) (p : Nat → Nat → Bool) (h0 : Kept E s0 s) (e_regs : E .regs := by assumption) : Kept E s0 (State.clearRegs s p) := by
  exact kept_regs _ h0 (rises_tclear _)

theorem State.emit_kept (s : State) (o : Out) (h0 : Kept E s0 s) (e_out : E .out := by assumption) : Kept E s0 (State.emit s o) := by
  delta State.emit
  repeat' (first
    | (with_reducible first | assumption)
    | simp only [kept_out e_out]
    | dsimp only)

theorem State.bumpFresh_kept (s : State) (n : Nat) (h0 : Kept E s0 s) (e_fresh : E .fresh := by assumption) : Kept E s0 (State.bumpFresh s n) := by
  delta State.bumpFresh
  repeat' (first
    | (with_reducible first | assumption)
    | simp only [kept_fresh e_fresh]
    | dsimp only)

theorem State.showOldest_kept (s : State) (h0 : Kept E s0 s) (e_regs : E .regs := by assumption) : Kept E s0 (State.showOldest s) := by
  delta State.showOldest
  repeat' (first
    | (refine fun _ => ?_)
    | (with_reducible first | assumption | apply State.setF_kept | apply kept_foldl)
    | (extract_lets +onlyGivenNames z
       first
         | (refine (show Kept E s0 z → _ from fun hz => ?_) ?_; clear_value z; rotate_left; dsimp only [z]; rotate_left)
         | clear_value z)
    | dsimp only)

theorem State.setMsix_kept (s : State) (fn : Nat) (m : Msix) (h0 : Kept E s0 s) (e_msixs : E .msixs := by assumption) : Kept E s0 (State.setMsix s fn m) := by
  exact kept_msixs _ h0 (rises_tset _ _)

theorem State.sendMsix_kept (s : State) (fn vec : Nat) (h0 : Kept E s0 s) (e_msixs : E .msixs := by assumption) (e_out : E .out := by assumption) : Kept E s0 (State.sendMsix s fn vec) := by
  delta State.sendMsix
  repeat' (first
    | (with_reducible first | assumption | apply State.emit_kept | apply State.setMsix_kept | apply kept_ite)
    | (extract_lets +onlyGivenNames z
       first
         | (refine (show Kept E s0 z → _ from fun hz => ?_) ?_; clear_value z; rotate_left; dsimp only [z]; rotate_left)
         | clear_value z)
    | split
    | dsimp only)

theorem State.raiseEvt_kept (s : State) (fn : Nat) (f : Fld) (h0 : Kept E s0 s) (e_msixs : E .msixs := by assumption) (e_out : E .out := by assumption) (e_regs : E .regs := by assumption) : Kept E s0 (State.raiseEvt s fn f) := by
  delta State.raiseEvt
  repeat' (first
    | (with_reducible first | assumption | apply State.sendMsix_kept | apply State.setF_kept | apply kept_ite)
    | (extract_lets +onlyGivenNames z
       first
         | (refine (show Kept E s0 z → _ from fun hz => ?_) ?_; clear_value z; rotate_left; dsimp only [z]; rotate_left)
         | clear_value z)
    | split
    | dsimp only)

theorem State.appendRec_kept (s : State) (sev : Nat) (b : List Byte) (h0 : Kept E s0 s) (e_erq : E .erq := by assumption) (e_fwLog : E .fwLog := by assumption) (e_msixs : E .msixs := by assumption) (e_out : E .out := by assumption) (e_regs : E .regs := by assumption) (e_rseq : E .rseq := by assumption) : Kept E s0 (State.appendRec s sev b) := by
  delta State.appendRec
  repeat' (first
    | (refine fun _ => ?_)
    | (with_reducible first | assumption | apply State.bumpSat_kept | apply State.emit_kept | apply State.raiseEvt_kept | apply State.setF_kept | apply State.showOldest_kept | apply kept_ite | apply kept_foldl)
    | simp only [kept_erq e_erq, kept_rseq e_rseq, kept_fwLog e_fwLog]
    | (extract_lets +onlyGivenNames z
       first
         | (refine (show Kept E s0 z → _ from fun hz => ?_) ?_; clear_value z; rotate_left; dsimp only [z]; rotate_left)
         | clear_value z)
    | split
    | dsimp only)

theorem State.record_kept (s : State) (r : Rec) (h0 : Kept E s0 s) (e_erq : E .erq := by assumption) (e_folded : E .folded := by assumption) (e_fwLog : E .fwLog := by assumption) (e_msixs : E .msixs := by assumption) (e_out : E .out := by assumption) (e_regs : E .regs := by assumption) (e_rseq : E .rseq := by assumption) : Kept E s0 (State.record s r) := by
  delta State.record
  repeat' (first
    | (refine fun _ => ?_)
    | (with_reducible first | assumption | apply State.appendRec_kept | apply State.setF_kept | apply kept_ite)
    | simp only [kept_folded e_folded]
    | (extract_lets +onlyGivenNames z
       first
         | (refine (show Kept E s0 z → _ from fun hz => ?_) ?_; clear_value z; rotate_left; dsimp only [z]; rotate_left)
         | clear_value z)
    | split
    | dsimp only)

theorem State.writeFolded_kept (s : State) (h0 : Kept E s0 s) (e_erq : E .erq := by assumption) (e_folded : E .folded := by assumption) (e_fwLog : E .fwLog := by assumption) (e_msixs : E .msixs := by assumption) (e_out : E .out := by assumption) (e_regs : E .regs := by assumption) (e_rseq : E .rseq := by assumption) : Kept E s0 (State.writeFolded s) := by
  delta State.writeFolded
  repeat' (first
    | (refine fun _ => ?_)
    | (with_reducible first | assumption | apply State.appendRec_kept | apply kept_foldl)
    | simp only [kept_folded e_folded]
    | (extract_lets +onlyGivenNames z
       first
         | (refine (show Kept E s0 z → _ from fun hz => ?_) ?_; clear_value z; rotate_left; dsimp only [z]; rotate_left)
         | clear_value z)
    | dsimp only)

end Sys2Proof.Machine
end

