-- ==== Sys2Proof/Laws/KeptMemory.lean ====
section
/-!
SUPPORT. Laws/KeptMemory.lean: the operations of Machine/Memory.lean change neither the queue nor the canonical forms.
-/
namespace Sys2Proof.Machine

set_option Elab.async false
set_option linter.all false

variable {E : Comp → Prop} {s0 : State}

theorem State.setDev_kept (s : State) (w d : Nat) (h0 : Kept E s0 s) (e_ecc : E .ecc := by assumption) : Kept E s0 (State.setDev s w d) := by
  exact kept_ecc _ h0 (twf_tset _ _)

theorem State.putByte_kept (s : State) (a : Nat) (b : Byte) (h0 : Kept E s0 s) (e_mem : E .mem := by assumption) : Kept E s0 (State.putByte s a b) := by
  exact kept_mem _ h0 (twf_tset _ _)

theorem State.putBytes_kept (s : State) (a : Nat) (x0 : List Byte) (h0 : Kept E s0 s) (e_mem : E .mem := by assumption) : Kept E s0 (State.putBytes s a x0) := by
  induction x0 generalizing s a with
  | nil => exact h0
  | cons b t ih => exact ih _ _ (State.putByte_kept _ _ _ h0)

theorem State.fixSymbol_kept (s : State) (w pos val : Nat) (h0 : Kept E s0 s) (e_mem : E .mem := by assumption) : Kept E s0 (State.fixSymbol s w pos val) := by
  delta State.fixSymbol
  repeat' (first
    | (with_reducible first | assumption | apply State.putByte_kept | apply kept_ite)
    | (extract_lets +onlyGivenNames z
       first
         | (refine (show Kept E s0 z → _ from fun hz => ?_) ?_; clear_value z; rotate_left; dsimp only [z]; rotate_left)
         | clear_value z)
    | split
    | dsimp only)

theorem State.eccLog_kept (s : State) (w : Nat) (unc : Bool) (src sym : Nat) (h0 : Kept E s0 s) (e_regs : E .regs := by assumption) : Kept E s0 (State.eccLog s w unc src sym) := by
  delta State.eccLog
  repeat' (first
    | (with_reducible first | assumption | apply State.setF_kept | apply kept_ite)
    | (extract_lets +onlyGivenNames z
       first
         | (refine (show Kept E s0 z → _ from fun hz => ?_) ?_; clear_value z; rotate_left; dsimp only [z]; rotate_left)
         | clear_value z)
    | split
    | dsimp only)

theorem State.eccUncorrectable_kept (s : State) (w src d : Nat) (h0 : Kept E s0 s) (e_erq : E .erq := by assumption) (e_folded : E .folded := by assumption) (e_fwLog : E .fwLog := by assumption) (e_msixs : E .msixs := by assumption) (e_out : E .out := by assumption) (e_regs : E .regs := by assumption) (e_rseq : E .rseq := by assumption) : Kept E s0 (State.eccUncorrectable s w src d) := by
  delta State.eccUncorrectable
  repeat' (first
    | (with_reducible first | assumption | apply State.bumpSat_kept | apply State.eccLog_kept | apply State.record_kept)
    | (extract_lets +onlyGivenNames z
       first
         | (refine (show Kept E s0 z → _ from fun hz => ?_) ?_; clear_value z; rotate_left; dsimp only [z]; rotate_left)
         | clear_value z)
    | dsimp only)

theorem State.decodeWord_kept (s : State) (w src : Nat) (h0 : Kept E s0 s) (e_ecc : E .ecc := by assumption) (e_erq : E .erq := by assumption) (e_folded : E .folded := by assumption) (e_fwLog : E .fwLog := by assumption) (e_mem : E .mem := by assumption) (e_msixs : E .msixs := by assumption) (e_out : E .out := by assumption) (e_regs : E .regs := by assumption) (e_rseq : E .rseq := by assumption) : Kept E s0 (State.decodeWord s w src) := by
  delta State.decodeWord
  repeat' (first
    | (refine fun _ => ?_)
    | (with_reducible first | assumption | apply State.bump_kept | apply State.bumpSat_kept | apply State.eccLog_kept | apply State.eccUncorrectable_kept | apply State.fixSymbol_kept | apply State.setDev_kept | apply kept_ite)
    | (extract_lets +onlyGivenNames z
       first
         | (refine (show Kept E s0 z → _ from fun hz => ?_) ?_; clear_value z; rotate_left; dsimp only [z]; rotate_left)
         | clear_value z)
    | split
    | dsimp only)

theorem State.readWord_kept (s : State) (w : Nat) (h0 : Kept E s0 s) (e_ecc : E .ecc := by assumption) (e_erq : E .erq := by assumption) (e_folded : E .folded := by assumption) (e_fwLog : E .fwLog := by assumption) (e_mem : E .mem := by assumption) (e_msixs : E .msixs := by assumption) (e_out : E .out := by assumption) (e_regs : E .regs := by assumption) (e_rseq : E .rseq := by assumption) : Kept E s0 (State.readWord s w) := by
  delta State.readWord
  repeat' (first
    | (with_reducible first | assumption | apply State.bump_kept | apply State.decodeWord_kept)
    | dsimp only)

theorem State.readWords_kept (s : State) (ws : List Nat) (h0 : Kept E s0 s) (e_ecc : E .ecc := by assumption) (e_erq : E .erq := by assumption) (e_folded : E .folded := by assumption) (e_fwLog : E .fwLog := by assumption) (e_mem : E .mem := by assumption) (e_msixs : E .msixs := by assumption) (e_out : E .out := by assumption) (e_regs : E .regs := by assumption) (e_rseq : E .rseq := by assumption) : Kept E s0 (State.readWords s ws) := by
  delta State.readWords
  repeat' (first
    | (refine fun _ => ?_)
    | (with_reducible first | assumption | apply State.readWord_kept | apply kept_foldl)
    | dsimp only)

theorem State.writeWord_kept (s : State) (a : Nat) (bs : List Byte) (h0 : Kept E s0 s) (e_ecc : E .ecc := by assumption) (e_erq : E .erq := by assumption) (e_folded : E .folded := by assumption) (e_fwLog : E .fwLog := by assumption) (e_mem : E .mem := by assumption) (e_msixs : E .msixs := by assumption) (e_out : E .out := by assumption) (e_regs : E .regs := by assumption) (e_rseq : E .rseq := by assumption) : Kept E s0 (State.writeWord s a bs) := by
  delta State.writeWord
  repeat' (first
    | (with_reducible first | assumption | apply State.bump_kept | apply State.decodeWord_kept | apply State.putBytes_kept | apply State.setDev_kept | apply kept_ite)
    | (extract_lets +onlyGivenNames z
       first
         | (refine (show Kept E s0 z → _ from fun hz => ?_) ?_; clear_value z; rotate_left; dsimp only [z]; rotate_left)
         | clear_value z)
    | split
    | dsimp only)

theorem State.writeFrom_kept (s : State) (fuel a : Nat) (x1 : List Byte) (h0 : Kept E s0 s) (e_ecc : E .ecc := by assumption) (e_erq : E .erq := by assumption) (e_folded : E .folded := by assumption) (e_fwLog : E .fwLog := by assumption) (e_mem : E .mem := by assumption) (e_msixs : E .msixs := by assumption) (e_out : E .out := by assumption) (e_regs : E .regs := by assumption) (e_rseq : E .rseq := by assumption) : Kept E s0 (State.writeFrom s fuel a x1) := by
  induction fuel generalizing s a x1 with
  | zero => exact h0
  | succ n ih =>
    unfold State.writeFrom
    split
    · exact h0
    · exact ih _ _ _ (State.writeWord_kept _ _ _ h0)

theorem State.writeBytes_kept (s : State) (a : Nat) (bs : List Byte) (h0 : Kept E s0 s) (e_ecc : E .ecc := by assumption) (e_erq : E .erq := by assumption) (e_folded : E .folded := by assumption) (e_fwLog : E .fwLog := by assumption) (e_mem : E .mem := by assumption) (e_msixs : E .msixs := by assumption) (e_out : E .out := by assumption) (e_regs : E .regs := by assumption) (e_rseq : E .rseq := by assumption) : Kept E s0 (State.writeBytes s a bs) := by
  delta State.writeBytes
  repeat' (first
    | (with_reducible first | assumption | apply State.writeFrom_kept)
    | dsimp only)

theorem State.poisonWord_kept (s : State) (a n : Nat) (h0 : Kept E s0 s) (e_ecc : E .ecc := by assumption) (e_erq : E .erq := by assumption) (e_folded : E .folded := by assumption) (e_fresh : E .fresh := by assumption) (e_fwLog : E .fwLog := by assumption) (e_mem : E .mem := by assumption) (e_msixs : E .msixs := by assumption) (e_out : E .out := by assumption) (e_regs : E .regs := by assumption) (e_rseq : E .rseq := by assumption) : Kept E s0 (State.poisonWord s a n) := by
  delta State.poisonWord
  repeat' (first
    | (refine fun _ => ?_)
    | (with_reducible first | assumption | apply State.bump_kept | apply State.bumpFresh_kept | apply State.decodeWord_kept | apply State.putBytes_kept | apply State.setDev_kept | apply kept_ite)
    | (extract_lets +onlyGivenNames z
       first
         | (refine (show Kept E s0 z → _ from fun hz => ?_) ?_; clear_value z; rotate_left; dsimp only [z]; rotate_left)
         | clear_value z)
    | split
    | dsimp only)

theorem State.poisonBytes_kept (s : State) (a n : Nat) (h0 : Kept E s0 s) (e_ecc : E .ecc := by assumption) (e_erq : E .erq := by assumption) (e_folded : E .folded := by assumption) (e_fresh : E .fresh := by assumption) (e_fwLog : E .fwLog := by assumption) (e_mem : E .mem := by assumption) (e_msixs : E .msixs := by assumption) (e_out : E .out := by assumption) (e_regs : E .regs := by assumption) (e_rseq : E .rseq := by assumption) : Kept E s0 (State.poisonBytes s a n) := by
  delta State.poisonBytes
  repeat' (first
    | (refine fun _ => ?_)
    | (with_reducible first | assumption | apply State.poisonWord_kept | apply kept_foldl)
    | (extract_lets +onlyGivenNames z
       first
         | (refine (show Kept E s0 z → _ from fun hz => ?_) ?_; clear_value z; rotate_left; dsimp only [z]; rotate_left)
         | clear_value z)
    | dsimp only)

theorem State.writeMoved_kept (s : State) (a : Nat) (bs : List Byte) (ps : List Bool) (h0 : Kept E s0 s) (e_ecc : E .ecc := by assumption) (e_erq : E .erq := by assumption) (e_folded : E .folded := by assumption) (e_fwLog : E .fwLog := by assumption) (e_mem : E .mem := by assumption) (e_msixs : E .msixs := by assumption) (e_out : E .out := by assumption) (e_regs : E .regs := by assumption) (e_rseq : E .rseq := by assumption) : Kept E s0 (State.writeMoved s a bs ps) := by
  delta State.writeMoved
  repeat' (first
    | (refine fun _ => ?_)
    | (with_reducible first | assumption | apply State.setDev_kept | apply State.writeBytes_kept | apply kept_ite | apply kept_foldl)
    | (extract_lets +onlyGivenNames z
       first
         | (refine (show Kept E s0 z → _ from fun hz => ?_) ?_; clear_value z; rotate_left; dsimp only [z]; rotate_left)
         | clear_value z)
    | split
    | dsimp only)

end Sys2Proof.Machine
end

