-- ==== Sys2Proof/Laws/KeptOperands.lean ====
section
/-!
SUPPORT. Laws/KeptOperands.lean: the operations of Machine/Operands.lean change neither the queue nor the canonical forms.
-/
namespace Sys2Proof.Machine

set_option Elab.async false
set_option linter.all false

variable {E : Comp → Prop} {s0 : State}

theorem State.writeRun_kept (s : State) (d : Desc) (i0 : Nat) (ix : List Nat) (r : List Nat × List Nat × Nat) (h0 : Kept E s0 s) (e_ecc : E .ecc := by assumption) (e_erq : E .erq := by assumption) (e_folded : E .folded := by assumption) (e_fwLog : E .fwLog := by assumption) (e_mem : E .mem := by assumption) (e_msixs : E .msixs := by assumption) (e_out : E .out := by assumption) (e_regs : E .regs := by assumption) (e_rseq : E .rseq := by assumption) : Kept E s0 (State.writeRun s d i0 ix r) := by
  delta State.writeRun
  repeat' (first
    | (with_reducible first | assumption | apply State.writeBytes_kept | apply kept_ite)
    | (extract_lets +onlyGivenNames z
       first
         | (refine (show Kept E s0 z → _ from fun hz => ?_) ?_; clear_value z; rotate_left; dsimp only [z]; rotate_left)
         | (refine (show Kept E s0 z.1 → _ from fun hz => ?_) ?_; clear_value z; rotate_left; dsimp only [z]; rotate_left)
         | (refine (show Kept E s0 z.2.1 → _ from fun hz => ?_) ?_; clear_value z; rotate_left; dsimp only [z]; rotate_left)
         | (refine (show Kept E s0 z.2.2 → _ from fun hz => ?_) ?_; clear_value z; rotate_left; dsimp only [z]; rotate_left)
         | clear_value z)
    | split
    | dsimp only)

theorem State.poisonRun_kept (s : State) (d : Desc) (i0 n : Nat) (ix : List Nat) (h0 : Kept E s0 s) (e_ecc : E .ecc := by assumption) (e_erq : E .erq := by assumption) (e_folded : E .folded := by assumption) (e_fresh : E .fresh := by assumption) (e_fwLog : E .fwLog := by assumption) (e_mem : E .mem := by assumption) (e_msixs : E .msixs := by assumption) (e_out : E .out := by assumption) (e_regs : E .regs := by assumption) (e_rseq : E .rseq := by assumption) : Kept E s0 (State.poisonRun s d i0 n ix) := by
  delta State.poisonRun
  repeat' (first
    | (with_reducible first | assumption | apply State.poisonBytes_kept | apply kept_ite)
    | (extract_lets +onlyGivenNames z
       first
         | (refine (show Kept E s0 z → _ from fun hz => ?_) ?_; clear_value z; rotate_left; dsimp only [z]; rotate_left)
         | clear_value z)
    | split
    | dsimp only)

end Sys2Proof.Machine
end

