-- ==== Sys2Proof/Laws/KeptShuttle.lean ====
section
/-!
SUPPORT. Laws/KeptShuttle.lean: the operations of Machine/Shuttle.lean change neither the queue nor the canonical forms.
-/
namespace Sys2Proof.Machine

set_option Elab.async false
set_option linter.all false

variable {E : Comp → Prop} {s0 : State}

theorem State.setCtx_kept (s : State) (x : Nat) (v : Context) (h0 : Kept E s0 s) (e_ctxs : E .ctxs := by assumption) : Kept E s0 (State.setCtx s x v) := by
  exact kept_ctxs _ h0 (rises_tset _ _)

theorem State.setQueue_kept (s : State) (q : Nat) (v : Queue) (h0 : Kept E s0 s) (e_queues : E .queues := by assumption) : Kept E s0 (State.setQueue s q v) := by
  exact kept_queues _ h0 (rises_tset _ _)

theorem State.setCluster_kept (s : State) (c : Nat) (v : Cluster) (h0 : Kept E s0 s) (e_clusters : E .clusters := by assumption) : Kept E s0 (State.setCluster s c v) := by
  exact kept_clusters _ h0 (rises_tset _ _)

theorem State.setCmd_kept (s : State) (c : Cmd) (h0 : Kept E s0 s) (e_cmds : E .cmds := by assumption) : Kept E s0 (State.setCmd s c) := by
  delta State.setCmd
  repeat' (first
    | (refine fun _ => ?_)
    | (with_reducible first | assumption | apply kept_ite)
    | simp only [kept_cmds e_cmds]
    | split
    | dsimp only)

theorem State.dropCmd_kept (s : State) (id : Nat) (h0 : Kept E s0 s) (e_cmds : E .cmds := by assumption) : Kept E s0 (State.dropCmd s id) := by
  delta State.dropCmd
  repeat' (first
    | (with_reducible first | assumption)
    | simp only [kept_cmds e_cmds]
    | dsimp only)

theorem State.latchWaits_kept (s : State) (h0 : Kept E s0 s) (e_cmds : E .cmds := by assumption) (e_streams : E .streams := by assumption) : Kept E s0 (State.latchWaits s) := by
  refine h0.trans_of (fun c n => by cases c <;> first | rfl | exact absurd (by assumption) n) fun w => ?_
  have g := State.canon_iff.1 w
  have g' := g.2.2.2.2.2.2.2.2.2.2.1
  refine State.canon_iff.2 ⟨g.1, g.2.1, g.2.2.1, g.2.2.2.1, g.2.2.2.2.1, g.2.2.2.2.2.1, g.2.2.2.2.2.2.1, g.2.2.2.2.2.2.2.1, g.2.2.2.2.2.2.2.2.1,
    g.2.2.2.2.2.2.2.2.2.1, ?_, g.2.2.2.2.2.2.2.2.2.2.2⟩
  exact rises_map _ (by intro e; rfl) g'

theorem State.setToken_kept (s : State) (t v : Nat) (h0 : Kept E s0 s) (e_cmds : E .cmds := by assumption) (e_regs : E .regs := by assumption) (e_streams : E .streams := by assumption) : Kept E s0 (State.setToken s t v) := by
  delta State.setToken
  repeat' (first
    | (with_reducible first | assumption | apply State.latchWaits_kept | apply State.setF_kept)
    | dsimp only)

theorem State.addToken_kept (s : State) (t v : Nat) (h0 : Kept E s0 s) (e_cmds : E .cmds := by assumption) (e_regs : E .regs := by assumption) (e_streams : E .streams := by assumption) : Kept E s0 (State.addToken s t v) := by
  delta State.addToken
  repeat' (first
    | (with_reducible first | assumption | apply State.setToken_kept)
    | dsimp only)

theorem State.trace_kept (s : State) (c : Cmd) (kind status : Nat) (tail : List Byte) (h0 : Kept E s0 s) (e_ecc : E .ecc := by assumption) (e_erq : E .erq := by assumption) (e_evseq : E .evseq := by assumption) (e_folded : E .folded := by assumption) (e_fwLog : E .fwLog := by assumption) (e_mem : E .mem := by assumption) (e_msixs : E .msixs := by assumption) (e_out : E .out := by assumption) (e_regs : E .regs := by assumption) (e_rseq : E .rseq := by assumption) : Kept E s0 (State.trace s c kind status tail) := by
  delta State.trace
  repeat' (first
    | (refine fun _ => ?_)
    | (with_reducible first | assumption | apply State.bumpSat_kept | apply State.setF_kept | apply State.writeBytes_kept | apply kept_ite)
    | with_reducible exact kept_evseq _ h0 (rises_tset _ _)
    | (extract_lets +onlyGivenNames z
       first
         | (refine (show Kept E s0 z → _ from fun hz => ?_) ?_; clear_value z; rotate_left; dsimp only [z]; rotate_left)
         | clear_value z)
    | split
    | dsimp only)

theorem State.queueMsg_kept (s : State) (q : Nat) (h0 : Kept E s0 s) (e_msixs : E .msixs := by assumption) (e_out : E .out := by assumption) (e_queues : E .queues := by assumption) : Kept E s0 (State.queueMsg s q) := by
  delta State.queueMsg
  repeat' (first
    | (with_reducible first | assumption | apply State.sendMsix_kept | apply State.setQueue_kept)
    | (extract_lets +onlyGivenNames z
       first
         | (refine (show Kept E s0 z → _ from fun hz => ?_) ?_; clear_value z; rotate_left; dsimp only [z]; rotate_left)
         | clear_value z)
    | dsimp only)

theorem State.putRecord_kept (s : State) (q : Nat) (r : List Byte) (h0 : Kept E s0 s) (e_ecc : E .ecc := by assumption) (e_erq : E .erq := by assumption) (e_folded : E .folded := by assumption) (e_fwLog : E .fwLog := by assumption) (e_mem : E .mem := by assumption) (e_msixs : E .msixs := by assumption) (e_out : E .out := by assumption) (e_queues : E .queues := by assumption) (e_regs : E .regs := by assumption) (e_rseq : E .rseq := by assumption) : Kept E s0 (State.putRecord s q r) := by
  delta State.putRecord
  repeat' (first
    | (with_reducible first | assumption | apply State.emit_kept | apply State.queueMsg_kept | apply State.setF_kept | apply State.setQueue_kept | apply State.writeBytes_kept | apply kept_ite)
    | (extract_lets +onlyGivenNames z
       first
         | (refine (show Kept E s0 z → _ from fun hz => ?_) ?_; clear_value z; rotate_left; dsimp only [z]; rotate_left)
         | clear_value z)
    | split
    | dsimp only)

theorem State.oweRecord_kept (s : State) (q id : Nat) (r : List Byte) (h0 : Kept E s0 s) (e_ecc : E .ecc := by assumption) (e_erq : E .erq := by assumption) (e_folded : E .folded := by assumption) (e_fwLog : E .fwLog := by assumption) (e_mem : E .mem := by assumption) (e_msixs : E .msixs := by assumption) (e_out : E .out := by assumption) (e_queues : E .queues := by assumption) (e_regs : E .regs := by assumption) (e_rseq : E .rseq := by assumption) : Kept E s0 (State.oweRecord s q id r) := by
  delta State.oweRecord
  repeat' (first
    | (with_reducible first | assumption | apply State.putRecord_kept | apply State.setQueue_kept | apply kept_ite)
    | (extract_lets +onlyGivenNames z
       first
         | (refine (show Kept E s0 z → _ from fun hz => ?_) ?_; clear_value z; rotate_left; dsimp only [z]; rotate_left)
         | clear_value z)
    | split
    | dsimp only)

theorem State.writeWaiting_kept (s : State) (q : Nat) (h0 : Kept E s0 s) (e_ecc : E .ecc := by assumption) (e_erq : E .erq := by assumption) (e_folded : E .folded := by assumption) (e_fwLog : E .fwLog := by assumption) (e_mem : E .mem := by assumption) (e_msixs : E .msixs := by assumption) (e_out : E .out := by assumption) (e_queues : E .queues := by assumption) (e_regs : E .regs := by assumption) (e_rseq : E .rseq := by assumption) : Kept E s0 (State.writeWaiting s q) := by
  delta State.writeWaiting
  repeat' (first
    | (with_reducible first | assumption | apply State.putRecord_kept | apply State.setQueue_kept | apply kept_ite)
    | split
    | dsimp only)

theorem State.finishCmd_kept (s : State) (c : Cmd) (h0 : Kept E s0 s) (e_cmds : E .cmds := by assumption) (e_ecc : E .ecc := by assumption) (e_erq : E .erq := by assumption) (e_folded : E .folded := by assumption) (e_fwLog : E .fwLog := by assumption) (e_mem : E .mem := by assumption) (e_msixs : E .msixs := by assumption) (e_out : E .out := by assumption) (e_queues : E .queues := by assumption) (e_regs : E .regs := by assumption) (e_rseq : E .rseq := by assumption) (e_streams : E .streams := by assumption) : Kept E s0 (State.finishCmd s c) := by
  delta State.finishCmd
  repeat' (first
    | (with_reducible first | assumption | apply State.dropCmd_kept | apply State.latchWaits_kept | apply State.oweRecord_kept | apply kept_ite)
    | (extract_lets +onlyGivenNames z
       first
         | (refine (show Kept E s0 z → _ from fun hz => ?_) ?_; clear_value z; rotate_left; dsimp only [z]; rotate_left)
         | clear_value z)
    | split
    | dsimp only)

theorem State.abortCmd_kept (s : State) (c : Cmd) (status : Nat) (h0 : Kept E s0 s) (e_cmds : E .cmds := by assumption) (e_ecc : E .ecc := by assumption) (e_erq : E .erq := by assumption) (e_folded : E .folded := by assumption) (e_fwLog : E .fwLog := by assumption) (e_mem : E .mem := by assumption) (e_msixs : E .msixs := by assumption) (e_out : E .out := by assumption) (e_queues : E .queues := by assumption) (e_regs : E .regs := by assumption) (e_rseq : E .rseq := by assumption) (e_streams : E .streams := by assumption) : Kept E s0 (State.abortCmd s c status) := by
  delta State.abortCmd
  repeat' (first
    | (with_reducible first | assumption | apply State.finishCmd_kept)
    | dsimp only)

theorem State.cmdFault_kept (s : State) (x : Nat) (f : CtxFault) (op : Option (List Byte)) (dtag : Nat) (h0 : Kept E s0 s) (e_erq : E .erq := by assumption) (e_folded : E .folded := by assumption) (e_fwLog : E .fwLog := by assumption) (e_msixs : E .msixs := by assumption) (e_out : E .out := by assumption) (e_regs : E .regs := by assumption) (e_rseq : E .rseq := by assumption) : Kept E s0 (State.cmdFault s x f op dtag) := by
  delta State.cmdFault
  repeat' (first
    | (refine fun _ => ?_)
    | (with_reducible first | assumption | apply State.record_kept)
    | (extract_lets +onlyGivenNames z
       first
         | (refine (show Kept E s0 z → _ from fun hz => ?_) ?_; clear_value z; rotate_left; dsimp only [z]; rotate_left)
         | clear_value z)
    | dsimp only)

theorem State.faultCtx_kept (s : State) (x : Nat) (f : CtxFault) (h0 : Kept E s0 s) (e_ctxs : E .ctxs := by assumption) (e_erq : E .erq := by assumption) (e_folded : E .folded := by assumption) (e_fwLog : E .fwLog := by assumption) (e_msixs : E .msixs := by assumption) (e_out : E .out := by assumption) (e_regs : E .regs := by assumption) (e_rseq : E .rseq := by assumption) : Kept E s0 (State.faultCtx s x f) := by
  delta State.faultCtx
  repeat' (first
    | (refine fun _ => ?_)
    | (with_reducible first | assumption | apply State.cmdFault_kept | apply State.setCtx_kept | apply kept_ite)
    | (extract_lets +onlyGivenNames z
       first
         | (refine (show Kept E s0 z → _ from fun hz => ?_) ?_; clear_value z; rotate_left; dsimp only [z]; rotate_left)
         | clear_value z)
    | split
    | dsimp only)

end Sys2Proof.Machine
end

