-- ==== Sys2Proof/Laws/KeptComplete.lean ====
section
/-!
SUPPORT. Laws/KeptComplete.lean: the operations of Machine/Complete.lean change neither the queue nor the canonical forms.
-/
namespace Sys2Proof.Machine

set_option Elab.async false
set_option linter.all false

variable {E : Comp → Prop} {s0 : State}

theorem State.freeBytes_kept (s : State) (n : Nat) (h0 : Kept E s0 s) (e_fresh : E .fresh := by assumption) : Kept E s0 (State.freeBytes s n).2 := by
  delta State.freeBytes
  repeat' (first
    | (refine fun _ => ?_)
    | (with_reducible first | assumption | apply State.bumpFresh_kept)
    | dsimp only)

theorem State.hostChunks_kept (s : State) (fn : Nat) (bad : Nat → Bool) (fuel addr i : Nat) (x1 : List Byte) (h0 : Kept E s0 s) (e_out : E .out := by assumption) : Kept E s0 (State.hostChunks s fn bad fuel addr i x1) := by
  induction fuel generalizing s addr i x1 with
  | zero => exact h0
  | succ n ih =>
    unfold State.hostChunks
    repeat' (first
      | (with_reducible first | assumption | apply ih | apply State.emit_kept | apply kept_ite)
      | split
      | dsimp only)

theorem State.fireSlot_kept (s : State) (c : Cmd) (k : Nat) (d : DumpSlot) (h0 : Kept E s0 s) (e_ctxs : E .ctxs := by assumption) (e_ecc : E .ecc := by assumption) (e_erq : E .erq := by assumption) (e_evseq : E .evseq := by assumption) (e_folded : E .folded := by assumption) (e_fwLog : E .fwLog := by assumption) (e_mem : E .mem := by assumption) (e_msixs : E .msixs := by assumption) (e_out : E .out := by assumption) (e_regs : E .regs := by assumption) (e_rseq : E .rseq := by assumption) : Kept E s0 (State.fireSlot s c k d) := by
  delta State.fireSlot
  repeat' (first
    | (refine fun _ => ?_)
    | (with_reducible first | assumption | apply State.emit_kept | apply State.hostChunks_kept | apply State.readWords_kept | apply State.setCtx_kept | apply State.trace_kept | apply kept_ite)
    | (extract_lets +onlyGivenNames z
       first
         | (refine (show Kept E s0 z → _ from fun hz => ?_) ?_; clear_value z; rotate_left; dsimp only [z]; rotate_left)
         | clear_value z)
    | split
    | dsimp only)

theorem State.fireDumps_kept (s : State) (c : Cmd) (h0 : Kept E s0 s) (e_ctxs : E .ctxs := by assumption) (e_ecc : E .ecc := by assumption) (e_erq : E .erq := by assumption) (e_evseq : E .evseq := by assumption) (e_folded : E .folded := by assumption) (e_fwLog : E .fwLog := by assumption) (e_mem : E .mem := by assumption) (e_msixs : E .msixs := by assumption) (e_out : E .out := by assumption) (e_regs : E .regs := by assumption) (e_rseq : E .rseq := by assumption) : Kept E s0 (State.fireDumps s c) := by
  delta State.fireDumps
  repeat' (first
    | (refine fun _ => ?_)
    | (with_reducible first | assumption | apply State.fireSlot_kept | apply kept_ite | apply kept_foldl)
    | split
    | dsimp only)

theorem State.traceEnd_kept (s : State) (c : Cmd) (h0 : Kept E s0 s) (e_ecc : E .ecc := by assumption) (e_erq : E .erq := by assumption) (e_evseq : E .evseq := by assumption) (e_folded : E .folded := by assumption) (e_fresh : E .fresh := by assumption) (e_fwLog : E .fwLog := by assumption) (e_mem : E .mem := by assumption) (e_msixs : E .msixs := by assumption) (e_out : E .out := by assumption) (e_regs : E .regs := by assumption) (e_rseq : E .rseq := by assumption) : Kept E s0 (State.traceEnd s c) := by
  delta State.traceEnd
  repeat' (first
    | (with_reducible first | assumption | apply State.freeBytes_kept | apply State.trace_kept)
    | (extract_lets +onlyGivenNames z
       first
         | (refine (show Kept E s0 z → _ from fun hz => ?_) ?_; clear_value z; rotate_left; dsimp only [z]; rotate_left)
         | (refine (show Kept E s0 z.1 → _ from fun hz => ?_) ?_; clear_value z; rotate_left; dsimp only [z]; rotate_left)
         | (refine (show Kept E s0 z.2.1 → _ from fun hz => ?_) ?_; clear_value z; rotate_left; dsimp only [z]; rotate_left)
         | (refine (show Kept E s0 z.2.2 → _ from fun hz => ?_) ?_; clear_value z; rotate_left; dsimp only [z]; rotate_left)
         | clear_value z)
    | dsimp only)

theorem State.completeCmd_kept (s : State) (c : Cmd) (h0 : Kept E s0 s) (e_cmds : E .cmds := by assumption) (e_ctxs : E .ctxs := by assumption) (e_ecc : E .ecc := by assumption) (e_erq : E .erq := by assumption) (e_evseq : E .evseq := by assumption) (e_folded : E .folded := by assumption) (e_fresh : E .fresh := by assumption) (e_fwLog : E .fwLog := by assumption) (e_mem : E .mem := by assumption) (e_msixs : E .msixs := by assumption) (e_out : E .out := by assumption) (e_queues : E .queues := by assumption) (e_regs : E .regs := by assumption) (e_rseq : E .rseq := by assumption) (e_streams : E .streams := by assumption) : Kept E s0 (State.completeCmd s c) := by
  delta State.completeCmd
  repeat' (first
    | (refine fun _ => ?_)
    | (with_reducible first | assumption | apply State.addToken_kept | apply State.finishCmd_kept | apply State.fireDumps_kept | apply State.setF_kept | apply State.traceEnd_kept | apply kept_ite)
    | (extract_lets +onlyGivenNames z
       first
         | (refine (show Kept E s0 z → _ from fun hz => ?_) ?_; clear_value z; rotate_left; dsimp only [z]; rotate_left)
         | clear_value z)
    | split
    | dsimp only)

end Sys2Proof.Machine
end

