-- ==== Sys2Proof/Laws/KeptIssue.lean ====
section
/-!
SUPPORT. Laws/KeptIssue.lean: the operations of Machine/Issue.lean change neither the queue nor the canonical forms.
-/
namespace Sys2Proof.Machine

set_option Elab.async false
set_option linter.all false

variable {E : Comp → Prop} {s0 : State}

theorem State.rejectCmd_kept (s : State) (c : Cmd) (r : Rej) (h0 : Kept E s0 s) (e_cmds : E .cmds := by assumption) (e_ctxs : E .ctxs := by assumption) (e_erq : E .erq := by assumption) (e_folded : E .folded := by assumption) (e_fwLog : E .fwLog := by assumption) (e_msixs : E .msixs := by assumption) (e_out : E .out := by assumption) (e_regs : E .regs := by assumption) (e_rseq : E .rseq := by assumption) : Kept E s0 (State.rejectCmd s c r) := by
  delta State.rejectCmd
  repeat' (first
    | (with_reducible first | assumption | apply State.faultCtx_kept | apply State.setCmd_kept | apply State.setCtx_kept | apply kept_ite)
    | (extract_lets +onlyGivenNames z
       first
         | (refine (show Kept E s0 z → _ from fun hz => ?_) ?_; clear_value z; rotate_left; dsimp only [z]; rotate_left)
         | clear_value z)
    | split
    | dsimp only)

theorem State.issue_kept (s : State) (q : Nat) (mine : Cmd → Bool) (check : State → Cmd → Chk Plan) (go : State → Cmd → State) (h0 : Kept E s0 s) (h1 : ∀ t c, Kept E s0 t → Kept E s0 (go t c)) (e_cmds : E .cmds := by assumption) (e_ctxs : E .ctxs := by assumption) (e_ecc : E .ecc := by assumption) (e_erq : E .erq := by assumption) (e_folded : E .folded := by assumption) (e_fwLog : E .fwLog := by assumption) (e_mem : E .mem := by assumption) (e_msixs : E .msixs := by assumption) (e_out : E .out := by assumption) (e_regs : E .regs := by assumption) (e_rseq : E .rseq := by assumption) : Kept E s0 (State.issue s q mine check go) := by
  delta State.issue
  repeat' (first
    | (with_reducible first | assumption | apply State.readWords_kept | apply State.rejectCmd_kept | apply kept_ite | apply h1)
    | (extract_lets +onlyGivenNames z
       first
         | (refine (show Kept E s0 z → _ from fun hz => ?_) ?_; clear_value z; rotate_left; dsimp only [z]; rotate_left)
         | (refine (show Kept E s0 z.1 → _ from fun hz => ?_) ?_; clear_value z; rotate_left; dsimp only [z]; rotate_left)
         | (refine (show Kept E s0 z.2.1 → _ from fun hz => ?_) ?_; clear_value z; rotate_left; dsimp only [z]; rotate_left)
         | (refine (show Kept E s0 z.2.2 → _ from fun hz => ?_) ?_; clear_value z; rotate_left; dsimp only [z]; rotate_left)
         | clear_value z)
    | split
    | dsimp only)

theorem State.traceStart_kept (s : State) (c : Cmd) (h0 : Kept E s0 s) (e_ecc : E .ecc := by assumption) (e_erq : E .erq := by assumption) (e_evseq : E .evseq := by assumption) (e_folded : E .folded := by assumption) (e_fwLog : E .fwLog := by assumption) (e_mem : E .mem := by assumption) (e_msixs : E .msixs := by assumption) (e_out : E .out := by assumption) (e_regs : E .regs := by assumption) (e_rseq : E .rseq := by assumption) : Kept E s0 (State.traceStart s c) := by
  delta State.traceStart
  repeat' (first
    | (with_reducible first | assumption | apply State.trace_kept)
    | (extract_lets +onlyGivenNames z
       first
         | (refine (show Kept E s0 z → _ from fun hz => ?_) ?_; clear_value z; rotate_left; dsimp only [z]; rotate_left)
         | clear_value z)
    | dsimp only)

theorem State.goTiled_kept (s : State) (c : Cmd) (h0 : Kept E s0 s) (e_cmds : E .cmds := by assumption) (e_ecc : E .ecc := by assumption) (e_erq : E .erq := by assumption) (e_evseq : E .evseq := by assumption) (e_folded : E .folded := by assumption) (e_fwLog : E .fwLog := by assumption) (e_mem : E .mem := by assumption) (e_msixs : E .msixs := by assumption) (e_out : E .out := by assumption) (e_regs : E .regs := by assumption) (e_rseq : E .rseq := by assumption) (e_streams : E .streams := by assumption) : Kept E s0 (State.goTiled s c) := by
  delta State.goTiled
  repeat' (first
    | (refine fun _ => ?_)
    | (with_reducible first | assumption | apply State.latchWaits_kept | apply State.setCmd_kept | apply State.traceStart_kept)
    | (extract_lets +onlyGivenNames z
       first
         | (refine (show Kept E s0 z → _ from fun hz => ?_) ?_; clear_value z; rotate_left; dsimp only [z]; rotate_left)
         | clear_value z)
    | dsimp only)

theorem State.goNow_kept (s : State) (c : Cmd) (h0 : Kept E s0 s) (e_cmds : E .cmds := by assumption) (e_ctxs : E .ctxs := by assumption) (e_ecc : E .ecc := by assumption) (e_erq : E .erq := by assumption) (e_evseq : E .evseq := by assumption) (e_folded : E .folded := by assumption) (e_fresh : E .fresh := by assumption) (e_fwLog : E .fwLog := by assumption) (e_mem : E .mem := by assumption) (e_msixs : E .msixs := by assumption) (e_out : E .out := by assumption) (e_queues : E .queues := by assumption) (e_regs : E .regs := by assumption) (e_rseq : E .rseq := by assumption) (e_streams : E .streams := by assumption) : Kept E s0 (State.goNow s c) := by
  delta State.goNow
  repeat' (first
    | (with_reducible first | assumption | apply State.completeCmd_kept | apply State.setCmd_kept | apply State.traceStart_kept)
    | (extract_lets +onlyGivenNames z
       first
         | (refine (show Kept E s0 z → _ from fun hz => ?_) ?_; clear_value z; rotate_left; dsimp only [z]; rotate_left)
         | clear_value z)
    | dsimp only)

theorem State.goAnchor_kept (s : State) (c : Cmd) (h0 : Kept E s0 s) (e_cmds : E .cmds := by assumption) (e_streams : E .streams := by assumption) : Kept E s0 (State.goAnchor s c) := by
  delta State.goAnchor
  repeat' (first
    | (with_reducible first | assumption | apply State.latchWaits_kept | apply State.setCmd_kept)
    | dsimp only)

theorem State.goAnchorNow_kept (s : State) (c : Cmd) (h0 : Kept E s0 s) (e_cmds : E .cmds := by assumption) (e_ctxs : E .ctxs := by assumption) (e_ecc : E .ecc := by assumption) (e_erq : E .erq := by assumption) (e_evseq : E .evseq := by assumption) (e_folded : E .folded := by assumption) (e_fresh : E .fresh := by assumption) (e_fwLog : E .fwLog := by assumption) (e_mem : E .mem := by assumption) (e_msixs : E .msixs := by assumption) (e_out : E .out := by assumption) (e_queues : E .queues := by assumption) (e_regs : E .regs := by assumption) (e_rseq : E .rseq := by assumption) (e_streams : E .streams := by assumption) : Kept E s0 (State.goAnchorNow s c) := by
  delta State.goAnchorNow
  repeat' (first
    | (with_reducible first | assumption | apply State.completeCmd_kept | apply State.setCmd_kept)
    | dsimp only)

theorem execNop_kept (q : Nat) (s : State) (h0 : Kept E s0 s) (e_cmds : E .cmds := by assumption) (e_ctxs : E .ctxs := by assumption) (e_ecc : E .ecc := by assumption) (e_erq : E .erq := by assumption) (e_evseq : E .evseq := by assumption) (e_folded : E .folded := by assumption) (e_fresh : E .fresh := by assumption) (e_fwLog : E .fwLog := by assumption) (e_mem : E .mem := by assumption) (e_msixs : E .msixs := by assumption) (e_out : E .out := by assumption) (e_queues : E .queues := by assumption) (e_regs : E .regs := by assumption) (e_rseq : E .rseq := by assumption) (e_streams : E .streams := by assumption) : ∃ t, execNop q s = .next t ∧ Kept E s0 t := by
  refine ⟨_, rfl, ?_⟩
  repeat' (first
    | (refine fun _ => ?_)
    | (with_reducible first | assumption | apply State.goNow_kept | apply State.issue_kept)
    | dsimp only)

end Sys2Proof.Machine
end

