-- ==== Sys2Proof/Laws/KeptSeams.lean ====
section
/-!
SUPPORT. Laws/KeptSeams.lean: the operations of Machine/Seams.lean change neither the queue nor the canonical forms.
-/
namespace Sys2Proof.Machine

set_option Elab.async false
set_option linter.all false

variable {E : Comp → Prop} {s0 : State}

theorem State.sideRuns_kept (s : State) (wr : List SideWr) (h0 : Kept E s0 s) (e_ecc : E .ecc := by assumption) (e_erq : E .erq := by assumption) (e_folded : E .folded := by assumption) (e_fwLog : E .fwLog := by assumption) (e_mem : E .mem := by assumption) (e_msixs : E .msixs := by assumption) (e_out : E .out := by assumption) (e_regs : E .regs := by assumption) (e_rseq : E .rseq := by assumption) : Kept E s0 (State.sideRuns s wr) := by
  delta State.sideRuns
  repeat' (first
    | (refine fun _ => ?_)
    | (with_reducible first | assumption | apply State.writeRun_kept | apply kept_foldl)
    | split
    | dsimp only)

end Sys2Proof.Machine
end

