-- ==== Sys2Proof/Laws/KeptItems.lean ====
section
/-!
SUPPORT. Laws/KeptItems.lean: the operations of Machine/Items.lean change neither the queue nor the canonical forms.
-/
namespace Sys2Proof.Machine

set_option Elab.async false
set_option linter.all false

variable {E : Comp → Prop} {s0 : State}

theorem PartRun.foldl_kept {α : Type} (f : PartRun → α → PartRun) (hf : ∀ t x, Kept E s0 t.s → Kept E s0 (f t x).s) (xs : List α) {r : PartRun}
    (h : Kept E s0 r.s) : Kept E s0 (xs.foldl f r).s := by
  induction xs generalizing r with
  | nil => exact h
  | cons x xs ih => exact ih (hf r x h)

theorem PartRun.foldl_fst_kept {α β : Type} (f : PartRun × β → α → PartRun × β) (hf : ∀ t x, Kept E s0 t.1.s → Kept E s0 (f t x).1.s) (xs : List α)
    {a : PartRun × β} (h : Kept E s0 a.1.s) : Kept E s0 (xs.foldl f a).1.s := by
  induction xs generalizing a with
  | nil => exact h
  | cons x xs ih => exact ih (hf a x h)

theorem PartRun.fail_kept (r : PartRun) (status addr : Nat) (h0 : Kept E s0 r.s)  : Kept E s0 (PartRun.fail r status addr).s := by
  delta PartRun.fail
  repeat' (first
    | (with_reducible first | assumption | apply kept_ite)
    | split
    | dsimp only)

theorem PartRun.read_kept (r : PartRun) (ws : List Nat) (h0 : Kept E s0 r.s) (e_ecc : E .ecc := by assumption) (e_erq : E .erq := by assumption) (e_folded : E .folded := by assumption) (e_fwLog : E .fwLog := by assumption) (e_mem : E .mem := by assumption) (e_msixs : E .msixs := by assumption) (e_out : E .out := by assumption) (e_regs : E .regs := by assumption) (e_rseq : E .rseq := by assumption) : Kept E s0 (PartRun.read r ws).s := by
  delta PartRun.read
  repeat' (first
    | (refine fun _ => ?_)
    | (with_reducible first | assumption | apply PartRun.fail_kept | apply State.readWords_kept)
    | (extract_lets +onlyGivenNames z
       first
         | (refine (show Kept E s0 z → _ from fun hz => ?_) ?_; clear_value z; rotate_left; dsimp only [z]; rotate_left)
         | (refine (show Kept E s0 z.s → _ from fun hz => ?_) ?_; clear_value z; rotate_left; dsimp only [z]; rotate_left)
         | clear_value z)
    | split
    | dsimp only)

theorem State.poisonRegions_kept (s : State) (rs : List Region) (h0 : Kept E s0 s) (e_ecc : E .ecc := by assumption) (e_erq : E .erq := by assumption) (e_folded : E .folded := by assumption) (e_fresh : E .fresh := by assumption) (e_fwLog : E .fwLog := by assumption) (e_mem : E .mem := by assumption) (e_msixs : E .msixs := by assumption) (e_out : E .out := by assumption) (e_regs : E .regs := by assumption) (e_rseq : E .rseq := by assumption) : Kept E s0 (State.poisonRegions s rs) := by
  delta State.poisonRegions
  repeat' (first
    | (refine fun _ => ?_)
    | (with_reducible first | assumption | apply State.poisonRun_kept | apply kept_foldl)
    | dsimp only)

end Sys2Proof.Machine
end

