-- ==== Sys2Proof/Laws/KeptMatmul.lean ====
section
/-!
SUPPORT. Laws/KeptMatmul.lean: the operations of Machine/Matmul.lean change neither the queue nor the canonical forms.
-/
namespace Sys2Proof.Machine

set_option Elab.async false
set_option linter.all false

variable {E : Comp → Prop} {s0 : State}

theorem State.storeTile_kept (s : State) (c : Cmd) (g : Mm) (bx : Nat × Nat × Nat × Nat) (b : List Nat) (rows : List (Nat × List (Num × Nat))) (h0 : Kept E s0 s) (e_ecc : E .ecc := by assumption) (e_erq : E .erq := by assumption) (e_folded : E .folded := by assumption) (e_fwLog : E .fwLog := by assumption) (e_mem : E .mem := by assumption) (e_msixs : E .msixs := by assumption) (e_out : E .out := by assumption) (e_regs : E .regs := by assumption) (e_rseq : E .rseq := by assumption) : Kept E s0 (State.storeTile s c g bx b rows).1 := by
  delta State.storeTile
  repeat' (first
    | (refine fun _ => ?_)
    | (with_reducible first | assumption | apply State.writeRun_kept | apply kept_ite | apply kept_foldl | apply kept_foldl_fst | apply kept_foldl_mid | apply kept_foldl_last)
    | (extract_lets +onlyGivenNames z
       first
         | (refine (show Kept E s0 z → _ from fun hz => ?_) ?_; clear_value z; rotate_left; dsimp only [z]; rotate_left)
         | (refine (show Kept E s0 z.1 → _ from fun hz => ?_) ?_; clear_value z; rotate_left; dsimp only [z]; rotate_left)
         | (refine (show Kept E s0 z.2.1 → _ from fun hz => ?_) ?_; clear_value z; rotate_left; dsimp only [z]; rotate_left)
         | (refine (show Kept E s0 z.2.2 → _ from fun hz => ?_) ?_; clear_value z; rotate_left; dsimp only [z]; rotate_left)
         | clear_value z)
    | split
    | dsimp only)

theorem State.storeSome_kept (s : State) (c : Cmd) (g : Mm) (bx : Nat × Nat × Nat × Nat) (b : List Nat) (rows : List (Nat × List (Num × Nat))) (h0 : Kept E s0 s) (e_ecc : E .ecc := by assumption) (e_erq : E .erq := by assumption) (e_folded : E .folded := by assumption) (e_fwLog : E .fwLog := by assumption) (e_mem : E .mem := by assumption) (e_msixs : E .msixs := by assumption) (e_out : E .out := by assumption) (e_regs : E .regs := by assumption) (e_rseq : E .rseq := by assumption) : Kept E s0 (State.storeSome s c g bx b rows).1 := by
  delta State.storeSome
  repeat' (first
    | (refine fun _ => ?_)
    | (with_reducible first | assumption | apply State.writeRun_kept | apply kept_foldl | apply kept_foldl_fst | apply kept_foldl_mid | apply kept_foldl_last)
    | (extract_lets +onlyGivenNames z
       first
         | (refine (show Kept E s0 z → _ from fun hz => ?_) ?_; clear_value z; rotate_left; dsimp only [z]; rotate_left)
         | (refine (show Kept E s0 z.1 → _ from fun hz => ?_) ?_; clear_value z; rotate_left; dsimp only [z]; rotate_left)
         | (refine (show Kept E s0 z.2.1 → _ from fun hz => ?_) ?_; clear_value z; rotate_left; dsimp only [z]; rotate_left)
         | (refine (show Kept E s0 z.2.2 → _ from fun hz => ?_) ?_; clear_value z; rotate_left; dsimp only [z]; rotate_left)
         | clear_value z)
    | dsimp only)

theorem State.freeRun_kept (s : State) (d : Desc) (i0 n : Nat) (ix : List Nat) (h0 : Kept E s0 s) (e_ecc : E .ecc := by assumption) (e_erq : E .erq := by assumption) (e_folded : E .folded := by assumption) (e_fresh : E .fresh := by assumption) (e_fwLog : E .fwLog := by assumption) (e_mem : E .mem := by assumption) (e_msixs : E .msixs := by assumption) (e_out : E .out := by assumption) (e_regs : E .regs := by assumption) (e_rseq : E .rseq := by assumption) : Kept E s0 (State.freeRun s d i0 n ix) := by
  delta State.freeRun
  repeat' (first
    | (with_reducible first | assumption | apply State.freeBytes_kept | apply State.writeBytes_kept | apply kept_ite)
    | (extract_lets +onlyGivenNames z
       first
         | (refine (show Kept E s0 z → _ from fun hz => ?_) ?_; clear_value z; rotate_left; dsimp only [z]; rotate_left)
         | (refine (show Kept E s0 z.1 → _ from fun hz => ?_) ?_; clear_value z; rotate_left; dsimp only [z]; rotate_left)
         | (refine (show Kept E s0 z.2.1 → _ from fun hz => ?_) ?_; clear_value z; rotate_left; dsimp only [z]; rotate_left)
         | (refine (show Kept E s0 z.2.2 → _ from fun hz => ?_) ?_; clear_value z; rotate_left; dsimp only [z]; rotate_left)
         | clear_value z)
    | split
    | dsimp only)

theorem State.storeBlocks_kept (s : State) (c : Cmd) (g : Mm) (bx : Nat × Nat × Nat × Nat) (b : List Nat) (rows : List (Nat × List (Num × Nat))) (h0 : Kept E s0 s) (e_ecc : E .ecc := by assumption) (e_erq : E .erq := by assumption) (e_folded : E .folded := by assumption) (e_fresh : E .fresh := by assumption) (e_fwLog : E .fwLog := by assumption) (e_mem : E .mem := by assumption) (e_msixs : E .msixs := by assumption) (e_out : E .out := by assumption) (e_regs : E .regs := by assumption) (e_rseq : E .rseq := by assumption) : Kept E s0 (State.storeBlocks s c g bx b rows).1 := by
  delta State.storeBlocks
  repeat' (first
    | (refine fun _ => ?_)
    | (with_reducible first | assumption | apply State.freeRun_kept | apply State.writeRun_kept | apply kept_ite | apply kept_foldl | apply kept_foldl_fst | apply kept_foldl_mid | apply kept_foldl_last)
    | (extract_lets +onlyGivenNames z
       first
         | (refine (show Kept E s0 z → _ from fun hz => ?_) ?_; clear_value z; rotate_left; dsimp only [z]; rotate_left)
         | (refine (show Kept E s0 z.1 → _ from fun hz => ?_) ?_; clear_value z; rotate_left; dsimp only [z]; rotate_left)
         | (refine (show Kept E s0 z.2.1 → _ from fun hz => ?_) ?_; clear_value z; rotate_left; dsimp only [z]; rotate_left)
         | (refine (show Kept E s0 z.2.2 → _ from fun hz => ?_) ?_; clear_value z; rotate_left; dsimp only [z]; rotate_left)
         | clear_value z)
    | split
    | dsimp only)

theorem State.carryRow_kept (s : State) (c : Cmd) (g : Mm) (o : Co) (b : List Nat) (m n0 : Nat) (p : List Num) (h0 : Kept E s0 s) (e_ecc : E .ecc := by assumption) (e_erq : E .erq := by assumption) (e_folded : E .folded := by assumption) (e_fwLog : E .fwLog := by assumption) (e_mem : E .mem := by assumption) (e_msixs : E .msixs := by assumption) (e_out : E .out := by assumption) (e_regs : E .regs := by assumption) (e_rseq : E .rseq := by assumption) : Kept E s0 (State.carryRow s c g o b m n0 p).2.2 := by
  delta State.carryRow
  repeat' (first
    | (refine fun _ => ?_)
    | (with_reducible first | assumption | apply State.writeBytes_kept | apply kept_ite)
    | (extract_lets +onlyGivenNames z
       first
         | (refine (show Kept E s0 z → _ from fun hz => ?_) ?_; clear_value z; rotate_left; dsimp only [z]; rotate_left)
         | (refine (show Kept E s0 z.1 → _ from fun hz => ?_) ?_; clear_value z; rotate_left; dsimp only [z]; rotate_left)
         | (refine (show Kept E s0 z.2.1 → _ from fun hz => ?_) ?_; clear_value z; rotate_left; dsimp only [z]; rotate_left)
         | (refine (show Kept E s0 z.2.2 → _ from fun hz => ?_) ?_; clear_value z; rotate_left; dsimp only [z]; rotate_left)
         | clear_value z)
    | split
    | dsimp only)

theorem PartRun.finishTile_kept (r : PartRun) (kvw : PartRun → Cmd → List SideWr → PartRun) (c : Cmd) (cl : Nat) (g : Mm) (it : Item) (rows : List (List Num)) (quiet : List Bool) (tab : List (List Nat)) (h0 : Kept E s0 r.s) (h1 : ∀ r c w, Kept E s0 r.s → Kept E s0 (kvw r c w).s) (e_ecc : E .ecc := by assumption) (e_erq : E .erq := by assumption) (e_folded : E .folded := by assumption) (e_fresh : E .fresh := by assumption) (e_fwLog : E .fwLog := by assumption) (e_mem : E .mem := by assumption) (e_msixs : E .msixs := by assumption) (e_out : E .out := by assumption) (e_regs : E .regs := by assumption) (e_rseq : E .rseq := by assumption) : Kept E s0 (PartRun.finishTile r kvw c cl g it rows quiet tab).s := by
  delta PartRun.finishTile
  repeat' (first
    | (refine fun _ => ?_)
    | (with_reducible first | assumption | apply State.bump_kept | apply State.carryRow_kept | apply PartRun.read_kept | apply State.sideRuns_kept | apply State.storeBlocks_kept | apply State.storeSome_kept | apply State.storeTile_kept | apply kept_ite | apply kept_foldl | apply kept_foldl_fst | apply kept_foldl_mid | apply kept_foldl_last | apply h1)
    | (extract_lets +onlyGivenNames z
       first
         | (refine (show Kept E s0 z → _ from fun hz => ?_) ?_; clear_value z; rotate_left; dsimp only [z]; rotate_left)
         | (refine (show Kept E s0 z.s → _ from fun hz => ?_) ?_; clear_value z; rotate_left; dsimp only [z]; rotate_left)
         | (refine (show Kept E s0 z.1 → _ from fun hz => ?_) ?_; clear_value z; rotate_left; dsimp only [z]; rotate_left)
         | (refine (show Kept E s0 z.2.1 → _ from fun hz => ?_) ?_; clear_value z; rotate_left; dsimp only [z]; rotate_left)
         | (refine (show Kept E s0 z.2.2 → _ from fun hz => ?_) ?_; clear_value z; rotate_left; dsimp only [z]; rotate_left)
         | clear_value z)
    | split
    | dsimp only)

theorem State.coAfter_kept (s : State) (c : Cmd) (cl : Nat) (g : Mm) (it : Item) (a : AccRes) (h0 : Kept E s0 s) (e_ecc : E .ecc := by assumption) (e_erq : E .erq := by assumption) (e_folded : E .folded := by assumption) (e_fwLog : E .fwLog := by assumption) (e_mem : E .mem := by assumption) (e_msixs : E .msixs := by assumption) (e_out : E .out := by assumption) (e_regs : E .regs := by assumption) (e_rseq : E .rseq := by assumption) : Kept E s0 (State.coAfter s c cl g it a) := by
  delta State.coAfter
  repeat' (first
    | (refine fun _ => ?_)
    | (with_reducible first | assumption | apply State.bump_kept | apply State.writeBytes_kept | apply kept_ite | apply kept_foldl | apply kept_foldl_fst | apply kept_foldl_mid | apply kept_foldl_last)
    | (extract_lets +onlyGivenNames z
       first
         | (refine (show Kept E s0 z → _ from fun hz => ?_) ?_; clear_value z; rotate_left; dsimp only [z]; rotate_left)
         | (refine (show Kept E s0 z.1 → _ from fun hz => ?_) ?_; clear_value z; rotate_left; dsimp only [z]; rotate_left)
         | (refine (show Kept E s0 z.2.1 → _ from fun hz => ?_) ?_; clear_value z; rotate_left; dsimp only [z]; rotate_left)
         | (refine (show Kept E s0 z.2.2 → _ from fun hz => ?_) ?_; clear_value z; rotate_left; dsimp only [z]; rotate_left)
         | clear_value z)
    | split
    | dsimp only)

theorem PartRun.mmItem_kept (kvw : PartRun → Cmd → List SideWr → PartRun) (c : Cmd) (cl : Nat) (r : PartRun) (it : Item) (h0 : ∀ r c w, Kept E s0 r.s → Kept E s0 (kvw r c w).s) (h1 : Kept E s0 r.s) (e_ecc : E .ecc := by assumption) (e_erq : E .erq := by assumption) (e_folded : E .folded := by assumption) (e_fresh : E .fresh := by assumption) (e_fwLog : E .fwLog := by assumption) (e_mem : E .mem := by assumption) (e_msixs : E .msixs := by assumption) (e_out : E .out := by assumption) (e_regs : E .regs := by assumption) (e_rseq : E .rseq := by assumption) : Kept E s0 (PartRun.mmItem kvw c cl r it).s := by
  delta PartRun.mmItem
  repeat' (first
    | (refine fun _ => ?_)
    | (with_reducible first | assumption | apply State.coAfter_kept | apply PartRun.finishTile_kept | apply PartRun.read_kept | apply State.sideRuns_kept | apply kept_ite | apply h0)
    | (extract_lets +onlyGivenNames z
       first
         | (refine (show Kept E s0 z → _ from fun hz => ?_) ?_; clear_value z; rotate_left; dsimp only [z]; rotate_left)
         | (refine (show Kept E s0 z.s → _ from fun hz => ?_) ?_; clear_value z; rotate_left; dsimp only [z]; rotate_left)
         | (refine (show Kept E s0 z.1 → _ from fun hz => ?_) ?_; clear_value z; rotate_left; dsimp only [z]; rotate_left)
         | (refine (show Kept E s0 z.2.1 → _ from fun hz => ?_) ?_; clear_value z; rotate_left; dsimp only [z]; rotate_left)
         | (refine (show Kept E s0 z.2.2 → _ from fun hz => ?_) ?_; clear_value z; rotate_left; dsimp only [z]; rotate_left)
         | clear_value z)
    | split
    | dsimp only)

end Sys2Proof.Machine
end

