-- ==== Sys2Proof/Laws/KeptMma.lean ====
section
/-!
SUPPORT. Laws/KeptMma.lean: the operations of Machine/Mma.lean change neither the queue nor the canonical forms.
-/
namespace Sys2Proof.Machine

set_option Elab.async false
set_option linter.all false

variable {E : Comp → Prop} {s0 : State}

theorem State.coStart_kept (s : State) (c : Cmd) (h0 : Kept E s0 s) (e_ecc : E .ecc := by assumption) (e_erq : E .erq := by assumption) (e_folded : E .folded := by assumption) (e_fwLog : E .fwLog := by assumption) (e_mem : E .mem := by assumption) (e_msixs : E .msixs := by assumption) (e_out : E .out := by assumption) (e_regs : E .regs := by assumption) (e_rseq : E .rseq := by assumption) : Kept E s0 (State.coStart s c) := by
  delta State.coStart
  repeat' (first
    | (with_reducible first | assumption | apply State.bump_kept | apply State.record_kept | apply State.writeBytes_kept | apply kept_ite)
    | (extract_lets +onlyGivenNames z
       first
         | (refine (show Kept E s0 z → _ from fun hz => ?_) ?_; clear_value z; rotate_left; dsimp only [z]; rotate_left)
         | clear_value z)
    | split
    | dsimp only)

theorem State.coFinish_kept (s : State) (c : Cmd) (h0 : Kept E s0 s) (e_ecc : E .ecc := by assumption) (e_erq : E .erq := by assumption) (e_folded : E .folded := by assumption) (e_fwLog : E .fwLog := by assumption) (e_mem : E .mem := by assumption) (e_msixs : E .msixs := by assumption) (e_out : E .out := by assumption) (e_regs : E .regs := by assumption) (e_rseq : E .rseq := by assumption) : Kept E s0 (State.coFinish s c) := by
  delta State.coFinish
  repeat' (first
    | (with_reducible first | assumption | apply State.writeBytes_kept | apply kept_ite)
    | split
    | dsimp only)

theorem State.goMma_kept (s : State) (c : Cmd) (h0 : Kept E s0 s) (e_cmds : E .cmds := by assumption) (e_ecc : E .ecc := by assumption) (e_erq : E .erq := by assumption) (e_evseq : E .evseq := by assumption) (e_folded : E .folded := by assumption) (e_fwLog : E .fwLog := by assumption) (e_mem : E .mem := by assumption) (e_msixs : E .msixs := by assumption) (e_out : E .out := by assumption) (e_regs : E .regs := by assumption) (e_rseq : E .rseq := by assumption) (e_streams : E .streams := by assumption) : Kept E s0 (State.goMma s c) := by
  delta State.goMma
  repeat' (first
    | (with_reducible first | assumption | apply State.coStart_kept | apply State.goTiled_kept)
    | dsimp only)

end Sys2Proof.Machine
end

