-- ==== Sys2Proof/Laws/KeptVector.lean ====
section
/-!
SUPPORT. Laws/KeptVector.lean: the operations of Machine/Vector.lean change neither the queue nor the canonical forms.
-/
namespace Sys2Proof.Machine

set_option Elab.async false
set_option linter.all false

variable {E : Comp → Prop} {s0 : State}

theorem PartRun.vecRows_kept (r : PartRun) (o : Desc) (bx : Nat × Nat × Nat × Nat) (b : List Nat) (lanes : List Lane) (row : Nat → (List Nat × List Nat × Nat) × List Key × Nat) (h0 : Kept E s0 r.s) (e_ecc : E .ecc := by assumption) (e_erq : E .erq := by assumption) (e_folded : E .folded := by assumption) (e_fwLog : E .fwLog := by assumption) (e_mem : E .mem := by assumption) (e_msixs : E .msixs := by assumption) (e_out : E .out := by assumption) (e_regs : E .regs := by assumption) (e_rseq : E .rseq := by assumption) : Kept E s0 (PartRun.vecRows r o bx b lanes row).s := by
  delta PartRun.vecRows
  repeat' (first
    | (refine fun _ => ?_)
    | (with_reducible first | assumption | apply State.writeRun_kept | apply kept_foldl)
    | (extract_lets +onlyGivenNames z
       first
         | (refine (show Kept E s0 z → _ from fun hz => ?_) ?_; clear_value z; rotate_left; dsimp only [z]; rotate_left)
         | (refine (show Kept E s0 z.s → _ from fun hz => ?_) ?_; clear_value z; rotate_left; dsimp only [z]; rotate_left)
         | (refine (show Kept E s0 z.1 → _ from fun hz => ?_) ?_; clear_value z; rotate_left; dsimp only [z]; rotate_left)
         | (refine (show Kept E s0 z.2.1 → _ from fun hz => ?_) ?_; clear_value z; rotate_left; dsimp only [z]; rotate_left)
         | (refine (show Kept E s0 z.2.2 → _ from fun hz => ?_) ?_; clear_value z; rotate_left; dsimp only [z]; rotate_left)
         | clear_value z)
    | dsimp only)

theorem PartRun.stageItem_kept (kvw : PartRun → Cmd → List SideWr → PartRun) (c : Cmd) (cl : Nat) (r : PartRun) (it : Item) (h0 : ∀ r c w, Kept E s0 r.s → Kept E s0 (kvw r c w).s) (h1 : Kept E s0 r.s) (e_ecc : E .ecc := by assumption) (e_erq : E .erq := by assumption) (e_folded : E .folded := by assumption) (e_fwLog : E .fwLog := by assumption) (e_mem : E .mem := by assumption) (e_msixs : E .msixs := by assumption) (e_out : E .out := by assumption) (e_regs : E .regs := by assumption) (e_rseq : E .rseq := by assumption) : Kept E s0 (PartRun.stageItem kvw c cl r it).s := by
  delta PartRun.stageItem
  repeat' (first
    | (refine fun _ => ?_)
    | (with_reducible first | assumption | apply PartRun.read_kept | apply State.sideRuns_kept | apply State.writeRun_kept | apply kept_ite | apply kept_foldl | apply h0)
    | (extract_lets +onlyGivenNames z
       first
         | (refine (show Kept E s0 z → _ from fun hz => ?_) ?_; clear_value z; rotate_left; dsimp only [z]; rotate_left)
         | (refine (show Kept E s0 z.s → _ from fun hz => ?_) ?_; clear_value z; rotate_left; dsimp only [z]; rotate_left)
         | (refine (show Kept E s0 z.1 → _ from fun hz => ?_) ?_; clear_value z; rotate_left; dsimp only [z]; rotate_left)
         | (refine (show Kept E s0 z.2.1 → _ from fun hz => ?_) ?_; clear_value z; rotate_left; dsimp only [z]; rotate_left)
         | (refine (show Kept E s0 z.2.2 → _ from fun hz => ?_) ?_; clear_value z; rotate_left; dsimp only [z]; rotate_left)
         | clear_value z)
    | split
    | dsimp only)

theorem PartRun.vopItem_kept (kvw : PartRun → Cmd → List SideWr → PartRun) (c : Cmd) (cl : Nat) (r : PartRun) (it : Item) (h0 : ∀ r c w, Kept E s0 r.s → Kept E s0 (kvw r c w).s) (h1 : Kept E s0 r.s) (e_ecc : E .ecc := by assumption) (e_erq : E .erq := by assumption) (e_folded : E .folded := by assumption) (e_fwLog : E .fwLog := by assumption) (e_mem : E .mem := by assumption) (e_msixs : E .msixs := by assumption) (e_out : E .out := by assumption) (e_regs : E .regs := by assumption) (e_rseq : E .rseq := by assumption) : Kept E s0 (PartRun.vopItem kvw c cl r it).s := by
  delta PartRun.vopItem
  repeat' (first
    | (refine fun _ => ?_)
    | (with_reducible first | assumption | apply PartRun.read_kept | apply PartRun.stageItem_kept | apply PartRun.vecRows_kept | apply kept_ite | apply h0)
    | (extract_lets +onlyGivenNames z
       first
         | (refine (show Kept E s0 z → _ from fun hz => ?_) ?_; clear_value z; rotate_left; dsimp only [z]; rotate_left)
         | (refine (show Kept E s0 z.1 → _ from fun hz => ?_) ?_; clear_value z; rotate_left; dsimp only [z]; rotate_left)
         | (refine (show Kept E s0 z.2.1 → _ from fun hz => ?_) ?_; clear_value z; rotate_left; dsimp only [z]; rotate_left)
         | (refine (show Kept E s0 z.2.2 → _ from fun hz => ?_) ?_; clear_value z; rotate_left; dsimp only [z]; rotate_left)
         | clear_value z)
    | split
    | dsimp only)

theorem PartRun.sfpItem_kept (c : Cmd) (cl : Nat) (r : PartRun) (it : Item) (h0 : Kept E s0 r.s) (e_ecc : E .ecc := by assumption) (e_erq : E .erq := by assumption) (e_folded : E .folded := by assumption) (e_fwLog : E .fwLog := by assumption) (e_mem : E .mem := by assumption) (e_msixs : E .msixs := by assumption) (e_out : E .out := by assumption) (e_regs : E .regs := by assumption) (e_rseq : E .rseq := by assumption) : Kept E s0 (PartRun.sfpItem c cl r it).s := by
  delta PartRun.sfpItem
  repeat' (first
    | (refine fun _ => ?_)
    | (with_reducible first | assumption | apply PartRun.read_kept | apply PartRun.vecRows_kept | apply kept_ite)
    | (extract_lets +onlyGivenNames z
       first
         | (refine (show Kept E s0 z → _ from fun hz => ?_) ?_; clear_value z; rotate_left; dsimp only [z]; rotate_left)
         | (refine (show Kept E s0 z.1 → _ from fun hz => ?_) ?_; clear_value z; rotate_left; dsimp only [z]; rotate_left)
         | (refine (show Kept E s0 z.2.1 → _ from fun hz => ?_) ?_; clear_value z; rotate_left; dsimp only [z]; rotate_left)
         | (refine (show Kept E s0 z.2.2 → _ from fun hz => ?_) ?_; clear_value z; rotate_left; dsimp only [z]; rotate_left)
         | clear_value z)
    | split
    | dsimp only)

end Sys2Proof.Machine
end

