-- ==== Sys2Proof/Laws/KeptConv.lean ====
section
/-!
SUPPORT. Laws/KeptConv.lean: the operations of Machine/Conv.lean change neither the queue nor the canonical forms.
-/
namespace Sys2Proof.Machine

set_option Elab.async false
set_option linter.all false

variable {E : Comp → Prop} {s0 : State}

theorem State.proSide_kept (s : State) (single : Bool) (wr : List SideWr) (h0 : Kept E s0 s) (e_ecc : E .ecc := by assumption) (e_erq : E .erq := by assumption) (e_folded : E .folded := by assumption) (e_fresh : E .fresh := by assumption) (e_fwLog : E .fwLog := by assumption) (e_mem : E .mem := by assumption) (e_msixs : E .msixs := by assumption) (e_out : E .out := by assumption) (e_regs : E .regs := by assumption) (e_rseq : E .rseq := by assumption) : Kept E s0 (State.proSide s single wr) := by
  delta State.proSide
  repeat' (first
    | (refine fun _ => ?_)
    | (with_reducible first | assumption | apply State.freeRun_kept | apply State.sideRuns_kept | apply kept_ite | apply kept_foldl)
    | split
    | dsimp only)

theorem State.cvStore_kept (s : State) (c : Cmd) (v : Cv) (b : List Nat) (p : Nat × Nat) (n0 : Nat) (vals : List (Num × Nat)) (h0 : Kept E s0 s) (e_ecc : E .ecc := by assumption) (e_erq : E .erq := by assumption) (e_folded : E .folded := by assumption) (e_fresh : E .fresh := by assumption) (e_fwLog : E .fwLog := by assumption) (e_mem : E .mem := by assumption) (e_msixs : E .msixs := by assumption) (e_out : E .out := by assumption) (e_regs : E .regs := by assumption) (e_rseq : E .rseq := by assumption) : Kept E s0 (State.cvStore s c v b p n0 vals).1 := by
  delta State.cvStore
  repeat' (first
    | (refine fun _ => ?_)
    | (with_reducible first | assumption | apply State.freeRun_kept | apply State.writeRun_kept | apply kept_ite | apply kept_foldl | apply kept_foldl_fst | apply kept_foldl_mid | apply kept_foldl_last)
    | (extract_lets +onlyGivenNames z
       first
         | (refine (show Kept E s0 z → _ from fun hz => ?_) ?_; clear_value z; rotate_left; dsimp only [z]; rotate_left)
         | (refine (show Kept E s0 z.1 → _ from fun hz => ?_) ?_; clear_value z; rotate_left; dsimp only [z]; rotate_left)
         | (refine (show Kept E s0 z.2.1 → _ from fun hz => ?_) ?_; clear_value z; rotate_left; dsimp only [z]; rotate_left)
         | (refine (show Kept E s0 z.2.2 → _ from fun hz => ?_) ?_; clear_value z; rotate_left; dsimp only [z]; rotate_left)
         | clear_value z)
    | split
    | dsimp only)

theorem PartRun.cvFinish_kept (r : PartRun) (c : Cmd) (cl : Nat) (v : Cv) (it : Item) (rows : List (List Num)) (tab : List (List Nat)) (h0 : Kept E s0 r.s) (e_ecc : E .ecc := by assumption) (e_erq : E .erq := by assumption) (e_folded : E .folded := by assumption) (e_fresh : E .fresh := by assumption) (e_fwLog : E .fwLog := by assumption) (e_mem : E .mem := by assumption) (e_msixs : E .msixs := by assumption) (e_out : E .out := by assumption) (e_regs : E .regs := by assumption) (e_rseq : E .rseq := by assumption) : Kept E s0 (PartRun.cvFinish r c cl v it rows tab).s := by
  delta PartRun.cvFinish
  repeat' (first
    | (refine fun _ => ?_)
    | (with_reducible first | assumption | apply State.cvStore_kept | apply PartRun.read_kept | apply State.sideRuns_kept | apply kept_ite | apply kept_foldl | apply kept_foldl_fst | apply kept_foldl_mid | apply kept_foldl_last)
    | (extract_lets +onlyGivenNames z
       first
         | (refine (show Kept E s0 z → _ from fun hz => ?_) ?_; clear_value z; rotate_left; dsimp only [z]; rotate_left)
         | (refine (show Kept E s0 z.s → _ from fun hz => ?_) ?_; clear_value z; rotate_left; dsimp only [z]; rotate_left)
         | (refine (show Kept E s0 z.1 → _ from fun hz => ?_) ?_; clear_value z; rotate_left; dsimp only [z]; rotate_left)
         | (refine (show Kept E s0 z.2.1 → _ from fun hz => ?_) ?_; clear_value z; rotate_left; dsimp only [z]; rotate_left)
         | (refine (show Kept E s0 z.2.2 → _ from fun hz => ?_) ?_; clear_value z; rotate_left; dsimp only [z]; rotate_left)
         | clear_value z)
    | split
    | dsimp only)

theorem PartRun.convItem_kept (c : Cmd) (cl : Nat) (r : PartRun) (it : Item) (h0 : Kept E s0 r.s) (e_ecc : E .ecc := by assumption) (e_erq : E .erq := by assumption) (e_folded : E .folded := by assumption) (e_fresh : E .fresh := by assumption) (e_fwLog : E .fwLog := by assumption) (e_mem : E .mem := by assumption) (e_msixs : E .msixs := by assumption) (e_out : E .out := by assumption) (e_regs : E .regs := by assumption) (e_rseq : E .rseq := by assumption) : Kept E s0 (PartRun.convItem c cl r it).s := by
  delta PartRun.convItem
  repeat' (first
    | (refine fun _ => ?_)
    | (with_reducible first | assumption | apply PartRun.cvFinish_kept | apply State.proSide_kept | apply PartRun.read_kept | apply kept_ite)
    | (extract_lets +onlyGivenNames z
       first
         | (refine (show Kept E s0 z → _ from fun hz => ?_) ?_; clear_value z; rotate_left; dsimp only [z]; rotate_left)
         | (refine (show Kept E s0 z.s → _ from fun hz => ?_) ?_; clear_value z; rotate_left; dsimp only [z]; rotate_left)
         | (refine (show Kept E s0 z.1 → _ from fun hz => ?_) ?_; clear_value z; rotate_left; dsimp only [z]; rotate_left)
         | (refine (show Kept E s0 z.2.1 → _ from fun hz => ?_) ?_; clear_value z; rotate_left; dsimp only [z]; rotate_left)
         | (refine (show Kept E s0 z.2.2 → _ from fun hz => ?_) ?_; clear_value z; rotate_left; dsimp only [z]; rotate_left)
         | clear_value z)
    | split
    | dsimp only)

theorem PartRun.poolItem_kept (c : Cmd) (cl : Nat) (r : PartRun) (it : Item) (h0 : Kept E s0 r.s) (e_ecc : E .ecc := by assumption) (e_erq : E .erq := by assumption) (e_folded : E .folded := by assumption) (e_fresh : E .fresh := by assumption) (e_fwLog : E .fwLog := by assumption) (e_mem : E .mem := by assumption) (e_msixs : E .msixs := by assumption) (e_out : E .out := by assumption) (e_regs : E .regs := by assumption) (e_rseq : E .rseq := by assumption) : Kept E s0 (PartRun.poolItem c cl r it).s := by
  delta PartRun.poolItem
  repeat' (first
    | (refine fun _ => ?_)
    | (with_reducible first | assumption | apply PartRun.cvFinish_kept | apply State.proSide_kept | apply PartRun.read_kept | apply State.writeRun_kept | apply kept_ite | apply kept_foldl | apply kept_foldl_fst | apply kept_foldl_mid | apply kept_foldl_last | apply PartRun.foldl_kept | apply PartRun.foldl_fst_kept)
    | (extract_lets +onlyGivenNames z
       first
         | (refine (show Kept E s0 z → _ from fun hz => ?_) ?_; clear_value z; rotate_left; dsimp only [z]; rotate_left)
         | (refine (show Kept E s0 z.s → _ from fun hz => ?_) ?_; clear_value z; rotate_left; dsimp only [z]; rotate_left)
         | (refine (show Kept E s0 z.1 → _ from fun hz => ?_) ?_; clear_value z; rotate_left; dsimp only [z]; rotate_left)
         | (refine (show Kept E s0 z.2.1 → _ from fun hz => ?_) ?_; clear_value z; rotate_left; dsimp only [z]; rotate_left)
         | (refine (show Kept E s0 z.2.2 → _ from fun hz => ?_) ?_; clear_value z; rotate_left; dsimp only [z]; rotate_left)
         | clear_value z)
    | split
    | dsimp only)

end Sys2Proof.Machine
end

