-- ==== Sys2Proof/Laws/KeptFlash.lean ====
section
/-!
SUPPORT. Laws/KeptFlash.lean: the operations of Machine/Flash.lean change neither the queue nor the canonical forms.
-/
namespace Sys2Proof.Machine

set_option Elab.async false
set_option linter.all false

variable {E : Comp → Prop} {s0 : State}

theorem State.engineDone_kept (s : State) (id status : Nat) (poisoned : Bool) (h0 : Kept E s0 s) (e_cmds : E .cmds := by assumption) (e_ctxs : E .ctxs := by assumption) (e_erq : E .erq := by assumption) (e_folded : E .folded := by assumption) (e_fwLog : E .fwLog := by assumption) (e_msixs : E .msixs := by assumption) (e_out : E .out := by assumption) (e_regs : E .regs := by assumption) (e_rseq : E .rseq := by assumption) : Kept E s0 (State.engineDone s id status poisoned) := by
  delta State.engineDone
  repeat' (first
    | (with_reducible first | assumption | apply State.faultCtx_kept | apply State.setCmd_kept | apply kept_ite)
    | (extract_lets +onlyGivenNames z
       first
         | (refine (show Kept E s0 z → _ from fun hz => ?_) ?_; clear_value z; rotate_left; dsimp only [z]; rotate_left)
         | clear_value z)
    | split
    | dsimp only)

theorem State.setFlash_kept {s : State} (f : Flash) (h0 : Kept E s0 s) (hf : rises s.flash.regions = true → rises f.regions = true) (e_flash : E .flash := by assumption) :
    Kept E s0 (s.setFlash f) :=
  kept_flash _ h0 hf

theorem State.setRegion_kept (s : State) (r : Nat) (v : FlRegion) (h0 : Kept E s0 s) (e_flash : E .flash := by assumption) : Kept E s0 (State.setRegion s r v) := by
  exact State.setFlash_kept _ h0 (rises_tset _ _)

theorem State.copyOut_kept (s : State) (d x : Desc) (data : Tab Byte) (bad : List Nat) (h0 : Kept E s0 s) (e_ecc : E .ecc := by assumption) (e_erq : E .erq := by assumption) (e_folded : E .folded := by assumption) (e_fwLog : E .fwLog := by assumption) (e_mem : E .mem := by assumption) (e_msixs : E .msixs := by assumption) (e_out : E .out := by assumption) (e_regs : E .regs := by assumption) (e_rseq : E .rseq := by assumption) : Kept E s0 (State.copyOut s d x data bad).1 := by
  delta State.copyOut
  repeat' (first
    | (refine fun _ => ?_)
    | (with_reducible first | assumption | apply State.markWords_kept | apply regionView_kept | apply State.writeRun_kept | apply kept_ite | apply kept_foldl)
    | (extract_lets +onlyGivenNames z
       first
         | (refine (show Kept E s0 z → _ from fun hz => ?_) ?_; clear_value z; rotate_left; dsimp only [z]; rotate_left)
         | (refine (show Kept E s0 z.1 → _ from fun hz => ?_) ?_; clear_value z; rotate_left; dsimp only [z]; rotate_left)
         | (refine (show Kept E s0 z.2.1 → _ from fun hz => ?_) ?_; clear_value z; rotate_left; dsimp only [z]; rotate_left)
         | (refine (show Kept E s0 z.2.2 → _ from fun hz => ?_) ?_; clear_value z; rotate_left; dsimp only [z]; rotate_left)
         | clear_value z)
    | split
    | dsimp only)

theorem State.releaseHeld_kept (s : State) (r : Nat) (h0 : Kept E s0 s) (e_flash : E .flash := by assumption) : Kept E s0 (State.releaseHeld s r) := by
  delta State.releaseHeld
  repeat' (first
    | (refine fun _ => ?_)
    | (with_reducible first | assumption | apply State.setFlash_kept | apply State.setRegion_kept)
    | (extract_lets +onlyGivenNames z
       first
         | (refine (show Kept E s0 z → _ from fun hz => ?_) ?_; clear_value z; rotate_left; dsimp only [z]; rotate_left)
         | (refine (show Kept E s0 z.1 → _ from fun hz => ?_) ?_; clear_value z; rotate_left; dsimp only [z]; rotate_left)
         | (refine (show Kept E s0 z.2.1 → _ from fun hz => ?_) ?_; clear_value z; rotate_left; dsimp only [z]; rotate_left)
         | (refine (show Kept E s0 z.2.2 → _ from fun hz => ?_) ?_; clear_value z; rotate_left; dsimp only [z]; rotate_left)
         | (have _ : Flash := z; subst z)
         | clear_value z)
    | ((with_reducible show rises _ = true); show rises (State.flash _).regions = true; assumption)
    | dsimp only)

theorem State.finishJob_kept (s : State) (j : FlJob) (h0 : Kept E s0 s) (e_cmds : E .cmds := by assumption) (e_ctxs : E .ctxs := by assumption) (e_ecc : E .ecc := by assumption) (e_erq : E .erq := by assumption) (e_flash : E .flash := by assumption) (e_folded : E .folded := by assumption) (e_fwLog : E .fwLog := by assumption) (e_mem : E .mem := by assumption) (e_msixs : E .msixs := by assumption) (e_out : E .out := by assumption) (e_regs : E .regs := by assumption) (e_rseq : E .rseq := by assumption) : Kept E s0 (State.finishJob s j) := by
  delta State.finishJob
  repeat' (first
    | (refine fun _ => ?_)
    | (with_reducible first | assumption | apply State.copyOut_kept | apply State.engineDone_kept | apply PartRun.read_kept | apply State.releaseHeld_kept | apply State.setFlash_kept | apply kept_ite | apply kept_foldl | apply kept_foldl_fst | apply kept_foldl_mid | apply kept_foldl_last | apply PartRun.foldl_kept | apply PartRun.foldl_fst_kept)
    | (extract_lets +onlyGivenNames z
       first
         | (refine (show Kept E s0 z → _ from fun hz => ?_) ?_; clear_value z; rotate_left; dsimp only [z]; rotate_left)
         | (refine (show Kept E s0 z.s → _ from fun hz => ?_) ?_; clear_value z; rotate_left; dsimp only [z]; rotate_left)
         | (refine (show Kept E s0 z.1 → _ from fun hz => ?_) ?_; clear_value z; rotate_left; dsimp only [z]; rotate_left)
         | (refine (show Kept E s0 z.1.s → _ from fun hz => ?_) ?_; clear_value z; rotate_left; dsimp only [z]; rotate_left)
         | (refine (show Kept E s0 z.2.1 → _ from fun hz => ?_) ?_; clear_value z; rotate_left; dsimp only [z]; rotate_left)
         | (refine (show Kept E s0 z.2.2 → _ from fun hz => ?_) ?_; clear_value z; rotate_left; dsimp only [z]; rotate_left)
         | (refine (show (∀ t, Kept E s0 t → Kept E s0 (z t)) → _ from fun hz => ?_) ?_; clear_value z; rotate_left; dsimp only [z]; rotate_left)
         | (have _ : Flash := z; subst z)
         | clear_value z)
    | with_reducible apply hz
    | ((with_reducible show rises _ = true); show rises (State.flash _).regions = true; assumption)
    | split
    | dsimp only)

theorem State.goFlread_kept (s : State) (c : Cmd) (h0 : Kept E s0 s) (e_cmds : E .cmds := by assumption) (e_ctxs : E .ctxs := by assumption) (e_ecc : E .ecc := by assumption) (e_erq : E .erq := by assumption) (e_flash : E .flash := by assumption) (e_folded : E .folded := by assumption) (e_fwLog : E .fwLog := by assumption) (e_mem : E .mem := by assumption) (e_msixs : E .msixs := by assumption) (e_out : E .out := by assumption) (e_regs : E .regs := by assumption) (e_rseq : E .rseq := by assumption) (e_streams : E .streams := by assumption) : Kept E s0 (State.goFlread s c) := by
  delta State.goFlread
  repeat' (first
    | (refine fun _ => ?_)
    | (with_reducible first | assumption | apply State.finishJob_kept | apply State.goAnchor_kept | apply PartRun.read_kept | apply State.setFlash_kept | apply kept_ite | apply kept_foldl | apply kept_foldl_fst | apply kept_foldl_mid | apply kept_foldl_last | apply PartRun.foldl_kept | apply PartRun.foldl_fst_kept)
    | (extract_lets +onlyGivenNames z
       first
         | (refine (show Kept E s0 z → _ from fun hz => ?_) ?_; clear_value z; rotate_left; dsimp only [z]; rotate_left)
         | (refine (show Kept E s0 z.s → _ from fun hz => ?_) ?_; clear_value z; rotate_left; dsimp only [z]; rotate_left)
         | (refine (show Kept E s0 z.1 → _ from fun hz => ?_) ?_; clear_value z; rotate_left; dsimp only [z]; rotate_left)
         | (refine (show Kept E s0 z.1.s → _ from fun hz => ?_) ?_; clear_value z; rotate_left; dsimp only [z]; rotate_left)
         | (refine (show Kept E s0 z.2.1 → _ from fun hz => ?_) ?_; clear_value z; rotate_left; dsimp only [z]; rotate_left)
         | (refine (show Kept E s0 z.2.2 → _ from fun hz => ?_) ?_; clear_value z; rotate_left; dsimp only [z]; rotate_left)
         | (refine (show (∀ t, Kept E s0 t → Kept E s0 (z t)) → _ from fun hz => ?_) ?_; clear_value z; rotate_left; dsimp only [z]; rotate_left)
         | (have _ : Flash := z; subst z)
         | clear_value z)
    | with_reducible apply hz
    | ((with_reducible show rises _ = true); show rises (State.flash _).regions = true; assumption)
    | split
    | dsimp only)

theorem State.codeword_kept (s : State) (r block step : Nat) (w : NandAt) (h0 : Kept E s0 s) (e_erq : E .erq := by assumption) (e_flash : E .flash := by assumption) (e_folded : E .folded := by assumption) (e_fwLog : E .fwLog := by assumption) (e_msixs : E .msixs := by assumption) (e_out : E .out := by assumption) (e_regs : E .regs := by assumption) (e_rseq : E .rseq := by assumption) : Kept E s0 (State.codeword s r block step w) := by
  delta State.codeword
  repeat' (first
    | (refine fun _ => ?_)
    | (with_reducible first | assumption | apply State.bump_kept | apply State.record_kept | apply State.setFlash_kept | apply kept_ite | apply kept_foldl | apply kept_foldl_fst | apply kept_foldl_mid | apply kept_foldl_last | apply PartRun.foldl_kept | apply PartRun.foldl_fst_kept)
    | (extract_lets +onlyGivenNames z
       first
         | (refine (show Kept E s0 z → _ from fun hz => ?_) ?_; clear_value z; rotate_left; dsimp only [z]; rotate_left)
         | (refine (show Kept E s0 z.s → _ from fun hz => ?_) ?_; clear_value z; rotate_left; dsimp only [z]; rotate_left)
         | (refine (show Kept E s0 z.1 → _ from fun hz => ?_) ?_; clear_value z; rotate_left; dsimp only [z]; rotate_left)
         | (refine (show Kept E s0 z.1.s → _ from fun hz => ?_) ?_; clear_value z; rotate_left; dsimp only [z]; rotate_left)
         | (refine (show Kept E s0 z.2.1 → _ from fun hz => ?_) ?_; clear_value z; rotate_left; dsimp only [z]; rotate_left)
         | (refine (show Kept E s0 z.2.2 → _ from fun hz => ?_) ?_; clear_value z; rotate_left; dsimp only [z]; rotate_left)
         | (refine (show (∀ t, Kept E s0 t → Kept E s0 (z t)) → _ from fun hz => ?_) ?_; clear_value z; rotate_left; dsimp only [z]; rotate_left)
         | (have _ : Flash := z; subst z)
         | clear_value z)
    | with_reducible apply hz
    | ((with_reducible show rises _ = true); show rises (State.flash _).regions = true; assumption)
    | split
    | dsimp only)

theorem State.jobRead_kept (s : State) (n block step : Nat) (w : NandAt) (h0 : Kept E s0 s) (e_cmds : E .cmds := by assumption) (e_ctxs : E .ctxs := by assumption) (e_ecc : E .ecc := by assumption) (e_erq : E .erq := by assumption) (e_flash : E .flash := by assumption) (e_folded : E .folded := by assumption) (e_fwLog : E .fwLog := by assumption) (e_mem : E .mem := by assumption) (e_msixs : E .msixs := by assumption) (e_out : E .out := by assumption) (e_regs : E .regs := by assumption) (e_rseq : E .rseq := by assumption) : Kept E s0 (State.jobRead s n block step w) := by
  delta State.jobRead
  repeat' (first
    | (refine fun _ => ?_)
    | (with_reducible first | assumption | apply State.codeword_kept | apply State.finishJob_kept | apply State.setFlash_kept | apply State.setRegion_kept | apply kept_ite | apply kept_foldl | apply kept_foldl_fst | apply kept_foldl_mid | apply kept_foldl_last | apply PartRun.foldl_kept | apply PartRun.foldl_fst_kept)
    | (extract_lets +onlyGivenNames z
       first
         | (refine (show Kept E s0 z → _ from fun hz => ?_) ?_; clear_value z; rotate_left; dsimp only [z]; rotate_left)
         | (refine (show Kept E s0 z.s → _ from fun hz => ?_) ?_; clear_value z; rotate_left; dsimp only [z]; rotate_left)
         | (refine (show Kept E s0 z.1 → _ from fun hz => ?_) ?_; clear_value z; rotate_left; dsimp only [z]; rotate_left)
         | (refine (show Kept E s0 z.1.s → _ from fun hz => ?_) ?_; clear_value z; rotate_left; dsimp only [z]; rotate_left)
         | (refine (show Kept E s0 z.2.1 → _ from fun hz => ?_) ?_; clear_value z; rotate_left; dsimp only [z]; rotate_left)
         | (refine (show Kept E s0 z.2.2 → _ from fun hz => ?_) ?_; clear_value z; rotate_left; dsimp only [z]; rotate_left)
         | (refine (show (∀ t, Kept E s0 t → Kept E s0 (z t)) → _ from fun hz => ?_) ?_; clear_value z; rotate_left; dsimp only [z]; rotate_left)
         | (have _ : Flash := z; subst z)
         | clear_value z)
    | with_reducible apply hz
    | ((with_reducible show rises _ = true); show rises (State.flash _).regions = true; assumption)
    | split
    | dsimp only)

theorem State.showStaged_kept (s : State) (h0 : Kept E s0 s) (e_regs : E .regs := by assumption) : Kept E s0 (State.showStaged s) := by
  delta State.showStaged
  repeat' (first
    | (with_reducible first | assumption | apply State.setF_kept)
    | dsimp only)

theorem State.stage_kept (s : State) (r bytes : Nat) (upd : Bool) (blocks : List Nat) (prev : Tab Byte) (h0 : Kept E s0 s) (e_flash : E .flash := by assumption) (e_regs : E .regs := by assumption) : Kept E s0 (State.stage s r bytes upd blocks prev) := by
  delta State.stage
  repeat' (first
    | (refine fun _ => ?_)
    | (with_reducible first | assumption | apply State.setFlash_kept | apply State.showStaged_kept | apply kept_ite | apply kept_foldl | apply kept_foldl_fst | apply kept_foldl_mid | apply kept_foldl_last | apply PartRun.foldl_kept | apply PartRun.foldl_fst_kept)
    | (extract_lets +onlyGivenNames z
       first
         | (refine (show Kept E s0 z → _ from fun hz => ?_) ?_; clear_value z; rotate_left; dsimp only [z]; rotate_left)
         | (refine (show Kept E s0 z.s → _ from fun hz => ?_) ?_; clear_value z; rotate_left; dsimp only [z]; rotate_left)
         | (refine (show Kept E s0 z.1 → _ from fun hz => ?_) ?_; clear_value z; rotate_left; dsimp only [z]; rotate_left)
         | (refine (show Kept E s0 z.1.s → _ from fun hz => ?_) ?_; clear_value z; rotate_left; dsimp only [z]; rotate_left)
         | (refine (show Kept E s0 z.2.1 → _ from fun hz => ?_) ?_; clear_value z; rotate_left; dsimp only [z]; rotate_left)
         | (refine (show Kept E s0 z.2.2 → _ from fun hz => ?_) ?_; clear_value z; rotate_left; dsimp only [z]; rotate_left)
         | (refine (show (∀ t, Kept E s0 t → Kept E s0 (z t)) → _ from fun hz => ?_) ?_; clear_value z; rotate_left; dsimp only [z]; rotate_left)
         | (have _ : Flash := z; subst z)
         | clear_value z)
    | with_reducible apply hz
    | ((with_reducible show rises _ = true); show rises (State.flash _).regions = true; assumption)
    | split
    | dsimp only)

theorem State.takeFree_kept (s : State) (n : Nat) (h0 : Kept E s0 s) (e_flash : E .flash := by assumption) : Kept E s0 (State.takeFree s n) := by
  delta State.takeFree
  repeat' (first
    | (refine fun _ => ?_)
    | (with_reducible first | assumption | apply State.setFlash_kept | apply kept_ite | apply kept_foldl | apply kept_foldl_fst | apply kept_foldl_mid | apply kept_foldl_last | apply PartRun.foldl_kept | apply PartRun.foldl_fst_kept)
    | (extract_lets +onlyGivenNames z
       first
         | (refine (show Kept E s0 z → _ from fun hz => ?_) ?_; clear_value z; rotate_left; dsimp only [z]; rotate_left)
         | (refine (show Kept E s0 z.s → _ from fun hz => ?_) ?_; clear_value z; rotate_left; dsimp only [z]; rotate_left)
         | (refine (show Kept E s0 z.1 → _ from fun hz => ?_) ?_; clear_value z; rotate_left; dsimp only [z]; rotate_left)
         | (refine (show Kept E s0 z.1.s → _ from fun hz => ?_) ?_; clear_value z; rotate_left; dsimp only [z]; rotate_left)
         | (refine (show Kept E s0 z.2.1 → _ from fun hz => ?_) ?_; clear_value z; rotate_left; dsimp only [z]; rotate_left)
         | (refine (show Kept E s0 z.2.2 → _ from fun hz => ?_) ?_; clear_value z; rotate_left; dsimp only [z]; rotate_left)
         | (refine (show (∀ t, Kept E s0 t → Kept E s0 (z t)) → _ from fun hz => ?_) ?_; clear_value z; rotate_left; dsimp only [z]; rotate_left)
         | (have _ : Flash := z; subst z)
         | clear_value z)
    | with_reducible apply hz
    | ((with_reducible show rises _ = true); show rises (State.flash _).regions = true; assumption)
    | split
    | dsimp only)

theorem State.giveFree_kept (s : State) (n : Nat) (h0 : Kept E s0 s) (e_flash : E .flash := by assumption) : Kept E s0 (State.giveFree s n) := by
  delta State.giveFree
  repeat' (first
    | (refine fun _ => ?_)
    | (with_reducible first | assumption | apply State.setFlash_kept | apply kept_ite | apply kept_foldl | apply kept_foldl_fst | apply kept_foldl_mid | apply kept_foldl_last | apply PartRun.foldl_kept | apply PartRun.foldl_fst_kept)
    | (extract_lets +onlyGivenNames z
       first
         | (refine (show Kept E s0 z → _ from fun hz => ?_) ?_; clear_value z; rotate_left; dsimp only [z]; rotate_left)
         | (refine (show Kept E s0 z.s → _ from fun hz => ?_) ?_; clear_value z; rotate_left; dsimp only [z]; rotate_left)
         | (refine (show Kept E s0 z.1 → _ from fun hz => ?_) ?_; clear_value z; rotate_left; dsimp only [z]; rotate_left)
         | (refine (show Kept E s0 z.1.s → _ from fun hz => ?_) ?_; clear_value z; rotate_left; dsimp only [z]; rotate_left)
         | (refine (show Kept E s0 z.2.1 → _ from fun hz => ?_) ?_; clear_value z; rotate_left; dsimp only [z]; rotate_left)
         | (refine (show Kept E s0 z.2.2 → _ from fun hz => ?_) ?_; clear_value z; rotate_left; dsimp only [z]; rotate_left)
         | (refine (show (∀ t, Kept E s0 t → Kept E s0 (z t)) → _ from fun hz => ?_) ?_; clear_value z; rotate_left; dsimp only [z]; rotate_left)
         | (have _ : Flash := z; subst z)
         | clear_value z)
    | with_reducible apply hz
    | ((with_reducible show rises _ = true); show rises (State.flash _).regions = true; assumption)
    | split
    | dsimp only)

theorem State.dropUpdate_kept (s : State) (r : Nat) (h0 : Kept E s0 s) (e_flash : E .flash := by assumption) (e_regs : E .regs := by assumption) : Kept E s0 (State.dropUpdate s r) := by
  delta State.dropUpdate
  repeat' (first
    | (refine fun _ => ?_)
    | (with_reducible first | assumption | apply State.giveFree_kept | apply State.setF_kept | apply State.setFlash_kept | apply State.setRegion_kept | apply State.showStaged_kept)
    | (extract_lets +onlyGivenNames z
       first
         | (refine (show Kept E s0 z → _ from fun hz => ?_) ?_; clear_value z; rotate_left; dsimp only [z]; rotate_left)
         | (have _ : Flash := z; subst z)
         | clear_value z)
    | ((with_reducible show rises _ = true); show rises (State.flash _).regions = true; assumption)
    | dsimp only)

theorem State.commitUpdate_kept (s : State) (r : Nat) (h0 : Kept E s0 s) (e_flash : E .flash := by assumption) (e_regs : E .regs := by assumption) : Kept E s0 (State.commitUpdate s r) := by
  delta State.commitUpdate
  repeat' (first
    | (refine fun _ => ?_)
    | (with_reducible first | assumption | apply State.releaseHeld_kept | apply State.setF_kept | apply State.setFlash_kept | apply State.setRegion_kept | apply kept_ite)
    | (extract_lets +onlyGivenNames z
       first
         | (refine (show Kept E s0 z → _ from fun hz => ?_) ?_; clear_value z; rotate_left; dsimp only [z]; rotate_left)
         | (have _ : Flash := z; subst z)
         | clear_value z)
    | ((with_reducible show rises _ = true); show rises (State.flash _).regions = true; assumption)
    | split
    | dsimp only)

/-- A `FlAns` whose state keeps it. -/
inductive FlAns.Kept (E : Comp → Prop) (s0 : State) : FlAns → Prop where
  | kept_wait : FlAns.Kept E s0 (.wait )
  | kept_done {t : State} {w1 : Nat} (h : Machine.Kept E s0 t) : FlAns.Kept E s0 (.done t w1)
  | kept_staged {t : State} (h : Machine.Kept E s0 t) : FlAns.Kept E s0 (.staged t)

theorem FlAns.of_done {t : State} {w1 : Nat} {a : FlAns} (e : a = .done t w1) (h : FlAns.Kept E s0 a) : Machine.Kept E s0 t := by
  subst e
  cases h
  assumption

theorem FlAns.of_staged {t : State} {a : FlAns} (e : a = .staged t) (h : FlAns.Kept E s0 a) : Machine.Kept E s0 t := by
  subst e
  cases h
  assumption

theorem FlAns.kept_ite {c : Prop} [Decidable c] {a b : FlAns} (ha : FlAns.Kept E s0 a) (hb : FlAns.Kept E s0 b) : FlAns.Kept E s0 (if c then a else b) := by
  split <;> assumption


theorem State.flData_kept (s : State) (c : Cmd) (h0 : Kept E s0 s) (e_ecc : E .ecc := by assumption) (e_erq : E .erq := by assumption) (e_flash : E .flash := by assumption) (e_folded : E .folded := by assumption) (e_fwLog : E .fwLog := by assumption) (e_mem : E .mem := by assumption) (e_msixs : E .msixs := by assumption) (e_out : E .out := by assumption) (e_regs : E .regs := by assumption) (e_rseq : E .rseq := by assumption) : FlAns.Kept E s0 (s.flData c) := by
  delta State.flData
  repeat' (first
    | (refine fun _ => ?_)
    | (with_reducible first | assumption | apply State.giveFree_kept | apply State.readWords_kept | apply State.setRegion_kept | apply State.stage_kept | apply State.takeFree_kept | apply kept_ite)
    | with_reducible apply FlAns.Kept.kept_wait
    | with_reducible apply FlAns.Kept.kept_done
    | with_reducible apply FlAns.Kept.kept_staged
    | with_reducible apply FlAns.kept_ite
    | (extract_lets +onlyGivenNames z
       first
         | (refine (show Kept E s0 z → _ from fun hz => ?_) ?_; clear_value z; rotate_left; dsimp only [z]; rotate_left)
         | (refine (show Kept E s0 z.2.1 → _ from fun hz => ?_) ?_; clear_value z; rotate_left; dsimp only [z]; rotate_left)
         | (refine (show Kept E s0 z.2.2 → _ from fun hz => ?_) ?_; clear_value z; rotate_left; dsimp only [z]; rotate_left)
         | clear_value z)
    | split
    | dsimp only)

theorem State.flPerform_kept (s : State) (c : Cmd) (h0 : Kept E s0 s) (e_ecc : E .ecc := by assumption) (e_erq : E .erq := by assumption) (e_flash : E .flash := by assumption) (e_folded : E .folded := by assumption) (e_fwLog : E .fwLog := by assumption) (e_mem : E .mem := by assumption) (e_msixs : E .msixs := by assumption) (e_out : E .out := by assumption) (e_regs : E .regs := by assumption) (e_rseq : E .rseq := by assumption) : FlAns.Kept E s0 (s.flPerform c) := by
  delta State.flPerform
  repeat' (first
    | (refine fun _ => ?_)
    | (with_reducible first | assumption | apply State.commitUpdate_kept | apply State.dropUpdate_kept | apply State.setF_kept | apply State.setRegion_kept | apply kept_ite)
    | with_reducible apply FlAns.Kept.kept_wait
    | with_reducible apply FlAns.Kept.kept_done
    | with_reducible apply FlAns.Kept.kept_staged
    | with_reducible apply FlAns.kept_ite
    | with_reducible apply State.flData_kept
    | (extract_lets +onlyGivenNames z
       first
         | (refine (show Kept E s0 z → _ from fun hz => ?_) ?_; clear_value z; rotate_left; dsimp only [z]; rotate_left)
         | clear_value z)
    | split
    | dsimp only)

theorem State.flashRun_kept (s : State) (r : Nat) (fuel : Nat) (h0 : Kept E s0 s) (e_cmds : E .cmds := by assumption) (e_ctxs : E .ctxs := by assumption) (e_ecc : E .ecc := by assumption) (e_erq : E .erq := by assumption) (e_flash : E .flash := by assumption) (e_folded : E .folded := by assumption) (e_fwLog : E .fwLog := by assumption) (e_mem : E .mem := by assumption) (e_msixs : E .msixs := by assumption) (e_out : E .out := by assumption) (e_regs : E .regs := by assumption) (e_rseq : E .rseq := by assumption) : Kept E s0 (State.flashRun s r fuel) := by
  induction fuel generalizing s with
  | zero => exact h0
  | succ n ih =>
    unfold State.flashRun
    repeat' (first
      | (refine fun _ => ?_)
      | (with_reducible first | assumption | apply ih | apply State.engineDone_kept | apply State.setCmd_kept | apply State.setRegion_kept | apply kept_ite)
      | exact FlAns.of_done (by assumption) (State.flPerform_kept _ _ (by assumption))
      | exact FlAns.of_staged (by assumption) (State.flPerform_kept _ _ (by assumption))
      | (extract_lets +onlyGivenNames z
         first
           | (refine (show Kept E s0 z → _ from fun hz => ?_) ?_; clear_value z; rotate_left; dsimp only [z]; rotate_left)
           | (refine (show (∀ t, Kept E s0 t → Kept E s0 (z t)) → _ from fun hz => ?_) ?_; clear_value z; rotate_left; dsimp only [z]; rotate_left)
           | clear_value z)
      | with_reducible apply hz
      | split
      | dsimp only)

theorem State.flashAll_kept (s : State) (h0 : Kept E s0 s) (e_cmds : E .cmds := by assumption) (e_ctxs : E .ctxs := by assumption) (e_ecc : E .ecc := by assumption) (e_erq : E .erq := by assumption) (e_flash : E .flash := by assumption) (e_folded : E .folded := by assumption) (e_fwLog : E .fwLog := by assumption) (e_mem : E .mem := by assumption) (e_msixs : E .msixs := by assumption) (e_out : E .out := by assumption) (e_regs : E .regs := by assumption) (e_rseq : E .rseq := by assumption) : Kept E s0 (State.flashAll s) := by
  delta State.flashAll
  repeat' (first
    | (refine fun _ => ?_)
    | (with_reducible first | assumption | apply State.flashRun_kept | apply kept_foldl)
    | dsimp only)

theorem State.supersede_kept (s : State) (c : Cmd) (h0 : Kept E s0 s) (e_cmds : E .cmds := by assumption) (e_ctxs : E .ctxs := by assumption) (e_erq : E .erq := by assumption) (e_flash : E .flash := by assumption) (e_folded : E .folded := by assumption) (e_fwLog : E .fwLog := by assumption) (e_msixs : E .msixs := by assumption) (e_out : E .out := by assumption) (e_regs : E .regs := by assumption) (e_rseq : E .rseq := by assumption) : Kept E s0 (State.supersede s c) := by
  delta State.supersede
  repeat' (first
    | (refine fun _ => ?_)
    | (with_reducible first | assumption | apply State.dropUpdate_kept | apply State.engineDone_kept | apply State.setRegion_kept | apply kept_ite | apply kept_foldl)
    | (extract_lets +onlyGivenNames z
       first
         | (refine (show Kept E s0 z → _ from fun hz => ?_) ?_; clear_value z; rotate_left; dsimp only [z]; rotate_left)
         | clear_value z)
    | split
    | dsimp only)

theorem State.goFlwrite_kept (s : State) (c : Cmd) (h0 : Kept E s0 s) (e_cmds : E .cmds := by assumption) (e_ctxs : E .ctxs := by assumption) (e_ecc : E .ecc := by assumption) (e_erq : E .erq := by assumption) (e_flash : E .flash := by assumption) (e_folded : E .folded := by assumption) (e_fwLog : E .fwLog := by assumption) (e_mem : E .mem := by assumption) (e_msixs : E .msixs := by assumption) (e_out : E .out := by assumption) (e_regs : E .regs := by assumption) (e_rseq : E .rseq := by assumption) (e_streams : E .streams := by assumption) : Kept E s0 (State.goFlwrite s c) := by
  delta State.goFlwrite
  repeat' (first
    | (with_reducible first | assumption | apply State.flashRun_kept | apply State.goAnchor_kept | apply State.setRegion_kept | apply State.supersede_kept)
    | (extract_lets +onlyGivenNames z
       first
         | (refine (show Kept E s0 z → _ from fun hz => ?_) ?_; clear_value z; rotate_left; dsimp only [z]; rotate_left)
         | clear_value z)
    | dsimp only)

theorem State.programmed_kept (s : State) (ids : List Nat) (h0 : Kept E s0 s) (e_cmds : E .cmds := by assumption) (e_ctxs : E .ctxs := by assumption) (e_ecc : E .ecc := by assumption) (e_erq : E .erq := by assumption) (e_flash : E .flash := by assumption) (e_folded : E .folded := by assumption) (e_fwLog : E .fwLog := by assumption) (e_mem : E .mem := by assumption) (e_msixs : E .msixs := by assumption) (e_out : E .out := by assumption) (e_regs : E .regs := by assumption) (e_rseq : E .rseq := by assumption) : Kept E s0 (State.programmed s ids) := by
  delta State.programmed
  repeat' (first
    | (refine fun _ => ?_)
    | (with_reducible first | assumption | apply State.flashAll_kept | apply State.setFlash_kept | apply State.showStaged_kept)
    | ((with_reducible show rises _ = true); show rises (State.flash _).regions = true; assumption)
    | dsimp only)

theorem State.checkWorn_kept (s : State) (h0 : Kept E s0 s) (e_regs : E .regs := by assumption) : Kept E s0 (State.checkWorn s) := by
  delta State.checkWorn
  repeat' (first
    | (refine fun _ => ?_)
    | (with_reducible first | assumption | apply State.setF_kept | apply kept_ite | apply kept_foldl)
    | (extract_lets +onlyGivenNames z
       first
         | (refine (show Kept E s0 z → _ from fun hz => ?_) ?_; clear_value z; rotate_left; dsimp only [z]; rotate_left)
         | clear_value z)
    | split
    | dsimp only)

theorem State.growBad_kept (s : State) (slc : Bool) (w : NandAt) (h0 : Kept E s0 s) (e_erq : E .erq := by assumption) (e_flash : E .flash := by assumption) (e_folded : E .folded := by assumption) (e_fwLog : E .fwLog := by assumption) (e_msixs : E .msixs := by assumption) (e_out : E .out := by assumption) (e_regs : E .regs := by assumption) (e_rseq : E .rseq := by assumption) : Kept E s0 (State.growBad s slc w) := by
  delta State.growBad
  repeat' (first
    | (refine fun _ => ?_)
    | (with_reducible first | assumption | apply State.bump_kept | apply State.checkWorn_kept | apply State.record_kept | apply State.setFlash_kept | apply kept_ite | apply kept_foldl | apply kept_foldl_fst | apply kept_foldl_mid | apply kept_foldl_last | apply PartRun.foldl_kept | apply PartRun.foldl_fst_kept)
    | (extract_lets +onlyGivenNames z
       first
         | (refine (show Kept E s0 z → _ from fun hz => ?_) ?_; clear_value z; rotate_left; dsimp only [z]; rotate_left)
         | (refine (show Kept E s0 z.s → _ from fun hz => ?_) ?_; clear_value z; rotate_left; dsimp only [z]; rotate_left)
         | (refine (show Kept E s0 z.1 → _ from fun hz => ?_) ?_; clear_value z; rotate_left; dsimp only [z]; rotate_left)
         | (refine (show Kept E s0 z.1.s → _ from fun hz => ?_) ?_; clear_value z; rotate_left; dsimp only [z]; rotate_left)
         | (refine (show Kept E s0 z.2.1 → _ from fun hz => ?_) ?_; clear_value z; rotate_left; dsimp only [z]; rotate_left)
         | (refine (show Kept E s0 z.2.2 → _ from fun hz => ?_) ?_; clear_value z; rotate_left; dsimp only [z]; rotate_left)
         | (refine (show (∀ t, Kept E s0 t → Kept E s0 (z t)) → _ from fun hz => ?_) ?_; clear_value z; rotate_left; dsimp only [z]; rotate_left)
         | (have _ : Flash := z; subst z)
         | clear_value z)
    | with_reducible apply hz
    | ((with_reducible show rises _ = true); show rises (State.flash _).regions = true; assumption)
    | split
    | dsimp only)

theorem State.loseBlocks_kept (s : State) (r : Nat) (bl : List Nat) (h0 : Kept E s0 s) (e_flash : E .flash := by assumption) : Kept E s0 (State.loseBlocks s r bl) := by
  delta State.loseBlocks
  repeat' (first
    | (refine fun _ => ?_)
    | (with_reducible first | assumption | apply State.setFlash_kept | apply State.setRegion_kept | apply kept_ite)
    | (extract_lets +onlyGivenNames z
       first
         | (refine (show Kept E s0 z → _ from fun hz => ?_) ?_; clear_value z; rotate_left; dsimp only [z]; rotate_left)
         | (have _ : Flash := z; subst z)
         | clear_value z)
    | ((with_reducible show rises _ = true); show rises (State.flash _).regions = true; assumption)
    | split
    | dsimp only)

theorem State.worn_kept (s : State) (slc : Bool) (n : Nat) (h0 : Kept E s0 s) (e_erq : E .erq := by assumption) (e_flash : E .flash := by assumption) (e_folded : E .folded := by assumption) (e_fwLog : E .fwLog := by assumption) (e_msixs : E .msixs := by assumption) (e_out : E .out := by assumption) (e_regs : E .regs := by assumption) (e_rseq : E .rseq := by assumption) : Kept E s0 (State.worn s slc n) := by
  delta State.worn
  repeat' (first
    | (refine fun _ => ?_)
    | (with_reducible first | assumption | apply State.record_kept | apply State.setF_kept | apply State.setFlash_kept | apply kept_ite | apply kept_foldl | apply kept_foldl_fst | apply kept_foldl_mid | apply kept_foldl_last | apply PartRun.foldl_kept | apply PartRun.foldl_fst_kept)
    | (extract_lets +onlyGivenNames z
       first
         | (refine (show Kept E s0 z → _ from fun hz => ?_) ?_; clear_value z; rotate_left; dsimp only [z]; rotate_left)
         | (refine (show Kept E s0 z.s → _ from fun hz => ?_) ?_; clear_value z; rotate_left; dsimp only [z]; rotate_left)
         | (refine (show Kept E s0 z.1 → _ from fun hz => ?_) ?_; clear_value z; rotate_left; dsimp only [z]; rotate_left)
         | (refine (show Kept E s0 z.1.s → _ from fun hz => ?_) ?_; clear_value z; rotate_left; dsimp only [z]; rotate_left)
         | (refine (show Kept E s0 z.2.1 → _ from fun hz => ?_) ?_; clear_value z; rotate_left; dsimp only [z]; rotate_left)
         | (refine (show Kept E s0 z.2.2 → _ from fun hz => ?_) ?_; clear_value z; rotate_left; dsimp only [z]; rotate_left)
         | (refine (show (∀ t, Kept E s0 t → Kept E s0 (z t)) → _ from fun hz => ?_) ?_; clear_value z; rotate_left; dsimp only [z]; rotate_left)
         | (have _ : Flash := z; subst z)
         | clear_value z)
    | with_reducible apply hz
    | ((with_reducible show rises _ = true); show rises (State.flash _).regions = true; assumption)
    | split
    | dsimp only)

theorem State.leaveReady_kept (s : State) (st : Nat) (h0 : Kept E s0 s) (e_cmds : E .cmds := by assumption) (e_ctxs : E .ctxs := by assumption) (e_ecc : E .ecc := by assumption) (e_erq : E .erq := by assumption) (e_flash : E .flash := by assumption) (e_folded : E .folded := by assumption) (e_fwLog : E .fwLog := by assumption) (e_mem : E .mem := by assumption) (e_msixs : E .msixs := by assumption) (e_out : E .out := by assumption) (e_regs : E .regs := by assumption) (e_rseq : E .rseq := by assumption) : Kept E s0 (State.leaveReady s st) := by
  delta State.leaveReady
  repeat' (first
    | (with_reducible first | assumption | apply State.programmed_kept | apply State.setF_kept | apply kept_ite)
    | split
    | dsimp only)

theorem State.holdMeasure_kept (s : State) (v : Nat) (h0 : Kept E s0 s) (e_cmds : E .cmds := by assumption) (e_ctxs : E .ctxs := by assumption) (e_ecc : E .ecc := by assumption) (e_erq : E .erq := by assumption) (e_flash : E .flash := by assumption) (e_folded : E .folded := by assumption) (e_fwLog : E .fwLog := by assumption) (e_mem : E .mem := by assumption) (e_msixs : E .msixs := by assumption) (e_out : E .out := by assumption) (e_regs : E .regs := by assumption) (e_rseq : E .rseq := by assumption) : Kept E s0 (State.holdMeasure s v) := by
  delta State.holdMeasure
  repeat' (first
    | (refine fun _ => ?_)
    | (with_reducible first | assumption | apply State.flashAll_kept | apply State.leaveReady_kept | apply State.setF_kept | apply State.setFlash_kept | apply kept_ite | apply kept_foldl | apply kept_foldl_fst | apply kept_foldl_mid | apply kept_foldl_last | apply PartRun.foldl_kept | apply PartRun.foldl_fst_kept)
    | (extract_lets +onlyGivenNames z
       first
         | (refine (show Kept E s0 z → _ from fun hz => ?_) ?_; clear_value z; rotate_left; dsimp only [z]; rotate_left)
         | (refine (show Kept E s0 z.s → _ from fun hz => ?_) ?_; clear_value z; rotate_left; dsimp only [z]; rotate_left)
         | (refine (show Kept E s0 z.1 → _ from fun hz => ?_) ?_; clear_value z; rotate_left; dsimp only [z]; rotate_left)
         | (refine (show Kept E s0 z.1.s → _ from fun hz => ?_) ?_; clear_value z; rotate_left; dsimp only [z]; rotate_left)
         | (refine (show Kept E s0 z.2.1 → _ from fun hz => ?_) ?_; clear_value z; rotate_left; dsimp only [z]; rotate_left)
         | (refine (show Kept E s0 z.2.2 → _ from fun hz => ?_) ?_; clear_value z; rotate_left; dsimp only [z]; rotate_left)
         | (refine (show (∀ t, Kept E s0 t → Kept E s0 (z t)) → _ from fun hz => ?_) ?_; clear_value z; rotate_left; dsimp only [z]; rotate_left)
         | (have _ : Flash := z; subst z)
         | clear_value z)
    | with_reducible apply hz
    | ((with_reducible show rises _ = true); show rises (State.flash _).regions = true; assumption)
    | split
    | dsimp only)

theorem State.holdProbe_kept (s : State) (ok : Bool) (h0 : Kept E s0 s) (e_cmds : E .cmds := by assumption) (e_ctxs : E .ctxs := by assumption) (e_ecc : E .ecc := by assumption) (e_erq : E .erq := by assumption) (e_flash : E .flash := by assumption) (e_folded : E .folded := by assumption) (e_fwLog : E .fwLog := by assumption) (e_mem : E .mem := by assumption) (e_msixs : E .msixs := by assumption) (e_out : E .out := by assumption) (e_regs : E .regs := by assumption) (e_rseq : E .rseq := by assumption) : Kept E s0 (State.holdProbe s ok) := by
  delta State.holdProbe
  repeat' (first
    | (refine fun _ => ?_)
    | (with_reducible first | assumption | apply State.holdMeasure_kept | apply State.setFlash_kept | apply kept_ite | apply kept_foldl | apply kept_foldl_fst | apply kept_foldl_mid | apply kept_foldl_last | apply PartRun.foldl_kept | apply PartRun.foldl_fst_kept)
    | (extract_lets +onlyGivenNames z
       first
         | (refine (show Kept E s0 z → _ from fun hz => ?_) ?_; clear_value z; rotate_left; dsimp only [z]; rotate_left)
         | (refine (show Kept E s0 z.s → _ from fun hz => ?_) ?_; clear_value z; rotate_left; dsimp only [z]; rotate_left)
         | (refine (show Kept E s0 z.1 → _ from fun hz => ?_) ?_; clear_value z; rotate_left; dsimp only [z]; rotate_left)
         | (refine (show Kept E s0 z.1.s → _ from fun hz => ?_) ?_; clear_value z; rotate_left; dsimp only [z]; rotate_left)
         | (refine (show Kept E s0 z.2.1 → _ from fun hz => ?_) ?_; clear_value z; rotate_left; dsimp only [z]; rotate_left)
         | (refine (show Kept E s0 z.2.2 → _ from fun hz => ?_) ?_; clear_value z; rotate_left; dsimp only [z]; rotate_left)
         | (refine (show (∀ t, Kept E s0 t → Kept E s0 (z t)) → _ from fun hz => ?_) ?_; clear_value z; rotate_left; dsimp only [z]; rotate_left)
         | (have _ : Flash := z; subst z)
         | clear_value z)
    | with_reducible apply hz
    | ((with_reducible show rises _ = true); show rises (State.flash _).regions = true; assumption)
    | split
    | dsimp only)

theorem State.flashFlush_kept (s : State) (h0 : Kept E s0 s) (e_flash : E .flash := by assumption) (e_fresh : E .fresh := by assumption) (e_regs : E .regs := by assumption) : Kept E s0 (State.flashFlush s) := by
  delta State.flashFlush
  repeat' (first
    | (refine fun _ => ?_)
    | (with_reducible first | assumption | apply State.bumpFresh_kept | apply State.setFlash_kept | apply State.setRegion_kept | apply State.showStaged_kept | apply kept_ite | apply kept_foldl)
    | (extract_lets +onlyGivenNames z
       first
         | (refine (show Kept E s0 z → _ from fun hz => ?_) ?_; clear_value z; rotate_left; dsimp only [z]; rotate_left)
         | (refine (show Kept E s0 z.1 → _ from fun hz => ?_) ?_; clear_value z; rotate_left; dsimp only [z]; rotate_left)
         | (refine (show Kept E s0 z.2.1 → _ from fun hz => ?_) ?_; clear_value z; rotate_left; dsimp only [z]; rotate_left)
         | (refine (show Kept E s0 z.2.2 → _ from fun hz => ?_) ?_; clear_value z; rotate_left; dsimp only [z]; rotate_left)
         | (have _ : Flash := z; subst z)
         | clear_value z)
    | ((with_reducible show rises _ = true); show rises (State.flash _).regions = true; assumption)
    | split
    | dsimp only)

theorem State.dropUpdates_kept (s : State) (p : Nat → Bool) (h0 : Kept E s0 s) (e_flash : E .flash := by assumption) (e_regs : E .regs := by assumption) : Kept E s0 (State.dropUpdates s p) := by
  delta State.dropUpdates
  repeat' (first
    | (refine fun _ => ?_)
    | (with_reducible first | assumption | apply State.dropUpdate_kept | apply kept_ite | apply kept_foldl)
    | split
    | dsimp only)

theorem execFlread_kept (q : Nat) (s : State) (h0 : Kept E s0 s) (e_cmds : E .cmds := by assumption) (e_ctxs : E .ctxs := by assumption) (e_ecc : E .ecc := by assumption) (e_erq : E .erq := by assumption) (e_flash : E .flash := by assumption) (e_folded : E .folded := by assumption) (e_fwLog : E .fwLog := by assumption) (e_mem : E .mem := by assumption) (e_msixs : E .msixs := by assumption) (e_out : E .out := by assumption) (e_regs : E .regs := by assumption) (e_rseq : E .rseq := by assumption) (e_streams : E .streams := by assumption) : ∃ t, execFlread q s = .next t ∧ Kept E s0 t := by
  refine ⟨_, rfl, ?_⟩
  repeat' (first
    | (refine fun _ => ?_)
    | (with_reducible first | assumption | apply State.goFlread_kept | apply State.issue_kept)
    | dsimp only)

theorem execFlwriteSpill_kept (q : Nat) (s : State) (h0 : Kept E s0 s) (e_cmds : E .cmds := by assumption) (e_ctxs : E .ctxs := by assumption) (e_ecc : E .ecc := by assumption) (e_erq : E .erq := by assumption) (e_flash : E .flash := by assumption) (e_folded : E .folded := by assumption) (e_fwLog : E .fwLog := by assumption) (e_mem : E .mem := by assumption) (e_msixs : E .msixs := by assumption) (e_out : E .out := by assumption) (e_regs : E .regs := by assumption) (e_rseq : E .rseq := by assumption) (e_streams : E .streams := by assumption) : ∃ t, execFlwriteSpill q s = .next t ∧ Kept E s0 t := by
  refine ⟨_, rfl, ?_⟩
  repeat' (first
    | (refine fun _ => ?_)
    | (with_reducible first | assumption | apply State.goFlwrite_kept | apply State.issue_kept)
    | dsimp only)

theorem execFlwriteBegin_kept (q : Nat) (s : State) (h0 : Kept E s0 s) (e_cmds : E .cmds := by assumption) (e_ctxs : E .ctxs := by assumption) (e_ecc : E .ecc := by assumption) (e_erq : E .erq := by assumption) (e_flash : E .flash := by assumption) (e_folded : E .folded := by assumption) (e_fwLog : E .fwLog := by assumption) (e_mem : E .mem := by assumption) (e_msixs : E .msixs := by assumption) (e_out : E .out := by assumption) (e_regs : E .regs := by assumption) (e_rseq : E .rseq := by assumption) (e_streams : E .streams := by assumption) : ∃ t, execFlwriteBegin q s = .next t ∧ Kept E s0 t := by
  refine ⟨_, rfl, ?_⟩
  repeat' (first
    | (refine fun _ => ?_)
    | (with_reducible first | assumption | apply State.goFlwrite_kept | apply State.issue_kept)
    | dsimp only)

theorem execFlwriteData_kept (q : Nat) (s : State) (h0 : Kept E s0 s) (e_cmds : E .cmds := by assumption) (e_ctxs : E .ctxs := by assumption) (e_ecc : E .ecc := by assumption) (e_erq : E .erq := by assumption) (e_flash : E .flash := by assumption) (e_folded : E .folded := by assumption) (e_fwLog : E .fwLog := by assumption) (e_mem : E .mem := by assumption) (e_msixs : E .msixs := by assumption) (e_out : E .out := by assumption) (e_regs : E .regs := by assumption) (e_rseq : E .rseq := by assumption) (e_streams : E .streams := by assumption) : ∃ t, execFlwriteData q s = .next t ∧ Kept E s0 t := by
  refine ⟨_, rfl, ?_⟩
  repeat' (first
    | (refine fun _ => ?_)
    | (with_reducible first | assumption | apply State.goFlwrite_kept | apply State.issue_kept)
    | dsimp only)

theorem execFlwriteCommit_kept (q : Nat) (s : State) (h0 : Kept E s0 s) (e_cmds : E .cmds := by assumption) (e_ctxs : E .ctxs := by assumption) (e_ecc : E .ecc := by assumption) (e_erq : E .erq := by assumption) (e_flash : E .flash := by assumption) (e_folded : E .folded := by assumption) (e_fwLog : E .fwLog := by assumption) (e_mem : E .mem := by assumption) (e_msixs : E .msixs := by assumption) (e_out : E .out := by assumption) (e_regs : E .regs := by assumption) (e_rseq : E .rseq := by assumption) (e_streams : E .streams := by assumption) : ∃ t, execFlwriteCommit q s = .next t ∧ Kept E s0 t := by
  refine ⟨_, rfl, ?_⟩
  repeat' (first
    | (refine fun _ => ?_)
    | (with_reducible first | assumption | apply State.goFlwrite_kept | apply State.issue_kept)
    | dsimp only)

theorem execFlwriteAbandon_kept (q : Nat) (s : State) (h0 : Kept E s0 s) (e_cmds : E .cmds := by assumption) (e_ctxs : E .ctxs := by assumption) (e_ecc : E .ecc := by assumption) (e_erq : E .erq := by assumption) (e_flash : E .flash := by assumption) (e_folded : E .folded := by assumption) (e_fwLog : E .fwLog := by assumption) (e_mem : E .mem := by assumption) (e_msixs : E .msixs := by assumption) (e_out : E .out := by assumption) (e_regs : E .regs := by assumption) (e_rseq : E .rseq := by assumption) (e_streams : E .streams := by assumption) : ∃ t, execFlwriteAbandon q s = .next t ∧ Kept E s0 t := by
  refine ⟨_, rfl, ?_⟩
  repeat' (first
    | (refine fun _ => ?_)
    | (with_reducible first | assumption | apply State.goFlwrite_kept | apply State.issue_kept)
    | dsimp only)

theorem execFlashReadComplete_kept (job block step ch lun loc : Nat) (s : State) (h0 : Kept E s0 s) (e_cmds : E .cmds := by assumption) (e_ctxs : E .ctxs := by assumption) (e_ecc : E .ecc := by assumption) (e_erq : E .erq := by assumption) (e_flash : E .flash := by assumption) (e_folded : E .folded := by assumption) (e_fwLog : E .fwLog := by assumption) (e_mem : E .mem := by assumption) (e_msixs : E .msixs := by assumption) (e_out : E .out := by assumption) (e_regs : E .regs := by assumption) (e_rseq : E .rseq := by assumption) : ∃ t, execFlashReadComplete job block step ch lun loc s = .next t ∧ Kept E s0 t := by
  refine ⟨_, rfl, ?_⟩
  repeat' (first
    | (refine fun _ => ?_)
    | (with_reducible first | assumption | apply State.jobRead_kept)
    | dsimp only)

theorem execProgramComplete_kept (writes : List Nat) (s : State) (h0 : Kept E s0 s) (e_cmds : E .cmds := by assumption) (e_ctxs : E .ctxs := by assumption) (e_ecc : E .ecc := by assumption) (e_erq : E .erq := by assumption) (e_flash : E .flash := by assumption) (e_folded : E .folded := by assumption) (e_fwLog : E .fwLog := by assumption) (e_mem : E .mem := by assumption) (e_msixs : E .msixs := by assumption) (e_out : E .out := by assumption) (e_regs : E .regs := by assumption) (e_rseq : E .rseq := by assumption) : ∃ t, execProgramComplete writes s = .next t ∧ Kept E s0 t := by
  refine ⟨_, rfl, ?_⟩
  repeat' (first
    | (refine fun _ => ?_)
    | (with_reducible first | assumption | apply State.programmed_kept)
    | dsimp only)

theorem execGrownBadBlock_kept (slc : Bool) (ch lun block : Nat) (s : State) (h0 : Kept E s0 s) (e_erq : E .erq := by assumption) (e_flash : E .flash := by assumption) (e_folded : E .folded := by assumption) (e_fwLog : E .fwLog := by assumption) (e_msixs : E .msixs := by assumption) (e_out : E .out := by assumption) (e_regs : E .regs := by assumption) (e_rseq : E .rseq := by assumption) : ∃ t, execGrownBadBlock slc ch lun block s = .next t ∧ Kept E s0 t := by
  refine ⟨_, rfl, ?_⟩
  repeat' (first
    | (refine fun _ => ?_)
    | (with_reducible first | assumption | apply State.growBad_kept)
    | dsimp only)

theorem execWearLevelMove_kept (slc : Bool) (worst : Nat) (s : State) (h0 : Kept E s0 s) (e_erq : E .erq := by assumption) (e_flash : E .flash := by assumption) (e_folded : E .folded := by assumption) (e_fwLog : E .fwLog := by assumption) (e_msixs : E .msixs := by assumption) (e_out : E .out := by assumption) (e_regs : E .regs := by assumption) (e_rseq : E .rseq := by assumption) : ∃ t, execWearLevelMove slc worst s = .next t ∧ Kept E s0 t := by
  refine ⟨_, rfl, ?_⟩
  repeat' (first
    | (refine fun _ => ?_)
    | (with_reducible first | assumption | apply State.setFlash_kept | apply State.worn_kept)
    | ((with_reducible show rises _ = true); show rises (State.flash _).regions = true; assumption)
    | dsimp only)

theorem execRetentionPatrol_kept (region block step : Nat) (old : Bool) (ch lun loc : Nat) (s : State) (h0 : Kept E s0 s) (e_erq : E .erq := by assumption) (e_flash : E .flash := by assumption) (e_folded : E .folded := by assumption) (e_fwLog : E .fwLog := by assumption) (e_msixs : E .msixs := by assumption) (e_out : E .out := by assumption) (e_regs : E .regs := by assumption) (e_rseq : E .rseq := by assumption) : ∃ t, execRetentionPatrol region block step old ch lun loc s = .next t ∧ Kept E s0 t := by
  refine ⟨_, rfl, ?_⟩
  repeat' (first
    | (refine fun _ => ?_)
    | (with_reducible first | assumption | apply State.codeword_kept | apply State.loseBlocks_kept | apply State.setFlash_kept | apply kept_ite)
    | (extract_lets +onlyGivenNames z
       first
         | (refine (show Kept E s0 z → _ from fun hz => ?_) ?_; clear_value z; rotate_left; dsimp only [z]; rotate_left)
         | (have _ : Flash := z; subst z)
         | clear_value z)
    | ((with_reducible show rises _ = true); show rises (State.flash _).regions = true; assumption)
    | split
    | dsimp only)

theorem execLunFail_kept (lun : Nat) (s : State) (h0 : Kept E s0 s) (e_erq : E .erq := by assumption) (e_folded : E .folded := by assumption) (e_fwLog : E .fwLog := by assumption) (e_msixs : E .msixs := by assumption) (e_out : E .out := by assumption) (e_regs : E .regs := by assumption) (e_rseq : E .rseq := by assumption) : ∃ t, execLunFail lun s = .next t ∧ Kept E s0 t := by
  refine ⟨_, rfl, ?_⟩
  repeat' (first
    | (refine fun _ => ?_)
    | (with_reducible first | assumption | apply State.record_kept | apply State.setF_kept | apply kept_ite)
    | (extract_lets +onlyGivenNames z
       first
         | (refine (show Kept E s0 z → _ from fun hz => ?_) ?_; clear_value z; rotate_left; dsimp only [z]; rotate_left)
         | clear_value z)
    | split
    | dsimp only)

theorem execDoubleLunFail_kept (lun : Nat) (lost : List (Nat × List Nat)) (s : State) (h0 : Kept E s0 s) (e_erq : E .erq := by assumption) (e_flash : E .flash := by assumption) (e_folded : E .folded := by assumption) (e_fwLog : E .fwLog := by assumption) (e_msixs : E .msixs := by assumption) (e_out : E .out := by assumption) (e_regs : E .regs := by assumption) (e_rseq : E .rseq := by assumption) : ∃ t, execDoubleLunFail lun lost s = .next t ∧ Kept E s0 t := by
  refine ⟨_, rfl, ?_⟩
  repeat' (first
    | (refine fun _ => ?_)
    | (with_reducible first | assumption | apply State.loseBlocks_kept | apply State.record_kept | apply State.setF_kept | apply kept_ite | apply kept_foldl)
    | (extract_lets +onlyGivenNames z
       first
         | (refine (show Kept E s0 z → _ from fun hz => ?_) ?_; clear_value z; rotate_left; dsimp only [z]; rotate_left)
         | (refine (show Kept E s0 z.1 → _ from fun hz => ?_) ?_; clear_value z; rotate_left; dsimp only [z]; rotate_left)
         | (refine (show Kept E s0 z.2.1 → _ from fun hz => ?_) ?_; clear_value z; rotate_left; dsimp only [z]; rotate_left)
         | (refine (show Kept E s0 z.2.2 → _ from fun hz => ?_) ?_; clear_value z; rotate_left; dsimp only [z]; rotate_left)
         | clear_value z)
    | split
    | dsimp only)

theorem execRebuildComplete_kept (s : State) (h0 : Kept E s0 s) (e_regs : E .regs := by assumption) : ∃ t, execRebuildComplete s = .next t ∧ Kept E s0 t := by
  refine ⟨_, rfl, ?_⟩
  repeat' (first
    | (refine fun _ => ?_)
    | (with_reducible first | assumption | apply State.setF_kept | apply kept_ite)
    | split
    | dsimp only)

theorem execHoldupMeasure_kept (v : Nat) (s : State) (h0 : Kept E s0 s) (e_cmds : E .cmds := by assumption) (e_ctxs : E .ctxs := by assumption) (e_ecc : E .ecc := by assumption) (e_erq : E .erq := by assumption) (e_flash : E .flash := by assumption) (e_folded : E .folded := by assumption) (e_fwLog : E .fwLog := by assumption) (e_mem : E .mem := by assumption) (e_msixs : E .msixs := by assumption) (e_out : E .out := by assumption) (e_regs : E .regs := by assumption) (e_rseq : E .rseq := by assumption) : ∃ t, execHoldupMeasure v s = .next t ∧ Kept E s0 t := by
  refine ⟨_, rfl, ?_⟩
  repeat' (first
    | (refine fun _ => ?_)
    | (with_reducible first | assumption | apply State.holdMeasure_kept)
    | dsimp only)

theorem execHoldupProbe_kept (ok : Bool) (s : State) (h0 : Kept E s0 s) (e_cmds : E .cmds := by assumption) (e_ctxs : E .ctxs := by assumption) (e_ecc : E .ecc := by assumption) (e_erq : E .erq := by assumption) (e_flash : E .flash := by assumption) (e_folded : E .folded := by assumption) (e_fwLog : E .fwLog := by assumption) (e_mem : E .mem := by assumption) (e_msixs : E .msixs := by assumption) (e_out : E .out := by assumption) (e_regs : E .regs := by assumption) (e_rseq : E .rseq := by assumption) : ∃ t, execHoldupProbe ok s = .next t ∧ Kept E s0 t := by
  refine ⟨_, rfl, ?_⟩
  repeat' (first
    | (refine fun _ => ?_)
    | (with_reducible first | assumption | apply State.holdProbe_kept)
    | dsimp only)

end Sys2Proof.Machine
end

