-- ==== Sys2Proof/Laws/KeptAccess.lean ====
section
/-!
SUPPORT. Laws/KeptAccess.lean: the operations of Machine/Access.lean change neither the queue nor the canonical forms.
-/
namespace Sys2Proof.Machine

set_option Elab.async false
set_option linter.all false

variable {E : Comp → Prop} {s0 : State}

theorem State.raisePart_kept (s : State) (p : Nat) (f : Fld) (h0 : Kept E s0 s) (e_msixs : E .msixs := by assumption) (e_out : E .out := by assumption) (e_regs : E .regs := by assumption) : Kept E s0 (State.raisePart s p f) := by
  delta State.raisePart
  repeat' (first
    | (refine fun _ => ?_)
    | (with_reducible first | assumption | apply State.raiseEvt_kept | apply kept_foldl)
    | dsimp only)

theorem State.refuseAcc_kept (s : State) (a : Acr) (h0 : Kept E s0 s) (e_msixs : E .msixs := by assumption) (e_out : E .out := by assumption) (e_regs : E .regs := by assumption) : Kept E s0 (State.refuseAcc s a) := by
  delta State.refuseAcc
  repeat' (first
    | (with_reducible first | assumption | apply State.emit_kept | apply State.raiseEvt_kept)
    | split
    | dsimp only)

theorem State.forPart_kept (s : State) (a : Acr) (p : Nat) (k : State → State) (h0 : Kept E s0 s) (h1 : ∀ t, Kept E s0 t → Kept E s0 (k t)) (e_msixs : E .msixs := by assumption) (e_out : E .out := by assumption) (e_regs : E .regs := by assumption) : Kept E s0 (State.forPart s a p k) := by
  delta State.forPart
  repeat' (first
    | (with_reducible first | assumption | apply State.refuseAcc_kept | apply kept_ite | apply h1)
    | split
    | dsimp only)

theorem State.forDevice_kept (s : State) (a : Acr) (k : State → State) (h0 : Kept E s0 s) (h1 : ∀ t, Kept E s0 t → Kept E s0 (k t)) (e_msixs : E .msixs := by assumption) (e_out : E .out := by assumption) (e_regs : E .regs := by assumption) : Kept E s0 (State.forDevice s a k) := by
  delta State.forDevice
  repeat' (first
    | (with_reducible first | assumption | apply State.refuseAcc_kept | apply h1)
    | split
    | dsimp only)

theorem State.setLatch_kept (s : State) (a : Acr) (v : Nat) (h0 : Kept E s0 s) (e_latch : E .latch := by assumption) : Kept E s0 (State.setLatch s a v) := by
  exact kept_latch _ h0 (rises_tset _ _)

end Sys2Proof.Machine
end

