-- ==== Sys2Proof/Laws/KeptKv.lean ====
section
/-!
SUPPORT. Laws/KeptKv.lean: the operations of Machine/Kv.lean change neither the queue nor the canonical forms.
-/
namespace Sys2Proof.Machine

set_option Elab.async false
set_option linter.all false

variable {E : Comp → Prop} {s0 : State}

theorem State.setAgent_kept (s : State) (p : Nat) (a : Agent) (h0 : Kept E s0 s) (e_agents : E .agents := by assumption) : Kept E s0 (State.setAgent s p a) := by
  exact kept_agents _ h0 (rises_tset _ _)

theorem State.setSlot_kept (s : State) (p : Nat) (u : Pool) (slot i v : Nat) (h0 : Kept E s0 s) (e_ecc : E .ecc := by assumption) (e_erq : E .erq := by assumption) (e_folded : E .folded := by assumption) (e_fwLog : E .fwLog := by assumption) (e_mem : E .mem := by assumption) (e_msixs : E .msixs := by assumption) (e_out : E .out := by assumption) (e_regs : E .regs := by assumption) (e_rseq : E .rseq := by assumption) : Kept E s0 (State.setSlot s p u slot i v) := by
  delta State.setSlot
  repeat' (first
    | (with_reducible first | assumption | apply State.writeBytes_kept)
    | dsimp only)

theorem State.addSlot_kept (s : State) (p : Nat) (u : Pool) (slot i : Nat) (d : Int) (h0 : Kept E s0 s) (e_ecc : E .ecc := by assumption) (e_erq : E .erq := by assumption) (e_folded : E .folded := by assumption) (e_fwLog : E .fwLog := by assumption) (e_mem : E .mem := by assumption) (e_msixs : E .msixs := by assumption) (e_out : E .out := by assumption) (e_regs : E .regs := by assumption) (e_rseq : E .rseq := by assumption) : Kept E s0 (State.addSlot s p u slot i d) := by
  delta State.addSlot
  repeat' (first
    | (with_reducible first | assumption | apply State.setSlot_kept)
    | dsimp only)

theorem State.setPt_kept (s : State) (p : Nat) (u : Pool) (slot x : Nat) (e : Option (Bool × Nat)) (h0 : Kept E s0 s) (e_ecc : E .ecc := by assumption) (e_erq : E .erq := by assumption) (e_folded : E .folded := by assumption) (e_fwLog : E .fwLog := by assumption) (e_mem : E .mem := by assumption) (e_msixs : E .msixs := by assumption) (e_out : E .out := by assumption) (e_regs : E .regs := by assumption) (e_rseq : E .rseq := by assumption) : Kept E s0 (State.setPt s p u slot x e) := by
  delta State.setPt
  repeat' (first
    | (with_reducible first | assumption | apply State.writeBytes_kept)
    | split
    | dsimp only)

theorem State.setFrame_kept (s : State) (u : Pool) (f next st ref : Nat) (h0 : Kept E s0 s) (e_ecc : E .ecc := by assumption) (e_erq : E .erq := by assumption) (e_folded : E .folded := by assumption) (e_fwLog : E .fwLog := by assumption) (e_mem : E .mem := by assumption) (e_msixs : E .msixs := by assumption) (e_out : E .out := by assumption) (e_regs : E .regs := by assumption) (e_rseq : E .rseq := by assumption) : Kept E s0 (State.setFrame s u f next st ref) := by
  delta State.setFrame
  repeat' (first
    | (with_reducible first | assumption | apply State.writeBytes_kept)
    | dsimp only)

theorem State.popFrame_kept {s : State} {p : Nat} {u : Pool} {st f : Nat} {t : State} (e : s.popFrame p u st = some (f, t)) (h0 : Kept E s0 s) (e_agents : E .agents := by assumption) (e_ecc : E .ecc := by assumption) (e_erq : E .erq := by assumption) (e_folded : E .folded := by assumption) (e_fwLog : E .fwLog := by assumption) (e_mem : E .mem := by assumption) (e_msixs : E .msixs := by assumption) (e_out : E .out := by assumption) (e_regs : E .regs := by assumption) (e_rseq : E .rseq := by assumption) :
    Kept E s0 t := by
  unfold State.popFrame at e
  dsimp only at e
  split at e
  · cases e
  · simp only [Option.some.injEq, Prod.mk.injEq] at e
    rw [← e.2]
    repeat' (first
      | with_reducible assumption
      | with_reducible apply kept_ite
      | with_reducible apply State.setF_kept
      | with_reducible apply State.raisePart_kept
      | with_reducible apply State.setAgent_kept
      | with_reducible apply State.setFrame_kept)

theorem State.pushFrame_kept (s : State) (p : Nat) (u : Pool) (f : Nat) (h0 : Kept E s0 s) (e_agents : E .agents := by assumption) (e_ecc : E .ecc := by assumption) (e_erq : E .erq := by assumption) (e_folded : E .folded := by assumption) (e_fwLog : E .fwLog := by assumption) (e_mem : E .mem := by assumption) (e_msixs : E .msixs := by assumption) (e_out : E .out := by assumption) (e_regs : E .regs := by assumption) (e_rseq : E .rseq := by assumption) : Kept E s0 (State.pushFrame s p u f) := by
  delta State.pushFrame
  repeat' (first
    | (with_reducible first | assumption | apply State.setAgent_kept | apply State.setF_kept | apply State.setFrame_kept)
    | (extract_lets +onlyGivenNames z
       first
         | (refine (show Kept E s0 z → _ from fun hz => ?_) ?_; clear_value z; rotate_left; dsimp only [z]; rotate_left)
         | clear_value z)
    | dsimp only)

theorem State.dropRef_kept (s : State) (p : Nat) (u : Pool) (f : Nat) (h0 : Kept E s0 s) (e_agents : E .agents := by assumption) (e_ecc : E .ecc := by assumption) (e_erq : E .erq := by assumption) (e_folded : E .folded := by assumption) (e_fwLog : E .fwLog := by assumption) (e_mem : E .mem := by assumption) (e_msixs : E .msixs := by assumption) (e_out : E .out := by assumption) (e_regs : E .regs := by assumption) (e_rseq : E .rseq := by assumption) : Kept E s0 (State.dropRef s p u f).1 := by
  delta State.dropRef
  repeat' (first
    | (with_reducible first | assumption | apply State.pushFrame_kept | apply State.setFrame_kept | apply kept_ite)
    | (extract_lets +onlyGivenNames z
       first
         | (refine (show Kept E s0 z → _ from fun hz => ?_) ?_; clear_value z; rotate_left; dsimp only [z]; rotate_left)
         | (refine (show Kept E s0 z.1 → _ from fun hz => ?_) ?_; clear_value z; rotate_left; dsimp only [z]; rotate_left)
         | (refine (show Kept E s0 z.2.1 → _ from fun hz => ?_) ?_; clear_value z; rotate_left; dsimp only [z]; rotate_left)
         | (refine (show Kept E s0 z.2.2 → _ from fun hz => ?_) ?_; clear_value z; rotate_left; dsimp only [z]; rotate_left)
         | clear_value z)
    | split
    | dsimp only)

theorem State.noFrames_kept (s : State) (p : Nat) (h0 : Kept E s0 s) (e_regs : E .regs := by assumption) : Kept E s0 (State.noFrames s p) := by
  delta State.noFrames
  repeat' (first
    | (with_reducible first | assumption | apply State.bump_kept)
    | dsimp only)

theorem State.journal_kept (s : State) (u : Pool) (h0 : Kept E s0 s) (e_ecc : E .ecc := by assumption) (e_erq : E .erq := by assumption) (e_folded : E .folded := by assumption) (e_fresh : E .fresh := by assumption) (e_fwLog : E .fwLog := by assumption) (e_mem : E .mem := by assumption) (e_msixs : E .msixs := by assumption) (e_out : E .out := by assumption) (e_regs : E .regs := by assumption) (e_rseq : E .rseq := by assumption) : Kept E s0 (State.journal s u) := by
  delta State.journal
  repeat' (first
    | (with_reducible first | assumption | apply State.freeBytes_kept | apply State.writeBytes_kept)
    | (extract_lets +onlyGivenNames z
       first
         | (refine (show Kept E s0 z → _ from fun hz => ?_) ?_; clear_value z; rotate_left; dsimp only [z]; rotate_left)
         | (refine (show Kept E s0 z.1 → _ from fun hz => ?_) ?_; clear_value z; rotate_left; dsimp only [z]; rotate_left)
         | (refine (show Kept E s0 z.2.1 → _ from fun hz => ?_) ?_; clear_value z; rotate_left; dsimp only [z]; rotate_left)
         | (refine (show Kept E s0 z.2.2 → _ from fun hz => ?_) ?_; clear_value z; rotate_left; dsimp only [z]; rotate_left)
         | clear_value z)
    | dsimp only)

theorem State.agentStall_kept (s : State) (p : Nat) (h0 : Kept E s0 s) (e_fresh : E .fresh := by assumption) (e_regs : E .regs := by assumption) : Kept E s0 (State.agentStall s p) := by
  delta State.agentStall
  repeat' (first
    | (with_reducible first | assumption | apply State.bump_kept | apply State.freeBytes_kept)
    | (extract_lets +onlyGivenNames z
       first
         | (refine (show Kept E s0 z → _ from fun hz => ?_) ?_; clear_value z; rotate_left; dsimp only [z]; rotate_left)
         | (refine (show Kept E s0 z.1 → _ from fun hz => ?_) ?_; clear_value z; rotate_left; dsimp only [z]; rotate_left)
         | (refine (show Kept E s0 z.2.1 → _ from fun hz => ?_) ?_; clear_value z; rotate_left; dsimp only [z]; rotate_left)
         | (refine (show Kept E s0 z.2.2 → _ from fun hz => ?_) ?_; clear_value z; rotate_left; dsimp only [z]; rotate_left)
         | clear_value z)
    | dsimp only)

theorem State.setSpill_kept (s : State) (u : Pool) (k : Nat) (v : Bool) (h0 : Kept E s0 s) (e_ecc : E .ecc := by assumption) (e_erq : E .erq := by assumption) (e_folded : E .folded := by assumption) (e_fwLog : E .fwLog := by assumption) (e_mem : E .mem := by assumption) (e_msixs : E .msixs := by assumption) (e_out : E .out := by assumption) (e_regs : E .regs := by assumption) (e_rseq : E .rseq := by assumption) : Kept E s0 (State.setSpill s u k v) := by
  delta State.setSpill
  repeat' (first
    | (with_reducible first | assumption | apply State.writeBytes_kept | apply kept_ite)
    | (extract_lets +onlyGivenNames z
       first
         | (refine (show Kept E s0 z → _ from fun hz => ?_) ?_; clear_value z; rotate_left; dsimp only [z]; rotate_left)
         | clear_value z)
    | split
    | dsimp only)

theorem State.copyFrame_kept (s : State) (u : Pool) (src dst : Nat) (h0 : Kept E s0 s) (e_ecc : E .ecc := by assumption) (e_erq : E .erq := by assumption) (e_folded : E .folded := by assumption) (e_fwLog : E .fwLog := by assumption) (e_mem : E .mem := by assumption) (e_msixs : E .msixs := by assumption) (e_out : E .out := by assumption) (e_regs : E .regs := by assumption) (e_rseq : E .rseq := by assumption) : Kept E s0 (State.copyFrame s u src dst) := by
  delta State.copyFrame
  repeat' (first
    | (refine fun _ => ?_)
    | (with_reducible first | assumption | apply State.markWords_kept | apply State.readWords_kept | apply State.writeBytes_kept)
    | (extract_lets +onlyGivenNames z
       first
         | (refine (show Kept E s0 z → _ from fun hz => ?_) ?_; clear_value z; rotate_left; dsimp only [z]; rotate_left)
         | clear_value z)
    | dsimp only)

theorem State.fillFrame_kept (s : State) (u : Pool) (unit f : Nat) (data : Tab Byte) (bad : List Nat) (h0 : Kept E s0 s) (e_ecc : E .ecc := by assumption) (e_erq : E .erq := by assumption) (e_folded : E .folded := by assumption) (e_fresh : E .fresh := by assumption) (e_fwLog : E .fwLog := by assumption) (e_mem : E .mem := by assumption) (e_msixs : E .msixs := by assumption) (e_out : E .out := by assumption) (e_regs : E .regs := by assumption) (e_rseq : E .rseq := by assumption) : Kept E s0 (State.fillFrame s u unit f data bad).1 := by
  delta State.fillFrame
  repeat' (first
    | (refine fun _ => ?_)
    | (with_reducible first | assumption | apply State.poisonBytes_kept | apply State.writeBytes_kept | apply kept_foldl)
    | (extract_lets +onlyGivenNames z
       first
         | (refine (show Kept E s0 z → _ from fun hz => ?_) ?_; clear_value z; rotate_left; dsimp only [z]; rotate_left)
         | clear_value z)
    | dsimp only)

theorem State.fetched_kept (s : State) (p : Nat) (u : Pool) (slot x f unit : Nat) (h0 : Kept E s0 s) (e_ecc : E .ecc := by assumption) (e_erq : E .erq := by assumption) (e_folded : E .folded := by assumption) (e_fresh : E .fresh := by assumption) (e_fwLog : E .fwLog := by assumption) (e_mem : E .mem := by assumption) (e_msixs : E .msixs := by assumption) (e_out : E .out := by assumption) (e_regs : E .regs := by assumption) (e_rseq : E .rseq := by assumption) : Kept E s0 (State.fetched s p u slot x f unit) := by
  delta State.fetched
  repeat' (first
    | (with_reducible first | assumption | apply State.addSlot_kept | apply State.journal_kept | apply State.setFrame_kept | apply State.setPt_kept | apply State.setSpill_kept)
    | dsimp only)

theorem State.fetchNow_kept (s : State) (p : Nat) (u : Pool) (slot x unit : Nat) (h0 : Kept E s0 s) (e_agents : E .agents := by assumption) (e_ecc : E .ecc := by assumption) (e_erq : E .erq := by assumption) (e_folded : E .folded := by assumption) (e_fresh : E .fresh := by assumption) (e_fwLog : E .fwLog := by assumption) (e_mem : E .mem := by assumption) (e_msixs : E .msixs := by assumption) (e_out : E .out := by assumption) (e_regs : E .regs := by assumption) (e_rseq : E .rseq := by assumption) : Kept E s0 (State.fetchNow s p u slot x unit).1 := by
  delta State.fetchNow
  repeat' (first
    | (with_reducible first | assumption | apply State.agentStall_kept | apply State.bump_kept | apply State.fetched_kept | apply State.fillFrame_kept | apply State.noFrames_kept)
    | with_reducible refine State.popFrame_kept (by with_reducible assumption) ?_
    | (extract_lets +onlyGivenNames z
       first
         | (refine (show Kept E s0 z → _ from fun hz => ?_) ?_; clear_value z; rotate_left; dsimp only [z]; rotate_left)
         | (refine (show Kept E s0 z.1 → _ from fun hz => ?_) ?_; clear_value z; rotate_left; dsimp only [z]; rotate_left)
         | clear_value z)
    | split
    | dsimp only)

theorem State.agentMap_kept (s : State) (p : Nat) (slot : Int) (pos : Nat) (h0 : Kept E s0 s) (e_agents : E .agents := by assumption) (e_ecc : E .ecc := by assumption) (e_erq : E .erq := by assumption) (e_folded : E .folded := by assumption) (e_fresh : E .fresh := by assumption) (e_fwLog : E .fwLog := by assumption) (e_mem : E .mem := by assumption) (e_msixs : E .msixs := by assumption) (e_out : E .out := by assumption) (e_regs : E .regs := by assumption) (e_rseq : E .rseq := by assumption) : Kept E s0 (State.agentMap s p slot pos).1 := by
  delta State.agentMap
  repeat' (first
    | (with_reducible first | assumption | apply State.addSlot_kept | apply State.bump_kept | apply State.copyFrame_kept | apply State.dropRef_kept | apply State.fetchNow_kept | apply State.journal_kept | apply State.noFrames_kept | apply State.setPt_kept | apply kept_ite)
    | with_reducible refine State.popFrame_kept (by with_reducible assumption) ?_
    | (extract_lets +onlyGivenNames z
       first
         | (refine (show Kept E s0 z → _ from fun hz => ?_) ?_; clear_value z; rotate_left; dsimp only [z]; rotate_left)
         | (refine (show Kept E s0 z.1 → _ from fun hz => ?_) ?_; clear_value z; rotate_left; dsimp only [z]; rotate_left)
         | (refine (show Kept E s0 z.2.1 → _ from fun hz => ?_) ?_; clear_value z; rotate_left; dsimp only [z]; rotate_left)
         | (refine (show Kept E s0 z.2.2 → _ from fun hz => ?_) ?_; clear_value z; rotate_left; dsimp only [z]; rotate_left)
         | clear_value z)
    | split
    | dsimp only)

theorem PartRun.kvRow_kept (c : Cmd) (p : Nat) (st : Stage) (r : PartRun × Option (Nat × Nat × Nat)) (m : Nat) (vals : Nat × List (Num × Nat)) (h0 : Kept E s0 r.1.s) (e_agents : E .agents := by assumption) (e_ecc : E .ecc := by assumption) (e_erq : E .erq := by assumption) (e_folded : E .folded := by assumption) (e_fresh : E .fresh := by assumption) (e_fwLog : E .fwLog := by assumption) (e_mem : E .mem := by assumption) (e_msixs : E .msixs := by assumption) (e_out : E .out := by assumption) (e_regs : E .regs := by assumption) (e_rseq : E .rseq := by assumption) : Kept E s0 (PartRun.kvRow c p st r m vals).1.s := by
  delta PartRun.kvRow
  repeat' (first
    | (with_reducible first | assumption | apply State.agentMap_kept | apply State.agentStall_kept | apply PartRun.fail_kept | apply PartRun.read_kept | apply State.writeBytes_kept | apply kept_ite)
    | (extract_lets +onlyGivenNames z
       first
         | (refine (show Kept E s0 z → _ from fun hz => ?_) ?_; clear_value z; rotate_left; dsimp only [z]; rotate_left)
         | (refine (show Kept E s0 z.s → _ from fun hz => ?_) ?_; clear_value z; rotate_left; dsimp only [z]; rotate_left)
         | (refine (show Kept E s0 z.1 → _ from fun hz => ?_) ?_; clear_value z; rotate_left; dsimp only [z]; rotate_left)
         | (refine (show Kept E s0 z.2.1 → _ from fun hz => ?_) ?_; clear_value z; rotate_left; dsimp only [z]; rotate_left)
         | (refine (show Kept E s0 z.2.2 → _ from fun hz => ?_) ?_; clear_value z; rotate_left; dsimp only [z]; rotate_left)
         | clear_value z)
    | split
    | dsimp only)

theorem PartRun.ringRow_kept (c : Cmd) (st : Stage) (r : PartRun) (m : Nat) (vals : Nat × List (Num × Nat)) (h0 : Kept E s0 r.s) (e_ecc : E .ecc := by assumption) (e_erq : E .erq := by assumption) (e_folded : E .folded := by assumption) (e_fwLog : E .fwLog := by assumption) (e_mem : E .mem := by assumption) (e_msixs : E .msixs := by assumption) (e_out : E .out := by assumption) (e_regs : E .regs := by assumption) (e_rseq : E .rseq := by assumption) : Kept E s0 (PartRun.ringRow c st r m vals).s := by
  delta PartRun.ringRow
  repeat' (first
    | (refine fun _ => ?_)
    | (with_reducible first | assumption | apply PartRun.fail_kept | apply PartRun.read_kept | apply State.writeRun_kept | apply kept_ite | apply kept_foldl | apply PartRun.foldl_kept)
    | (extract_lets +onlyGivenNames z
       first
         | (refine (show Kept E s0 z → _ from fun hz => ?_) ?_; clear_value z; rotate_left; dsimp only [z]; rotate_left)
         | (refine (show Kept E s0 z.s → _ from fun hz => ?_) ?_; clear_value z; rotate_left; dsimp only [z]; rotate_left)
         | (refine (show Kept E s0 z.1 → _ from fun hz => ?_) ?_; clear_value z; rotate_left; dsimp only [z]; rotate_left)
         | (refine (show Kept E s0 z.2.1 → _ from fun hz => ?_) ?_; clear_value z; rotate_left; dsimp only [z]; rotate_left)
         | (refine (show Kept E s0 z.2.2 → _ from fun hz => ?_) ?_; clear_value z; rotate_left; dsimp only [z]; rotate_left)
         | clear_value z)
    | split
    | dsimp only)

theorem PartRun.kvWrites_kept (r : PartRun) (c : Cmd) (wr : List SideWr) (h0 : Kept E s0 r.s) (e_agents : E .agents := by assumption) (e_ecc : E .ecc := by assumption) (e_erq : E .erq := by assumption) (e_folded : E .folded := by assumption) (e_fresh : E .fresh := by assumption) (e_fwLog : E .fwLog := by assumption) (e_mem : E .mem := by assumption) (e_msixs : E .msixs := by assumption) (e_out : E .out := by assumption) (e_regs : E .regs := by assumption) (e_rseq : E .rseq := by assumption) : Kept E s0 (PartRun.kvWrites r c wr).s := by
  delta PartRun.kvWrites
  repeat' (first
    | (refine fun _ => ?_)
    | (with_reducible first | assumption | apply PartRun.kvRow_kept | apply PartRun.ringRow_kept | apply kept_ite | apply kept_foldl | apply kept_foldl_fst | apply kept_foldl_mid | apply kept_foldl_last | apply PartRun.foldl_kept | apply PartRun.foldl_fst_kept)
    | (extract_lets +onlyGivenNames z
       first
         | (refine (show Kept E s0 z → _ from fun hz => ?_) ?_; clear_value z; rotate_left; dsimp only [z]; rotate_left)
         | (refine (show Kept E s0 z.s → _ from fun hz => ?_) ?_; clear_value z; rotate_left; dsimp only [z]; rotate_left)
         | (refine (show Kept E s0 z.1 → _ from fun hz => ?_) ?_; clear_value z; rotate_left; dsimp only [z]; rotate_left)
         | (refine (show Kept E s0 z.2.1 → _ from fun hz => ?_) ?_; clear_value z; rotate_left; dsimp only [z]; rotate_left)
         | (refine (show Kept E s0 z.2.2 → _ from fun hz => ?_) ?_; clear_value z; rotate_left; dsimp only [z]; rotate_left)
         | clear_value z)
    | split
    | dsimp only)

theorem State.kvCommit_kept (s : State) (c : Cmd) (h0 : Kept E s0 s) (e_ecc : E .ecc := by assumption) (e_erq : E .erq := by assumption) (e_folded : E .folded := by assumption) (e_fresh : E .fresh := by assumption) (e_fwLog : E .fwLog := by assumption) (e_mem : E .mem := by assumption) (e_msixs : E .msixs := by assumption) (e_out : E .out := by assumption) (e_regs : E .regs := by assumption) (e_rseq : E .rseq := by assumption) : Kept E s0 (State.kvCommit s c) := by
  delta State.kvCommit
  repeat' (first
    | (refine fun _ => ?_)
    | (with_reducible first | assumption | apply State.journal_kept | apply State.setSlot_kept | apply kept_ite | apply kept_foldl)
    | (extract_lets +onlyGivenNames z
       first
         | (refine (show Kept E s0 z → _ from fun hz => ?_) ?_; clear_value z; rotate_left; dsimp only [z]; rotate_left)
         | (refine (show Kept E s0 z.1 → _ from fun hz => ?_) ?_; clear_value z; rotate_left; dsimp only [z]; rotate_left)
         | (refine (show Kept E s0 z.2.1 → _ from fun hz => ?_) ?_; clear_value z; rotate_left; dsimp only [z]; rotate_left)
         | (refine (show Kept E s0 z.2.2 → _ from fun hz => ?_) ?_; clear_value z; rotate_left; dsimp only [z]; rotate_left)
         | clear_value z)
    | split
    | dsimp only)

theorem State.zeroRange_kept (s : State) (a n : Nat) (h0 : Kept E s0 s) (e_ecc : E .ecc := by assumption) (e_erq : E .erq := by assumption) (e_folded : E .folded := by assumption) (e_fwLog : E .fwLog := by assumption) (e_mem : E .mem := by assumption) (e_msixs : E .msixs := by assumption) (e_out : E .out := by assumption) (e_regs : E .regs := by assumption) (e_rseq : E .rseq := by assumption) : Kept E s0 (State.zeroRange s a n) := by
  delta State.zeroRange
  dsimp only
  split
  · exact h0
  split
  · exact h0
  · exact kept_mem_ecc (s := List.foldl (fun (t : State) w => t.decodeWord w 1) s _) _ _
      (kept_foldl _ (fun t w h => State.decodeWord_kept t w 1 h) _ h0) (twf_tclear _) (twf_tclear _)

theorem State.linkFrames_kept (s : State) (u : Pool) (x0 : List Nat) (h0 : Kept E s0 s) (e_ecc : E .ecc := by assumption) (e_erq : E .erq := by assumption) (e_folded : E .folded := by assumption) (e_fwLog : E .fwLog := by assumption) (e_mem : E .mem := by assumption) (e_msixs : E .msixs := by assumption) (e_out : E .out := by assumption) (e_regs : E .regs := by assumption) (e_rseq : E .rseq := by assumption) : Kept E s0 (State.linkFrames s u x0) := by
  induction x0 generalizing s with
  | nil => exact h0
  | cons f t ih =>
    cases t with
    | nil => exact State.setFrame_kept _ _ _ _ _ _ h0
    | cons g t => exact ih _ (State.setFrame_kept _ _ _ _ _ _ h0)

theorem State.poolInit_kept (s : State) (p : Nat) (h0 : Kept E s0 s) (e_agents : E .agents := by assumption) (e_ecc : E .ecc := by assumption) (e_erq : E .erq := by assumption) (e_folded : E .folded := by assumption) (e_fwLog : E .fwLog := by assumption) (e_mem : E .mem := by assumption) (e_msixs : E .msixs := by assumption) (e_out : E .out := by assumption) (e_regs : E .regs := by assumption) (e_rseq : E .rseq := by assumption) : Kept E s0 (State.poolInit s p) := by
  delta State.poolInit
  repeat' (first
    | (with_reducible first | assumption | apply State.linkFrames_kept | apply State.record_kept | apply State.setAgent_kept | apply State.setF_kept | apply State.zeroRange_kept | apply kept_ite)
    | (extract_lets +onlyGivenNames z
       first
         | (refine (show Kept E s0 z → _ from fun hz => ?_) ?_; clear_value z; rotate_left; dsimp only [z]; rotate_left)
         | clear_value z)
    | split
    | dsimp only)

theorem State.kvtInit_kept (s : State) (p : Nat) (h0 : Kept E s0 s) (e_agents : E .agents := by assumption) (e_ecc : E .ecc := by assumption) (e_erq : E .erq := by assumption) (e_folded : E .folded := by assumption) (e_fwLog : E .fwLog := by assumption) (e_mem : E .mem := by assumption) (e_msixs : E .msixs := by assumption) (e_out : E .out := by assumption) (e_regs : E .regs := by assumption) (e_rseq : E .rseq := by assumption) : Kept E s0 (State.kvtInit s p) := by
  delta State.kvtInit
  repeat' (first
    | (with_reducible first | assumption | apply State.poolInit_kept | apply State.setAgent_kept | apply kept_ite)
    | split
    | dsimp only)

theorem State.putResult_kept (s : State) (c : Cmd) (a r k q : Nat) (h0 : Kept E s0 s) (e_ecc : E .ecc := by assumption) (e_erq : E .erq := by assumption) (e_folded : E .folded := by assumption) (e_fwLog : E .fwLog := by assumption) (e_mem : E .mem := by assumption) (e_msixs : E .msixs := by assumption) (e_out : E .out := by assumption) (e_regs : E .regs := by assumption) (e_rseq : E .rseq := by assumption) : Kept E s0 (State.putResult s c a r k q) := by
  delta State.putResult
  repeat' (first
    | (with_reducible first | assumption | apply State.writeBytes_kept | apply kept_ite)
    | split
    | dsimp only)

theorem State.kvDone_kept (s : State) (g : AgReq) (status : Nat) (h0 : Kept E s0 s) (e_cmds : E .cmds := by assumption) (e_ctxs : E .ctxs := by assumption) (e_ecc : E .ecc := by assumption) (e_erq : E .erq := by assumption) (e_folded : E .folded := by assumption) (e_fwLog : E .fwLog := by assumption) (e_mem : E .mem := by assumption) (e_msixs : E .msixs := by assumption) (e_out : E .out := by assumption) (e_regs : E .regs := by assumption) (e_rseq : E .rseq := by assumption) : Kept E s0 (State.kvDone s g status) := by
  delta State.kvDone
  repeat' (first
    | (with_reducible first | assumption | apply State.engineDone_kept | apply State.putResult_kept)
    | split
    | dsimp only)

theorem State.kvFork_kept (s : State) (p : Nat) (u : Pool) (a b len : Nat) (h0 : Kept E s0 s) (e_ecc : E .ecc := by assumption) (e_erq : E .erq := by assumption) (e_folded : E .folded := by assumption) (e_fresh : E .fresh := by assumption) (e_fwLog : E .fwLog := by assumption) (e_mem : E .mem := by assumption) (e_msixs : E .msixs := by assumption) (e_out : E .out := by assumption) (e_regs : E .regs := by assumption) (e_rseq : E .rseq := by assumption) : Kept E s0 (State.kvFork s p u a b len).1 := by
  delta State.kvFork
  repeat' (first
    | (refine fun _ => ?_)
    | (with_reducible first | assumption | apply State.journal_kept | apply State.setFrame_kept | apply State.setPt_kept | apply State.setSlot_kept | apply kept_ite | apply kept_foldl)
    | (extract_lets +onlyGivenNames z
       first
         | (refine (show Kept E s0 z → _ from fun hz => ?_) ?_; clear_value z; rotate_left; dsimp only [z]; rotate_left)
         | (refine (show Kept E s0 z.1 → _ from fun hz => ?_) ?_; clear_value z; rotate_left; dsimp only [z]; rotate_left)
         | (refine (show Kept E s0 z.2.1 → _ from fun hz => ?_) ?_; clear_value z; rotate_left; dsimp only [z]; rotate_left)
         | (refine (show Kept E s0 z.2.2 → _ from fun hz => ?_) ?_; clear_value z; rotate_left; dsimp only [z]; rotate_left)
         | clear_value z)
    | split
    | dsimp only)

theorem State.kvTruncate_kept (s : State) (p : Nat) (u : Pool) (a len : Nat) (h0 : Kept E s0 s) (e_agents : E .agents := by assumption) (e_ecc : E .ecc := by assumption) (e_erq : E .erq := by assumption) (e_folded : E .folded := by assumption) (e_fresh : E .fresh := by assumption) (e_fwLog : E .fwLog := by assumption) (e_mem : E .mem := by assumption) (e_msixs : E .msixs := by assumption) (e_out : E .out := by assumption) (e_regs : E .regs := by assumption) (e_rseq : E .rseq := by assumption) : Kept E s0 (State.kvTruncate s p u a len).1 := by
  delta State.kvTruncate
  repeat' (first
    | (refine fun _ => ?_)
    | (with_reducible first | assumption | apply State.addSlot_kept | apply State.dropRef_kept | apply State.journal_kept | apply State.setPt_kept | apply State.setSlot_kept | apply State.setSpill_kept | apply kept_ite | apply kept_foldl | apply kept_foldl_fst | apply kept_foldl_mid | apply kept_foldl_last)
    | (extract_lets +onlyGivenNames z
       first
         | (refine (show Kept E s0 z → _ from fun hz => ?_) ?_; clear_value z; rotate_left; dsimp only [z]; rotate_left)
         | (refine (show Kept E s0 z.1 → _ from fun hz => ?_) ?_; clear_value z; rotate_left; dsimp only [z]; rotate_left)
         | (refine (show Kept E s0 z.2.1 → _ from fun hz => ?_) ?_; clear_value z; rotate_left; dsimp only [z]; rotate_left)
         | (refine (show Kept E s0 z.2.2 → _ from fun hz => ?_) ?_; clear_value z; rotate_left; dsimp only [z]; rotate_left)
         | clear_value z)
    | split
    | dsimp only)

/-- A `AgAns` whose state keeps it. -/
inductive AgAns.Kept (E : Comp → Prop) (s0 : State) : AgAns → Prop where
  | kept_again {t : State} {g : AgReq} (h : Machine.Kept E s0 t) : AgAns.Kept E s0 (.again t g)
  | kept_wait {t : State} (h : Machine.Kept E s0 t) : AgAns.Kept E s0 (.wait t)
  | kept_done {t : State} {g : AgReq} {w2 : Nat} (h : Machine.Kept E s0 t) : AgAns.Kept E s0 (.done t g w2)

theorem AgAns.of_again {t : State} {g : AgReq} {a : AgAns} (e : a = .again t g) (h : AgAns.Kept E s0 a) : Machine.Kept E s0 t := by
  subst e
  cases h
  assumption

theorem AgAns.of_wait {t : State} {a : AgAns} (e : a = .wait t) (h : AgAns.Kept E s0 a) : Machine.Kept E s0 t := by
  subst e
  cases h
  assumption

theorem AgAns.of_done {t : State} {g : AgReq} {w2 : Nat} {a : AgAns} (e : a = .done t g w2) (h : AgAns.Kept E s0 a) : Machine.Kept E s0 t := by
  subst e
  cases h
  assumption

theorem AgAns.kept_ite {c : Prop} [Decidable c] {a b : AgAns} (ha : AgAns.Kept E s0 a) (hb : AgAns.Kept E s0 b) : AgAns.Kept E s0 (if c then a else b) := by
  split <;> assumption


theorem State.evictNext_kept (s : State) (p : Nat) (u : Pool) (g : AgReq) (h0 : Kept E s0 s) (e_agents : E .agents := by assumption) (e_ecc : E .ecc := by assumption) (e_erq : E .erq := by assumption) (e_flash : E .flash := by assumption) (e_folded : E .folded := by assumption) (e_fwLog : E .fwLog := by assumption) (e_mem : E .mem := by assumption) (e_msixs : E .msixs := by assumption) (e_out : E .out := by assumption) (e_regs : E .regs := by assumption) (e_rseq : E .rseq := by assumption) : AgAns.Kept E s0 (s.evictNext p u g) := by
  delta State.evictNext
  repeat' (first
    | (refine fun _ => ?_)
    | (with_reducible first | assumption | apply State.giveFree_kept | apply State.readWords_kept | apply State.setAgent_kept | apply State.setRegion_kept | apply State.setSpill_kept | apply State.stage_kept | apply State.takeFree_kept | apply kept_ite)
    | with_reducible apply AgAns.Kept.kept_again
    | with_reducible apply AgAns.Kept.kept_wait
    | with_reducible apply AgAns.Kept.kept_done
    | with_reducible apply AgAns.kept_ite
    | with_reducible refine State.popFrame_kept (by with_reducible assumption) ?_
    | (extract_lets +onlyGivenNames z
       first
         | (refine (show Kept E s0 z → _ from fun hz => ?_) ?_; clear_value z; rotate_left; dsimp only [z]; rotate_left)
         | (refine (show Kept E s0 z.1 → _ from fun hz => ?_) ?_; clear_value z; rotate_left; dsimp only [z]; rotate_left)
         | (refine (show Kept E s0 z.2.1 → _ from fun hz => ?_) ?_; clear_value z; rotate_left; dsimp only [z]; rotate_left)
         | (refine (show Kept E s0 z.2.2 → _ from fun hz => ?_) ?_; clear_value z; rotate_left; dsimp only [z]; rotate_left)
         | clear_value z)
    | split
    | dsimp only)

theorem State.prefetchNext_kept (s : State) (p : Nat) (u : Pool) (g : AgReq) (h0 : Kept E s0 s) (e_agents : E .agents := by assumption) (e_ecc : E .ecc := by assumption) (e_erq : E .erq := by assumption) (e_flash : E .flash := by assumption) (e_folded : E .folded := by assumption) (e_fwLog : E .fwLog := by assumption) (e_mem : E .mem := by assumption) (e_msixs : E .msixs := by assumption) (e_out : E .out := by assumption) (e_regs : E .regs := by assumption) (e_rseq : E .rseq := by assumption) : AgAns.Kept E s0 (s.prefetchNext p u g) := by
  delta State.prefetchNext
  repeat' (first
    | (refine fun _ => ?_)
    | (with_reducible first | assumption | apply State.noFrames_kept | apply State.setAgent_kept | apply State.setFlash_kept | apply kept_ite | apply kept_foldl | apply kept_foldl_fst | apply kept_foldl_mid | apply kept_foldl_last | apply PartRun.foldl_kept | apply PartRun.foldl_fst_kept)
    | with_reducible apply AgAns.Kept.kept_again
    | with_reducible apply AgAns.Kept.kept_wait
    | with_reducible apply AgAns.Kept.kept_done
    | with_reducible apply AgAns.kept_ite
    | with_reducible refine State.popFrame_kept (by with_reducible assumption) ?_
    | (extract_lets +onlyGivenNames z
       first
         | (refine (show Kept E s0 z → _ from fun hz => ?_) ?_; clear_value z; rotate_left; dsimp only [z]; rotate_left)
         | (refine (show Kept E s0 z.s → _ from fun hz => ?_) ?_; clear_value z; rotate_left; dsimp only [z]; rotate_left)
         | (refine (show Kept E s0 z.1 → _ from fun hz => ?_) ?_; clear_value z; rotate_left; dsimp only [z]; rotate_left)
         | (refine (show Kept E s0 z.1.s → _ from fun hz => ?_) ?_; clear_value z; rotate_left; dsimp only [z]; rotate_left)
         | (refine (show Kept E s0 z.2.1 → _ from fun hz => ?_) ?_; clear_value z; rotate_left; dsimp only [z]; rotate_left)
         | (refine (show Kept E s0 z.2.2 → _ from fun hz => ?_) ?_; clear_value z; rotate_left; dsimp only [z]; rotate_left)
         | (refine (show (∀ t, Kept E s0 t → Kept E s0 (z t)) → _ from fun hz => ?_) ?_; clear_value z; rotate_left; dsimp only [z]; rotate_left)
         | (have _ : Flash := z; subst z)
         | clear_value z)
    | with_reducible apply hz
    | ((with_reducible show rises _ = true); show rises (State.flash _).regions = true; assumption)
    | split
    | dsimp only)

theorem State.agentFirst_kept (s : State) (p : Nat) (u : Pool) (c : Cmd) (g : AgReq) (h0 : Kept E s0 s) (e_agents : E .agents := by assumption) (e_ecc : E .ecc := by assumption) (e_erq : E .erq := by assumption) (e_folded : E .folded := by assumption) (e_fresh : E .fresh := by assumption) (e_fwLog : E .fwLog := by assumption) (e_mem : E .mem := by assumption) (e_msixs : E .msixs := by assumption) (e_out : E .out := by assumption) (e_regs : E .regs := by assumption) (e_rseq : E .rseq := by assumption) : AgAns.Kept E s0 (s.agentFirst p u c g) := by
  delta State.agentFirst
  repeat' (first
    | (with_reducible first | assumption | apply State.kvFork_kept | apply State.kvTruncate_kept | apply kept_ite)
    | with_reducible apply AgAns.Kept.kept_again
    | with_reducible apply AgAns.Kept.kept_wait
    | with_reducible apply AgAns.Kept.kept_done
    | with_reducible apply AgAns.kept_ite
    | with_reducible refine State.popFrame_kept (by with_reducible assumption) ?_
    | (extract_lets +onlyGivenNames z
       first
         | (refine (show Kept E s0 z → _ from fun hz => ?_) ?_; clear_value z; rotate_left; dsimp only [z]; rotate_left)
         | (refine (show Kept E s0 z.1 → _ from fun hz => ?_) ?_; clear_value z; rotate_left; dsimp only [z]; rotate_left)
         | (refine (show Kept E s0 z.2.1 → _ from fun hz => ?_) ?_; clear_value z; rotate_left; dsimp only [z]; rotate_left)
         | (refine (show Kept E s0 z.2.2 → _ from fun hz => ?_) ?_; clear_value z; rotate_left; dsimp only [z]; rotate_left)
         | clear_value z)
    | split
    | dsimp only)

theorem State.agentStep_kept (s : State) (p : Nat) (u : Pool) (g : AgReq) (h0 : Kept E s0 s) (e_agents : E .agents := by assumption) (e_ecc : E .ecc := by assumption) (e_erq : E .erq := by assumption) (e_flash : E .flash := by assumption) (e_folded : E .folded := by assumption) (e_fresh : E .fresh := by assumption) (e_fwLog : E .fwLog := by assumption) (e_mem : E .mem := by assumption) (e_msixs : E .msixs := by assumption) (e_out : E .out := by assumption) (e_regs : E .regs := by assumption) (e_rseq : E .rseq := by assumption) : AgAns.Kept E s0 (s.agentStep p u g) := by
  delta State.agentStep
  repeat' (first
    | (with_reducible first | assumption | apply kept_ite)
    | with_reducible apply AgAns.Kept.kept_again
    | with_reducible apply AgAns.Kept.kept_wait
    | with_reducible apply AgAns.Kept.kept_done
    | with_reducible apply AgAns.kept_ite
    | with_reducible refine State.popFrame_kept (by with_reducible assumption) ?_
    | with_reducible apply State.agentFirst_kept
    | with_reducible apply State.evictNext_kept
    | with_reducible apply State.prefetchNext_kept
    | split
    | dsimp only)

theorem State.agentRun_kept (s : State) (p : Nat) (fuel : Nat) (h0 : Kept E s0 s) (e_agents : E .agents := by assumption) (e_cmds : E .cmds := by assumption) (e_ctxs : E .ctxs := by assumption) (e_ecc : E .ecc := by assumption) (e_erq : E .erq := by assumption) (e_flash : E .flash := by assumption) (e_folded : E .folded := by assumption) (e_fresh : E .fresh := by assumption) (e_fwLog : E .fwLog := by assumption) (e_mem : E .mem := by assumption) (e_msixs : E .msixs := by assumption) (e_out : E .out := by assumption) (e_regs : E .regs := by assumption) (e_rseq : E .rseq := by assumption) : Kept E s0 (State.agentRun s p fuel) := by
  induction fuel generalizing s with
  | zero => exact h0
  | succ n ih =>
    unfold State.agentRun
    repeat' (first
      | (with_reducible first | assumption | apply ih | apply State.kvDone_kept | apply State.poolInit_kept | apply State.setAgent_kept | apply kept_ite)
      | exact AgAns.of_again (by assumption) (State.agentStep_kept _ _ _ _ hz)
      | exact AgAns.of_wait (by assumption) (State.agentStep_kept _ _ _ _ hz)
      | exact AgAns.of_done (by assumption) (State.agentStep_kept _ _ _ _ hz)
      | (extract_lets +onlyGivenNames z
         first
           | (refine (show Kept E s0 z → _ from fun hz => ?_) ?_; clear_value z; rotate_left; dsimp only [z]; rotate_left)
           | clear_value z)
      | split
      | dsimp only)

theorem State.agentGo_kept (s : State) (p : Nat) (h0 : Kept E s0 s) (e_agents : E .agents := by assumption) (e_cmds : E .cmds := by assumption) (e_ctxs : E .ctxs := by assumption) (e_ecc : E .ecc := by assumption) (e_erq : E .erq := by assumption) (e_flash : E .flash := by assumption) (e_folded : E .folded := by assumption) (e_fresh : E .fresh := by assumption) (e_fwLog : E .fwLog := by assumption) (e_mem : E .mem := by assumption) (e_msixs : E .msixs := by assumption) (e_out : E .out := by assumption) (e_regs : E .regs := by assumption) (e_rseq : E .rseq := by assumption) : Kept E s0 (State.agentGo s p) := by
  delta State.agentGo
  repeat' (first
    | (with_reducible first | assumption | apply State.agentRun_kept)
    | dsimp only)

theorem State.goKv_kept (s : State) (c : Cmd) (h0 : Kept E s0 s) (e_agents : E .agents := by assumption) (e_cmds : E .cmds := by assumption) (e_ctxs : E .ctxs := by assumption) (e_ecc : E .ecc := by assumption) (e_erq : E .erq := by assumption) (e_flash : E .flash := by assumption) (e_folded : E .folded := by assumption) (e_fresh : E .fresh := by assumption) (e_fwLog : E .fwLog := by assumption) (e_mem : E .mem := by assumption) (e_msixs : E .msixs := by assumption) (e_out : E .out := by assumption) (e_regs : E .regs := by assumption) (e_rseq : E .rseq := by assumption) (e_streams : E .streams := by assumption) : Kept E s0 (State.goKv s c) := by
  delta State.goKv
  repeat' (first
    | (with_reducible first | assumption | apply State.agentGo_kept | apply State.goAnchor_kept | apply State.setAgent_kept)
    | (extract_lets +onlyGivenNames z
       first
         | (refine (show Kept E s0 z → _ from fun hz => ?_) ?_; clear_value z; rotate_left; dsimp only [z]; rotate_left)
         | clear_value z)
    | dsimp only)

theorem State.evicted_kept (s : State) (p : Nat) (h0 : Kept E s0 s) (e_agents : E .agents := by assumption) (e_cmds : E .cmds := by assumption) (e_ctxs : E .ctxs := by assumption) (e_ecc : E .ecc := by assumption) (e_erq : E .erq := by assumption) (e_flash : E .flash := by assumption) (e_folded : E .folded := by assumption) (e_fresh : E .fresh := by assumption) (e_fwLog : E .fwLog := by assumption) (e_mem : E .mem := by assumption) (e_msixs : E .msixs := by assumption) (e_out : E .out := by assumption) (e_regs : E .regs := by assumption) (e_rseq : E .rseq := by assumption) : Kept E s0 (State.evicted s p) := by
  delta State.evicted
  repeat' (first
    | (with_reducible first | assumption | apply State.addSlot_kept | apply State.agentGo_kept | apply State.journal_kept | apply State.pushFrame_kept | apply State.setAgent_kept | apply State.setPt_kept | apply kept_ite)
    | (extract_lets +onlyGivenNames z
       first
         | (refine (show Kept E s0 z → _ from fun hz => ?_) ?_; clear_value z; rotate_left; dsimp only [z]; rotate_left)
         | (refine (show Kept E s0 z.2.1 → _ from fun hz => ?_) ?_; clear_value z; rotate_left; dsimp only [z]; rotate_left)
         | (refine (show Kept E s0 z.2.2 → _ from fun hz => ?_) ?_; clear_value z; rotate_left; dsimp only [z]; rotate_left)
         | clear_value z)
    | split
    | dsimp only)

theorem State.fetchEnd_kept (s : State) (p : Nat) (h0 : Kept E s0 s) (e_agents : E .agents := by assumption) (e_cmds : E .cmds := by assumption) (e_ctxs : E .ctxs := by assumption) (e_ecc : E .ecc := by assumption) (e_erq : E .erq := by assumption) (e_flash : E .flash := by assumption) (e_folded : E .folded := by assumption) (e_fresh : E .fresh := by assumption) (e_fwLog : E .fwLog := by assumption) (e_mem : E .mem := by assumption) (e_msixs : E .msixs := by assumption) (e_out : E .out := by assumption) (e_regs : E .regs := by assumption) (e_rseq : E .rseq := by assumption) : Kept E s0 (State.fetchEnd s p) := by
  delta State.fetchEnd
  repeat' (first
    | (refine fun _ => ?_)
    | (with_reducible first | assumption | apply State.agentGo_kept | apply State.bump_kept | apply State.fetched_kept | apply State.fillFrame_kept | apply State.releaseHeld_kept | apply State.setAgent_kept | apply State.setFlash_kept | apply kept_ite)
    | (extract_lets +onlyGivenNames z
       first
         | (refine (show Kept E s0 z → _ from fun hz => ?_) ?_; clear_value z; rotate_left; dsimp only [z]; rotate_left)
         | (refine (show Kept E s0 z.1 → _ from fun hz => ?_) ?_; clear_value z; rotate_left; dsimp only [z]; rotate_left)
         | (refine (show Kept E s0 z.2.1 → _ from fun hz => ?_) ?_; clear_value z; rotate_left; dsimp only [z]; rotate_left)
         | (refine (show Kept E s0 z.2.2 → _ from fun hz => ?_) ?_; clear_value z; rotate_left; dsimp only [z]; rotate_left)
         | (have _ : Flash := z; subst z)
         | clear_value z)
    | ((with_reducible show rises _ = true); show rises (State.flash _).regions = true; assumption)
    | split
    | dsimp only)

theorem execKvfork_kept (q : Nat) (s : State) (h0 : Kept E s0 s) (e_agents : E .agents := by assumption) (e_cmds : E .cmds := by assumption) (e_ctxs : E .ctxs := by assumption) (e_ecc : E .ecc := by assumption) (e_erq : E .erq := by assumption) (e_flash : E .flash := by assumption) (e_folded : E .folded := by assumption) (e_fresh : E .fresh := by assumption) (e_fwLog : E .fwLog := by assumption) (e_mem : E .mem := by assumption) (e_msixs : E .msixs := by assumption) (e_out : E .out := by assumption) (e_regs : E .regs := by assumption) (e_rseq : E .rseq := by assumption) (e_streams : E .streams := by assumption) : ∃ t, execKvfork q s = .next t ∧ Kept E s0 t := by
  refine ⟨_, rfl, ?_⟩
  repeat' (first
    | (refine fun _ => ?_)
    | (with_reducible first | assumption | apply State.goKv_kept | apply State.issue_kept)
    | dsimp only)

theorem execKvfreeTruncate_kept (q : Nat) (s : State) (h0 : Kept E s0 s) (e_agents : E .agents := by assumption) (e_cmds : E .cmds := by assumption) (e_ctxs : E .ctxs := by assumption) (e_ecc : E .ecc := by assumption) (e_erq : E .erq := by assumption) (e_flash : E .flash := by assumption) (e_folded : E .folded := by assumption) (e_fresh : E .fresh := by assumption) (e_fwLog : E .fwLog := by assumption) (e_mem : E .mem := by assumption) (e_msixs : E .msixs := by assumption) (e_out : E .out := by assumption) (e_regs : E .regs := by assumption) (e_rseq : E .rseq := by assumption) (e_streams : E .streams := by assumption) : ∃ t, execKvfreeTruncate q s = .next t ∧ Kept E s0 t := by
  refine ⟨_, rfl, ?_⟩
  repeat' (first
    | (refine fun _ => ?_)
    | (with_reducible first | assumption | apply State.goKv_kept | apply State.issue_kept)
    | dsimp only)

theorem execKvfreeEvict_kept (q : Nat) (s : State) (h0 : Kept E s0 s) (e_agents : E .agents := by assumption) (e_cmds : E .cmds := by assumption) (e_ctxs : E .ctxs := by assumption) (e_ecc : E .ecc := by assumption) (e_erq : E .erq := by assumption) (e_flash : E .flash := by assumption) (e_folded : E .folded := by assumption) (e_fresh : E .fresh := by assumption) (e_fwLog : E .fwLog := by assumption) (e_mem : E .mem := by assumption) (e_msixs : E .msixs := by assumption) (e_out : E .out := by assumption) (e_regs : E .regs := by assumption) (e_rseq : E .rseq := by assumption) (e_streams : E .streams := by assumption) : ∃ t, execKvfreeEvict q s = .next t ∧ Kept E s0 t := by
  refine ⟨_, rfl, ?_⟩
  repeat' (first
    | (refine fun _ => ?_)
    | (with_reducible first | assumption | apply State.goKv_kept | apply State.issue_kept)
    | dsimp only)

theorem execKvprefetch_kept (q : Nat) (s : State) (h0 : Kept E s0 s) (e_agents : E .agents := by assumption) (e_cmds : E .cmds := by assumption) (e_ctxs : E .ctxs := by assumption) (e_ecc : E .ecc := by assumption) (e_erq : E .erq := by assumption) (e_flash : E .flash := by assumption) (e_folded : E .folded := by assumption) (e_fresh : E .fresh := by assumption) (e_fwLog : E .fwLog := by assumption) (e_mem : E .mem := by assumption) (e_msixs : E .msixs := by assumption) (e_out : E .out := by assumption) (e_regs : E .regs := by assumption) (e_rseq : E .rseq := by assumption) (e_streams : E .streams := by assumption) : ∃ t, execKvprefetch q s = .next t ∧ Kept E s0 t := by
  refine ⟨_, rfl, ?_⟩
  repeat' (first
    | (refine fun _ => ?_)
    | (with_reducible first | assumption | apply State.goKv_kept | apply State.issue_kept)
    | dsimp only)

theorem execKvtInit_kept (a : Acr) (p v : Nat) (s : State) (h0 : Kept E s0 s) (e_agents : E .agents := by assumption) (e_ecc : E .ecc := by assumption) (e_erq : E .erq := by assumption) (e_folded : E .folded := by assumption) (e_fwLog : E .fwLog := by assumption) (e_mem : E .mem := by assumption) (e_msixs : E .msixs := by assumption) (e_out : E .out := by assumption) (e_regs : E .regs := by assumption) (e_rseq : E .rseq := by assumption) : ∃ t, execKvtInit a p v s = .next t ∧ Kept E s0 t := by
  refine ⟨_, rfl, ?_⟩
  repeat' (first
    | (refine fun _ => ?_)
    | (with_reducible first | assumption | apply State.forPart_kept | apply State.kvtInit_kept | apply kept_ite)
    | split
    | dsimp only)

theorem execAgentMap_kept (p : Nat) (slot : Int) (pos : Nat) (s : State) (h0 : Kept E s0 s) (e_agents : E .agents := by assumption) (e_ecc : E .ecc := by assumption) (e_erq : E .erq := by assumption) (e_folded : E .folded := by assumption) (e_fresh : E .fresh := by assumption) (e_fwLog : E .fwLog := by assumption) (e_mem : E .mem := by assumption) (e_msixs : E .msixs := by assumption) (e_out : E .out := by assumption) (e_regs : E .regs := by assumption) (e_rseq : E .rseq := by assumption) : ∃ t, execAgentMap p slot pos s = .next t ∧ Kept E s0 t := by
  refine ⟨_, rfl, ?_⟩
  repeat' (first
    | (refine fun _ => ?_)
    | (with_reducible first | assumption | apply State.agentMap_kept | apply State.agentStall_kept | apply kept_ite)
    | split
    | dsimp only)

theorem State.commitOnce_kept (s : State) (c : Cmd) (h0 : Kept E s0 s) (e_cmds : E .cmds := by assumption) (e_ecc : E .ecc := by assumption) (e_erq : E .erq := by assumption) (e_folded : E .folded := by assumption) (e_fresh : E .fresh := by assumption) (e_fwLog : E .fwLog := by assumption) (e_mem : E .mem := by assumption) (e_msixs : E .msixs := by assumption) (e_out : E .out := by assumption) (e_regs : E .regs := by assumption) (e_rseq : E .rseq := by assumption) : Kept E s0 (State.commitOnce s c) := by
  delta State.commitOnce
  repeat' (first
    | (with_reducible first | assumption | apply State.kvCommit_kept | apply State.setCmd_kept)
    | dsimp only)

theorem execKvCommit_kept (q seq : Nat) (s : State) (h0 : Kept E s0 s) (e_cmds : E .cmds := by assumption) (e_ecc : E .ecc := by assumption) (e_erq : E .erq := by assumption) (e_folded : E .folded := by assumption) (e_fresh : E .fresh := by assumption) (e_fwLog : E .fwLog := by assumption) (e_mem : E .mem := by assumption) (e_msixs : E .msixs := by assumption) (e_out : E .out := by assumption) (e_regs : E .regs := by assumption) (e_rseq : E .rseq := by assumption) : ∃ t, execKvCommit q seq s = .next t ∧ Kept E s0 t := by
  refine ⟨_, rfl, ?_⟩
  repeat' (first
    | (refine fun _ => ?_)
    | (with_reducible first | assumption | apply State.commitOnce_kept | apply kept_ite)
    | split
    | dsimp only)

theorem execKvFetch_kept (p : Nat) (s : State) (h0 : Kept E s0 s) (e_agents : E .agents := by assumption) (e_cmds : E .cmds := by assumption) (e_ctxs : E .ctxs := by assumption) (e_ecc : E .ecc := by assumption) (e_erq : E .erq := by assumption) (e_flash : E .flash := by assumption) (e_folded : E .folded := by assumption) (e_fresh : E .fresh := by assumption) (e_fwLog : E .fwLog := by assumption) (e_mem : E .mem := by assumption) (e_msixs : E .msixs := by assumption) (e_out : E .out := by assumption) (e_regs : E .regs := by assumption) (e_rseq : E .rseq := by assumption) : ∃ t, execKvFetch p s = .next t ∧ Kept E s0 t := by
  refine ⟨_, rfl, ?_⟩
  repeat' (first
    | (refine fun _ => ?_)
    | (with_reducible first | assumption | apply State.fetchEnd_kept)
    | dsimp only)

theorem execKvEvictEntry_kept (p : Nat) (s : State) (h0 : Kept E s0 s) (e_agents : E .agents := by assumption) (e_cmds : E .cmds := by assumption) (e_ctxs : E .ctxs := by assumption) (e_ecc : E .ecc := by assumption) (e_erq : E .erq := by assumption) (e_flash : E .flash := by assumption) (e_folded : E .folded := by assumption) (e_fresh : E .fresh := by assumption) (e_fwLog : E .fwLog := by assumption) (e_mem : E .mem := by assumption) (e_msixs : E .msixs := by assumption) (e_out : E .out := by assumption) (e_regs : E .regs := by assumption) (e_rseq : E .rseq := by assumption) : ∃ t, execKvEvictEntry p s = .next t ∧ Kept E s0 t := by
  refine ⟨_, rfl, ?_⟩
  repeat' (first
    | (refine fun _ => ?_)
    | (with_reducible first | assumption | apply State.evicted_kept)
    | dsimp only)

theorem execAgentTakeover_kept (p : Nat) (s : State) (h0 : Kept E s0 s) (e_agents : E .agents := by assumption) (e_cmds : E .cmds := by assumption) (e_ctxs : E .ctxs := by assumption) (e_ecc : E .ecc := by assumption) (e_erq : E .erq := by assumption) (e_flash : E .flash := by assumption) (e_folded : E .folded := by assumption) (e_fresh : E .fresh := by assumption) (e_fwLog : E .fwLog := by assumption) (e_mem : E .mem := by assumption) (e_msixs : E .msixs := by assumption) (e_out : E .out := by assumption) (e_regs : E .regs := by assumption) (e_rseq : E .rseq := by assumption) : ∃ t, execAgentTakeover p s = .next t ∧ Kept E s0 t := by
  refine ⟨_, rfl, ?_⟩
  repeat' (first
    | (refine fun _ => ?_)
    | (with_reducible first | assumption | apply State.agentGo_kept | apply State.setAgent_kept | apply kept_ite)
    | split
    | dsimp only)

end Sys2Proof.Machine
end

