-- ==== Sys2Proof/Laws/KeptAttn.lean ====
section
/-!
SUPPORT. Laws/KeptAttn.lean: the operations of Machine/Attn.lean change neither the queue nor the canonical forms.
-/
namespace Sys2Proof.Machine

set_option Elab.async false
set_option linter.all false

variable {E : Comp → Prop} {s0 : State}

theorem PartRun.pages_kept (r : PartRun) (p : Nat) (u : Pool) (slot j0 j1 : Nat) (h0 : Kept E s0 r.s) (e_agents : E .agents := by assumption) (e_ecc : E .ecc := by assumption) (e_erq : E .erq := by assumption) (e_folded : E .folded := by assumption) (e_fresh : E .fresh := by assumption) (e_fwLog : E .fwLog := by assumption) (e_mem : E .mem := by assumption) (e_msixs : E .msixs := by assumption) (e_out : E .out := by assumption) (e_regs : E .regs := by assumption) (e_rseq : E .rseq := by assumption) : Kept E s0 (PartRun.pages r p u slot j0 j1).1.s := by
  delta PartRun.pages
  repeat' (first
    | (refine fun _ => ?_)
    | (with_reducible first | assumption | apply PartRun.fail_kept | apply State.fetchNow_kept | apply kept_ite | apply kept_foldl | apply kept_foldl_fst | apply kept_foldl_mid | apply kept_foldl_last | apply PartRun.foldl_kept | apply PartRun.foldl_fst_kept | apply AtRun.foldl_kept)
    | (extract_lets +onlyGivenNames z
       first
         | (refine (show Kept E s0 z → _ from fun hz => ?_) ?_; clear_value z; rotate_left; dsimp only [z]; rotate_left)
         | (refine (show Kept E s0 z.s → _ from fun hz => ?_) ?_; clear_value z; rotate_left; dsimp only [z]; rotate_left)
         | (refine (show Kept E s0 z.1 → _ from fun hz => ?_) ?_; clear_value z; rotate_left; dsimp only [z]; rotate_left)
         | (refine (show Kept E s0 z.r.s → _ from fun hz => ?_) ?_; clear_value z; rotate_left; dsimp only [z]; rotate_left)
         | (refine (show Kept E s0 z.2.1 → _ from fun hz => ?_) ?_; clear_value z; rotate_left; dsimp only [z]; rotate_left)
         | (refine (show Kept E s0 z.2.2 → _ from fun hz => ?_) ?_; clear_value z; rotate_left; dsimp only [z]; rotate_left)
         | clear_value z)
    | split
    | dsimp only)

theorem AtRun.foldl_kept {α : Type} (f : AtRun → α → AtRun) (hf : ∀ t x, Kept E s0 t.r.s → Kept E s0 (f t x).r.s) (xs : List α) {a : AtRun}
    (h : Kept E s0 a.r.s) : Kept E s0 (xs.foldl f a).r.s := by
  induction xs generalizing a with
  | nil => exact h
  | cons x xs ih => exact ih (hf a x h)

theorem AtRun.chunk_kept (c : Cmd) (cl p : Nat) (g : At) (it : Item) (w : KeySrc) (nk : Nat) (a : AtRun) (ch : Nat) (h0 : Kept E s0 a.r.s) (e_agents : E .agents := by assumption) (e_ecc : E .ecc := by assumption) (e_erq : E .erq := by assumption) (e_folded : E .folded := by assumption) (e_fresh : E .fresh := by assumption) (e_fwLog : E .fwLog := by assumption) (e_mem : E .mem := by assumption) (e_msixs : E .msixs := by assumption) (e_out : E .out := by assumption) (e_regs : E .regs := by assumption) (e_rseq : E .rseq := by assumption) : Kept E s0 (AtRun.chunk c cl p g it w nk a ch).r.s := by
  delta AtRun.chunk
  repeat' (first
    | (refine fun _ => ?_)
    | (with_reducible first | assumption | apply PartRun.pages_kept | apply PartRun.read_kept | apply kept_ite | apply kept_foldl | apply kept_foldl_fst | apply kept_foldl_mid | apply kept_foldl_last | apply PartRun.foldl_kept | apply PartRun.foldl_fst_kept | apply AtRun.foldl_kept)
    | (extract_lets +onlyGivenNames z
       first
         | (refine (show Kept E s0 z → _ from fun hz => ?_) ?_; clear_value z; rotate_left; dsimp only [z]; rotate_left)
         | (refine (show Kept E s0 z.s → _ from fun hz => ?_) ?_; clear_value z; rotate_left; dsimp only [z]; rotate_left)
         | (refine (show Kept E s0 z.1 → _ from fun hz => ?_) ?_; clear_value z; rotate_left; dsimp only [z]; rotate_left)
         | (refine (show Kept E s0 z.1.s → _ from fun hz => ?_) ?_; clear_value z; rotate_left; dsimp only [z]; rotate_left)
         | (refine (show Kept E s0 z.r.s → _ from fun hz => ?_) ?_; clear_value z; rotate_left; dsimp only [z]; rotate_left)
         | (refine (show Kept E s0 z.2.1 → _ from fun hz => ?_) ?_; clear_value z; rotate_left; dsimp only [z]; rotate_left)
         | (refine (show Kept E s0 z.2.2 → _ from fun hz => ?_) ?_; clear_value z; rotate_left; dsimp only [z]; rotate_left)
         | (refine (show (∀ t, Kept E s0 t → Kept E s0 (z t)) → _ from fun hz => ?_) ?_; clear_value z; rotate_left; dsimp only [z]; rotate_left)
         | (have _ : Flash := z; subst z)
         | clear_value z)
    | with_reducible apply hz
    | ((with_reducible show rises _ = true); show rises (State.flash _).regions = true; assumption)
    | split
    | dsimp only)

theorem PartRun.attend_kept (c : Cmd) (cl p : Nat) (g : At) (it : Item) (w : KeySrc) (r : PartRun) (h0 : Kept E s0 r.s) (e_agents : E .agents := by assumption) (e_ecc : E .ecc := by assumption) (e_erq : E .erq := by assumption) (e_folded : E .folded := by assumption) (e_fresh : E .fresh := by assumption) (e_fwLog : E .fwLog := by assumption) (e_mem : E .mem := by assumption) (e_msixs : E .msixs := by assumption) (e_out : E .out := by assumption) (e_regs : E .regs := by assumption) (e_rseq : E .rseq := by assumption) : Kept E s0 (PartRun.attend c cl p g it w r).1.s := by
  delta PartRun.attend
  repeat' (first
    | (refine fun _ => ?_)
    | (with_reducible first | assumption | apply AtRun.chunk_kept | apply PartRun.start_kept | apply kept_ite | apply kept_foldl | apply kept_foldl_fst | apply kept_foldl_mid | apply kept_foldl_last | apply PartRun.foldl_kept | apply PartRun.foldl_fst_kept | apply AtRun.foldl_kept)
    | (extract_lets +onlyGivenNames z
       first
         | (refine (show Kept E s0 z → _ from fun hz => ?_) ?_; clear_value z; rotate_left; dsimp only [z]; rotate_left)
         | (refine (show Kept E s0 z.s → _ from fun hz => ?_) ?_; clear_value z; rotate_left; dsimp only [z]; rotate_left)
         | (refine (show Kept E s0 z.1 → _ from fun hz => ?_) ?_; clear_value z; rotate_left; dsimp only [z]; rotate_left)
         | (refine (show Kept E s0 z.1.s → _ from fun hz => ?_) ?_; clear_value z; rotate_left; dsimp only [z]; rotate_left)
         | (refine (show Kept E s0 z.r.s → _ from fun hz => ?_) ?_; clear_value z; rotate_left; dsimp only [z]; rotate_left)
         | (refine (show Kept E s0 z.2.1 → _ from fun hz => ?_) ?_; clear_value z; rotate_left; dsimp only [z]; rotate_left)
         | (refine (show Kept E s0 z.2.2 → _ from fun hz => ?_) ?_; clear_value z; rotate_left; dsimp only [z]; rotate_left)
         | (refine (show (∀ t, Kept E s0 t → Kept E s0 (z t)) → _ from fun hz => ?_) ?_; clear_value z; rotate_left; dsimp only [z]; rotate_left)
         | (have _ : Flash := z; subst z)
         | clear_value z)
    | with_reducible apply hz
    | ((with_reducible show rises _ = true); show rises (State.flash _).regions = true; assumption)
    | split
    | dsimp only)

theorem PartRun.attStore_kept (c : Cmd) (cl : Nat) (g : At) (it : Item) (rows : List (List Num × Num)) (r : PartRun) (h0 : Kept E s0 r.s) (e_ecc : E .ecc := by assumption) (e_erq : E .erq := by assumption) (e_folded : E .folded := by assumption) (e_fwLog : E .fwLog := by assumption) (e_mem : E .mem := by assumption) (e_msixs : E .msixs := by assumption) (e_out : E .out := by assumption) (e_regs : E .regs := by assumption) (e_rseq : E .rseq := by assumption) : Kept E s0 (PartRun.attStore c cl g it rows r).s := by
  delta PartRun.attStore
  repeat' (first
    | (refine fun _ => ?_)
    | (with_reducible first | assumption | apply PartRun.read_kept | apply State.sideRuns_kept | apply State.writeRun_kept | apply kept_ite | apply kept_foldl | apply AtRun.foldl_kept)
    | (extract_lets +onlyGivenNames z
       first
         | (refine (show Kept E s0 z → _ from fun hz => ?_) ?_; clear_value z; rotate_left; dsimp only [z]; rotate_left)
         | (refine (show Kept E s0 z.s → _ from fun hz => ?_) ?_; clear_value z; rotate_left; dsimp only [z]; rotate_left)
         | (refine (show Kept E s0 z.1 → _ from fun hz => ?_) ?_; clear_value z; rotate_left; dsimp only [z]; rotate_left)
         | (refine (show Kept E s0 z.r.s → _ from fun hz => ?_) ?_; clear_value z; rotate_left; dsimp only [z]; rotate_left)
         | (refine (show Kept E s0 z.2.1 → _ from fun hz => ?_) ?_; clear_value z; rotate_left; dsimp only [z]; rotate_left)
         | (refine (show Kept E s0 z.2.2 → _ from fun hz => ?_) ?_; clear_value z; rotate_left; dsimp only [z]; rotate_left)
         | clear_value z)
    | split
    | dsimp only)

theorem PartRun.attnItem_kept (c : Cmd) (cl : Nat) (r : PartRun) (it : Item) (h0 : Kept E s0 r.s) (e_agents : E .agents := by assumption) (e_ecc : E .ecc := by assumption) (e_erq : E .erq := by assumption) (e_folded : E .folded := by assumption) (e_fresh : E .fresh := by assumption) (e_fwLog : E .fwLog := by assumption) (e_mem : E .mem := by assumption) (e_msixs : E .msixs := by assumption) (e_out : E .out := by assumption) (e_regs : E .regs := by assumption) (e_rseq : E .rseq := by assumption) : Kept E s0 (PartRun.attnItem c cl r it).s := by
  delta PartRun.attnItem
  repeat' (first
    | (refine fun _ => ?_)
    | (with_reducible first | assumption | apply PartRun.attStore_kept | apply PartRun.attend_kept | apply kept_ite | apply kept_foldl | apply kept_foldl_fst | apply kept_foldl_mid | apply kept_foldl_last | apply PartRun.foldl_kept | apply PartRun.foldl_fst_kept | apply AtRun.foldl_kept)
    | (extract_lets +onlyGivenNames z
       first
         | (refine (show Kept E s0 z → _ from fun hz => ?_) ?_; clear_value z; rotate_left; dsimp only [z]; rotate_left)
         | (refine (show Kept E s0 z.s → _ from fun hz => ?_) ?_; clear_value z; rotate_left; dsimp only [z]; rotate_left)
         | (refine (show Kept E s0 z.1 → _ from fun hz => ?_) ?_; clear_value z; rotate_left; dsimp only [z]; rotate_left)
         | (refine (show Kept E s0 z.1.s → _ from fun hz => ?_) ?_; clear_value z; rotate_left; dsimp only [z]; rotate_left)
         | (refine (show Kept E s0 z.r.s → _ from fun hz => ?_) ?_; clear_value z; rotate_left; dsimp only [z]; rotate_left)
         | (refine (show Kept E s0 z.2.1 → _ from fun hz => ?_) ?_; clear_value z; rotate_left; dsimp only [z]; rotate_left)
         | (refine (show Kept E s0 z.2.2 → _ from fun hz => ?_) ?_; clear_value z; rotate_left; dsimp only [z]; rotate_left)
         | (refine (show (∀ t, Kept E s0 t → Kept E s0 (z t)) → _ from fun hz => ?_) ?_; clear_value z; rotate_left; dsimp only [z]; rotate_left)
         | (have _ : Flash := z; subst z)
         | clear_value z)
    | with_reducible apply hz
    | ((with_reducible show rises _ = true); show rises (State.flash _).regions = true; assumption)
    | split
    | dsimp only)

end Sys2Proof.Machine
end

