-- ==== Sys2Proof/Laws/KeptRing.lean ====
section
/-!
SUPPORT. Laws/KeptRing.lean: the operations of Machine/Ring.lean change neither the queue nor the canonical forms.
-/
namespace Sys2Proof.Machine

set_option Elab.async false
set_option linter.all false

variable {E : Comp → Prop} {s0 : State}

theorem PartRun.ringItem_kept (c : Cmd) (cl s : Nat) (r : PartRun) (it : Item) (h0 : Kept E s0 r.s) (e_agents : E .agents := by assumption) (e_ecc : E .ecc := by assumption) (e_erq : E .erq := by assumption) (e_folded : E .folded := by assumption) (e_fresh : E .fresh := by assumption) (e_fwLog : E .fwLog := by assumption) (e_mem : E .mem := by assumption) (e_msixs : E .msixs := by assumption) (e_out : E .out := by assumption) (e_regs : E .regs := by assumption) (e_rseq : E .rseq := by assumption) : Kept E s0 (PartRun.ringItem c cl s r it).s := by
  delta PartRun.ringItem
  repeat' (first
    | (refine fun _ => ?_)
    | (with_reducible first | assumption | apply PartRun.attStore_kept | apply PartRun.attend_kept | apply PartRun.read_kept | apply State.writeRun_kept | apply kept_ite | apply kept_foldl | apply kept_foldl_fst | apply kept_foldl_mid | apply kept_foldl_last | apply PartRun.foldl_kept | apply PartRun.foldl_fst_kept)
    | (extract_lets +onlyGivenNames z
       first
         | (refine (show Kept E s0 z → _ from fun hz => ?_) ?_; clear_value z; rotate_left; dsimp only [z]; rotate_left)
         | (refine (show Kept E s0 z.s → _ from fun hz => ?_) ?_; clear_value z; rotate_left; dsimp only [z]; rotate_left)
         | (refine (show Kept E s0 z.1 → _ from fun hz => ?_) ?_; clear_value z; rotate_left; dsimp only [z]; rotate_left)
         | (refine (show Kept E s0 z.1.s → _ from fun hz => ?_) ?_; clear_value z; rotate_left; dsimp only [z]; rotate_left)
         | (refine (show Kept E s0 z.2.1 → _ from fun hz => ?_) ?_; clear_value z; rotate_left; dsimp only [z]; rotate_left)
         | (refine (show Kept E s0 z.2.2 → _ from fun hz => ?_) ?_; clear_value z; rotate_left; dsimp only [z]; rotate_left)
         | (refine (show (∀ t, Kept E s0 t → Kept E s0 (z t)) → _ from fun hz => ?_) ?_; clear_value z; rotate_left; dsimp only [z]; rotate_left)
         | (have _ : Flash := z; subst z)
         | clear_value z)
    | with_reducible apply hz
    | ((with_reducible show rises _ = true); show rises (State.flash _).regions = true; assumption)
    | split
    | dsimp only)

end Sys2Proof.Machine
end

