-- ==== Sys2Proof/Laws/KeptParts.lean ====
section
/-!
SUPPORT. Laws/KeptParts.lean: the operations of Machine/Parts.lean change neither the queue nor the canonical forms.
-/
namespace Sys2Proof.Machine

set_option Elab.async false
set_option linter.all false

variable {E : Comp → Prop} {s0 : State}

theorem PartRun.item_kept (c : Cmd) (cl : Nat) (r : PartRun) (it : Item) (h0 : Kept E s0 r.s) (e_agents : E .agents := by assumption) (e_ecc : E .ecc := by assumption) (e_erq : E .erq := by assumption) (e_folded : E .folded := by assumption) (e_fresh : E .fresh := by assumption) (e_fwLog : E .fwLog := by assumption) (e_mem : E .mem := by assumption) (e_msixs : E .msixs := by assumption) (e_out : E .out := by assumption) (e_regs : E .regs := by assumption) (e_rseq : E .rseq := by assumption) : Kept E s0 (PartRun.item c cl r it).s := by
  delta PartRun.item
  repeat' (first
    | (refine fun _ => ?_)
    | (with_reducible first | assumption | apply PartRun.attnItem_kept | apply PartRun.chainItem_kept | apply PartRun.convItem_kept | apply PartRun.cropItem_kept | apply PartRun.gatherItem_kept | apply PartRun.kvWrites_kept | apply PartRun.mmItem_kept | apply PartRun.moveItem_kept | apply PartRun.poolItem_kept | apply PartRun.ringItem_kept | apply PartRun.rngItem_kept | apply PartRun.sampleItem_kept | apply PartRun.scatterItem_kept | apply PartRun.sfpItem_kept | apply PartRun.vopItem_kept | apply kept_ite | apply kept_foldl | apply kept_foldl_fst | apply kept_foldl_mid | apply kept_foldl_last | apply PartRun.foldl_kept | apply PartRun.foldl_fst_kept)
    | (extract_lets +onlyGivenNames z
       first
         | (refine (show Kept E s0 z → _ from fun hz => ?_) ?_; clear_value z; rotate_left; dsimp only [z]; rotate_left)
         | (refine (show Kept E s0 z.s → _ from fun hz => ?_) ?_; clear_value z; rotate_left; dsimp only [z]; rotate_left)
         | (refine (show Kept E s0 z.1 → _ from fun hz => ?_) ?_; clear_value z; rotate_left; dsimp only [z]; rotate_left)
         | (refine (show Kept E s0 z.1.s → _ from fun hz => ?_) ?_; clear_value z; rotate_left; dsimp only [z]; rotate_left)
         | (refine (show Kept E s0 z.2.1 → _ from fun hz => ?_) ?_; clear_value z; rotate_left; dsimp only [z]; rotate_left)
         | (refine (show Kept E s0 z.2.2 → _ from fun hz => ?_) ?_; clear_value z; rotate_left; dsimp only [z]; rotate_left)
         | (refine (show (∀ t, Kept E s0 t → Kept E s0 (z t)) → _ from fun hz => ?_) ?_; clear_value z; rotate_left; dsimp only [z]; rotate_left)
         | (have _ : Flash := z; subst z)
         | clear_value z)
    | with_reducible apply hz
    | ((with_reducible show rises _ = true); show rises (State.flash _).regions = true; assumption)
    | split
    | dsimp only)

theorem PartRun.start_kept (s : State) (lanes : List Lane) (h0 : Kept E s0 s)  : Kept E s0 (PartRun.start s lanes).s := by
  delta PartRun.start
  repeat' (first
    | (with_reducible first | assumption)
    | dsimp only)

theorem State.runPart_kept (s : State) (c : Cmd) (cl : Nat) (h0 : Kept E s0 s) (e_agents : E .agents := by assumption) (e_ecc : E .ecc := by assumption) (e_erq : E .erq := by assumption) (e_folded : E .folded := by assumption) (e_fresh : E .fresh := by assumption) (e_fwLog : E .fwLog := by assumption) (e_mem : E .mem := by assumption) (e_msixs : E .msixs := by assumption) (e_out : E .out := by assumption) (e_regs : E .regs := by assumption) (e_rseq : E .rseq := by assumption) : Kept E s0 (State.runPart s c cl).s := by
  delta State.runPart
  repeat' (first
    | (refine fun _ => ?_)
    | (with_reducible first | assumption | apply PartRun.fail_kept | apply PartRun.item_kept | apply PartRun.moveAll_kept | apply PartRun.start_kept | apply kept_ite | apply kept_foldl | apply PartRun.foldl_kept)
    | (extract_lets +onlyGivenNames z
       first
         | (refine (show Kept E s0 z → _ from fun hz => ?_) ?_; clear_value z; rotate_left; dsimp only [z]; rotate_left)
         | (refine (show Kept E s0 z.s → _ from fun hz => ?_) ?_; clear_value z; rotate_left; dsimp only [z]; rotate_left)
         | clear_value z)
    | split
    | dsimp only)

theorem State.killTile_kept (s : State) (c : Cmd) (x : Nat) (h0 : Kept E s0 s) (e_ecc : E .ecc := by assumption) (e_erq : E .erq := by assumption) (e_folded : E .folded := by assumption) (e_fresh : E .fresh := by assumption) (e_fwLog : E .fwLog := by assumption) (e_mem : E .mem := by assumption) (e_msixs : E .msixs := by assumption) (e_out : E .out := by assumption) (e_regs : E .regs := by assumption) (e_rseq : E .rseq := by assumption) : Kept E s0 (State.killTile s c x).1 := by
  delta State.killTile
  repeat' (first
    | (refine fun _ => ?_)
    | (with_reducible first | assumption | apply PartRun.item_kept | apply State.poisonRegions_kept | apply kept_ite)
    | (extract_lets +onlyGivenNames z
       first
         | (refine (show Kept E s0 z → _ from fun hz => ?_) ?_; clear_value z; rotate_left; dsimp only [z]; rotate_left)
         | clear_value z)
    | split
    | dsimp only)

theorem State.failPart_kept (s : State) (c : Cmd) (cl status addr : Nat) (h0 : Kept E s0 s) (e_ecc : E .ecc := by assumption) (e_erq : E .erq := by assumption) (e_folded : E .folded := by assumption) (e_fresh : E .fresh := by assumption) (e_fwLog : E .fwLog := by assumption) (e_mem : E .mem := by assumption) (e_msixs : E .msixs := by assumption) (e_out : E .out := by assumption) (e_regs : E .regs := by assumption) (e_rseq : E .rseq := by assumption) : Kept E s0 (State.failPart s c cl status addr).1 := by
  delta State.failPart
  repeat' (first
    | (refine fun _ => ?_)
    | (with_reducible first | assumption | apply State.killTile_kept | apply State.poisonRegions_kept | apply kept_ite | apply kept_foldl | apply kept_foldl_fst | apply kept_foldl_mid | apply kept_foldl_last)
    | (extract_lets +onlyGivenNames z
       first
         | (refine (show Kept E s0 z → _ from fun hz => ?_) ?_; clear_value z; rotate_left; dsimp only [z]; rotate_left)
         | (refine (show Kept E s0 z.1 → _ from fun hz => ?_) ?_; clear_value z; rotate_left; dsimp only [z]; rotate_left)
         | (refine (show Kept E s0 z.2.1 → _ from fun hz => ?_) ?_; clear_value z; rotate_left; dsimp only [z]; rotate_left)
         | (refine (show Kept E s0 z.2.2 → _ from fun hz => ?_) ?_; clear_value z; rotate_left; dsimp only [z]; rotate_left)
         | clear_value z)
    | split
    | dsimp only)

theorem State.countRun_kept (s : State) (cl : Nat) (r : PartRun) (h0 : Kept E s0 s) (h1 : Kept E s0 r.s) (e_regs : E .regs := by assumption) : Kept E s0 (State.countRun s cl r) := by
  delta State.countRun
  repeat' (first
    | (with_reducible first | assumption | apply State.bump_kept)
    | (extract_lets +onlyGivenNames z
       first
         | (refine (show Kept E s0 z → _ from fun hz => ?_) ?_; clear_value z; rotate_left; dsimp only [z]; rotate_left)
         | (refine (show Kept E s0 z.1 → _ from fun hz => ?_) ?_; clear_value z; rotate_left; dsimp only [z]; rotate_left)
         | (refine (show Kept E s0 z.2.1 → _ from fun hz => ?_) ?_; clear_value z; rotate_left; dsimp only [z]; rotate_left)
         | (refine (show Kept E s0 z.2.2 → _ from fun hz => ?_) ?_; clear_value z; rotate_left; dsimp only [z]; rotate_left)
         | clear_value z)
    | dsimp only)

theorem State.afterRun_kept (c : Cmd) (cl : Nat) (r : PartRun) (h0 : Kept E s0 r.s) (e_cmds : E .cmds := by assumption) (e_ecc : E .ecc := by assumption) (e_erq : E .erq := by assumption) (e_folded : E .folded := by assumption) (e_fresh : E .fresh := by assumption) (e_fwLog : E .fwLog := by assumption) (e_mem : E .mem := by assumption) (e_msixs : E .msixs := by assumption) (e_out : E .out := by assumption) (e_regs : E .regs := by assumption) (e_rseq : E .rseq := by assumption) : Kept E s0 (State.afterRun c cl r) := by
  delta State.afterRun
  repeat' (first
    | (refine fun _ => ?_)
    | (with_reducible first | assumption | apply State.countRun_kept | apply State.failPart_kept | apply State.setCmd_kept | apply kept_ite)
    | (extract_lets +onlyGivenNames z
       first
         | (refine (show Kept E s0 z → _ from fun hz => ?_) ?_; clear_value z; rotate_left; dsimp only [z]; rotate_left)
         | (refine (show Kept E s0 z.1 → _ from fun hz => ?_) ?_; clear_value z; rotate_left; dsimp only [z]; rotate_left)
         | (refine (show Kept E s0 z.2.1 → _ from fun hz => ?_) ?_; clear_value z; rotate_left; dsimp only [z]; rotate_left)
         | (refine (show Kept E s0 z.2.2 → _ from fun hz => ?_) ?_; clear_value z; rotate_left; dsimp only [z]; rotate_left)
         | clear_value z)
    | split
    | dsimp only)

theorem State.noteStart_kept (s : State) (x cl : Nat) (h0 : Kept E s0 s) (e_clusters : E .clusters := by assumption) : Kept E s0 (State.noteStart s x cl) := by
  delta State.noteStart
  repeat' (first
    | (refine fun _ => ?_)
    | (with_reducible first | assumption | apply State.setCluster_kept)
    | (extract_lets +onlyGivenNames z
       first
         | (refine (show Kept E s0 z → _ from fun hz => ?_) ?_; clear_value z; rotate_left; dsimp only [z]; rotate_left)
         | clear_value z)
    | dsimp only)

theorem execPartStart_kept (cluster unit : Nat) (s : State) (h0 : Kept E s0 s) (e_agents : E .agents := by assumption) (e_clusters : E .clusters := by assumption) (e_cmds : E .cmds := by assumption) (e_ecc : E .ecc := by assumption) (e_erq : E .erq := by assumption) (e_folded : E .folded := by assumption) (e_fresh : E .fresh := by assumption) (e_fwLog : E .fwLog := by assumption) (e_mem : E .mem := by assumption) (e_msixs : E .msixs := by assumption) (e_out : E .out := by assumption) (e_regs : E .regs := by assumption) (e_rseq : E .rseq := by assumption) : ∃ t, execPartStart cluster unit s = .next t ∧ Kept E s0 t := by
  refine ⟨_, rfl, ?_⟩
  repeat' (first
    | (refine fun _ => ?_)
    | (with_reducible first | assumption | apply State.afterRun_kept | apply State.noteStart_kept | apply State.runPart_kept | apply kept_ite)
    | split
    | dsimp only)

theorem PartRun.finishMerged_kept (c : Cmd) (cl : Nat) (e : PartTile) (r : PartRun) (h0 : Kept E s0 r.s) (e_agents : E .agents := by assumption) (e_ecc : E .ecc := by assumption) (e_erq : E .erq := by assumption) (e_folded : E .folded := by assumption) (e_fresh : E .fresh := by assumption) (e_fwLog : E .fwLog := by assumption) (e_mem : E .mem := by assumption) (e_msixs : E .msixs := by assumption) (e_out : E .out := by assumption) (e_regs : E .regs := by assumption) (e_rseq : E .rseq := by assumption) : Kept E s0 (PartRun.finishMerged c cl e r).s := by
  delta PartRun.finishMerged
  repeat' (first
    | (refine fun _ => ?_)
    | (with_reducible first | assumption | apply PartRun.cvFinish_kept | apply PartRun.finishTile_kept | apply PartRun.item_kept | apply PartRun.kvWrites_kept | apply kept_ite)
    | (extract_lets +onlyGivenNames z
       first
         | (refine (show Kept E s0 z → _ from fun hz => ?_) ?_; clear_value z; rotate_left; dsimp only [z]; rotate_left)
         | (refine (show Kept E s0 z.s → _ from fun hz => ?_) ?_; clear_value z; rotate_left; dsimp only [z]; rotate_left)
         | clear_value z)
    | split
    | dsimp only)

theorem State.grant_kept (s : State) (c : Cmd) (cl : Nat) (e : PartTile) (h0 : Kept E s0 s) (e_agents : E .agents := by assumption) (e_cmds : E .cmds := by assumption) (e_ecc : E .ecc := by assumption) (e_erq : E .erq := by assumption) (e_folded : E .folded := by assumption) (e_fresh : E .fresh := by assumption) (e_fwLog : E .fwLog := by assumption) (e_mem : E .mem := by assumption) (e_msixs : E .msixs := by assumption) (e_out : E .out := by assumption) (e_regs : E .regs := by assumption) (e_rseq : E .rseq := by assumption) : Kept E s0 (State.grant s c cl e) := by
  delta State.grant
  repeat' (first
    | (refine fun _ => ?_)
    | (with_reducible first | assumption | apply State.afterRun_kept | apply PartRun.finishMerged_kept | apply State.killTile_kept | apply State.setCmd_kept | apply PartRun.start_kept | apply kept_ite)
    | (extract_lets +onlyGivenNames z
       first
         | (refine (show Kept E s0 z → _ from fun hz => ?_) ?_; clear_value z; rotate_left; dsimp only [z]; rotate_left)
         | (refine (show Kept E s0 z.s → _ from fun hz => ?_) ?_; clear_value z; rotate_left; dsimp only [z]; rotate_left)
         | (refine (show Kept E s0 z.1 → _ from fun hz => ?_) ?_; clear_value z; rotate_left; dsimp only [z]; rotate_left)
         | (refine (show Kept E s0 z.2.1 → _ from fun hz => ?_) ?_; clear_value z; rotate_left; dsimp only [z]; rotate_left)
         | (refine (show Kept E s0 z.2.2 → _ from fun hz => ?_) ?_; clear_value z; rotate_left; dsimp only [z]; rotate_left)
         | clear_value z)
    | split
    | dsimp only)

theorem execMergeSlotGrant_kept (cluster : Nat) (s : State) (h0 : Kept E s0 s) (e_agents : E .agents := by assumption) (e_cmds : E .cmds := by assumption) (e_ecc : E .ecc := by assumption) (e_erq : E .erq := by assumption) (e_folded : E .folded := by assumption) (e_fresh : E .fresh := by assumption) (e_fwLog : E .fwLog := by assumption) (e_mem : E .mem := by assumption) (e_msixs : E .msixs := by assumption) (e_out : E .out := by assumption) (e_regs : E .regs := by assumption) (e_rseq : E .rseq := by assumption) : ∃ t, execMergeSlotGrant cluster s = .next t ∧ Kept E s0 t := by
  refine ⟨_, rfl, ?_⟩
  repeat' (first
    | (refine fun _ => ?_)
    | (with_reducible first | assumption | apply State.grant_kept | apply kept_ite)
    | split
    | dsimp only)

theorem State.reportPart_kept (s : State) (c : Cmd) (cl : Nat) (cause : Option Nat) (h0 : Kept E s0 s) (e_cmds : E .cmds := by assumption) (e_ctxs : E .ctxs := by assumption) (e_erq : E .erq := by assumption) (e_folded : E .folded := by assumption) (e_fwLog : E .fwLog := by assumption) (e_msixs : E .msixs := by assumption) (e_out : E .out := by assumption) (e_regs : E .regs := by assumption) (e_rseq : E .rseq := by assumption) : Kept E s0 (State.reportPart s c cl cause) := by
  delta State.reportPart
  repeat' (first
    | (refine fun _ => ?_)
    | (with_reducible first | assumption | apply State.faultCtx_kept | apply State.setCmd_kept | apply kept_ite)
    | (extract_lets +onlyGivenNames z
       first
         | (refine (show Kept E s0 z → _ from fun hz => ?_) ?_; clear_value z; rotate_left; dsimp only [z]; rotate_left)
         | clear_value z)
    | split
    | dsimp only)

theorem execPartComplete_kept (cluster q seq : Nat) (s : State) (h0 : Kept E s0 s) (e_cmds : E .cmds := by assumption) (e_ctxs : E .ctxs := by assumption) (e_erq : E .erq := by assumption) (e_folded : E .folded := by assumption) (e_fwLog : E .fwLog := by assumption) (e_msixs : E .msixs := by assumption) (e_out : E .out := by assumption) (e_regs : E .regs := by assumption) (e_rseq : E .rseq := by assumption) : ∃ t, execPartComplete cluster q seq s = .next t ∧ Kept E s0 t := by
  refine ⟨_, rfl, ?_⟩
  repeat' (first
    | (refine fun _ => ?_)
    | (with_reducible first | assumption | apply State.reportPart_kept | apply kept_ite)
    | split
    | dsimp only)

theorem State.signalEntries_kept (s : State) (c : Cmd) (h0 : Kept E s0 s) (e_cmds : E .cmds := by assumption) (e_regs : E .regs := by assumption) (e_streams : E .streams := by assumption) : Kept E s0 (State.signalEntries s c) := by
  delta State.signalEntries
  repeat' (first
    | (refine fun _ => ?_)
    | (with_reducible first | assumption | apply State.addToken_kept | apply State.setToken_kept | apply kept_ite | apply kept_foldl)
    | (extract_lets +onlyGivenNames z
       first
         | (refine (show Kept E s0 z → _ from fun hz => ?_) ?_; clear_value z; rotate_left; dsimp only [z]; rotate_left)
         | clear_value z)
    | split
    | dsimp only)

theorem State.pruneFences_kept (s : State) (h0 : Kept E s0 s) (e_fences : E .fences := by assumption) : Kept E s0 (State.pruneFences s) := by
  delta State.pruneFences
  repeat' (first
    | (refine fun _ => ?_)
    | (with_reducible first | assumption)
    | simp only [kept_fences e_fences]
    | dsimp only)

theorem State.beforeComplete_kept (s : State) (c : Cmd) (h0 : Kept E s0 s) (e_cmds : E .cmds := by assumption) (e_ecc : E .ecc := by assumption) (e_erq : E .erq := by assumption) (e_folded : E .folded := by assumption) (e_fresh : E .fresh := by assumption) (e_fwLog : E .fwLog := by assumption) (e_mem : E .mem := by assumption) (e_msixs : E .msixs := by assumption) (e_out : E .out := by assumption) (e_regs : E .regs := by assumption) (e_rseq : E .rseq := by assumption) (e_streams : E .streams := by assumption) : Kept E s0 (State.beforeComplete s c).1 := by
  delta State.beforeComplete
  repeat' (first
    | (with_reducible first | assumption | apply State.coFinish_kept | apply State.kvCommit_kept | apply State.signalEntries_kept | apply kept_ite)
    | (extract_lets +onlyGivenNames z
       first
         | (refine (show Kept E s0 z → _ from fun hz => ?_) ?_; clear_value z; rotate_left; dsimp only [z]; rotate_left)
         | clear_value z)
    | split
    | dsimp only)

theorem execCommandComplete_kept (q seq : Nat) (s : State) (h0 : Kept E s0 s) (e_cmds : E .cmds := by assumption) (e_ctxs : E .ctxs := by assumption) (e_ecc : E .ecc := by assumption) (e_erq : E .erq := by assumption) (e_evseq : E .evseq := by assumption) (e_fences : E .fences := by assumption) (e_folded : E .folded := by assumption) (e_fresh : E .fresh := by assumption) (e_fwLog : E .fwLog := by assumption) (e_mem : E .mem := by assumption) (e_msixs : E .msixs := by assumption) (e_out : E .out := by assumption) (e_queues : E .queues := by assumption) (e_regs : E .regs := by assumption) (e_rseq : E .rseq := by assumption) (e_streams : E .streams := by assumption) : ∃ t, execCommandComplete q seq s = .next t ∧ Kept E s0 t := by
  refine ⟨_, rfl, ?_⟩
  repeat' (first
    | (refine fun _ => ?_)
    | (with_reducible first | assumption | apply State.beforeComplete_kept | apply State.completeCmd_kept | apply State.pruneFences_kept | apply kept_ite)
    | (extract_lets +onlyGivenNames z
       first
         | (refine (show Kept E s0 z → _ from fun hz => ?_) ?_; clear_value z; rotate_left; dsimp only [z]; rotate_left)
         | (refine (show Kept E s0 z.1 → _ from fun hz => ?_) ?_; clear_value z; rotate_left; dsimp only [z]; rotate_left)
         | (refine (show Kept E s0 z.2.1 → _ from fun hz => ?_) ?_; clear_value z; rotate_left; dsimp only [z]; rotate_left)
         | (refine (show Kept E s0 z.2.2 → _ from fun hz => ?_) ?_; clear_value z; rotate_left; dsimp only [z]; rotate_left)
         | clear_value z)
    | split
    | dsimp only)

theorem execCompletionRecordWrite_kept (q : Nat) (s : State) (h0 : Kept E s0 s) (e_ecc : E .ecc := by assumption) (e_erq : E .erq := by assumption) (e_folded : E .folded := by assumption) (e_fwLog : E .fwLog := by assumption) (e_mem : E .mem := by assumption) (e_msixs : E .msixs := by assumption) (e_out : E .out := by assumption) (e_queues : E .queues := by assumption) (e_regs : E .regs := by assumption) (e_rseq : E .rseq := by assumption) : ∃ t, execCompletionRecordWrite q s = .next t ∧ Kept E s0 t := by
  refine ⟨_, rfl, ?_⟩
  repeat' (first
    | (refine fun _ => ?_)
    | (with_reducible first | assumption | apply State.writeWaiting_kept)
    | dsimp only)

theorem execImageInstall_kept (cluster : Nat) (s : State) (h0 : Kept E s0 s) (e_clusters : E .clusters := by assumption) (e_cmds : E .cmds := by assumption) (e_regs : E .regs := by assumption) : ∃ t, execImageInstall cluster s = .next t ∧ Kept E s0 t := by
  refine ⟨_, rfl, ?_⟩
  repeat' (first
    | (refine fun _ => ?_)
    | (with_reducible first | assumption | apply State.setCluster_kept | apply State.setCmd_kept | apply State.setF_kept | apply kept_ite)
    | (extract_lets +onlyGivenNames z
       first
         | (refine (show Kept E s0 z → _ from fun hz => ?_) ?_; clear_value z; rotate_left; dsimp only [z]; rotate_left)
         | clear_value z)
    | split
    | dsimp only)

end Sys2Proof.Machine
end

