-- ==== Sys2Proof/Laws/KeptCommands.lean ====
section
/-!
SUPPORT. Laws/KeptCommands.lean: the operations of Machine/Commands.lean change neither the queue nor the canonical forms.
-/
namespace Sys2Proof.Machine

set_option Elab.async false
set_option linter.all false

variable {E : Comp → Prop} {s0 : State}

theorem execMma_kept (q : Nat) (s : State) (h0 : Kept E s0 s) (e_cmds : E .cmds := by assumption) (e_ctxs : E .ctxs := by assumption) (e_ecc : E .ecc := by assumption) (e_erq : E .erq := by assumption) (e_evseq : E .evseq := by assumption) (e_folded : E .folded := by assumption) (e_fwLog : E .fwLog := by assumption) (e_mem : E .mem := by assumption) (e_msixs : E .msixs := by assumption) (e_out : E .out := by assumption) (e_regs : E .regs := by assumption) (e_rseq : E .rseq := by assumption) (e_streams : E .streams := by assumption) : ∃ t, execMma q s = .next t ∧ Kept E s0 t := by
  refine ⟨_, rfl, ?_⟩
  repeat' (first
    | (refine fun _ => ?_)
    | (with_reducible first | assumption | apply State.goMma_kept | apply State.issue_kept)
    | dsimp only)

theorem execChain_kept (q : Nat) (s : State) (h0 : Kept E s0 s) (e_cmds : E .cmds := by assumption) (e_ctxs : E .ctxs := by assumption) (e_ecc : E .ecc := by assumption) (e_erq : E .erq := by assumption) (e_evseq : E .evseq := by assumption) (e_folded : E .folded := by assumption) (e_fwLog : E .fwLog := by assumption) (e_mem : E .mem := by assumption) (e_msixs : E .msixs := by assumption) (e_out : E .out := by assumption) (e_regs : E .regs := by assumption) (e_rseq : E .rseq := by assumption) (e_streams : E .streams := by assumption) : ∃ t, execChain q s = .next t ∧ Kept E s0 t := by
  refine ⟨_, rfl, ?_⟩
  repeat' (first
    | (refine fun _ => ?_)
    | (with_reducible first | assumption | apply State.goTiled_kept | apply State.issue_kept)
    | dsimp only)

theorem execConv_kept (q : Nat) (s : State) (h0 : Kept E s0 s) (e_cmds : E .cmds := by assumption) (e_ctxs : E .ctxs := by assumption) (e_ecc : E .ecc := by assumption) (e_erq : E .erq := by assumption) (e_evseq : E .evseq := by assumption) (e_folded : E .folded := by assumption) (e_fwLog : E .fwLog := by assumption) (e_mem : E .mem := by assumption) (e_msixs : E .msixs := by assumption) (e_out : E .out := by assumption) (e_regs : E .regs := by assumption) (e_rseq : E .rseq := by assumption) (e_streams : E .streams := by assumption) : ∃ t, execConv q s = .next t ∧ Kept E s0 t := by
  refine ⟨_, rfl, ?_⟩
  repeat' (first
    | (refine fun _ => ?_)
    | (with_reducible first | assumption | apply State.goTiled_kept | apply State.issue_kept)
    | dsimp only)

theorem execMaxpool_kept (q : Nat) (s : State) (h0 : Kept E s0 s) (e_cmds : E .cmds := by assumption) (e_ctxs : E .ctxs := by assumption) (e_ecc : E .ecc := by assumption) (e_erq : E .erq := by assumption) (e_evseq : E .evseq := by assumption) (e_folded : E .folded := by assumption) (e_fwLog : E .fwLog := by assumption) (e_mem : E .mem := by assumption) (e_msixs : E .msixs := by assumption) (e_out : E .out := by assumption) (e_regs : E .regs := by assumption) (e_rseq : E .rseq := by assumption) (e_streams : E .streams := by assumption) : ∃ t, execMaxpool q s = .next t ∧ Kept E s0 t := by
  refine ⟨_, rfl, ?_⟩
  repeat' (first
    | (refine fun _ => ?_)
    | (with_reducible first | assumption | apply State.goTiled_kept | apply State.issue_kept)
    | dsimp only)

theorem execAvgpool_kept (q : Nat) (s : State) (h0 : Kept E s0 s) (e_cmds : E .cmds := by assumption) (e_ctxs : E .ctxs := by assumption) (e_ecc : E .ecc := by assumption) (e_erq : E .erq := by assumption) (e_evseq : E .evseq := by assumption) (e_folded : E .folded := by assumption) (e_fwLog : E .fwLog := by assumption) (e_mem : E .mem := by assumption) (e_msixs : E .msixs := by assumption) (e_out : E .out := by assumption) (e_regs : E .regs := by assumption) (e_rseq : E .rseq := by assumption) (e_streams : E .streams := by assumption) : ∃ t, execAvgpool q s = .next t ∧ Kept E s0 t := by
  refine ⟨_, rfl, ?_⟩
  repeat' (first
    | (refine fun _ => ?_)
    | (with_reducible first | assumption | apply State.goTiled_kept | apply State.issue_kept)
    | dsimp only)

theorem execUpnearest_kept (q : Nat) (s : State) (h0 : Kept E s0 s) (e_cmds : E .cmds := by assumption) (e_ctxs : E .ctxs := by assumption) (e_ecc : E .ecc := by assumption) (e_erq : E .erq := by assumption) (e_evseq : E .evseq := by assumption) (e_folded : E .folded := by assumption) (e_fwLog : E .fwLog := by assumption) (e_mem : E .mem := by assumption) (e_msixs : E .msixs := by assumption) (e_out : E .out := by assumption) (e_regs : E .regs := by assumption) (e_rseq : E .rseq := by assumption) (e_streams : E .streams := by assumption) : ∃ t, execUpnearest q s = .next t ∧ Kept E s0 t := by
  refine ⟨_, rfl, ?_⟩
  repeat' (first
    | (refine fun _ => ?_)
    | (with_reducible first | assumption | apply State.goTiled_kept | apply State.issue_kept)
    | dsimp only)

theorem execUplinear_kept (q : Nat) (s : State) (h0 : Kept E s0 s) (e_cmds : E .cmds := by assumption) (e_ctxs : E .ctxs := by assumption) (e_ecc : E .ecc := by assumption) (e_erq : E .erq := by assumption) (e_evseq : E .evseq := by assumption) (e_folded : E .folded := by assumption) (e_fwLog : E .fwLog := by assumption) (e_mem : E .mem := by assumption) (e_msixs : E .msixs := by assumption) (e_out : E .out := by assumption) (e_regs : E .regs := by assumption) (e_rseq : E .rseq := by assumption) (e_streams : E .streams := by assumption) : ∃ t, execUplinear q s = .next t ∧ Kept E s0 t := by
  refine ⟨_, rfl, ?_⟩
  repeat' (first
    | (refine fun _ => ?_)
    | (with_reducible first | assumption | apply State.goTiled_kept | apply State.issue_kept)
    | dsimp only)

theorem execStage_kept (q : Nat) (s : State) (h0 : Kept E s0 s) (e_cmds : E .cmds := by assumption) (e_ctxs : E .ctxs := by assumption) (e_ecc : E .ecc := by assumption) (e_erq : E .erq := by assumption) (e_evseq : E .evseq := by assumption) (e_folded : E .folded := by assumption) (e_fwLog : E .fwLog := by assumption) (e_mem : E .mem := by assumption) (e_msixs : E .msixs := by assumption) (e_out : E .out := by assumption) (e_regs : E .regs := by assumption) (e_rseq : E .rseq := by assumption) (e_streams : E .streams := by assumption) : ∃ t, execStage q s = .next t ∧ Kept E s0 t := by
  refine ⟨_, rfl, ?_⟩
  repeat' (first
    | (refine fun _ => ?_)
    | (with_reducible first | assumption | apply State.goTiled_kept | apply State.issue_kept)
    | dsimp only)

theorem execAdd_kept (q : Nat) (s : State) (h0 : Kept E s0 s) (e_cmds : E .cmds := by assumption) (e_ctxs : E .ctxs := by assumption) (e_ecc : E .ecc := by assumption) (e_erq : E .erq := by assumption) (e_evseq : E .evseq := by assumption) (e_folded : E .folded := by assumption) (e_fwLog : E .fwLog := by assumption) (e_mem : E .mem := by assumption) (e_msixs : E .msixs := by assumption) (e_out : E .out := by assumption) (e_regs : E .regs := by assumption) (e_rseq : E .rseq := by assumption) (e_streams : E .streams := by assumption) : ∃ t, execAdd q s = .next t ∧ Kept E s0 t := by
  refine ⟨_, rfl, ?_⟩
  repeat' (first
    | (refine fun _ => ?_)
    | (with_reducible first | assumption | apply State.goTiled_kept | apply State.issue_kept)
    | dsimp only)

theorem execSub_kept (q : Nat) (s : State) (h0 : Kept E s0 s) (e_cmds : E .cmds := by assumption) (e_ctxs : E .ctxs := by assumption) (e_ecc : E .ecc := by assumption) (e_erq : E .erq := by assumption) (e_evseq : E .evseq := by assumption) (e_folded : E .folded := by assumption) (e_fwLog : E .fwLog := by assumption) (e_mem : E .mem := by assumption) (e_msixs : E .msixs := by assumption) (e_out : E .out := by assumption) (e_regs : E .regs := by assumption) (e_rseq : E .rseq := by assumption) (e_streams : E .streams := by assumption) : ∃ t, execSub q s = .next t ∧ Kept E s0 t := by
  refine ⟨_, rfl, ?_⟩
  repeat' (first
    | (refine fun _ => ?_)
    | (with_reducible first | assumption | apply State.goTiled_kept | apply State.issue_kept)
    | dsimp only)

theorem execMul_kept (q : Nat) (s : State) (h0 : Kept E s0 s) (e_cmds : E .cmds := by assumption) (e_ctxs : E .ctxs := by assumption) (e_ecc : E .ecc := by assumption) (e_erq : E .erq := by assumption) (e_evseq : E .evseq := by assumption) (e_folded : E .folded := by assumption) (e_fwLog : E .fwLog := by assumption) (e_mem : E .mem := by assumption) (e_msixs : E .msixs := by assumption) (e_out : E .out := by assumption) (e_regs : E .regs := by assumption) (e_rseq : E .rseq := by assumption) (e_streams : E .streams := by assumption) : ∃ t, execMul q s = .next t ∧ Kept E s0 t := by
  refine ⟨_, rfl, ?_⟩
  repeat' (first
    | (refine fun _ => ?_)
    | (with_reducible first | assumption | apply State.goTiled_kept | apply State.issue_kept)
    | dsimp only)

theorem execFma_kept (q : Nat) (s : State) (h0 : Kept E s0 s) (e_cmds : E .cmds := by assumption) (e_ctxs : E .ctxs := by assumption) (e_ecc : E .ecc := by assumption) (e_erq : E .erq := by assumption) (e_evseq : E .evseq := by assumption) (e_folded : E .folded := by assumption) (e_fwLog : E .fwLog := by assumption) (e_mem : E .mem := by assumption) (e_msixs : E .msixs := by assumption) (e_out : E .out := by assumption) (e_regs : E .regs := by assumption) (e_rseq : E .rseq := by assumption) (e_streams : E .streams := by assumption) : ∃ t, execFma q s = .next t ∧ Kept E s0 t := by
  refine ⟨_, rfl, ?_⟩
  repeat' (first
    | (refine fun _ => ?_)
    | (with_reducible first | assumption | apply State.goTiled_kept | apply State.issue_kept)
    | dsimp only)

theorem execMax_kept (q : Nat) (s : State) (h0 : Kept E s0 s) (e_cmds : E .cmds := by assumption) (e_ctxs : E .ctxs := by assumption) (e_ecc : E .ecc := by assumption) (e_erq : E .erq := by assumption) (e_evseq : E .evseq := by assumption) (e_folded : E .folded := by assumption) (e_fwLog : E .fwLog := by assumption) (e_mem : E .mem := by assumption) (e_msixs : E .msixs := by assumption) (e_out : E .out := by assumption) (e_regs : E .regs := by assumption) (e_rseq : E .rseq := by assumption) (e_streams : E .streams := by assumption) : ∃ t, execMax q s = .next t ∧ Kept E s0 t := by
  refine ⟨_, rfl, ?_⟩
  repeat' (first
    | (refine fun _ => ?_)
    | (with_reducible first | assumption | apply State.goTiled_kept | apply State.issue_kept)
    | dsimp only)

theorem execMin_kept (q : Nat) (s : State) (h0 : Kept E s0 s) (e_cmds : E .cmds := by assumption) (e_ctxs : E .ctxs := by assumption) (e_ecc : E .ecc := by assumption) (e_erq : E .erq := by assumption) (e_evseq : E .evseq := by assumption) (e_folded : E .folded := by assumption) (e_fwLog : E .fwLog := by assumption) (e_mem : E .mem := by assumption) (e_msixs : E .msixs := by assumption) (e_out : E .out := by assumption) (e_regs : E .regs := by assumption) (e_rseq : E .rseq := by assumption) (e_streams : E .streams := by assumption) : ∃ t, execMin q s = .next t ∧ Kept E s0 t := by
  refine ⟨_, rfl, ?_⟩
  repeat' (first
    | (refine fun _ => ?_)
    | (with_reducible first | assumption | apply State.goTiled_kept | apply State.issue_kept)
    | dsimp only)

theorem execAbs_kept (q : Nat) (s : State) (h0 : Kept E s0 s) (e_cmds : E .cmds := by assumption) (e_ctxs : E .ctxs := by assumption) (e_ecc : E .ecc := by assumption) (e_erq : E .erq := by assumption) (e_evseq : E .evseq := by assumption) (e_folded : E .folded := by assumption) (e_fwLog : E .fwLog := by assumption) (e_mem : E .mem := by assumption) (e_msixs : E .msixs := by assumption) (e_out : E .out := by assumption) (e_regs : E .regs := by assumption) (e_rseq : E .rseq := by assumption) (e_streams : E .streams := by assumption) : ∃ t, execAbs q s = .next t ∧ Kept E s0 t := by
  refine ⟨_, rfl, ?_⟩
  repeat' (first
    | (refine fun _ => ?_)
    | (with_reducible first | assumption | apply State.goTiled_kept | apply State.issue_kept)
    | dsimp only)

theorem execNeg_kept (q : Nat) (s : State) (h0 : Kept E s0 s) (e_cmds : E .cmds := by assumption) (e_ctxs : E .ctxs := by assumption) (e_ecc : E .ecc := by assumption) (e_erq : E .erq := by assumption) (e_evseq : E .evseq := by assumption) (e_folded : E .folded := by assumption) (e_fwLog : E .fwLog := by assumption) (e_mem : E .mem := by assumption) (e_msixs : E .msixs := by assumption) (e_out : E .out := by assumption) (e_regs : E .regs := by assumption) (e_rseq : E .rseq := by assumption) (e_streams : E .streams := by assumption) : ∃ t, execNeg q s = .next t ∧ Kept E s0 t := by
  refine ⟨_, rfl, ?_⟩
  repeat' (first
    | (refine fun _ => ?_)
    | (with_reducible first | assumption | apply State.goTiled_kept | apply State.issue_kept)
    | dsimp only)

theorem execCmp_kept (q : Nat) (s : State) (h0 : Kept E s0 s) (e_cmds : E .cmds := by assumption) (e_ctxs : E .ctxs := by assumption) (e_ecc : E .ecc := by assumption) (e_erq : E .erq := by assumption) (e_evseq : E .evseq := by assumption) (e_folded : E .folded := by assumption) (e_fwLog : E .fwLog := by assumption) (e_mem : E .mem := by assumption) (e_msixs : E .msixs := by assumption) (e_out : E .out := by assumption) (e_regs : E .regs := by assumption) (e_rseq : E .rseq := by assumption) (e_streams : E .streams := by assumption) : ∃ t, execCmp q s = .next t ∧ Kept E s0 t := by
  refine ⟨_, rfl, ?_⟩
  repeat' (first
    | (refine fun _ => ?_)
    | (with_reducible first | assumption | apply State.goTiled_kept | apply State.issue_kept)
    | dsimp only)

theorem execSelect_kept (q : Nat) (s : State) (h0 : Kept E s0 s) (e_cmds : E .cmds := by assumption) (e_ctxs : E .ctxs := by assumption) (e_ecc : E .ecc := by assumption) (e_erq : E .erq := by assumption) (e_evseq : E .evseq := by assumption) (e_folded : E .folded := by assumption) (e_fwLog : E .fwLog := by assumption) (e_mem : E .mem := by assumption) (e_msixs : E .msixs := by assumption) (e_out : E .out := by assumption) (e_regs : E .regs := by assumption) (e_rseq : E .rseq := by assumption) (e_streams : E .streams := by assumption) : ∃ t, execSelect q s = .next t ∧ Kept E s0 t := by
  refine ⟨_, rfl, ?_⟩
  repeat' (first
    | (refine fun _ => ?_)
    | (with_reducible first | assumption | apply State.goTiled_kept | apply State.issue_kept)
    | dsimp only)

theorem execConvert_kept (q : Nat) (s : State) (h0 : Kept E s0 s) (e_cmds : E .cmds := by assumption) (e_ctxs : E .ctxs := by assumption) (e_ecc : E .ecc := by assumption) (e_erq : E .erq := by assumption) (e_evseq : E .evseq := by assumption) (e_folded : E .folded := by assumption) (e_fwLog : E .fwLog := by assumption) (e_mem : E .mem := by assumption) (e_msixs : E .msixs := by assumption) (e_out : E .out := by assumption) (e_regs : E .regs := by assumption) (e_rseq : E .rseq := by assumption) (e_streams : E .streams := by assumption) : ∃ t, execConvert q s = .next t ∧ Kept E s0 t := by
  refine ⟨_, rfl, ?_⟩
  repeat' (first
    | (refine fun _ => ?_)
    | (with_reducible first | assumption | apply State.goTiled_kept | apply State.issue_kept)
    | dsimp only)

theorem execFunc_kept (q : Nat) (s : State) (h0 : Kept E s0 s) (e_cmds : E .cmds := by assumption) (e_ctxs : E .ctxs := by assumption) (e_ecc : E .ecc := by assumption) (e_erq : E .erq := by assumption) (e_evseq : E .evseq := by assumption) (e_folded : E .folded := by assumption) (e_fwLog : E .fwLog := by assumption) (e_mem : E .mem := by assumption) (e_msixs : E .msixs := by assumption) (e_out : E .out := by assumption) (e_regs : E .regs := by assumption) (e_rseq : E .rseq := by assumption) (e_streams : E .streams := by assumption) : ∃ t, execFunc q s = .next t ∧ Kept E s0 t := by
  refine ⟨_, rfl, ?_⟩
  repeat' (first
    | (refine fun _ => ?_)
    | (with_reducible first | assumption | apply State.goTiled_kept | apply State.issue_kept)
    | dsimp only)

theorem execIadd_kept (q : Nat) (s : State) (h0 : Kept E s0 s) (e_cmds : E .cmds := by assumption) (e_ctxs : E .ctxs := by assumption) (e_ecc : E .ecc := by assumption) (e_erq : E .erq := by assumption) (e_evseq : E .evseq := by assumption) (e_folded : E .folded := by assumption) (e_fwLog : E .fwLog := by assumption) (e_mem : E .mem := by assumption) (e_msixs : E .msixs := by assumption) (e_out : E .out := by assumption) (e_regs : E .regs := by assumption) (e_rseq : E .rseq := by assumption) (e_streams : E .streams := by assumption) : ∃ t, execIadd q s = .next t ∧ Kept E s0 t := by
  refine ⟨_, rfl, ?_⟩
  repeat' (first
    | (refine fun _ => ?_)
    | (with_reducible first | assumption | apply State.goTiled_kept | apply State.issue_kept)
    | dsimp only)

theorem execIsub_kept (q : Nat) (s : State) (h0 : Kept E s0 s) (e_cmds : E .cmds := by assumption) (e_ctxs : E .ctxs := by assumption) (e_ecc : E .ecc := by assumption) (e_erq : E .erq := by assumption) (e_evseq : E .evseq := by assumption) (e_folded : E .folded := by assumption) (e_fwLog : E .fwLog := by assumption) (e_mem : E .mem := by assumption) (e_msixs : E .msixs := by assumption) (e_out : E .out := by assumption) (e_regs : E .regs := by assumption) (e_rseq : E .rseq := by assumption) (e_streams : E .streams := by assumption) : ∃ t, execIsub q s = .next t ∧ Kept E s0 t := by
  refine ⟨_, rfl, ?_⟩
  repeat' (first
    | (refine fun _ => ?_)
    | (with_reducible first | assumption | apply State.goTiled_kept | apply State.issue_kept)
    | dsimp only)

theorem execImul_kept (q : Nat) (s : State) (h0 : Kept E s0 s) (e_cmds : E .cmds := by assumption) (e_ctxs : E .ctxs := by assumption) (e_ecc : E .ecc := by assumption) (e_erq : E .erq := by assumption) (e_evseq : E .evseq := by assumption) (e_folded : E .folded := by assumption) (e_fwLog : E .fwLog := by assumption) (e_mem : E .mem := by assumption) (e_msixs : E .msixs := by assumption) (e_out : E .out := by assumption) (e_regs : E .regs := by assumption) (e_rseq : E .rseq := by assumption) (e_streams : E .streams := by assumption) : ∃ t, execImul q s = .next t ∧ Kept E s0 t := by
  refine ⟨_, rfl, ?_⟩
  repeat' (first
    | (refine fun _ => ?_)
    | (with_reducible first | assumption | apply State.goTiled_kept | apply State.issue_kept)
    | dsimp only)

theorem execIand_kept (q : Nat) (s : State) (h0 : Kept E s0 s) (e_cmds : E .cmds := by assumption) (e_ctxs : E .ctxs := by assumption) (e_ecc : E .ecc := by assumption) (e_erq : E .erq := by assumption) (e_evseq : E .evseq := by assumption) (e_folded : E .folded := by assumption) (e_fwLog : E .fwLog := by assumption) (e_mem : E .mem := by assumption) (e_msixs : E .msixs := by assumption) (e_out : E .out := by assumption) (e_regs : E .regs := by assumption) (e_rseq : E .rseq := by assumption) (e_streams : E .streams := by assumption) : ∃ t, execIand q s = .next t ∧ Kept E s0 t := by
  refine ⟨_, rfl, ?_⟩
  repeat' (first
    | (refine fun _ => ?_)
    | (with_reducible first | assumption | apply State.goTiled_kept | apply State.issue_kept)
    | dsimp only)

theorem execIor_kept (q : Nat) (s : State) (h0 : Kept E s0 s) (e_cmds : E .cmds := by assumption) (e_ctxs : E .ctxs := by assumption) (e_ecc : E .ecc := by assumption) (e_erq : E .erq := by assumption) (e_evseq : E .evseq := by assumption) (e_folded : E .folded := by assumption) (e_fwLog : E .fwLog := by assumption) (e_mem : E .mem := by assumption) (e_msixs : E .msixs := by assumption) (e_out : E .out := by assumption) (e_regs : E .regs := by assumption) (e_rseq : E .rseq := by assumption) (e_streams : E .streams := by assumption) : ∃ t, execIor q s = .next t ∧ Kept E s0 t := by
  refine ⟨_, rfl, ?_⟩
  repeat' (first
    | (refine fun _ => ?_)
    | (with_reducible first | assumption | apply State.goTiled_kept | apply State.issue_kept)
    | dsimp only)

theorem execIxor_kept (q : Nat) (s : State) (h0 : Kept E s0 s) (e_cmds : E .cmds := by assumption) (e_ctxs : E .ctxs := by assumption) (e_ecc : E .ecc := by assumption) (e_erq : E .erq := by assumption) (e_evseq : E .evseq := by assumption) (e_folded : E .folded := by assumption) (e_fwLog : E .fwLog := by assumption) (e_mem : E .mem := by assumption) (e_msixs : E .msixs := by assumption) (e_out : E .out := by assumption) (e_regs : E .regs := by assumption) (e_rseq : E .rseq := by assumption) (e_streams : E .streams := by assumption) : ∃ t, execIxor q s = .next t ∧ Kept E s0 t := by
  refine ⟨_, rfl, ?_⟩
  repeat' (first
    | (refine fun _ => ?_)
    | (with_reducible first | assumption | apply State.goTiled_kept | apply State.issue_kept)
    | dsimp only)

theorem execIshl_kept (q : Nat) (s : State) (h0 : Kept E s0 s) (e_cmds : E .cmds := by assumption) (e_ctxs : E .ctxs := by assumption) (e_ecc : E .ecc := by assumption) (e_erq : E .erq := by assumption) (e_evseq : E .evseq := by assumption) (e_folded : E .folded := by assumption) (e_fwLog : E .fwLog := by assumption) (e_mem : E .mem := by assumption) (e_msixs : E .msixs := by assumption) (e_out : E .out := by assumption) (e_regs : E .regs := by assumption) (e_rseq : E .rseq := by assumption) (e_streams : E .streams := by assumption) : ∃ t, execIshl q s = .next t ∧ Kept E s0 t := by
  refine ⟨_, rfl, ?_⟩
  repeat' (first
    | (refine fun _ => ?_)
    | (with_reducible first | assumption | apply State.goTiled_kept | apply State.issue_kept)
    | dsimp only)

theorem execIshr_kept (q : Nat) (s : State) (h0 : Kept E s0 s) (e_cmds : E .cmds := by assumption) (e_ctxs : E .ctxs := by assumption) (e_ecc : E .ecc := by assumption) (e_erq : E .erq := by assumption) (e_evseq : E .evseq := by assumption) (e_folded : E .folded := by assumption) (e_fwLog : E .fwLog := by assumption) (e_mem : E .mem := by assumption) (e_msixs : E .msixs := by assumption) (e_out : E .out := by assumption) (e_regs : E .regs := by assumption) (e_rseq : E .rseq := by assumption) (e_streams : E .streams := by assumption) : ∃ t, execIshr q s = .next t ∧ Kept E s0 t := by
  refine ⟨_, rfl, ?_⟩
  repeat' (first
    | (refine fun _ => ?_)
    | (with_reducible first | assumption | apply State.goTiled_kept | apply State.issue_kept)
    | dsimp only)

theorem execRsum_kept (q : Nat) (s : State) (h0 : Kept E s0 s) (e_cmds : E .cmds := by assumption) (e_ctxs : E .ctxs := by assumption) (e_ecc : E .ecc := by assumption) (e_erq : E .erq := by assumption) (e_evseq : E .evseq := by assumption) (e_folded : E .folded := by assumption) (e_fwLog : E .fwLog := by assumption) (e_mem : E .mem := by assumption) (e_msixs : E .msixs := by assumption) (e_out : E .out := by assumption) (e_regs : E .regs := by assumption) (e_rseq : E .rseq := by assumption) (e_streams : E .streams := by assumption) : ∃ t, execRsum q s = .next t ∧ Kept E s0 t := by
  refine ⟨_, rfl, ?_⟩
  repeat' (first
    | (refine fun _ => ?_)
    | (with_reducible first | assumption | apply State.goTiled_kept | apply State.issue_kept)
    | dsimp only)

theorem execRmax_kept (q : Nat) (s : State) (h0 : Kept E s0 s) (e_cmds : E .cmds := by assumption) (e_ctxs : E .ctxs := by assumption) (e_ecc : E .ecc := by assumption) (e_erq : E .erq := by assumption) (e_evseq : E .evseq := by assumption) (e_folded : E .folded := by assumption) (e_fwLog : E .fwLog := by assumption) (e_mem : E .mem := by assumption) (e_msixs : E .msixs := by assumption) (e_out : E .out := by assumption) (e_regs : E .regs := by assumption) (e_rseq : E .rseq := by assumption) (e_streams : E .streams := by assumption) : ∃ t, execRmax q s = .next t ∧ Kept E s0 t := by
  refine ⟨_, rfl, ?_⟩
  repeat' (first
    | (refine fun _ => ?_)
    | (with_reducible first | assumption | apply State.goTiled_kept | apply State.issue_kept)
    | dsimp only)

theorem execRmin_kept (q : Nat) (s : State) (h0 : Kept E s0 s) (e_cmds : E .cmds := by assumption) (e_ctxs : E .ctxs := by assumption) (e_ecc : E .ecc := by assumption) (e_erq : E .erq := by assumption) (e_evseq : E .evseq := by assumption) (e_folded : E .folded := by assumption) (e_fwLog : E .fwLog := by assumption) (e_mem : E .mem := by assumption) (e_msixs : E .msixs := by assumption) (e_out : E .out := by assumption) (e_regs : E .regs := by assumption) (e_rseq : E .rseq := by assumption) (e_streams : E .streams := by assumption) : ∃ t, execRmin q s = .next t ∧ Kept E s0 t := by
  refine ⟨_, rfl, ?_⟩
  repeat' (first
    | (refine fun _ => ?_)
    | (with_reducible first | assumption | apply State.goTiled_kept | apply State.issue_kept)
    | dsimp only)

theorem execArgmax_kept (q : Nat) (s : State) (h0 : Kept E s0 s) (e_cmds : E .cmds := by assumption) (e_ctxs : E .ctxs := by assumption) (e_ecc : E .ecc := by assumption) (e_erq : E .erq := by assumption) (e_evseq : E .evseq := by assumption) (e_folded : E .folded := by assumption) (e_fwLog : E .fwLog := by assumption) (e_mem : E .mem := by assumption) (e_msixs : E .msixs := by assumption) (e_out : E .out := by assumption) (e_regs : E .regs := by assumption) (e_rseq : E .rseq := by assumption) (e_streams : E .streams := by assumption) : ∃ t, execArgmax q s = .next t ∧ Kept E s0 t := by
  refine ⟨_, rfl, ?_⟩
  repeat' (first
    | (refine fun _ => ?_)
    | (with_reducible first | assumption | apply State.goTiled_kept | apply State.issue_kept)
    | dsimp only)

theorem execArgmin_kept (q : Nat) (s : State) (h0 : Kept E s0 s) (e_cmds : E .cmds := by assumption) (e_ctxs : E .ctxs := by assumption) (e_ecc : E .ecc := by assumption) (e_erq : E .erq := by assumption) (e_evseq : E .evseq := by assumption) (e_folded : E .folded := by assumption) (e_fwLog : E .fwLog := by assumption) (e_mem : E .mem := by assumption) (e_msixs : E .msixs := by assumption) (e_out : E .out := by assumption) (e_regs : E .regs := by assumption) (e_rseq : E .rseq := by assumption) (e_streams : E .streams := by assumption) : ∃ t, execArgmin q s = .next t ∧ Kept E s0 t := by
  refine ⟨_, rfl, ?_⟩
  repeat' (first
    | (refine fun _ => ?_)
    | (with_reducible first | assumption | apply State.goTiled_kept | apply State.issue_kept)
    | dsimp only)

theorem execIscan_kept (q : Nat) (s : State) (h0 : Kept E s0 s) (e_cmds : E .cmds := by assumption) (e_ctxs : E .ctxs := by assumption) (e_ecc : E .ecc := by assumption) (e_erq : E .erq := by assumption) (e_evseq : E .evseq := by assumption) (e_folded : E .folded := by assumption) (e_fwLog : E .fwLog := by assumption) (e_mem : E .mem := by assumption) (e_msixs : E .msixs := by assumption) (e_out : E .out := by assumption) (e_regs : E .regs := by assumption) (e_rseq : E .rseq := by assumption) (e_streams : E .streams := by assumption) : ∃ t, execIscan q s = .next t ∧ Kept E s0 t := by
  refine ⟨_, rfl, ?_⟩
  repeat' (first
    | (refine fun _ => ?_)
    | (with_reducible first | assumption | apply State.goTiled_kept | apply State.issue_kept)
    | dsimp only)

theorem execSfpRun_kept (q : Nat) (s : State) (h0 : Kept E s0 s) (e_cmds : E .cmds := by assumption) (e_ctxs : E .ctxs := by assumption) (e_ecc : E .ecc := by assumption) (e_erq : E .erq := by assumption) (e_evseq : E .evseq := by assumption) (e_folded : E .folded := by assumption) (e_fwLog : E .fwLog := by assumption) (e_mem : E .mem := by assumption) (e_msixs : E .msixs := by assumption) (e_out : E .out := by assumption) (e_regs : E .regs := by assumption) (e_rseq : E .rseq := by assumption) (e_streams : E .streams := by assumption) : ∃ t, execSfpRun q s = .next t ∧ Kept E s0 t := by
  refine ⟨_, rfl, ?_⟩
  repeat' (first
    | (refine fun _ => ?_)
    | (with_reducible first | assumption | apply State.goTiled_kept | apply State.issue_kept)
    | dsimp only)

theorem execSfpLoad_kept (q : Nat) (s : State) (h0 : Kept E s0 s) (e_cmds : E .cmds := by assumption) (e_ctxs : E .ctxs := by assumption) (e_ecc : E .ecc := by assumption) (e_erq : E .erq := by assumption) (e_evseq : E .evseq := by assumption) (e_folded : E .folded := by assumption) (e_fwLog : E .fwLog := by assumption) (e_mem : E .mem := by assumption) (e_msixs : E .msixs := by assumption) (e_out : E .out := by assumption) (e_regs : E .regs := by assumption) (e_rseq : E .rseq := by assumption) (e_streams : E .streams := by assumption) : ∃ t, execSfpLoad q s = .next t ∧ Kept E s0 t := by
  refine ⟨_, rfl, ?_⟩
  repeat' (first
    | (refine fun _ => ?_)
    | (with_reducible first | assumption | apply State.goTiled_kept | apply State.issue_kept)
    | dsimp only)

theorem execMove_kept (q : Nat) (s : State) (h0 : Kept E s0 s) (e_cmds : E .cmds := by assumption) (e_ctxs : E .ctxs := by assumption) (e_ecc : E .ecc := by assumption) (e_erq : E .erq := by assumption) (e_evseq : E .evseq := by assumption) (e_folded : E .folded := by assumption) (e_fwLog : E .fwLog := by assumption) (e_mem : E .mem := by assumption) (e_msixs : E .msixs := by assumption) (e_out : E .out := by assumption) (e_regs : E .regs := by assumption) (e_rseq : E .rseq := by assumption) (e_streams : E .streams := by assumption) : ∃ t, execMove q s = .next t ∧ Kept E s0 t := by
  refine ⟨_, rfl, ?_⟩
  repeat' (first
    | (refine fun _ => ?_)
    | (with_reducible first | assumption | apply State.goTiled_kept | apply State.issue_kept)
    | dsimp only)

theorem execGather_kept (q : Nat) (s : State) (h0 : Kept E s0 s) (e_cmds : E .cmds := by assumption) (e_ctxs : E .ctxs := by assumption) (e_ecc : E .ecc := by assumption) (e_erq : E .erq := by assumption) (e_evseq : E .evseq := by assumption) (e_folded : E .folded := by assumption) (e_fwLog : E .fwLog := by assumption) (e_mem : E .mem := by assumption) (e_msixs : E .msixs := by assumption) (e_out : E .out := by assumption) (e_regs : E .regs := by assumption) (e_rseq : E .rseq := by assumption) (e_streams : E .streams := by assumption) : ∃ t, execGather q s = .next t ∧ Kept E s0 t := by
  refine ⟨_, rfl, ?_⟩
  repeat' (first
    | (refine fun _ => ?_)
    | (with_reducible first | assumption | apply State.goTiled_kept | apply State.issue_kept)
    | dsimp only)

theorem execScatter_kept (q : Nat) (s : State) (h0 : Kept E s0 s) (e_cmds : E .cmds := by assumption) (e_ctxs : E .ctxs := by assumption) (e_ecc : E .ecc := by assumption) (e_erq : E .erq := by assumption) (e_evseq : E .evseq := by assumption) (e_folded : E .folded := by assumption) (e_fwLog : E .fwLog := by assumption) (e_mem : E .mem := by assumption) (e_msixs : E .msixs := by assumption) (e_out : E .out := by assumption) (e_regs : E .regs := by assumption) (e_rseq : E .rseq := by assumption) (e_streams : E .streams := by assumption) : ∃ t, execScatter q s = .next t ∧ Kept E s0 t := by
  refine ⟨_, rfl, ?_⟩
  repeat' (first
    | (refine fun _ => ?_)
    | (with_reducible first | assumption | apply State.goTiled_kept | apply State.issue_kept)
    | dsimp only)

theorem execCroprs_kept (q : Nat) (s : State) (h0 : Kept E s0 s) (e_cmds : E .cmds := by assumption) (e_ctxs : E .ctxs := by assumption) (e_ecc : E .ecc := by assumption) (e_erq : E .erq := by assumption) (e_evseq : E .evseq := by assumption) (e_folded : E .folded := by assumption) (e_fwLog : E .fwLog := by assumption) (e_mem : E .mem := by assumption) (e_msixs : E .msixs := by assumption) (e_out : E .out := by assumption) (e_regs : E .regs := by assumption) (e_rseq : E .rseq := by assumption) (e_streams : E .streams := by assumption) : ∃ t, execCroprs q s = .next t ∧ Kept E s0 t := by
  refine ⟨_, rfl, ?_⟩
  repeat' (first
    | (refine fun _ => ?_)
    | (with_reducible first | assumption | apply State.goTiled_kept | apply State.issue_kept)
    | dsimp only)

theorem execRngfill_kept (q : Nat) (s : State) (h0 : Kept E s0 s) (e_cmds : E .cmds := by assumption) (e_ctxs : E .ctxs := by assumption) (e_ecc : E .ecc := by assumption) (e_erq : E .erq := by assumption) (e_evseq : E .evseq := by assumption) (e_folded : E .folded := by assumption) (e_fwLog : E .fwLog := by assumption) (e_mem : E .mem := by assumption) (e_msixs : E .msixs := by assumption) (e_out : E .out := by assumption) (e_regs : E .regs := by assumption) (e_rseq : E .rseq := by assumption) (e_streams : E .streams := by assumption) : ∃ t, execRngfill q s = .next t ∧ Kept E s0 t := by
  refine ⟨_, rfl, ?_⟩
  repeat' (first
    | (refine fun _ => ?_)
    | (with_reducible first | assumption | apply State.goTiled_kept | apply State.issue_kept)
    | dsimp only)

theorem execSample_kept (q : Nat) (s : State) (h0 : Kept E s0 s) (e_cmds : E .cmds := by assumption) (e_ctxs : E .ctxs := by assumption) (e_ecc : E .ecc := by assumption) (e_erq : E .erq := by assumption) (e_evseq : E .evseq := by assumption) (e_folded : E .folded := by assumption) (e_fwLog : E .fwLog := by assumption) (e_mem : E .mem := by assumption) (e_msixs : E .msixs := by assumption) (e_out : E .out := by assumption) (e_regs : E .regs := by assumption) (e_rseq : E .rseq := by assumption) (e_streams : E .streams := by assumption) : ∃ t, execSample q s = .next t ∧ Kept E s0 t := by
  refine ⟨_, rfl, ?_⟩
  repeat' (first
    | (refine fun _ => ?_)
    | (with_reducible first | assumption | apply State.goTiled_kept | apply State.issue_kept)
    | dsimp only)

end Sys2Proof.Machine
end

