-- ==== Sys2Proof/Laws/KeptHostif.lean ====
section
/-!
SUPPORT. Laws/KeptHostif.lean: the operations of Machine/Hostif.lean change neither the queue nor the canonical forms.
-/
namespace Sys2Proof.Machine

set_option Elab.async false
set_option linter.all false

variable {E : Comp → Prop} {s0 : State}

theorem State.fetchFail_kept (s : State) (q : Nat) (h0 : Kept E s0 s) (e_ctxs : E .ctxs := by assumption) (e_ecc : E .ecc := by assumption) (e_erq : E .erq := by assumption) (e_folded : E .folded := by assumption) (e_fwLog : E .fwLog := by assumption) (e_mem : E .mem := by assumption) (e_msixs : E .msixs := by assumption) (e_nextCmd : E .nextCmd := by assumption) (e_out : E .out := by assumption) (e_queues : E .queues := by assumption) (e_regs : E .regs := by assumption) (e_rseq : E .rseq := by assumption) : Kept E s0 (State.fetchFail s q) := by
  delta State.fetchFail
  repeat' (first
    | (with_reducible first | assumption | apply State.faultCtx_kept | apply State.oweRecord_kept | apply State.record_kept | apply State.setF_kept)
    | simp only [kept_nextCmd e_nextCmd]
    | (extract_lets +onlyGivenNames z
       first
         | (refine (show Kept E s0 z → _ from fun hz => ?_) ?_; clear_value z; rotate_left; dsimp only [z]; rotate_left)
         | clear_value z)
    | dsimp only)

theorem execCommandFetch_kept (q : Nat) (bytes : List Byte) (s : State) (h0 : Kept E s0 s) (e_cmds : E .cmds := by assumption) (e_ctxs : E .ctxs := by assumption) (e_ecc : E .ecc := by assumption) (e_erq : E .erq := by assumption) (e_folded : E .folded := by assumption) (e_fwLog : E .fwLog := by assumption) (e_mem : E .mem := by assumption) (e_msixs : E .msixs := by assumption) (e_nextCmd : E .nextCmd := by assumption) (e_out : E .out := by assumption) (e_queues : E .queues := by assumption) (e_regs : E .regs := by assumption) (e_rseq : E .rseq := by assumption) (e_streams : E .streams := by assumption) : ∃ t, execCommandFetch q bytes s = .next t ∧ Kept E s0 t := by
  refine ⟨_, rfl, ?_⟩
  repeat' (first
    | (refine fun _ => ?_)
    | (with_reducible first | assumption | apply State.fetchFail_kept | apply State.latchWaits_kept | apply State.readWords_kept | apply State.setF_kept | apply kept_ite)
    | simp only [kept_next_cmds e_nextCmd e_cmds]
    | simp only [kept_cmds e_cmds, kept_nextCmd e_nextCmd]
    | (extract_lets +onlyGivenNames z
       first
         | (refine (show Kept E s0 z → _ from fun hz => ?_) ?_; clear_value z; rotate_left; dsimp only [z]; rotate_left)
         | clear_value z)
    | split
    | dsimp only)

theorem execQfetchFailure_kept (q : Nat) (s : State) (h0 : Kept E s0 s) (e_ctxs : E .ctxs := by assumption) (e_ecc : E .ecc := by assumption) (e_erq : E .erq := by assumption) (e_folded : E .folded := by assumption) (e_fwLog : E .fwLog := by assumption) (e_mem : E .mem := by assumption) (e_msixs : E .msixs := by assumption) (e_nextCmd : E .nextCmd := by assumption) (e_out : E .out := by assumption) (e_queues : E .queues := by assumption) (e_regs : E .regs := by assumption) (e_rseq : E .rseq := by assumption) : ∃ t, execQfetchFailure q s = .next t ∧ Kept E s0 t := by
  refine ⟨_, rfl, ?_⟩
  repeat' (first
    | (refine fun _ => ?_)
    | (with_reducible first | assumption | apply State.fetchFail_kept | apply kept_ite)
    | split
    | dsimp only)

theorem State.qOp_kept (s : State) (fn q status : Nat) (h0 : Kept E s0 s) (e_msixs : E .msixs := by assumption) (e_out : E .out := by assumption) (e_regs : E .regs := by assumption) : Kept E s0 (State.qOp s fn q status) := by
  delta State.qOp
  repeat' (first
    | (with_reducible first | assumption | apply State.raiseEvt_kept | apply State.setF_kept)
    | dsimp only)

theorem State.makeQueue_kept (s : State) (fn q : Nat) (h0 : Kept E s0 s) (e_queues : E .queues := by assumption) (e_regs : E .regs := by assumption) : Kept E s0 (State.makeQueue s fn q) := by
  delta State.makeQueue
  repeat' (first
    | (refine fun _ => ?_)
    | (with_reducible first | assumption | apply State.setF_kept | apply State.setQueue_kept | apply kept_foldl)
    | (extract_lets +onlyGivenNames z
       first
         | (refine (show Kept E s0 z → _ from fun hz => ?_) ?_; clear_value z; rotate_left; dsimp only [z]; rotate_left)
         | clear_value z)
    | dsimp only)

theorem State.qCmd_kept (s : State) (acr : Acr) (set : Nat) (k : Nat → State) (h0 : Kept E s0 s) (h1 : ∀ t, Kept E s0 (k t)) (e_msixs : E .msixs := by assumption) (e_out : E .out := by assumption) (e_regs : E .regs := by assumption) : Kept E s0 (State.qCmd s acr set k) := by
  delta State.qCmd
  repeat' (first
    | (with_reducible first | assumption | apply State.refuseAcc_kept | apply State.setF_kept | apply kept_ite | apply h1)
    | (extract_lets +onlyGivenNames z
       first
         | (refine (show Kept E s0 z → _ from fun hz => ?_) ?_; clear_value z; rotate_left; dsimp only [z]; rotate_left)
         | clear_value z)
    | split
    | dsimp only)

theorem execQueueCreate_kept (acr : Acr) (set v : Nat) (s : State) (h0 : Kept E s0 s) (e_msixs : E .msixs := by assumption) (e_out : E .out := by assumption) (e_queues : E .queues := by assumption) (e_regs : E .regs := by assumption) : ∃ t, execQueueCreate acr set v s = .next t ∧ Kept E s0 t := by
  refine ⟨_, rfl, ?_⟩
  repeat' (first
    | (refine fun _ => ?_)
    | (with_reducible first | assumption | apply State.makeQueue_kept | apply State.qCmd_kept | apply State.qOp_kept | apply kept_ite)
    | (extract_lets +onlyGivenNames z
       first
         | (refine (show Kept E s0 z → _ from fun hz => ?_) ?_; clear_value z; rotate_left; dsimp only [z]; rotate_left)
         | clear_value z)
    | split
    | dsimp only)

theorem execQueueDestroy_kept (acr : Acr) (set v : Nat) (s : State) (h0 : Kept E s0 s) (e_msixs : E .msixs := by assumption) (e_out : E .out := by assumption) (e_queues : E .queues := by assumption) (e_regs : E .regs := by assumption) : ∃ t, execQueueDestroy acr set v s = .next t ∧ Kept E s0 t := by
  refine ⟨_, rfl, ?_⟩
  repeat' (first
    | (refine fun _ => ?_)
    | (with_reducible first | assumption | apply State.qCmd_kept | apply State.qOp_kept | apply State.setF_kept | apply State.setQueue_kept | apply kept_ite)
    | (extract_lets +onlyGivenNames z
       first
         | (refine (show Kept E s0 z → _ from fun hz => ?_) ?_; clear_value z; rotate_left; dsimp only [z]; rotate_left)
         | clear_value z)
    | split
    | dsimp only)

theorem State.qErr_kept (s : State) (q : Nat) (h0 : Kept E s0 s) (e_msixs : E .msixs := by assumption) (e_out : E .out := by assumption) (e_regs : E .regs := by assumption) : Kept E s0 (State.qErr s q) := by
  delta State.qErr
  repeat' (first
    | (with_reducible first | assumption | apply State.raiseEvt_kept | apply State.setF_kept | apply kept_ite)
    | (extract_lets +onlyGivenNames z
       first
         | (refine (show Kept E s0 z → _ from fun hz => ?_) ?_; clear_value z; rotate_left; dsimp only [z]; rotate_left)
         | clear_value z)
    | split
    | dsimp only)

theorem execPciSqdb_kept (fn q v : Nat) (s : State) (h0 : Kept E s0 s) (e_msixs : E .msixs := by assumption) (e_out : E .out := by assumption) (e_queues : E .queues := by assumption) (e_regs : E .regs := by assumption) : ∃ t, execPciSqdb fn q v s = .next t ∧ Kept E s0 t := by
  refine ⟨_, rfl, ?_⟩
  repeat' (first
    | (refine fun _ => ?_)
    | (with_reducible first | assumption | apply State.qErr_kept | apply State.setQueue_kept | apply kept_ite)
    | (extract_lets +onlyGivenNames z
       first
         | (refine (show Kept E s0 z → _ from fun hz => ?_) ?_; clear_value z; rotate_left; dsimp only [z]; rotate_left)
         | clear_value z)
    | split
    | dsimp only)

theorem execPciCqdb_kept (fn q v : Nat) (s : State) (h0 : Kept E s0 s) (e_msixs : E .msixs := by assumption) (e_out : E .out := by assumption) (e_queues : E .queues := by assumption) (e_regs : E .regs := by assumption) : ∃ t, execPciCqdb fn q v s = .next t ∧ Kept E s0 t := by
  refine ⟨_, rfl, ?_⟩
  repeat' (first
    | (refine fun _ => ?_)
    | (with_reducible first | assumption | apply State.qErr_kept | apply State.setQueue_kept | apply kept_ite)
    | (extract_lets +onlyGivenNames z
       first
         | (refine (show Kept E s0 z → _ from fun hz => ?_) ?_; clear_value z; rotate_left; dsimp only [z]; rotate_left)
         | clear_value z)
    | split
    | dsimp only)

theorem State.setStream_kept (s : State) (n : Nat) (v : Stream) (h0 : Kept E s0 s) (e_streams : E .streams := by assumption) : Kept E s0 (State.setStream s n v) := by
  exact kept_streams _ h0 (rises_tset _ _)

theorem State.streamMsg_kept (s : State) (n : Nat) (h0 : Kept E s0 s) (e_msixs : E .msixs := by assumption) (e_out : E .out := by assumption) (e_streams : E .streams := by assumption) : Kept E s0 (State.streamMsg s n) := by
  delta State.streamMsg
  repeat' (first
    | (with_reducible first | assumption | apply State.sendMsix_kept | apply State.setStream_kept)
    | (extract_lets +onlyGivenNames z
       first
         | (refine (show Kept E s0 z → _ from fun hz => ?_) ?_; clear_value z; rotate_left; dsimp only [z]; rotate_left)
         | clear_value z)
    | dsimp only)

theorem execInterruptModerationTimer_kept (isStream : Bool) (n : Nat) (s : State) (h0 : Kept E s0 s) (e_msixs : E .msixs := by assumption) (e_out : E .out := by assumption) (e_queues : E .queues := by assumption) (e_streams : E .streams := by assumption) : ∃ t, execInterruptModerationTimer isStream n s = .next t ∧ Kept E s0 t := by
  refine ⟨_, rfl, ?_⟩
  repeat' (first
    | (refine fun _ => ?_)
    | (with_reducible first | assumption | apply State.queueMsg_kept | apply State.streamMsg_kept | apply kept_ite)
    | (extract_lets +onlyGivenNames z
       first
         | (refine (show Kept E s0 z → _ from fun hz => ?_) ?_; clear_value z; rotate_left; dsimp only [z]; rotate_left)
         | clear_value z)
    | split
    | dsimp only)

theorem State.apertureRefuse_kept (s : State) (fn a : Nat) (h0 : Kept E s0 s) (e_erq : E .erq := by assumption) (e_folded : E .folded := by assumption) (e_fwLog : E .fwLog := by assumption) (e_msixs : E .msixs := by assumption) (e_out : E .out := by assumption) (e_regs : E .regs := by assumption) (e_rseq : E .rseq := by assumption) : Kept E s0 (State.apertureRefuse s fn a) := by
  delta State.apertureRefuse
  repeat' (first
    | (with_reducible first | assumption | apply State.raiseEvt_kept | apply State.record_kept)
    | dsimp only)

theorem execApertureRead_kept (fn addr len : Nat) (s : State) (h0 : Kept E s0 s) (e_ecc : E .ecc := by assumption) (e_erq : E .erq := by assumption) (e_folded : E .folded := by assumption) (e_fwLog : E .fwLog := by assumption) (e_mem : E .mem := by assumption) (e_msixs : E .msixs := by assumption) (e_out : E .out := by assumption) (e_regs : E .regs := by assumption) (e_rseq : E .rseq := by assumption) : ∃ t, execApertureRead fn addr len s = .next t ∧ Kept E s0 t := by
  refine ⟨_, rfl, ?_⟩
  repeat' (first
    | (refine fun _ => ?_)
    | (with_reducible first | assumption | apply State.apertureRefuse_kept | apply State.emit_kept | apply State.readWord_kept | apply kept_ite | apply kept_foldl)
    | (extract_lets +onlyGivenNames z
       first
         | (refine (show Kept E s0 z → _ from fun hz => ?_) ?_; clear_value z; rotate_left; dsimp only [z]; rotate_left)
         | clear_value z)
    | split
    | dsimp only)

theorem execApertureWrite_kept (fn addr : Nat) (bytes : List Byte) (poisoned : Bool) (s : State) (h0 : Kept E s0 s) (e_ecc : E .ecc := by assumption) (e_erq : E .erq := by assumption) (e_folded : E .folded := by assumption) (e_fresh : E .fresh := by assumption) (e_fwLog : E .fwLog := by assumption) (e_mem : E .mem := by assumption) (e_msixs : E .msixs := by assumption) (e_out : E .out := by assumption) (e_regs : E .regs := by assumption) (e_rseq : E .rseq := by assumption) : ∃ t, execApertureWrite fn addr bytes poisoned s = .next t ∧ Kept E s0 t := by
  refine ⟨_, rfl, ?_⟩
  repeat' (first
    | (refine fun _ => ?_)
    | (with_reducible first | assumption | apply State.apertureRefuse_kept | apply State.poisonBytes_kept | apply State.writeBytes_kept | apply kept_ite)
    | split
    | dsimp only)

theorem execPcieLaneFail_kept (lane width : Nat) (s : State) (h0 : Kept E s0 s) (e_erq : E .erq := by assumption) (e_folded : E .folded := by assumption) (e_fwLog : E .fwLog := by assumption) (e_msixs : E .msixs := by assumption) (e_out : E .out := by assumption) (e_pcieLanes : E .pcieLanes := by assumption) (e_regs : E .regs := by assumption) (e_rseq : E .rseq := by assumption) : ∃ t, execPcieLaneFail lane width s = .next t ∧ Kept E s0 t := by
  refine ⟨_, rfl, ?_⟩
  repeat' (first
    | (refine fun _ => ?_)
    | (with_reducible first | assumption | apply State.record_kept | apply kept_ite)
    | simp only [kept_pcieLanes e_pcieLanes]
    | split
    | dsimp only)

end Sys2Proof.Machine
end

