-- ==== Sys2Proof/Laws/KeptSites.lean ====
section
/-!
SUPPORT. Laws/KeptSites.lean: the operations of Machine/Sites.lean change neither the queue nor the canonical forms.
-/
namespace Sys2Proof.Machine

set_option Elab.async false
set_option linter.all false

variable {E : Comp → Prop} {s0 : State}

theorem execSiteRead_kept (w : Nat) (s : State) (h0 : Kept E s0 s) (e_ecc : E .ecc := by assumption) (e_erq : E .erq := by assumption) (e_folded : E .folded := by assumption) (e_fwLog : E .fwLog := by assumption) (e_mem : E .mem := by assumption) (e_msixs : E .msixs := by assumption) (e_out : E .out := by assumption) (e_regs : E .regs := by assumption) (e_rseq : E .rseq := by assumption) : ∃ t, execSiteRead w s = .next t ∧ Kept E s0 t := by
  refine ⟨_, rfl, ?_⟩
  repeat' (first
    | (refine fun _ => ?_)
    | (with_reducible first | assumption | apply State.emit_kept | apply State.readWord_kept | apply kept_ite)
    | (extract_lets +onlyGivenNames z
       first
         | (refine (show Kept E s0 z → _ from fun hz => ?_) ?_; clear_value z; rotate_left; dsimp only [z]; rotate_left)
         | clear_value z)
    | split
    | dsimp only)

theorem execSiteWrite_kept (w : Nat) (bytes : List Byte) (s : State) (h0 : Kept E s0 s) (e_ecc : E .ecc := by assumption) (e_erq : E .erq := by assumption) (e_folded : E .folded := by assumption) (e_fwLog : E .fwLog := by assumption) (e_mem : E .mem := by assumption) (e_msixs : E .msixs := by assumption) (e_out : E .out := by assumption) (e_regs : E .regs := by assumption) (e_rseq : E .rseq := by assumption) : ∃ t, execSiteWrite w bytes s = .next t ∧ Kept E s0 t := by
  refine ⟨_, rfl, ?_⟩
  repeat' (first
    | (refine fun _ => ?_)
    | (with_reducible first | assumption | apply State.writeWord_kept | apply kept_ite)
    | split
    | dsimp only)

theorem State.putMasked_kept (s : State) (a mask : Nat) (bytes : List Byte) (h0 : Kept E s0 s) (e_mem : E .mem := by assumption) : Kept E s0 (State.putMasked s a mask bytes) := by
  delta State.putMasked
  repeat' (first
    | (refine fun _ => ?_)
    | (with_reducible first | assumption | apply State.putByte_kept | apply kept_ite | apply kept_foldl)
    | split
    | dsimp only)

theorem execSitePartialWrite_kept (w mask : Nat) (bytes : List Byte) (s : State) (h0 : Kept E s0 s) (e_ecc : E .ecc := by assumption) (e_erq : E .erq := by assumption) (e_folded : E .folded := by assumption) (e_fwLog : E .fwLog := by assumption) (e_mem : E .mem := by assumption) (e_msixs : E .msixs := by assumption) (e_out : E .out := by assumption) (e_regs : E .regs := by assumption) (e_rseq : E .rseq := by assumption) : ∃ t, execSitePartialWrite w mask bytes s = .next t ∧ Kept E s0 t := by
  refine ⟨_, rfl, ?_⟩
  repeat' (first
    | (refine fun _ => ?_)
    | (with_reducible first | assumption | apply State.bump_kept | apply State.decodeWord_kept | apply State.putMasked_kept | apply State.writeWord_kept | apply kept_ite)
    | (extract_lets +onlyGivenNames z
       first
         | (refine (show Kept E s0 z → _ from fun hz => ?_) ?_; clear_value z; rotate_left; dsimp only [z]; rotate_left)
         | clear_value z)
    | split
    | dsimp only)

theorem execPoisonWrite_kept (addr len : Nat) (s : State) (h0 : Kept E s0 s) (e_ecc : E .ecc := by assumption) (e_erq : E .erq := by assumption) (e_folded : E .folded := by assumption) (e_fresh : E .fresh := by assumption) (e_fwLog : E .fwLog := by assumption) (e_mem : E .mem := by assumption) (e_msixs : E .msixs := by assumption) (e_out : E .out := by assumption) (e_regs : E .regs := by assumption) (e_rseq : E .rseq := by assumption) : ∃ t, execPoisonWrite addr len s = .next t ∧ Kept E s0 t := by
  refine ⟨_, rfl, ?_⟩
  repeat' (first
    | (refine fun _ => ?_)
    | (with_reducible first | assumption | apply State.poisonBytes_kept | apply kept_ite)
    | split
    | dsimp only)

theorem State.setSite_kept (s : State) (n : Nat) (v : Site) (h0 : Kept E s0 s) (e_sites : E .sites := by assumption) : Kept E s0 (State.setSite s n v) := by
  exact kept_sites _ h0 (rises_tset _ _)

theorem execScrubStep_kept (site : Nat) (s : State) (h0 : Kept E s0 s) (e_ecc : E .ecc := by assumption) (e_erq : E .erq := by assumption) (e_folded : E .folded := by assumption) (e_fwLog : E .fwLog := by assumption) (e_mem : E .mem := by assumption) (e_msixs : E .msixs := by assumption) (e_out : E .out := by assumption) (e_regs : E .regs := by assumption) (e_rseq : E .rseq := by assumption) (e_sites : E .sites := by assumption) : ∃ t, execScrubStep site s = .next t ∧ Kept E s0 t := by
  refine ⟨_, rfl, ?_⟩
  repeat' (first
    | (refine fun _ => ?_)
    | (with_reducible first | assumption | apply State.bumpSat_kept | apply State.decodeWord_kept | apply State.setSite_kept | apply kept_ite)
    | (extract_lets +onlyGivenNames z
       first
         | (refine (show Kept E s0 z → _ from fun hz => ?_) ?_; clear_value z; rotate_left; dsimp only [z]; rotate_left)
         | clear_value z)
    | split
    | dsimp only)

theorem State.memReason_kept (s : State) (h0 : Kept E s0 s) (e_regs : E .regs := by assumption) : Kept E s0 (State.memReason s) := by
  delta State.memReason
  repeat' (first
    | (refine fun _ => ?_)
    | (with_reducible first | assumption | apply State.setF_kept | apply kept_ite)
    | (extract_lets +onlyGivenNames z
       first
         | (refine (show Kept E s0 z → _ from fun hz => ?_) ?_; clear_value z; rotate_left; dsimp only [z]; rotate_left)
         | clear_value z)
    | split
    | dsimp only)

theorem execMr4Poll_kept (site : Nat) (readings : List (Nat × Nat × Bool)) (s : State) (h0 : Kept E s0 s) (e_regs : E .regs := by assumption) (e_sites : E .sites := by assumption) : ∃ t, execMr4Poll site readings s = .next t ∧ Kept E s0 t := by
  refine ⟨_, rfl, ?_⟩
  repeat' (first
    | (refine fun _ => ?_)
    | (with_reducible first | assumption | apply State.memReason_kept | apply State.setF_kept | apply State.setSite_kept | apply kept_ite)
    | (extract_lets +onlyGivenNames z
       first
         | (refine (show Kept E s0 z → _ from fun hz => ?_) ?_; clear_value z; rotate_left; dsimp only [z]; rotate_left)
         | (refine (show Kept E s0 z.1 → _ from fun hz => ?_) ?_; clear_value z; rotate_left; dsimp only [z]; rotate_left)
         | (refine (show Kept E s0 z.2.1 → _ from fun hz => ?_) ?_; clear_value z; rotate_left; dsimp only [z]; rotate_left)
         | (refine (show Kept E s0 z.2.2 → _ from fun hz => ?_) ?_; clear_value z; rotate_left; dsimp only [z]; rotate_left)
         | clear_value z)
    | split
    | dsimp only)

theorem execRefresh_kept (_site : Nat) (s : State) (h0 : Kept E s0 s)  : ∃ t, execRefresh _site s = .next t ∧ Kept E s0 t := by
  exact ⟨s, rfl, h0⟩

theorem State.loseSite_kept (s : State) (n : Nat) (cause : Option Nat) (h0 : Kept E s0 s) (e_erq : E .erq := by assumption) (e_folded : E .folded := by assumption) (e_fwLog : E .fwLog := by assumption) (e_msixs : E .msixs := by assumption) (e_out : E .out := by assumption) (e_regs : E .regs := by assumption) (e_rseq : E .rseq := by assumption) : Kept E s0 (State.loseSite s n cause) := by
  delta State.loseSite
  repeat' (first
    | (with_reducible first | assumption | apply State.record_kept | apply State.setF_kept | apply kept_ite)
    | (extract_lets +onlyGivenNames z
       first
         | (refine (show Kept E s0 z → _ from fun hz => ?_) ?_; clear_value z; rotate_left; dsimp only [z]; rotate_left)
         | clear_value z)
    | split
    | dsimp only)

theorem execSiteLost_kept (site : Nat) (s : State) (h0 : Kept E s0 s) (e_erq : E .erq := by assumption) (e_folded : E .folded := by assumption) (e_fwLog : E .fwLog := by assumption) (e_msixs : E .msixs := by assumption) (e_out : E .out := by assumption) (e_regs : E .regs := by assumption) (e_rseq : E .rseq := by assumption) : ∃ t, execSiteLost site s = .next t ∧ Kept E s0 t := by
  refine ⟨_, rfl, ?_⟩
  repeat' (first
    | (refine fun _ => ?_)
    | (with_reducible first | assumption | apply State.loseSite_kept | apply kept_ite)
    | split
    | dsimp only)

theorem State.clearSite_kept (s : State) (n : Nat) (h0 : Kept E s0 s) (e_ecc : E .ecc := by assumption) (e_mem : E .mem := by assumption) : Kept E s0 (State.clearSite s n) := by
  delta State.clearSite
  repeat' (first
    | (refine fun _ => ?_)
    | (with_reducible first | assumption)
    | exact kept_mem_ecc _ _ (by with_reducible assumption) (twf_tclear _) (twf_tclear _)
    | (extract_lets +onlyGivenNames z
       first
         | (refine (show Kept E s0 z → _ from fun hz => ?_) ?_; clear_value z; rotate_left; dsimp only [z]; rotate_left)
         | clear_value z)
    | dsimp only)

theorem State.memRequest_kept (s : State) (acr : Acr) (v : Nat) (h0 : Kept E s0 s) (e_memOp : E .memOp := by assumption) (e_msixs : E .msixs := by assumption) (e_out : E .out := by assumption) (e_regs : E .regs := by assumption) : Kept E s0 (State.memRequest s acr v) := by
  delta State.memRequest
  repeat' (first
    | (refine fun _ => ?_)
    | (with_reducible first | assumption | apply State.forDevice_kept | apply State.raiseEvt_kept | apply State.setF_kept | apply kept_ite)
    | simp only [kept_memOp e_memOp]
    | (extract_lets +onlyGivenNames z
       first
         | (refine (show Kept E s0 z → _ from fun hz => ?_) ?_; clear_value z; rotate_left; dsimp only [z]; rotate_left)
         | clear_value z)
    | split
    | dsimp only)

theorem execMemClear_kept (acr : Acr) (v : Nat) (s : State) (h0 : Kept E s0 s) (e_memOp : E .memOp := by assumption) (e_msixs : E .msixs := by assumption) (e_out : E .out := by assumption) (e_regs : E .regs := by assumption) : ∃ t, execMemClear acr v s = .next t ∧ Kept E s0 t := by
  refine ⟨_, rfl, ?_⟩
  repeat' (first
    | (refine fun _ => ?_)
    | (with_reducible first | assumption | apply State.memRequest_kept | apply kept_ite)
    | split
    | dsimp only)

theorem execMemMargin_kept (acr : Acr) (v : Nat) (s : State) (h0 : Kept E s0 s) (e_memOp : E .memOp := by assumption) (e_msixs : E .msixs := by assumption) (e_out : E .out := by assumption) (e_regs : E .regs := by assumption) : ∃ t, execMemMargin acr v s = .next t ∧ Kept E s0 t := by
  refine ⟨_, rfl, ?_⟩
  repeat' (first
    | (refine fun _ => ?_)
    | (with_reducible first | assumption | apply State.memRequest_kept | apply kept_ite)
    | split
    | dsimp only)

theorem State.putMargins_kept (s : State) (edges : List (Int × Int)) (h0 : Kept E s0 s) (e_regs : E .regs := by assumption) : Kept E s0 (State.putMargins s edges) := by
  delta State.putMargins
  repeat' (first
    | (refine fun _ => ?_)
    | (with_reducible first | assumption | apply State.setF_kept | apply kept_foldl)
    | (extract_lets +onlyGivenNames z
       first
         | (refine (show Kept E s0 z → _ from fun hz => ?_) ?_; clear_value z; rotate_left; dsimp only [z]; rotate_left)
         | (refine (show Kept E s0 z.1 → _ from fun hz => ?_) ?_; clear_value z; rotate_left; dsimp only [z]; rotate_left)
         | (refine (show Kept E s0 z.2.1 → _ from fun hz => ?_) ?_; clear_value z; rotate_left; dsimp only [z]; rotate_left)
         | (refine (show Kept E s0 z.2.2 → _ from fun hz => ?_) ?_; clear_value z; rotate_left; dsimp only [z]; rotate_left)
         | clear_value z)
    | dsimp only)

theorem execMemOpComplete_kept (edges : List (Int × Int)) (s : State) (h0 : Kept E s0 s) (e_ecc : E .ecc := by assumption) (e_mem : E .mem := by assumption) (e_memOp : E .memOp := by assumption) (e_msixs : E .msixs := by assumption) (e_out : E .out := by assumption) (e_regs : E .regs := by assumption) (e_sites : E .sites := by assumption) : ∃ t, execMemOpComplete edges s = .next t ∧ Kept E s0 t := by
  refine ⟨_, rfl, ?_⟩
  repeat' (first
    | (refine fun _ => ?_)
    | (with_reducible first | assumption | apply State.clearSite_kept | apply State.emit_kept | apply State.putMargins_kept | apply State.raiseEvt_kept | apply State.setF_kept | apply State.setSite_kept | apply kept_ite)
    | simp only [kept_memOp e_memOp]
    | (extract_lets +onlyGivenNames z
       first
         | (refine (show Kept E s0 z → _ from fun hz => ?_) ?_; clear_value z; rotate_left; dsimp only [z]; rotate_left)
         | clear_value z)
    | split
    | dsimp only)

end Sys2Proof.Machine
end

