-- ==== Sys2Proof/Laws/KeptFaults.lean ====
section
/-!
SUPPORT. Laws/KeptFaults.lean: the operations of Machine/Faults.lean change neither the queue nor the canonical forms.
-/
namespace Sys2Proof.Machine

set_option Elab.async false
set_option linter.all false

variable {E : Comp → Prop} {s0 : State}

theorem State.openHandling_kept (s : State) (h0 : Kept E s0 s) (e_handling : E .handling := by assumption) : Kept E s0 (State.openHandling s) := by
  delta State.openHandling
  repeat' (first
    | (with_reducible first | assumption)
    | simp only [kept_handling e_handling]
    | dsimp only)

theorem State.hwFail_kept (s : State) (c : Cmd) (cl addr : Nat) (h0 : Kept E s0 s) (e_cmds : E .cmds := by assumption) (e_ctxs : E .ctxs := by assumption) (e_ecc : E .ecc := by assumption) (e_erq : E .erq := by assumption) (e_folded : E .folded := by assumption) (e_fresh : E .fresh := by assumption) (e_fwLog : E .fwLog := by assumption) (e_handling : E .handling := by assumption) (e_mem : E .mem := by assumption) (e_msixs : E .msixs := by assumption) (e_out : E .out := by assumption) (e_regs : E .regs := by assumption) (e_rseq : E .rseq := by assumption) : Kept E s0 (State.hwFail s c cl addr) := by
  delta State.hwFail
  repeat' (first
    | (with_reducible first | assumption | apply State.failPart_kept | apply State.openHandling_kept | apply State.reportPart_kept | apply State.setCmd_kept | apply State.settle_kept)
    | (extract_lets +onlyGivenNames z
       first
         | (refine (show Kept E s0 z → _ from fun hz => ?_) ?_; clear_value z; rotate_left; dsimp only [z]; rotate_left)
         | (refine (show Kept E s0 z.1 → _ from fun hz => ?_) ?_; clear_value z; rotate_left; dsimp only [z]; rotate_left)
         | (refine (show Kept E s0 z.2.1 → _ from fun hz => ?_) ?_; clear_value z; rotate_left; dsimp only [z]; rotate_left)
         | (refine (show Kept E s0 z.2.2 → _ from fun hz => ?_) ?_; clear_value z; rotate_left; dsimp only [z]; rotate_left)
         | clear_value z)
    | dsimp only)

theorem State.anchorGone_kept (s : State) (c : Cmd) (cause : Option Nat) (h0 : Kept E s0 s) (e_cmds : E .cmds := by assumption) (e_ctxs : E .ctxs := by assumption) (e_ecc : E .ecc := by assumption) (e_erq : E .erq := by assumption) (e_flash : E .flash := by assumption) (e_folded : E .folded := by assumption) (e_fresh : E .fresh := by assumption) (e_fwLog : E .fwLog := by assumption) (e_mem : E .mem := by assumption) (e_msixs : E .msixs := by assumption) (e_out : E .out := by assumption) (e_ports : E .ports := by assumption) (e_regs : E .regs := by assumption) (e_rseq : E .rseq := by assumption) : Kept E s0 (State.anchorGone s c cause) := by
  delta State.anchorGone
  repeat' (first
    | (refine fun _ => ?_)
    | (with_reducible first | assumption | apply State.failAll_kept | apply State.faultCtx_kept | apply State.poisonBytes_kept | apply State.setCmd_kept | apply State.stopEngines_kept | apply kept_ite | apply kept_foldl)
    | (extract_lets +onlyGivenNames z
       first
         | (refine (show Kept E s0 z → _ from fun hz => ?_) ?_; clear_value z; rotate_left; dsimp only [z]; rotate_left)
         | clear_value z)
    | split
    | dsimp only)

theorem State.refetch_kept (s : State) (x : Nat) (h0 : Kept E s0 s) (e_cmds : E .cmds := by assumption) (e_regs : E .regs := by assumption) : Kept E s0 (State.refetch s x) := by
  delta State.refetch
  repeat' (first
    | (refine fun _ => ?_)
    | (with_reducible first | assumption | apply State.fetched_kept | apply State.setF_kept | apply kept_foldl)
    | simp only [kept_cmds e_cmds]
    | (extract_lets +onlyGivenNames z
       first
         | (refine (show Kept E s0 z → _ from fun hz => ?_) ?_; clear_value z; rotate_left; dsimp only [z]; rotate_left)
         | clear_value z)
    | split
    | dsimp only)

theorem State.retireCluster_kept (s : State) (cl reason : Nat) (cause : Option Nat) (h0 : Kept E s0 s) (e_cmds : E .cmds := by assumption) (e_ctxs : E .ctxs := by assumption) (e_ecc : E .ecc := by assumption) (e_erq : E .erq := by assumption) (e_flash : E .flash := by assumption) (e_folded : E .folded := by assumption) (e_fresh : E .fresh := by assumption) (e_fwLog : E .fwLog := by assumption) (e_handling : E .handling := by assumption) (e_mem : E .mem := by assumption) (e_msixs : E .msixs := by assumption) (e_out : E .out := by assumption) (e_ports : E .ports := by assumption) (e_regs : E .regs := by assumption) (e_retired : E .retired := by assumption) (e_rseq : E .rseq := by assumption) : Kept E s0 (State.retireCluster s cl reason cause) := by
  delta State.retireCluster
  repeat' (first
    | (refine fun _ => ?_)
    | (with_reducible first | assumption | apply State.anchorGone_kept | apply State.failPart_kept | apply State.openHandling_kept | apply State.record_kept | apply State.refetch_kept | apply State.reportPart_kept | apply State.setCmd_kept | apply State.setF_kept | apply State.settle_kept | apply kept_ite | apply kept_foldl)
    | simp only [kept_retired e_retired]
    | (extract_lets +onlyGivenNames z
       first
         | (refine (show Kept E s0 z → _ from fun hz => ?_) ?_; clear_value z; rotate_left; dsimp only [z]; rotate_left)
         | (refine (show Kept E s0 z.1 → _ from fun hz => ?_) ?_; clear_value z; rotate_left; dsimp only [z]; rotate_left)
         | (refine (show Kept E s0 z.2.1 → _ from fun hz => ?_) ?_; clear_value z; rotate_left; dsimp only [z]; rotate_left)
         | (refine (show Kept E s0 z.2.2 → _ from fun hz => ?_) ?_; clear_value z; rotate_left; dsimp only [z]; rotate_left)
         | clear_value z)
    | split
    | dsimp only)

theorem execArrayCheckFail_kept (cluster q seq column why addr : Nat) (s : State) (h0 : Kept E s0 s) (e_clusters : E .clusters := by assumption) (e_cmds : E .cmds := by assumption) (e_ctxs : E .ctxs := by assumption) (e_ecc : E .ecc := by assumption) (e_erq : E .erq := by assumption) (e_flash : E .flash := by assumption) (e_folded : E .folded := by assumption) (e_fresh : E .fresh := by assumption) (e_fwLog : E .fwLog := by assumption) (e_handling : E .handling := by assumption) (e_mem : E .mem := by assumption) (e_msixs : E .msixs := by assumption) (e_out : E .out := by assumption) (e_ports : E .ports := by assumption) (e_regs : E .regs := by assumption) (e_retired : E .retired := by assumption) (e_rseq : E .rseq := by assumption) : ∃ t, execArrayCheckFail cluster q seq column why addr s = .next t ∧ Kept E s0 t := by
  refine ⟨_, rfl, ?_⟩
  repeat' (first
    | (refine fun _ => ?_)
    | (with_reducible first | assumption | apply State.hwFail_kept | apply State.record_kept | apply State.retireCluster_kept | apply State.setCluster_kept | apply kept_ite)
    | (extract_lets +onlyGivenNames z
       first
         | (refine (show Kept E s0 z → _ from fun hz => ?_) ?_; clear_value z; rotate_left; dsimp only [z]; rotate_left)
         | clear_value z)
    | split
    | dsimp only)

theorem execSfuPipeParity_kept (cluster pipe q seq : Nat) (s : State) (h0 : Kept E s0 s) (e_cmds : E .cmds := by assumption) (e_ctxs : E .ctxs := by assumption) (e_ecc : E .ecc := by assumption) (e_erq : E .erq := by assumption) (e_folded : E .folded := by assumption) (e_fresh : E .fresh := by assumption) (e_fwLog : E .fwLog := by assumption) (e_handling : E .handling := by assumption) (e_mem : E .mem := by assumption) (e_msixs : E .msixs := by assumption) (e_out : E .out := by assumption) (e_regs : E .regs := by assumption) (e_rseq : E .rseq := by assumption) : ∃ t, execSfuPipeParity cluster pipe q seq s = .next t ∧ Kept E s0 t := by
  refine ⟨_, rfl, ?_⟩
  repeat' (first
    | (refine fun _ => ?_)
    | (with_reducible first | assumption | apply State.hwFail_kept | apply State.record_kept | apply State.setF_kept | apply kept_ite)
    | (extract_lets +onlyGivenNames z
       first
         | (refine (show Kept E s0 z → _ from fun hz => ?_) ?_; clear_value z; rotate_left; dsimp only [z]; rotate_left)
         | clear_value z)
    | split
    | dsimp only)

theorem State.remapRow_kept (s : State) (cl mac row : Nat) (cause : Option Nat) (h0 : Kept E s0 s) (e_clusters : E .clusters := by assumption) (e_cmds : E .cmds := by assumption) (e_ctxs : E .ctxs := by assumption) (e_ecc : E .ecc := by assumption) (e_erq : E .erq := by assumption) (e_flash : E .flash := by assumption) (e_folded : E .folded := by assumption) (e_fresh : E .fresh := by assumption) (e_fwLog : E .fwLog := by assumption) (e_handling : E .handling := by assumption) (e_mem : E .mem := by assumption) (e_msixs : E .msixs := by assumption) (e_out : E .out := by assumption) (e_ports : E .ports := by assumption) (e_regs : E .regs := by assumption) (e_retired : E .retired := by assumption) (e_rseq : E .rseq := by assumption) : Kept E s0 (State.remapRow s cl mac row cause) := by
  delta State.remapRow
  repeat' (first
    | (refine fun _ => ?_)
    | (with_reducible first | assumption | apply State.retireCluster_kept | apply State.setCluster_kept | apply kept_ite)
    | (extract_lets +onlyGivenNames z
       first
         | (refine (show Kept E s0 z → _ from fun hz => ?_) ?_; clear_value z; rotate_left; dsimp only [z]; rotate_left)
         | clear_value z)
    | split
    | dsimp only)

theorem execLbfEcc_kept (cluster bank mac row off syn : Nat) (unc : Bool) (q seq : Nat) (s : State) (h0 : Kept E s0 s) (e_clusters : E .clusters := by assumption) (e_cmds : E .cmds := by assumption) (e_ctxs : E .ctxs := by assumption) (e_ecc : E .ecc := by assumption) (e_erq : E .erq := by assumption) (e_flash : E .flash := by assumption) (e_folded : E .folded := by assumption) (e_fresh : E .fresh := by assumption) (e_fwLog : E .fwLog := by assumption) (e_handling : E .handling := by assumption) (e_mem : E .mem := by assumption) (e_msixs : E .msixs := by assumption) (e_out : E .out := by assumption) (e_ports : E .ports := by assumption) (e_regs : E .regs := by assumption) (e_retired : E .retired := by assumption) (e_rseq : E .rseq := by assumption) : ∃ t, execLbfEcc cluster bank mac row off syn unc q seq s = .next t ∧ Kept E s0 t := by
  refine ⟨_, rfl, ?_⟩
  repeat' (first
    | (refine fun _ => ?_)
    | (with_reducible first | assumption | apply State.hwFail_kept | apply State.record_kept | apply State.remapRow_kept | apply State.setCluster_kept | apply kept_ite)
    | (extract_lets +onlyGivenNames z
       first
         | (refine (show Kept E s0 z → _ from fun hz => ?_) ?_; clear_value z; rotate_left; dsimp only [z]; rotate_left)
         | clear_value z)
    | split
    | dsimp only)

theorem execAccumulatorStoreError_kept (cluster : Nat) (s : State) (h0 : Kept E s0 s) (e_cmds : E .cmds := by assumption) (e_ctxs : E .ctxs := by assumption) (e_ecc : E .ecc := by assumption) (e_erq : E .erq := by assumption) (e_flash : E .flash := by assumption) (e_folded : E .folded := by assumption) (e_fresh : E .fresh := by assumption) (e_fwLog : E .fwLog := by assumption) (e_handling : E .handling := by assumption) (e_mem : E .mem := by assumption) (e_msixs : E .msixs := by assumption) (e_out : E .out := by assumption) (e_ports : E .ports := by assumption) (e_regs : E .regs := by assumption) (e_retired : E .retired := by assumption) (e_rseq : E .rseq := by assumption) : ∃ t, execAccumulatorStoreError cluster s = .next t ∧ Kept E s0 t := by
  refine ⟨_, rfl, ?_⟩
  repeat' (first
    | (refine fun _ => ?_)
    | (with_reducible first | assumption | apply State.retireCluster_kept)
    | dsimp only)

theorem State.tstat_kept (s : State) (st : Nat) (h0 : Kept E s0 s) (e_regs : E .regs := by assumption) : Kept E s0 (State.tstat s st) := by
  delta State.tstat
  repeat' (first
    | (with_reducible first | assumption | apply State.setF_kept)
    | dsimp only)

theorem execRetireCluster_kept (acr : Acr) (v : Nat) (s : State) (h0 : Kept E s0 s) (e_cmds : E .cmds := by assumption) (e_ctxs : E .ctxs := by assumption) (e_ecc : E .ecc := by assumption) (e_erq : E .erq := by assumption) (e_flash : E .flash := by assumption) (e_folded : E .folded := by assumption) (e_fresh : E .fresh := by assumption) (e_fwLog : E .fwLog := by assumption) (e_handling : E .handling := by assumption) (e_mem : E .mem := by assumption) (e_msixs : E .msixs := by assumption) (e_out : E .out := by assumption) (e_ports : E .ports := by assumption) (e_regs : E .regs := by assumption) (e_retired : E .retired := by assumption) (e_rseq : E .rseq := by assumption) : ∃ t, execRetireCluster acr v s = .next t ∧ Kept E s0 t := by
  refine ⟨_, rfl, ?_⟩
  repeat' (first
    | (refine fun _ => ?_)
    | (with_reducible first | assumption | apply State.forDevice_kept | apply State.retireCluster_kept | apply State.tstat_kept | apply kept_ite)
    | split
    | dsimp only)

theorem execClearRetirementList_kept (acr : Acr) (v : Nat) (s : State) (h0 : Kept E s0 s) (e_clearRetired : E .clearRetired := by assumption) (e_msixs : E .msixs := by assumption) (e_out : E .out := by assumption) (e_regs : E .regs := by assumption) : ∃ t, execClearRetirementList acr v s = .next t ∧ Kept E s0 t := by
  refine ⟨_, rfl, ?_⟩
  repeat' (first
    | (refine fun _ => ?_)
    | (with_reducible first | assumption | apply State.forDevice_kept | apply State.tstat_kept | apply kept_ite)
    | simp only [kept_clearRetired e_clearRetired]
    | split
    | dsimp only)

theorem execStraitLaneFail_kept (strait lane : Nat) (s : State) (h0 : Kept E s0 s) (e_erq : E .erq := by assumption) (e_folded : E .folded := by assumption) (e_fwLog : E .fwLog := by assumption) (e_msixs : E .msixs := by assumption) (e_out : E .out := by assumption) (e_regs : E .regs := by assumption) (e_rseq : E .rseq := by assumption) (e_straits : E .straits := by assumption) : ∃ t, execStraitLaneFail strait lane s = .next t ∧ Kept E s0 t := by
  refine ⟨_, rfl, ?_⟩
  repeat' (first
    | (refine fun _ => ?_)
    | (with_reducible first | assumption | apply State.record_kept)
    | with_reducible exact kept_straits _ h0 (rises_tset _ _)
    | (extract_lets +onlyGivenNames z
       first
         | (refine (show Kept E s0 z → _ from fun hz => ?_) ?_; clear_value z; rotate_left; dsimp only [z]; rotate_left)
         | clear_value z)
    | dsimp only)

theorem execHmlock_kept (s : State) (h0 : Kept E s0 s) (e_erq : E .erq := by assumption) (e_folded : E .folded := by assumption) (e_fwLog : E .fwLog := by assumption) (e_msixs : E .msixs := by assumption) (e_out : E .out := by assumption) (e_regs : E .regs := by assumption) (e_rseq : E .rseq := by assumption) : ∃ t, execHmlock s = .next t ∧ Kept E s0 t := by
  refine ⟨_, rfl, ?_⟩
  repeat' (first
    | (refine fun _ => ?_)
    | (with_reducible first | assumption | apply State.record_kept)
    | dsimp only)

theorem State.fatalStop_kept (s : State) (h0 : Kept E s0 s) (e_agents : E .agents := by assumption) (e_cmds : E .cmds := by assumption) (e_fences : E .fences := by assumption) (e_flash : E .flash := by assumption) (e_handling : E .handling := by assumption) (e_streams : E .streams := by assumption) : Kept E s0 (State.fatalStop s) := by
  delta State.fatalStop
  dsimp only
  refine kept_foldl _ (fun t e h => State.setStream_kept _ _ _ h) _ (kept_foldl _ (fun t e h => State.setAgent_kept _ _ _ h) _ ?_)
  refine State.setFlash_kept _ ?_ (fun h => h)
  refine h0.trans_of (fun c n => by cases c <;> first | rfl | exact absurd (by assumption) n) (fun w => w)

theorem State.fatal_kept (s : State) (cls kind unit syn : Nat) (h0 : Kept E s0 s) (e_agents : E .agents := by assumption) (e_cmds : E .cmds := by assumption) (e_erq : E .erq := by assumption) (e_fences : E .fences := by assumption) (e_flash : E .flash := by assumption) (e_folded : E .folded := by assumption) (e_fwLog : E .fwLog := by assumption) (e_handling : E .handling := by assumption) (e_msixs : E .msixs := by assumption) (e_out : E .out := by assumption) (e_regs : E .regs := by assumption) (e_rseq : E .rseq := by assumption) (e_streams : E .streams := by assumption) : Kept E s0 (State.fatal s cls kind unit syn) := by
  delta State.fatal
  repeat' (first
    | (with_reducible first | assumption | apply State.fatalStop_kept | apply State.record_kept)
    | dsimp only)

theorem execHbdie_kept (s : State) (h0 : Kept E s0 s) (e_agents : E .agents := by assumption) (e_cmds : E .cmds := by assumption) (e_erq : E .erq := by assumption) (e_fences : E .fences := by assumption) (e_flash : E .flash := by assumption) (e_folded : E .folded := by assumption) (e_fwLog : E .fwLog := by assumption) (e_handling : E .handling := by assumption) (e_msixs : E .msixs := by assumption) (e_out : E .out := by assumption) (e_regs : E .regs := by assumption) (e_rseq : E .rseq := by assumption) (e_streams : E .streams := by assumption) : ∃ t, execHbdie s = .next t ∧ Kept E s0 t := by
  refine ⟨_, rfl, ?_⟩
  repeat' (first
    | (refine fun _ => ?_)
    | (with_reducible first | assumption | apply State.fatal_kept)
    | dsimp only)

theorem execErqPop_kept (acr : Acr) (v : Nat) (s : State) (h0 : Kept E s0 s) (e_erq : E .erq := by assumption) (e_msixs : E .msixs := by assumption) (e_out : E .out := by assumption) (e_regs : E .regs := by assumption) : ∃ t, execErqPop acr v s = .next t ∧ Kept E s0 t := by
  refine ⟨_, rfl, ?_⟩
  repeat' (first
    | (refine fun _ => ?_)
    | (with_reducible first | assumption | apply State.forDevice_kept | apply State.showOldest_kept | apply kept_ite)
    | simp only [kept_erq e_erq]
    | split
    | dsimp only)

theorem execBundleLoad_kept (acr : Acr) (v : Nat) (bundle : List Byte) (long : Bool) (s : State) (h0 : Kept E s0 s) (e_bundle : E .bundle := by assumption) (e_clusters : E .clusters := by assumption) (e_latch : E .latch := by assumption) (e_msixs : E .msixs := by assumption) (e_out : E .out := by assumption) (e_regs : E .regs := by assumption) : ∃ t, execBundleLoad acr v bundle long s = .next t ∧ Kept E s0 t := by
  refine ⟨_, rfl, ?_⟩
  repeat' (first
    | (refine fun _ => ?_)
    | (with_reducible first | assumption | apply State.forDevice_kept | apply State.setCluster_kept | apply State.setF_kept | apply State.setLatch_kept | apply State.tstat_kept | apply kept_ite | apply kept_foldl)
    | simp only [kept_bundle e_bundle]
    | (extract_lets +onlyGivenNames z
       first
         | (refine (show Kept E s0 z → _ from fun hz => ?_) ?_; clear_value z; rotate_left; dsimp only [z]; rotate_left)
         | (refine (show Kept E s0 z.1 → _ from fun hz => ?_) ?_; clear_value z; rotate_left; dsimp only [z]; rotate_left)
         | (refine (show Kept E s0 z.2.1 → _ from fun hz => ?_) ?_; clear_value z; rotate_left; dsimp only [z]; rotate_left)
         | (refine (show Kept E s0 z.2.2 → _ from fun hz => ?_) ?_; clear_value z; rotate_left; dsimp only [z]; rotate_left)
         | clear_value z)
    | split
    | dsimp only)

theorem execBundleStop_kept (acr : Acr) (v : Nat) (s : State) (h0 : Kept E s0 s) (e_bundle : E .bundle := by assumption) (e_latch : E .latch := by assumption) (e_msixs : E .msixs := by assumption) (e_out : E .out := by assumption) (e_regs : E .regs := by assumption) : ∃ t, execBundleStop acr v s = .next t ∧ Kept E s0 t := by
  refine ⟨_, rfl, ?_⟩
  repeat' (first
    | (refine fun _ => ?_)
    | (with_reducible first | assumption | apply State.forDevice_kept | apply State.setF_kept | apply State.setLatch_kept | apply State.tstat_kept | apply kept_ite)
    | simp only [kept_bundle e_bundle]
    | (extract_lets +onlyGivenNames z
       first
         | (refine (show Kept E s0 z → _ from fun hz => ?_) ?_; clear_value z; rotate_left; dsimp only [z]; rotate_left)
         | clear_value z)
    | split
    | dsimp only)

theorem execFleetTestItem_kept (cluster crc : Nat) (s : State) (h0 : Kept E s0 s) (e_clusters : E .clusters := by assumption) (e_cmds : E .cmds := by assumption) (e_ctxs : E .ctxs := by assumption) (e_ecc : E .ecc := by assumption) (e_erq : E .erq := by assumption) (e_flash : E .flash := by assumption) (e_folded : E .folded := by assumption) (e_fresh : E .fresh := by assumption) (e_fwLog : E .fwLog := by assumption) (e_handling : E .handling := by assumption) (e_mem : E .mem := by assumption) (e_msixs : E .msixs := by assumption) (e_out : E .out := by assumption) (e_ports : E .ports := by assumption) (e_regs : E .regs := by assumption) (e_retired : E .retired := by assumption) (e_rseq : E .rseq := by assumption) : ∃ t, execFleetTestItem cluster crc s = .next t ∧ Kept E s0 t := by
  refine ⟨_, rfl, ?_⟩
  repeat' (first
    | (refine fun _ => ?_)
    | (with_reducible first | assumption | apply State.bump_kept | apply PartRun.item_kept | apply State.record_kept | apply State.retireCluster_kept | apply State.setCluster_kept | apply kept_ite)
    | (extract_lets +onlyGivenNames z
       first
         | (refine (show Kept E s0 z → _ from fun hz => ?_) ?_; clear_value z; rotate_left; dsimp only [z]; rotate_left)
         | clear_value z)
    | split
    | dsimp only)

theorem execCntTrcfg_kept (acr : Acr) (p v : Nat) (s : State) (h0 : Kept E s0 s) (e_evseq : E .evseq := by assumption) (e_latch : E .latch := by assumption) (e_msixs : E .msixs := by assumption) (e_out : E .out := by assumption) (e_regs : E .regs := by assumption) : ∃ t, execCntTrcfg acr p v s = .next t ∧ Kept E s0 t := by
  refine ⟨_, rfl, ?_⟩
  repeat' (first
    | (refine fun _ => ?_)
    | (with_reducible first | assumption | apply State.forPart_kept | apply State.setF_kept | apply State.setLatch_kept | apply kept_ite | apply kept_foldl)
    | with_reducible exact kept_evseq _ hz (rises_tset _ _)
    | (extract_lets +onlyGivenNames z
       first
         | (refine (show Kept E s0 z → _ from fun hz => ?_) ?_; clear_value z; rotate_left; dsimp only [z]; rotate_left)
         | clear_value z)
    | split
    | dsimp only)

theorem execCntTrptr_kept (acr : Acr) (p v : Nat) (s : State) (h0 : Kept E s0 s) (e_latch : E .latch := by assumption) (e_msixs : E .msixs := by assumption) (e_out : E .out := by assumption) (e_regs : E .regs := by assumption) : ∃ t, execCntTrptr acr p v s = .next t ∧ Kept E s0 t := by
  refine ⟨_, rfl, ?_⟩
  repeat' (first
    | (refine fun _ => ?_)
    | (with_reducible first | assumption | apply State.forPart_kept | apply State.setF_kept | apply State.setLatch_kept | apply kept_ite)
    | (extract_lets +onlyGivenNames z
       first
         | (refine (show Kept E s0 z → _ from fun hz => ?_) ?_; clear_value z; rotate_left; dsimp only [z]; rotate_left)
         | clear_value z)
    | split
    | dsimp only)

end Sys2Proof.Machine
end

