-- ==== Sys2Proof/Laws/KeptLinks.lean ====
section
/-!
SUPPORT. Laws/KeptLinks.lean: the operations of Machine/Links.lean change neither the queue nor the canonical forms.
-/
namespace Sys2Proof.Machine

set_option Elab.async false
set_option linter.all false

variable {E : Comp → Prop} {s0 : State}

theorem State.mapPort_kept (s : State) (p : Nat) (f : Port → Port) (h0 : Kept E s0 s) (e_ports : E .ports := by assumption) : Kept E s0 (State.mapPort s p f) := by
  delta State.mapPort
  repeat' (first
    | (with_reducible first | assumption | apply State.setPort_kept)
    | dsimp only)

theorem State.sendBare_kept (s : State) (p ftype dgr : Nat) (h0 : Kept E s0 s) (e_out : E .out := by assumption) (e_ports : E .ports := by assumption) : Kept E s0 (State.sendBare s p ftype dgr) := by
  delta State.sendBare
  repeat' (first
    | (with_reducible first | assumption | apply State.emit_kept | apply State.setPort_kept)
    | (extract_lets +onlyGivenNames z
       first
         | (refine (show Kept E s0 z → _ from fun hz => ?_) ?_; clear_value z; rotate_left; dsimp only [z]; rotate_left)
         | clear_value z)
    | dsimp only)

theorem State.stampProbe_kept (s : State) (p : Nat) (kind : Option Nat) (h0 : Kept E s0 s) (e_arch : E .arch := by assumption) : Kept E s0 (State.stampProbe s p kind) := by
  delta State.stampProbe
  repeat' (first
    | (with_reducible first | assumption | apply kept_ite)
    | simp only [kept_arch e_arch]
    | split
    | dsimp only)

theorem State.pump_kept (s : State) (p : Nat) (fuel : Nat) (h0 : Kept E s0 s) (e_arch : E .arch := by assumption) (e_out : E .out := by assumption) (e_ports : E .ports := by assumption) : Kept E s0 (State.pump s p fuel) := by
  induction fuel generalizing s with
  | zero => exact h0
  | succ n ih =>
    unfold State.pump
    repeat' (first
      | (with_reducible first | assumption | apply ih | apply State.emit_kept | apply State.setPort_kept | apply State.stampProbe_kept | apply kept_ite)
      | (extract_lets +onlyGivenNames z
         first
           | (refine (show Kept E s0 z → _ from fun hz => ?_) ?_; clear_value z; rotate_left; dsimp only [z]; rotate_left)
           | clear_value z)
      | split
      | dsimp only)

theorem State.serve_kept (s : State) (p : Nat) (h0 : Kept E s0 s) (e_arch : E .arch := by assumption) (e_out : E .out := by assumption) (e_ports : E .ports := by assumption) : Kept E s0 (State.serve s p) := by
  delta State.serve
  repeat' (first
    | (with_reducible first | assumption | apply State.pump_kept | apply State.sendBare_kept | apply kept_ite)
    | split
    | dsimp only)

theorem State.sendSb_kept (s : State) (p kind body : Nat) (h0 : Kept E s0 s) (e_arch : E .arch := by assumption) (e_out : E .out := by assumption) (e_ports : E .ports := by assumption) : Kept E s0 (State.sendSb s p kind body) := by
  delta State.sendSb
  repeat' (first
    | (refine fun _ => ?_)
    | (with_reducible first | assumption | apply State.mapPort_kept | apply State.serve_kept | apply kept_ite)
    | split
    | dsimp only)

theorem State.forwardSb_kept (s : State) (p m : Nat) (h0 : Kept E s0 s) (e_arch : E .arch := by assumption) (e_out : E .out := by assumption) (e_ports : E .ports := by assumption) : Kept E s0 (State.forwardSb s p m) := by
  delta State.forwardSb
  repeat' (first
    | (refine fun _ => ?_)
    | (with_reducible first | assumption | apply State.mapPort_kept | apply State.serve_kept | apply kept_ite)
    | (extract_lets +onlyGivenNames z
       first
         | (refine (show Kept E s0 z → _ from fun hz => ?_) ?_; clear_value z; rotate_left; dsimp only [z]; rotate_left)
         | clear_value z)
    | split
    | dsimp only)

theorem State.takeSb_kept {s : State} {p kind m a : Nat} {t : State} (e : s.takeSb p kind = some (m, a, t)) (h0 : Kept E s0 s) (e_arch : E .arch := by assumption) (e_out : E .out := by assumption) (e_ports : E .ports := by assumption) : Kept E s0 t := by
  unfold State.takeSb at e
  split at e
  · split at e
    · simp only [Option.some.injEq, Prod.mk.injEq] at e
      rw [← e.2.2]
      exact State.serve_kept _ _ (State.mapPort_kept _ _ _ h0)
    · cases e
  · cases e

theorem State.setArch_kept (s : State) (a : Arch) (h0 : Kept E s0 s) (e_arch : E .arch := by assumption) : Kept E s0 (State.setArch s a) := by
  delta State.setArch
  repeat' (first
    | (with_reducible first | assumption)
    | simp only [kept_arch e_arch]
    | dsimp only)

theorem State.breakAt_kept (s : State) (p : Nat) (h0 : Kept E s0 s) (e_arch : E .arch := by assumption) (e_out : E .out := by assumption) (e_ports : E .ports := by assumption) (e_regs : E .regs := by assumption) : Kept E s0 (State.breakAt s p) := by
  delta State.breakAt
  repeat' (first
    | (refine fun _ => ?_)
    | (with_reducible first | assumption | apply State.sendSb_kept | apply State.setArch_kept | apply State.setF_kept | apply kept_ite)
    | (extract_lets +onlyGivenNames z
       first
         | (refine (show Kept E s0 z → _ from fun hz => ?_) ?_; clear_value z; rotate_left; dsimp only [z]; rotate_left)
         | (refine (show Kept E s0 z.1 → _ from fun hz => ?_) ?_; clear_value z; rotate_left; dsimp only [z]; rotate_left)
         | (refine (show Kept E s0 z.2.1 → _ from fun hz => ?_) ?_; clear_value z; rotate_left; dsimp only [z]; rotate_left)
         | (refine (show Kept E s0 z.2.2 → _ from fun hz => ?_) ?_; clear_value z; rotate_left; dsimp only [z]; rotate_left)
         | clear_value z)
    | split
    | dsimp only)

theorem State.probe_kept (s : State) (h0 : Kept E s0 s) (e_arch : E .arch := by assumption) (e_out : E .out := by assumption) (e_ports : E .ports := by assumption) : Kept E s0 (State.probe s) := by
  delta State.probe
  repeat' (first
    | (with_reducible first | assumption | apply State.sendSb_kept | apply State.setArch_kept)
    | split
    | dsimp only)

theorem State.sweepDone_kept (s : State) (h0 : Kept E s0 s) (e_arch : E .arch := by assumption) (e_out : E .out := by assumption) (e_ports : E .ports := by assumption) (e_regs : E .regs := by assumption) : Kept E s0 (State.sweepDone s) := by
  delta State.sweepDone
  repeat' (first
    | (with_reducible first | assumption | apply State.sendSb_kept | apply State.setF_kept | apply kept_ite)
    | (extract_lets +onlyGivenNames z
       first
         | (refine (show Kept E s0 z → _ from fun hz => ?_) ?_; clear_value z; rotate_left; dsimp only [z]; rotate_left)
         | clear_value z)
    | split
    | dsimp only)

theorem State.nextHop_kept (s : State) (h0 : Kept E s0 s) (e_arch : E .arch := by assumption) (e_out : E .out := by assumption) (e_ports : E .ports := by assumption) (e_regs : E .regs := by assumption) : Kept E s0 (State.nextHop s) := by
  delta State.nextHop
  repeat' (first
    | (with_reducible first | assumption | apply State.probe_kept | apply State.setArch_kept | apply State.sweepDone_kept | apply kept_ite)
    | split
    | dsimp only)

theorem State.endZsend_kept (s : State) (c : Cmd) (status : Nat) (h0 : Kept E s0 s) (e_cmds : E .cmds := by assumption) (e_ctxs : E .ctxs := by assumption) (e_ecc : E .ecc := by assumption) (e_erq : E .erq := by assumption) (e_folded : E .folded := by assumption) (e_fwLog : E .fwLog := by assumption) (e_mem : E .mem := by assumption) (e_msixs : E .msixs := by assumption) (e_out : E .out := by assumption) (e_ports : E .ports := by assumption) (e_regs : E .regs := by assumption) (e_rseq : E .rseq := by assumption) : Kept E s0 (State.endZsend s c status) := by
  delta State.endZsend
  repeat' (first
    | (refine fun _ => ?_)
    | (with_reducible first | assumption | apply State.engineDone_kept | apply State.mapPort_kept | apply State.writeBytes_kept | apply kept_ite)
    | (extract_lets +onlyGivenNames z
       first
         | (refine (show Kept E s0 z → _ from fun hz => ?_) ?_; clear_value z; rotate_left; dsimp only [z]; rotate_left)
         | clear_value z)
    | split
    | dsimp only)

theorem State.failRing_kept (s : State) (c : Cmd) (status : Nat) (h0 : Kept E s0 s) (e_cmds : E .cmds := by assumption) (e_ctxs : E .ctxs := by assumption) (e_ecc : E .ecc := by assumption) (e_erq : E .erq := by assumption) (e_folded : E .folded := by assumption) (e_fresh : E .fresh := by assumption) (e_fwLog : E .fwLog := by assumption) (e_mem : E .mem := by assumption) (e_msixs : E .msixs := by assumption) (e_out : E .out := by assumption) (e_ports : E .ports := by assumption) (e_regs : E .regs := by assumption) (e_rseq : E .rseq := by assumption) : Kept E s0 (State.failRing s c status) := by
  delta State.failRing
  repeat' (first
    | (refine fun _ => ?_)
    | (with_reducible first | assumption | apply State.failAll_kept | apply State.faultCtx_kept | apply State.mapPort_kept | apply kept_ite | apply kept_foldl)
    | (extract_lets +onlyGivenNames z
       first
         | (refine (show Kept E s0 z → _ from fun hz => ?_) ?_; clear_value z; rotate_left; dsimp only [z]; rotate_left)
         | clear_value z)
    | split
    | dsimp only)

theorem State.settleWr_kept (s : State) (p id code : Nat) (h0 : Kept E s0 s) (e_cmds : E .cmds := by assumption) (e_ctxs : E .ctxs := by assumption) (e_ecc : E .ecc := by assumption) (e_erq : E .erq := by assumption) (e_folded : E .folded := by assumption) (e_fresh : E .fresh := by assumption) (e_fwLog : E .fwLog := by assumption) (e_mem : E .mem := by assumption) (e_msixs : E .msixs := by assumption) (e_out : E .out := by assumption) (e_ports : E .ports := by assumption) (e_regs : E .regs := by assumption) (e_rseq : E .rseq := by assumption) : Kept E s0 (State.settleWr s p id code) := by
  delta State.settleWr
  repeat' (first
    | (refine fun _ => ?_)
    | (with_reducible first | assumption | apply State.endZsend_kept | apply State.failRing_kept | apply State.mapPort_kept | apply kept_ite)
    | (extract_lets +onlyGivenNames z
       first
         | (refine (show Kept E s0 z → _ from fun hz => ?_) ?_; clear_value z; rotate_left; dsimp only [z]; rotate_left)
         | clear_value z)
    | split
    | dsimp only)

theorem State.takeWack_kept (s : State) (p : Nat) (h0 : Kept E s0 s) (e_cmds : E .cmds := by assumption) (e_ctxs : E .ctxs := by assumption) (e_ecc : E .ecc := by assumption) (e_erq : E .erq := by assumption) (e_folded : E .folded := by assumption) (e_fresh : E .fresh := by assumption) (e_fwLog : E .fwLog := by assumption) (e_mem : E .mem := by assumption) (e_msixs : E .msixs := by assumption) (e_out : E .out := by assumption) (e_ports : E .ports := by assumption) (e_regs : E .regs := by assumption) (e_rseq : E .rseq := by assumption) : Kept E s0 (State.takeWack s p) := by
  delta State.takeWack
  repeat' (first
    | (refine fun _ => ?_)
    | (with_reducible first | assumption | apply State.mapPort_kept | apply State.settleWr_kept | apply kept_ite)
    | (extract_lets +onlyGivenNames z
       first
         | (refine (show Kept E s0 z → _ from fun hz => ?_) ?_; clear_value z; rotate_left; dsimp only [z]; rotate_left)
         | clear_value z)
    | split
    | dsimp only)

theorem State.queueWrs_kept (s : State) (p : Nat) (l : List TxWr) (h0 : Kept E s0 s) (e_arch : E .arch := by assumption) (e_out : E .out := by assumption) (e_ports : E .ports := by assumption) : Kept E s0 (State.queueWrs s p l) := by
  delta State.queueWrs
  repeat' (first
    | (refine fun _ => ?_)
    | (with_reducible first | assumption | apply State.mapPort_kept | apply State.serve_kept)
    | dsimp only)

theorem State.goZsend_kept (s : State) (c : Cmd) (h0 : Kept E s0 s) (e_arch : E .arch := by assumption) (e_cmds : E .cmds := by assumption) (e_ctxs : E .ctxs := by assumption) (e_ecc : E .ecc := by assumption) (e_erq : E .erq := by assumption) (e_folded : E .folded := by assumption) (e_fwLog : E .fwLog := by assumption) (e_mem : E .mem := by assumption) (e_msixs : E .msixs := by assumption) (e_out : E .out := by assumption) (e_ports : E .ports := by assumption) (e_regs : E .regs := by assumption) (e_rseq : E .rseq := by assumption) (e_streams : E .streams := by assumption) : Kept E s0 (State.goZsend s c) := by
  delta State.goZsend
  repeat' (first
    | (with_reducible first | assumption | apply State.endZsend_kept | apply State.goAnchor_kept | apply State.queueWrs_kept | apply State.readWords_kept | apply kept_ite)
    | (extract_lets +onlyGivenNames z
       first
         | (refine (show Kept E s0 z → _ from fun hz => ?_) ?_; clear_value z; rotate_left; dsimp only [z]; rotate_left)
         | clear_value z)
    | split
    | dsimp only)

theorem execZsend_kept (q : Nat) (s : State) (h0 : Kept E s0 s) (e_arch : E .arch := by assumption) (e_cmds : E .cmds := by assumption) (e_ctxs : E .ctxs := by assumption) (e_ecc : E .ecc := by assumption) (e_erq : E .erq := by assumption) (e_folded : E .folded := by assumption) (e_fwLog : E .fwLog := by assumption) (e_mem : E .mem := by assumption) (e_msixs : E .msixs := by assumption) (e_out : E .out := by assumption) (e_ports : E .ports := by assumption) (e_regs : E .regs := by assumption) (e_rseq : E .rseq := by assumption) (e_streams : E .streams := by assumption) : ∃ t, execZsend q s = .next t ∧ Kept E s0 t := by
  refine ⟨_, rfl, ?_⟩
  repeat' (first
    | (refine fun _ => ?_)
    | (with_reducible first | assumption | apply State.goZsend_kept | apply State.issue_kept)
    | dsimp only)

theorem State.ringPost_kept (s : State) (c : Cmd) (k : Nat) (h0 : Kept E s0 s) (e_arch : E .arch := by assumption) (e_cmds : E .cmds := by assumption) (e_ctxs : E .ctxs := by assumption) (e_ecc : E .ecc := by assumption) (e_erq : E .erq := by assumption) (e_folded : E .folded := by assumption) (e_fresh : E .fresh := by assumption) (e_fwLog : E .fwLog := by assumption) (e_mem : E .mem := by assumption) (e_msixs : E .msixs := by assumption) (e_out : E .out := by assumption) (e_ports : E .ports := by assumption) (e_regs : E .regs := by assumption) (e_rseq : E .rseq := by assumption) : Kept E s0 (State.ringPost s c k) := by
  delta State.ringPost
  repeat' (first
    | (refine fun _ => ?_)
    | (with_reducible first | assumption | apply State.failRing_kept | apply State.freeBytes_kept | apply State.queueWrs_kept | apply State.readWords_kept | apply kept_ite)
    | (extract_lets +onlyGivenNames z
       first
         | (refine (show Kept E s0 z → _ from fun hz => ?_) ?_; clear_value z; rotate_left; dsimp only [z]; rotate_left)
         | (refine (show Kept E s0 z.1 → _ from fun hz => ?_) ?_; clear_value z; rotate_left; dsimp only [z]; rotate_left)
         | (refine (show Kept E s0 z.2.1 → _ from fun hz => ?_) ?_; clear_value z; rotate_left; dsimp only [z]; rotate_left)
         | (refine (show Kept E s0 z.2.2 → _ from fun hz => ?_) ?_; clear_value z; rotate_left; dsimp only [z]; rotate_left)
         | clear_value z)
    | split
    | dsimp only)

theorem State.ringAck_kept (s : State) (c : Cmd) (h0 : Kept E s0 s) (e_arch : E .arch := by assumption) (e_cmds : E .cmds := by assumption) (e_ctxs : E .ctxs := by assumption) (e_ecc : E .ecc := by assumption) (e_erq : E .erq := by assumption) (e_folded : E .folded := by assumption) (e_fresh : E .fresh := by assumption) (e_fwLog : E .fwLog := by assumption) (e_mem : E .mem := by assumption) (e_msixs : E .msixs := by assumption) (e_out : E .out := by assumption) (e_ports : E .ports := by assumption) (e_regs : E .regs := by assumption) (e_rseq : E .rseq := by assumption) : Kept E s0 (State.ringAck s c) := by
  delta State.ringAck
  repeat' (first
    | (with_reducible first | assumption | apply State.failRing_kept | apply State.freeBytes_kept | apply State.queueWrs_kept | apply kept_ite)
    | (extract_lets +onlyGivenNames z
       first
         | (refine (show Kept E s0 z → _ from fun hz => ?_) ?_; clear_value z; rotate_left; dsimp only [z]; rotate_left)
         | (refine (show Kept E s0 z.1 → _ from fun hz => ?_) ?_; clear_value z; rotate_left; dsimp only [z]; rotate_left)
         | (refine (show Kept E s0 z.2.1 → _ from fun hz => ?_) ?_; clear_value z; rotate_left; dsimp only [z]; rotate_left)
         | (refine (show Kept E s0 z.2.2 → _ from fun hz => ?_) ?_; clear_value z; rotate_left; dsimp only [z]; rotate_left)
         | clear_value z)
    | split
    | dsimp only)

theorem State.goAttn_kept (s : State) (c : Cmd) (h0 : Kept E s0 s) (e_arch : E .arch := by assumption) (e_cmds : E .cmds := by assumption) (e_ctxs : E .ctxs := by assumption) (e_ecc : E .ecc := by assumption) (e_erq : E .erq := by assumption) (e_evseq : E .evseq := by assumption) (e_folded : E .folded := by assumption) (e_fresh : E .fresh := by assumption) (e_fwLog : E .fwLog := by assumption) (e_mem : E .mem := by assumption) (e_msixs : E .msixs := by assumption) (e_out : E .out := by assumption) (e_ports : E .ports := by assumption) (e_regs : E .regs := by assumption) (e_rseq : E .rseq := by assumption) (e_streams : E .streams := by assumption) : Kept E s0 (State.goAttn s c) := by
  delta State.goAttn
  repeat' (first
    | (with_reducible first | assumption | apply State.goTiled_kept | apply State.ringPost_kept | apply kept_ite)
    | (extract_lets +onlyGivenNames z
       first
         | (refine (show Kept E s0 z → _ from fun hz => ?_) ?_; clear_value z; rotate_left; dsimp only [z]; rotate_left)
         | clear_value z)
    | split
    | dsimp only)

theorem execAttn_kept (q : Nat) (s : State) (h0 : Kept E s0 s) (e_arch : E .arch := by assumption) (e_cmds : E .cmds := by assumption) (e_ctxs : E .ctxs := by assumption) (e_ecc : E .ecc := by assumption) (e_erq : E .erq := by assumption) (e_evseq : E .evseq := by assumption) (e_folded : E .folded := by assumption) (e_fresh : E .fresh := by assumption) (e_fwLog : E .fwLog := by assumption) (e_mem : E .mem := by assumption) (e_msixs : E .msixs := by assumption) (e_out : E .out := by assumption) (e_ports : E .ports := by assumption) (e_regs : E .regs := by assumption) (e_rseq : E .rseq := by assumption) (e_streams : E .streams := by assumption) : ∃ t, execAttn q s = .next t ∧ Kept E s0 t := by
  refine ⟨_, rfl, ?_⟩
  repeat' (first
    | (refine fun _ => ?_)
    | (with_reducible first | assumption | apply State.goAttn_kept | apply State.issue_kept)
    | dsimp only)

theorem State.ringParts_kept (s : State) (id k : Nat) (cls : List Nat) (h0 : Kept E s0 s) (e_agents : E .agents := by assumption) (e_cmds : E .cmds := by assumption) (e_ecc : E .ecc := by assumption) (e_erq : E .erq := by assumption) (e_folded : E .folded := by assumption) (e_fresh : E .fresh := by assumption) (e_fwLog : E .fwLog := by assumption) (e_mem : E .mem := by assumption) (e_msixs : E .msixs := by assumption) (e_out : E .out := by assumption) (e_regs : E .regs := by assumption) (e_rseq : E .rseq := by assumption) : Kept E s0 (State.ringParts s id k cls) := by
  delta State.ringParts
  repeat' (first
    | (refine fun _ => ?_)
    | (with_reducible first | assumption | apply State.afterRun_kept | apply PartRun.ringItem_kept | apply PartRun.start_kept | apply kept_ite | apply kept_foldl | apply PartRun.foldl_kept)
    | (extract_lets +onlyGivenNames z
       first
         | (refine (show Kept E s0 z → _ from fun hz => ?_) ?_; clear_value z; rotate_left; dsimp only [z]; rotate_left)
         | (refine (show Kept E s0 z.s → _ from fun hz => ?_) ?_; clear_value z; rotate_left; dsimp only [z]; rotate_left)
         | clear_value z)
    | split
    | dsimp only)

theorem State.ringStep_kept (s : State) (c : Cmd) (k : Nat) (h0 : Kept E s0 s) (e_agents : E .agents := by assumption) (e_arch : E .arch := by assumption) (e_cmds : E .cmds := by assumption) (e_ctxs : E .ctxs := by assumption) (e_ecc : E .ecc := by assumption) (e_erq : E .erq := by assumption) (e_folded : E .folded := by assumption) (e_fresh : E .fresh := by assumption) (e_fwLog : E .fwLog := by assumption) (e_mem : E .mem := by assumption) (e_msixs : E .msixs := by assumption) (e_out : E .out := by assumption) (e_ports : E .ports := by assumption) (e_regs : E .regs := by assumption) (e_rseq : E .rseq := by assumption) : Kept E s0 (State.ringStep s c k) := by
  delta State.ringStep
  repeat' (first
    | (with_reducible first | assumption | apply State.ringAck_kept | apply State.ringParts_kept | apply State.ringPost_kept | apply State.setCmd_kept | apply kept_ite)
    | (extract_lets +onlyGivenNames z
       first
         | (refine (show Kept E s0 z → _ from fun hz => ?_) ?_; clear_value z; rotate_left; dsimp only [z]; rotate_left)
         | clear_value z)
    | split
    | dsimp only)

theorem execAttnRingStep_kept (q seq : Nat) (s : State) (h0 : Kept E s0 s) (e_agents : E .agents := by assumption) (e_arch : E .arch := by assumption) (e_cmds : E .cmds := by assumption) (e_ctxs : E .ctxs := by assumption) (e_ecc : E .ecc := by assumption) (e_erq : E .erq := by assumption) (e_folded : E .folded := by assumption) (e_fresh : E .fresh := by assumption) (e_fwLog : E .fwLog := by assumption) (e_mem : E .mem := by assumption) (e_msixs : E .msixs := by assumption) (e_out : E .out := by assumption) (e_ports : E .ports := by assumption) (e_regs : E .regs := by assumption) (e_rseq : E .rseq := by assumption) : ∃ t, execAttnRingStep q seq s = .next t ∧ Kept E s0 t := by
  refine ⟨_, rfl, ?_⟩
  repeat' (first
    | (refine fun _ => ?_)
    | (with_reducible first | assumption | apply State.failRing_kept | apply State.ringStep_kept | apply State.setCmd_kept | apply kept_ite)
    | (extract_lets +onlyGivenNames z
       first
         | (refine (show Kept E s0 z → _ from fun hz => ?_) ?_; clear_value z; rotate_left; dsimp only [z]; rotate_left)
         | (refine (show Kept E s0 z.1 → _ from fun hz => ?_) ?_; clear_value z; rotate_left; dsimp only [z]; rotate_left)
         | (refine (show Kept E s0 z.2.1 → _ from fun hz => ?_) ?_; clear_value z; rotate_left; dsimp only [z]; rotate_left)
         | (refine (show Kept E s0 z.2.2 → _ from fun hz => ?_) ?_; clear_value z; rotate_left; dsimp only [z]; rotate_left)
         | clear_value z)
    | split
    | dsimp only)

theorem State.linkEvent_kept (s : State) (p ackTx ackRx : Nat) (back : Bool) (h0 : Kept E s0 s) (e_erq : E .erq := by assumption) (e_folded : E .folded := by assumption) (e_fwLog : E .fwLog := by assumption) (e_msixs : E .msixs := by assumption) (e_out : E .out := by assumption) (e_regs : E .regs := by assumption) (e_rseq : E .rseq := by assumption) : Kept E s0 (State.linkEvent s p ackTx ackRx back) := by
  delta State.linkEvent
  repeat' (first
    | (refine fun _ => ?_)
    | (with_reducible first | assumption | apply State.raiseEvt_kept | apply State.record_kept | apply kept_foldl)
    | (extract_lets +onlyGivenNames z
       first
         | (refine (show Kept E s0 z → _ from fun hz => ?_) ?_; clear_value z; rotate_left; dsimp only [z]; rotate_left)
         | clear_value z)
    | dsimp only)

theorem State.setLost_kept (s : State) (p : Nat) (h0 : Kept E s0 s) (e_regs : E .regs := by assumption) : Kept E s0 (State.setLost s p) := by
  delta State.setLost
  repeat' (first
    | (refine fun _ => ?_)
    | (with_reducible first | assumption | apply State.setF_kept | apply kept_ite | apply kept_foldl)
    | split
    | dsimp only)

theorem State.loseLink_kept (s : State) (p : Nat) (h0 : Kept E s0 s) (e_arch : E .arch := by assumption) (e_cmds : E .cmds := by assumption) (e_ctxs : E .ctxs := by assumption) (e_ecc : E .ecc := by assumption) (e_erq : E .erq := by assumption) (e_folded : E .folded := by assumption) (e_fresh : E .fresh := by assumption) (e_fwLog : E .fwLog := by assumption) (e_mem : E .mem := by assumption) (e_msixs : E .msixs := by assumption) (e_out : E .out := by assumption) (e_ports : E .ports := by assumption) (e_regs : E .regs := by assumption) (e_rseq : E .rseq := by assumption) : Kept E s0 (State.loseLink s p) := by
  delta State.loseLink
  repeat' (first
    | (refine fun _ => ?_)
    | (with_reducible first | assumption | apply State.breakAt_kept | apply State.endZsend_kept | apply State.failRing_kept | apply State.linkEvent_kept | apply State.mapPort_kept | apply State.nextHop_kept | apply State.sendBare_kept | apply State.setArch_kept | apply State.setF_kept | apply State.setLost_kept | apply State.takeWack_kept | apply kept_ite | apply kept_foldl)
    | (extract_lets +onlyGivenNames z
       first
         | (refine (show Kept E s0 z → _ from fun hz => ?_) ?_; clear_value z; rotate_left; dsimp only [z]; rotate_left)
         | clear_value z)
    | split
    | dsimp only)

theorem execLinkLoss_kept (port : Nat) (announced : Bool) (s : State) (h0 : Kept E s0 s) (e_arch : E .arch := by assumption) (e_cmds : E .cmds := by assumption) (e_ctxs : E .ctxs := by assumption) (e_ecc : E .ecc := by assumption) (e_erq : E .erq := by assumption) (e_folded : E .folded := by assumption) (e_fresh : E .fresh := by assumption) (e_fwLog : E .fwLog := by assumption) (e_mem : E .mem := by assumption) (e_msixs : E .msixs := by assumption) (e_out : E .out := by assumption) (e_ports : E .ports := by assumption) (e_regs : E .regs := by assumption) (e_rseq : E .rseq := by assumption) : ∃ t, execLinkLoss port announced s = .next t ∧ Kept E s0 t := by
  refine ⟨_, rfl, ?_⟩
  repeat' (first
    | (refine fun _ => ?_)
    | (with_reducible first | assumption | apply State.loseLink_kept | apply kept_ite)
    | (extract_lets +onlyGivenNames z
       first
         | (refine (show Kept E s0 z → _ from fun hz => ?_) ?_; clear_value z; rotate_left; dsimp only [z]; rotate_left)
         | clear_value z)
    | split
    | dsimp only)

theorem State.fecCount_kept (s : State) (p sym unc : Nat) (h0 : Kept E s0 s) (e_regs : E .regs := by assumption) : Kept E s0 (State.fecCount s p sym unc) := by
  delta State.fecCount
  repeat' (first
    | (with_reducible first | assumption | apply State.bump_kept | apply State.bumpSat_kept)
    | dsimp only)

theorem State.openGap_kept (s : State) (p : Nat) (h0 : Kept E s0 s) (e_out : E .out := by assumption) (e_ports : E .ports := by assumption) : Kept E s0 (State.openGap s p) := by
  delta State.openGap
  repeat' (first
    | (refine fun _ => ?_)
    | (with_reducible first | assumption | apply State.mapPort_kept | apply State.sendBare_kept | apply kept_ite)
    | split
    | dsimp only)

theorem State.setWidth_kept (s : State) (p dgr : Nat) (h0 : Kept E s0 s) (e_regs : E .regs := by assumption) : Kept E s0 (State.setWidth s p dgr) := by
  delta State.setWidth
  repeat' (first
    | (with_reducible first | assumption | apply State.setF_kept)
    | dsimp only)

theorem State.widthAsked_kept (s : State) (p dgr : Nat) (h0 : Kept E s0 s) (e_out : E .out := by assumption) (e_ports : E .ports := by assumption) (e_regs : E .regs := by assumption) : Kept E s0 (State.widthAsked s p dgr) := by
  delta State.widthAsked
  repeat' (first
    | (with_reducible first | assumption | apply State.sendBare_kept | apply State.setWidth_kept | apply kept_ite)
    | split
    | dsimp only)

theorem State.takeHeader_kept (s : State) (p : Nat) (b : List Byte) (h0 : Kept E s0 s) (e_ports : E .ports := by assumption) : Kept E s0 (State.takeHeader s p b) := by
  delta State.takeHeader
  repeat' (first
    | (refine fun _ => ?_)
    | (with_reducible first | assumption | apply State.mapPort_kept | apply kept_ite)
    | (extract_lets +onlyGivenNames z
       first
         | (refine (show Kept E s0 z → _ from fun hz => ?_) ?_; clear_value z; rotate_left; dsimp only [z]; rotate_left)
         | clear_value z)
    | split
    | dsimp only)

theorem State.acceptData_kept (s : State) (p : Nat) (b : List Byte) (h0 : Kept E s0 s) (e_ports : E .ports := by assumption) : Kept E s0 (State.acceptData s p b) := by
  delta State.acceptData
  repeat' (first
    | (refine fun _ => ?_)
    | (with_reducible first | assumption | apply State.mapPort_kept)
    | (extract_lets +onlyGivenNames z
       first
         | (refine (show Kept E s0 z → _ from fun hz => ?_) ?_; clear_value z; rotate_left; dsimp only [z]; rotate_left)
         | clear_value z)
    | dsimp only)

theorem execFlitReceive_kept (port : Nat) (flit : List Byte) (fecBad : Bool) (sym unc : Nat) (s : State) (h0 : Kept E s0 s) (e_arch : E .arch := by assumption) (e_out : E .out := by assumption) (e_ports : E .ports := by assumption) (e_regs : E .regs := by assumption) : ∃ t, execFlitReceive port flit fecBad sym unc s = .next t ∧ Kept E s0 t := by
  refine ⟨_, rfl, ?_⟩
  repeat' (first
    | (refine fun _ => ?_)
    | (with_reducible first | assumption | apply State.acceptData_kept | apply State.bump_kept | apply State.fecCount_kept | apply State.openGap_kept | apply State.pump_kept | apply State.serve_kept | apply State.takeHeader_kept | apply State.widthAsked_kept | apply kept_ite)
    | (extract_lets +onlyGivenNames z
       first
         | (refine (show Kept E s0 z → _ from fun hz => ?_) ?_; clear_value z; rotate_left; dsimp only [z]; rotate_left)
         | clear_value z)
    | split
    | dsimp only)

theorem State.replay_kept (s : State) (p : Nat) (h0 : Kept E s0 s) (e_arch : E .arch := by assumption) (e_cmds : E .cmds := by assumption) (e_ctxs : E .ctxs := by assumption) (e_ecc : E .ecc := by assumption) (e_erq : E .erq := by assumption) (e_folded : E .folded := by assumption) (e_fresh : E .fresh := by assumption) (e_fwLog : E .fwLog := by assumption) (e_mem : E .mem := by assumption) (e_msixs : E .msixs := by assumption) (e_out : E .out := by assumption) (e_ports : E .ports := by assumption) (e_regs : E .regs := by assumption) (e_rseq : E .rseq := by assumption) : Kept E s0 (State.replay s p) := by
  delta State.replay
  repeat' (first
    | (refine fun _ => ?_)
    | (with_reducible first | assumption | apply State.bump_kept | apply State.emit_kept | apply State.loseLink_kept | apply State.setPort_kept | apply kept_ite | apply kept_foldl)
    | (extract_lets +onlyGivenNames z
       first
         | (refine (show Kept E s0 z → _ from fun hz => ?_) ?_; clear_value z; rotate_left; dsimp only [z]; rotate_left)
         | clear_value z)
    | split
    | dsimp only)

theorem execNak_kept (port : Nat) (flit : List Byte) (fecBad : Bool) (sym unc : Nat) (s : State) (h0 : Kept E s0 s) (e_arch : E .arch := by assumption) (e_cmds : E .cmds := by assumption) (e_ctxs : E .ctxs := by assumption) (e_ecc : E .ecc := by assumption) (e_erq : E .erq := by assumption) (e_folded : E .folded := by assumption) (e_fresh : E .fresh := by assumption) (e_fwLog : E .fwLog := by assumption) (e_mem : E .mem := by assumption) (e_msixs : E .msixs := by assumption) (e_out : E .out := by assumption) (e_ports : E .ports := by assumption) (e_regs : E .regs := by assumption) (e_rseq : E .rseq := by assumption) : ∃ t, execNak port flit fecBad sym unc s = .next t ∧ Kept E s0 t := by
  refine ⟨_, rfl, ?_⟩
  repeat' (first
    | (refine fun _ => ?_)
    | (with_reducible first | assumption | apply State.bump_kept | apply State.fecCount_kept | apply State.openGap_kept | apply State.pump_kept | apply State.replay_kept | apply State.takeHeader_kept | apply State.widthAsked_kept | apply kept_ite)
    | (extract_lets +onlyGivenNames z
       first
         | (refine (show Kept E s0 z → _ from fun hz => ?_) ?_; clear_value z; rotate_left; dsimp only [z]; rotate_left)
         | clear_value z)
    | split
    | dsimp only)

theorem execReplayTimeout_kept (port : Nat) (s : State) (h0 : Kept E s0 s) (e_arch : E .arch := by assumption) (e_cmds : E .cmds := by assumption) (e_ctxs : E .ctxs := by assumption) (e_ecc : E .ecc := by assumption) (e_erq : E .erq := by assumption) (e_folded : E .folded := by assumption) (e_fresh : E .fresh := by assumption) (e_fwLog : E .fwLog := by assumption) (e_mem : E .mem := by assumption) (e_msixs : E .msixs := by assumption) (e_out : E .out := by assumption) (e_ports : E .ports := by assumption) (e_regs : E .regs := by assumption) (e_rseq : E .rseq := by assumption) : ∃ t, execReplayTimeout port s = .next t ∧ Kept E s0 t := by
  refine ⟨_, rfl, ?_⟩
  repeat' (first
    | (refine fun _ => ?_)
    | (with_reducible first | assumption | apply State.replay_kept | apply kept_ite)
    | split
    | dsimp only)

theorem State.flushWacks_kept (s : State) (p : Nat) (h0 : Kept E s0 s) (e_arch : E .arch := by assumption) (e_out : E .out := by assumption) (e_ports : E .ports := by assumption) : Kept E s0 (State.flushWacks s p) := by
  delta State.flushWacks
  repeat' (first
    | (refine fun _ => ?_)
    | (with_reducible first | assumption | apply State.mapPort_kept | apply State.serve_kept)
    | (extract_lets +onlyGivenNames z
       first
         | (refine (show Kept E s0 z → _ from fun hz => ?_) ?_; clear_value z; rotate_left; dsimp only [z]; rotate_left)
         | clear_value z)
    | dsimp only)

theorem execWr_kept (port : Nat) (s : State) (h0 : Kept E s0 s) (e_arch : E .arch := by assumption) (e_erq : E .erq := by assumption) (e_folded : E .folded := by assumption) (e_fwLog : E .fwLog := by assumption) (e_msixs : E .msixs := by assumption) (e_out : E .out := by assumption) (e_ports : E .ports := by assumption) (e_regs : E .regs := by assumption) (e_rseq : E .rseq := by assumption) : ∃ t, execWr port s = .next t ∧ Kept E s0 t := by
  refine ⟨_, rfl, ?_⟩
  repeat' (first
    | (refine fun _ => ?_)
    | (with_reducible first | assumption | apply State.bumpSat_kept | apply State.flushWacks_kept | apply State.mapPort_kept | apply State.record_kept | apply kept_ite)
    | (extract_lets +onlyGivenNames z
       first
         | (refine (show Kept E s0 z → _ from fun hz => ?_) ?_; clear_value z; rotate_left; dsimp only [z]; rotate_left)
         | clear_value z)
    | split
    | dsimp only)

theorem execWrPerformed_kept (port wid : Nat) (s : State) (h0 : Kept E s0 s) (e_arch : E .arch := by assumption) (e_cmds : E .cmds := by assumption) (e_ecc : E .ecc := by assumption) (e_erq : E .erq := by assumption) (e_folded : E .folded := by assumption) (e_fresh : E .fresh := by assumption) (e_fwLog : E .fwLog := by assumption) (e_mem : E .mem := by assumption) (e_msixs : E .msixs := by assumption) (e_out : E .out := by assumption) (e_ports : E .ports := by assumption) (e_regs : E .regs := by assumption) (e_rseq : E .rseq := by assumption) (e_streams : E .streams := by assumption) : ∃ t, execWrPerformed port wid s = .next t ∧ Kept E s0 t := by
  refine ⟨_, rfl, ?_⟩
  repeat' (first
    | (refine fun _ => ?_)
    | (with_reducible first | assumption | apply State.bump_kept | apply State.flushWacks_kept | apply State.latchWaits_kept | apply State.mapPort_kept | apply State.poisonBytes_kept | apply State.writeBytes_kept | apply kept_ite)
    | (extract_lets +onlyGivenNames z
       first
         | (refine (show Kept E s0 z → _ from fun hz => ?_) ?_; clear_value z; rotate_left; dsimp only [z]; rotate_left)
         | clear_value z)
    | split
    | dsimp only)

theorem execWack_kept (port : Nat) (s : State) (h0 : Kept E s0 s) (e_arch : E .arch := by assumption) (e_cmds : E .cmds := by assumption) (e_ctxs : E .ctxs := by assumption) (e_ecc : E .ecc := by assumption) (e_erq : E .erq := by assumption) (e_folded : E .folded := by assumption) (e_fresh : E .fresh := by assumption) (e_fwLog : E .fwLog := by assumption) (e_mem : E .mem := by assumption) (e_msixs : E .msixs := by assumption) (e_out : E .out := by assumption) (e_ports : E .ports := by assumption) (e_regs : E .regs := by assumption) (e_rseq : E .rseq := by assumption) : ∃ t, execWack port s = .next t ∧ Kept E s0 t := by
  refine ⟨_, rfl, ?_⟩
  repeat' (first
    | (refine fun _ => ?_)
    | (with_reducible first | assumption | apply State.serve_kept | apply State.takeWack_kept | apply kept_ite)
    | split
    | dsimp only)

theorem execLaneFault_kept (port lane : Nat) (s : State) (h0 : Kept E s0 s) (e_arch : E .arch := by assumption) (e_cmds : E .cmds := by assumption) (e_ctxs : E .ctxs := by assumption) (e_ecc : E .ecc := by assumption) (e_erq : E .erq := by assumption) (e_folded : E .folded := by assumption) (e_fresh : E .fresh := by assumption) (e_fwLog : E .fwLog := by assumption) (e_mem : E .mem := by assumption) (e_msixs : E .msixs := by assumption) (e_out : E .out := by assumption) (e_ports : E .ports := by assumption) (e_regs : E .regs := by assumption) (e_rseq : E .rseq := by assumption) : ∃ t, execLaneFault port lane s = .next t ∧ Kept E s0 t := by
  refine ⟨_, rfl, ?_⟩
  repeat' (first
    | (refine fun _ => ?_)
    | (with_reducible first | assumption | apply State.loseLink_kept | apply State.mapPort_kept | apply State.record_kept | apply State.sendBare_kept | apply State.setF_kept | apply kept_ite)
    | (extract_lets +onlyGivenNames z
       first
         | (refine (show Kept E s0 z → _ from fun hz => ?_) ?_; clear_value z; rotate_left; dsimp only [z]; rotate_left)
         | clear_value z)
    | split
    | dsimp only)

theorem execWidthChange_kept (port : Nat) (flit : List Byte) (fecBad : Bool) (sym unc : Nat) (s : State) (h0 : Kept E s0 s) (e_out : E .out := by assumption) (e_ports : E .ports := by assumption) (e_regs : E .regs := by assumption) : ∃ t, execWidthChange port flit fecBad sym unc s = .next t ∧ Kept E s0 t := by
  refine ⟨_, rfl, ?_⟩
  repeat' (first
    | (refine fun _ => ?_)
    | (with_reducible first | assumption | apply State.bump_kept | apply State.fecCount_kept | apply State.mapPort_kept | apply State.openGap_kept | apply State.setWidth_kept | apply State.takeHeader_kept | apply State.widthAsked_kept | apply kept_ite)
    | (extract_lets +onlyGivenNames z
       first
         | (refine (show Kept E s0 z → _ from fun hz => ?_) ?_; clear_value z; rotate_left; dsimp only [z]; rotate_left)
         | clear_value z)
    | split
    | dsimp only)

theorem execTrainingStepTimeout_kept (port _step : Nat) (s : State) (h0 : Kept E s0 s) (e_ports : E .ports := by assumption) : ∃ t, execTrainingStepTimeout port _step s = .next t ∧ Kept E s0 t := by
  refine ⟨_, rfl, ?_⟩
  repeat' (first
    | (refine fun _ => ?_)
    | (with_reducible first | assumption | apply State.mapPort_kept | apply kept_ite)
    | split
    | dsimp only)

theorem State.linkUp_kept (s : State) (p serial peer evt faulty : Nat) (rev : Bool) (pol : Nat) (h0 : Kept E s0 s) (e_arch : E .arch := by assumption) (e_erq : E .erq := by assumption) (e_folded : E .folded := by assumption) (e_fwLog : E .fwLog := by assumption) (e_msixs : E .msixs := by assumption) (e_out : E .out := by assumption) (e_ports : E .ports := by assumption) (e_regs : E .regs := by assumption) (e_rseq : E .rseq := by assumption) : Kept E s0 (State.linkUp s p serial peer evt faulty rev pol) := by
  delta State.linkUp
  repeat' (first
    | (refine fun _ => ?_)
    | (with_reducible first | assumption | apply State.linkEvent_kept | apply State.record_kept | apply State.sendSb_kept | apply State.setArch_kept | apply State.setF_kept | apply State.setPort_kept | apply State.setWidth_kept | apply kept_ite)
    | (extract_lets +onlyGivenNames z
       first
         | (refine (show Kept E s0 z → _ from fun hz => ?_) ?_; clear_value z; rotate_left; dsimp only [z]; rotate_left)
         | clear_value z)
    | split
    | dsimp only)

theorem execLinkUp_kept (port serial peer role reach evt faulty : Nat) (rev : Bool) (pol : Nat) (s : State) (h0 : Kept E s0 s) (e_arch : E .arch := by assumption) (e_erq : E .erq := by assumption) (e_folded : E .folded := by assumption) (e_fwLog : E .fwLog := by assumption) (e_msixs : E .msixs := by assumption) (e_out : E .out := by assumption) (e_ports : E .ports := by assumption) (e_regs : E .regs := by assumption) (e_rseq : E .rseq := by assumption) : ∃ t, execLinkUp port serial peer role reach evt faulty rev pol s = .next t ∧ Kept E s0 t := by
  refine ⟨_, rfl, ?_⟩
  repeat' (first
    | (refine fun _ => ?_)
    | (with_reducible first | assumption | apply State.linkUp_kept | apply kept_ite)
    | split
    | dsimp only)

theorem execRetrainLimit_kept (port : Nat) (s : State) (h0 : Kept E s0 s) (e_regs : E .regs := by assumption) : ∃ t, execRetrainLimit port s = .next t ∧ Kept E s0 t := by
  refine ⟨_, rfl, ?_⟩
  repeat' (first
    | (refine fun _ => ?_)
    | (with_reducible first | assumption | apply State.setF_kept | apply kept_ite)
    | (extract_lets +onlyGivenNames z
       first
         | (refine (show Kept E s0 z → _ from fun hz => ?_) ?_; clear_value z; rotate_left; dsimp only [z]; rotate_left)
         | clear_value z)
    | split
    | dsimp only)

theorem execRetrain_kept (acr : Acr) (port v : Nat) (s : State) (h0 : Kept E s0 s) (e_arch : E .arch := by assumption) (e_cmds : E .cmds := by assumption) (e_ctxs : E .ctxs := by assumption) (e_ecc : E .ecc := by assumption) (e_erq : E .erq := by assumption) (e_folded : E .folded := by assumption) (e_fresh : E .fresh := by assumption) (e_fwLog : E .fwLog := by assumption) (e_mem : E .mem := by assumption) (e_msixs : E .msixs := by assumption) (e_out : E .out := by assumption) (e_ports : E .ports := by assumption) (e_regs : E .regs := by assumption) (e_rseq : E .rseq := by assumption) : ∃ t, execRetrain acr port v s = .next t ∧ Kept E s0 t := by
  refine ⟨_, rfl, ?_⟩
  repeat' (first
    | (refine fun _ => ?_)
    | (with_reducible first | assumption | apply State.forDevice_kept | apply State.loseLink_kept | apply State.mapPort_kept | apply State.setF_kept | apply kept_ite)
    | (extract_lets +onlyGivenNames z
       first
         | (refine (show Kept E s0 z → _ from fun hz => ?_) ?_; clear_value z; rotate_left; dsimp only [z]; rotate_left)
         | clear_value z)
    | split
    | dsimp only)

theorem execEyeScan_kept (acr : Acr) (v : Nat) (s : State) (h0 : Kept E s0 s) (e_msixs : E .msixs := by assumption) (e_out : E .out := by assumption) (e_regs : E .regs := by assumption) : ∃ t, execEyeScan acr v s = .next t ∧ Kept E s0 t := by
  refine ⟨_, rfl, ?_⟩
  repeat' (first
    | (refine fun _ => ?_)
    | (with_reducible first | assumption | apply State.forDevice_kept | apply State.setF_kept | apply kept_ite)
    | (extract_lets +onlyGivenNames z
       first
         | (refine (show Kept E s0 z → _ from fun hz => ?_) ?_; clear_value z; rotate_left; dsimp only [z]; rotate_left)
         | clear_value z)
    | split
    | dsimp only)

theorem execEyeScanComplete_kept (height width : Nat) (s : State) (h0 : Kept E s0 s) (e_regs : E .regs := by assumption) : ∃ t, execEyeScanComplete height width s = .next t ∧ Kept E s0 t := by
  refine ⟨_, rfl, ?_⟩
  repeat' (first
    | (refine fun _ => ?_)
    | (with_reducible first | assumption | apply State.setF_kept | apply kept_ite)
    | split
    | dsimp only)

end Sys2Proof.Machine
end

