-- ==== Sys2Proof/Laws/KeptPower.lean ====
section
/-!
SUPPORT. Laws/KeptPower.lean: the operations of Machine/Power.lean change neither the queue nor the canonical forms.
-/
namespace Sys2Proof.Machine

set_option Elab.async false
set_option linter.all false

variable {E : Comp → Prop} {s0 : State}

theorem State.setSeqr_kept (s : State) (q : Sequencer) (h0 : Kept E s0 s) (e_seqr : E .seqr := by assumption) : Kept E s0 (State.setSeqr s q) := by
  delta State.setSeqr
  repeat' (first
    | (with_reducible first | assumption)
    | simp only [kept_seqr e_seqr]
    | dsimp only)

theorem State.runPhases_kept (s : State) (up : Bool) (h0 : Kept E s0 s) (e_regs : E .regs := by assumption) (e_seqr : E .seqr := by assumption) : Kept E s0 (State.runPhases s up) := by
  delta State.runPhases
  repeat' (first
    | (with_reducible first | assumption | apply State.setF_kept | apply State.setSeqr_kept | apply kept_ite)
    | split
    | dsimp only)

theorem State.requestPower_kept (s : State) (on : Bool) (src : Nat) (h0 : Kept E s0 s) (e_regs : E .regs := by assumption) (e_seqr : E .seqr := by assumption) : Kept E s0 (State.requestPower s on src) := by
  delta State.requestPower
  repeat' (first
    | (with_reducible first | assumption | apply State.runPhases_kept | apply State.setF_kept | apply State.setSeqr_kept | apply kept_ite)
    | (extract_lets +onlyGivenNames z
       first
         | (refine (show Kept E s0 z → _ from fun hz => ?_) ?_; clear_value z; rotate_left; dsimp only [z]; rotate_left)
         | clear_value z)
    | split
    | dsimp only)

theorem State.setPower_kept (s : State) (p : Power) (h0 : Kept E s0 s) (e_power : E .power := by assumption) : Kept E s0 (State.setPower s p) := by
  delta State.setPower
  repeat' (first
    | (with_reducible first | assumption)
    | simp only [kept_power e_power]
    | dsimp only)

theorem State.setReason_kept (s : State) (n : Nat) (b : Bool) (h0 : Kept E s0 s) (e_regs : E .regs := by assumption) : Kept E s0 (State.setReason s n b) := by
  delta State.setReason
  repeat' (first
    | (with_reducible first | assumption | apply State.setF_kept | apply kept_ite)
    | (extract_lets +onlyGivenNames z
       first
         | (refine (show Kept E s0 z → _ from fun hz => ?_) ?_; clear_value z; rotate_left; dsimp only [z]; rotate_left)
         | clear_value z)
    | split
    | dsimp only)

theorem State.applyFreq_kept (s : State) (i f : Nat) (h0 : Kept E s0 s) (e_power : E .power := by assumption) (e_regs : E .regs := by assumption) : Kept E s0 (State.applyFreq s i f) := by
  delta State.applyFreq
  repeat' (first
    | (refine fun _ => ?_)
    | (with_reducible first | assumption | apply State.setF_kept | apply State.setPower_kept | apply kept_ite)
    | (extract_lets +onlyGivenNames z
       first
         | (refine (show Kept E s0 z → _ from fun hz => ?_) ?_; clear_value z; rotate_left; dsimp only [z]; rotate_left)
         | clear_value z)
    | split
    | dsimp only)

theorem execClockSwitch_kept (island : Nat) (s : State) (h0 : Kept E s0 s) (e_power : E .power := by assumption) (e_regs : E .regs := by assumption) : ∃ t, execClockSwitch island s = .next t ∧ Kept E s0 t := by
  refine ⟨_, rfl, ?_⟩
  repeat' (first
    | (refine fun _ => ?_)
    | (with_reducible first | assumption | apply State.setF_kept | apply State.setPower_kept | apply kept_ite)
    | (extract_lets +onlyGivenNames z
       first
         | (refine (show Kept E s0 z → _ from fun hz => ?_) ?_; clear_value z; rotate_left; dsimp only [z]; rotate_left)
         | clear_value z)
    | split
    | dsimp only)

theorem State.learn_kept (s : State) (key : List Byte) (x : Nat) (h0 : Kept E s0 s) (e_power : E .power := by assumption) : Kept E s0 (State.learn s key x) := by
  delta State.learn
  repeat' (first
    | (refine fun _ => ?_)
    | (with_reducible first | assumption | apply State.setPower_kept)
    | (extract_lets +onlyGivenNames z
       first
         | (refine (show Kept E s0 z → _ from fun hz => ?_) ?_; clear_value z; rotate_left; dsimp only [z]; rotate_left)
         | clear_value z)
    | dsimp only)

theorem State.limitCurrent_kept (s : State) (i amps : Nat) (h0 : Kept E s0 s) (e_power : E .power := by assumption) : Kept E s0 (State.limitCurrent s i amps) := by
  delta State.limitCurrent
  repeat' (first
    | (with_reducible first | assumption | apply State.setPower_kept | apply kept_ite)
    | split
    | dsimp only)

theorem State.control_kept (s : State) (harbour : Nat) (leak : List Nat) (h0 : Kept E s0 s) (e_power : E .power := by assumption) (e_regs : E .regs := by assumption) : Kept E s0 (State.control s harbour leak) := by
  delta State.control
  repeat' (first
    | (refine fun _ => ?_)
    | (with_reducible first | assumption | apply State.applyFreq_kept | apply State.setPower_kept | apply State.setReason_kept | apply kept_foldl)
    | (extract_lets +onlyGivenNames z
       first
         | (refine (show Kept E s0 z → _ from fun hz => ?_) ?_; clear_value z; rotate_left; dsimp only [z]; rotate_left)
         | clear_value z)
    | dsimp only)

theorem execPowerControlStep_kept (harbour : Nat) (leak amps : List Nat) (done : List (List Byte × Nat)) (pkgw mj : Nat) (s : State) (h0 : Kept E s0 s) (e_power : E .power := by assumption) (e_regs : E .regs := by assumption) : ∃ t, execPowerControlStep harbour leak amps done pkgw mj s = .next t ∧ Kept E s0 t := by
  refine ⟨_, rfl, ?_⟩
  repeat' (first
    | (refine fun _ => ?_)
    | (with_reducible first | assumption | apply State.bump_kept | apply State.control_kept | apply State.learn_kept | apply State.limitCurrent_kept | apply State.setF_kept | apply kept_ite | apply kept_foldl)
    | (extract_lets +onlyGivenNames z
       first
         | (refine (show Kept E s0 z → _ from fun hz => ?_) ?_; clear_value z; rotate_left; dsimp only [z]; rotate_left)
         | (refine (show Kept E s0 z.1 → _ from fun hz => ?_) ?_; clear_value z; rotate_left; dsimp only [z]; rotate_left)
         | (refine (show Kept E s0 z.2.1 → _ from fun hz => ?_) ?_; clear_value z; rotate_left; dsimp only [z]; rotate_left)
         | (refine (show Kept E s0 z.2.2 → _ from fun hz => ?_) ?_; clear_value z; rotate_left; dsimp only [z]; rotate_left)
         | clear_value z)
    | split
    | dsimp only)

theorem execCurrentTrip_kept (island : Nat) (s : State) (h0 : Kept E s0 s) (e_power : E .power := by assumption) (e_regs : E .regs := by assumption) : ∃ t, execCurrentTrip island s = .next t ∧ Kept E s0 t := by
  refine ⟨_, rfl, ?_⟩
  repeat' (first
    | (refine fun _ => ?_)
    | (with_reducible first | assumption | apply State.setPower_kept | apply State.setReason_kept | apply kept_ite)
    | split
    | dsimp only)

theorem execExtthrNFall_kept (s : State) (h0 : Kept E s0 s) (e_pins : E .pins := by assumption) (e_power : E .power := by assumption) (e_regs : E .regs := by assumption) : ∃ t, execExtthrNFall s = .next t ∧ Kept E s0 t := by
  refine ⟨_, rfl, ?_⟩
  repeat' (first
    | (refine fun _ => ?_)
    | (with_reducible first | assumption | apply State.applyFreq_kept | apply State.setReason_kept | apply kept_foldl)
    | simp only [kept_pins e_pins]
    | (extract_lets +onlyGivenNames z
       first
         | (refine (show Kept E s0 z → _ from fun hz => ?_) ?_; clear_value z; rotate_left; dsimp only [z]; rotate_left)
         | clear_value z)
    | dsimp only)

theorem execExtthrRelease_kept (s : State) (h0 : Kept E s0 s) (e_pins : E .pins := by assumption) (e_regs : E .regs := by assumption) : ∃ t, execExtthrRelease s = .next t ∧ Kept E s0 t := by
  refine ⟨_, rfl, ?_⟩
  repeat' (first
    | (refine fun _ => ?_)
    | (with_reducible first | assumption | apply State.setReason_kept)
    | simp only [kept_pins e_pins]
    | dsimp only)

theorem State.thermStep_kept (s : State) (i : Nat) (tj : Int) (h0 : Kept E s0 s) (e_power : E .power := by assumption) (e_regs : E .regs := by assumption) : Kept E s0 (State.thermStep s i tj) := by
  delta State.thermStep
  repeat' (first
    | (with_reducible first | assumption | apply State.applyFreq_kept | apply State.setF_kept | apply State.setPower_kept | apply kept_ite)
    | (extract_lets +onlyGivenNames z
       first
         | (refine (show Kept E s0 z → _ from fun hz => ?_) ?_; clear_value z; rotate_left; dsimp only [z]; rotate_left)
         | clear_value z)
    | split
    | dsimp only)

theorem execSensorRead_kept (readings : List Int) (s : State) (h0 : Kept E s0 s) (e_agents : E .agents := by assumption) (e_cmds : E .cmds := by assumption) (e_erq : E .erq := by assumption) (e_fences : E .fences := by assumption) (e_flash : E .flash := by assumption) (e_folded : E .folded := by assumption) (e_fwLog : E .fwLog := by assumption) (e_handling : E .handling := by assumption) (e_msixs : E .msixs := by assumption) (e_out : E .out := by assumption) (e_pins : E .pins := by assumption) (e_power : E .power := by assumption) (e_regs : E .regs := by assumption) (e_rseq : E .rseq := by assumption) (e_seqr : E .seqr := by assumption) (e_streams : E .streams := by assumption) : ∃ t, execSensorRead readings s = .next t ∧ Kept E s0 t := by
  refine ⟨_, rfl, ?_⟩
  repeat' (first
    | (refine fun _ => ?_)
    | (with_reducible first | assumption | apply State.emit_kept | apply State.fatal_kept | apply State.requestPower_kept | apply State.setPower_kept | apply State.setReason_kept | apply State.thermStep_kept | apply kept_ite | apply kept_foldl)
    | simp only [kept_pins e_pins]
    | (extract_lets +onlyGivenNames z
       first
         | (refine (show Kept E s0 z → _ from fun hz => ?_) ?_; clear_value z; rotate_left; dsimp only [z]; rotate_left)
         | clear_value z)
    | split
    | dsimp only)

theorem execSlopeTick_kept (work : List (Nat × Nat)) (s : State) (h0 : Kept E s0 s) (e_clusters : E .clusters := by assumption) (e_regs : E .regs := by assumption) : ∃ t, execSlopeTick work s = .next t ∧ Kept E s0 t := by
  refine ⟨_, rfl, ?_⟩
  repeat' (first
    | (refine fun _ => ?_)
    | (with_reducible first | assumption | apply State.setCluster_kept | apply State.setReason_kept | apply kept_foldl)
    | (extract_lets +onlyGivenNames z
       first
         | (refine (show Kept E s0 z → _ from fun hz => ?_) ?_; clear_value z; rotate_left; dsimp only [z]; rotate_left)
         | (refine (show Kept E s0 z.1 → _ from fun hz => ?_) ?_; clear_value z; rotate_left; dsimp only [z]; rotate_left)
         | (refine (show Kept E s0 z.2.1 → _ from fun hz => ?_) ?_; clear_value z; rotate_left; dsimp only [z]; rotate_left)
         | (refine (show Kept E s0 z.2.2 → _ from fun hz => ?_) ?_; clear_value z; rotate_left; dsimp only [z]; rotate_left)
         | clear_value z)
    | dsimp only)

theorem execPwrCap_kept (acr : Acr) (v : Nat) (s : State) (h0 : Kept E s0 s) (e_msixs : E .msixs := by assumption) (e_out : E .out := by assumption) (e_regs : E .regs := by assumption) : ∃ t, execPwrCap acr v s = .next t ∧ Kept E s0 t := by
  refine ⟨_, rfl, ?_⟩
  repeat' (first
    | (refine fun _ => ?_)
    | (with_reducible first | assumption | apply State.forDevice_kept | apply State.setF_kept)
    | dsimp only)

end Sys2Proof.Machine
end

