-- ==== Sys2Proof/Laws/KeptArch.lean ====
section
/-!
SUPPORT. Laws/KeptArch.lean: the operations of Machine/Arch.lean change neither the queue nor the canonical forms.
-/
namespace Sys2Proof.Machine

set_option Elab.async false
set_option linter.all false

variable {E : Comp → Prop} {s0 : State}

theorem State.archState_kept (s : State) (st status : Nat) (h0 : Kept E s0 s) (e_regs : E .regs := by assumption) : Kept E s0 (State.archState s st status) := by
  delta State.archState
  repeat' (first
    | (with_reducible first | assumption | apply State.setF_kept)
    | dsimp only)

theorem State.startForm_kept (s : State) (h0 : Kept E s0 s) (e_arch : E .arch := by assumption) (e_regs : E .regs := by assumption) : Kept E s0 (State.startForm s) := by
  delta State.startForm
  repeat' (first
    | (with_reducible first | assumption | apply State.archState_kept | apply State.setArch_kept | apply State.setF_kept)
    | (extract_lets +onlyGivenNames z
       first
         | (refine (show Kept E s0 z → _ from fun hz => ?_) ?_; clear_value z; rotate_left; dsimp only [z]; rotate_left)
         | clear_value z)
    | dsimp only)

theorem execForm_kept (acr : Acr) (v : Nat) (s : State) (h0 : Kept E s0 s) (e_arch : E .arch := by assumption) (e_msixs : E .msixs := by assumption) (e_out : E .out := by assumption) (e_regs : E .regs := by assumption) : ∃ t, execForm acr v s = .next t ∧ Kept E s0 t := by
  refine ⟨_, rfl, ?_⟩
  repeat' (first
    | (refine fun _ => ?_)
    | (with_reducible first | assumption | apply State.forDevice_kept | apply State.setF_kept | apply State.startForm_kept | apply kept_ite)
    | split
    | dsimp only)

theorem execElectionTick_kept (s : State) (h0 : Kept E s0 s) (e_arch : E .arch := by assumption) (e_out : E .out := by assumption) (e_ports : E .ports := by assumption) : ∃ t, execElectionTick s = .next t ∧ Kept E s0 t := by
  refine ⟨_, rfl, ?_⟩
  repeat' (first
    | (refine fun _ => ?_)
    | (with_reducible first | assumption | apply State.sendSb_kept | apply kept_ite | apply kept_foldl)
    | split
    | dsimp only)

theorem execElect_kept (port : Nat) (s : State) (h0 : Kept E s0 s) (e_arch : E .arch := by assumption) (e_out : E .out := by assumption) (e_ports : E .ports := by assumption) (e_regs : E .regs := by assumption) : ∃ t, execElect port s = .next t ∧ Kept E s0 t := by
  refine ⟨_, rfl, ?_⟩
  repeat' (first
    | (refine fun _ => ?_)
    | (with_reducible first | assumption | apply State.setArch_kept | apply State.startForm_kept | apply kept_ite)
    | with_reducible refine State.takeSb_kept (by with_reducible assumption) ?_
    | (extract_lets +onlyGivenNames z
       first
         | (refine (show Kept E s0 z → _ from fun hz => ?_) ?_; clear_value z; rotate_left; dsimp only [z]; rotate_left)
         | clear_value z)
    | split
    | dsimp only)

theorem execElectionEnd_kept (s : State) (h0 : Kept E s0 s) (e_arch : E .arch := by assumption) (e_out : E .out := by assumption) (e_ports : E .ports := by assumption) (e_regs : E .regs := by assumption) : ∃ t, execElectionEnd s = .next t ∧ Kept E s0 t := by
  refine ⟨_, rfl, ?_⟩
  repeat' (first
    | (refine fun _ => ?_)
    | (with_reducible first | assumption | apply State.archState_kept | apply State.sendSb_kept | apply State.setArch_kept | apply State.setF_kept | apply kept_ite | apply kept_foldl)
    | (extract_lets +onlyGivenNames z
       first
         | (refine (show Kept E s0 z → _ from fun hz => ?_) ?_; clear_value z; rotate_left; dsimp only [z]; rotate_left)
         | clear_value z)
    | split
    | dsimp only)

theorem State.sendNumber_kept (s : State) (p num formno : Nat) (h0 : Kept E s0 s) (e_arch : E .arch := by assumption) (e_out : E .out := by assumption) (e_ports : E .ports := by assumption) : Kept E s0 (State.sendNumber s p num formno) := by
  delta State.sendNumber
  repeat' (first
    | (with_reducible first | assumption | apply State.sendSb_kept)
    | dsimp only)

theorem State.setNumber_kept (s : State) (num n formno : Nat) (h0 : Kept E s0 s) (e_arch : E .arch := by assumption) (e_regs : E .regs := by assumption) : Kept E s0 (State.setNumber s num n formno) := by
  delta State.setNumber
  repeat' (first
    | (with_reducible first | assumption | apply State.archState_kept | apply State.setArch_kept | apply State.setF_kept)
    | (extract_lets +onlyGivenNames z
       first
         | (refine (show Kept E s0 z → _ from fun hz => ?_) ?_; clear_value z; rotate_left; dsimp only [z]; rotate_left)
         | clear_value z)
    | dsimp only)

theorem State.number_kept (s : State) (me : Nat) (m : TopoMap) (h0 : Kept E s0 s) (e_arch : E .arch := by assumption) (e_out : E .out := by assumption) (e_ports : E .ports := by assumption) (e_regs : E .regs := by assumption) : Kept E s0 (State.number s me m) := by
  delta State.number
  repeat' (first
    | (refine fun _ => ?_)
    | (with_reducible first | assumption | apply State.sendNumber_kept | apply State.setArch_kept | apply State.setNumber_kept | apply kept_ite | apply kept_foldl)
    | (extract_lets +onlyGivenNames z
       first
         | (refine (show Kept E s0 z → _ from fun hz => ?_) ?_; clear_value z; rotate_left; dsimp only [z]; rotate_left)
         | (refine (show Kept E s0 z.1 → _ from fun hz => ?_) ?_; clear_value z; rotate_left; dsimp only [z]; rotate_left)
         | (refine (show Kept E s0 z.2.1 → _ from fun hz => ?_) ?_; clear_value z; rotate_left; dsimp only [z]; rotate_left)
         | (refine (show Kept E s0 z.2.2 → _ from fun hz => ?_) ?_; clear_value z; rotate_left; dsimp only [z]; rotate_left)
         | clear_value z)
    | split
    | dsimp only)

theorem State.alignChildren_kept (s : State) (h0 : Kept E s0 s) (e_arch : E .arch := by assumption) (e_out : E .out := by assumption) (e_ports : E .ports := by assumption) (e_regs : E .regs := by assumption) : Kept E s0 (State.alignChildren s) := by
  delta State.alignChildren
  repeat' (first
    | (refine fun _ => ?_)
    | (with_reducible first | assumption | apply State.nextHop_kept | apply State.setArch_kept)
    | (extract_lets +onlyGivenNames z
       first
         | (refine (show Kept E s0 z → _ from fun hz => ?_) ?_; clear_value z; rotate_left; dsimp only [z]; rotate_left)
         | (refine (show Kept E s0 z.1 → _ from fun hz => ?_) ?_; clear_value z; rotate_left; dsimp only [z]; rotate_left)
         | clear_value z)
    | dsimp only)

theorem State.toChildren_kept (s : State) (kind body : Nat) (h0 : Kept E s0 s) (e_arch : E .arch := by assumption) (e_out : E .out := by assumption) (e_ports : E .ports := by assumption) : Kept E s0 (State.toChildren s kind body) := by
  delta State.toChildren
  repeat' (first
    | (refine fun _ => ?_)
    | (with_reducible first | assumption | apply State.sendSb_kept | apply kept_foldl)
    | dsimp only)

theorem State.startSweep_kept (s : State) (h0 : Kept E s0 s) (e_arch : E .arch := by assumption) (e_out : E .out := by assumption) (e_ports : E .ports := by assumption) (e_regs : E .regs := by assumption) : Kept E s0 (State.startSweep s) := by
  delta State.startSweep
  repeat' (first
    | (with_reducible first | assumption | apply State.alignChildren_kept | apply State.setArch_kept | apply State.setF_kept | apply State.toChildren_kept | apply kept_ite)
    | (extract_lets +onlyGivenNames z
       first
         | (refine (show Kept E s0 z → _ from fun hz => ?_) ?_; clear_value z; rotate_left; dsimp only [z]; rotate_left)
         | clear_value z)
    | split
    | dsimp only)

theorem execTmbCtlSweep_kept (acr : Acr) (v : Nat) (s : State) (h0 : Kept E s0 s) (e_arch : E .arch := by assumption) (e_msixs : E .msixs := by assumption) (e_out : E .out := by assumption) (e_ports : E .ports := by assumption) (e_regs : E .regs := by assumption) : ∃ t, execTmbCtlSweep acr v s = .next t ∧ Kept E s0 t := by
  refine ⟨_, rfl, ?_⟩
  repeat' (first
    | (refine fun _ => ?_)
    | (with_reducible first | assumption | apply State.forDevice_kept | apply State.setF_kept | apply State.startSweep_kept | apply kept_ite)
    | split
    | dsimp only)

theorem execTopo_kept (port : Nat) (map : Option (Nat × List (Nat × List (Nat × Nat)))) (s : State) (h0 : Kept E s0 s) (e_arch : E .arch := by assumption) (e_out : E .out := by assumption) (e_ports : E .ports := by assumption) (e_regs : E .regs := by assumption) : ∃ t, execTopo port map s = .next t ∧ Kept E s0 t := by
  refine ⟨_, rfl, ?_⟩
  repeat' (first
    | (refine fun _ => ?_)
    | (with_reducible first | assumption | apply State.archState_kept | apply State.forwardSb_kept | apply State.number_kept | apply State.setArch_kept | apply State.startSweep_kept | apply kept_ite)
    | with_reducible refine State.takeSb_kept (by with_reducible assumption) ?_
    | (extract_lets +onlyGivenNames z
       first
         | (refine (show Kept E s0 z → _ from fun hz => ?_) ?_; clear_value z; rotate_left; dsimp only [z]; rotate_left)
         | (refine (show Kept E s0 z.1 → _ from fun hz => ?_) ?_; clear_value z; rotate_left; dsimp only [z]; rotate_left)
         | clear_value z)
    | split
    | dsimp only)

theorem execNumber_kept (port : Nat) (child : Option Nat) (s : State) (h0 : Kept E s0 s) (e_arch : E .arch := by assumption) (e_out : E .out := by assumption) (e_ports : E .ports := by assumption) (e_regs : E .regs := by assumption) : ∃ t, execNumber port child s = .next t ∧ Kept E s0 t := by
  refine ⟨_, rfl, ?_⟩
  repeat' (first
    | (refine fun _ => ?_)
    | (with_reducible first | assumption | apply State.forwardSb_kept | apply State.sendSb_kept | apply State.setNumber_kept | apply kept_ite)
    | with_reducible refine State.takeSb_kept (by with_reducible assumption) ?_
    | (extract_lets +onlyGivenNames z
       first
         | (refine (show Kept E s0 z → _ from fun hz => ?_) ?_; clear_value z; rotate_left; dsimp only [z]; rotate_left)
         | clear_value z)
    | split
    | dsimp only)

theorem execFormed_kept (port : Nat) (s : State) (h0 : Kept E s0 s) (e_arch : E .arch := by assumption) (e_out : E .out := by assumption) (e_ports : E .ports := by assumption) (e_regs : E .regs := by assumption) : ∃ t, execFormed port s = .next t ∧ Kept E s0 t := by
  refine ⟨_, rfl, ?_⟩
  repeat' (first
    | (refine fun _ => ?_)
    | (with_reducible first | assumption | apply State.forwardSb_kept | apply State.setArch_kept | apply State.startSweep_kept | apply kept_ite)
    | with_reducible refine State.takeSb_kept (by with_reducible assumption) ?_
    | (extract_lets +onlyGivenNames z
       first
         | (refine (show Kept E s0 z → _ from fun hz => ?_) ?_; clear_value z; rotate_left; dsimp only [z]; rotate_left)
         | (refine (show Kept E s0 z.1 → _ from fun hz => ?_) ?_; clear_value z; rotate_left; dsimp only [z]; rotate_left)
         | clear_value z)
    | split
    | dsimp only)

theorem execTbstart_kept (port : Nat) (s : State) (h0 : Kept E s0 s) (e_arch : E .arch := by assumption) (e_out : E .out := by assumption) (e_ports : E .ports := by assumption) (e_regs : E .regs := by assumption) : ∃ t, execTbstart port s = .next t ∧ Kept E s0 t := by
  refine ⟨_, rfl, ?_⟩
  repeat' (first
    | (refine fun _ => ?_)
    | (with_reducible first | assumption | apply State.forwardSb_kept | apply State.setArch_kept | apply State.setF_kept | apply kept_foldl)
    | with_reducible refine State.takeSb_kept (by with_reducible assumption) ?_
    | (extract_lets +onlyGivenNames z
       first
         | (refine (show Kept E s0 z → _ from fun hz => ?_) ?_; clear_value z; rotate_left; dsimp only [z]; rotate_left)
         | (refine (show Kept E s0 z.1 → _ from fun hz => ?_) ?_; clear_value z; rotate_left; dsimp only [z]; rotate_left)
         | clear_value z)
    | split
    | dsimp only)

theorem execTbprobe_kept (port : Nat) (s : State) (h0 : Kept E s0 s) (e_arch : E .arch := by assumption) (e_out : E .out := by assumption) (e_ports : E .ports := by assumption) : ∃ t, execTbprobe port s = .next t ∧ Kept E s0 t := by
  refine ⟨_, rfl, ?_⟩
  repeat' (first
    | (refine fun _ => ?_)
    | (with_reducible first | assumption | apply State.sendSb_kept)
    | with_reducible refine State.takeSb_kept (by with_reducible assumption) ?_
    | split
    | dsimp only)

theorem execTbreply_kept (port : Nat) (s : State) (h0 : Kept E s0 s) (e_arch : E .arch := by assumption) (e_out : E .out := by assumption) (e_ports : E .ports := by assumption) (e_regs : E .regs := by assumption) : ∃ t, execTbreply port s = .next t ∧ Kept E s0 t := by
  refine ⟨_, rfl, ?_⟩
  repeat' (first
    | (refine fun _ => ?_)
    | (with_reducible first | assumption | apply State.nextHop_kept | apply State.probe_kept | apply State.sendSb_kept | apply State.setArch_kept | apply kept_ite)
    | with_reducible refine State.takeSb_kept (by with_reducible assumption) ?_
    | (extract_lets +onlyGivenNames z
       first
         | (refine (show Kept E s0 z → _ from fun hz => ?_) ?_; clear_value z; rotate_left; dsimp only [z]; rotate_left)
         | (refine (show Kept E s0 z.1 → _ from fun hz => ?_) ?_; clear_value z; rotate_left; dsimp only [z]; rotate_left)
         | (refine (show Kept E s0 z.2.1 → _ from fun hz => ?_) ?_; clear_value z; rotate_left; dsimp only [z]; rotate_left)
         | (refine (show Kept E s0 z.2.2 → _ from fun hz => ?_) ?_; clear_value z; rotate_left; dsimp only [z]; rotate_left)
         | clear_value z)
    | split
    | dsimp only)

theorem execTbprobeRetry_kept (s : State) (h0 : Kept E s0 s) (e_arch : E .arch := by assumption) (e_out : E .out := by assumption) (e_ports : E .ports := by assumption) (e_regs : E .regs := by assumption) : ∃ t, execTbprobeRetry s = .next t ∧ Kept E s0 t := by
  refine ⟨_, rfl, ?_⟩
  repeat' (first
    | (refine fun _ => ?_)
    | (with_reducible first | assumption | apply State.breakAt_kept | apply State.nextHop_kept | apply State.probe_kept | apply State.setArch_kept | apply kept_ite)
    | split
    | dsimp only)

theorem execTbset_kept (port : Nat) (s : State) (h0 : Kept E s0 s) (e_arch : E .arch := by assumption) (e_out : E .out := by assumption) (e_ports : E .ports := by assumption) (e_regs : E .regs := by assumption) : ∃ t, execTbset port s = .next t ∧ Kept E s0 t := by
  refine ⟨_, rfl, ?_⟩
  repeat' (first
    | (refine fun _ => ?_)
    | (with_reducible first | assumption | apply State.alignChildren_kept | apply State.setArch_kept | apply State.setF_kept)
    | with_reducible refine State.takeSb_kept (by with_reducible assumption) ?_
    | (extract_lets +onlyGivenNames z
       first
         | (refine (show Kept E s0 z → _ from fun hz => ?_) ?_; clear_value z; rotate_left; dsimp only [z]; rotate_left)
         | clear_value z)
    | split
    | dsimp only)

theorem execTbdone_kept (port : Nat) (s : State) (h0 : Kept E s0 s) (e_arch : E .arch := by assumption) (e_out : E .out := by assumption) (e_ports : E .ports := by assumption) (e_regs : E .regs := by assumption) : ∃ t, execTbdone port s = .next t ∧ Kept E s0 t := by
  refine ⟨_, rfl, ?_⟩
  repeat' (first
    | (refine fun _ => ?_)
    | (with_reducible first | assumption | apply State.forwardSb_kept | apply State.nextHop_kept | apply State.setArch_kept | apply State.setF_kept | apply kept_ite)
    | with_reducible refine State.takeSb_kept (by with_reducible assumption) ?_
    | (extract_lets +onlyGivenNames z
       first
         | (refine (show Kept E s0 z → _ from fun hz => ?_) ?_; clear_value z; rotate_left; dsimp only [z]; rotate_left)
         | clear_value z)
    | split
    | dsimp only)

theorem execSweepTimerExpiry_kept (s : State) (h0 : Kept E s0 s) (e_arch : E .arch := by assumption) (e_regs : E .regs := by assumption) : ∃ t, execSweepTimerExpiry s = .next t ∧ Kept E s0 t := by
  refine ⟨_, rfl, ?_⟩
  repeat' (first
    | (refine fun _ => ?_)
    | (with_reducible first | assumption | apply State.setArch_kept | apply State.setF_kept | apply kept_ite)
    | split
    | dsimp only)

theorem execRateTrimProbe_kept (s : State) (h0 : Kept E s0 s) (e_arch : E .arch := by assumption) (e_out : E .out := by assumption) (e_ports : E .ports := by assumption) : ∃ t, execRateTrimProbe s = .next t ∧ Kept E s0 t := by
  refine ⟨_, rfl, ?_⟩
  repeat' (first
    | (refine fun _ => ?_)
    | (with_reducible first | assumption | apply State.sendSb_kept | apply State.setArch_kept | apply kept_ite)
    | split
    | dsimp only)

theorem State.noteReport_kept (s : State) (dev fmax : Nat) (h0 : Kept E s0 s) (e_arch : E .arch := by assumption) (e_regs : E .regs := by assumption) : Kept E s0 (State.noteReport s dev fmax) := by
  delta State.noteReport
  repeat' (first
    | (refine fun _ => ?_)
    | (with_reducible first | assumption | apply State.setArch_kept | apply State.setF_kept)
    | (extract_lets +onlyGivenNames z
       first
         | (refine (show Kept E s0 z → _ from fun hz => ?_) ?_; clear_value z; rotate_left; dsimp only [z]; rotate_left)
         | (refine (show Kept E s0 z.1 → _ from fun hz => ?_) ?_; clear_value z; rotate_left; dsimp only [z]; rotate_left)
         | (refine (show Kept E s0 z.2.1 → _ from fun hz => ?_) ?_; clear_value z; rotate_left; dsimp only [z]; rotate_left)
         | (refine (show Kept E s0 z.2.2 → _ from fun hz => ?_) ?_; clear_value z; rotate_left; dsimp only [z]; rotate_left)
         | clear_value z)
    | dsimp only)

theorem State.applyGf_kept (s : State) (gf : Nat) (h0 : Kept E s0 s) (e_power : E .power := by assumption) (e_regs : E .regs := by assumption) : Kept E s0 (State.applyGf s gf) := by
  delta State.applyGf
  repeat' (first
    | (refine fun _ => ?_)
    | (with_reducible first | assumption | apply State.applyFreq_kept | apply State.setF_kept | apply kept_foldl)
    | (extract_lets +onlyGivenNames z
       first
         | (refine (show Kept E s0 z → _ from fun hz => ?_) ?_; clear_value z; rotate_left; dsimp only [z]; rotate_left)
         | clear_value z)
    | dsimp only)

theorem State.setGf_kept (s : State) (h0 : Kept E s0 s) (e_arch : E .arch := by assumption) (e_out : E .out := by assumption) (e_ports : E .ports := by assumption) : Kept E s0 (State.setGf s) := by
  delta State.setGf
  repeat' (first
    | (refine fun _ => ?_)
    | (with_reducible first | assumption | apply State.sendSb_kept | apply State.setArch_kept | apply kept_ite | apply kept_foldl)
    | (extract_lets +onlyGivenNames z
       first
         | (refine (show Kept E s0 z → _ from fun hz => ?_) ?_; clear_value z; rotate_left; dsimp only [z]; rotate_left)
         | (refine (show Kept E s0 z.1 → _ from fun hz => ?_) ?_; clear_value z; rotate_left; dsimp only [z]; rotate_left)
         | (refine (show Kept E s0 z.2.1 → _ from fun hz => ?_) ?_; clear_value z; rotate_left; dsimp only [z]; rotate_left)
         | (refine (show Kept E s0 z.2.2 → _ from fun hz => ?_) ?_; clear_value z; rotate_left; dsimp only [z]; rotate_left)
         | clear_value z)
    | split
    | dsimp only)

theorem execFgreportTick_kept (s : State) (h0 : Kept E s0 s) (e_arch : E .arch := by assumption) (e_out : E .out := by assumption) (e_ports : E .ports := by assumption) (e_regs : E .regs := by assumption) : ∃ t, execFgreportTick s = .next t ∧ Kept E s0 t := by
  refine ⟨_, rfl, ?_⟩
  repeat' (first
    | (refine fun _ => ?_)
    | (with_reducible first | assumption | apply State.noteReport_kept | apply State.sendSb_kept | apply State.setGf_kept | apply kept_ite | apply kept_foldl)
    | (extract_lets +onlyGivenNames z
       first
         | (refine (show Kept E s0 z → _ from fun hz => ?_) ?_; clear_value z; rotate_left; dsimp only [z]; rotate_left)
         | clear_value z)
    | split
    | dsimp only)

theorem execFgreport_kept (port : Nat) (s : State) (h0 : Kept E s0 s) (e_arch : E .arch := by assumption) (e_out : E .out := by assumption) (e_ports : E .ports := by assumption) (e_regs : E .regs := by assumption) : ∃ t, execFgreport port s = .next t ∧ Kept E s0 t := by
  refine ⟨_, rfl, ?_⟩
  repeat' (first
    | (refine fun _ => ?_)
    | (with_reducible first | assumption | apply State.forwardSb_kept | apply State.noteReport_kept | apply State.setArch_kept | apply State.setGf_kept | apply kept_ite | apply kept_foldl)
    | with_reducible refine State.takeSb_kept (by with_reducible assumption) ?_
    | (extract_lets +onlyGivenNames z
       first
         | (refine (show Kept E s0 z → _ from fun hz => ?_) ?_; clear_value z; rotate_left; dsimp only [z]; rotate_left)
         | (refine (show Kept E s0 z.1 → _ from fun hz => ?_) ?_; clear_value z; rotate_left; dsimp only [z]; rotate_left)
         | clear_value z)
    | split
    | dsimp only)

theorem execFgswitch_kept (port : Nat) (s : State) (h0 : Kept E s0 s) (e_arch : E .arch := by assumption) (e_out : E .out := by assumption) (e_ports : E .ports := by assumption) (e_power : E .power := by assumption) (e_regs : E .regs := by assumption) : ∃ t, execFgswitch port s = .next t ∧ Kept E s0 t := by
  refine ⟨_, rfl, ?_⟩
  repeat' (first
    | (refine fun _ => ?_)
    | (with_reducible first | assumption | apply State.applyGf_kept | apply State.forwardSb_kept | apply State.setArch_kept | apply State.setF_kept | apply kept_ite | apply kept_foldl)
    | with_reducible refine State.takeSb_kept (by with_reducible assumption) ?_
    | (extract_lets +onlyGivenNames z
       first
         | (refine (show Kept E s0 z → _ from fun hz => ?_) ?_; clear_value z; rotate_left; dsimp only [z]; rotate_left)
         | clear_value z)
    | split
    | dsimp only)

theorem execFgswitchInstant_kept (s : State) (h0 : Kept E s0 s) (e_arch : E .arch := by assumption) (e_power : E .power := by assumption) (e_regs : E .regs := by assumption) : ∃ t, execFgswitchInstant s = .next t ∧ Kept E s0 t := by
  refine ⟨_, rfl, ?_⟩
  repeat' (first
    | (refine fun _ => ?_)
    | (with_reducible first | assumption | apply State.applyGf_kept | apply State.setArch_kept)
    | split
    | dsimp only)

theorem execGlostTimeout_kept (s : State) (h0 : Kept E s0 s) (e_regs : E .regs := by assumption) : ∃ t, execGlostTimeout s = .next t ∧ Kept E s0 t := by
  refine ⟨_, rfl, ?_⟩
  repeat' (first
    | (refine fun _ => ?_)
    | (with_reducible first | assumption | apply State.setF_kept | apply kept_ite)
    | split
    | dsimp only)

theorem State.countThrottle_kept (s : State) (h0 : Kept E s0 s) (e_regs : E .regs := by assumption) : Kept E s0 (State.countThrottle s) := by
  delta State.countThrottle
  repeat' (first
    | (refine fun _ => ?_)
    | (with_reducible first | assumption | apply State.bump_kept | apply kept_ite | apply kept_foldl)
    | split
    | dsimp only)

theorem State.idle_kept (s : State) (h0 : Kept E s0 s) (e_arch : E .arch := by assumption) (e_erq : E .erq := by assumption) (e_folded : E .folded := by assumption) (e_fwLog : E .fwLog := by assumption) (e_msixs : E .msixs := by assumption) (e_out : E .out := by assumption) (e_regs : E .regs := by assumption) (e_rseq : E .rseq := by assumption) : Kept E s0 (State.idle s) := by
  delta State.idle
  repeat' (first
    | (with_reducible first | assumption | apply State.countThrottle_kept | apply State.setArch_kept | apply State.setF_kept | apply State.writeFolded_kept | apply kept_ite)
    | (extract_lets +onlyGivenNames z
       first
         | (refine (show Kept E s0 z → _ from fun hz => ?_) ?_; clear_value z; rotate_left; dsimp only [z]; rotate_left)
         | (refine (show Kept E s0 z.1 → _ from fun hz => ?_) ?_; clear_value z; rotate_left; dsimp only [z]; rotate_left)
         | (refine (show Kept E s0 z.2.1 → _ from fun hz => ?_) ?_; clear_value z; rotate_left; dsimp only [z]; rotate_left)
         | (refine (show Kept E s0 z.2.2 → _ from fun hz => ?_) ?_; clear_value z; rotate_left; dsimp only [z]; rotate_left)
         | clear_value z)
    | split
    | dsimp only)

end Sys2Proof.Machine
end

