-- ==== Sys2Proof/Laws/KeptCodec.lean ====
section
/-!
SUPPORT. Laws/KeptCodec.lean: the operations of Machine/Codec.lean change neither the queue nor the canonical forms.
-/
namespace Sys2Proof.Machine

set_option Elab.async false
set_option linter.all false

variable {E : Comp → Prop} {s0 : State}

theorem State.cdcOp_kept (s : State) (fn n status : Nat) (h0 : Kept E s0 s) (e_regs : E .regs := by assumption) : Kept E s0 (State.cdcOp s fn n status) := by
  delta State.cdcOp
  repeat' (first
    | (with_reducible first | assumption | apply State.setF_kept)
    | dsimp only)

theorem State.cdcCmd_kept (s : State) (acr : Acr) (set : Nat) (k : Nat → State) (h0 : Kept E s0 s) (h1 : ∀ t, Kept E s0 (k t)) (e_msixs : E .msixs := by assumption) (e_out : E .out := by assumption) (e_regs : E .regs := by assumption) : Kept E s0 (State.cdcCmd s acr set k) := by
  delta State.cdcCmd
  repeat' (first
    | (with_reducible first | assumption | apply State.refuseAcc_kept | apply State.setF_kept | apply kept_ite | apply h1)
    | (extract_lets +onlyGivenNames z
       first
         | (refine (show Kept E s0 z → _ from fun hz => ?_) ?_; clear_value z; rotate_left; dsimp only [z]; rotate_left)
         | clear_value z)
    | split
    | dsimp only)

theorem State.openStream_kept (s : State) (fn n : Nat) (d : List Byte) (h0 : Kept E s0 s) (e_regs : E .regs := by assumption) (e_streams : E .streams := by assumption) : Kept E s0 (State.openStream s fn n d) := by
  delta State.openStream
  repeat' (first
    | (refine fun _ => ?_)
    | (with_reducible first | assumption | apply State.setF_kept | apply State.setStream_kept | apply kept_foldl)
    | (extract_lets +onlyGivenNames z
       first
         | (refine (show Kept E s0 z → _ from fun hz => ?_) ?_; clear_value z; rotate_left; dsimp only [z]; rotate_left)
         | clear_value z)
    | dsimp only)

theorem execStreamOpen_kept (acr : Acr) (set v : Nat) (s : State) (h0 : Kept E s0 s) (e_ecc : E .ecc := by assumption) (e_erq : E .erq := by assumption) (e_folded : E .folded := by assumption) (e_fwLog : E .fwLog := by assumption) (e_mem : E .mem := by assumption) (e_msixs : E .msixs := by assumption) (e_out : E .out := by assumption) (e_regs : E .regs := by assumption) (e_rseq : E .rseq := by assumption) (e_streams : E .streams := by assumption) : ∃ t, execStreamOpen acr set v s = .next t ∧ Kept E s0 t := by
  refine ⟨_, rfl, ?_⟩
  repeat' (first
    | (refine fun _ => ?_)
    | (with_reducible first | assumption | apply State.cdcCmd_kept | apply State.cdcOp_kept | apply State.openStream_kept | apply State.readWords_kept | apply kept_ite)
    | (extract_lets +onlyGivenNames z
       first
         | (refine (show Kept E s0 z → _ from fun hz => ?_) ?_; clear_value z; rotate_left; dsimp only [z]; rotate_left)
         | clear_value z)
    | split
    | dsimp only)

theorem State.showMarks_kept (s : State) (n : Nat) (h0 : Kept E s0 s) (e_regs : E .regs := by assumption) : Kept E s0 (State.showMarks s n) := by
  delta State.showMarks
  repeat' (first
    | (refine fun _ => ?_)
    | (with_reducible first | assumption | apply State.setF_kept | apply kept_foldl)
    | (extract_lets +onlyGivenNames z
       first
         | (refine (show Kept E s0 z → _ from fun hz => ?_) ?_; clear_value z; rotate_left; dsimp only [z]; rotate_left)
         | (refine (show Kept E s0 z.1 → _ from fun hz => ?_) ?_; clear_value z; rotate_left; dsimp only [z]; rotate_left)
         | clear_value z)
    | dsimp only)

theorem State.putStream_kept (s : State) (n : Nat) (v : Stream) (h0 : Kept E s0 s) (e_regs : E .regs := by assumption) (e_streams : E .streams := by assumption) : Kept E s0 (State.putStream s n v) := by
  delta State.putStream
  repeat' (first
    | (with_reducible first | assumption | apply State.setStream_kept | apply State.showMarks_kept)
    | dsimp only)

theorem State.setEngine_kept (s : State) (e : Nat) (v : Engine) (h0 : Kept E s0 s) (e_engines : E .engines := by assumption) : Kept E s0 (State.setEngine s e v) := by
  exact kept_engines _ h0 (rises_tset _ _)

theorem State.restServed_kept (s : State) (e : Nat) (h0 : Kept E s0 s) (e_engines : E .engines := by assumption) : Kept E s0 (State.restServed s e) := by
  delta State.restServed
  repeat' (first
    | (refine fun _ => ?_)
    | (with_reducible first | assumption | apply State.setEngine_kept | apply kept_ite)
    | split
    | dsimp only)

theorem State.freeTheStream_kept (s : State) (n : Nat) (h0 : Kept E s0 s) (e_engines : E .engines := by assumption) (e_regs : E .regs := by assumption) (e_streams : E .streams := by assumption) : Kept E s0 (State.freeTheStream s n) := by
  delta State.freeTheStream
  repeat' (first
    | (refine fun _ => ?_)
    | (with_reducible first | assumption | apply State.putStream_kept | apply State.restServed_kept | apply State.setF_kept | apply kept_ite | apply kept_foldl)
    | with_reducible refine kept_engines _ ?_ (rises_tset _ _)
    | (extract_lets +onlyGivenNames z
       first
         | (refine (show Kept E s0 z → _ from fun hz => ?_) ?_; clear_value z; rotate_left; dsimp only [z]; rotate_left)
         | (refine (show Kept E s0 z.1 → _ from fun hz => ?_) ?_; clear_value z; rotate_left; dsimp only [z]; rotate_left)
         | (refine (show Kept E s0 z.2.1 → _ from fun hz => ?_) ?_; clear_value z; rotate_left; dsimp only [z]; rotate_left)
         | (refine (show Kept E s0 z.2.2 → _ from fun hz => ?_) ?_; clear_value z; rotate_left; dsimp only [z]; rotate_left)
         | clear_value z)
    | split
    | dsimp only)

theorem State.autoClose_kept (s : State) (n : Nat) (h0 : Kept E s0 s) (e_engines : E .engines := by assumption) (e_regs : E .regs := by assumption) (e_streams : E .streams := by assumption) : Kept E s0 (State.autoClose s n) := by
  delta State.autoClose
  repeat' (first
    | (with_reducible first | assumption | apply State.freeTheStream_kept | apply kept_ite)
    | split
    | dsimp only)

theorem State.putFrameRecord_kept (s : State) (n : Nat) (w : WaitFrame) (h0 : Kept E s0 s) (e_cmds : E .cmds := by assumption) (e_ecc : E .ecc := by assumption) (e_erq : E .erq := by assumption) (e_folded : E .folded := by assumption) (e_fwLog : E .fwLog := by assumption) (e_mem : E .mem := by assumption) (e_msixs : E .msixs := by assumption) (e_out : E .out := by assumption) (e_regs : E .regs := by assumption) (e_rseq : E .rseq := by assumption) (e_streams : E .streams := by assumption) : Kept E s0 (State.putFrameRecord s n w) := by
  delta State.putFrameRecord
  repeat' (first
    | (with_reducible first | assumption | apply State.addToken_kept | apply State.bumpSat_kept | apply State.emit_kept | apply State.setF_kept | apply State.setStream_kept | apply State.streamMsg_kept | apply State.writeBytes_kept | apply kept_ite)
    | (extract_lets +onlyGivenNames z
       first
         | (refine (show Kept E s0 z → _ from fun hz => ?_) ?_; clear_value z; rotate_left; dsimp only [z]; rotate_left)
         | clear_value z)
    | split
    | dsimp only)

theorem State.oweFrame_kept (s : State) (n : Nat) (w : WaitFrame) (h0 : Kept E s0 s) (e_cmds : E .cmds := by assumption) (e_ecc : E .ecc := by assumption) (e_erq : E .erq := by assumption) (e_folded : E .folded := by assumption) (e_fwLog : E .fwLog := by assumption) (e_mem : E .mem := by assumption) (e_msixs : E .msixs := by assumption) (e_out : E .out := by assumption) (e_regs : E .regs := by assumption) (e_rseq : E .rseq := by assumption) (e_streams : E .streams := by assumption) : Kept E s0 (State.oweFrame s n w) := by
  delta State.oweFrame
  repeat' (first
    | (with_reducible first | assumption | apply State.putFrameRecord_kept | apply State.setStream_kept | apply kept_ite)
    | (extract_lets +onlyGivenNames z
       first
         | (refine (show Kept E s0 z → _ from fun hz => ?_) ?_; clear_value z; rotate_left; dsimp only [z]; rotate_left)
         | clear_value z)
    | split
    | dsimp only)

theorem execFrameRecordWrite_kept (stream : Nat) (s : State) (h0 : Kept E s0 s) (e_cmds : E .cmds := by assumption) (e_ecc : E .ecc := by assumption) (e_engines : E .engines := by assumption) (e_erq : E .erq := by assumption) (e_folded : E .folded := by assumption) (e_fwLog : E .fwLog := by assumption) (e_mem : E .mem := by assumption) (e_msixs : E .msixs := by assumption) (e_out : E .out := by assumption) (e_regs : E .regs := by assumption) (e_rseq : E .rseq := by assumption) (e_streams : E .streams := by assumption) : ∃ t, execFrameRecordWrite stream s = .next t ∧ Kept E s0 t := by
  refine ⟨_, rfl, ?_⟩
  repeat' (first
    | (refine fun _ => ?_)
    | (with_reducible first | assumption | apply State.autoClose_kept | apply State.putFrameRecord_kept | apply State.setStream_kept | apply kept_ite)
    | split
    | dsimp only)

theorem State.endFrame_kept (s : State) (n : Nat) (f : Frame) (status outlen : Nat) (outputs : List (Nat × Nat)) (h0 : Kept E s0 s) (e_cmds : E .cmds := by assumption) (e_ecc : E .ecc := by assumption) (e_engines : E .engines := by assumption) (e_erq : E .erq := by assumption) (e_folded : E .folded := by assumption) (e_fwLog : E .fwLog := by assumption) (e_mem : E .mem := by assumption) (e_msixs : E .msixs := by assumption) (e_out : E .out := by assumption) (e_regs : E .regs := by assumption) (e_rseq : E .rseq := by assumption) (e_streams : E .streams := by assumption) : Kept E s0 (State.endFrame s n f status outlen outputs) := by
  delta State.endFrame
  repeat' (first
    | (with_reducible first | assumption | apply State.autoClose_kept | apply State.oweFrame_kept | apply State.putStream_kept | apply State.restServed_kept | apply State.setEngine_kept | apply kept_ite)
    | (extract_lets +onlyGivenNames z
       first
         | (refine (show Kept E s0 z → _ from fun hz => ?_) ?_; clear_value z; rotate_left; dsimp only [z]; rotate_left)
         | clear_value z)
    | split
    | dsimp only)

theorem execCdcFdb_kept (fn stream v : Nat) (s : State) (h0 : Kept E s0 s) (e_msixs : E .msixs := by assumption) (e_out : E .out := by assumption) (e_regs : E .regs := by assumption) (e_streams : E .streams := by assumption) : ∃ t, execCdcFdb fn stream v s = .next t ∧ Kept E s0 t := by
  refine ⟨_, rfl, ?_⟩
  repeat' (first
    | (refine fun _ => ?_)
    | (with_reducible first | assumption | apply State.raiseEvt_kept | apply State.setF_kept | apply State.setStream_kept | apply kept_ite)
    | (extract_lets +onlyGivenNames z
       first
         | (refine (show Kept E s0 z → _ from fun hz => ?_) ?_; clear_value z; rotate_left; dsimp only [z]; rotate_left)
         | clear_value z)
    | split
    | dsimp only)

theorem execCdcCdb_kept (fn stream v : Nat) (s : State) (h0 : Kept E s0 s) (e_msixs : E .msixs := by assumption) (e_out : E .out := by assumption) (e_regs : E .regs := by assumption) (e_streams : E .streams := by assumption) : ∃ t, execCdcCdb fn stream v s = .next t ∧ Kept E s0 t := by
  refine ⟨_, rfl, ?_⟩
  repeat' (first
    | (refine fun _ => ?_)
    | (with_reducible first | assumption | apply State.raiseEvt_kept | apply State.setF_kept | apply State.setStream_kept | apply kept_ite)
    | (extract_lets +onlyGivenNames z
       first
         | (refine (show Kept E s0 z → _ from fun hz => ?_) ?_; clear_value z; rotate_left; dsimp only [z]; rotate_left)
         | clear_value z)
    | split
    | dsimp only)

theorem State.disableStream_kept (s : State) (n : Nat) (h0 : Kept E s0 s) (e_cmds : E .cmds := by assumption) (e_ecc : E .ecc := by assumption) (e_engines : E .engines := by assumption) (e_erq : E .erq := by assumption) (e_folded : E .folded := by assumption) (e_fwLog : E .fwLog := by assumption) (e_mem : E .mem := by assumption) (e_msixs : E .msixs := by assumption) (e_out : E .out := by assumption) (e_regs : E .regs := by assumption) (e_rseq : E .rseq := by assumption) (e_streams : E .streams := by assumption) : Kept E s0 (State.disableStream s n) := by
  delta State.disableStream
  repeat' (first
    | (with_reducible first | assumption | apply State.autoClose_kept | apply State.endFrame_kept | apply State.setF_kept | apply State.setStream_kept | apply kept_ite)
    | (extract_lets +onlyGivenNames z
       first
         | (refine (show Kept E s0 z → _ from fun hz => ?_) ?_; clear_value z; rotate_left; dsimp only [z]; rotate_left)
         | clear_value z)
    | split
    | dsimp only)

theorem execStreamDisable_kept (acr : Acr) (set v : Nat) (s : State) (h0 : Kept E s0 s) (e_cmds : E .cmds := by assumption) (e_ecc : E .ecc := by assumption) (e_engines : E .engines := by assumption) (e_erq : E .erq := by assumption) (e_folded : E .folded := by assumption) (e_fwLog : E .fwLog := by assumption) (e_mem : E .mem := by assumption) (e_msixs : E .msixs := by assumption) (e_out : E .out := by assumption) (e_regs : E .regs := by assumption) (e_rseq : E .rseq := by assumption) (e_streams : E .streams := by assumption) : ∃ t, execStreamDisable acr set v s = .next t ∧ Kept E s0 t := by
  refine ⟨_, rfl, ?_⟩
  repeat' (first
    | (refine fun _ => ?_)
    | (with_reducible first | assumption | apply State.cdcCmd_kept | apply State.cdcOp_kept | apply State.disableStream_kept | apply kept_ite)
    | (extract_lets +onlyGivenNames z
       first
         | (refine (show Kept E s0 z → _ from fun hz => ?_) ?_; clear_value z; rotate_left; dsimp only [z]; rotate_left)
         | clear_value z)
    | split
    | dsimp only)

theorem execStreamClose_kept (acr : Acr) (set v : Nat) (s : State) (h0 : Kept E s0 s) (e_engines : E .engines := by assumption) (e_msixs : E .msixs := by assumption) (e_out : E .out := by assumption) (e_regs : E .regs := by assumption) (e_streams : E .streams := by assumption) : ∃ t, execStreamClose acr set v s = .next t ∧ Kept E s0 t := by
  refine ⟨_, rfl, ?_⟩
  repeat' (first
    | (refine fun _ => ?_)
    | (with_reducible first | assumption | apply State.cdcCmd_kept | apply State.cdcOp_kept | apply State.freeTheStream_kept | apply kept_ite)
    | (extract_lets +onlyGivenNames z
       first
         | (refine (show Kept E s0 z → _ from fun hz => ?_) ?_; clear_value z; rotate_left; dsimp only [z]; rotate_left)
         | clear_value z)
    | split
    | dsimp only)

theorem execEngdis_kept (acr : Acr) (engine v : Nat) (s : State) (h0 : Kept E s0 s) (e_cmds : E .cmds := by assumption) (e_ecc : E .ecc := by assumption) (e_engines : E .engines := by assumption) (e_erq : E .erq := by assumption) (e_folded : E .folded := by assumption) (e_fwLog : E .fwLog := by assumption) (e_mem : E .mem := by assumption) (e_msixs : E .msixs := by assumption) (e_out : E .out := by assumption) (e_regs : E .regs := by assumption) (e_rseq : E .rseq := by assumption) (e_streams : E .streams := by assumption) : ∃ t, execEngdis acr engine v s = .next t ∧ Kept E s0 t := by
  refine ⟨_, rfl, ?_⟩
  repeat' (first
    | (refine fun _ => ?_)
    | (with_reducible first | assumption | apply State.disableStream_kept | apply State.forDevice_kept | apply State.setF_kept | apply kept_ite | apply kept_foldl)
    | (extract_lets +onlyGivenNames z
       first
         | (refine (show Kept E s0 z → _ from fun hz => ?_) ?_; clear_value z; rotate_left; dsimp only [z]; rotate_left)
         | clear_value z)
    | split
    | dsimp only)

theorem execFrameFetch_kept (stream : Nat) (bytes : List Byte) (s : State) (h0 : Kept E s0 s) (e_cmds : E .cmds := by assumption) (e_ecc : E .ecc := by assumption) (e_engines : E .engines := by assumption) (e_erq : E .erq := by assumption) (e_folded : E .folded := by assumption) (e_fwLog : E .fwLog := by assumption) (e_mem : E .mem := by assumption) (e_msixs : E .msixs := by assumption) (e_out : E .out := by assumption) (e_regs : E .regs := by assumption) (e_rseq : E .rseq := by assumption) (e_streams : E .streams := by assumption) : ∃ t, execFrameFetch stream bytes s = .next t ∧ Kept E s0 t := by
  refine ⟨_, rfl, ?_⟩
  repeat' (first
    | (refine fun _ => ?_)
    | (with_reducible first | assumption | apply State.endFrame_kept | apply State.latchWaits_kept | apply State.putStream_kept | apply State.readWords_kept | apply State.setF_kept | apply State.setStream_kept | apply kept_ite)
    | (extract_lets +onlyGivenNames z
       first
         | (refine (show Kept E s0 z → _ from fun hz => ?_) ?_; clear_value z; rotate_left; dsimp only [z]; rotate_left)
         | clear_value z)
    | split
    | dsimp only)

theorem State.putFrame_kept (s : State) (n : Nat) (f : Frame) (h0 : Kept E s0 s) (e_regs : E .regs := by assumption) (e_streams : E .streams := by assumption) : Kept E s0 (State.putFrame s n f) := by
  delta State.putFrame
  repeat' (first
    | (with_reducible first | assumption | apply State.putStream_kept)
    | dsimp only)

theorem State.startFrame_kept (s : State) (e n : Nat) (f : Frame) (h0 : Kept E s0 s) (e_cmds : E .cmds := by assumption) (e_ecc : E .ecc := by assumption) (e_engines : E .engines := by assumption) (e_erq : E .erq := by assumption) (e_folded : E .folded := by assumption) (e_fwLog : E .fwLog := by assumption) (e_mem : E .mem := by assumption) (e_msixs : E .msixs := by assumption) (e_out : E .out := by assumption) (e_regs : E .regs := by assumption) (e_rseq : E .rseq := by assumption) (e_streams : E .streams := by assumption) : Kept E s0 (State.startFrame s e n f) := by
  delta State.startFrame
  repeat' (first
    | (refine fun _ => ?_)
    | (with_reducible first | assumption | apply State.endFrame_kept | apply State.putFrame_kept | apply State.putStream_kept | apply State.readWords_kept | apply State.setEngine_kept | apply kept_ite)
    | (extract_lets +onlyGivenNames z
       first
         | (refine (show Kept E s0 z → _ from fun hz => ?_) ?_; clear_value z; rotate_left; dsimp only [z]; rotate_left)
         | (refine (show Kept E s0 z.1 → _ from fun hz => ?_) ?_; clear_value z; rotate_left; dsimp only [z]; rotate_left)
         | clear_value z)
    | split
    | dsimp only)

theorem execFrameStart_kept (engine : Nat) (s : State) (h0 : Kept E s0 s) (e_cmds : E .cmds := by assumption) (e_ecc : E .ecc := by assumption) (e_engines : E .engines := by assumption) (e_erq : E .erq := by assumption) (e_folded : E .folded := by assumption) (e_fwLog : E .fwLog := by assumption) (e_mem : E .mem := by assumption) (e_msixs : E .msixs := by assumption) (e_out : E .out := by assumption) (e_regs : E .regs := by assumption) (e_rseq : E .rseq := by assumption) (e_streams : E .streams := by assumption) : ∃ t, execFrameStart engine s = .next t ∧ Kept E s0 t := by
  refine ⟨_, rfl, ?_⟩
  repeat' (first
    | (refine fun _ => ?_)
    | (with_reducible first | assumption | apply State.putFrame_kept | apply State.restServed_kept | apply State.setEngine_kept | apply State.startFrame_kept | apply kept_ite)
    | (extract_lets +onlyGivenNames z
       first
         | (refine (show Kept E s0 z → _ from fun hz => ?_) ?_; clear_value z; rotate_left; dsimp only [z]; rotate_left)
         | clear_value z)
    | split
    | dsimp only)

theorem execFrameDeadline_kept (stream : Nat) (s : State) (h0 : Kept E s0 s) (e_cmds : E .cmds := by assumption) (e_ecc : E .ecc := by assumption) (e_engines : E .engines := by assumption) (e_erq : E .erq := by assumption) (e_folded : E .folded := by assumption) (e_fwLog : E .fwLog := by assumption) (e_mem : E .mem := by assumption) (e_msixs : E .msixs := by assumption) (e_out : E .out := by assumption) (e_regs : E .regs := by assumption) (e_rseq : E .rseq := by assumption) (e_streams : E .streams := by assumption) : ∃ t, execFrameDeadline stream s = .next t ∧ Kept E s0 t := by
  refine ⟨_, rfl, ?_⟩
  repeat' (first
    | (refine fun _ => ?_)
    | (with_reducible first | assumption | apply State.endFrame_kept | apply kept_ite)
    | split
    | dsimp only)

theorem State.writePic_kept (s : State) (v : Stream) (b : Nat) (l : List (Nat × List Byte)) (h0 : Kept E s0 s) (e_ecc : E .ecc := by assumption) (e_erq : E .erq := by assumption) (e_folded : E .folded := by assumption) (e_fwLog : E .fwLog := by assumption) (e_mem : E .mem := by assumption) (e_msixs : E .msixs := by assumption) (e_out : E .out := by assumption) (e_regs : E .regs := by assumption) (e_rseq : E .rseq := by assumption) : Kept E s0 (State.writePic s v b l) := by
  delta State.writePic
  repeat' (first
    | (refine fun _ => ?_)
    | (with_reducible first | assumption | apply State.writeBytes_kept | apply kept_ite | apply kept_foldl)
    | split
    | dsimp only)

theorem State.poisonPic_kept (s : State) (v : Stream) (b : Nat) (l : List (Nat × Nat)) (h0 : Kept E s0 s) (e_ecc : E .ecc := by assumption) (e_erq : E .erq := by assumption) (e_folded : E .folded := by assumption) (e_fresh : E .fresh := by assumption) (e_fwLog : E .fwLog := by assumption) (e_mem : E .mem := by assumption) (e_msixs : E .msixs := by assumption) (e_out : E .out := by assumption) (e_regs : E .regs := by assumption) (e_rseq : E .rseq := by assumption) : Kept E s0 (State.poisonPic s v b l) := by
  delta State.poisonPic
  repeat' (first
    | (refine fun _ => ?_)
    | (with_reducible first | assumption | apply State.poisonBytes_kept | apply kept_ite | apply kept_foldl)
    | split
    | dsimp only)

theorem State.finishEncode_kept (s : State) (n : Nat) (f : Frame) (h0 : Kept E s0 s) (e_cmds : E .cmds := by assumption) (e_ecc : E .ecc := by assumption) (e_engines : E .engines := by assumption) (e_erq : E .erq := by assumption) (e_folded : E .folded := by assumption) (e_fwLog : E .fwLog := by assumption) (e_mem : E .mem := by assumption) (e_msixs : E .msixs := by assumption) (e_out : E .out := by assumption) (e_regs : E .regs := by assumption) (e_rseq : E .rseq := by assumption) (e_streams : E .streams := by assumption) : Kept E s0 (State.finishEncode s n f) := by
  delta State.finishEncode
  repeat' (first
    | (with_reducible first | assumption | apply State.endFrame_kept | apply State.putStream_kept | apply State.writeBytes_kept | apply kept_ite)
    | (extract_lets +onlyGivenNames z
       first
         | (refine (show Kept E s0 z → _ from fun hz => ?_) ?_; clear_value z; rotate_left; dsimp only [z]; rotate_left)
         | clear_value z)
    | split
    | dsimp only)

theorem State.finishDecode_kept (s : State) (n : Nat) (f : Frame) (ev : RowEvent) (h0 : Kept E s0 s) (e_cmds : E .cmds := by assumption) (e_ecc : E .ecc := by assumption) (e_engines : E .engines := by assumption) (e_erq : E .erq := by assumption) (e_folded : E .folded := by assumption) (e_fwLog : E .fwLog := by assumption) (e_mem : E .mem := by assumption) (e_msixs : E .msixs := by assumption) (e_out : E .out := by assumption) (e_regs : E .regs := by assumption) (e_rseq : E .rseq := by assumption) (e_streams : E .streams := by assumption) : Kept E s0 (State.finishDecode s n f ev) := by
  delta State.finishDecode
  repeat' (first
    | (refine fun _ => ?_)
    | (with_reducible first | assumption | apply State.bump_kept | apply State.endFrame_kept | apply State.putStream_kept | apply kept_ite)
    | (extract_lets +onlyGivenNames z
       first
         | (refine (show Kept E s0 z → _ from fun hz => ?_) ?_; clear_value z; rotate_left; dsimp only [z]; rotate_left)
         | (refine (show Kept E s0 z.1 → _ from fun hz => ?_) ?_; clear_value z; rotate_left; dsimp only [z]; rotate_left)
         | clear_value z)
    | split
    | dsimp only)

theorem State.boundary_kept (s : State) (e n : Nat) (f : Frame) (h0 : Kept E s0 s) (e_engines : E .engines := by assumption) (e_regs : E .regs := by assumption) (e_streams : E .streams := by assumption) : Kept E s0 (State.boundary s e n f) := by
  delta State.boundary
  repeat' (first
    | (with_reducible first | assumption | apply State.bumpSat_kept | apply State.putFrame_kept | apply State.setEngine_kept | apply kept_ite)
    | (extract_lets +onlyGivenNames z
       first
         | (refine (show Kept E s0 z → _ from fun hz => ?_) ?_; clear_value z; rotate_left; dsimp only [z]; rotate_left)
         | clear_value z)
    | split
    | dsimp only)

theorem State.serveBatch_kept (s : State) (e n cycles : Nat) (h0 : Kept E s0 s) (e_engines : E .engines := by assumption) : Kept E s0 (State.serveBatch s e n cycles) := by
  delta State.serveBatch
  repeat' (first
    | (refine fun _ => ?_)
    | (with_reducible first | assumption | apply State.setEngine_kept | apply kept_ite)
    | (extract_lets +onlyGivenNames z
       first
         | (refine (show Kept E s0 z → _ from fun hz => ?_) ?_; clear_value z; rotate_left; dsimp only [z]; rotate_left)
         | clear_value z)
    | split
    | dsimp only)

theorem State.encodeRow_kept (s : State) (e n : Nat) (f : Frame) (ev : RowEvent) (h0 : Kept E s0 s) (e_cmds : E .cmds := by assumption) (e_ecc : E .ecc := by assumption) (e_engines : E .engines := by assumption) (e_erq : E .erq := by assumption) (e_folded : E .folded := by assumption) (e_fwLog : E .fwLog := by assumption) (e_mem : E .mem := by assumption) (e_msixs : E .msixs := by assumption) (e_out : E .out := by assumption) (e_regs : E .regs := by assumption) (e_rseq : E .rseq := by assumption) (e_streams : E .streams := by assumption) : Kept E s0 (State.encodeRow s e n f ev) := by
  delta State.encodeRow
  repeat' (first
    | (with_reducible first | assumption | apply State.boundary_kept | apply State.endFrame_kept | apply State.finishEncode_kept | apply State.readWords_kept | apply State.serveBatch_kept | apply State.writePic_kept | apply kept_ite)
    | simp only [kept_out e_out]
    | (extract_lets +onlyGivenNames z
       first
         | (refine (show Kept E s0 z → _ from fun hz => ?_) ?_; clear_value z; rotate_left; dsimp only [z]; rotate_left)
         | clear_value z)
    | split
    | dsimp only)

theorem State.decodeRow_kept (s : State) (e n : Nat) (f : Frame) (ev : RowEvent) (h0 : Kept E s0 s) (e_cmds : E .cmds := by assumption) (e_ecc : E .ecc := by assumption) (e_engines : E .engines := by assumption) (e_erq : E .erq := by assumption) (e_folded : E .folded := by assumption) (e_fresh : E .fresh := by assumption) (e_fwLog : E .fwLog := by assumption) (e_mem : E .mem := by assumption) (e_msixs : E .msixs := by assumption) (e_out : E .out := by assumption) (e_regs : E .regs := by assumption) (e_rseq : E .rseq := by assumption) (e_streams : E .streams := by assumption) : Kept E s0 (State.decodeRow s e n f ev) := by
  delta State.decodeRow
  repeat' (first
    | (refine fun _ => ?_)
    | (with_reducible first | assumption | apply State.addToken_kept | apply State.boundary_kept | apply State.finishDecode_kept | apply State.poisonPic_kept | apply State.putFrame_kept | apply State.serveBatch_kept | apply State.writePic_kept | apply kept_ite)
    | (extract_lets +onlyGivenNames z
       first
         | (refine (show Kept E s0 z → _ from fun hz => ?_) ?_; clear_value z; rotate_left; dsimp only [z]; rotate_left)
         | (refine (show Kept E s0 z.1 → _ from fun hz => ?_) ?_; clear_value z; rotate_left; dsimp only [z]; rotate_left)
         | (refine (show Kept E s0 z.2.1 → _ from fun hz => ?_) ?_; clear_value z; rotate_left; dsimp only [z]; rotate_left)
         | (refine (show Kept E s0 z.2.2 → _ from fun hz => ?_) ?_; clear_value z; rotate_left; dsimp only [z]; rotate_left)
         | clear_value z)
    | split
    | dsimp only)

theorem execBlockRow_kept (engine : Nat) (ev : RowEvent) (s : State) (h0 : Kept E s0 s) (e_cmds : E .cmds := by assumption) (e_ecc : E .ecc := by assumption) (e_engines : E .engines := by assumption) (e_erq : E .erq := by assumption) (e_folded : E .folded := by assumption) (e_fresh : E .fresh := by assumption) (e_fwLog : E .fwLog := by assumption) (e_mem : E .mem := by assumption) (e_msixs : E .msixs := by assumption) (e_out : E .out := by assumption) (e_regs : E .regs := by assumption) (e_rseq : E .rseq := by assumption) (e_streams : E .streams := by assumption) : ∃ t, execBlockRow engine ev s = .next t ∧ Kept E s0 t := by
  refine ⟨_, rfl, ?_⟩
  repeat' (first
    | (refine fun _ => ?_)
    | (with_reducible first | assumption | apply State.decodeRow_kept | apply State.encodeRow_kept | apply kept_ite)
    | split
    | dsimp only)

theorem execCodecHwError_kept (engine : Nat) (s : State) (h0 : Kept E s0 s) (e_cmds : E .cmds := by assumption) (e_ecc : E .ecc := by assumption) (e_engines : E .engines := by assumption) (e_erq : E .erq := by assumption) (e_folded : E .folded := by assumption) (e_fresh : E .fresh := by assumption) (e_fwLog : E .fwLog := by assumption) (e_mem : E .mem := by assumption) (e_msixs : E .msixs := by assumption) (e_out : E .out := by assumption) (e_regs : E .regs := by assumption) (e_rseq : E .rseq := by assumption) (e_streams : E .streams := by assumption) : ∃ t, execCodecHwError engine s = .next t ∧ Kept E s0 t := by
  refine ⟨_, rfl, ?_⟩
  repeat' (first
    | (refine fun _ => ?_)
    | (with_reducible first | assumption | apply State.endFrame_kept | apply State.poisonBytes_kept | apply State.poisonPic_kept | apply State.record_kept | apply kept_ite)
    | (extract_lets +onlyGivenNames z
       first
         | (refine (show Kept E s0 z → _ from fun hz => ?_) ?_; clear_value z; rotate_left; dsimp only [z]; rotate_left)
         | clear_value z)
    | split
    | dsimp only)

end Sys2Proof.Machine
end

