-- ==== Sys2Proof/Laws/KeptBoot.lean ====
section
/-!
SUPPORT. Laws/KeptBoot.lean: the operations of Machine/Boot.lean change neither the queue nor the canonical forms.
-/
namespace Sys2Proof.Machine

set_option Elab.async false
set_option linter.all false

variable {E : Comp → Prop} {s0 : State}

theorem State.setBoot_kept (s : State) (b : Boot) (h0 : Kept E s0 s) (e_boot : E .boot := by assumption) : Kept E s0 (State.setBoot s b) := by
  delta State.setBoot
  repeat' (first
    | (with_reducible first | assumption)
    | simp only [kept_boot e_boot]
    | dsimp only)

theorem State.rejectImage_kept (s : State) (i : Nat) (h0 : Kept E s0 s) (e_erq : E .erq := by assumption) (e_folded : E .folded := by assumption) (e_fwLog : E .fwLog := by assumption) (e_msixs : E .msixs := by assumption) (e_out : E .out := by assumption) (e_regs : E .regs := by assumption) (e_rseq : E .rseq := by assumption) : Kept E s0 (State.rejectImage s i) := by
  delta State.rejectImage
  repeat' (first
    | (with_reducible first | assumption | apply State.record_kept | apply State.setF_kept | apply kept_ite)
    | (extract_lets +onlyGivenNames z
       first
         | (refine (show Kept E s0 z → _ from fun hz => ?_) ?_; clear_value z; rotate_left; dsimp only [z]; rotate_left)
         | clear_value z)
    | split
    | dsimp only)

theorem State.bootImages_kept (s : State) (h0 : Kept E s0 s) (e_erq : E .erq := by assumption) (e_folded : E .folded := by assumption) (e_fwLog : E .fwLog := by assumption) (e_msixs : E .msixs := by assumption) (e_out : E .out := by assumption) (e_regs : E .regs := by assumption) (e_rseq : E .rseq := by assumption) : Kept E s0 (State.bootImages s) := by
  delta State.bootImages
  repeat' (first
    | (refine fun _ => ?_)
    | (with_reducible first | assumption | apply State.rejectImage_kept | apply State.setF_kept | apply kept_ite | apply kept_foldl)
    | (extract_lets +onlyGivenNames z
       first
         | (refine (show Kept E s0 z → _ from fun hz => ?_) ?_; clear_value z; rotate_left; dsimp only [z]; rotate_left)
         | clear_value z)
    | split
    | dsimp only)

theorem execImageAliveTimeout_kept (s : State) (h0 : Kept E s0 s) (e_seqr : E .seqr := by assumption) : ∃ t, execImageAliveTimeout s = .next t ∧ Kept E s0 t := by
  refine ⟨_, rfl, ?_⟩
  repeat' (first
    | (refine fun _ => ?_)
    | (with_reducible first | assumption | apply State.setSeqr_kept)
    | split
    | dsimp only)

theorem State.rstStatus_kept (s : State) (st : Nat) (h0 : Kept E s0 s) (e_regs : E .regs := by assumption) : Kept E s0 (State.rstStatus s st) := by
  delta State.rstStatus
  repeat' (first
    | (with_reducible first | assumption | apply State.setF_kept)
    | dsimp only)

theorem execImageWrite_kept (acr : Acr) (v : Nat) (bytes : List Byte) (s : State) (h0 : Kept E s0 s) (e_boot : E .boot := by assumption) (e_latch : E .latch := by assumption) (e_msixs : E .msixs := by assumption) (e_out : E .out := by assumption) (e_regs : E .regs := by assumption) : ∃ t, execImageWrite acr v bytes s = .next t ∧ Kept E s0 t := by
  refine ⟨_, rfl, ?_⟩
  repeat' (first
    | (refine fun _ => ?_)
    | (with_reducible first | assumption | apply State.forDevice_kept | apply State.rstStatus_kept | apply State.setBoot_kept | apply State.setF_kept | apply State.setLatch_kept | apply kept_ite)
    | (extract_lets +onlyGivenNames z
       first
         | (refine (show Kept E s0 z → _ from fun hz => ?_) ?_; clear_value z; rotate_left; dsimp only [z]; rotate_left)
         | clear_value z)
    | split
    | dsimp only)

theorem execImageWriteComplete_kept (s : State) (h0 : Kept E s0 s) (e_boot : E .boot := by assumption) (e_regs : E .regs := by assumption) (e_seqr : E .seqr := by assumption) : ∃ t, execImageWriteComplete s = .next t ∧ Kept E s0 t := by
  refine ⟨_, rfl, ?_⟩
  repeat' (first
    | (refine fun _ => ?_)
    | (with_reducible first | assumption | apply State.rstStatus_kept | apply State.runPhases_kept | apply State.setBoot_kept | apply State.setF_kept | apply kept_ite)
    | (extract_lets +onlyGivenNames z
       first
         | (refine (show Kept E s0 z → _ from fun hz => ?_) ?_; clear_value z; rotate_left; dsimp only [z]; rotate_left)
         | clear_value z)
    | split
    | dsimp only)

theorem execRaiseMinsecver_kept (acr : Acr) (v : Nat) (s : State) (h0 : Kept E s0 s) (e_boot : E .boot := by assumption) (e_latch : E .latch := by assumption) (e_msixs : E .msixs := by assumption) (e_out : E .out := by assumption) (e_regs : E .regs := by assumption) : ∃ t, execRaiseMinsecver acr v s = .next t ∧ Kept E s0 t := by
  refine ⟨_, rfl, ?_⟩
  repeat' (first
    | (refine fun _ => ?_)
    | (with_reducible first | assumption | apply State.forDevice_kept | apply State.rstStatus_kept | apply State.setBoot_kept | apply State.setF_kept | apply State.setLatch_kept | apply kept_ite)
    | (extract_lets +onlyGivenNames z
       first
         | (refine (show Kept E s0 z → _ from fun hz => ?_) ?_; clear_value z; rotate_left; dsimp only [z]; rotate_left)
         | clear_value z)
    | split
    | dsimp only)

end Sys2Proof.Machine
end

