-- ==== Sys2Proof/Laws/KeptCharter.lean ====
section
/-!
SUPPORT. Laws/KeptCharter.lean: the operations of Machine/Charter.lean change neither the queue nor the canonical forms.
-/
namespace Sys2Proof.Machine

set_option Elab.async false
set_option linter.all false

variable {E : Comp → Prop} {s0 : State}

theorem foldl_rises {α β : Type} (f : Tab β → α → Tab β) (hf : ∀ t x, rises t = true → rises (f t x) = true) (xs : List α) {t : Tab β}
    (h : rises t = true) : rises (xs.foldl f t) = true := by
  induction xs generalizing t with
  | nil => exact h
  | cons x xs ih => exact ih (hf t x h)

theorem Chart.apply_rises (c : Chart) (b : List Byte) (h : rises c.regs = true) : rises (c.apply b).regs = true := by
  unfold Chart.apply
  refine foldl_rises _ (fun t r ht => ?_) _ ?_
  · split
    · exact foldl_rises _ (fun t f ht => rises_tset _ _ ht) _ ht
    · exact ht
  · split
    · exact rises_tclear _ h
    · exact h

theorem State.verifyFrom_rises (s : State) {c c' : Chart} {ix : Nat} (recs : List (List Byte)) (e : s.verifyFrom c ix recs = .inl c')
    (h : rises c.regs = true) : rises c'.regs = true := by
  induction recs generalizing c ix with
  | nil => cases e; exact h
  | cons b t ih =>
    unfold State.verifyFrom at e
    by_cases hh : chKind b = (if ix = 0 then 0 else 1) ∧ s.recordStatus c b = 0
    · rw [if_pos hh] at e
      exact ih e (Chart.apply_rises _ _ h)
    · rw [if_neg hh] at e
      cases e

theorem State.verifySlot_rises {s : State} {k : Nat} {c : Chart} (e : s.verifySlot k = .inl c) (h : rises s.regs = true) : rises c.regs = true := by
  unfold State.verifySlot at e
  split at e
  · cases e
  · exact State.verifyFrom_rises s _ e (rises_tclear _ h)

theorem State.under_kept (s : State) (c : Chart) (h0 : Kept E s0 s) (hc : s0.canon = true → rises c.regs = true) (e_regs : E .regs := by assumption) : Kept E s0 (State.under s c) := by
  refine ⟨fun d n => ?_, fun w => ?_⟩
  · have a := h0.1 d n
    cases d <;> first | exact a | exact absurd (by assumption) n
  · have g := State.canon_iff.1 (h0.2 w)
    have g' := hc w
    exact State.canon_iff.2 (by simp_all [State.under])

theorem State.fuseOwner_kept (s : State) (b : List Byte) (h0 : Kept E s0 s) (e_boot : E .boot := by assumption) : Kept E s0 (State.fuseOwner s b) := by
  delta State.fuseOwner
  repeat' (first
    | (with_reducible first | assumption | apply State.setBoot_kept | apply kept_ite)
    | split
    | dsimp only)

theorem State.loadChart_kept (s : State) (c : Chart) (k : Nat) (h0 : Kept E s0 s) (hc : s0.canon = true → rises c.regs = true) (e_boot : E .boot := by assumption) (e_regs : E .regs := by assumption) :
    Kept E s0 (State.loadChart s c k) := by
  delta State.loadChart
  repeat' (first
    | (with_reducible first | assumption | apply State.setBoot_kept | apply State.setF_kept | apply State.under_kept | apply kept_ite)
    | exact hc (by assumption)
    | (extract_lets +onlyGivenNames z
       first
         | (refine (show Kept E s0 z → _ from fun hz => ?_) ?_; clear_value z; rotate_left; dsimp only [z]; rotate_left)
         | clear_value z)
    | split
    | dsimp only)

theorem State.slotRecord_kept (s : State) (k ix : Nat) (h0 : Kept E s0 s) (e_erq : E .erq := by assumption) (e_folded : E .folded := by assumption) (e_fwLog : E .fwLog := by assumption) (e_msixs : E .msixs := by assumption) (e_out : E .out := by assumption) (e_regs : E .regs := by assumption) (e_rseq : E .rseq := by assumption) : Kept E s0 (State.slotRecord s k ix) := by
  delta State.slotRecord
  repeat' (first
    | (with_reducible first | assumption | apply State.record_kept)
    | dsimp only)

theorem State.bootCharter_kept (s : State) (h0 : Kept E s0 s) (e_boot : E .boot := by assumption) (e_erq : E .erq := by assumption) (e_folded : E .folded := by assumption) (e_fwLog : E .fwLog := by assumption) (e_msixs : E .msixs := by assumption) (e_out : E .out := by assumption) (e_regs : E .regs := by assumption) (e_rseq : E .rseq := by assumption) : Kept E s0 (State.bootCharter s) := by
  unfold State.bootCharter
  dsimp only
  split
  · next c e => exact State.loadChart_kept _ _ _ (State.fuseOwner_kept _ _ h0) fun w => State.verifySlot_rises e (h0.regs w)
  · next i e =>
    have h1 : Kept E s0 (s.slotRecord s.boot.dir.chslot i) := State.slotRecord_kept _ _ _ h0
    split
    · next c e => exact State.loadChart_kept _ _ _ (State.fuseOwner_kept _ _ h1) fun w => State.verifySlot_rises e (h1.regs w)
    · exact State.setF_kept _ _ _ _ (State.loadChart_kept _ _ _ (State.slotRecord_kept _ _ _ h1) fun w => rises_tclear _ (h1.regs w))

theorem State.amdStatus_kept (s : State) (st : Nat) (h0 : Kept E s0 s) (e_regs : E .regs := by assumption) : Kept E s0 (State.amdStatus s st) := by
  delta State.amdStatus
  repeat' (first
    | (with_reducible first | assumption | apply State.setF_kept)
    | dsimp only)

theorem State.dropAmendment_kept (s : State) (h0 : Kept E s0 s) (e_boot : E .boot := by assumption) (e_regs : E .regs := by assumption) : Kept E s0 (State.dropAmendment s) := by
  delta State.dropAmendment
  repeat' (first
    | (with_reducible first | assumption | apply State.record_kept | apply State.setBoot_kept | apply State.setF_kept)
    | dsimp only)

theorem State.deliver_kept (s : State) (b : List Byte) (h0 : Kept E s0 s) (e_boot : E .boot := by assumption) (e_regs : E .regs := by assumption) : Kept E s0 (State.deliver s b) := by
  delta State.deliver
  repeat' (first
    | (with_reducible first | assumption | apply State.amdStatus_kept | apply State.fuseOwner_kept | apply State.record_kept | apply State.setBoot_kept | apply State.setF_kept | apply kept_ite)
    | (extract_lets +onlyGivenNames z
       first
         | (refine (show Kept E s0 z → _ from fun hz => ?_) ?_; clear_value z; rotate_left; dsimp only [z]; rotate_left)
         | clear_value z)
    | split
    | dsimp only)

theorem execAmendmentSubmit_kept (acr : Acr) (v : Nat) (record : List Byte) (s : State) (h0 : Kept E s0 s) (e_boot : E .boot := by assumption) (e_msixs : E .msixs := by assumption) (e_out : E .out := by assumption) (e_regs : E .regs := by assumption) : ∃ t, execAmendmentSubmit acr v record s = .next t ∧ Kept E s0 t := by
  refine ⟨_, rfl, ?_⟩
  repeat' (first
    | (refine fun _ => ?_)
    | (with_reducible first | assumption | apply State.amdStatus_kept | apply State.deliver_kept | apply State.emit_kept | apply State.record_kept | apply State.refuseAcc_kept | apply kept_ite)
    | split
    | dsimp only)

theorem execAmendmentDiscard_kept (acr : Acr) (v : Nat) (s : State) (h0 : Kept E s0 s) (e_boot : E .boot := by assumption) (e_msixs : E .msixs := by assumption) (e_out : E .out := by assumption) (e_regs : E .regs := by assumption) : ∃ t, execAmendmentDiscard acr v s = .next t ∧ Kept E s0 t := by
  refine ⟨_, rfl, ?_⟩
  repeat' (first
    | (refine fun _ => ?_)
    | (with_reducible first | assumption | apply State.amdStatus_kept | apply State.dropAmendment_kept | apply State.refuseAcc_kept | apply kept_ite)
    | split
    | dsimp only)

theorem State.clearReach_kept (s : State) (r : Nat) (h0 : Kept E s0 s) (e_clusters : E .clusters := by assumption) (e_regs : E .regs := by assumption) : Kept E s0 (State.clearReach s r) := by
  delta State.clearReach
  repeat' (first
    | (refine fun _ => ?_)
    | (with_reducible first | assumption | apply State.setCluster_kept | apply State.setF_kept | apply kept_foldl)
    | (extract_lets +onlyGivenNames z
       first
         | (refine (show Kept E s0 z → _ from fun hz => ?_) ?_; clear_value z; rotate_left; dsimp only [z]; rotate_left)
         | clear_value z)
    | dsimp only)

theorem State.newKey_kept (s : State) (r : Nat) (h0 : Kept E s0 s) (e_flash : E .flash := by assumption) (e_regs : E .regs := by assumption) : Kept E s0 (State.newKey s r) := by
  delta State.newKey
  repeat' (first
    | (with_reducible first | assumption | apply State.dropUpdate_kept | apply State.giveFree_kept | apply State.setF_kept | apply State.setRegion_kept)
    | (extract_lets +onlyGivenNames z
       first
         | (refine (show Kept E s0 z → _ from fun hz => ?_) ?_; clear_value z; rotate_left; dsimp only [z]; rotate_left)
         | (refine (show Kept E s0 z.2.1 → _ from fun hz => ?_) ?_; clear_value z; rotate_left; dsimp only [z]; rotate_left)
         | (refine (show Kept E s0 z.2.2 → _ from fun hz => ?_) ?_; clear_value z; rotate_left; dsimp only [z]; rotate_left)
         | clear_value z)
    | dsimp only)

theorem State.releaseMoved_kept (s b : State) (h0 : Kept E s0 s) (h1 : Kept E s0 b) (e_agents : E .agents := by assumption) (e_clusters : E .clusters := by assumption) (e_flash : E .flash := by assumption) (e_regs : E .regs := by assumption) : Kept E s0 (State.releaseMoved s b) := by
  delta State.releaseMoved
  repeat' (first
    | (refine fun _ => ?_)
    | (with_reducible first | assumption | apply State.clearReach_kept | apply State.clearRegs_kept | apply State.newKey_kept | apply State.setAgent_kept | apply State.setF_kept | apply kept_ite | apply kept_foldl)
    | (extract_lets +onlyGivenNames z
       first
         | (refine (show Kept E s0 z → _ from fun hz => ?_) ?_; clear_value z; rotate_left; dsimp only [z]; rotate_left)
         | clear_value z)
    | split
    | dsimp only)

theorem execAmendmentApply_kept (s : State) (h0 : Kept E s0 s) (e_agents : E .agents := by assumption) (e_clusters : E .clusters := by assumption) (e_flash : E .flash := by assumption) (e_regs : E .regs := by assumption) : ∃ t, execAmendmentApply s = .next t ∧ Kept E s0 t := by
  refine ⟨_, rfl, ?_⟩
  repeat' (first
    | (refine fun _ => ?_)
    | (with_reducible first | assumption | apply State.record_kept | apply State.releaseMoved_kept | apply State.setF_kept | apply State.under_kept | apply kept_ite)
    | exact Chart.apply_rises _ _ (h0.regs (by assumption))
    | split
    | dsimp only)

theorem State.commitAmendment_kept (s : State) (b : List Byte) (h0 : Kept E s0 s) (e_boot : E .boot := by assumption) (e_ecc : E .ecc := by assumption) (e_mem : E .mem := by assumption) (e_regs : E .regs := by assumption) : Kept E s0 (State.commitAmendment s b) := by
  delta State.commitAmendment
  extract_lets c t k src b1 t1 t2
  have h1 : Kept E s0 t := by
    refine kept_foldl _ (fun t n h => ?_) _ h0
    exact kept_ite (State.setF_kept _ _ _ _ (State.clearSite_kept _ _ h)) h
  have h2 : Kept E s0 t1 := State.setBoot_kept _ _ h1
  clear_value t1
  have h3 : Kept E s0 t2 := State.loadChart_kept _ _ _ h2 (fun w => Chart.apply_rises t1.chart b (h2.regs w))
  exact State.amdStatus_kept _ _ (State.setF_kept _ _ _ _ (State.setF_kept _ _ _ _ h3))

end Sys2Proof.Machine
end

