-- ==== Sys2Proof/Laws/KeptResets.lean ====
section
/-!
SUPPORT. Laws/KeptResets.lean: the operations of Machine/Resets.lean change neither the queue nor the canonical forms.
-/
namespace Sys2Proof.Machine

set_option Elab.async false
set_option linter.all false

variable {E : Comp → Prop} {s0 : State}

theorem State.takeOver_kept (s : State) (x : Nat) (h0 : Kept E s0 s) (e_cmds : E .cmds := by assumption) (e_ctxs : E .ctxs := by assumption) (e_ecc : E .ecc := by assumption) (e_erq : E .erq := by assumption) (e_evseq : E .evseq := by assumption) (e_fences : E .fences := by assumption) (e_flash : E .flash := by assumption) (e_folded : E .folded := by assumption) (e_fresh : E .fresh := by assumption) (e_fwLog : E .fwLog := by assumption) (e_handling : E .handling := by assumption) (e_mem : E .mem := by assumption) (e_msixs : E .msixs := by assumption) (e_out : E .out := by assumption) (e_ports : E .ports := by assumption) (e_queues : E .queues := by assumption) (e_regs : E .regs := by assumption) (e_rseq : E .rseq := by assumption) (e_streams : E .streams := by assumption) : Kept E s0 (State.takeOver s x) := by
  delta State.takeOver
  repeat' (first
    | (with_reducible first | assumption | apply State.setCtx_kept | apply State.startReset_kept | apply State.teardown_kept | apply kept_ite)
    | (extract_lets +onlyGivenNames z
       first
         | (refine (show Kept E s0 z → _ from fun hz => ?_) ?_; clear_value z; rotate_left; dsimp only [z]; rotate_left)
         | (refine (show Kept E s0 z.s → _ from fun hz => ?_) ?_; clear_value z; rotate_left; dsimp only [z]; rotate_left)
         | clear_value z)
    | split
    | dsimp only)

theorem State.freeCtx_kept (s : State) (x : Nat) (h0 : Kept E s0 s) (e_cmds : E .cmds := by assumption) (e_ctxs : E .ctxs := by assumption) (e_ecc : E .ecc := by assumption) (e_erq : E .erq := by assumption) (e_evseq : E .evseq := by assumption) (e_fences : E .fences := by assumption) (e_flash : E .flash := by assumption) (e_folded : E .folded := by assumption) (e_fresh : E .fresh := by assumption) (e_fwLog : E .fwLog := by assumption) (e_mem : E .mem := by assumption) (e_msixs : E .msixs := by assumption) (e_out : E .out := by assumption) (e_ports : E .ports := by assumption) (e_queues : E .queues := by assumption) (e_regs : E .regs := by assumption) (e_rseq : E .rseq := by assumption) (e_streams : E .streams := by assumption) : Kept E s0 (State.freeCtx s x) := by
  delta State.freeCtx
  repeat' (first
    | (with_reducible first | assumption | apply State.abortCtx_kept | apply State.ctxOpEnd_kept | apply State.resetCtxRegs_kept | apply State.setCtx_kept | apply State.setF_kept)
    | (extract_lets +onlyGivenNames z
       first
         | (refine (show Kept E s0 z → _ from fun hz => ?_) ?_; clear_value z; rotate_left; dsimp only [z]; rotate_left)
         | clear_value z)
    | split
    | dsimp only)

theorem State.resetPartition_kept (s : State) (p : Nat) (h0 : Kept E s0 s) (e_agents : E .agents := by assumption) (e_clusters : E .clusters := by assumption) (e_cmds : E .cmds := by assumption) (e_ctxs : E .ctxs := by assumption) (e_ecc : E .ecc := by assumption) (e_engines : E .engines := by assumption) (e_erq : E .erq := by assumption) (e_evseq : E .evseq := by assumption) (e_fences : E .fences := by assumption) (e_flash : E .flash := by assumption) (e_folded : E .folded := by assumption) (e_fresh : E .fresh := by assumption) (e_fwLog : E .fwLog := by assumption) (e_mem : E .mem := by assumption) (e_msixs : E .msixs := by assumption) (e_out : E .out := by assumption) (e_ports : E .ports := by assumption) (e_queues : E .queues := by assumption) (e_regs : E .regs := by assumption) (e_rseq : E .rseq := by assumption) (e_streams : E .streams := by assumption) : Kept E s0 (State.resetPartition s p) := by
  delta State.resetPartition
  extract_lets qs t1 t2 t3 t4 src t5 t6
  have h1 : Kept E s0 t1 := kept_foldl _ (fun t x h => freeCtx_kept _ _ h) _ h0
  have h2 : Kept E s0 t2 := kept_foldl _ (fun t x h => State.setQueue_kept _ _ _ (State.setF_kept _ _ _ _ h)) _ h1
  clear_value t2
  have h3 : Kept E s0 t3 := kept_regs_evseq _ _ h2 (rises_tclear _) (rises_tset _ _)
  clear_value t3
  have h4 : Kept E s0 t4 := kept_foldl _ (fun t x h => State.setCluster_kept _ _ _ h) _ h3
  clear_value t4
  have h5 : Kept E s0 t5 := State.setFlash_kept _ (State.setAgent_kept _ _ _ h4) (fun h => h)
  clear_value t5
  have h6 : Kept E s0 t6 := kept_foldl _ (fun t x h => State.freeTheStream_kept _ _ h) _ h5
  exact State.dropUpdates_kept _ _ h6

theorem execPartitionReset_kept (acr : Acr) (v : Nat) (s : State) (h0 : Kept E s0 s) (e_boot : E .boot := by assumption) (e_cmds : E .cmds := by assumption) (e_ctxs : E .ctxs := by assumption) (e_ecc : E .ecc := by assumption) (e_erq : E .erq := by assumption) (e_evseq : E .evseq := by assumption) (e_fences : E .fences := by assumption) (e_flash : E .flash := by assumption) (e_folded : E .folded := by assumption) (e_fresh : E .fresh := by assumption) (e_fwLog : E .fwLog := by assumption) (e_handling : E .handling := by assumption) (e_mem : E .mem := by assumption) (e_msixs : E .msixs := by assumption) (e_out : E .out := by assumption) (e_ports : E .ports := by assumption) (e_queues : E .queues := by assumption) (e_regs : E .regs := by assumption) (e_rseq : E .rseq := by assumption) (e_streams : E .streams := by assumption) : ∃ t, execPartitionReset acr v s = .next t ∧ Kept E s0 t := by
  refine ⟨_, rfl, ?_⟩
  repeat' (first
    | (refine fun _ => ?_)
    | (with_reducible first | assumption | apply State.forDevice_kept | apply State.rstStatus_kept | apply State.setBoot_kept | apply State.setF_kept | apply State.takeOver_kept | apply kept_ite | apply kept_foldl)
    | (extract_lets +onlyGivenNames z
       first
         | (refine (show Kept E s0 z → _ from fun hz => ?_) ?_; clear_value z; rotate_left; dsimp only [z]; rotate_left)
         | clear_value z)
    | split
    | dsimp only)

theorem execPartitionResetEnd_kept (s : State) (h0 : Kept E s0 s) (e_agents : E .agents := by assumption) (e_boot : E .boot := by assumption) (e_clusters : E .clusters := by assumption) (e_cmds : E .cmds := by assumption) (e_ctxs : E .ctxs := by assumption) (e_ecc : E .ecc := by assumption) (e_engines : E .engines := by assumption) (e_erq : E .erq := by assumption) (e_evseq : E .evseq := by assumption) (e_fences : E .fences := by assumption) (e_flash : E .flash := by assumption) (e_folded : E .folded := by assumption) (e_fresh : E .fresh := by assumption) (e_fwLog : E .fwLog := by assumption) (e_mem : E .mem := by assumption) (e_msixs : E .msixs := by assumption) (e_out : E .out := by assumption) (e_ports : E .ports := by assumption) (e_queues : E .queues := by assumption) (e_regs : E .regs := by assumption) (e_rseq : E .rseq := by assumption) (e_streams : E .streams := by assumption) : ∃ t, execPartitionResetEnd s = .next t ∧ Kept E s0 t := by
  refine ⟨_, rfl, ?_⟩
  repeat' (first
    | (refine fun _ => ?_)
    | (with_reducible first | assumption | apply State.resetPartition_kept | apply State.rstStatus_kept | apply State.setBoot_kept | apply State.setF_kept)
    | split
    | dsimp only)

theorem execFunctionLevelReset_kept (fn : Nat) (rings : List (Nat × List (List Byte))) (s : State) (h0 : Kept E s0 s) (e_cmds : E .cmds := by assumption) (e_ctxs : E .ctxs := by assumption) (e_ecc : E .ecc := by assumption) (e_engines : E .engines := by assumption) (e_erq : E .erq := by assumption) (e_evseq : E .evseq := by assumption) (e_fences : E .fences := by assumption) (e_folded : E .folded := by assumption) (e_fresh : E .fresh := by assumption) (e_fwLog : E .fwLog := by assumption) (e_mem : E .mem := by assumption) (e_msixs : E .msixs := by assumption) (e_nextCmd : E .nextCmd := by assumption) (e_out : E .out := by assumption) (e_queues : E .queues := by assumption) (e_regs : E .regs := by assumption) (e_rseq : E .rseq := by assumption) (e_streams : E .streams := by assumption) : ∃ t, execFunctionLevelReset fn rings s = .next t ∧ Kept E s0 t := by
  refine ⟨_, rfl, ?_⟩
  repeat' (first
    | (refine fun _ => ?_)
    | (with_reducible first | assumption | apply State.autoClose_kept | apply State.disableQueue_kept | apply State.disableStream_kept | apply State.setCtx_kept | apply State.setMsix_kept | apply State.setStream_kept | apply kept_ite | apply kept_foldl)
    | (extract_lets +onlyGivenNames z
       first
         | (refine (show Kept E s0 z → _ from fun hz => ?_) ?_; clear_value z; rotate_left; dsimp only [z]; rotate_left)
         | (refine (show Kept E s0 z.s → _ from fun hz => ?_) ?_; clear_value z; rotate_left; dsimp only [z]; rotate_left)
         | (refine (show Kept E s0 z.1 → _ from fun hz => ?_) ?_; clear_value z; rotate_left; dsimp only [z]; rotate_left)
         | (refine (show Kept E s0 z.2.1 → _ from fun hz => ?_) ?_; clear_value z; rotate_left; dsimp only [z]; rotate_left)
         | (refine (show Kept E s0 z.2.2 → _ from fun hz => ?_) ?_; clear_value z; rotate_left; dsimp only [z]; rotate_left)
         | clear_value z)
    | split
    | dsimp only)

theorem State.wipe_kept (s : State) (h0 : Kept E s0 s) (e_agents : E .agents := by assumption) (e_arch : E .arch := by assumption) (e_boot : E .boot := by assumption) (e_bundle : E .bundle := by assumption) (e_clusters : E .clusters := by assumption) (e_cmds : E .cmds := by assumption) (e_ctxs : E .ctxs := by assumption) (e_engines : E .engines := by assumption) (e_evseq : E .evseq := by assumption) (e_fences : E .fences := by assumption) (e_flash : E .flash := by assumption) (e_handling : E .handling := by assumption) (e_latch : E .latch := by assumption) (e_lostIslands : E .lostIslands := by assumption) (e_memOp : E .memOp := by assumption) (e_pcieLanes : E .pcieLanes := by assumption) (e_ports : E .ports := by assumption) (e_power : E .power := by assumption) (e_queues : E .queues := by assumption) (e_regs : E .regs := by assumption) (e_sites : E .sites := by assumption) (e_straits : E .straits := by assumption) (e_streams : E .streams := by assumption) : Kept E s0 (State.wipe s) := by
  refine h0.trans_of (fun c n => by cases c <;> first | rfl | exact absurd (by assumption) n) fun w => ?_
  have g := State.canon_iff.1 w
  exact State.canon_iff.2 ⟨g.1, g.2.1, rises_filter _ g.2.2.1, rfl, rfl, rfl, rfl, rfl, rfl, rfl, rfl, rfl, rfl, g.2.2.2.2.2.2.2.2.2.2.2.2.2.1, rfl,
    foldl_rises _ (fun t e h => rises_tset _ _ h) _ rfl⟩

theorem State.phase3Up_kept (s : State) (h0 : Kept E s0 s) (e_agents : E .agents := by assumption) (e_arch : E .arch := by assumption) (e_boot : E .boot := by assumption) (e_bundle : E .bundle := by assumption) (e_clearRetired : E .clearRetired := by assumption) (e_clusters : E .clusters := by assumption) (e_cmds : E .cmds := by assumption) (e_ctxs : E .ctxs := by assumption) (e_engines : E .engines := by assumption) (e_erq : E .erq := by assumption) (e_evseq : E .evseq := by assumption) (e_fences : E .fences := by assumption) (e_flash : E .flash := by assumption) (e_folded : E .folded := by assumption) (e_fwLog : E .fwLog := by assumption) (e_handling : E .handling := by assumption) (e_latch : E .latch := by assumption) (e_lostIslands : E .lostIslands := by assumption) (e_memOp : E .memOp := by assumption) (e_msixs : E .msixs := by assumption) (e_out : E .out := by assumption) (e_pcieLanes : E .pcieLanes := by assumption) (e_ports : E .ports := by assumption) (e_power : E .power := by assumption) (e_queues : E .queues := by assumption) (e_regs : E .regs := by assumption) (e_retired : E .retired := by assumption) (e_rseq : E .rseq := by assumption) (e_seqr : E .seqr := by assumption) (e_sites : E .sites := by assumption) (e_straits : E .straits := by assumption) (e_streams : E .streams := by assumption) : Kept E s0 (State.phase3Up s) := by
  delta State.phase3Up
  extract_lets st t1 t2 t3 t4 t5 t6
  have h1 : Kept E s0 t1 := State.clearRegs_kept _ _ (State.wipe_kept _ h0)
  clear_value t1
  have h2 : Kept E s0 t2 := State.setF_kept _ _ _ _ h1
  clear_value t2
  have h3 : Kept E s0 t3 := kept_ite ((kept_retired_clear e_retired e_clearRetired _ _).2 h2) h2
  clear_value t3
  have h4 : Kept E s0 t4 := State.amdStatus_kept _ _ (State.setF_kept _ _ _ _ h3)
  clear_value t4
  have h5 : Kept E s0 t5 := State.bootCharter_kept _ (State.bootImages_kept _ h4)
  clear_value t5
  have h6 : Kept E s0 t6 := State.setF_kept _ _ _ _ h5
  exact State.setSeqr_kept _ _ h6

theorem State.phase4Up_kept (s : State) (h0 : Kept E s0 s) (e_clusters : E .clusters := by assumption) (e_lostIslands : E .lostIslands := by assumption) (e_regs : E .regs := by assumption) : Kept E s0 (State.phase4Up s) := by
  delta State.phase4Up
  extract_lets t1 t2 t3
  have h1 : Kept E s0 t1 := kept_clusters_lost h0
  clear_value t1
  have h2 : Kept E s0 t2 := kept_foldl _ (fun t x h => State.setF_kept _ _ _ _ h) _ h1
  clear_value t2
  have h3 : Kept E s0 t3 := kept_ite (State.setF_kept _ _ _ _ h2) h2
  exact kept_foldl _ (fun t x h => State.setF_kept _ _ _ _ h) _ h3

theorem State.trainSite_kept (w : PhaseWork) (s : State) (n : Nat) (h0 : Kept E s0 s) (e_erq : E .erq := by assumption) (e_folded : E .folded := by assumption) (e_fwLog : E .fwLog := by assumption) (e_msixs : E .msixs := by assumption) (e_out : E .out := by assumption) (e_regs : E .regs := by assumption) (e_rseq : E .rseq := by assumption) : Kept E s0 (State.trainSite w s n) := by
  delta State.trainSite
  repeat' (first
    | (with_reducible first | assumption | apply State.record_kept | apply State.setF_kept)
    | (extract_lets +onlyGivenNames z
       first
         | (refine (show Kept E s0 z → _ from fun hz => ?_) ?_; clear_value z; rotate_left; dsimp only [z]; rotate_left)
         | clear_value z)
    | split
    | dsimp only)

theorem State.phase5Up_kept (w : PhaseWork) (s : State) (h0 : Kept E s0 s) (e_ecc : E .ecc := by assumption) (e_erq : E .erq := by assumption) (e_folded : E .folded := by assumption) (e_fwLog : E .fwLog := by assumption) (e_mem : E .mem := by assumption) (e_msixs : E .msixs := by assumption) (e_out : E .out := by assumption) (e_regs : E .regs := by assumption) (e_rseq : E .rseq := by assumption) : Kept E s0 (State.phase5Up w s) := by
  exact kept_foldl _ (fun t x h => State.trainSite_kept _ _ _ h) _ (kept_mem_nil h0)

theorem State.trainFlash_kept (s : State) (n : Option NandTrain) (h0 : Kept E s0 s) (e_flash : E .flash := by assumption) (e_regs : E .regs := by assumption) : Kept E s0 (State.trainFlash s n) := by
  delta State.trainFlash
  repeat' (first
    | (refine fun _ => ?_)
    | (with_reducible first | assumption | apply State.setF_kept | apply State.setFlash_kept | apply kept_ite | apply kept_foldl | apply kept_foldl_fst | apply kept_foldl_mid | apply kept_foldl_last | apply PartRun.foldl_kept | apply PartRun.foldl_fst_kept)
    | (extract_lets +onlyGivenNames z
       first
         | (refine (show Kept E s0 z → _ from fun hz => ?_) ?_; clear_value z; rotate_left; dsimp only [z]; rotate_left)
         | (refine (show Kept E s0 z.s → _ from fun hz => ?_) ?_; clear_value z; rotate_left; dsimp only [z]; rotate_left)
         | (refine (show Kept E s0 z.1 → _ from fun hz => ?_) ?_; clear_value z; rotate_left; dsimp only [z]; rotate_left)
         | (refine (show Kept E s0 z.1.s → _ from fun hz => ?_) ?_; clear_value z; rotate_left; dsimp only [z]; rotate_left)
         | (refine (show Kept E s0 z.2.1 → _ from fun hz => ?_) ?_; clear_value z; rotate_left; dsimp only [z]; rotate_left)
         | (refine (show Kept E s0 z.2.2 → _ from fun hz => ?_) ?_; clear_value z; rotate_left; dsimp only [z]; rotate_left)
         | (refine (show (∀ t, Kept E s0 t → Kept E s0 (z t)) → _ from fun hz => ?_) ?_; clear_value z; rotate_left; dsimp only [z]; rotate_left)
         | (have _ : Flash := z; subst z)
         | clear_value z)
    | with_reducible apply hz
    | ((with_reducible show rises _ = true); show rises (State.flash _).regions = true; assumption)
    | split
    | dsimp only)

theorem State.startPort_kept (w : PhaseWork) (s : State) (p : Nat) (h0 : Kept E s0 s) (e_ports : E .ports := by assumption) (e_regs : E .regs := by assumption) : Kept E s0 (State.startPort w s p) := by
  delta State.startPort
  repeat' (first
    | (with_reducible first | assumption | apply State.setF_kept | apply State.setPort_kept | apply kept_ite)
    | split
    | dsimp only)

theorem State.phase7Up_kept (s : State) (h0 : Kept E s0 s) (e_arch : E .arch := by assumption) (e_regs : E .regs := by assumption) : Kept E s0 (State.phase7Up s) := by
  delta State.phase7Up
  repeat' (first
    | (with_reducible first | assumption | apply State.startForm_kept | apply kept_ite)
    | split
    | dsimp only)

theorem State.phaseUp_kept (s : State) (w : PhaseWork) (k : Nat) (h0 : Kept E s0 s) (e_agents : E .agents := by assumption) (e_arch : E .arch := by assumption) (e_boot : E .boot := by assumption) (e_bundle : E .bundle := by assumption) (e_clearRetired : E .clearRetired := by assumption) (e_clusters : E .clusters := by assumption) (e_cmds : E .cmds := by assumption) (e_ctxs : E .ctxs := by assumption) (e_ecc : E .ecc := by assumption) (e_engines : E .engines := by assumption) (e_erq : E .erq := by assumption) (e_evseq : E .evseq := by assumption) (e_fences : E .fences := by assumption) (e_flash : E .flash := by assumption) (e_folded : E .folded := by assumption) (e_fwLog : E .fwLog := by assumption) (e_handling : E .handling := by assumption) (e_latch : E .latch := by assumption) (e_lostIslands : E .lostIslands := by assumption) (e_mem : E .mem := by assumption) (e_memOp : E .memOp := by assumption) (e_msixs : E .msixs := by assumption) (e_out : E .out := by assumption) (e_pcieLanes : E .pcieLanes := by assumption) (e_pins : E .pins := by assumption) (e_ports : E .ports := by assumption) (e_power : E .power := by assumption) (e_queues : E .queues := by assumption) (e_regs : E .regs := by assumption) (e_retired : E .retired := by assumption) (e_rseq : E .rseq := by assumption) (e_seqr : E .seqr := by assumption) (e_sites : E .sites := by assumption) (e_straits : E .straits := by assumption) (e_streams : E .streams := by assumption) : Kept E s0 (State.phaseUp s w k) := by
  delta State.phaseUp
  refine kept_ite h0 ?_
  split
  · exact (kept_pins e_pins _).2 (State.setArch_kept _ _ (State.setF_kept _ _ _ _ h0))
  · exact State.phase3Up_kept _ h0
  · exact State.phase4Up_kept _ h0
  · exact State.phase5Up_kept _ _ h0
  · exact kept_foldl _ (fun t x h => State.startPort_kept _ _ _ h) _ (State.trainFlash_kept _ _ h0)
  · exact State.phase7Up_kept _ h0
  · exact h0

theorem State.ctxDown_kept (s : State) (x : Nat) (h0 : Kept E s0 s) (e_cmds : E .cmds := by assumption) (e_ctxs : E .ctxs := by assumption) (e_ecc : E .ecc := by assumption) (e_erq : E .erq := by assumption) (e_evseq : E .evseq := by assumption) (e_fences : E .fences := by assumption) (e_flash : E .flash := by assumption) (e_folded : E .folded := by assumption) (e_fresh : E .fresh := by assumption) (e_fwLog : E .fwLog := by assumption) (e_handling : E .handling := by assumption) (e_mem : E .mem := by assumption) (e_msixs : E .msixs := by assumption) (e_out : E .out := by assumption) (e_ports : E .ports := by assumption) (e_queues : E .queues := by assumption) (e_regs : E .regs := by assumption) (e_rseq : E .rseq := by assumption) (e_streams : E .streams := by assumption) : Kept E s0 (State.ctxDown s x) := by
  delta State.ctxDown
  repeat' (first
    | (with_reducible first | assumption | apply State.abortCtx_kept | apply State.setF_kept | apply State.teardown_kept | apply kept_ite)
    | (extract_lets +onlyGivenNames z
       first
         | (refine (show Kept E s0 z → _ from fun hz => ?_) ?_; clear_value z; rotate_left; dsimp only [z]; rotate_left)
         | clear_value z)
    | split
    | dsimp only)

theorem State.phase7Down_kept (s : State) (h0 : Kept E s0 s) (e_cmds : E .cmds := by assumption) (e_ctxs : E .ctxs := by assumption) (e_ecc : E .ecc := by assumption) (e_erq : E .erq := by assumption) (e_evseq : E .evseq := by assumption) (e_fences : E .fences := by assumption) (e_flash : E .flash := by assumption) (e_folded : E .folded := by assumption) (e_fresh : E .fresh := by assumption) (e_fwLog : E .fwLog := by assumption) (e_handling : E .handling := by assumption) (e_mem : E .mem := by assumption) (e_msixs : E .msixs := by assumption) (e_out : E .out := by assumption) (e_ports : E .ports := by assumption) (e_queues : E .queues := by assumption) (e_regs : E .regs := by assumption) (e_rseq : E .rseq := by assumption) (e_streams : E .streams := by assumption) : Kept E s0 (State.phase7Down s) := by
  delta State.phase7Down
  exact kept_foldl _ (fun t x h => State.ctxDown_kept _ _ h) _ (kept_ite ((kept_cmds_fences e_cmds e_fences _ _).2 h0) h0)

theorem State.phase6Down_kept (s : State) (h0 : Kept E s0 s) (e_arch : E .arch := by assumption) (e_cmds : E .cmds := by assumption) (e_ctxs : E .ctxs := by assumption) (e_ecc : E .ecc := by assumption) (e_engines : E .engines := by assumption) (e_erq : E .erq := by assumption) (e_flash : E .flash := by assumption) (e_folded : E .folded := by assumption) (e_fresh : E .fresh := by assumption) (e_fwLog : E .fwLog := by assumption) (e_mem : E .mem := by assumption) (e_msixs : E .msixs := by assumption) (e_out : E .out := by assumption) (e_ports : E .ports := by assumption) (e_regs : E .regs := by assumption) (e_rseq : E .rseq := by assumption) (e_streams : E .streams := by assumption) : Kept E s0 (State.phase6Down s) := by
  delta State.phase6Down
  repeat' (first
    | (refine fun _ => ?_)
    | (with_reducible first | assumption | apply State.dropUpdates_kept | apply State.freeTheStream_kept | apply State.loseLink_kept | apply State.setF_kept | apply State.setFlash_kept | apply State.showStaged_kept | apply kept_ite | apply kept_foldl)
    | (extract_lets +onlyGivenNames z
       first
         | (refine (show Kept E s0 z → _ from fun hz => ?_) ?_; clear_value z; rotate_left; dsimp only [z]; rotate_left)
         | (refine (show Kept E s0 z.1 → _ from fun hz => ?_) ?_; clear_value z; rotate_left; dsimp only [z]; rotate_left)
         | (have _ : Flash := z; subst z)
         | clear_value z)
    | ((with_reducible show rises _ = true); show rises (State.flash _).regions = true; assumption)
    | split
    | dsimp only)

theorem State.phase5Down_kept (s : State) (h0 : Kept E s0 s) (e_ecc : E .ecc := by assumption) (e_mem : E .mem := by assumption) (e_memOp : E .memOp := by assumption) (e_regs : E .regs := by assumption) : Kept E s0 (State.phase5Down s) := by
  exact kept_foldl _ (fun t x h => State.setF_kept _ _ _ _ h) _ (kept_no_mem _ h0)

theorem State.phaseDown_kept (s : State) (k : Nat) (h0 : Kept E s0 s) (e_agents : E .agents := by assumption) (e_arch : E .arch := by assumption) (e_boot : E .boot := by assumption) (e_bundle : E .bundle := by assumption) (e_clusters : E .clusters := by assumption) (e_cmds : E .cmds := by assumption) (e_ctxs : E .ctxs := by assumption) (e_ecc : E .ecc := by assumption) (e_engines : E .engines := by assumption) (e_erq : E .erq := by assumption) (e_evseq : E .evseq := by assumption) (e_fences : E .fences := by assumption) (e_flash : E .flash := by assumption) (e_folded : E .folded := by assumption) (e_fresh : E .fresh := by assumption) (e_fwLog : E .fwLog := by assumption) (e_handling : E .handling := by assumption) (e_latch : E .latch := by assumption) (e_lostIslands : E .lostIslands := by assumption) (e_mem : E .mem := by assumption) (e_memOp : E .memOp := by assumption) (e_msixs : E .msixs := by assumption) (e_out : E .out := by assumption) (e_pcieLanes : E .pcieLanes := by assumption) (e_ports : E .ports := by assumption) (e_power : E .power := by assumption) (e_queues : E .queues := by assumption) (e_regs : E .regs := by assumption) (e_rseq : E .rseq := by assumption) (e_seqr : E .seqr := by assumption) (e_sites : E .sites := by assumption) (e_straits : E .straits := by assumption) (e_streams : E .streams := by assumption) : Kept E s0 (State.phaseDown s k) := by
  delta State.phaseDown
  refine kept_ite h0 ?_
  split
  · exact State.phase7Down_kept _ h0
  · exact State.phase6Down_kept _ h0
  · exact State.phase5Down_kept _ h0
  · exact kept_clusters_nil h0
  · exact kept_msixs_nil h0
  · exact State.setSeqr_kept _ _ (State.wipe_kept _ h0)
  · exact h0

theorem State.restPhases_kept (s : State) (h0 : Kept E s0 s) (e_pins : E .pins := by assumption) (e_regs : E .regs := by assumption) (e_seqr : E .seqr := by assumption) : Kept E s0 (State.restPhases s) := by
  delta State.restPhases
  repeat' (first
    | (with_reducible first | assumption | apply State.setF_kept | apply State.setSeqr_kept | apply kept_ite)
    | simp only [kept_pins e_pins]
    | (extract_lets +onlyGivenNames z
       first
         | (refine (show Kept E s0 z → _ from fun hz => ?_) ?_; clear_value z; rotate_left; dsimp only [z]; rotate_left)
         | clear_value z)
    | split
    | dsimp only)

theorem State.endReset_kept (s : State) (h0 : Kept E s0 s) (e_regs : E .regs := by assumption) (e_seqr : E .seqr := by assumption) : Kept E s0 (State.endReset s) := by
  delta State.endReset
  repeat' (first
    | (with_reducible first | assumption | apply State.setF_kept | apply State.setSeqr_kept)
    | dsimp only)

theorem State.follow_kept (s : State) (h0 : Kept E s0 s) (e_pins : E .pins := by assumption) (e_regs : E .regs := by assumption) (e_seqr : E .seqr := by assumption) : Kept E s0 (State.follow s) := by
  delta State.follow
  repeat' (first
    | (with_reducible first | assumption | apply State.restPhases_kept | apply State.runPhases_kept)
    | dsimp only)

theorem State.atBoundary_kept (s : State) (up : Bool) (h0 : Kept E s0 s) (e_pins : E .pins := by assumption) (e_regs : E .regs := by assumption) (e_seqr : E .seqr := by assumption) : Kept E s0 (State.atBoundary s up) := by
  delta State.atBoundary
  repeat' (first
    | (with_reducible first | assumption | apply State.endReset_kept | apply State.follow_kept | apply State.restPhases_kept | apply State.runPhases_kept | apply State.setF_kept | apply State.setSeqr_kept | apply kept_ite)
    | split
    | dsimp only)

theorem execPowerPhaseUp_kept (w : PhaseWork) (s : State) (h0 : Kept E s0 s) (e_agents : E .agents := by assumption) (e_arch : E .arch := by assumption) (e_boot : E .boot := by assumption) (e_bundle : E .bundle := by assumption) (e_clearRetired : E .clearRetired := by assumption) (e_clusters : E .clusters := by assumption) (e_cmds : E .cmds := by assumption) (e_ctxs : E .ctxs := by assumption) (e_ecc : E .ecc := by assumption) (e_engines : E .engines := by assumption) (e_erq : E .erq := by assumption) (e_evseq : E .evseq := by assumption) (e_fences : E .fences := by assumption) (e_flash : E .flash := by assumption) (e_folded : E .folded := by assumption) (e_fwLog : E .fwLog := by assumption) (e_handling : E .handling := by assumption) (e_latch : E .latch := by assumption) (e_lostIslands : E .lostIslands := by assumption) (e_mem : E .mem := by assumption) (e_memOp : E .memOp := by assumption) (e_msixs : E .msixs := by assumption) (e_out : E .out := by assumption) (e_pcieLanes : E .pcieLanes := by assumption) (e_pins : E .pins := by assumption) (e_ports : E .ports := by assumption) (e_power : E .power := by assumption) (e_queues : E .queues := by assumption) (e_regs : E .regs := by assumption) (e_retired : E .retired := by assumption) (e_rseq : E .rseq := by assumption) (e_seqr : E .seqr := by assumption) (e_sites : E .sites := by assumption) (e_straits : E .straits := by assumption) (e_streams : E .streams := by assumption) : ∃ t, execPowerPhaseUp w s = .next t ∧ Kept E s0 t := by
  refine ⟨_, rfl, ?_⟩
  repeat' (first
    | (refine fun _ => ?_)
    | (with_reducible first | assumption | apply State.atBoundary_kept | apply State.phaseUp_kept | apply State.setF_kept | apply kept_ite)
    | (extract_lets +onlyGivenNames z
       first
         | (refine (show Kept E s0 z → _ from fun hz => ?_) ?_; clear_value z; rotate_left; dsimp only [z]; rotate_left)
         | clear_value z)
    | split
    | dsimp only)

theorem execPowerPhaseDown_kept (s : State) (h0 : Kept E s0 s) (e_agents : E .agents := by assumption) (e_arch : E .arch := by assumption) (e_boot : E .boot := by assumption) (e_bundle : E .bundle := by assumption) (e_clusters : E .clusters := by assumption) (e_cmds : E .cmds := by assumption) (e_ctxs : E .ctxs := by assumption) (e_ecc : E .ecc := by assumption) (e_engines : E .engines := by assumption) (e_erq : E .erq := by assumption) (e_evseq : E .evseq := by assumption) (e_fences : E .fences := by assumption) (e_flash : E .flash := by assumption) (e_folded : E .folded := by assumption) (e_fresh : E .fresh := by assumption) (e_fwLog : E .fwLog := by assumption) (e_handling : E .handling := by assumption) (e_latch : E .latch := by assumption) (e_lostIslands : E .lostIslands := by assumption) (e_mem : E .mem := by assumption) (e_memOp : E .memOp := by assumption) (e_msixs : E .msixs := by assumption) (e_out : E .out := by assumption) (e_pcieLanes : E .pcieLanes := by assumption) (e_pins : E .pins := by assumption) (e_ports : E .ports := by assumption) (e_power : E .power := by assumption) (e_queues : E .queues := by assumption) (e_regs : E .regs := by assumption) (e_rseq : E .rseq := by assumption) (e_seqr : E .seqr := by assumption) (e_sites : E .sites := by assumption) (e_straits : E .straits := by assumption) (e_streams : E .streams := by assumption) : ∃ t, execPowerPhaseDown s = .next t ∧ Kept E s0 t := by
  refine ⟨_, rfl, ?_⟩
  repeat' (first
    | (refine fun _ => ?_)
    | (with_reducible first | assumption | apply State.atBoundary_kept | apply State.phaseDown_kept | apply State.setF_kept | apply State.setSeqr_kept | apply kept_ite)
    | (extract_lets +onlyGivenNames z
       first
         | (refine (show Kept E s0 z → _ from fun hz => ?_) ?_; clear_value z; rotate_left; dsimp only [z]; rotate_left)
         | clear_value z)
    | split
    | dsimp only)

theorem State.askDeviceReset_kept (s : State) (h0 : Kept E s0 s) (e_boot : E .boot := by assumption) (e_pins : E .pins := by assumption) (e_regs : E .regs := by assumption) (e_seqr : E .seqr := by assumption) : Kept E s0 (State.askDeviceReset s) := by
  delta State.askDeviceReset
  repeat' (first
    | (with_reducible first | assumption | apply State.amdStatus_kept | apply State.atBoundary_kept | apply State.setBoot_kept | apply State.setF_kept | apply State.setSeqr_kept | apply kept_ite)
    | (extract_lets +onlyGivenNames z
       first
         | (refine (show Kept E s0 z → _ from fun hz => ?_) ?_; clear_value z; rotate_left; dsimp only [z]; rotate_left)
         | clear_value z)
    | split
    | dsimp only)

theorem execDeviceReset_kept (src : Option (Acr × Nat)) (s : State) (h0 : Kept E s0 s) (e_boot : E .boot := by assumption) (e_msixs : E .msixs := by assumption) (e_out : E .out := by assumption) (e_pins : E .pins := by assumption) (e_regs : E .regs := by assumption) (e_seqr : E .seqr := by assumption) : ∃ t, execDeviceReset src s = .next t ∧ Kept E s0 t := by
  refine ⟨_, rfl, ?_⟩
  repeat' (first
    | (refine fun _ => ?_)
    | (with_reducible first | assumption | apply State.askDeviceReset_kept | apply State.forDevice_kept | apply State.rstStatus_kept | apply kept_ite | apply kept_foldl | apply kept_foldl_fst | apply kept_foldl_mid | apply kept_foldl_last | apply PartRun.foldl_kept | apply PartRun.foldl_fst_kept)
    | with_reducible exact kept_msixs_nil hz
    | (extract_lets +onlyGivenNames z
       first
         | (refine (show Kept E s0 z → _ from fun hz => ?_) ?_; clear_value z; rotate_left; dsimp only [z]; rotate_left)
         | (refine (show Kept E s0 z.s → _ from fun hz => ?_) ?_; clear_value z; rotate_left; dsimp only [z]; rotate_left)
         | (refine (show Kept E s0 z.1 → _ from fun hz => ?_) ?_; clear_value z; rotate_left; dsimp only [z]; rotate_left)
         | (refine (show Kept E s0 z.1.s → _ from fun hz => ?_) ?_; clear_value z; rotate_left; dsimp only [z]; rotate_left)
         | (refine (show Kept E s0 z.2.1 → _ from fun hz => ?_) ?_; clear_value z; rotate_left; dsimp only [z]; rotate_left)
         | (refine (show Kept E s0 z.2.2 → _ from fun hz => ?_) ?_; clear_value z; rotate_left; dsimp only [z]; rotate_left)
         | (refine (show (∀ t, Kept E s0 t → Kept E s0 (z t)) → _ from fun hz => ?_) ?_; clear_value z; rotate_left; dsimp only [z]; rotate_left)
         | (have _ : Flash := z; subst z)
         | clear_value z)
    | with_reducible apply hz
    | ((with_reducible show rises _ = true); show rises (State.flash _).regions = true; assumption)
    | split
    | dsimp only)

theorem execAmendmentCommit_kept (s : State) (h0 : Kept E s0 s) (e_boot : E .boot := by assumption) (e_ecc : E .ecc := by assumption) (e_mem : E .mem := by assumption) (e_pins : E .pins := by assumption) (e_regs : E .regs := by assumption) (e_seqr : E .seqr := by assumption) : ∃ t, execAmendmentCommit s = .next t ∧ Kept E s0 t := by
  refine ⟨_, rfl, ?_⟩
  repeat' (first
    | (refine fun _ => ?_)
    | (with_reducible first | assumption | apply State.atBoundary_kept | apply State.commitAmendment_kept | apply State.record_kept | apply kept_ite)
    | (extract_lets +onlyGivenNames z
       first
         | (refine (show Kept E s0 z → _ from fun hz => ?_) ?_; clear_value z; rotate_left; dsimp only [z]; rotate_left)
         | clear_value z)
    | split
    | dsimp only)

end Sys2Proof.Machine
end

