-- ==== Sys2Proof/Laws/KeptSignals.lean ====
section
/-!
SUPPORT. Laws/KeptSignals.lean: the operations of Machine/Signals.lean change neither the queue nor the canonical forms.
-/
namespace Sys2Proof.Machine

set_option Elab.async false
set_option linter.all false

variable {E : Comp → Prop} {s0 : State}

theorem State.setPins_kept (s : State) (p : Pins) (h0 : Kept E s0 s) (e_pins : E .pins := by assumption) : Kept E s0 (State.setPins s p) := by
  delta State.setPins
  repeat' (first
    | (with_reducible first | assumption)
    | simp only [kept_pins e_pins]
    | dsimp only)

theorem State.onRequest_kept (s : State) (src : Nat) (h0 : Kept E s0 s) (e_regs : E .regs := by assumption) (e_seqr : E .seqr := by assumption) : Kept E s0 (State.onRequest s src) := by
  delta State.onRequest
  repeat' (first
    | (with_reducible first | assumption | apply State.requestPower_kept | apply kept_ite)
    | split
    | dsimp only)

theorem State.offRequest_kept (s : State) (src : Nat) (h0 : Kept E s0 s) (e_regs : E .regs := by assumption) (e_seqr : E .seqr := by assumption) : Kept E s0 (State.offRequest s src) := by
  delta State.offRequest
  repeat' (first
    | (with_reducible first | assumption | apply State.requestPower_kept | apply kept_ite)
    | split
    | dsimp only)

theorem execOnReqRise_kept (s : State) (h0 : Kept E s0 s) (e_pins : E .pins := by assumption) (e_regs : E .regs := by assumption) (e_seqr : E .seqr := by assumption) : ∃ t, execOnReqRise s = .next t ∧ Kept E s0 t := by
  refine ⟨_, rfl, ?_⟩
  repeat' (first
    | (refine fun _ => ?_)
    | (with_reducible first | assumption | apply State.onRequest_kept | apply State.setPins_kept | apply kept_ite)
    | (extract_lets +onlyGivenNames z
       first
         | (refine (show Kept E s0 z → _ from fun hz => ?_) ?_; clear_value z; rotate_left; dsimp only [z]; rotate_left)
         | clear_value z)
    | split
    | dsimp only)

theorem execOnReqFall_kept (s : State) (h0 : Kept E s0 s) (e_pins : E .pins := by assumption) (e_regs : E .regs := by assumption) (e_seqr : E .seqr := by assumption) : ∃ t, execOnReqFall s = .next t ∧ Kept E s0 t := by
  refine ⟨_, rfl, ?_⟩
  repeat' (first
    | (refine fun _ => ?_)
    | (with_reducible first | assumption | apply State.offRequest_kept | apply State.setPins_kept)
    | dsimp only)

theorem execMbPowerRequest_kept (acr : Acr) (on : Bool) (s : State) (h0 : Kept E s0 s) (e_msixs : E .msixs := by assumption) (e_out : E .out := by assumption) (e_regs : E .regs := by assumption) (e_seqr : E .seqr := by assumption) : ∃ t, execMbPowerRequest acr on s = .next t ∧ Kept E s0 t := by
  refine ⟨_, rfl, ?_⟩
  repeat' (first
    | (refine fun _ => ?_)
    | (with_reducible first | assumption | apply State.offRequest_kept | apply State.onRequest_kept | apply State.refuseAcc_kept | apply State.rstStatus_kept | apply kept_ite)
    | split
    | dsimp only)

theorem State.abandonUp_kept (s : State) (h0 : Kept E s0 s) (e_regs : E .regs := by assumption) (e_seqr : E .seqr := by assumption) : Kept E s0 (State.abandonUp s) := by
  delta State.abandonUp
  repeat' (first
    | (with_reducible first | assumption | apply State.endReset_kept | apply State.setF_kept | apply State.setSeqr_kept | apply kept_ite)
    | (extract_lets +onlyGivenNames z
       first
         | (refine (show Kept E s0 z → _ from fun hz => ?_) ?_; clear_value z; rotate_left; dsimp only [z]; rotate_left)
         | clear_value z)
    | split
    | dsimp only)

theorem execPwrfailNFall_kept (s : State) (h0 : Kept E s0 s) (e_boot : E .boot := by assumption) (e_flash : E .flash := by assumption) (e_fresh : E .fresh := by assumption) (e_pins : E .pins := by assumption) (e_regs : E .regs := by assumption) (e_seqr : E .seqr := by assumption) : ∃ t, execPwrfailNFall s = .next t ∧ Kept E s0 t := by
  refine ⟨_, rfl, ?_⟩
  repeat' (first
    | (refine fun _ => ?_)
    | (with_reducible first | assumption | apply State.abandonUp_kept | apply State.dropAmendment_kept | apply State.flashFlush_kept | apply State.requestPower_kept | apply State.setPins_kept | apply kept_ite)
    | (extract_lets +onlyGivenNames z
       first
         | (refine (show Kept E s0 z → _ from fun hz => ?_) ?_; clear_value z; rotate_left; dsimp only [z]; rotate_left)
         | clear_value z)
    | split
    | dsimp only)

theorem execPwrfailNRise_kept (s : State) (h0 : Kept E s0 s) (e_pins : E .pins := by assumption) (e_regs : E .regs := by assumption) (e_seqr : E .seqr := by assumption) : ∃ t, execPwrfailNRise s = .next t ∧ Kept E s0 t := by
  refine ⟨_, rfl, ?_⟩
  repeat' (first
    | (refine fun _ => ?_)
    | (with_reducible first | assumption | apply State.onRequest_kept | apply State.setPins_kept | apply kept_ite)
    | (extract_lets +onlyGivenNames z
       first
         | (refine (show Kept E s0 z → _ from fun hz => ?_) ?_; clear_value z; rotate_left; dsimp only [z]; rotate_left)
         | clear_value z)
    | split
    | dsimp only)

theorem execPhaseBoundOverrun_kept (rail : Nat) (s : State) (h0 : Kept E s0 s) (e_agents : E .agents := by assumption) (e_cmds : E .cmds := by assumption) (e_erq : E .erq := by assumption) (e_fences : E .fences := by assumption) (e_flash : E .flash := by assumption) (e_folded : E .folded := by assumption) (e_fwLog : E .fwLog := by assumption) (e_handling : E .handling := by assumption) (e_msixs : E .msixs := by assumption) (e_out : E .out := by assumption) (e_regs : E .regs := by assumption) (e_rseq : E .rseq := by assumption) (e_seqr : E .seqr := by assumption) (e_streams : E .streams := by assumption) : ∃ t, execPhaseBoundOverrun rail s = .next t ∧ Kept E s0 t := by
  refine ⟨_, rfl, ?_⟩
  repeat' (first
    | (refine fun _ => ?_)
    | (with_reducible first | assumption | apply State.abandonUp_kept | apply State.fatal_kept | apply State.setF_kept | apply State.setSeqr_kept | apply kept_ite)
    | (extract_lets +onlyGivenNames z
       first
         | (refine (show Kept E s0 z → _ from fun hz => ?_) ?_; clear_value z; rotate_left; dsimp only [z]; rotate_left)
         | clear_value z)
    | split
    | dsimp only)

theorem execSysclkLoss_kept (s : State) (h0 : Kept E s0 s) (e_agents : E .agents := by assumption) (e_cmds : E .cmds := by assumption) (e_erq : E .erq := by assumption) (e_fences : E .fences := by assumption) (e_flash : E .flash := by assumption) (e_folded : E .folded := by assumption) (e_fwLog : E .fwLog := by assumption) (e_handling : E .handling := by assumption) (e_msixs : E .msixs := by assumption) (e_out : E .out := by assumption) (e_pins : E .pins := by assumption) (e_regs : E .regs := by assumption) (e_rseq : E .rseq := by assumption) (e_seqr : E .seqr := by assumption) (e_streams : E .streams := by assumption) : ∃ t, execSysclkLoss s = .next t ∧ Kept E s0 t := by
  refine ⟨_, rfl, ?_⟩
  repeat' (first
    | (refine fun _ => ?_)
    | (with_reducible first | assumption | apply State.fatal_kept | apply State.setPins_kept | apply State.setSeqr_kept | apply kept_ite)
    | (extract_lets +onlyGivenNames z
       first
         | (refine (show Kept E s0 z → _ from fun hz => ?_) ?_; clear_value z; rotate_left; dsimp only [z]; rotate_left)
         | clear_value z)
    | split
    | dsimp only)

theorem State.islandCtx_kept (s : State) (i r x : Nat) (h0 : Kept E s0 s) (e_cmds : E .cmds := by assumption) (e_ctxs : E .ctxs := by assumption) (e_ecc : E .ecc := by assumption) (e_erq : E .erq := by assumption) (e_evseq : E .evseq := by assumption) (e_fences : E .fences := by assumption) (e_flash : E .flash := by assumption) (e_folded : E .folded := by assumption) (e_fresh : E .fresh := by assumption) (e_fwLog : E .fwLog := by assumption) (e_handling : E .handling := by assumption) (e_mem : E .mem := by assumption) (e_msixs : E .msixs := by assumption) (e_out : E .out := by assumption) (e_ports : E .ports := by assumption) (e_queues : E .queues := by assumption) (e_regs : E .regs := by assumption) (e_rseq : E .rseq := by assumption) (e_streams : E .streams := by assumption) : Kept E s0 (State.islandCtx s i r x) := by
  delta State.islandCtx
  repeat' (first
    | (refine fun _ => ?_)
    | (with_reducible first | assumption | apply State.abortCtx_kept | apply State.endAs_kept | apply State.setCtx_kept | apply State.teardown_kept | apply kept_ite | apply kept_foldl)
    | (extract_lets +onlyGivenNames z
       first
         | (refine (show Kept E s0 z → _ from fun hz => ?_) ?_; clear_value z; rotate_left; dsimp only [z]; rotate_left)
         | clear_value z)
    | split
    | dsimp only)

theorem State.loseIsland_kept (s : State) (i why : Nat) (h0 : Kept E s0 s) (e_agents : E .agents := by assumption) (e_clusters : E .clusters := by assumption) (e_cmds : E .cmds := by assumption) (e_ctxs : E .ctxs := by assumption) (e_ecc : E .ecc := by assumption) (e_engines : E .engines := by assumption) (e_erq : E .erq := by assumption) (e_evseq : E .evseq := by assumption) (e_fences : E .fences := by assumption) (e_flash : E .flash := by assumption) (e_folded : E .folded := by assumption) (e_fresh : E .fresh := by assumption) (e_fwLog : E .fwLog := by assumption) (e_handling : E .handling := by assumption) (e_lostIslands : E .lostIslands := by assumption) (e_mem : E .mem := by assumption) (e_msixs : E .msixs := by assumption) (e_out : E .out := by assumption) (e_ports : E .ports := by assumption) (e_queues : E .queues := by assumption) (e_regs : E .regs := by assumption) (e_rseq : E .rseq := by assumption) (e_streams : E .streams := by assumption) : Kept E s0 (State.loseIsland s i why) := by
  delta State.loseIsland
  repeat' (first
    | (refine fun _ => ?_)
    | (with_reducible first | assumption | apply State.islandCtx_kept | apply State.loseSite_kept | apply State.openHandling_kept | apply State.record_kept | apply State.resetPartition_kept | apply kept_ite | apply kept_foldl)
    | simp only [kept_handling e_handling, kept_lostIslands e_lostIslands]
    | (extract_lets +onlyGivenNames z
       first
         | (refine (show Kept E s0 z → _ from fun hz => ?_) ?_; clear_value z; rotate_left; dsimp only [z]; rotate_left)
         | clear_value z)
    | split
    | dsimp only)

theorem execIslandLoss_kept (island why : Nat) (s : State) (h0 : Kept E s0 s) (e_agents : E .agents := by assumption) (e_clusters : E .clusters := by assumption) (e_cmds : E .cmds := by assumption) (e_ctxs : E .ctxs := by assumption) (e_ecc : E .ecc := by assumption) (e_engines : E .engines := by assumption) (e_erq : E .erq := by assumption) (e_evseq : E .evseq := by assumption) (e_fences : E .fences := by assumption) (e_flash : E .flash := by assumption) (e_folded : E .folded := by assumption) (e_fresh : E .fresh := by assumption) (e_fwLog : E .fwLog := by assumption) (e_handling : E .handling := by assumption) (e_lostIslands : E .lostIslands := by assumption) (e_mem : E .mem := by assumption) (e_msixs : E .msixs := by assumption) (e_out : E .out := by assumption) (e_ports : E .ports := by assumption) (e_queues : E .queues := by assumption) (e_regs : E .regs := by assumption) (e_rseq : E .rseq := by assumption) (e_streams : E .streams := by assumption) : ∃ t, execIslandLoss island why s = .next t ∧ Kept E s0 t := by
  refine ⟨_, rfl, ?_⟩
  repeat' (first
    | (refine fun _ => ?_)
    | (with_reducible first | assumption | apply State.loseIsland_kept | apply kept_ite)
    | split
    | dsimp only)

theorem execPgFall_kept (rail : Nat) (s : State) (h0 : Kept E s0 s) (e_agents : E .agents := by assumption) (e_clusters : E .clusters := by assumption) (e_cmds : E .cmds := by assumption) (e_ctxs : E .ctxs := by assumption) (e_ecc : E .ecc := by assumption) (e_engines : E .engines := by assumption) (e_erq : E .erq := by assumption) (e_evseq : E .evseq := by assumption) (e_fences : E .fences := by assumption) (e_flash : E .flash := by assumption) (e_folded : E .folded := by assumption) (e_fresh : E .fresh := by assumption) (e_fwLog : E .fwLog := by assumption) (e_handling : E .handling := by assumption) (e_lostIslands : E .lostIslands := by assumption) (e_mem : E .mem := by assumption) (e_msixs : E .msixs := by assumption) (e_out : E .out := by assumption) (e_ports : E .ports := by assumption) (e_queues : E .queues := by assumption) (e_regs : E .regs := by assumption) (e_rseq : E .rseq := by assumption) (e_seqr : E .seqr := by assumption) (e_streams : E .streams := by assumption) : ∃ t, execPgFall rail s = .next t ∧ Kept E s0 t := by
  refine ⟨_, rfl, ?_⟩
  repeat' (first
    | (refine fun _ => ?_)
    | (with_reducible first | assumption | apply State.fatal_kept | apply State.loseIsland_kept | apply State.loseSite_kept | apply State.setSeqr_kept | apply kept_ite | apply kept_foldl)
    | (extract_lets +onlyGivenNames z
       first
         | (refine (show Kept E s0 z → _ from fun hz => ?_) ?_; clear_value z; rotate_left; dsimp only [z]; rotate_left)
         | clear_value z)
    | split
    | dsimp only)

theorem State.standbyDown_kept (s : State) (h0 : Kept E s0 s) (e_agents : E .agents := by assumption) (e_arch : E .arch := by assumption) (e_boot : E .boot := by assumption) (e_bundle : E .bundle := by assumption) (e_clearRetired : E .clearRetired := by assumption) (e_clusters : E .clusters := by assumption) (e_cmds : E .cmds := by assumption) (e_ctxs : E .ctxs := by assumption) (e_ecc : E .ecc := by assumption) (e_engines : E .engines := by assumption) (e_erq : E .erq := by assumption) (e_evseq : E .evseq := by assumption) (e_fences : E .fences := by assumption) (e_flash : E .flash := by assumption) (e_folded : E .folded := by assumption) (e_fresh : E .fresh := by assumption) (e_fwLog : E .fwLog := by assumption) (e_handling : E .handling := by assumption) (e_latch : E .latch := by assumption) (e_lostIslands : E .lostIslands := by assumption) (e_mem : E .mem := by assumption) (e_memOp : E .memOp := by assumption) (e_msixs : E .msixs := by assumption) (e_nextCmd : E .nextCmd := by assumption) (e_out : E .out := by assumption) (e_pcieLanes : E .pcieLanes := by assumption) (e_pending : E .pending := by assumption) (e_pins : E .pins := by assumption) (e_ports : E .ports := by assumption) (e_power : E .power := by assumption) (e_queues : E .queues := by assumption) (e_regs : E .regs := by assumption) (e_retired : E .retired := by assumption) (e_rseq : E .rseq := by assumption) (e_seqr : E .seqr := by assumption) (e_sites : E .sites := by assumption) (e_straits : E .straits := by assumption) (e_streams : E .streams := by assumption) : Kept E s0 (State.standbyDown s) := by
  refine h0.trans_of (fun c n => by cases c <;> first | rfl | exact absurd (by assumption) n) fun w => ?_
  have g := State.canon_iff.1 w
  exact State.canon_iff.2 ⟨rfl, rfl, rises_filter _ g.2.2.1, rfl, rfl, rfl, rfl, rfl, rfl, rfl, rfl, rfl, rfl, rfl, rfl,
    foldl_rises _ (fun t e h => rises_tset _ _ h) _ rfl⟩

theorem execStandbyFall_kept (s : State) (h0 : Kept E s0 s) (e_agents : E .agents := by assumption) (e_arch : E .arch := by assumption) (e_boot : E .boot := by assumption) (e_bundle : E .bundle := by assumption) (e_clearRetired : E .clearRetired := by assumption) (e_clusters : E .clusters := by assumption) (e_cmds : E .cmds := by assumption) (e_ctxs : E .ctxs := by assumption) (e_ecc : E .ecc := by assumption) (e_engines : E .engines := by assumption) (e_erq : E .erq := by assumption) (e_evseq : E .evseq := by assumption) (e_fences : E .fences := by assumption) (e_flash : E .flash := by assumption) (e_folded : E .folded := by assumption) (e_fresh : E .fresh := by assumption) (e_fwLog : E .fwLog := by assumption) (e_handling : E .handling := by assumption) (e_latch : E .latch := by assumption) (e_lostIslands : E .lostIslands := by assumption) (e_mem : E .mem := by assumption) (e_memOp : E .memOp := by assumption) (e_msixs : E .msixs := by assumption) (e_nextCmd : E .nextCmd := by assumption) (e_out : E .out := by assumption) (e_pcieLanes : E .pcieLanes := by assumption) (e_pending : E .pending := by assumption) (e_pins : E .pins := by assumption) (e_ports : E .ports := by assumption) (e_power : E .power := by assumption) (e_queues : E .queues := by assumption) (e_regs : E .regs := by assumption) (e_retired : E .retired := by assumption) (e_rseq : E .rseq := by assumption) (e_seqr : E .seqr := by assumption) (e_sites : E .sites := by assumption) (e_straits : E .straits := by assumption) (e_streams : E .streams := by assumption) : ∃ t, execStandbyFall s = .next t ∧ Kept E s0 t := by
  refine ⟨_, rfl, ?_⟩
  repeat' (first
    | (refine fun _ => ?_)
    | (with_reducible first | assumption | apply State.dropUpdates_kept | apply State.flashFlush_kept | apply State.standbyDown_kept | apply kept_ite)
    | split
    | dsimp only)

theorem execStandbyRise_kept (s : State) (h0 : Kept E s0 s) (e_pins : E .pins := by assumption) : ∃ t, execStandbyRise s = .next t ∧ Kept E s0 t := by
  refine ⟨_, rfl, ?_⟩
  repeat' (first
    | (refine fun _ => ?_)
    | (with_reducible first | assumption | apply State.setPins_kept)
    | dsimp only)

theorem execStrapSample_kept (mbaddr bfclk : Nat) (recov : Bool) (s : State) (h0 : Kept E s0 s) (e_pins : E .pins := by assumption) : ∃ t, execStrapSample mbaddr bfclk recov s = .next t ∧ Kept E s0 t := by
  refine ⟨_, rfl, ?_⟩
  repeat' (first
    | (refine fun _ => ?_)
    | (with_reducible first | assumption | apply State.setPins_kept | apply kept_ite)
    | split
    | dsimp only)

theorem execBtest_kept (s : State) (h0 : Kept E s0 s) (e_pins : E .pins := by assumption) (e_regs : E .regs := by assumption) (e_seqr : E .seqr := by assumption) : ∃ t, execBtest s = .next t ∧ Kept E s0 t := by
  refine ⟨_, rfl, ?_⟩
  repeat' (first
    | (refine fun _ => ?_)
    | (with_reducible first | assumption | apply State.runPhases_kept | apply State.setPins_kept | apply State.setSeqr_kept | apply kept_ite)
    | (extract_lets +onlyGivenNames z
       first
         | (refine (show Kept E s0 z → _ from fun hz => ?_) ?_; clear_value z; rotate_left; dsimp only [z]; rotate_left)
         | clear_value z)
    | split
    | dsimp only)

theorem State.endBoardTest_kept (s : State) (h0 : Kept E s0 s) (e_regs : E .regs := by assumption) (e_seqr : E .seqr := by assumption) : Kept E s0 (State.endBoardTest s) := by
  delta State.endBoardTest
  repeat' (first
    | (with_reducible first | assumption | apply State.runPhases_kept | apply State.setSeqr_kept | apply kept_ite)
    | (extract_lets +onlyGivenNames z
       first
         | (refine (show Kept E s0 z → _ from fun hz => ?_) ?_; clear_value z; rotate_left; dsimp only [z]; rotate_left)
         | clear_value z)
    | split
    | dsimp only)

theorem execTrstNFall_kept (s : State) (h0 : Kept E s0 s) (e_regs : E .regs := by assumption) (e_seqr : E .seqr := by assumption) : ∃ t, execTrstNFall s = .next t ∧ Kept E s0 t := by
  refine ⟨_, rfl, ?_⟩
  repeat' (first
    | (refine fun _ => ?_)
    | (with_reducible first | assumption | apply State.endBoardTest_kept)
    | dsimp only)

theorem execDifferentInstructionLoad_kept (s : State) (h0 : Kept E s0 s) (e_regs : E .regs := by assumption) (e_seqr : E .seqr := by assumption) : ∃ t, execDifferentInstructionLoad s = .next t ∧ Kept E s0 t := by
  refine ⟨_, rfl, ?_⟩
  repeat' (first
    | (refine fun _ => ?_)
    | (with_reducible first | assumption | apply State.endBoardTest_kept)
    | dsimp only)

end Sys2Proof.Machine
end

