-- ==== Sys2Proof/Laws/KeptRegisters.lean ====
section
/-!
SUPPORT. Laws/KeptRegisters.lean: the operations of Machine/Registers.lean change neither the queue nor the canonical forms.
-/
namespace Sys2Proof.Machine

set_option Elab.async false
set_option linter.all false

variable {E : Comp → Prop} {s0 : State}

theorem State.writeField_kept (s : State) (i v : Nat) (f : Fld) (h0 : Kept E s0 s) (e_regs : E .regs := by assumption) : Kept E s0 (State.writeField s i v f) := by
  delta State.writeField
  repeat' (first
    | (with_reducible first | assumption | apply State.setF_kept)
    | split
    | dsimp only)

theorem State.writeReg_kept (s : State) (r : Reg) (i v : Nat) (h0 : Kept E s0 s) (e_fresh : E .fresh := by assumption) (e_regs : E .regs := by assumption) : Kept E s0 (State.writeReg s r i v) := by
  delta State.writeReg
  repeat' (first
    | (refine fun _ => ?_)
    | (with_reducible first | assumption | apply State.bumpFresh_kept | apply State.writeField_kept | apply kept_ite | apply kept_foldl)
    | (extract_lets +onlyGivenNames z
       first
         | (refine (show Kept E s0 z → _ from fun hz => ?_) ?_; clear_value z; rotate_left; dsimp only [z]; rotate_left)
         | clear_value z)
    | split
    | dsimp only)

theorem State.writePlace_kept (s : State) (acr : Acr) (r : Reg) (i : Nat) (high : Bool) (addr size v : Nat) (h0 : Kept E s0 s) (e_fresh : E .fresh := by assumption) (e_latch : E .latch := by assumption) (e_msixs : E .msixs := by assumption) (e_out : E .out := by assumption) (e_regs : E .regs := by assumption) : Kept E s0 (State.writePlace s acr r i high addr size v) := by
  delta State.writePlace
  repeat' (first
    | (with_reducible first | assumption | apply State.refuseAcc_kept | apply State.setLatch_kept | apply State.writeReg_kept | apply kept_ite)
    | split
    | dsimp only)

theorem State.flushMsix_kept (s : State) (fn : Nat) (h0 : Kept E s0 s) (e_msixs : E .msixs := by assumption) (e_out : E .out := by assumption) : Kept E s0 (State.flushMsix s fn) := by
  delta State.flushMsix
  repeat' (first
    | (refine fun _ => ?_)
    | (with_reducible first | assumption | apply State.emit_kept | apply State.setMsix_kept | apply kept_foldl)
    | (extract_lets +onlyGivenNames z
       first
         | (refine (show Kept E s0 z → _ from fun hz => ?_) ?_; clear_value z; rotate_left; dsimp only [z]; rotate_left)
         | clear_value z)
    | dsimp only)

theorem State.writeMsix_kept (s : State) (fn byte size v : Nat) (h0 : Kept E s0 s) (e_msixs : E .msixs := by assumption) (e_out : E .out := by assumption) : Kept E s0 (State.writeMsix s fn byte size v) := by
  delta State.writeMsix
  repeat' (first
    | (with_reducible first | assumption | apply State.flushMsix_kept | apply State.setMsix_kept | apply kept_ite)
    | (extract_lets +onlyGivenNames z
       first
         | (refine (show Kept E s0 z → _ from fun hz => ?_) ?_; clear_value z; rotate_left; dsimp only [z]; rotate_left)
         | clear_value z)
    | split
    | dsimp only)

theorem State.writeMsgCtl_kept (s : State) (fn v : Nat) (h0 : Kept E s0 s) (e_msixs : E .msixs := by assumption) (e_out : E .out := by assumption) : Kept E s0 (State.writeMsgCtl s fn v) := by
  delta State.writeMsgCtl
  repeat' (first
    | (with_reducible first | assumption | apply State.flushMsix_kept | apply State.setMsix_kept)
    | dsimp only)

theorem execRegisterWrite_kept (acr : Acr) (set : Nat) (cfg : Bool) (addr size v : Nat) (s : State) (h0 : Kept E s0 s) (e_fresh : E .fresh := by assumption) (e_latch : E .latch := by assumption) (e_msixs : E .msixs := by assumption) (e_out : E .out := by assumption) (e_regs : E .regs := by assumption) : ∃ t, execRegisterWrite acr set cfg addr size v s = .next t ∧ Kept E s0 t := by
  refine ⟨_, rfl, ?_⟩
  repeat' (first
    | (refine fun _ => ?_)
    | (with_reducible first | assumption | apply State.refuseAcc_kept | apply State.writeMsgCtl_kept | apply State.writeMsix_kept | apply State.writePlace_kept | apply kept_ite)
    | (extract_lets +onlyGivenNames z
       first
         | (refine (show Kept E s0 z → _ from fun hz => ?_) ?_; clear_value z; rotate_left; dsimp only [z]; rotate_left)
         | clear_value z)
    | split
    | dsimp only)

end Sys2Proof.Machine
end

