-- ==== Sys2Proof/Laws/State.lean ====
section
/-!
SUPPORT. Laws/State.lean: each component of a state after each update, and what is read after it.
-/
namespace Sys2Proof.Machine

variable (s : State)

@[simp] theorem State.setF_pending (f : Fld) (i v : Nat) : (s.setF f i v).pending = s.pending := rfl
@[simp] theorem State.setF_regs (f : Fld) (i v : Nat) : (s.setF f i v).regs = tset (fun _ => f.dflt i) s.regs (f.key i) (v % 2 ^ f.w) := rfl
@[simp] theorem State.setF_latch (f : Fld) (i v : Nat) : (s.setF f i v).latch = s.latch := rfl
@[simp] theorem State.setF_mem (f : Fld) (i v : Nat) : (s.setF f i v).mem = s.mem := rfl
@[simp] theorem State.setF_ecc (f : Fld) (i v : Nat) : (s.setF f i v).ecc = s.ecc := rfl
@[simp] theorem State.setF_ctxs (f : Fld) (i v : Nat) : (s.setF f i v).ctxs = s.ctxs := rfl
@[simp] theorem State.setF_queues (f : Fld) (i v : Nat) : (s.setF f i v).queues = s.queues := rfl
@[simp] theorem State.setF_cmds (f : Fld) (i v : Nat) : (s.setF f i v).cmds = s.cmds := rfl
@[simp] theorem State.setF_nextCmd (f : Fld) (i v : Nat) : (s.setF f i v).nextCmd = s.nextCmd := rfl
@[simp] theorem State.setF_fences (f : Fld) (i v : Nat) : (s.setF f i v).fences = s.fences := rfl
@[simp] theorem State.setF_clusters (f : Fld) (i v : Nat) : (s.setF f i v).clusters = s.clusters := rfl
@[simp] theorem State.setF_flash (f : Fld) (i v : Nat) : (s.setF f i v).flash = s.flash := rfl
@[simp] theorem State.setF_agents (f : Fld) (i v : Nat) : (s.setF f i v).agents = s.agents := rfl
@[simp] theorem State.setF_evseq (f : Fld) (i v : Nat) : (s.setF f i v).evseq = s.evseq := rfl
@[simp] theorem State.setF_erq (f : Fld) (i v : Nat) : (s.setF f i v).erq = s.erq := rfl
@[simp] theorem State.setF_rseq (f : Fld) (i v : Nat) : (s.setF f i v).rseq = s.rseq := rfl
@[simp] theorem State.setF_fwLog (f : Fld) (i v : Nat) : (s.setF f i v).fwLog = s.fwLog := rfl
@[simp] theorem State.setF_folded (f : Fld) (i v : Nat) : (s.setF f i v).folded = s.folded := rfl
@[simp] theorem State.setF_handling (f : Fld) (i v : Nat) : (s.setF f i v).handling = s.handling := rfl
@[simp] theorem State.setF_retired (f : Fld) (i v : Nat) : (s.setF f i v).retired = s.retired := rfl
@[simp] theorem State.setF_clearRetired (f : Fld) (i v : Nat) : (s.setF f i v).clearRetired = s.clearRetired := rfl
@[simp] theorem State.setF_lostIslands (f : Fld) (i v : Nat) : (s.setF f i v).lostIslands = s.lostIslands := rfl
@[simp] theorem State.setF_ports (f : Fld) (i v : Nat) : (s.setF f i v).ports = s.ports := rfl
@[simp] theorem State.setF_arch (f : Fld) (i v : Nat) : (s.setF f i v).arch = s.arch := rfl
@[simp] theorem State.setF_streams (f : Fld) (i v : Nat) : (s.setF f i v).streams = s.streams := rfl
@[simp] theorem State.setF_engines (f : Fld) (i v : Nat) : (s.setF f i v).engines = s.engines := rfl
@[simp] theorem State.setF_sites (f : Fld) (i v : Nat) : (s.setF f i v).sites = s.sites := rfl
@[simp] theorem State.setF_memOp (f : Fld) (i v : Nat) : (s.setF f i v).memOp = s.memOp := rfl
@[simp] theorem State.setF_boot (f : Fld) (i v : Nat) : (s.setF f i v).boot = s.boot := rfl
@[simp] theorem State.setF_seqr (f : Fld) (i v : Nat) : (s.setF f i v).seqr = s.seqr := rfl
@[simp] theorem State.setF_pins (f : Fld) (i v : Nat) : (s.setF f i v).pins = s.pins := rfl
@[simp] theorem State.setF_power (f : Fld) (i v : Nat) : (s.setF f i v).power = s.power := rfl
@[simp] theorem State.setF_bundle (f : Fld) (i v : Nat) : (s.setF f i v).bundle = s.bundle := rfl
@[simp] theorem State.setF_msixs (f : Fld) (i v : Nat) : (s.setF f i v).msixs = s.msixs := rfl
@[simp] theorem State.setF_pcieLanes (f : Fld) (i v : Nat) : (s.setF f i v).pcieLanes = s.pcieLanes := rfl
@[simp] theorem State.setF_straits (f : Fld) (i v : Nat) : (s.setF f i v).straits = s.straits := rfl
@[simp] theorem State.setF_fresh (f : Fld) (i v : Nat) : (s.setF f i v).fresh = s.fresh := rfl
@[simp] theorem State.setF_out (f : Fld) (i v : Nat) : (s.setF f i v).out = s.out := rfl

@[simp] theorem State.setCtx_pending (x : Nat) (v : Context) : (s.setCtx x v).pending = s.pending := rfl
@[simp] theorem State.setCtx_regs (x : Nat) (v : Context) : (s.setCtx x v).regs = s.regs := rfl
@[simp] theorem State.setCtx_latch (x : Nat) (v : Context) : (s.setCtx x v).latch = s.latch := rfl
@[simp] theorem State.setCtx_mem (x : Nat) (v : Context) : (s.setCtx x v).mem = s.mem := rfl
@[simp] theorem State.setCtx_ecc (x : Nat) (v : Context) : (s.setCtx x v).ecc = s.ecc := rfl
@[simp] theorem State.setCtx_ctxs (x : Nat) (v : Context) : (s.setCtx x v).ctxs = tset (fun _ => Context.free) s.ctxs x v := rfl
@[simp] theorem State.setCtx_queues (x : Nat) (v : Context) : (s.setCtx x v).queues = s.queues := rfl
@[simp] theorem State.setCtx_cmds (x : Nat) (v : Context) : (s.setCtx x v).cmds = s.cmds := rfl
@[simp] theorem State.setCtx_nextCmd (x : Nat) (v : Context) : (s.setCtx x v).nextCmd = s.nextCmd := rfl
@[simp] theorem State.setCtx_fences (x : Nat) (v : Context) : (s.setCtx x v).fences = s.fences := rfl
@[simp] theorem State.setCtx_clusters (x : Nat) (v : Context) : (s.setCtx x v).clusters = s.clusters := rfl
@[simp] theorem State.setCtx_flash (x : Nat) (v : Context) : (s.setCtx x v).flash = s.flash := rfl
@[simp] theorem State.setCtx_agents (x : Nat) (v : Context) : (s.setCtx x v).agents = s.agents := rfl
@[simp] theorem State.setCtx_evseq (x : Nat) (v : Context) : (s.setCtx x v).evseq = s.evseq := rfl
@[simp] theorem State.setCtx_erq (x : Nat) (v : Context) : (s.setCtx x v).erq = s.erq := rfl
@[simp] theorem State.setCtx_rseq (x : Nat) (v : Context) : (s.setCtx x v).rseq = s.rseq := rfl
@[simp] theorem State.setCtx_fwLog (x : Nat) (v : Context) : (s.setCtx x v).fwLog = s.fwLog := rfl
@[simp] theorem State.setCtx_folded (x : Nat) (v : Context) : (s.setCtx x v).folded = s.folded := rfl
@[simp] theorem State.setCtx_handling (x : Nat) (v : Context) : (s.setCtx x v).handling = s.handling := rfl
@[simp] theorem State.setCtx_retired (x : Nat) (v : Context) : (s.setCtx x v).retired = s.retired := rfl
@[simp] theorem State.setCtx_clearRetired (x : Nat) (v : Context) : (s.setCtx x v).clearRetired = s.clearRetired := rfl
@[simp] theorem State.setCtx_lostIslands (x : Nat) (v : Context) : (s.setCtx x v).lostIslands = s.lostIslands := rfl
@[simp] theorem State.setCtx_ports (x : Nat) (v : Context) : (s.setCtx x v).ports = s.ports := rfl
@[simp] theorem State.setCtx_arch (x : Nat) (v : Context) : (s.setCtx x v).arch = s.arch := rfl
@[simp] theorem State.setCtx_streams (x : Nat) (v : Context) : (s.setCtx x v).streams = s.streams := rfl
@[simp] theorem State.setCtx_engines (x : Nat) (v : Context) : (s.setCtx x v).engines = s.engines := rfl
@[simp] theorem State.setCtx_sites (x : Nat) (v : Context) : (s.setCtx x v).sites = s.sites := rfl
@[simp] theorem State.setCtx_memOp (x : Nat) (v : Context) : (s.setCtx x v).memOp = s.memOp := rfl
@[simp] theorem State.setCtx_boot (x : Nat) (v : Context) : (s.setCtx x v).boot = s.boot := rfl
@[simp] theorem State.setCtx_seqr (x : Nat) (v : Context) : (s.setCtx x v).seqr = s.seqr := rfl
@[simp] theorem State.setCtx_pins (x : Nat) (v : Context) : (s.setCtx x v).pins = s.pins := rfl
@[simp] theorem State.setCtx_power (x : Nat) (v : Context) : (s.setCtx x v).power = s.power := rfl
@[simp] theorem State.setCtx_bundle (x : Nat) (v : Context) : (s.setCtx x v).bundle = s.bundle := rfl
@[simp] theorem State.setCtx_msixs (x : Nat) (v : Context) : (s.setCtx x v).msixs = s.msixs := rfl
@[simp] theorem State.setCtx_pcieLanes (x : Nat) (v : Context) : (s.setCtx x v).pcieLanes = s.pcieLanes := rfl
@[simp] theorem State.setCtx_straits (x : Nat) (v : Context) : (s.setCtx x v).straits = s.straits := rfl
@[simp] theorem State.setCtx_fresh (x : Nat) (v : Context) : (s.setCtx x v).fresh = s.fresh := rfl
@[simp] theorem State.setCtx_out (x : Nat) (v : Context) : (s.setCtx x v).out = s.out := rfl

@[simp] theorem State.setQueue_pending (q : Nat) (v : Queue) : (s.setQueue q v).pending = s.pending := rfl
@[simp] theorem State.setQueue_regs (q : Nat) (v : Queue) : (s.setQueue q v).regs = s.regs := rfl
@[simp] theorem State.setQueue_latch (q : Nat) (v : Queue) : (s.setQueue q v).latch = s.latch := rfl
@[simp] theorem State.setQueue_mem (q : Nat) (v : Queue) : (s.setQueue q v).mem = s.mem := rfl
@[simp] theorem State.setQueue_ecc (q : Nat) (v : Queue) : (s.setQueue q v).ecc = s.ecc := rfl
@[simp] theorem State.setQueue_ctxs (q : Nat) (v : Queue) : (s.setQueue q v).ctxs = s.ctxs := rfl
@[simp] theorem State.setQueue_queues (q : Nat) (v : Queue) : (s.setQueue q v).queues = tset (fun _ => Queue.free) s.queues q v := rfl
@[simp] theorem State.setQueue_cmds (q : Nat) (v : Queue) : (s.setQueue q v).cmds = s.cmds := rfl
@[simp] theorem State.setQueue_nextCmd (q : Nat) (v : Queue) : (s.setQueue q v).nextCmd = s.nextCmd := rfl
@[simp] theorem State.setQueue_fences (q : Nat) (v : Queue) : (s.setQueue q v).fences = s.fences := rfl
@[simp] theorem State.setQueue_clusters (q : Nat) (v : Queue) : (s.setQueue q v).clusters = s.clusters := rfl
@[simp] theorem State.setQueue_flash (q : Nat) (v : Queue) : (s.setQueue q v).flash = s.flash := rfl
@[simp] theorem State.setQueue_agents (q : Nat) (v : Queue) : (s.setQueue q v).agents = s.agents := rfl
@[simp] theorem State.setQueue_evseq (q : Nat) (v : Queue) : (s.setQueue q v).evseq = s.evseq := rfl
@[simp] theorem State.setQueue_erq (q : Nat) (v : Queue) : (s.setQueue q v).erq = s.erq := rfl
@[simp] theorem State.setQueue_rseq (q : Nat) (v : Queue) : (s.setQueue q v).rseq = s.rseq := rfl
@[simp] theorem State.setQueue_fwLog (q : Nat) (v : Queue) : (s.setQueue q v).fwLog = s.fwLog := rfl
@[simp] theorem State.setQueue_folded (q : Nat) (v : Queue) : (s.setQueue q v).folded = s.folded := rfl
@[simp] theorem State.setQueue_handling (q : Nat) (v : Queue) : (s.setQueue q v).handling = s.handling := rfl
@[simp] theorem State.setQueue_retired (q : Nat) (v : Queue) : (s.setQueue q v).retired = s.retired := rfl
@[simp] theorem State.setQueue_clearRetired (q : Nat) (v : Queue) : (s.setQueue q v).clearRetired = s.clearRetired := rfl
@[simp] theorem State.setQueue_lostIslands (q : Nat) (v : Queue) : (s.setQueue q v).lostIslands = s.lostIslands := rfl
@[simp] theorem State.setQueue_ports (q : Nat) (v : Queue) : (s.setQueue q v).ports = s.ports := rfl
@[simp] theorem State.setQueue_arch (q : Nat) (v : Queue) : (s.setQueue q v).arch = s.arch := rfl
@[simp] theorem State.setQueue_streams (q : Nat) (v : Queue) : (s.setQueue q v).streams = s.streams := rfl
@[simp] theorem State.setQueue_engines (q : Nat) (v : Queue) : (s.setQueue q v).engines = s.engines := rfl
@[simp] theorem State.setQueue_sites (q : Nat) (v : Queue) : (s.setQueue q v).sites = s.sites := rfl
@[simp] theorem State.setQueue_memOp (q : Nat) (v : Queue) : (s.setQueue q v).memOp = s.memOp := rfl
@[simp] theorem State.setQueue_boot (q : Nat) (v : Queue) : (s.setQueue q v).boot = s.boot := rfl
@[simp] theorem State.setQueue_seqr (q : Nat) (v : Queue) : (s.setQueue q v).seqr = s.seqr := rfl
@[simp] theorem State.setQueue_pins (q : Nat) (v : Queue) : (s.setQueue q v).pins = s.pins := rfl
@[simp] theorem State.setQueue_power (q : Nat) (v : Queue) : (s.setQueue q v).power = s.power := rfl
@[simp] theorem State.setQueue_bundle (q : Nat) (v : Queue) : (s.setQueue q v).bundle = s.bundle := rfl
@[simp] theorem State.setQueue_msixs (q : Nat) (v : Queue) : (s.setQueue q v).msixs = s.msixs := rfl
@[simp] theorem State.setQueue_pcieLanes (q : Nat) (v : Queue) : (s.setQueue q v).pcieLanes = s.pcieLanes := rfl
@[simp] theorem State.setQueue_straits (q : Nat) (v : Queue) : (s.setQueue q v).straits = s.straits := rfl
@[simp] theorem State.setQueue_fresh (q : Nat) (v : Queue) : (s.setQueue q v).fresh = s.fresh := rfl
@[simp] theorem State.setQueue_out (q : Nat) (v : Queue) : (s.setQueue q v).out = s.out := rfl

@[simp] theorem State.setCluster_pending (c : Nat) (v : Cluster) : (s.setCluster c v).pending = s.pending := rfl
@[simp] theorem State.setCluster_regs (c : Nat) (v : Cluster) : (s.setCluster c v).regs = s.regs := rfl
@[simp] theorem State.setCluster_latch (c : Nat) (v : Cluster) : (s.setCluster c v).latch = s.latch := rfl
@[simp] theorem State.setCluster_mem (c : Nat) (v : Cluster) : (s.setCluster c v).mem = s.mem := rfl
@[simp] theorem State.setCluster_ecc (c : Nat) (v : Cluster) : (s.setCluster c v).ecc = s.ecc := rfl
@[simp] theorem State.setCluster_ctxs (c : Nat) (v : Cluster) : (s.setCluster c v).ctxs = s.ctxs := rfl
@[simp] theorem State.setCluster_queues (c : Nat) (v : Cluster) : (s.setCluster c v).queues = s.queues := rfl
@[simp] theorem State.setCluster_cmds (c : Nat) (v : Cluster) : (s.setCluster c v).cmds = s.cmds := rfl
@[simp] theorem State.setCluster_nextCmd (c : Nat) (v : Cluster) : (s.setCluster c v).nextCmd = s.nextCmd := rfl
@[simp] theorem State.setCluster_fences (c : Nat) (v : Cluster) : (s.setCluster c v).fences = s.fences := rfl
@[simp] theorem State.setCluster_clusters (c : Nat) (v : Cluster) : (s.setCluster c v).clusters = tset (fun _ => Cluster.fresh) s.clusters c v := rfl
@[simp] theorem State.setCluster_flash (c : Nat) (v : Cluster) : (s.setCluster c v).flash = s.flash := rfl
@[simp] theorem State.setCluster_agents (c : Nat) (v : Cluster) : (s.setCluster c v).agents = s.agents := rfl
@[simp] theorem State.setCluster_evseq (c : Nat) (v : Cluster) : (s.setCluster c v).evseq = s.evseq := rfl
@[simp] theorem State.setCluster_erq (c : Nat) (v : Cluster) : (s.setCluster c v).erq = s.erq := rfl
@[simp] theorem State.setCluster_rseq (c : Nat) (v : Cluster) : (s.setCluster c v).rseq = s.rseq := rfl
@[simp] theorem State.setCluster_fwLog (c : Nat) (v : Cluster) : (s.setCluster c v).fwLog = s.fwLog := rfl
@[simp] theorem State.setCluster_folded (c : Nat) (v : Cluster) : (s.setCluster c v).folded = s.folded := rfl
@[simp] theorem State.setCluster_handling (c : Nat) (v : Cluster) : (s.setCluster c v).handling = s.handling := rfl
@[simp] theorem State.setCluster_retired (c : Nat) (v : Cluster) : (s.setCluster c v).retired = s.retired := rfl
@[simp] theorem State.setCluster_clearRetired (c : Nat) (v : Cluster) : (s.setCluster c v).clearRetired = s.clearRetired := rfl
@[simp] theorem State.setCluster_lostIslands (c : Nat) (v : Cluster) : (s.setCluster c v).lostIslands = s.lostIslands := rfl
@[simp] theorem State.setCluster_ports (c : Nat) (v : Cluster) : (s.setCluster c v).ports = s.ports := rfl
@[simp] theorem State.setCluster_arch (c : Nat) (v : Cluster) : (s.setCluster c v).arch = s.arch := rfl
@[simp] theorem State.setCluster_streams (c : Nat) (v : Cluster) : (s.setCluster c v).streams = s.streams := rfl
@[simp] theorem State.setCluster_engines (c : Nat) (v : Cluster) : (s.setCluster c v).engines = s.engines := rfl
@[simp] theorem State.setCluster_sites (c : Nat) (v : Cluster) : (s.setCluster c v).sites = s.sites := rfl
@[simp] theorem State.setCluster_memOp (c : Nat) (v : Cluster) : (s.setCluster c v).memOp = s.memOp := rfl
@[simp] theorem State.setCluster_boot (c : Nat) (v : Cluster) : (s.setCluster c v).boot = s.boot := rfl
@[simp] theorem State.setCluster_seqr (c : Nat) (v : Cluster) : (s.setCluster c v).seqr = s.seqr := rfl
@[simp] theorem State.setCluster_pins (c : Nat) (v : Cluster) : (s.setCluster c v).pins = s.pins := rfl
@[simp] theorem State.setCluster_power (c : Nat) (v : Cluster) : (s.setCluster c v).power = s.power := rfl
@[simp] theorem State.setCluster_bundle (c : Nat) (v : Cluster) : (s.setCluster c v).bundle = s.bundle := rfl
@[simp] theorem State.setCluster_msixs (c : Nat) (v : Cluster) : (s.setCluster c v).msixs = s.msixs := rfl
@[simp] theorem State.setCluster_pcieLanes (c : Nat) (v : Cluster) : (s.setCluster c v).pcieLanes = s.pcieLanes := rfl
@[simp] theorem State.setCluster_straits (c : Nat) (v : Cluster) : (s.setCluster c v).straits = s.straits := rfl
@[simp] theorem State.setCluster_fresh (c : Nat) (v : Cluster) : (s.setCluster c v).fresh = s.fresh := rfl
@[simp] theorem State.setCluster_out (c : Nat) (v : Cluster) : (s.setCluster c v).out = s.out := rfl

@[simp] theorem State.setAgent_pending (p : Nat) (a : Agent) : (s.setAgent p a).pending = s.pending := rfl
@[simp] theorem State.setAgent_regs (p : Nat) (a : Agent) : (s.setAgent p a).regs = s.regs := rfl
@[simp] theorem State.setAgent_latch (p : Nat) (a : Agent) : (s.setAgent p a).latch = s.latch := rfl
@[simp] theorem State.setAgent_mem (p : Nat) (a : Agent) : (s.setAgent p a).mem = s.mem := rfl
@[simp] theorem State.setAgent_ecc (p : Nat) (a : Agent) : (s.setAgent p a).ecc = s.ecc := rfl
@[simp] theorem State.setAgent_ctxs (p : Nat) (a : Agent) : (s.setAgent p a).ctxs = s.ctxs := rfl
@[simp] theorem State.setAgent_queues (p : Nat) (a : Agent) : (s.setAgent p a).queues = s.queues := rfl
@[simp] theorem State.setAgent_cmds (p : Nat) (a : Agent) : (s.setAgent p a).cmds = s.cmds := rfl
@[simp] theorem State.setAgent_nextCmd (p : Nat) (a : Agent) : (s.setAgent p a).nextCmd = s.nextCmd := rfl
@[simp] theorem State.setAgent_fences (p : Nat) (a : Agent) : (s.setAgent p a).fences = s.fences := rfl
@[simp] theorem State.setAgent_clusters (p : Nat) (a : Agent) : (s.setAgent p a).clusters = s.clusters := rfl
@[simp] theorem State.setAgent_flash (p : Nat) (a : Agent) : (s.setAgent p a).flash = s.flash := rfl
@[simp] theorem State.setAgent_agents (p : Nat) (a : Agent) : (s.setAgent p a).agents = tset (fun _ => Agent.fresh) s.agents p a := rfl
@[simp] theorem State.setAgent_evseq (p : Nat) (a : Agent) : (s.setAgent p a).evseq = s.evseq := rfl
@[simp] theorem State.setAgent_erq (p : Nat) (a : Agent) : (s.setAgent p a).erq = s.erq := rfl
@[simp] theorem State.setAgent_rseq (p : Nat) (a : Agent) : (s.setAgent p a).rseq = s.rseq := rfl
@[simp] theorem State.setAgent_fwLog (p : Nat) (a : Agent) : (s.setAgent p a).fwLog = s.fwLog := rfl
@[simp] theorem State.setAgent_folded (p : Nat) (a : Agent) : (s.setAgent p a).folded = s.folded := rfl
@[simp] theorem State.setAgent_handling (p : Nat) (a : Agent) : (s.setAgent p a).handling = s.handling := rfl
@[simp] theorem State.setAgent_retired (p : Nat) (a : Agent) : (s.setAgent p a).retired = s.retired := rfl
@[simp] theorem State.setAgent_clearRetired (p : Nat) (a : Agent) : (s.setAgent p a).clearRetired = s.clearRetired := rfl
@[simp] theorem State.setAgent_lostIslands (p : Nat) (a : Agent) : (s.setAgent p a).lostIslands = s.lostIslands := rfl
@[simp] theorem State.setAgent_ports (p : Nat) (a : Agent) : (s.setAgent p a).ports = s.ports := rfl
@[simp] theorem State.setAgent_arch (p : Nat) (a : Agent) : (s.setAgent p a).arch = s.arch := rfl
@[simp] theorem State.setAgent_streams (p : Nat) (a : Agent) : (s.setAgent p a).streams = s.streams := rfl
@[simp] theorem State.setAgent_engines (p : Nat) (a : Agent) : (s.setAgent p a).engines = s.engines := rfl
@[simp] theorem State.setAgent_sites (p : Nat) (a : Agent) : (s.setAgent p a).sites = s.sites := rfl
@[simp] theorem State.setAgent_memOp (p : Nat) (a : Agent) : (s.setAgent p a).memOp = s.memOp := rfl
@[simp] theorem State.setAgent_boot (p : Nat) (a : Agent) : (s.setAgent p a).boot = s.boot := rfl
@[simp] theorem State.setAgent_seqr (p : Nat) (a : Agent) : (s.setAgent p a).seqr = s.seqr := rfl
@[simp] theorem State.setAgent_pins (p : Nat) (a : Agent) : (s.setAgent p a).pins = s.pins := rfl
@[simp] theorem State.setAgent_power (p : Nat) (a : Agent) : (s.setAgent p a).power = s.power := rfl
@[simp] theorem State.setAgent_bundle (p : Nat) (a : Agent) : (s.setAgent p a).bundle = s.bundle := rfl
@[simp] theorem State.setAgent_msixs (p : Nat) (a : Agent) : (s.setAgent p a).msixs = s.msixs := rfl
@[simp] theorem State.setAgent_pcieLanes (p : Nat) (a : Agent) : (s.setAgent p a).pcieLanes = s.pcieLanes := rfl
@[simp] theorem State.setAgent_straits (p : Nat) (a : Agent) : (s.setAgent p a).straits = s.straits := rfl
@[simp] theorem State.setAgent_fresh (p : Nat) (a : Agent) : (s.setAgent p a).fresh = s.fresh := rfl
@[simp] theorem State.setAgent_out (p : Nat) (a : Agent) : (s.setAgent p a).out = s.out := rfl

@[simp] theorem State.setFlash_pending (f : Flash) : (s.setFlash f).pending = s.pending := rfl
@[simp] theorem State.setFlash_regs (f : Flash) : (s.setFlash f).regs = s.regs := rfl
@[simp] theorem State.setFlash_latch (f : Flash) : (s.setFlash f).latch = s.latch := rfl
@[simp] theorem State.setFlash_mem (f : Flash) : (s.setFlash f).mem = s.mem := rfl
@[simp] theorem State.setFlash_ecc (f : Flash) : (s.setFlash f).ecc = s.ecc := rfl
@[simp] theorem State.setFlash_ctxs (f : Flash) : (s.setFlash f).ctxs = s.ctxs := rfl
@[simp] theorem State.setFlash_queues (f : Flash) : (s.setFlash f).queues = s.queues := rfl
@[simp] theorem State.setFlash_cmds (f : Flash) : (s.setFlash f).cmds = s.cmds := rfl
@[simp] theorem State.setFlash_nextCmd (f : Flash) : (s.setFlash f).nextCmd = s.nextCmd := rfl
@[simp] theorem State.setFlash_fences (f : Flash) : (s.setFlash f).fences = s.fences := rfl
@[simp] theorem State.setFlash_clusters (f : Flash) : (s.setFlash f).clusters = s.clusters := rfl
@[simp] theorem State.setFlash_flash (f : Flash) : (s.setFlash f).flash = f := rfl
@[simp] theorem State.setFlash_agents (f : Flash) : (s.setFlash f).agents = s.agents := rfl
@[simp] theorem State.setFlash_evseq (f : Flash) : (s.setFlash f).evseq = s.evseq := rfl
@[simp] theorem State.setFlash_erq (f : Flash) : (s.setFlash f).erq = s.erq := rfl
@[simp] theorem State.setFlash_rseq (f : Flash) : (s.setFlash f).rseq = s.rseq := rfl
@[simp] theorem State.setFlash_fwLog (f : Flash) : (s.setFlash f).fwLog = s.fwLog := rfl
@[simp] theorem State.setFlash_folded (f : Flash) : (s.setFlash f).folded = s.folded := rfl
@[simp] theorem State.setFlash_handling (f : Flash) : (s.setFlash f).handling = s.handling := rfl
@[simp] theorem State.setFlash_retired (f : Flash) : (s.setFlash f).retired = s.retired := rfl
@[simp] theorem State.setFlash_clearRetired (f : Flash) : (s.setFlash f).clearRetired = s.clearRetired := rfl
@[simp] theorem State.setFlash_lostIslands (f : Flash) : (s.setFlash f).lostIslands = s.lostIslands := rfl
@[simp] theorem State.setFlash_ports (f : Flash) : (s.setFlash f).ports = s.ports := rfl
@[simp] theorem State.setFlash_arch (f : Flash) : (s.setFlash f).arch = s.arch := rfl
@[simp] theorem State.setFlash_streams (f : Flash) : (s.setFlash f).streams = s.streams := rfl
@[simp] theorem State.setFlash_engines (f : Flash) : (s.setFlash f).engines = s.engines := rfl
@[simp] theorem State.setFlash_sites (f : Flash) : (s.setFlash f).sites = s.sites := rfl
@[simp] theorem State.setFlash_memOp (f : Flash) : (s.setFlash f).memOp = s.memOp := rfl
@[simp] theorem State.setFlash_boot (f : Flash) : (s.setFlash f).boot = s.boot := rfl
@[simp] theorem State.setFlash_seqr (f : Flash) : (s.setFlash f).seqr = s.seqr := rfl
@[simp] theorem State.setFlash_pins (f : Flash) : (s.setFlash f).pins = s.pins := rfl
@[simp] theorem State.setFlash_power (f : Flash) : (s.setFlash f).power = s.power := rfl
@[simp] theorem State.setFlash_bundle (f : Flash) : (s.setFlash f).bundle = s.bundle := rfl
@[simp] theorem State.setFlash_msixs (f : Flash) : (s.setFlash f).msixs = s.msixs := rfl
@[simp] theorem State.setFlash_pcieLanes (f : Flash) : (s.setFlash f).pcieLanes = s.pcieLanes := rfl
@[simp] theorem State.setFlash_straits (f : Flash) : (s.setFlash f).straits = s.straits := rfl
@[simp] theorem State.setFlash_fresh (f : Flash) : (s.setFlash f).fresh = s.fresh := rfl
@[simp] theorem State.setFlash_out (f : Flash) : (s.setFlash f).out = s.out := rfl

@[simp] theorem State.setPort_pending (p : Nat) (v : Port) : (s.setPort p v).pending = s.pending := rfl
@[simp] theorem State.setPort_regs (p : Nat) (v : Port) : (s.setPort p v).regs = s.regs := rfl
@[simp] theorem State.setPort_latch (p : Nat) (v : Port) : (s.setPort p v).latch = s.latch := rfl
@[simp] theorem State.setPort_mem (p : Nat) (v : Port) : (s.setPort p v).mem = s.mem := rfl
@[simp] theorem State.setPort_ecc (p : Nat) (v : Port) : (s.setPort p v).ecc = s.ecc := rfl
@[simp] theorem State.setPort_ctxs (p : Nat) (v : Port) : (s.setPort p v).ctxs = s.ctxs := rfl
@[simp] theorem State.setPort_queues (p : Nat) (v : Port) : (s.setPort p v).queues = s.queues := rfl
@[simp] theorem State.setPort_cmds (p : Nat) (v : Port) : (s.setPort p v).cmds = s.cmds := rfl
@[simp] theorem State.setPort_nextCmd (p : Nat) (v : Port) : (s.setPort p v).nextCmd = s.nextCmd := rfl
@[simp] theorem State.setPort_fences (p : Nat) (v : Port) : (s.setPort p v).fences = s.fences := rfl
@[simp] theorem State.setPort_clusters (p : Nat) (v : Port) : (s.setPort p v).clusters = s.clusters := rfl
@[simp] theorem State.setPort_flash (p : Nat) (v : Port) : (s.setPort p v).flash = s.flash := rfl
@[simp] theorem State.setPort_agents (p : Nat) (v : Port) : (s.setPort p v).agents = s.agents := rfl
@[simp] theorem State.setPort_evseq (p : Nat) (v : Port) : (s.setPort p v).evseq = s.evseq := rfl
@[simp] theorem State.setPort_erq (p : Nat) (v : Port) : (s.setPort p v).erq = s.erq := rfl
@[simp] theorem State.setPort_rseq (p : Nat) (v : Port) : (s.setPort p v).rseq = s.rseq := rfl
@[simp] theorem State.setPort_fwLog (p : Nat) (v : Port) : (s.setPort p v).fwLog = s.fwLog := rfl
@[simp] theorem State.setPort_folded (p : Nat) (v : Port) : (s.setPort p v).folded = s.folded := rfl
@[simp] theorem State.setPort_handling (p : Nat) (v : Port) : (s.setPort p v).handling = s.handling := rfl
@[simp] theorem State.setPort_retired (p : Nat) (v : Port) : (s.setPort p v).retired = s.retired := rfl
@[simp] theorem State.setPort_clearRetired (p : Nat) (v : Port) : (s.setPort p v).clearRetired = s.clearRetired := rfl
@[simp] theorem State.setPort_lostIslands (p : Nat) (v : Port) : (s.setPort p v).lostIslands = s.lostIslands := rfl
@[simp] theorem State.setPort_ports (p : Nat) (v : Port) : (s.setPort p v).ports = tset (fun _ => Port.fresh) s.ports p v := rfl
@[simp] theorem State.setPort_arch (p : Nat) (v : Port) : (s.setPort p v).arch = s.arch := rfl
@[simp] theorem State.setPort_streams (p : Nat) (v : Port) : (s.setPort p v).streams = s.streams := rfl
@[simp] theorem State.setPort_engines (p : Nat) (v : Port) : (s.setPort p v).engines = s.engines := rfl
@[simp] theorem State.setPort_sites (p : Nat) (v : Port) : (s.setPort p v).sites = s.sites := rfl
@[simp] theorem State.setPort_memOp (p : Nat) (v : Port) : (s.setPort p v).memOp = s.memOp := rfl
@[simp] theorem State.setPort_boot (p : Nat) (v : Port) : (s.setPort p v).boot = s.boot := rfl
@[simp] theorem State.setPort_seqr (p : Nat) (v : Port) : (s.setPort p v).seqr = s.seqr := rfl
@[simp] theorem State.setPort_pins (p : Nat) (v : Port) : (s.setPort p v).pins = s.pins := rfl
@[simp] theorem State.setPort_power (p : Nat) (v : Port) : (s.setPort p v).power = s.power := rfl
@[simp] theorem State.setPort_bundle (p : Nat) (v : Port) : (s.setPort p v).bundle = s.bundle := rfl
@[simp] theorem State.setPort_msixs (p : Nat) (v : Port) : (s.setPort p v).msixs = s.msixs := rfl
@[simp] theorem State.setPort_pcieLanes (p : Nat) (v : Port) : (s.setPort p v).pcieLanes = s.pcieLanes := rfl
@[simp] theorem State.setPort_straits (p : Nat) (v : Port) : (s.setPort p v).straits = s.straits := rfl
@[simp] theorem State.setPort_fresh (p : Nat) (v : Port) : (s.setPort p v).fresh = s.fresh := rfl
@[simp] theorem State.setPort_out (p : Nat) (v : Port) : (s.setPort p v).out = s.out := rfl

@[simp] theorem State.setStream_pending (n : Nat) (v : Stream) : (s.setStream n v).pending = s.pending := rfl
@[simp] theorem State.setStream_regs (n : Nat) (v : Stream) : (s.setStream n v).regs = s.regs := rfl
@[simp] theorem State.setStream_latch (n : Nat) (v : Stream) : (s.setStream n v).latch = s.latch := rfl
@[simp] theorem State.setStream_mem (n : Nat) (v : Stream) : (s.setStream n v).mem = s.mem := rfl
@[simp] theorem State.setStream_ecc (n : Nat) (v : Stream) : (s.setStream n v).ecc = s.ecc := rfl
@[simp] theorem State.setStream_ctxs (n : Nat) (v : Stream) : (s.setStream n v).ctxs = s.ctxs := rfl
@[simp] theorem State.setStream_queues (n : Nat) (v : Stream) : (s.setStream n v).queues = s.queues := rfl
@[simp] theorem State.setStream_cmds (n : Nat) (v : Stream) : (s.setStream n v).cmds = s.cmds := rfl
@[simp] theorem State.setStream_nextCmd (n : Nat) (v : Stream) : (s.setStream n v).nextCmd = s.nextCmd := rfl
@[simp] theorem State.setStream_fences (n : Nat) (v : Stream) : (s.setStream n v).fences = s.fences := rfl
@[simp] theorem State.setStream_clusters (n : Nat) (v : Stream) : (s.setStream n v).clusters = s.clusters := rfl
@[simp] theorem State.setStream_flash (n : Nat) (v : Stream) : (s.setStream n v).flash = s.flash := rfl
@[simp] theorem State.setStream_agents (n : Nat) (v : Stream) : (s.setStream n v).agents = s.agents := rfl
@[simp] theorem State.setStream_evseq (n : Nat) (v : Stream) : (s.setStream n v).evseq = s.evseq := rfl
@[simp] theorem State.setStream_erq (n : Nat) (v : Stream) : (s.setStream n v).erq = s.erq := rfl
@[simp] theorem State.setStream_rseq (n : Nat) (v : Stream) : (s.setStream n v).rseq = s.rseq := rfl
@[simp] theorem State.setStream_fwLog (n : Nat) (v : Stream) : (s.setStream n v).fwLog = s.fwLog := rfl
@[simp] theorem State.setStream_folded (n : Nat) (v : Stream) : (s.setStream n v).folded = s.folded := rfl
@[simp] theorem State.setStream_handling (n : Nat) (v : Stream) : (s.setStream n v).handling = s.handling := rfl
@[simp] theorem State.setStream_retired (n : Nat) (v : Stream) : (s.setStream n v).retired = s.retired := rfl
@[simp] theorem State.setStream_clearRetired (n : Nat) (v : Stream) : (s.setStream n v).clearRetired = s.clearRetired := rfl
@[simp] theorem State.setStream_lostIslands (n : Nat) (v : Stream) : (s.setStream n v).lostIslands = s.lostIslands := rfl
@[simp] theorem State.setStream_ports (n : Nat) (v : Stream) : (s.setStream n v).ports = s.ports := rfl
@[simp] theorem State.setStream_arch (n : Nat) (v : Stream) : (s.setStream n v).arch = s.arch := rfl
@[simp] theorem State.setStream_streams (n : Nat) (v : Stream) : (s.setStream n v).streams = tset (fun _ => Stream.free) s.streams n v := rfl
@[simp] theorem State.setStream_engines (n : Nat) (v : Stream) : (s.setStream n v).engines = s.engines := rfl
@[simp] theorem State.setStream_sites (n : Nat) (v : Stream) : (s.setStream n v).sites = s.sites := rfl
@[simp] theorem State.setStream_memOp (n : Nat) (v : Stream) : (s.setStream n v).memOp = s.memOp := rfl
@[simp] theorem State.setStream_boot (n : Nat) (v : Stream) : (s.setStream n v).boot = s.boot := rfl
@[simp] theorem State.setStream_seqr (n : Nat) (v : Stream) : (s.setStream n v).seqr = s.seqr := rfl
@[simp] theorem State.setStream_pins (n : Nat) (v : Stream) : (s.setStream n v).pins = s.pins := rfl
@[simp] theorem State.setStream_power (n : Nat) (v : Stream) : (s.setStream n v).power = s.power := rfl
@[simp] theorem State.setStream_bundle (n : Nat) (v : Stream) : (s.setStream n v).bundle = s.bundle := rfl
@[simp] theorem State.setStream_msixs (n : Nat) (v : Stream) : (s.setStream n v).msixs = s.msixs := rfl
@[simp] theorem State.setStream_pcieLanes (n : Nat) (v : Stream) : (s.setStream n v).pcieLanes = s.pcieLanes := rfl
@[simp] theorem State.setStream_straits (n : Nat) (v : Stream) : (s.setStream n v).straits = s.straits := rfl
@[simp] theorem State.setStream_fresh (n : Nat) (v : Stream) : (s.setStream n v).fresh = s.fresh := rfl
@[simp] theorem State.setStream_out (n : Nat) (v : Stream) : (s.setStream n v).out = s.out := rfl

@[simp] theorem State.setEngine_pending (e : Nat) (v : Engine) : (s.setEngine e v).pending = s.pending := rfl
@[simp] theorem State.setEngine_regs (e : Nat) (v : Engine) : (s.setEngine e v).regs = s.regs := rfl
@[simp] theorem State.setEngine_latch (e : Nat) (v : Engine) : (s.setEngine e v).latch = s.latch := rfl
@[simp] theorem State.setEngine_mem (e : Nat) (v : Engine) : (s.setEngine e v).mem = s.mem := rfl
@[simp] theorem State.setEngine_ecc (e : Nat) (v : Engine) : (s.setEngine e v).ecc = s.ecc := rfl
@[simp] theorem State.setEngine_ctxs (e : Nat) (v : Engine) : (s.setEngine e v).ctxs = s.ctxs := rfl
@[simp] theorem State.setEngine_queues (e : Nat) (v : Engine) : (s.setEngine e v).queues = s.queues := rfl
@[simp] theorem State.setEngine_cmds (e : Nat) (v : Engine) : (s.setEngine e v).cmds = s.cmds := rfl
@[simp] theorem State.setEngine_nextCmd (e : Nat) (v : Engine) : (s.setEngine e v).nextCmd = s.nextCmd := rfl
@[simp] theorem State.setEngine_fences (e : Nat) (v : Engine) : (s.setEngine e v).fences = s.fences := rfl
@[simp] theorem State.setEngine_clusters (e : Nat) (v : Engine) : (s.setEngine e v).clusters = s.clusters := rfl
@[simp] theorem State.setEngine_flash (e : Nat) (v : Engine) : (s.setEngine e v).flash = s.flash := rfl
@[simp] theorem State.setEngine_agents (e : Nat) (v : Engine) : (s.setEngine e v).agents = s.agents := rfl
@[simp] theorem State.setEngine_evseq (e : Nat) (v : Engine) : (s.setEngine e v).evseq = s.evseq := rfl
@[simp] theorem State.setEngine_erq (e : Nat) (v : Engine) : (s.setEngine e v).erq = s.erq := rfl
@[simp] theorem State.setEngine_rseq (e : Nat) (v : Engine) : (s.setEngine e v).rseq = s.rseq := rfl
@[simp] theorem State.setEngine_fwLog (e : Nat) (v : Engine) : (s.setEngine e v).fwLog = s.fwLog := rfl
@[simp] theorem State.setEngine_folded (e : Nat) (v : Engine) : (s.setEngine e v).folded = s.folded := rfl
@[simp] theorem State.setEngine_handling (e : Nat) (v : Engine) : (s.setEngine e v).handling = s.handling := rfl
@[simp] theorem State.setEngine_retired (e : Nat) (v : Engine) : (s.setEngine e v).retired = s.retired := rfl
@[simp] theorem State.setEngine_clearRetired (e : Nat) (v : Engine) : (s.setEngine e v).clearRetired = s.clearRetired := rfl
@[simp] theorem State.setEngine_lostIslands (e : Nat) (v : Engine) : (s.setEngine e v).lostIslands = s.lostIslands := rfl
@[simp] theorem State.setEngine_ports (e : Nat) (v : Engine) : (s.setEngine e v).ports = s.ports := rfl
@[simp] theorem State.setEngine_arch (e : Nat) (v : Engine) : (s.setEngine e v).arch = s.arch := rfl
@[simp] theorem State.setEngine_streams (e : Nat) (v : Engine) : (s.setEngine e v).streams = s.streams := rfl
@[simp] theorem State.setEngine_engines (e : Nat) (v : Engine) : (s.setEngine e v).engines = tset (fun _ => Engine.fresh) s.engines e v := rfl
@[simp] theorem State.setEngine_sites (e : Nat) (v : Engine) : (s.setEngine e v).sites = s.sites := rfl
@[simp] theorem State.setEngine_memOp (e : Nat) (v : Engine) : (s.setEngine e v).memOp = s.memOp := rfl
@[simp] theorem State.setEngine_boot (e : Nat) (v : Engine) : (s.setEngine e v).boot = s.boot := rfl
@[simp] theorem State.setEngine_seqr (e : Nat) (v : Engine) : (s.setEngine e v).seqr = s.seqr := rfl
@[simp] theorem State.setEngine_pins (e : Nat) (v : Engine) : (s.setEngine e v).pins = s.pins := rfl
@[simp] theorem State.setEngine_power (e : Nat) (v : Engine) : (s.setEngine e v).power = s.power := rfl
@[simp] theorem State.setEngine_bundle (e : Nat) (v : Engine) : (s.setEngine e v).bundle = s.bundle := rfl
@[simp] theorem State.setEngine_msixs (e : Nat) (v : Engine) : (s.setEngine e v).msixs = s.msixs := rfl
@[simp] theorem State.setEngine_pcieLanes (e : Nat) (v : Engine) : (s.setEngine e v).pcieLanes = s.pcieLanes := rfl
@[simp] theorem State.setEngine_straits (e : Nat) (v : Engine) : (s.setEngine e v).straits = s.straits := rfl
@[simp] theorem State.setEngine_fresh (e : Nat) (v : Engine) : (s.setEngine e v).fresh = s.fresh := rfl
@[simp] theorem State.setEngine_out (e : Nat) (v : Engine) : (s.setEngine e v).out = s.out := rfl

@[simp] theorem State.setSite_pending (n : Nat) (v : Site) : (s.setSite n v).pending = s.pending := rfl
@[simp] theorem State.setSite_regs (n : Nat) (v : Site) : (s.setSite n v).regs = s.regs := rfl
@[simp] theorem State.setSite_latch (n : Nat) (v : Site) : (s.setSite n v).latch = s.latch := rfl
@[simp] theorem State.setSite_mem (n : Nat) (v : Site) : (s.setSite n v).mem = s.mem := rfl
@[simp] theorem State.setSite_ecc (n : Nat) (v : Site) : (s.setSite n v).ecc = s.ecc := rfl
@[simp] theorem State.setSite_ctxs (n : Nat) (v : Site) : (s.setSite n v).ctxs = s.ctxs := rfl
@[simp] theorem State.setSite_queues (n : Nat) (v : Site) : (s.setSite n v).queues = s.queues := rfl
@[simp] theorem State.setSite_cmds (n : Nat) (v : Site) : (s.setSite n v).cmds = s.cmds := rfl
@[simp] theorem State.setSite_nextCmd (n : Nat) (v : Site) : (s.setSite n v).nextCmd = s.nextCmd := rfl
@[simp] theorem State.setSite_fences (n : Nat) (v : Site) : (s.setSite n v).fences = s.fences := rfl
@[simp] theorem State.setSite_clusters (n : Nat) (v : Site) : (s.setSite n v).clusters = s.clusters := rfl
@[simp] theorem State.setSite_flash (n : Nat) (v : Site) : (s.setSite n v).flash = s.flash := rfl
@[simp] theorem State.setSite_agents (n : Nat) (v : Site) : (s.setSite n v).agents = s.agents := rfl
@[simp] theorem State.setSite_evseq (n : Nat) (v : Site) : (s.setSite n v).evseq = s.evseq := rfl
@[simp] theorem State.setSite_erq (n : Nat) (v : Site) : (s.setSite n v).erq = s.erq := rfl
@[simp] theorem State.setSite_rseq (n : Nat) (v : Site) : (s.setSite n v).rseq = s.rseq := rfl
@[simp] theorem State.setSite_fwLog (n : Nat) (v : Site) : (s.setSite n v).fwLog = s.fwLog := rfl
@[simp] theorem State.setSite_folded (n : Nat) (v : Site) : (s.setSite n v).folded = s.folded := rfl
@[simp] theorem State.setSite_handling (n : Nat) (v : Site) : (s.setSite n v).handling = s.handling := rfl
@[simp] theorem State.setSite_retired (n : Nat) (v : Site) : (s.setSite n v).retired = s.retired := rfl
@[simp] theorem State.setSite_clearRetired (n : Nat) (v : Site) : (s.setSite n v).clearRetired = s.clearRetired := rfl
@[simp] theorem State.setSite_lostIslands (n : Nat) (v : Site) : (s.setSite n v).lostIslands = s.lostIslands := rfl
@[simp] theorem State.setSite_ports (n : Nat) (v : Site) : (s.setSite n v).ports = s.ports := rfl
@[simp] theorem State.setSite_arch (n : Nat) (v : Site) : (s.setSite n v).arch = s.arch := rfl
@[simp] theorem State.setSite_streams (n : Nat) (v : Site) : (s.setSite n v).streams = s.streams := rfl
@[simp] theorem State.setSite_engines (n : Nat) (v : Site) : (s.setSite n v).engines = s.engines := rfl
@[simp] theorem State.setSite_sites (n : Nat) (v : Site) : (s.setSite n v).sites = tset (fun _ => Site.fresh) s.sites n v := rfl
@[simp] theorem State.setSite_memOp (n : Nat) (v : Site) : (s.setSite n v).memOp = s.memOp := rfl
@[simp] theorem State.setSite_boot (n : Nat) (v : Site) : (s.setSite n v).boot = s.boot := rfl
@[simp] theorem State.setSite_seqr (n : Nat) (v : Site) : (s.setSite n v).seqr = s.seqr := rfl
@[simp] theorem State.setSite_pins (n : Nat) (v : Site) : (s.setSite n v).pins = s.pins := rfl
@[simp] theorem State.setSite_power (n : Nat) (v : Site) : (s.setSite n v).power = s.power := rfl
@[simp] theorem State.setSite_bundle (n : Nat) (v : Site) : (s.setSite n v).bundle = s.bundle := rfl
@[simp] theorem State.setSite_msixs (n : Nat) (v : Site) : (s.setSite n v).msixs = s.msixs := rfl
@[simp] theorem State.setSite_pcieLanes (n : Nat) (v : Site) : (s.setSite n v).pcieLanes = s.pcieLanes := rfl
@[simp] theorem State.setSite_straits (n : Nat) (v : Site) : (s.setSite n v).straits = s.straits := rfl
@[simp] theorem State.setSite_fresh (n : Nat) (v : Site) : (s.setSite n v).fresh = s.fresh := rfl
@[simp] theorem State.setSite_out (n : Nat) (v : Site) : (s.setSite n v).out = s.out := rfl

@[simp] theorem State.setMsix_pending (n : Nat) (m : Msix) : (s.setMsix n m).pending = s.pending := rfl
@[simp] theorem State.setMsix_regs (n : Nat) (m : Msix) : (s.setMsix n m).regs = s.regs := rfl
@[simp] theorem State.setMsix_latch (n : Nat) (m : Msix) : (s.setMsix n m).latch = s.latch := rfl
@[simp] theorem State.setMsix_mem (n : Nat) (m : Msix) : (s.setMsix n m).mem = s.mem := rfl
@[simp] theorem State.setMsix_ecc (n : Nat) (m : Msix) : (s.setMsix n m).ecc = s.ecc := rfl
@[simp] theorem State.setMsix_ctxs (n : Nat) (m : Msix) : (s.setMsix n m).ctxs = s.ctxs := rfl
@[simp] theorem State.setMsix_queues (n : Nat) (m : Msix) : (s.setMsix n m).queues = s.queues := rfl
@[simp] theorem State.setMsix_cmds (n : Nat) (m : Msix) : (s.setMsix n m).cmds = s.cmds := rfl
@[simp] theorem State.setMsix_nextCmd (n : Nat) (m : Msix) : (s.setMsix n m).nextCmd = s.nextCmd := rfl
@[simp] theorem State.setMsix_fences (n : Nat) (m : Msix) : (s.setMsix n m).fences = s.fences := rfl
@[simp] theorem State.setMsix_clusters (n : Nat) (m : Msix) : (s.setMsix n m).clusters = s.clusters := rfl
@[simp] theorem State.setMsix_flash (n : Nat) (m : Msix) : (s.setMsix n m).flash = s.flash := rfl
@[simp] theorem State.setMsix_agents (n : Nat) (m : Msix) : (s.setMsix n m).agents = s.agents := rfl
@[simp] theorem State.setMsix_evseq (n : Nat) (m : Msix) : (s.setMsix n m).evseq = s.evseq := rfl
@[simp] theorem State.setMsix_erq (n : Nat) (m : Msix) : (s.setMsix n m).erq = s.erq := rfl
@[simp] theorem State.setMsix_rseq (n : Nat) (m : Msix) : (s.setMsix n m).rseq = s.rseq := rfl
@[simp] theorem State.setMsix_fwLog (n : Nat) (m : Msix) : (s.setMsix n m).fwLog = s.fwLog := rfl
@[simp] theorem State.setMsix_folded (n : Nat) (m : Msix) : (s.setMsix n m).folded = s.folded := rfl
@[simp] theorem State.setMsix_handling (n : Nat) (m : Msix) : (s.setMsix n m).handling = s.handling := rfl
@[simp] theorem State.setMsix_retired (n : Nat) (m : Msix) : (s.setMsix n m).retired = s.retired := rfl
@[simp] theorem State.setMsix_clearRetired (n : Nat) (m : Msix) : (s.setMsix n m).clearRetired = s.clearRetired := rfl
@[simp] theorem State.setMsix_lostIslands (n : Nat) (m : Msix) : (s.setMsix n m).lostIslands = s.lostIslands := rfl
@[simp] theorem State.setMsix_ports (n : Nat) (m : Msix) : (s.setMsix n m).ports = s.ports := rfl
@[simp] theorem State.setMsix_arch (n : Nat) (m : Msix) : (s.setMsix n m).arch = s.arch := rfl
@[simp] theorem State.setMsix_streams (n : Nat) (m : Msix) : (s.setMsix n m).streams = s.streams := rfl
@[simp] theorem State.setMsix_engines (n : Nat) (m : Msix) : (s.setMsix n m).engines = s.engines := rfl
@[simp] theorem State.setMsix_sites (n : Nat) (m : Msix) : (s.setMsix n m).sites = s.sites := rfl
@[simp] theorem State.setMsix_memOp (n : Nat) (m : Msix) : (s.setMsix n m).memOp = s.memOp := rfl
@[simp] theorem State.setMsix_boot (n : Nat) (m : Msix) : (s.setMsix n m).boot = s.boot := rfl
@[simp] theorem State.setMsix_seqr (n : Nat) (m : Msix) : (s.setMsix n m).seqr = s.seqr := rfl
@[simp] theorem State.setMsix_pins (n : Nat) (m : Msix) : (s.setMsix n m).pins = s.pins := rfl
@[simp] theorem State.setMsix_power (n : Nat) (m : Msix) : (s.setMsix n m).power = s.power := rfl
@[simp] theorem State.setMsix_bundle (n : Nat) (m : Msix) : (s.setMsix n m).bundle = s.bundle := rfl
@[simp] theorem State.setMsix_msixs (n : Nat) (m : Msix) : (s.setMsix n m).msixs = tset (fun _ => Msix.fresh) s.msixs n m := rfl
@[simp] theorem State.setMsix_pcieLanes (n : Nat) (m : Msix) : (s.setMsix n m).pcieLanes = s.pcieLanes := rfl
@[simp] theorem State.setMsix_straits (n : Nat) (m : Msix) : (s.setMsix n m).straits = s.straits := rfl
@[simp] theorem State.setMsix_fresh (n : Nat) (m : Msix) : (s.setMsix n m).fresh = s.fresh := rfl
@[simp] theorem State.setMsix_out (n : Nat) (m : Msix) : (s.setMsix n m).out = s.out := rfl

@[simp] theorem State.setBoot_pending (b : Boot) : (s.setBoot b).pending = s.pending := rfl
@[simp] theorem State.setBoot_regs (b : Boot) : (s.setBoot b).regs = s.regs := rfl
@[simp] theorem State.setBoot_latch (b : Boot) : (s.setBoot b).latch = s.latch := rfl
@[simp] theorem State.setBoot_mem (b : Boot) : (s.setBoot b).mem = s.mem := rfl
@[simp] theorem State.setBoot_ecc (b : Boot) : (s.setBoot b).ecc = s.ecc := rfl
@[simp] theorem State.setBoot_ctxs (b : Boot) : (s.setBoot b).ctxs = s.ctxs := rfl
@[simp] theorem State.setBoot_queues (b : Boot) : (s.setBoot b).queues = s.queues := rfl
@[simp] theorem State.setBoot_cmds (b : Boot) : (s.setBoot b).cmds = s.cmds := rfl
@[simp] theorem State.setBoot_nextCmd (b : Boot) : (s.setBoot b).nextCmd = s.nextCmd := rfl
@[simp] theorem State.setBoot_fences (b : Boot) : (s.setBoot b).fences = s.fences := rfl
@[simp] theorem State.setBoot_clusters (b : Boot) : (s.setBoot b).clusters = s.clusters := rfl
@[simp] theorem State.setBoot_flash (b : Boot) : (s.setBoot b).flash = s.flash := rfl
@[simp] theorem State.setBoot_agents (b : Boot) : (s.setBoot b).agents = s.agents := rfl
@[simp] theorem State.setBoot_evseq (b : Boot) : (s.setBoot b).evseq = s.evseq := rfl
@[simp] theorem State.setBoot_erq (b : Boot) : (s.setBoot b).erq = s.erq := rfl
@[simp] theorem State.setBoot_rseq (b : Boot) : (s.setBoot b).rseq = s.rseq := rfl
@[simp] theorem State.setBoot_fwLog (b : Boot) : (s.setBoot b).fwLog = s.fwLog := rfl
@[simp] theorem State.setBoot_folded (b : Boot) : (s.setBoot b).folded = s.folded := rfl
@[simp] theorem State.setBoot_handling (b : Boot) : (s.setBoot b).handling = s.handling := rfl
@[simp] theorem State.setBoot_retired (b : Boot) : (s.setBoot b).retired = s.retired := rfl
@[simp] theorem State.setBoot_clearRetired (b : Boot) : (s.setBoot b).clearRetired = s.clearRetired := rfl
@[simp] theorem State.setBoot_lostIslands (b : Boot) : (s.setBoot b).lostIslands = s.lostIslands := rfl
@[simp] theorem State.setBoot_ports (b : Boot) : (s.setBoot b).ports = s.ports := rfl
@[simp] theorem State.setBoot_arch (b : Boot) : (s.setBoot b).arch = s.arch := rfl
@[simp] theorem State.setBoot_streams (b : Boot) : (s.setBoot b).streams = s.streams := rfl
@[simp] theorem State.setBoot_engines (b : Boot) : (s.setBoot b).engines = s.engines := rfl
@[simp] theorem State.setBoot_sites (b : Boot) : (s.setBoot b).sites = s.sites := rfl
@[simp] theorem State.setBoot_memOp (b : Boot) : (s.setBoot b).memOp = s.memOp := rfl
@[simp] theorem State.setBoot_boot (b : Boot) : (s.setBoot b).boot = b := rfl
@[simp] theorem State.setBoot_seqr (b : Boot) : (s.setBoot b).seqr = s.seqr := rfl
@[simp] theorem State.setBoot_pins (b : Boot) : (s.setBoot b).pins = s.pins := rfl
@[simp] theorem State.setBoot_power (b : Boot) : (s.setBoot b).power = s.power := rfl
@[simp] theorem State.setBoot_bundle (b : Boot) : (s.setBoot b).bundle = s.bundle := rfl
@[simp] theorem State.setBoot_msixs (b : Boot) : (s.setBoot b).msixs = s.msixs := rfl
@[simp] theorem State.setBoot_pcieLanes (b : Boot) : (s.setBoot b).pcieLanes = s.pcieLanes := rfl
@[simp] theorem State.setBoot_straits (b : Boot) : (s.setBoot b).straits = s.straits := rfl
@[simp] theorem State.setBoot_fresh (b : Boot) : (s.setBoot b).fresh = s.fresh := rfl
@[simp] theorem State.setBoot_out (b : Boot) : (s.setBoot b).out = s.out := rfl

@[simp] theorem State.setSeqr_pending (q : Sequencer) : (s.setSeqr q).pending = s.pending := rfl
@[simp] theorem State.setSeqr_regs (q : Sequencer) : (s.setSeqr q).regs = s.regs := rfl
@[simp] theorem State.setSeqr_latch (q : Sequencer) : (s.setSeqr q).latch = s.latch := rfl
@[simp] theorem State.setSeqr_mem (q : Sequencer) : (s.setSeqr q).mem = s.mem := rfl
@[simp] theorem State.setSeqr_ecc (q : Sequencer) : (s.setSeqr q).ecc = s.ecc := rfl
@[simp] theorem State.setSeqr_ctxs (q : Sequencer) : (s.setSeqr q).ctxs = s.ctxs := rfl
@[simp] theorem State.setSeqr_queues (q : Sequencer) : (s.setSeqr q).queues = s.queues := rfl
@[simp] theorem State.setSeqr_cmds (q : Sequencer) : (s.setSeqr q).cmds = s.cmds := rfl
@[simp] theorem State.setSeqr_nextCmd (q : Sequencer) : (s.setSeqr q).nextCmd = s.nextCmd := rfl
@[simp] theorem State.setSeqr_fences (q : Sequencer) : (s.setSeqr q).fences = s.fences := rfl
@[simp] theorem State.setSeqr_clusters (q : Sequencer) : (s.setSeqr q).clusters = s.clusters := rfl
@[simp] theorem State.setSeqr_flash (q : Sequencer) : (s.setSeqr q).flash = s.flash := rfl
@[simp] theorem State.setSeqr_agents (q : Sequencer) : (s.setSeqr q).agents = s.agents := rfl
@[simp] theorem State.setSeqr_evseq (q : Sequencer) : (s.setSeqr q).evseq = s.evseq := rfl
@[simp] theorem State.setSeqr_erq (q : Sequencer) : (s.setSeqr q).erq = s.erq := rfl
@[simp] theorem State.setSeqr_rseq (q : Sequencer) : (s.setSeqr q).rseq = s.rseq := rfl
@[simp] theorem State.setSeqr_fwLog (q : Sequencer) : (s.setSeqr q).fwLog = s.fwLog := rfl
@[simp] theorem State.setSeqr_folded (q : Sequencer) : (s.setSeqr q).folded = s.folded := rfl
@[simp] theorem State.setSeqr_handling (q : Sequencer) : (s.setSeqr q).handling = s.handling := rfl
@[simp] theorem State.setSeqr_retired (q : Sequencer) : (s.setSeqr q).retired = s.retired := rfl
@[simp] theorem State.setSeqr_clearRetired (q : Sequencer) : (s.setSeqr q).clearRetired = s.clearRetired := rfl
@[simp] theorem State.setSeqr_lostIslands (q : Sequencer) : (s.setSeqr q).lostIslands = s.lostIslands := rfl
@[simp] theorem State.setSeqr_ports (q : Sequencer) : (s.setSeqr q).ports = s.ports := rfl
@[simp] theorem State.setSeqr_arch (q : Sequencer) : (s.setSeqr q).arch = s.arch := rfl
@[simp] theorem State.setSeqr_streams (q : Sequencer) : (s.setSeqr q).streams = s.streams := rfl
@[simp] theorem State.setSeqr_engines (q : Sequencer) : (s.setSeqr q).engines = s.engines := rfl
@[simp] theorem State.setSeqr_sites (q : Sequencer) : (s.setSeqr q).sites = s.sites := rfl
@[simp] theorem State.setSeqr_memOp (q : Sequencer) : (s.setSeqr q).memOp = s.memOp := rfl
@[simp] theorem State.setSeqr_boot (q : Sequencer) : (s.setSeqr q).boot = s.boot := rfl
@[simp] theorem State.setSeqr_seqr (q : Sequencer) : (s.setSeqr q).seqr = q := rfl
@[simp] theorem State.setSeqr_pins (q : Sequencer) : (s.setSeqr q).pins = s.pins := rfl
@[simp] theorem State.setSeqr_power (q : Sequencer) : (s.setSeqr q).power = s.power := rfl
@[simp] theorem State.setSeqr_bundle (q : Sequencer) : (s.setSeqr q).bundle = s.bundle := rfl
@[simp] theorem State.setSeqr_msixs (q : Sequencer) : (s.setSeqr q).msixs = s.msixs := rfl
@[simp] theorem State.setSeqr_pcieLanes (q : Sequencer) : (s.setSeqr q).pcieLanes = s.pcieLanes := rfl
@[simp] theorem State.setSeqr_straits (q : Sequencer) : (s.setSeqr q).straits = s.straits := rfl
@[simp] theorem State.setSeqr_fresh (q : Sequencer) : (s.setSeqr q).fresh = s.fresh := rfl
@[simp] theorem State.setSeqr_out (q : Sequencer) : (s.setSeqr q).out = s.out := rfl

@[simp] theorem State.setPins_pending (p : Pins) : (s.setPins p).pending = s.pending := rfl
@[simp] theorem State.setPins_regs (p : Pins) : (s.setPins p).regs = s.regs := rfl
@[simp] theorem State.setPins_latch (p : Pins) : (s.setPins p).latch = s.latch := rfl
@[simp] theorem State.setPins_mem (p : Pins) : (s.setPins p).mem = s.mem := rfl
@[simp] theorem State.setPins_ecc (p : Pins) : (s.setPins p).ecc = s.ecc := rfl
@[simp] theorem State.setPins_ctxs (p : Pins) : (s.setPins p).ctxs = s.ctxs := rfl
@[simp] theorem State.setPins_queues (p : Pins) : (s.setPins p).queues = s.queues := rfl
@[simp] theorem State.setPins_cmds (p : Pins) : (s.setPins p).cmds = s.cmds := rfl
@[simp] theorem State.setPins_nextCmd (p : Pins) : (s.setPins p).nextCmd = s.nextCmd := rfl
@[simp] theorem State.setPins_fences (p : Pins) : (s.setPins p).fences = s.fences := rfl
@[simp] theorem State.setPins_clusters (p : Pins) : (s.setPins p).clusters = s.clusters := rfl
@[simp] theorem State.setPins_flash (p : Pins) : (s.setPins p).flash = s.flash := rfl
@[simp] theorem State.setPins_agents (p : Pins) : (s.setPins p).agents = s.agents := rfl
@[simp] theorem State.setPins_evseq (p : Pins) : (s.setPins p).evseq = s.evseq := rfl
@[simp] theorem State.setPins_erq (p : Pins) : (s.setPins p).erq = s.erq := rfl
@[simp] theorem State.setPins_rseq (p : Pins) : (s.setPins p).rseq = s.rseq := rfl
@[simp] theorem State.setPins_fwLog (p : Pins) : (s.setPins p).fwLog = s.fwLog := rfl
@[simp] theorem State.setPins_folded (p : Pins) : (s.setPins p).folded = s.folded := rfl
@[simp] theorem State.setPins_handling (p : Pins) : (s.setPins p).handling = s.handling := rfl
@[simp] theorem State.setPins_retired (p : Pins) : (s.setPins p).retired = s.retired := rfl
@[simp] theorem State.setPins_clearRetired (p : Pins) : (s.setPins p).clearRetired = s.clearRetired := rfl
@[simp] theorem State.setPins_lostIslands (p : Pins) : (s.setPins p).lostIslands = s.lostIslands := rfl
@[simp] theorem State.setPins_ports (p : Pins) : (s.setPins p).ports = s.ports := rfl
@[simp] theorem State.setPins_arch (p : Pins) : (s.setPins p).arch = s.arch := rfl
@[simp] theorem State.setPins_streams (p : Pins) : (s.setPins p).streams = s.streams := rfl
@[simp] theorem State.setPins_engines (p : Pins) : (s.setPins p).engines = s.engines := rfl
@[simp] theorem State.setPins_sites (p : Pins) : (s.setPins p).sites = s.sites := rfl
@[simp] theorem State.setPins_memOp (p : Pins) : (s.setPins p).memOp = s.memOp := rfl
@[simp] theorem State.setPins_boot (p : Pins) : (s.setPins p).boot = s.boot := rfl
@[simp] theorem State.setPins_seqr (p : Pins) : (s.setPins p).seqr = s.seqr := rfl
@[simp] theorem State.setPins_pins (p : Pins) : (s.setPins p).pins = p := rfl
@[simp] theorem State.setPins_power (p : Pins) : (s.setPins p).power = s.power := rfl
@[simp] theorem State.setPins_bundle (p : Pins) : (s.setPins p).bundle = s.bundle := rfl
@[simp] theorem State.setPins_msixs (p : Pins) : (s.setPins p).msixs = s.msixs := rfl
@[simp] theorem State.setPins_pcieLanes (p : Pins) : (s.setPins p).pcieLanes = s.pcieLanes := rfl
@[simp] theorem State.setPins_straits (p : Pins) : (s.setPins p).straits = s.straits := rfl
@[simp] theorem State.setPins_fresh (p : Pins) : (s.setPins p).fresh = s.fresh := rfl
@[simp] theorem State.setPins_out (p : Pins) : (s.setPins p).out = s.out := rfl

@[simp] theorem State.setArch_pending (a : Arch) : (s.setArch a).pending = s.pending := rfl
@[simp] theorem State.setArch_regs (a : Arch) : (s.setArch a).regs = s.regs := rfl
@[simp] theorem State.setArch_latch (a : Arch) : (s.setArch a).latch = s.latch := rfl
@[simp] theorem State.setArch_mem (a : Arch) : (s.setArch a).mem = s.mem := rfl
@[simp] theorem State.setArch_ecc (a : Arch) : (s.setArch a).ecc = s.ecc := rfl
@[simp] theorem State.setArch_ctxs (a : Arch) : (s.setArch a).ctxs = s.ctxs := rfl
@[simp] theorem State.setArch_queues (a : Arch) : (s.setArch a).queues = s.queues := rfl
@[simp] theorem State.setArch_cmds (a : Arch) : (s.setArch a).cmds = s.cmds := rfl
@[simp] theorem State.setArch_nextCmd (a : Arch) : (s.setArch a).nextCmd = s.nextCmd := rfl
@[simp] theorem State.setArch_fences (a : Arch) : (s.setArch a).fences = s.fences := rfl
@[simp] theorem State.setArch_clusters (a : Arch) : (s.setArch a).clusters = s.clusters := rfl
@[simp] theorem State.setArch_flash (a : Arch) : (s.setArch a).flash = s.flash := rfl
@[simp] theorem State.setArch_agents (a : Arch) : (s.setArch a).agents = s.agents := rfl
@[simp] theorem State.setArch_evseq (a : Arch) : (s.setArch a).evseq = s.evseq := rfl
@[simp] theorem State.setArch_erq (a : Arch) : (s.setArch a).erq = s.erq := rfl
@[simp] theorem State.setArch_rseq (a : Arch) : (s.setArch a).rseq = s.rseq := rfl
@[simp] theorem State.setArch_fwLog (a : Arch) : (s.setArch a).fwLog = s.fwLog := rfl
@[simp] theorem State.setArch_folded (a : Arch) : (s.setArch a).folded = s.folded := rfl
@[simp] theorem State.setArch_handling (a : Arch) : (s.setArch a).handling = s.handling := rfl
@[simp] theorem State.setArch_retired (a : Arch) : (s.setArch a).retired = s.retired := rfl
@[simp] theorem State.setArch_clearRetired (a : Arch) : (s.setArch a).clearRetired = s.clearRetired := rfl
@[simp] theorem State.setArch_lostIslands (a : Arch) : (s.setArch a).lostIslands = s.lostIslands := rfl
@[simp] theorem State.setArch_ports (a : Arch) : (s.setArch a).ports = s.ports := rfl
@[simp] theorem State.setArch_arch (a : Arch) : (s.setArch a).arch = a := rfl
@[simp] theorem State.setArch_streams (a : Arch) : (s.setArch a).streams = s.streams := rfl
@[simp] theorem State.setArch_engines (a : Arch) : (s.setArch a).engines = s.engines := rfl
@[simp] theorem State.setArch_sites (a : Arch) : (s.setArch a).sites = s.sites := rfl
@[simp] theorem State.setArch_memOp (a : Arch) : (s.setArch a).memOp = s.memOp := rfl
@[simp] theorem State.setArch_boot (a : Arch) : (s.setArch a).boot = s.boot := rfl
@[simp] theorem State.setArch_seqr (a : Arch) : (s.setArch a).seqr = s.seqr := rfl
@[simp] theorem State.setArch_pins (a : Arch) : (s.setArch a).pins = s.pins := rfl
@[simp] theorem State.setArch_power (a : Arch) : (s.setArch a).power = s.power := rfl
@[simp] theorem State.setArch_bundle (a : Arch) : (s.setArch a).bundle = s.bundle := rfl
@[simp] theorem State.setArch_msixs (a : Arch) : (s.setArch a).msixs = s.msixs := rfl
@[simp] theorem State.setArch_pcieLanes (a : Arch) : (s.setArch a).pcieLanes = s.pcieLanes := rfl
@[simp] theorem State.setArch_straits (a : Arch) : (s.setArch a).straits = s.straits := rfl
@[simp] theorem State.setArch_fresh (a : Arch) : (s.setArch a).fresh = s.fresh := rfl
@[simp] theorem State.setArch_out (a : Arch) : (s.setArch a).out = s.out := rfl

@[simp] theorem State.setPower_pending (p : Power) : (s.setPower p).pending = s.pending := rfl
@[simp] theorem State.setPower_regs (p : Power) : (s.setPower p).regs = s.regs := rfl
@[simp] theorem State.setPower_latch (p : Power) : (s.setPower p).latch = s.latch := rfl
@[simp] theorem State.setPower_mem (p : Power) : (s.setPower p).mem = s.mem := rfl
@[simp] theorem State.setPower_ecc (p : Power) : (s.setPower p).ecc = s.ecc := rfl
@[simp] theorem State.setPower_ctxs (p : Power) : (s.setPower p).ctxs = s.ctxs := rfl
@[simp] theorem State.setPower_queues (p : Power) : (s.setPower p).queues = s.queues := rfl
@[simp] theorem State.setPower_cmds (p : Power) : (s.setPower p).cmds = s.cmds := rfl
@[simp] theorem State.setPower_nextCmd (p : Power) : (s.setPower p).nextCmd = s.nextCmd := rfl
@[simp] theorem State.setPower_fences (p : Power) : (s.setPower p).fences = s.fences := rfl
@[simp] theorem State.setPower_clusters (p : Power) : (s.setPower p).clusters = s.clusters := rfl
@[simp] theorem State.setPower_flash (p : Power) : (s.setPower p).flash = s.flash := rfl
@[simp] theorem State.setPower_agents (p : Power) : (s.setPower p).agents = s.agents := rfl
@[simp] theorem State.setPower_evseq (p : Power) : (s.setPower p).evseq = s.evseq := rfl
@[simp] theorem State.setPower_erq (p : Power) : (s.setPower p).erq = s.erq := rfl
@[simp] theorem State.setPower_rseq (p : Power) : (s.setPower p).rseq = s.rseq := rfl
@[simp] theorem State.setPower_fwLog (p : Power) : (s.setPower p).fwLog = s.fwLog := rfl
@[simp] theorem State.setPower_folded (p : Power) : (s.setPower p).folded = s.folded := rfl
@[simp] theorem State.setPower_handling (p : Power) : (s.setPower p).handling = s.handling := rfl
@[simp] theorem State.setPower_retired (p : Power) : (s.setPower p).retired = s.retired := rfl
@[simp] theorem State.setPower_clearRetired (p : Power) : (s.setPower p).clearRetired = s.clearRetired := rfl
@[simp] theorem State.setPower_lostIslands (p : Power) : (s.setPower p).lostIslands = s.lostIslands := rfl
@[simp] theorem State.setPower_ports (p : Power) : (s.setPower p).ports = s.ports := rfl
@[simp] theorem State.setPower_arch (p : Power) : (s.setPower p).arch = s.arch := rfl
@[simp] theorem State.setPower_streams (p : Power) : (s.setPower p).streams = s.streams := rfl
@[simp] theorem State.setPower_engines (p : Power) : (s.setPower p).engines = s.engines := rfl
@[simp] theorem State.setPower_sites (p : Power) : (s.setPower p).sites = s.sites := rfl
@[simp] theorem State.setPower_memOp (p : Power) : (s.setPower p).memOp = s.memOp := rfl
@[simp] theorem State.setPower_boot (p : Power) : (s.setPower p).boot = s.boot := rfl
@[simp] theorem State.setPower_seqr (p : Power) : (s.setPower p).seqr = s.seqr := rfl
@[simp] theorem State.setPower_pins (p : Power) : (s.setPower p).pins = s.pins := rfl
@[simp] theorem State.setPower_power (p : Power) : (s.setPower p).power = p := rfl
@[simp] theorem State.setPower_bundle (p : Power) : (s.setPower p).bundle = s.bundle := rfl
@[simp] theorem State.setPower_msixs (p : Power) : (s.setPower p).msixs = s.msixs := rfl
@[simp] theorem State.setPower_pcieLanes (p : Power) : (s.setPower p).pcieLanes = s.pcieLanes := rfl
@[simp] theorem State.setPower_straits (p : Power) : (s.setPower p).straits = s.straits := rfl
@[simp] theorem State.setPower_fresh (p : Power) : (s.setPower p).fresh = s.fresh := rfl
@[simp] theorem State.setPower_out (p : Power) : (s.setPower p).out = s.out := rfl

@[simp] theorem State.setLatch_pending (a : Acr) (v : Nat) : (s.setLatch a v).pending = s.pending := rfl
@[simp] theorem State.setLatch_regs (a : Acr) (v : Nat) : (s.setLatch a v).regs = s.regs := rfl
@[simp] theorem State.setLatch_latch (a : Acr) (v : Nat) : (s.setLatch a v).latch = tset (fun _ => 0) s.latch (acrIx a) (v % 0x10000000000000000) := rfl
@[simp] theorem State.setLatch_mem (a : Acr) (v : Nat) : (s.setLatch a v).mem = s.mem := rfl
@[simp] theorem State.setLatch_ecc (a : Acr) (v : Nat) : (s.setLatch a v).ecc = s.ecc := rfl
@[simp] theorem State.setLatch_ctxs (a : Acr) (v : Nat) : (s.setLatch a v).ctxs = s.ctxs := rfl
@[simp] theorem State.setLatch_queues (a : Acr) (v : Nat) : (s.setLatch a v).queues = s.queues := rfl
@[simp] theorem State.setLatch_cmds (a : Acr) (v : Nat) : (s.setLatch a v).cmds = s.cmds := rfl
@[simp] theorem State.setLatch_nextCmd (a : Acr) (v : Nat) : (s.setLatch a v).nextCmd = s.nextCmd := rfl
@[simp] theorem State.setLatch_fences (a : Acr) (v : Nat) : (s.setLatch a v).fences = s.fences := rfl
@[simp] theorem State.setLatch_clusters (a : Acr) (v : Nat) : (s.setLatch a v).clusters = s.clusters := rfl
@[simp] theorem State.setLatch_flash (a : Acr) (v : Nat) : (s.setLatch a v).flash = s.flash := rfl
@[simp] theorem State.setLatch_agents (a : Acr) (v : Nat) : (s.setLatch a v).agents = s.agents := rfl
@[simp] theorem State.setLatch_evseq (a : Acr) (v : Nat) : (s.setLatch a v).evseq = s.evseq := rfl
@[simp] theorem State.setLatch_erq (a : Acr) (v : Nat) : (s.setLatch a v).erq = s.erq := rfl
@[simp] theorem State.setLatch_rseq (a : Acr) (v : Nat) : (s.setLatch a v).rseq = s.rseq := rfl
@[simp] theorem State.setLatch_fwLog (a : Acr) (v : Nat) : (s.setLatch a v).fwLog = s.fwLog := rfl
@[simp] theorem State.setLatch_folded (a : Acr) (v : Nat) : (s.setLatch a v).folded = s.folded := rfl
@[simp] theorem State.setLatch_handling (a : Acr) (v : Nat) : (s.setLatch a v).handling = s.handling := rfl
@[simp] theorem State.setLatch_retired (a : Acr) (v : Nat) : (s.setLatch a v).retired = s.retired := rfl
@[simp] theorem State.setLatch_clearRetired (a : Acr) (v : Nat) : (s.setLatch a v).clearRetired = s.clearRetired := rfl
@[simp] theorem State.setLatch_lostIslands (a : Acr) (v : Nat) : (s.setLatch a v).lostIslands = s.lostIslands := rfl
@[simp] theorem State.setLatch_ports (a : Acr) (v : Nat) : (s.setLatch a v).ports = s.ports := rfl
@[simp] theorem State.setLatch_arch (a : Acr) (v : Nat) : (s.setLatch a v).arch = s.arch := rfl
@[simp] theorem State.setLatch_streams (a : Acr) (v : Nat) : (s.setLatch a v).streams = s.streams := rfl
@[simp] theorem State.setLatch_engines (a : Acr) (v : Nat) : (s.setLatch a v).engines = s.engines := rfl
@[simp] theorem State.setLatch_sites (a : Acr) (v : Nat) : (s.setLatch a v).sites = s.sites := rfl
@[simp] theorem State.setLatch_memOp (a : Acr) (v : Nat) : (s.setLatch a v).memOp = s.memOp := rfl
@[simp] theorem State.setLatch_boot (a : Acr) (v : Nat) : (s.setLatch a v).boot = s.boot := rfl
@[simp] theorem State.setLatch_seqr (a : Acr) (v : Nat) : (s.setLatch a v).seqr = s.seqr := rfl
@[simp] theorem State.setLatch_pins (a : Acr) (v : Nat) : (s.setLatch a v).pins = s.pins := rfl
@[simp] theorem State.setLatch_power (a : Acr) (v : Nat) : (s.setLatch a v).power = s.power := rfl
@[simp] theorem State.setLatch_bundle (a : Acr) (v : Nat) : (s.setLatch a v).bundle = s.bundle := rfl
@[simp] theorem State.setLatch_msixs (a : Acr) (v : Nat) : (s.setLatch a v).msixs = s.msixs := rfl
@[simp] theorem State.setLatch_pcieLanes (a : Acr) (v : Nat) : (s.setLatch a v).pcieLanes = s.pcieLanes := rfl
@[simp] theorem State.setLatch_straits (a : Acr) (v : Nat) : (s.setLatch a v).straits = s.straits := rfl
@[simp] theorem State.setLatch_fresh (a : Acr) (v : Nat) : (s.setLatch a v).fresh = s.fresh := rfl
@[simp] theorem State.setLatch_out (a : Acr) (v : Nat) : (s.setLatch a v).out = s.out := rfl

@[simp] theorem State.setDev_pending (w d : Nat) : (s.setDev w d).pending = s.pending := rfl
@[simp] theorem State.setDev_regs (w d : Nat) : (s.setDev w d).regs = s.regs := rfl
@[simp] theorem State.setDev_latch (w d : Nat) : (s.setDev w d).latch = s.latch := rfl
@[simp] theorem State.setDev_mem (w d : Nat) : (s.setDev w d).mem = s.mem := rfl
@[simp] theorem State.setDev_ecc (w d : Nat) : (s.setDev w d).ecc = tset (fun _ => 0) s.ecc w d := rfl
@[simp] theorem State.setDev_ctxs (w d : Nat) : (s.setDev w d).ctxs = s.ctxs := rfl
@[simp] theorem State.setDev_queues (w d : Nat) : (s.setDev w d).queues = s.queues := rfl
@[simp] theorem State.setDev_cmds (w d : Nat) : (s.setDev w d).cmds = s.cmds := rfl
@[simp] theorem State.setDev_nextCmd (w d : Nat) : (s.setDev w d).nextCmd = s.nextCmd := rfl
@[simp] theorem State.setDev_fences (w d : Nat) : (s.setDev w d).fences = s.fences := rfl
@[simp] theorem State.setDev_clusters (w d : Nat) : (s.setDev w d).clusters = s.clusters := rfl
@[simp] theorem State.setDev_flash (w d : Nat) : (s.setDev w d).flash = s.flash := rfl
@[simp] theorem State.setDev_agents (w d : Nat) : (s.setDev w d).agents = s.agents := rfl
@[simp] theorem State.setDev_evseq (w d : Nat) : (s.setDev w d).evseq = s.evseq := rfl
@[simp] theorem State.setDev_erq (w d : Nat) : (s.setDev w d).erq = s.erq := rfl
@[simp] theorem State.setDev_rseq (w d : Nat) : (s.setDev w d).rseq = s.rseq := rfl
@[simp] theorem State.setDev_fwLog (w d : Nat) : (s.setDev w d).fwLog = s.fwLog := rfl
@[simp] theorem State.setDev_folded (w d : Nat) : (s.setDev w d).folded = s.folded := rfl
@[simp] theorem State.setDev_handling (w d : Nat) : (s.setDev w d).handling = s.handling := rfl
@[simp] theorem State.setDev_retired (w d : Nat) : (s.setDev w d).retired = s.retired := rfl
@[simp] theorem State.setDev_clearRetired (w d : Nat) : (s.setDev w d).clearRetired = s.clearRetired := rfl
@[simp] theorem State.setDev_lostIslands (w d : Nat) : (s.setDev w d).lostIslands = s.lostIslands := rfl
@[simp] theorem State.setDev_ports (w d : Nat) : (s.setDev w d).ports = s.ports := rfl
@[simp] theorem State.setDev_arch (w d : Nat) : (s.setDev w d).arch = s.arch := rfl
@[simp] theorem State.setDev_streams (w d : Nat) : (s.setDev w d).streams = s.streams := rfl
@[simp] theorem State.setDev_engines (w d : Nat) : (s.setDev w d).engines = s.engines := rfl
@[simp] theorem State.setDev_sites (w d : Nat) : (s.setDev w d).sites = s.sites := rfl
@[simp] theorem State.setDev_memOp (w d : Nat) : (s.setDev w d).memOp = s.memOp := rfl
@[simp] theorem State.setDev_boot (w d : Nat) : (s.setDev w d).boot = s.boot := rfl
@[simp] theorem State.setDev_seqr (w d : Nat) : (s.setDev w d).seqr = s.seqr := rfl
@[simp] theorem State.setDev_pins (w d : Nat) : (s.setDev w d).pins = s.pins := rfl
@[simp] theorem State.setDev_power (w d : Nat) : (s.setDev w d).power = s.power := rfl
@[simp] theorem State.setDev_bundle (w d : Nat) : (s.setDev w d).bundle = s.bundle := rfl
@[simp] theorem State.setDev_msixs (w d : Nat) : (s.setDev w d).msixs = s.msixs := rfl
@[simp] theorem State.setDev_pcieLanes (w d : Nat) : (s.setDev w d).pcieLanes = s.pcieLanes := rfl
@[simp] theorem State.setDev_straits (w d : Nat) : (s.setDev w d).straits = s.straits := rfl
@[simp] theorem State.setDev_fresh (w d : Nat) : (s.setDev w d).fresh = s.fresh := rfl
@[simp] theorem State.setDev_out (w d : Nat) : (s.setDev w d).out = s.out := rfl

@[simp] theorem State.putByte_pending (a : Nat) (b : Byte) : (s.putByte a b).pending = s.pending := rfl
@[simp] theorem State.putByte_regs (a : Nat) (b : Byte) : (s.putByte a b).regs = s.regs := rfl
@[simp] theorem State.putByte_latch (a : Nat) (b : Byte) : (s.putByte a b).latch = s.latch := rfl
@[simp] theorem State.putByte_mem (a : Nat) (b : Byte) : (s.putByte a b).mem = tset memDflt s.mem a b := rfl
@[simp] theorem State.putByte_ecc (a : Nat) (b : Byte) : (s.putByte a b).ecc = s.ecc := rfl
@[simp] theorem State.putByte_ctxs (a : Nat) (b : Byte) : (s.putByte a b).ctxs = s.ctxs := rfl
@[simp] theorem State.putByte_queues (a : Nat) (b : Byte) : (s.putByte a b).queues = s.queues := rfl
@[simp] theorem State.putByte_cmds (a : Nat) (b : Byte) : (s.putByte a b).cmds = s.cmds := rfl
@[simp] theorem State.putByte_nextCmd (a : Nat) (b : Byte) : (s.putByte a b).nextCmd = s.nextCmd := rfl
@[simp] theorem State.putByte_fences (a : Nat) (b : Byte) : (s.putByte a b).fences = s.fences := rfl
@[simp] theorem State.putByte_clusters (a : Nat) (b : Byte) : (s.putByte a b).clusters = s.clusters := rfl
@[simp] theorem State.putByte_flash (a : Nat) (b : Byte) : (s.putByte a b).flash = s.flash := rfl
@[simp] theorem State.putByte_agents (a : Nat) (b : Byte) : (s.putByte a b).agents = s.agents := rfl
@[simp] theorem State.putByte_evseq (a : Nat) (b : Byte) : (s.putByte a b).evseq = s.evseq := rfl
@[simp] theorem State.putByte_erq (a : Nat) (b : Byte) : (s.putByte a b).erq = s.erq := rfl
@[simp] theorem State.putByte_rseq (a : Nat) (b : Byte) : (s.putByte a b).rseq = s.rseq := rfl
@[simp] theorem State.putByte_fwLog (a : Nat) (b : Byte) : (s.putByte a b).fwLog = s.fwLog := rfl
@[simp] theorem State.putByte_folded (a : Nat) (b : Byte) : (s.putByte a b).folded = s.folded := rfl
@[simp] theorem State.putByte_handling (a : Nat) (b : Byte) : (s.putByte a b).handling = s.handling := rfl
@[simp] theorem State.putByte_retired (a : Nat) (b : Byte) : (s.putByte a b).retired = s.retired := rfl
@[simp] theorem State.putByte_clearRetired (a : Nat) (b : Byte) : (s.putByte a b).clearRetired = s.clearRetired := rfl
@[simp] theorem State.putByte_lostIslands (a : Nat) (b : Byte) : (s.putByte a b).lostIslands = s.lostIslands := rfl
@[simp] theorem State.putByte_ports (a : Nat) (b : Byte) : (s.putByte a b).ports = s.ports := rfl
@[simp] theorem State.putByte_arch (a : Nat) (b : Byte) : (s.putByte a b).arch = s.arch := rfl
@[simp] theorem State.putByte_streams (a : Nat) (b : Byte) : (s.putByte a b).streams = s.streams := rfl
@[simp] theorem State.putByte_engines (a : Nat) (b : Byte) : (s.putByte a b).engines = s.engines := rfl
@[simp] theorem State.putByte_sites (a : Nat) (b : Byte) : (s.putByte a b).sites = s.sites := rfl
@[simp] theorem State.putByte_memOp (a : Nat) (b : Byte) : (s.putByte a b).memOp = s.memOp := rfl
@[simp] theorem State.putByte_boot (a : Nat) (b : Byte) : (s.putByte a b).boot = s.boot := rfl
@[simp] theorem State.putByte_seqr (a : Nat) (b : Byte) : (s.putByte a b).seqr = s.seqr := rfl
@[simp] theorem State.putByte_pins (a : Nat) (b : Byte) : (s.putByte a b).pins = s.pins := rfl
@[simp] theorem State.putByte_power (a : Nat) (b : Byte) : (s.putByte a b).power = s.power := rfl
@[simp] theorem State.putByte_bundle (a : Nat) (b : Byte) : (s.putByte a b).bundle = s.bundle := rfl
@[simp] theorem State.putByte_msixs (a : Nat) (b : Byte) : (s.putByte a b).msixs = s.msixs := rfl
@[simp] theorem State.putByte_pcieLanes (a : Nat) (b : Byte) : (s.putByte a b).pcieLanes = s.pcieLanes := rfl
@[simp] theorem State.putByte_straits (a : Nat) (b : Byte) : (s.putByte a b).straits = s.straits := rfl
@[simp] theorem State.putByte_fresh (a : Nat) (b : Byte) : (s.putByte a b).fresh = s.fresh := rfl
@[simp] theorem State.putByte_out (a : Nat) (b : Byte) : (s.putByte a b).out = s.out := rfl

@[simp] theorem State.emit_pending (o : Out) : (s.emit o).pending = s.pending := rfl
@[simp] theorem State.emit_regs (o : Out) : (s.emit o).regs = s.regs := rfl
@[simp] theorem State.emit_latch (o : Out) : (s.emit o).latch = s.latch := rfl
@[simp] theorem State.emit_mem (o : Out) : (s.emit o).mem = s.mem := rfl
@[simp] theorem State.emit_ecc (o : Out) : (s.emit o).ecc = s.ecc := rfl
@[simp] theorem State.emit_ctxs (o : Out) : (s.emit o).ctxs = s.ctxs := rfl
@[simp] theorem State.emit_queues (o : Out) : (s.emit o).queues = s.queues := rfl
@[simp] theorem State.emit_cmds (o : Out) : (s.emit o).cmds = s.cmds := rfl
@[simp] theorem State.emit_nextCmd (o : Out) : (s.emit o).nextCmd = s.nextCmd := rfl
@[simp] theorem State.emit_fences (o : Out) : (s.emit o).fences = s.fences := rfl
@[simp] theorem State.emit_clusters (o : Out) : (s.emit o).clusters = s.clusters := rfl
@[simp] theorem State.emit_flash (o : Out) : (s.emit o).flash = s.flash := rfl
@[simp] theorem State.emit_agents (o : Out) : (s.emit o).agents = s.agents := rfl
@[simp] theorem State.emit_evseq (o : Out) : (s.emit o).evseq = s.evseq := rfl
@[simp] theorem State.emit_erq (o : Out) : (s.emit o).erq = s.erq := rfl
@[simp] theorem State.emit_rseq (o : Out) : (s.emit o).rseq = s.rseq := rfl
@[simp] theorem State.emit_fwLog (o : Out) : (s.emit o).fwLog = s.fwLog := rfl
@[simp] theorem State.emit_folded (o : Out) : (s.emit o).folded = s.folded := rfl
@[simp] theorem State.emit_handling (o : Out) : (s.emit o).handling = s.handling := rfl
@[simp] theorem State.emit_retired (o : Out) : (s.emit o).retired = s.retired := rfl
@[simp] theorem State.emit_clearRetired (o : Out) : (s.emit o).clearRetired = s.clearRetired := rfl
@[simp] theorem State.emit_lostIslands (o : Out) : (s.emit o).lostIslands = s.lostIslands := rfl
@[simp] theorem State.emit_ports (o : Out) : (s.emit o).ports = s.ports := rfl
@[simp] theorem State.emit_arch (o : Out) : (s.emit o).arch = s.arch := rfl
@[simp] theorem State.emit_streams (o : Out) : (s.emit o).streams = s.streams := rfl
@[simp] theorem State.emit_engines (o : Out) : (s.emit o).engines = s.engines := rfl
@[simp] theorem State.emit_sites (o : Out) : (s.emit o).sites = s.sites := rfl
@[simp] theorem State.emit_memOp (o : Out) : (s.emit o).memOp = s.memOp := rfl
@[simp] theorem State.emit_boot (o : Out) : (s.emit o).boot = s.boot := rfl
@[simp] theorem State.emit_seqr (o : Out) : (s.emit o).seqr = s.seqr := rfl
@[simp] theorem State.emit_pins (o : Out) : (s.emit o).pins = s.pins := rfl
@[simp] theorem State.emit_power (o : Out) : (s.emit o).power = s.power := rfl
@[simp] theorem State.emit_bundle (o : Out) : (s.emit o).bundle = s.bundle := rfl
@[simp] theorem State.emit_msixs (o : Out) : (s.emit o).msixs = s.msixs := rfl
@[simp] theorem State.emit_pcieLanes (o : Out) : (s.emit o).pcieLanes = s.pcieLanes := rfl
@[simp] theorem State.emit_straits (o : Out) : (s.emit o).straits = s.straits := rfl
@[simp] theorem State.emit_fresh (o : Out) : (s.emit o).fresh = s.fresh := rfl
@[simp] theorem State.emit_out (o : Out) : (s.emit o).out = o :: s.out := rfl

@[simp] theorem State.bumpFresh_pending (n : Nat) : (s.bumpFresh n).pending = s.pending := rfl
@[simp] theorem State.bumpFresh_regs (n : Nat) : (s.bumpFresh n).regs = s.regs := rfl
@[simp] theorem State.bumpFresh_latch (n : Nat) : (s.bumpFresh n).latch = s.latch := rfl
@[simp] theorem State.bumpFresh_mem (n : Nat) : (s.bumpFresh n).mem = s.mem := rfl
@[simp] theorem State.bumpFresh_ecc (n : Nat) : (s.bumpFresh n).ecc = s.ecc := rfl
@[simp] theorem State.bumpFresh_ctxs (n : Nat) : (s.bumpFresh n).ctxs = s.ctxs := rfl
@[simp] theorem State.bumpFresh_queues (n : Nat) : (s.bumpFresh n).queues = s.queues := rfl
@[simp] theorem State.bumpFresh_cmds (n : Nat) : (s.bumpFresh n).cmds = s.cmds := rfl
@[simp] theorem State.bumpFresh_nextCmd (n : Nat) : (s.bumpFresh n).nextCmd = s.nextCmd := rfl
@[simp] theorem State.bumpFresh_fences (n : Nat) : (s.bumpFresh n).fences = s.fences := rfl
@[simp] theorem State.bumpFresh_clusters (n : Nat) : (s.bumpFresh n).clusters = s.clusters := rfl
@[simp] theorem State.bumpFresh_flash (n : Nat) : (s.bumpFresh n).flash = s.flash := rfl
@[simp] theorem State.bumpFresh_agents (n : Nat) : (s.bumpFresh n).agents = s.agents := rfl
@[simp] theorem State.bumpFresh_evseq (n : Nat) : (s.bumpFresh n).evseq = s.evseq := rfl
@[simp] theorem State.bumpFresh_erq (n : Nat) : (s.bumpFresh n).erq = s.erq := rfl
@[simp] theorem State.bumpFresh_rseq (n : Nat) : (s.bumpFresh n).rseq = s.rseq := rfl
@[simp] theorem State.bumpFresh_fwLog (n : Nat) : (s.bumpFresh n).fwLog = s.fwLog := rfl
@[simp] theorem State.bumpFresh_folded (n : Nat) : (s.bumpFresh n).folded = s.folded := rfl
@[simp] theorem State.bumpFresh_handling (n : Nat) : (s.bumpFresh n).handling = s.handling := rfl
@[simp] theorem State.bumpFresh_retired (n : Nat) : (s.bumpFresh n).retired = s.retired := rfl
@[simp] theorem State.bumpFresh_clearRetired (n : Nat) : (s.bumpFresh n).clearRetired = s.clearRetired := rfl
@[simp] theorem State.bumpFresh_lostIslands (n : Nat) : (s.bumpFresh n).lostIslands = s.lostIslands := rfl
@[simp] theorem State.bumpFresh_ports (n : Nat) : (s.bumpFresh n).ports = s.ports := rfl
@[simp] theorem State.bumpFresh_arch (n : Nat) : (s.bumpFresh n).arch = s.arch := rfl
@[simp] theorem State.bumpFresh_streams (n : Nat) : (s.bumpFresh n).streams = s.streams := rfl
@[simp] theorem State.bumpFresh_engines (n : Nat) : (s.bumpFresh n).engines = s.engines := rfl
@[simp] theorem State.bumpFresh_sites (n : Nat) : (s.bumpFresh n).sites = s.sites := rfl
@[simp] theorem State.bumpFresh_memOp (n : Nat) : (s.bumpFresh n).memOp = s.memOp := rfl
@[simp] theorem State.bumpFresh_boot (n : Nat) : (s.bumpFresh n).boot = s.boot := rfl
@[simp] theorem State.bumpFresh_seqr (n : Nat) : (s.bumpFresh n).seqr = s.seqr := rfl
@[simp] theorem State.bumpFresh_pins (n : Nat) : (s.bumpFresh n).pins = s.pins := rfl
@[simp] theorem State.bumpFresh_power (n : Nat) : (s.bumpFresh n).power = s.power := rfl
@[simp] theorem State.bumpFresh_bundle (n : Nat) : (s.bumpFresh n).bundle = s.bundle := rfl
@[simp] theorem State.bumpFresh_msixs (n : Nat) : (s.bumpFresh n).msixs = s.msixs := rfl
@[simp] theorem State.bumpFresh_pcieLanes (n : Nat) : (s.bumpFresh n).pcieLanes = s.pcieLanes := rfl
@[simp] theorem State.bumpFresh_straits (n : Nat) : (s.bumpFresh n).straits = s.straits := rfl
@[simp] theorem State.bumpFresh_fresh (n : Nat) : (s.bumpFresh n).fresh = s.fresh + n := rfl
@[simp] theorem State.bumpFresh_out (n : Nat) : (s.bumpFresh n).out = s.out := rfl

@[simp] theorem State.setCmd_pending (c : Cmd) : (s.setCmd c).pending = s.pending := rfl
@[simp] theorem State.setCmd_regs (c : Cmd) : (s.setCmd c).regs = s.regs := rfl
@[simp] theorem State.setCmd_latch (c : Cmd) : (s.setCmd c).latch = s.latch := rfl
@[simp] theorem State.setCmd_mem (c : Cmd) : (s.setCmd c).mem = s.mem := rfl
@[simp] theorem State.setCmd_ecc (c : Cmd) : (s.setCmd c).ecc = s.ecc := rfl
@[simp] theorem State.setCmd_ctxs (c : Cmd) : (s.setCmd c).ctxs = s.ctxs := rfl
@[simp] theorem State.setCmd_queues (c : Cmd) : (s.setCmd c).queues = s.queues := rfl
@[simp] theorem State.setCmd_cmds (c : Cmd) : (s.setCmd c).cmds = s.cmds.map fun d => if d.id = c.id then c else d := rfl
@[simp] theorem State.setCmd_nextCmd (c : Cmd) : (s.setCmd c).nextCmd = s.nextCmd := rfl
@[simp] theorem State.setCmd_fences (c : Cmd) : (s.setCmd c).fences = s.fences := rfl
@[simp] theorem State.setCmd_clusters (c : Cmd) : (s.setCmd c).clusters = s.clusters := rfl
@[simp] theorem State.setCmd_flash (c : Cmd) : (s.setCmd c).flash = s.flash := rfl
@[simp] theorem State.setCmd_agents (c : Cmd) : (s.setCmd c).agents = s.agents := rfl
@[simp] theorem State.setCmd_evseq (c : Cmd) : (s.setCmd c).evseq = s.evseq := rfl
@[simp] theorem State.setCmd_erq (c : Cmd) : (s.setCmd c).erq = s.erq := rfl
@[simp] theorem State.setCmd_rseq (c : Cmd) : (s.setCmd c).rseq = s.rseq := rfl
@[simp] theorem State.setCmd_fwLog (c : Cmd) : (s.setCmd c).fwLog = s.fwLog := rfl
@[simp] theorem State.setCmd_folded (c : Cmd) : (s.setCmd c).folded = s.folded := rfl
@[simp] theorem State.setCmd_handling (c : Cmd) : (s.setCmd c).handling = s.handling := rfl
@[simp] theorem State.setCmd_retired (c : Cmd) : (s.setCmd c).retired = s.retired := rfl
@[simp] theorem State.setCmd_clearRetired (c : Cmd) : (s.setCmd c).clearRetired = s.clearRetired := rfl
@[simp] theorem State.setCmd_lostIslands (c : Cmd) : (s.setCmd c).lostIslands = s.lostIslands := rfl
@[simp] theorem State.setCmd_ports (c : Cmd) : (s.setCmd c).ports = s.ports := rfl
@[simp] theorem State.setCmd_arch (c : Cmd) : (s.setCmd c).arch = s.arch := rfl
@[simp] theorem State.setCmd_streams (c : Cmd) : (s.setCmd c).streams = s.streams := rfl
@[simp] theorem State.setCmd_engines (c : Cmd) : (s.setCmd c).engines = s.engines := rfl
@[simp] theorem State.setCmd_sites (c : Cmd) : (s.setCmd c).sites = s.sites := rfl
@[simp] theorem State.setCmd_memOp (c : Cmd) : (s.setCmd c).memOp = s.memOp := rfl
@[simp] theorem State.setCmd_boot (c : Cmd) : (s.setCmd c).boot = s.boot := rfl
@[simp] theorem State.setCmd_seqr (c : Cmd) : (s.setCmd c).seqr = s.seqr := rfl
@[simp] theorem State.setCmd_pins (c : Cmd) : (s.setCmd c).pins = s.pins := rfl
@[simp] theorem State.setCmd_power (c : Cmd) : (s.setCmd c).power = s.power := rfl
@[simp] theorem State.setCmd_bundle (c : Cmd) : (s.setCmd c).bundle = s.bundle := rfl
@[simp] theorem State.setCmd_msixs (c : Cmd) : (s.setCmd c).msixs = s.msixs := rfl
@[simp] theorem State.setCmd_pcieLanes (c : Cmd) : (s.setCmd c).pcieLanes = s.pcieLanes := rfl
@[simp] theorem State.setCmd_straits (c : Cmd) : (s.setCmd c).straits = s.straits := rfl
@[simp] theorem State.setCmd_fresh (c : Cmd) : (s.setCmd c).fresh = s.fresh := rfl
@[simp] theorem State.setCmd_out (c : Cmd) : (s.setCmd c).out = s.out := rfl

@[simp] theorem State.dropCmd_pending (n : Nat) : (s.dropCmd n).pending = s.pending := rfl
@[simp] theorem State.dropCmd_regs (n : Nat) : (s.dropCmd n).regs = s.regs := rfl
@[simp] theorem State.dropCmd_latch (n : Nat) : (s.dropCmd n).latch = s.latch := rfl
@[simp] theorem State.dropCmd_mem (n : Nat) : (s.dropCmd n).mem = s.mem := rfl
@[simp] theorem State.dropCmd_ecc (n : Nat) : (s.dropCmd n).ecc = s.ecc := rfl
@[simp] theorem State.dropCmd_ctxs (n : Nat) : (s.dropCmd n).ctxs = s.ctxs := rfl
@[simp] theorem State.dropCmd_queues (n : Nat) : (s.dropCmd n).queues = s.queues := rfl
@[simp] theorem State.dropCmd_cmds (n : Nat) : (s.dropCmd n).cmds = s.cmds.filter (·.id != n) := rfl
@[simp] theorem State.dropCmd_nextCmd (n : Nat) : (s.dropCmd n).nextCmd = s.nextCmd := rfl
@[simp] theorem State.dropCmd_fences (n : Nat) : (s.dropCmd n).fences = s.fences := rfl
@[simp] theorem State.dropCmd_clusters (n : Nat) : (s.dropCmd n).clusters = s.clusters := rfl
@[simp] theorem State.dropCmd_flash (n : Nat) : (s.dropCmd n).flash = s.flash := rfl
@[simp] theorem State.dropCmd_agents (n : Nat) : (s.dropCmd n).agents = s.agents := rfl
@[simp] theorem State.dropCmd_evseq (n : Nat) : (s.dropCmd n).evseq = s.evseq := rfl
@[simp] theorem State.dropCmd_erq (n : Nat) : (s.dropCmd n).erq = s.erq := rfl
@[simp] theorem State.dropCmd_rseq (n : Nat) : (s.dropCmd n).rseq = s.rseq := rfl
@[simp] theorem State.dropCmd_fwLog (n : Nat) : (s.dropCmd n).fwLog = s.fwLog := rfl
@[simp] theorem State.dropCmd_folded (n : Nat) : (s.dropCmd n).folded = s.folded := rfl
@[simp] theorem State.dropCmd_handling (n : Nat) : (s.dropCmd n).handling = s.handling := rfl
@[simp] theorem State.dropCmd_retired (n : Nat) : (s.dropCmd n).retired = s.retired := rfl
@[simp] theorem State.dropCmd_clearRetired (n : Nat) : (s.dropCmd n).clearRetired = s.clearRetired := rfl
@[simp] theorem State.dropCmd_lostIslands (n : Nat) : (s.dropCmd n).lostIslands = s.lostIslands := rfl
@[simp] theorem State.dropCmd_ports (n : Nat) : (s.dropCmd n).ports = s.ports := rfl
@[simp] theorem State.dropCmd_arch (n : Nat) : (s.dropCmd n).arch = s.arch := rfl
@[simp] theorem State.dropCmd_streams (n : Nat) : (s.dropCmd n).streams = s.streams := rfl
@[simp] theorem State.dropCmd_engines (n : Nat) : (s.dropCmd n).engines = s.engines := rfl
@[simp] theorem State.dropCmd_sites (n : Nat) : (s.dropCmd n).sites = s.sites := rfl
@[simp] theorem State.dropCmd_memOp (n : Nat) : (s.dropCmd n).memOp = s.memOp := rfl
@[simp] theorem State.dropCmd_boot (n : Nat) : (s.dropCmd n).boot = s.boot := rfl
@[simp] theorem State.dropCmd_seqr (n : Nat) : (s.dropCmd n).seqr = s.seqr := rfl
@[simp] theorem State.dropCmd_pins (n : Nat) : (s.dropCmd n).pins = s.pins := rfl
@[simp] theorem State.dropCmd_power (n : Nat) : (s.dropCmd n).power = s.power := rfl
@[simp] theorem State.dropCmd_bundle (n : Nat) : (s.dropCmd n).bundle = s.bundle := rfl
@[simp] theorem State.dropCmd_msixs (n : Nat) : (s.dropCmd n).msixs = s.msixs := rfl
@[simp] theorem State.dropCmd_pcieLanes (n : Nat) : (s.dropCmd n).pcieLanes = s.pcieLanes := rfl
@[simp] theorem State.dropCmd_straits (n : Nat) : (s.dropCmd n).straits = s.straits := rfl
@[simp] theorem State.dropCmd_fresh (n : Nat) : (s.dropCmd n).fresh = s.fresh := rfl
@[simp] theorem State.dropCmd_out (n : Nat) : (s.dropCmd n).out = s.out := rfl

@[simp] theorem State.setCtx_getF (x : Nat) (v : Context) (g : Fld) (j : Nat) : (s.setCtx x v).getF g j = s.getF g j := rfl
@[simp] theorem State.setQueue_getF (q : Nat) (v : Queue) (g : Fld) (j : Nat) : (s.setQueue q v).getF g j = s.getF g j := rfl
@[simp] theorem State.setCluster_getF (c : Nat) (v : Cluster) (g : Fld) (j : Nat) : (s.setCluster c v).getF g j = s.getF g j := rfl
@[simp] theorem State.setAgent_getF (p : Nat) (a : Agent) (g : Fld) (j : Nat) : (s.setAgent p a).getF g j = s.getF g j := rfl
@[simp] theorem State.setFlash_getF (f : Flash) (g : Fld) (j : Nat) : (s.setFlash f).getF g j = s.getF g j := rfl
@[simp] theorem State.setPort_getF (p : Nat) (v : Port) (g : Fld) (j : Nat) : (s.setPort p v).getF g j = s.getF g j := rfl
@[simp] theorem State.setStream_getF (n : Nat) (v : Stream) (g : Fld) (j : Nat) : (s.setStream n v).getF g j = s.getF g j := rfl
@[simp] theorem State.setEngine_getF (e : Nat) (v : Engine) (g : Fld) (j : Nat) : (s.setEngine e v).getF g j = s.getF g j := rfl
@[simp] theorem State.setSite_getF (n : Nat) (v : Site) (g : Fld) (j : Nat) : (s.setSite n v).getF g j = s.getF g j := rfl
@[simp] theorem State.setMsix_getF (n : Nat) (m : Msix) (g : Fld) (j : Nat) : (s.setMsix n m).getF g j = s.getF g j := rfl
@[simp] theorem State.setBoot_getF (b : Boot) (g : Fld) (j : Nat) : (s.setBoot b).getF g j = s.getF g j := rfl
@[simp] theorem State.setSeqr_getF (q : Sequencer) (g : Fld) (j : Nat) : (s.setSeqr q).getF g j = s.getF g j := rfl
@[simp] theorem State.setPins_getF (p : Pins) (g : Fld) (j : Nat) : (s.setPins p).getF g j = s.getF g j := rfl
@[simp] theorem State.setArch_getF (a : Arch) (g : Fld) (j : Nat) : (s.setArch a).getF g j = s.getF g j := rfl
@[simp] theorem State.setPower_getF (p : Power) (g : Fld) (j : Nat) : (s.setPower p).getF g j = s.getF g j := rfl
@[simp] theorem State.setLatch_getF (a : Acr) (v : Nat) (g : Fld) (j : Nat) : (s.setLatch a v).getF g j = s.getF g j := rfl
@[simp] theorem State.setDev_getF (w d : Nat) (g : Fld) (j : Nat) : (s.setDev w d).getF g j = s.getF g j := rfl
@[simp] theorem State.putByte_getF (a : Nat) (b : Byte) (g : Fld) (j : Nat) : (s.putByte a b).getF g j = s.getF g j := rfl
@[simp] theorem State.emit_getF (o : Out) (g : Fld) (j : Nat) : (s.emit o).getF g j = s.getF g j := rfl
@[simp] theorem State.bumpFresh_getF (n : Nat) (g : Fld) (j : Nat) : (s.bumpFresh n).getF g j = s.getF g j := rfl
@[simp] theorem State.setCmd_getF (c : Cmd) (g : Fld) (j : Nat) : (s.setCmd c).getF g j = s.getF g j := rfl
@[simp] theorem State.dropCmd_getF (n : Nat) (g : Fld) (j : Nat) : (s.dropCmd n).getF g j = s.getF g j := rfl

@[simp] theorem State.setF_ctx (f : Fld) (i v : Nat) (x' : Nat) : (s.setF f i v).ctx x' = s.ctx x' := rfl
@[simp] theorem State.setQueue_ctx (q : Nat) (v : Queue) (x' : Nat) : (s.setQueue q v).ctx x' = s.ctx x' := rfl
@[simp] theorem State.setCluster_ctx (c : Nat) (v : Cluster) (x' : Nat) : (s.setCluster c v).ctx x' = s.ctx x' := rfl
@[simp] theorem State.setAgent_ctx (p : Nat) (a : Agent) (x' : Nat) : (s.setAgent p a).ctx x' = s.ctx x' := rfl
@[simp] theorem State.setFlash_ctx (f : Flash) (x' : Nat) : (s.setFlash f).ctx x' = s.ctx x' := rfl
@[simp] theorem State.setPort_ctx (p : Nat) (v : Port) (x' : Nat) : (s.setPort p v).ctx x' = s.ctx x' := rfl
@[simp] theorem State.setStream_ctx (n : Nat) (v : Stream) (x' : Nat) : (s.setStream n v).ctx x' = s.ctx x' := rfl
@[simp] theorem State.setEngine_ctx (e : Nat) (v : Engine) (x' : Nat) : (s.setEngine e v).ctx x' = s.ctx x' := rfl
@[simp] theorem State.setSite_ctx (n : Nat) (v : Site) (x' : Nat) : (s.setSite n v).ctx x' = s.ctx x' := rfl
@[simp] theorem State.setMsix_ctx (n : Nat) (m : Msix) (x' : Nat) : (s.setMsix n m).ctx x' = s.ctx x' := rfl
@[simp] theorem State.setBoot_ctx (b : Boot) (x' : Nat) : (s.setBoot b).ctx x' = s.ctx x' := rfl
@[simp] theorem State.setSeqr_ctx (q : Sequencer) (x' : Nat) : (s.setSeqr q).ctx x' = s.ctx x' := rfl
@[simp] theorem State.setPins_ctx (p : Pins) (x' : Nat) : (s.setPins p).ctx x' = s.ctx x' := rfl
@[simp] theorem State.setArch_ctx (a : Arch) (x' : Nat) : (s.setArch a).ctx x' = s.ctx x' := rfl
@[simp] theorem State.setPower_ctx (p : Power) (x' : Nat) : (s.setPower p).ctx x' = s.ctx x' := rfl
@[simp] theorem State.setLatch_ctx (a : Acr) (v : Nat) (x' : Nat) : (s.setLatch a v).ctx x' = s.ctx x' := rfl
@[simp] theorem State.setDev_ctx (w d : Nat) (x' : Nat) : (s.setDev w d).ctx x' = s.ctx x' := rfl
@[simp] theorem State.putByte_ctx (a : Nat) (b : Byte) (x' : Nat) : (s.putByte a b).ctx x' = s.ctx x' := rfl
@[simp] theorem State.emit_ctx (o : Out) (x' : Nat) : (s.emit o).ctx x' = s.ctx x' := rfl
@[simp] theorem State.bumpFresh_ctx (n : Nat) (x' : Nat) : (s.bumpFresh n).ctx x' = s.ctx x' := rfl
@[simp] theorem State.setCmd_ctx (c : Cmd) (x' : Nat) : (s.setCmd c).ctx x' = s.ctx x' := rfl
@[simp] theorem State.dropCmd_ctx (n : Nat) (x' : Nat) : (s.dropCmd n).ctx x' = s.ctx x' := rfl

@[simp] theorem State.setF_queue (f : Fld) (i v : Nat) (q' : Nat) : (s.setF f i v).queue q' = s.queue q' := rfl
@[simp] theorem State.setCtx_queue (x : Nat) (v : Context) (q' : Nat) : (s.setCtx x v).queue q' = s.queue q' := rfl
@[simp] theorem State.setCluster_queue (c : Nat) (v : Cluster) (q' : Nat) : (s.setCluster c v).queue q' = s.queue q' := rfl
@[simp] theorem State.setAgent_queue (p : Nat) (a : Agent) (q' : Nat) : (s.setAgent p a).queue q' = s.queue q' := rfl
@[simp] theorem State.setFlash_queue (f : Flash) (q' : Nat) : (s.setFlash f).queue q' = s.queue q' := rfl
@[simp] theorem State.setPort_queue (p : Nat) (v : Port) (q' : Nat) : (s.setPort p v).queue q' = s.queue q' := rfl
@[simp] theorem State.setStream_queue (n : Nat) (v : Stream) (q' : Nat) : (s.setStream n v).queue q' = s.queue q' := rfl
@[simp] theorem State.setEngine_queue (e : Nat) (v : Engine) (q' : Nat) : (s.setEngine e v).queue q' = s.queue q' := rfl
@[simp] theorem State.setSite_queue (n : Nat) (v : Site) (q' : Nat) : (s.setSite n v).queue q' = s.queue q' := rfl
@[simp] theorem State.setMsix_queue (n : Nat) (m : Msix) (q' : Nat) : (s.setMsix n m).queue q' = s.queue q' := rfl
@[simp] theorem State.setBoot_queue (b : Boot) (q' : Nat) : (s.setBoot b).queue q' = s.queue q' := rfl
@[simp] theorem State.setSeqr_queue (q : Sequencer) (q' : Nat) : (s.setSeqr q).queue q' = s.queue q' := rfl
@[simp] theorem State.setPins_queue (p : Pins) (q' : Nat) : (s.setPins p).queue q' = s.queue q' := rfl
@[simp] theorem State.setArch_queue (a : Arch) (q' : Nat) : (s.setArch a).queue q' = s.queue q' := rfl
@[simp] theorem State.setPower_queue (p : Power) (q' : Nat) : (s.setPower p).queue q' = s.queue q' := rfl
@[simp] theorem State.setLatch_queue (a : Acr) (v : Nat) (q' : Nat) : (s.setLatch a v).queue q' = s.queue q' := rfl
@[simp] theorem State.setDev_queue (w d : Nat) (q' : Nat) : (s.setDev w d).queue q' = s.queue q' := rfl
@[simp] theorem State.putByte_queue (a : Nat) (b : Byte) (q' : Nat) : (s.putByte a b).queue q' = s.queue q' := rfl
@[simp] theorem State.emit_queue (o : Out) (q' : Nat) : (s.emit o).queue q' = s.queue q' := rfl
@[simp] theorem State.bumpFresh_queue (n : Nat) (q' : Nat) : (s.bumpFresh n).queue q' = s.queue q' := rfl
@[simp] theorem State.setCmd_queue (c : Cmd) (q' : Nat) : (s.setCmd c).queue q' = s.queue q' := rfl
@[simp] theorem State.dropCmd_queue (n : Nat) (q' : Nat) : (s.dropCmd n).queue q' = s.queue q' := rfl

@[simp] theorem State.setF_cluster (f : Fld) (i v : Nat) (c' : Nat) : (s.setF f i v).cluster c' = s.cluster c' := rfl
@[simp] theorem State.setCtx_cluster (x : Nat) (v : Context) (c' : Nat) : (s.setCtx x v).cluster c' = s.cluster c' := rfl
@[simp] theorem State.setQueue_cluster (q : Nat) (v : Queue) (c' : Nat) : (s.setQueue q v).cluster c' = s.cluster c' := rfl
@[simp] theorem State.setAgent_cluster (p : Nat) (a : Agent) (c' : Nat) : (s.setAgent p a).cluster c' = s.cluster c' := rfl
@[simp] theorem State.setFlash_cluster (f : Flash) (c' : Nat) : (s.setFlash f).cluster c' = s.cluster c' := rfl
@[simp] theorem State.setPort_cluster (p : Nat) (v : Port) (c' : Nat) : (s.setPort p v).cluster c' = s.cluster c' := rfl
@[simp] theorem State.setStream_cluster (n : Nat) (v : Stream) (c' : Nat) : (s.setStream n v).cluster c' = s.cluster c' := rfl
@[simp] theorem State.setEngine_cluster (e : Nat) (v : Engine) (c' : Nat) : (s.setEngine e v).cluster c' = s.cluster c' := rfl
@[simp] theorem State.setSite_cluster (n : Nat) (v : Site) (c' : Nat) : (s.setSite n v).cluster c' = s.cluster c' := rfl
@[simp] theorem State.setMsix_cluster (n : Nat) (m : Msix) (c' : Nat) : (s.setMsix n m).cluster c' = s.cluster c' := rfl
@[simp] theorem State.setBoot_cluster (b : Boot) (c' : Nat) : (s.setBoot b).cluster c' = s.cluster c' := rfl
@[simp] theorem State.setSeqr_cluster (q : Sequencer) (c' : Nat) : (s.setSeqr q).cluster c' = s.cluster c' := rfl
@[simp] theorem State.setPins_cluster (p : Pins) (c' : Nat) : (s.setPins p).cluster c' = s.cluster c' := rfl
@[simp] theorem State.setArch_cluster (a : Arch) (c' : Nat) : (s.setArch a).cluster c' = s.cluster c' := rfl
@[simp] theorem State.setPower_cluster (p : Power) (c' : Nat) : (s.setPower p).cluster c' = s.cluster c' := rfl
@[simp] theorem State.setLatch_cluster (a : Acr) (v : Nat) (c' : Nat) : (s.setLatch a v).cluster c' = s.cluster c' := rfl
@[simp] theorem State.setDev_cluster (w d : Nat) (c' : Nat) : (s.setDev w d).cluster c' = s.cluster c' := rfl
@[simp] theorem State.putByte_cluster (a : Nat) (b : Byte) (c' : Nat) : (s.putByte a b).cluster c' = s.cluster c' := rfl
@[simp] theorem State.emit_cluster (o : Out) (c' : Nat) : (s.emit o).cluster c' = s.cluster c' := rfl
@[simp] theorem State.bumpFresh_cluster (n : Nat) (c' : Nat) : (s.bumpFresh n).cluster c' = s.cluster c' := rfl
@[simp] theorem State.setCmd_cluster (c : Cmd) (c' : Nat) : (s.setCmd c).cluster c' = s.cluster c' := rfl
@[simp] theorem State.dropCmd_cluster (n : Nat) (c' : Nat) : (s.dropCmd n).cluster c' = s.cluster c' := rfl

@[simp] theorem State.setF_agent (f : Fld) (i v : Nat) (p' : Nat) : (s.setF f i v).agent p' = s.agent p' := rfl
@[simp] theorem State.setCtx_agent (x : Nat) (v : Context) (p' : Nat) : (s.setCtx x v).agent p' = s.agent p' := rfl
@[simp] theorem State.setQueue_agent (q : Nat) (v : Queue) (p' : Nat) : (s.setQueue q v).agent p' = s.agent p' := rfl
@[simp] theorem State.setCluster_agent (c : Nat) (v : Cluster) (p' : Nat) : (s.setCluster c v).agent p' = s.agent p' := rfl
@[simp] theorem State.setFlash_agent (f : Flash) (p' : Nat) : (s.setFlash f).agent p' = s.agent p' := rfl
@[simp] theorem State.setPort_agent (p : Nat) (v : Port) (p' : Nat) : (s.setPort p v).agent p' = s.agent p' := rfl
@[simp] theorem State.setStream_agent (n : Nat) (v : Stream) (p' : Nat) : (s.setStream n v).agent p' = s.agent p' := rfl
@[simp] theorem State.setEngine_agent (e : Nat) (v : Engine) (p' : Nat) : (s.setEngine e v).agent p' = s.agent p' := rfl
@[simp] theorem State.setSite_agent (n : Nat) (v : Site) (p' : Nat) : (s.setSite n v).agent p' = s.agent p' := rfl
@[simp] theorem State.setMsix_agent (n : Nat) (m : Msix) (p' : Nat) : (s.setMsix n m).agent p' = s.agent p' := rfl
@[simp] theorem State.setBoot_agent (b : Boot) (p' : Nat) : (s.setBoot b).agent p' = s.agent p' := rfl
@[simp] theorem State.setSeqr_agent (q : Sequencer) (p' : Nat) : (s.setSeqr q).agent p' = s.agent p' := rfl
@[simp] theorem State.setPins_agent (p : Pins) (p' : Nat) : (s.setPins p).agent p' = s.agent p' := rfl
@[simp] theorem State.setArch_agent (a : Arch) (p' : Nat) : (s.setArch a).agent p' = s.agent p' := rfl
@[simp] theorem State.setPower_agent (p : Power) (p' : Nat) : (s.setPower p).agent p' = s.agent p' := rfl
@[simp] theorem State.setLatch_agent (a : Acr) (v : Nat) (p' : Nat) : (s.setLatch a v).agent p' = s.agent p' := rfl
@[simp] theorem State.setDev_agent (w d : Nat) (p' : Nat) : (s.setDev w d).agent p' = s.agent p' := rfl
@[simp] theorem State.putByte_agent (a : Nat) (b : Byte) (p' : Nat) : (s.putByte a b).agent p' = s.agent p' := rfl
@[simp] theorem State.emit_agent (o : Out) (p' : Nat) : (s.emit o).agent p' = s.agent p' := rfl
@[simp] theorem State.bumpFresh_agent (n : Nat) (p' : Nat) : (s.bumpFresh n).agent p' = s.agent p' := rfl
@[simp] theorem State.setCmd_agent (c : Cmd) (p' : Nat) : (s.setCmd c).agent p' = s.agent p' := rfl
@[simp] theorem State.dropCmd_agent (n : Nat) (p' : Nat) : (s.dropCmd n).agent p' = s.agent p' := rfl

@[simp] theorem State.setF_port (f : Fld) (i v : Nat) (p' : Nat) : (s.setF f i v).port p' = s.port p' := rfl
@[simp] theorem State.setCtx_port (x : Nat) (v : Context) (p' : Nat) : (s.setCtx x v).port p' = s.port p' := rfl
@[simp] theorem State.setQueue_port (q : Nat) (v : Queue) (p' : Nat) : (s.setQueue q v).port p' = s.port p' := rfl
@[simp] theorem State.setCluster_port (c : Nat) (v : Cluster) (p' : Nat) : (s.setCluster c v).port p' = s.port p' := rfl
@[simp] theorem State.setAgent_port (p : Nat) (a : Agent) (p' : Nat) : (s.setAgent p a).port p' = s.port p' := rfl
@[simp] theorem State.setFlash_port (f : Flash) (p' : Nat) : (s.setFlash f).port p' = s.port p' := rfl
@[simp] theorem State.setStream_port (n : Nat) (v : Stream) (p' : Nat) : (s.setStream n v).port p' = s.port p' := rfl
@[simp] theorem State.setEngine_port (e : Nat) (v : Engine) (p' : Nat) : (s.setEngine e v).port p' = s.port p' := rfl
@[simp] theorem State.setSite_port (n : Nat) (v : Site) (p' : Nat) : (s.setSite n v).port p' = s.port p' := rfl
@[simp] theorem State.setMsix_port (n : Nat) (m : Msix) (p' : Nat) : (s.setMsix n m).port p' = s.port p' := rfl
@[simp] theorem State.setBoot_port (b : Boot) (p' : Nat) : (s.setBoot b).port p' = s.port p' := rfl
@[simp] theorem State.setSeqr_port (q : Sequencer) (p' : Nat) : (s.setSeqr q).port p' = s.port p' := rfl
@[simp] theorem State.setPins_port (p : Pins) (p' : Nat) : (s.setPins p).port p' = s.port p' := rfl
@[simp] theorem State.setArch_port (a : Arch) (p' : Nat) : (s.setArch a).port p' = s.port p' := rfl
@[simp] theorem State.setPower_port (p : Power) (p' : Nat) : (s.setPower p).port p' = s.port p' := rfl
@[simp] theorem State.setLatch_port (a : Acr) (v : Nat) (p' : Nat) : (s.setLatch a v).port p' = s.port p' := rfl
@[simp] theorem State.setDev_port (w d : Nat) (p' : Nat) : (s.setDev w d).port p' = s.port p' := rfl
@[simp] theorem State.putByte_port (a : Nat) (b : Byte) (p' : Nat) : (s.putByte a b).port p' = s.port p' := rfl
@[simp] theorem State.emit_port (o : Out) (p' : Nat) : (s.emit o).port p' = s.port p' := rfl
@[simp] theorem State.bumpFresh_port (n : Nat) (p' : Nat) : (s.bumpFresh n).port p' = s.port p' := rfl
@[simp] theorem State.setCmd_port (c : Cmd) (p' : Nat) : (s.setCmd c).port p' = s.port p' := rfl
@[simp] theorem State.dropCmd_port (n : Nat) (p' : Nat) : (s.dropCmd n).port p' = s.port p' := rfl

@[simp] theorem State.setF_stream (f : Fld) (i v : Nat) (n' : Nat) : (s.setF f i v).stream n' = s.stream n' := rfl
@[simp] theorem State.setCtx_stream (x : Nat) (v : Context) (n' : Nat) : (s.setCtx x v).stream n' = s.stream n' := rfl
@[simp] theorem State.setQueue_stream (q : Nat) (v : Queue) (n' : Nat) : (s.setQueue q v).stream n' = s.stream n' := rfl
@[simp] theorem State.setCluster_stream (c : Nat) (v : Cluster) (n' : Nat) : (s.setCluster c v).stream n' = s.stream n' := rfl
@[simp] theorem State.setAgent_stream (p : Nat) (a : Agent) (n' : Nat) : (s.setAgent p a).stream n' = s.stream n' := rfl
@[simp] theorem State.setFlash_stream (f : Flash) (n' : Nat) : (s.setFlash f).stream n' = s.stream n' := rfl
@[simp] theorem State.setPort_stream (p : Nat) (v : Port) (n' : Nat) : (s.setPort p v).stream n' = s.stream n' := rfl
@[simp] theorem State.setEngine_stream (e : Nat) (v : Engine) (n' : Nat) : (s.setEngine e v).stream n' = s.stream n' := rfl
@[simp] theorem State.setSite_stream (n : Nat) (v : Site) (n' : Nat) : (s.setSite n v).stream n' = s.stream n' := rfl
@[simp] theorem State.setMsix_stream (n : Nat) (m : Msix) (n' : Nat) : (s.setMsix n m).stream n' = s.stream n' := rfl
@[simp] theorem State.setBoot_stream (b : Boot) (n' : Nat) : (s.setBoot b).stream n' = s.stream n' := rfl
@[simp] theorem State.setSeqr_stream (q : Sequencer) (n' : Nat) : (s.setSeqr q).stream n' = s.stream n' := rfl
@[simp] theorem State.setPins_stream (p : Pins) (n' : Nat) : (s.setPins p).stream n' = s.stream n' := rfl
@[simp] theorem State.setArch_stream (a : Arch) (n' : Nat) : (s.setArch a).stream n' = s.stream n' := rfl
@[simp] theorem State.setPower_stream (p : Power) (n' : Nat) : (s.setPower p).stream n' = s.stream n' := rfl
@[simp] theorem State.setLatch_stream (a : Acr) (v : Nat) (n' : Nat) : (s.setLatch a v).stream n' = s.stream n' := rfl
@[simp] theorem State.setDev_stream (w d : Nat) (n' : Nat) : (s.setDev w d).stream n' = s.stream n' := rfl
@[simp] theorem State.putByte_stream (a : Nat) (b : Byte) (n' : Nat) : (s.putByte a b).stream n' = s.stream n' := rfl
@[simp] theorem State.emit_stream (o : Out) (n' : Nat) : (s.emit o).stream n' = s.stream n' := rfl
@[simp] theorem State.bumpFresh_stream (n : Nat) (n' : Nat) : (s.bumpFresh n).stream n' = s.stream n' := rfl
@[simp] theorem State.setCmd_stream (c : Cmd) (n' : Nat) : (s.setCmd c).stream n' = s.stream n' := rfl
@[simp] theorem State.dropCmd_stream (n : Nat) (n' : Nat) : (s.dropCmd n).stream n' = s.stream n' := rfl

@[simp] theorem State.setF_engine (f : Fld) (i v : Nat) (e' : Nat) : (s.setF f i v).engine e' = s.engine e' := rfl
@[simp] theorem State.setCtx_engine (x : Nat) (v : Context) (e' : Nat) : (s.setCtx x v).engine e' = s.engine e' := rfl
@[simp] theorem State.setQueue_engine (q : Nat) (v : Queue) (e' : Nat) : (s.setQueue q v).engine e' = s.engine e' := rfl
@[simp] theorem State.setCluster_engine (c : Nat) (v : Cluster) (e' : Nat) : (s.setCluster c v).engine e' = s.engine e' := rfl
@[simp] theorem State.setAgent_engine (p : Nat) (a : Agent) (e' : Nat) : (s.setAgent p a).engine e' = s.engine e' := rfl
@[simp] theorem State.setFlash_engine (f : Flash) (e' : Nat) : (s.setFlash f).engine e' = s.engine e' := rfl
@[simp] theorem State.setPort_engine (p : Nat) (v : Port) (e' : Nat) : (s.setPort p v).engine e' = s.engine e' := rfl
@[simp] theorem State.setStream_engine (n : Nat) (v : Stream) (e' : Nat) : (s.setStream n v).engine e' = s.engine e' := rfl
@[simp] theorem State.setSite_engine (n : Nat) (v : Site) (e' : Nat) : (s.setSite n v).engine e' = s.engine e' := rfl
@[simp] theorem State.setMsix_engine (n : Nat) (m : Msix) (e' : Nat) : (s.setMsix n m).engine e' = s.engine e' := rfl
@[simp] theorem State.setBoot_engine (b : Boot) (e' : Nat) : (s.setBoot b).engine e' = s.engine e' := rfl
@[simp] theorem State.setSeqr_engine (q : Sequencer) (e' : Nat) : (s.setSeqr q).engine e' = s.engine e' := rfl
@[simp] theorem State.setPins_engine (p : Pins) (e' : Nat) : (s.setPins p).engine e' = s.engine e' := rfl
@[simp] theorem State.setArch_engine (a : Arch) (e' : Nat) : (s.setArch a).engine e' = s.engine e' := rfl
@[simp] theorem State.setPower_engine (p : Power) (e' : Nat) : (s.setPower p).engine e' = s.engine e' := rfl
@[simp] theorem State.setLatch_engine (a : Acr) (v : Nat) (e' : Nat) : (s.setLatch a v).engine e' = s.engine e' := rfl
@[simp] theorem State.setDev_engine (w d : Nat) (e' : Nat) : (s.setDev w d).engine e' = s.engine e' := rfl
@[simp] theorem State.putByte_engine (a : Nat) (b : Byte) (e' : Nat) : (s.putByte a b).engine e' = s.engine e' := rfl
@[simp] theorem State.emit_engine (o : Out) (e' : Nat) : (s.emit o).engine e' = s.engine e' := rfl
@[simp] theorem State.bumpFresh_engine (n : Nat) (e' : Nat) : (s.bumpFresh n).engine e' = s.engine e' := rfl
@[simp] theorem State.setCmd_engine (c : Cmd) (e' : Nat) : (s.setCmd c).engine e' = s.engine e' := rfl
@[simp] theorem State.dropCmd_engine (n : Nat) (e' : Nat) : (s.dropCmd n).engine e' = s.engine e' := rfl

@[simp] theorem State.setF_site (f : Fld) (i v : Nat) (n' : Nat) : (s.setF f i v).site n' = s.site n' := rfl
@[simp] theorem State.setCtx_site (x : Nat) (v : Context) (n' : Nat) : (s.setCtx x v).site n' = s.site n' := rfl
@[simp] theorem State.setQueue_site (q : Nat) (v : Queue) (n' : Nat) : (s.setQueue q v).site n' = s.site n' := rfl
@[simp] theorem State.setCluster_site (c : Nat) (v : Cluster) (n' : Nat) : (s.setCluster c v).site n' = s.site n' := rfl
@[simp] theorem State.setAgent_site (p : Nat) (a : Agent) (n' : Nat) : (s.setAgent p a).site n' = s.site n' := rfl
@[simp] theorem State.setFlash_site (f : Flash) (n' : Nat) : (s.setFlash f).site n' = s.site n' := rfl
@[simp] theorem State.setPort_site (p : Nat) (v : Port) (n' : Nat) : (s.setPort p v).site n' = s.site n' := rfl
@[simp] theorem State.setStream_site (n : Nat) (v : Stream) (n' : Nat) : (s.setStream n v).site n' = s.site n' := rfl
@[simp] theorem State.setEngine_site (e : Nat) (v : Engine) (n' : Nat) : (s.setEngine e v).site n' = s.site n' := rfl
@[simp] theorem State.setMsix_site (n : Nat) (m : Msix) (n' : Nat) : (s.setMsix n m).site n' = s.site n' := rfl
@[simp] theorem State.setBoot_site (b : Boot) (n' : Nat) : (s.setBoot b).site n' = s.site n' := rfl
@[simp] theorem State.setSeqr_site (q : Sequencer) (n' : Nat) : (s.setSeqr q).site n' = s.site n' := rfl
@[simp] theorem State.setPins_site (p : Pins) (n' : Nat) : (s.setPins p).site n' = s.site n' := rfl
@[simp] theorem State.setArch_site (a : Arch) (n' : Nat) : (s.setArch a).site n' = s.site n' := rfl
@[simp] theorem State.setPower_site (p : Power) (n' : Nat) : (s.setPower p).site n' = s.site n' := rfl
@[simp] theorem State.setLatch_site (a : Acr) (v : Nat) (n' : Nat) : (s.setLatch a v).site n' = s.site n' := rfl
@[simp] theorem State.setDev_site (w d : Nat) (n' : Nat) : (s.setDev w d).site n' = s.site n' := rfl
@[simp] theorem State.putByte_site (a : Nat) (b : Byte) (n' : Nat) : (s.putByte a b).site n' = s.site n' := rfl
@[simp] theorem State.emit_site (o : Out) (n' : Nat) : (s.emit o).site n' = s.site n' := rfl
@[simp] theorem State.bumpFresh_site (n : Nat) (n' : Nat) : (s.bumpFresh n).site n' = s.site n' := rfl
@[simp] theorem State.setCmd_site (c : Cmd) (n' : Nat) : (s.setCmd c).site n' = s.site n' := rfl
@[simp] theorem State.dropCmd_site (n : Nat) (n' : Nat) : (s.dropCmd n).site n' = s.site n' := rfl

@[simp] theorem State.setF_cmd (f : Fld) (i v : Nat) (k : Nat) : (s.setF f i v).cmd? k = s.cmd? k := rfl
@[simp] theorem State.setCtx_cmd (x : Nat) (v : Context) (k : Nat) : (s.setCtx x v).cmd? k = s.cmd? k := rfl
@[simp] theorem State.setQueue_cmd (q : Nat) (v : Queue) (k : Nat) : (s.setQueue q v).cmd? k = s.cmd? k := rfl
@[simp] theorem State.setCluster_cmd (c : Nat) (v : Cluster) (k : Nat) : (s.setCluster c v).cmd? k = s.cmd? k := rfl
@[simp] theorem State.setAgent_cmd (p : Nat) (a : Agent) (k : Nat) : (s.setAgent p a).cmd? k = s.cmd? k := rfl
@[simp] theorem State.setFlash_cmd (f : Flash) (k : Nat) : (s.setFlash f).cmd? k = s.cmd? k := rfl
@[simp] theorem State.setPort_cmd (p : Nat) (v : Port) (k : Nat) : (s.setPort p v).cmd? k = s.cmd? k := rfl
@[simp] theorem State.setStream_cmd (n : Nat) (v : Stream) (k : Nat) : (s.setStream n v).cmd? k = s.cmd? k := rfl
@[simp] theorem State.setEngine_cmd (e : Nat) (v : Engine) (k : Nat) : (s.setEngine e v).cmd? k = s.cmd? k := rfl
@[simp] theorem State.setSite_cmd (n : Nat) (v : Site) (k : Nat) : (s.setSite n v).cmd? k = s.cmd? k := rfl
@[simp] theorem State.setMsix_cmd (n : Nat) (m : Msix) (k : Nat) : (s.setMsix n m).cmd? k = s.cmd? k := rfl
@[simp] theorem State.setBoot_cmd (b : Boot) (k : Nat) : (s.setBoot b).cmd? k = s.cmd? k := rfl
@[simp] theorem State.setSeqr_cmd (q : Sequencer) (k : Nat) : (s.setSeqr q).cmd? k = s.cmd? k := rfl
@[simp] theorem State.setPins_cmd (p : Pins) (k : Nat) : (s.setPins p).cmd? k = s.cmd? k := rfl
@[simp] theorem State.setArch_cmd (a : Arch) (k : Nat) : (s.setArch a).cmd? k = s.cmd? k := rfl
@[simp] theorem State.setPower_cmd (p : Power) (k : Nat) : (s.setPower p).cmd? k = s.cmd? k := rfl
@[simp] theorem State.setLatch_cmd (a : Acr) (v : Nat) (k : Nat) : (s.setLatch a v).cmd? k = s.cmd? k := rfl
@[simp] theorem State.setDev_cmd (w d : Nat) (k : Nat) : (s.setDev w d).cmd? k = s.cmd? k := rfl
@[simp] theorem State.putByte_cmd (a : Nat) (b : Byte) (k : Nat) : (s.putByte a b).cmd? k = s.cmd? k := rfl
@[simp] theorem State.emit_cmd (o : Out) (k : Nat) : (s.emit o).cmd? k = s.cmd? k := rfl
@[simp] theorem State.bumpFresh_cmd (n : Nat) (k : Nat) : (s.bumpFresh n).cmd? k = s.cmd? k := rfl

@[simp] theorem State.setF_oldest (f : Fld) (i v : Nat) (k : Nat) : (s.setF f i v).oldest? k = s.oldest? k := rfl
@[simp] theorem State.setCtx_oldest (x : Nat) (v : Context) (k : Nat) : (s.setCtx x v).oldest? k = s.oldest? k := rfl
@[simp] theorem State.setQueue_oldest (q : Nat) (v : Queue) (k : Nat) : (s.setQueue q v).oldest? k = s.oldest? k := rfl
@[simp] theorem State.setCluster_oldest (c : Nat) (v : Cluster) (k : Nat) : (s.setCluster c v).oldest? k = s.oldest? k := rfl
@[simp] theorem State.setAgent_oldest (p : Nat) (a : Agent) (k : Nat) : (s.setAgent p a).oldest? k = s.oldest? k := rfl
@[simp] theorem State.setFlash_oldest (f : Flash) (k : Nat) : (s.setFlash f).oldest? k = s.oldest? k := rfl
@[simp] theorem State.setPort_oldest (p : Nat) (v : Port) (k : Nat) : (s.setPort p v).oldest? k = s.oldest? k := rfl
@[simp] theorem State.setStream_oldest (n : Nat) (v : Stream) (k : Nat) : (s.setStream n v).oldest? k = s.oldest? k := rfl
@[simp] theorem State.setEngine_oldest (e : Nat) (v : Engine) (k : Nat) : (s.setEngine e v).oldest? k = s.oldest? k := rfl
@[simp] theorem State.setSite_oldest (n : Nat) (v : Site) (k : Nat) : (s.setSite n v).oldest? k = s.oldest? k := rfl
@[simp] theorem State.setMsix_oldest (n : Nat) (m : Msix) (k : Nat) : (s.setMsix n m).oldest? k = s.oldest? k := rfl
@[simp] theorem State.setBoot_oldest (b : Boot) (k : Nat) : (s.setBoot b).oldest? k = s.oldest? k := rfl
@[simp] theorem State.setSeqr_oldest (q : Sequencer) (k : Nat) : (s.setSeqr q).oldest? k = s.oldest? k := rfl
@[simp] theorem State.setPins_oldest (p : Pins) (k : Nat) : (s.setPins p).oldest? k = s.oldest? k := rfl
@[simp] theorem State.setArch_oldest (a : Arch) (k : Nat) : (s.setArch a).oldest? k = s.oldest? k := rfl
@[simp] theorem State.setPower_oldest (p : Power) (k : Nat) : (s.setPower p).oldest? k = s.oldest? k := rfl
@[simp] theorem State.setLatch_oldest (a : Acr) (v : Nat) (k : Nat) : (s.setLatch a v).oldest? k = s.oldest? k := rfl
@[simp] theorem State.setDev_oldest (w d : Nat) (k : Nat) : (s.setDev w d).oldest? k = s.oldest? k := rfl
@[simp] theorem State.putByte_oldest (a : Nat) (b : Byte) (k : Nat) : (s.putByte a b).oldest? k = s.oldest? k := rfl
@[simp] theorem State.emit_oldest (o : Out) (k : Nat) : (s.emit o).oldest? k = s.oldest? k := rfl
@[simp] theorem State.bumpFresh_oldest (n : Nat) (k : Nat) : (s.bumpFresh n).oldest? k = s.oldest? k := rfl

@[simp] theorem State.setF_byteAt (f : Fld) (i v : Nat) (k : Nat) : (s.setF f i v).byteAt k = s.byteAt k := rfl
@[simp] theorem State.setCtx_byteAt (x : Nat) (v : Context) (k : Nat) : (s.setCtx x v).byteAt k = s.byteAt k := rfl
@[simp] theorem State.setQueue_byteAt (q : Nat) (v : Queue) (k : Nat) : (s.setQueue q v).byteAt k = s.byteAt k := rfl
@[simp] theorem State.setCluster_byteAt (c : Nat) (v : Cluster) (k : Nat) : (s.setCluster c v).byteAt k = s.byteAt k := rfl
@[simp] theorem State.setAgent_byteAt (p : Nat) (a : Agent) (k : Nat) : (s.setAgent p a).byteAt k = s.byteAt k := rfl
@[simp] theorem State.setFlash_byteAt (f : Flash) (k : Nat) : (s.setFlash f).byteAt k = s.byteAt k := rfl
@[simp] theorem State.setPort_byteAt (p : Nat) (v : Port) (k : Nat) : (s.setPort p v).byteAt k = s.byteAt k := rfl
@[simp] theorem State.setStream_byteAt (n : Nat) (v : Stream) (k : Nat) : (s.setStream n v).byteAt k = s.byteAt k := rfl
@[simp] theorem State.setEngine_byteAt (e : Nat) (v : Engine) (k : Nat) : (s.setEngine e v).byteAt k = s.byteAt k := rfl
@[simp] theorem State.setSite_byteAt (n : Nat) (v : Site) (k : Nat) : (s.setSite n v).byteAt k = s.byteAt k := rfl
@[simp] theorem State.setMsix_byteAt (n : Nat) (m : Msix) (k : Nat) : (s.setMsix n m).byteAt k = s.byteAt k := rfl
@[simp] theorem State.setBoot_byteAt (b : Boot) (k : Nat) : (s.setBoot b).byteAt k = s.byteAt k := rfl
@[simp] theorem State.setSeqr_byteAt (q : Sequencer) (k : Nat) : (s.setSeqr q).byteAt k = s.byteAt k := rfl
@[simp] theorem State.setPins_byteAt (p : Pins) (k : Nat) : (s.setPins p).byteAt k = s.byteAt k := rfl
@[simp] theorem State.setArch_byteAt (a : Arch) (k : Nat) : (s.setArch a).byteAt k = s.byteAt k := rfl
@[simp] theorem State.setPower_byteAt (p : Power) (k : Nat) : (s.setPower p).byteAt k = s.byteAt k := rfl
@[simp] theorem State.setLatch_byteAt (a : Acr) (v : Nat) (k : Nat) : (s.setLatch a v).byteAt k = s.byteAt k := rfl
@[simp] theorem State.emit_byteAt (o : Out) (k : Nat) : (s.emit o).byteAt k = s.byteAt k := rfl
@[simp] theorem State.bumpFresh_byteAt (n : Nat) (k : Nat) : (s.bumpFresh n).byteAt k = s.byteAt k := rfl
@[simp] theorem State.setCmd_byteAt (c : Cmd) (k : Nat) : (s.setCmd c).byteAt k = s.byteAt k := rfl
@[simp] theorem State.dropCmd_byteAt (n : Nat) (k : Nat) : (s.dropCmd n).byteAt k = s.byteAt k := rfl

end Sys2Proof.Machine
end

