-- ==== Sys2Proof/Laws/Regs.lean ====
section
/-!
SUPPORT. Laws/Regs.lean: what a read of a field, or of a table of the state, gives after a write of one.
-/
namespace Sys2Proof.Machine

/-- The place of a field inside an instance of its register: fields at different places never share a key. -/
theorem Fld.key_ne_of_place {f g : Fld} (i j : Nat) (h : f.key 0 % 32768 ≠ g.key 0 % 32768) : f.key i ≠ g.key j := by
  unfold Fld.key at *
  omega

/-- One field in two instances has two keys. -/
theorem Fld.key_ne_of_inst (f : Fld) {i j : Nat} (h : i ≠ j) : f.key i ≠ f.key j := by
  unfold Fld.key
  omega

/-- A field reads what was written to it, cut to its width. -/
theorem State.getF_setF_same {s : State} (h : rises s.regs = true) (f : Fld) (i v : Nat) : (s.setF f i v).getF f i = v % 2 ^ f.w :=
  tget_tset_same _ _ _ _ h

/-- A write leaves every field with another key alone. -/
theorem State.getF_setF_ne (s : State) {f g : Fld} {i j : Nat} (v : Nat) (h : g.key j ≠ f.key i) : (s.setF f i v).getF g j = s.getF g j :=
  tget_tset_ne _ _ _ _ h

/-- A write leaves the fields at every other place alone. -/
theorem State.getF_setF_place (s : State) {f g : Fld} (i j v : Nat) (h : g.key 0 % 32768 ≠ f.key 0 % 32768) :
    (s.setF f i v).getF g j = s.getF g j :=
  s.getF_setF_ne v (Fld.key_ne_of_place j i h)

/-- A write leaves the field's other instances alone. -/
theorem State.getF_setF_inst (s : State) (f : Fld) {i j : Nat} (v : Nat) (h : j ≠ i) : (s.setF f i v).getF f j = s.getF f j :=
  s.getF_setF_ne v (f.key_ne_of_inst h)

theorem State.rises_setF {s : State} (h : rises s.regs = true) (f : Fld) (i v : Nat) : rises (s.setF f i v).regs = true :=
  rises_tset _ _ h

theorem State.canon_regs {s : State} (h : s.canon = true) : rises s.regs = true := (State.canon_iff.1 h).2.2.1

theorem State.ctx_setCtx_same {s : State} (h : rises s.ctxs = true) (x : Nat) (v : Context) : (s.setCtx x v).ctx x = v :=
  tget_tset_same _ _ _ _ h

theorem State.ctx_setCtx_ne (s : State) {x y : Nat} (v : Context) (h : y ≠ x) : (s.setCtx x v).ctx y = s.ctx y := tget_tset_ne _ _ _ _ h

theorem State.queue_setQueue_same {s : State} (h : rises s.queues = true) (x : Nat) (v : Queue) : (s.setQueue x v).queue x = v :=
  tget_tset_same _ _ _ _ h

theorem State.queue_setQueue_ne (s : State) {x y : Nat} (v : Queue) (h : y ≠ x) : (s.setQueue x v).queue y = s.queue y :=
  tget_tset_ne _ _ _ _ h

theorem State.cluster_setCluster_same {s : State} (h : rises s.clusters = true) (x : Nat) (v : Cluster) : (s.setCluster x v).cluster x = v :=
  tget_tset_same _ _ _ _ h

theorem State.cluster_setCluster_ne (s : State) {x y : Nat} (v : Cluster) (h : y ≠ x) : (s.setCluster x v).cluster y = s.cluster y :=
  tget_tset_ne _ _ _ _ h

theorem State.agent_setAgent_same {s : State} (h : rises s.agents = true) (x : Nat) (v : Agent) : (s.setAgent x v).agent x = v :=
  tget_tset_same _ _ _ _ h

theorem State.agent_setAgent_ne (s : State) {x y : Nat} (v : Agent) (h : y ≠ x) : (s.setAgent x v).agent y = s.agent y :=
  tget_tset_ne _ _ _ _ h

theorem State.port_setPort_same {s : State} (h : rises s.ports = true) (x : Nat) (v : Port) : (s.setPort x v).port x = v :=
  tget_tset_same _ _ _ _ h

theorem State.port_setPort_ne (s : State) {x y : Nat} (v : Port) (h : y ≠ x) : (s.setPort x v).port y = s.port y := tget_tset_ne _ _ _ _ h

theorem State.stream_setStream_same {s : State} (h : rises s.streams = true) (x : Nat) (v : Stream) : (s.setStream x v).stream x = v :=
  tget_tset_same _ _ _ _ h

theorem State.stream_setStream_ne (s : State) {x y : Nat} (v : Stream) (h : y ≠ x) : (s.setStream x v).stream y = s.stream y :=
  tget_tset_ne _ _ _ _ h

theorem State.engine_setEngine_same {s : State} (h : rises s.engines = true) (x : Nat) (v : Engine) : (s.setEngine x v).engine x = v :=
  tget_tset_same _ _ _ _ h

theorem State.engine_setEngine_ne (s : State) {x y : Nat} (v : Engine) (h : y ≠ x) : (s.setEngine x v).engine y = s.engine y :=
  tget_tset_ne _ _ _ _ h

theorem State.site_setSite_same {s : State} (h : rises s.sites = true) (x : Nat) (v : Site) : (s.setSite x v).site x = v :=
  tget_tset_same _ _ _ _ h

theorem State.site_setSite_ne (s : State) {x y : Nat} (v : Site) (h : y ≠ x) : (s.setSite x v).site y = s.site y := tget_tset_ne _ _ _ _ h

/-- A tracked command is found as it was set. -/
theorem State.cmd_setCmd_same {s : State} {c d : Cmd} (h : s.cmd? c.id = some d) : (s.setCmd c).cmd? c.id = some c := by
  unfold State.cmd? State.setCmd at *
  dsimp only
  revert h
  generalize s.cmds = cs
  intro h
  induction cs with
  | nil => simp at h
  | cons x cs ih =>
    by_cases e : x.id = c.id
    · simp [e]
    · have e' : (x.id == c.id) = false := by simpa using e
      simp only [List.map_cons, if_neg e, List.find?_cons, e'] at h ⊢
      exact ih h

/-- Setting a command leaves the others. -/
theorem State.cmd_setCmd_ne (s : State) {c : Cmd} {k : Nat} (h : k ≠ c.id) : (s.setCmd c).cmd? k = s.cmd? k := by
  unfold State.cmd? State.setCmd
  dsimp only
  generalize s.cmds = cs
  induction cs with
  | nil => rfl
  | cons x cs ih =>
    have hk : (c.id == k) = false := by simpa using Ne.symm h
    by_cases e : x.id = c.id
    · have hx : (x.id == k) = false := by rw [e]; exact hk
      simp only [List.map_cons, if_pos e, List.find?_cons, hk, hx]
      exact ih
    · simp only [List.map_cons, if_neg e, List.find?_cons, ih]

end Sys2Proof.Machine
end

