-- ==== Sys2Proof/Laws/Frames.lean ====
section
/-!
SUPPORT. Laws/Frames.lean: frames of single updates, for statements of the form "nothing changed but ...".
-/
namespace Sys2Proof.Machine

variable {s t : State} {l : List (Fld × Nat)} {m : List Comp}

theorem OnlyChanged.refl (m : List Comp) (s : State) : OnlyChanged m s s := fun c _ => by cases c <;> rfl

/-- What the Kept lemmas say is a frame. -/
theorem Kept.only (h : Kept (fun c => c ∈ m) s t) : OnlyChanged m s t := h.1

theorem OnlyChanged.mono {m' : List Comp} (h : OnlyChanged m s t) (w : ∀ c ∈ m, c ∈ m') : OnlyChanged m' s t := fun c n => h c fun k => n (w c k)

theorem OnlyChanged.trans {u : State} (h : OnlyChanged m s t) (k : OnlyChanged m t u) : OnlyChanged m s u := fun c n => by
  have a := h c n
  have b := k c n
  cases c <;> exact Eq.trans a b

theorem FieldsKept.refl (l : List (Fld × Nat)) (s : State) : FieldsKept l s s := fun _ _ _ => rfl

/-- Equal register tables read the same. -/
theorem FieldsKept.of_regs (h : t.regs = s.regs) : FieldsKept l s t := fun f i _ => by unfold State.getF; rw [h]

theorem FieldsKept.trans {u : State} (h : FieldsKept l s t) (k : FieldsKept l t u) : FieldsKept l s u := fun f i e => (k f i e).trans (h f i e)

theorem FieldsKept.mono {l' : List (Fld × Nat)} (h : FieldsKept l s t) (w : ∀ e ∈ l, e ∈ l') : FieldsKept l' s t := fun f i e => h f i fun x m => e x (w x m)

/-- Setting a listed field keeps the others. -/
theorem FieldsKept.setF (h : FieldsKept l s t) (f : Fld) (i v : Nat) (w : (f, i) ∈ l) : FieldsKept l s (t.setF f i v) :=
  h.trans fun _ _ e => t.getF_setF_ne v (Ne.symm (e _ w))

theorem OnlyChanged.setF (h : OnlyChanged m s t) (f : Fld) (i v : Nat) (w : Comp.regs ∈ m) : OnlyChanged m s (t.setF f i v) :=
  h.trans fun c n => by cases c <;> first | rfl | exact absurd w n

/-- Setting listed fields is a change of these fields only. -/
theorem OnlyFields.setF (h : OnlyFields l s t) (f : Fld) (i v : Nat) (w : (f, i) ∈ l) : OnlyFields l s (t.setF f i v) :=
  ⟨h.1.setF f i v (by simp), h.2.setF f i v w⟩

theorem OnlyFields.refl (l : List (Fld × Nat)) (s : State) : OnlyFields l s s := ⟨OnlyChanged.refl _ s, FieldsKept.refl l s⟩

/-- A raised cause sets its bit; an interrupt message changes no register. -/
theorem State.fields_raiseEvt (s : State) (fn : Nat) (f : Fld) : FieldsKept [(f, fn)] s (s.raiseEvt fn f) := by
  have h : FieldsKept [(f, fn)] s (s.setF f fn 1) := (FieldsKept.refl _ s).setF f fn 1 (by simp)
  unfold State.raiseEvt
  dsimp only
  split
  · refine h.trans (.of_regs ?_)
    unfold State.sendMsix
    dsimp only
    split
    · rfl
    · split <;> rfl
  · exact h

theorem State.only_raiseEvt (s : State) (fn : Nat) (f : Fld) : OnlyChanged [.regs, .msixs, .out] s (s.raiseEvt fn f) :=
  (State.raiseEvt_kept (E := fun c => c ∈ [Comp.regs, .msixs, .out]) s fn f (Kept.refl s) (by simp) (by simp) (by simp)).only

/-! ### Registers that an operation may change -/

variable {rs : List Reg}

theorem RegsKept.refl (rs : List Reg) (s : State) : RegsKept rs s s := fun _ _ _ => rfl

theorem RegsKept.trans {u : State} (h : RegsKept rs s t) (k : RegsKept rs t u) : RegsKept rs s u := fun f i e => (k f i e).trans (h f i e)

theorem RegsKept.mono {rs' : List Reg} (h : RegsKept rs s t) (w : ∀ r ∈ rs, r ∈ rs') : RegsKept rs' s t := fun f i e =>
  h f i fun m => e (by
    obtain ⟨r, hr, he⟩ := List.mem_map.1 m
    exact List.mem_map.2 ⟨r, w r hr, he⟩)

theorem RegsKept.of_regs {u : State} (h : RegsKept rs s t) (e : u.regs = t.regs) : RegsKept rs s u := fun f i w => by
  rw [← h f i w]
  unfold State.getF
  rw [e]

/-- Setting a field of a listed register. -/
theorem RegsKept.setF (h : RegsKept rs s t) (f : Fld) (i v : Nat) (w : f.key 0 / 128 % 256 ∈ rs.map (·.idx)) : RegsKept rs s (t.setF f i v) :=
  h.trans fun g j e => t.getF_setF_ne v fun k => e (by
    rw [k]
    have : f.key i / 128 % 256 = f.key 0 / 128 % 256 := by unfold Fld.key; omega
    rwa [this])

theorem RegsKept.ite {u : State} {c : Prop} [Decidable c] (h : RegsKept rs s t) (k : RegsKept rs s u) : RegsKept rs s (if c then t else u) := by
  split
  · exact h
  · exact k

theorem RegsKept.foldl {α : Type} (f : State → α → State) (hf : ∀ u a, RegsKept rs u (f u a)) (l : List α) (h : RegsKept rs s t) :
    RegsKept rs s (l.foldl f t) := by
  induction l generalizing t with
  | nil => exact h
  | cons a l ih => exact ih (h.trans (hf t a))

theorem State.regs_sendMsix (s : State) (fn vec : Nat) : (s.sendMsix fn vec).regs = s.regs := by
  unfold State.sendMsix
  dsimp only
  split
  · rfl
  · split <;> rfl

theorem RegsKept.raiseEvt (h : RegsKept rs s t) (fn : Nat) (f : Fld) (w : f.key 0 / 128 % 256 ∈ rs.map (·.idx)) : RegsKept rs s (t.raiseEvt fn f) := by
  have k := h.setF f fn 1 w
  unfold State.raiseEvt
  dsimp only
  split
  · exact k.of_regs (State.regs_sendMsix _ _ _)
  · exact k

theorem State.regs_showOldest (s : State) : RegsKept recordRegs s s.showOldest := by
  have h : ∀ (u : State) (a : Nat), RegsKept recordRegs u (u.setF F.erqDataBytes a (fieldAt (s.erq.headD []) (8 * a) 8)) := fun u a =>
    (RegsKept.refl recordRegs u).setF F.erqDataBytes a _ (by decide)
  exact RegsKept.foldl _ h _ ((RegsKept.refl recordRegs s).setF F.erqStatusCount 0 _ (by decide))

theorem State.regs_appendRec (s : State) (sev : Nat) (b : List Byte) : RegsKept recordRegs s (s.appendRec sev b) := by
  have r := RegsKept.refl recordRegs s
  have h1 : RegsKept recordRegs s (if s.erq.length < 1024 then
      (if s.erq.isEmpty then (({ s with erq := s.erq ++ [b] } : State).raiseEvt 0 F.pciEvtcauseErq).emit (.mctp 1 s.rseq 0)
        else { s with erq := s.erq ++ [b] })
      else s.bumpSat F.erqStatusLost 0 1) := by
    refine RegsKept.ite (RegsKept.ite ?_ (r.of_regs rfl)) (r.setF _ _ _ (by decide))
    exact ((r.of_regs (u := { s with erq := s.erq ++ [b] }) rfl).raiseEvt 0 F.pciEvtcauseErq (by decide)).of_regs rfl
  unfold State.appendRec
  dsimp only
  generalize (if s.erq.length < 1024 then
      (if s.erq.isEmpty then (({ s with erq := s.erq ++ [b] } : State).raiseEvt 0 F.pciEvtcauseErq).emit (.mctp 1 s.rseq 0)
        else { s with erq := s.erq ++ [b] })
      else s.bumpSat F.erqStatusLost 0 1) = s1 at h1 ⊢
  have h2 : RegsKept recordRegs s (if sev ≥ 2 then { s1 with fwLog := b :: s1.fwLog } else s1) := RegsKept.ite (h1.of_regs rfl) h1
  generalize (if sev ≥ 2 then { s1 with fwLog := b :: s1.fwLog } else s1) = s2 at h2 ⊢
  have hf : ∀ (u : State) (a : Nat), RegsKept recordRegs u (u.setF F.erqFatalBytes a (fieldAt b (8 * a) 8)) := fun u a =>
    (RegsKept.refl recordRegs u).setF F.erqFatalBytes a _ (by decide)
  have h3 : RegsKept recordRegs s (if sev = 3 then
      ((List.range 8).foldl (fun t i => t.setF F.erqFatalBytes i (fieldAt b (8 * i) 8)) s2).setF F.erqStatusFatalv 0 1 else s2) :=
    RegsKept.ite ((RegsKept.foldl _ hf _ h2).setF F.erqStatusFatalv 0 1 (by decide)) h2
  generalize (if sev = 3 then
      ((List.range 8).foldl (fun t i => t.setF F.erqFatalBytes i (fieldAt b (8 * i) 8)) s2).setF F.erqStatusFatalv 0 1 else s2) = s3 at h3 ⊢
  exact (h3.of_regs (u := { s3 with rseq := lo32 (s3.rseq + 1) }) rfl).trans (State.regs_showOldest _)

/-- An error record changes the registers of the error queue and the event cause only. -/
theorem State.regs_record (s : State) (r : Rec) : RegsKept recordRegs s (s.record r) := by
  unfold State.record
  split
  · split
    · exact (RegsKept.refl _ s).of_regs rfl
    · exact (RegsKept.refl _ s).of_regs rfl
  · extract_lets t u
    have h1 : RegsKept recordRegs s t := State.regs_appendRec _ _ _
    have h2 : RegsKept recordRegs s u := RegsKept.ite (h1.setF _ _ _ (by decide)) h1
    exact RegsKept.ite (h2.setF _ _ _ (by decide)) h2

theorem State.regs_eccLog (s : State) (w : Nat) (unc : Bool) (src sym : Nat) : RegsKept memoryRegs s (s.eccLog w unc src sym) := by
  unfold State.eccLog
  exact (((((((RegsKept.refl _ s).setF _ _ _ (by decide)).setF _ _ _ (by decide)).setF _ _ _ (by decide)).setF _ _ _ (by decide)).setF _ _ _
    (by decide)).setF _ _ _ (by decide)).setF _ _ _ (by decide)

theorem State.regs_fixSymbol (s : State) (w p e : Nat) : (s.fixSymbol w p e).regs = s.regs := by
  unfold State.fixSymbol
  split <;> rfl

/-- Decoding a word changes the site's ECC registers and those of a record only. -/
theorem State.regs_decodeWord (s : State) (w src : Nat) : RegsKept memoryRegs s (s.decodeWord w src) := by
  unfold State.decodeWord
  dsimp only
  have r := RegsKept.refl memoryRegs s
  have f : ∀ p e d, RegsKept memoryRegs s ((s.fixSymbol w p e).setDev w d) := fun p e d => r.of_regs (State.regs_fixSymbol s w p e)
  split
  · exact RegsKept.ite (r.setF _ _ _ (by decide)) r
  · split
    · exact r
    · exact RegsKept.ite (r.setF _ _ _ (by decide)) r
    · exact ((f _ _ _).setF _ _ _ (by decide)).trans (State.regs_eccLog _ _ _ _ _)
    · refine RegsKept.ite (RegsKept.setF (((f _ _ pzDev).setF _ _ _ (by decide)).trans (State.regs_eccLog _ _ _ _ _)) _ _ _ (by decide)) ?_
      exact ((f _ _ pzDev).setF _ _ _ (by decide)).trans (State.regs_eccLog _ _ _ _ _)
    · have h : RegsKept memoryRegs s ((s.setDev w pzDev).eccUncorrectable w src (tget (fun _ => 0) s.ecc w)) := by
        unfold State.eccUncorrectable
        exact (((r.of_regs (u := s.setDev w pzDev) rfl).setF F.memEcccntUe _ _ (by decide)).trans (State.regs_eccLog _ _ _ _ _)).trans
          ((State.regs_record _ _).mono (by decide))
      exact RegsKept.ite (h.setF _ _ _ (by decide)) h

/-- Reading words changes counts, ECC registers and those of a record only. -/
theorem State.regs_readWords (s : State) (l : List Nat) : RegsKept memoryRegs s (s.readWords l) :=
  RegsKept.foldl _ (fun u w => (State.regs_decodeWord u w 0).setF _ _ _ (by decide)) _ (RegsKept.refl _ s)

end Sys2Proof.Machine
end

