-- ==== Sys2Proof/Laws/Memory.lean ====
section
/-!
SUPPORT. Laws/Memory.lean: memory keeps its canonical form, and what a byte is delivered as after each memory operation.
-/
namespace Sys2Proof.Machine

theorem reset_memory_wf : Memory.wf State.reset.mem = true := rfl

theorem State.putByte_wf {s : State} (h : Memory.wf s.mem = true) (a : Nat) (b : Byte) : Memory.wf (s.putByte a b).mem = true := twf_tset _ _ h

theorem State.putBytes_wf {s : State} (h : Memory.wf s.mem = true) (a : Nat) (bs : List Byte) : Memory.wf (s.putBytes a bs).mem = true := by
  induction bs generalizing s a with
  | nil => exact h
  | cons b t ih => exact ih (State.putByte_wf h a b) _

theorem State.fixSymbol_wf {s : State} (h : Memory.wf s.mem = true) (w p e : Nat) : Memory.wf (s.fixSymbol w p e).mem = true := by
  unfold State.fixSymbol
  split
  · exact h
  · exact State.putByte_wf h _ _

/-- The components that a memory operation may change. -/
def memFx (c : Comp) : Prop := c ∈ [Comp.regs, .erq, .rseq, .fwLog, .folded, .msixs, .out, .mem, .ecc, .fresh]

theorem State.decodeWord_canon {s : State} (h : s.canon = true) (w src : Nat) : (s.decodeWord w src).canon = true :=
  (State.decodeWord_kept (E := memFx) s w src (Kept.refl s) (by simp [memFx]) (by simp [memFx]) (by simp [memFx]) (by simp [memFx])
    (by simp [memFx]) (by simp [memFx]) (by simp [memFx]) (by simp [memFx]) (by simp [memFx])).2 h

theorem State.readWords_canon {s : State} (h : s.canon = true) (ws : List Nat) : (s.readWords ws).canon = true :=
  (State.readWords_kept (E := memFx) s ws (Kept.refl s) (by simp [memFx]) (by simp [memFx]) (by simp [memFx]) (by simp [memFx])
    (by simp [memFx]) (by simp [memFx]) (by simp [memFx]) (by simp [memFx]) (by simp [memFx])).2 h

theorem State.writeBytes_canon {s : State} (h : s.canon = true) (a : Nat) (bs : List Byte) : (s.writeBytes a bs).canon = true :=
  (State.writeBytes_kept (E := memFx) s a bs (Kept.refl s) (by simp [memFx]) (by simp [memFx]) (by simp [memFx]) (by simp [memFx])
    (by simp [memFx]) (by simp [memFx]) (by simp [memFx]) (by simp [memFx]) (by simp [memFx])).2 h

theorem State.poisonBytes_canon {s : State} (h : s.canon = true) (a n : Nat) : (s.poisonBytes a n).canon = true :=
  (State.poisonBytes_kept (E := memFx) s a n (Kept.refl s) (by simp [memFx]) (by simp [memFx]) (by simp [memFx]) (by simp [memFx])
    (by simp [memFx]) (by simp [memFx]) (by simp [memFx]) (by simp [memFx]) (by simp [memFx]) (by simp [memFx])).2 h

theorem State.decodeWord_wf {s : State} (h : s.canon = true) (w src : Nat) : Memory.wf (s.decodeWord w src).mem = true :=
  (State.canon_iff.1 (State.decodeWord_canon h w src)).1

theorem State.writeBytes_wf {s : State} (h : s.canon = true) (a : Nat) (bs : List Byte) : Memory.wf (s.writeBytes a bs).mem = true :=
  (State.canon_iff.1 (State.writeBytes_canon h a bs)).1

theorem State.poisonBytes_wf {s : State} (h : s.canon = true) (a n : Nat) : Memory.wf (s.poisonBytes a n).mem = true :=
  (State.canon_iff.1 (State.poisonBytes_canon h a n)).1

/-! ### Decoding a word -/

theorem State.record_agree (s : State) (r : Rec) (c : Comp) (h : c ∉ [Comp.regs, .erq, .rseq, .fwLog, .folded, .msixs, .out]) :
    c.agree s (s.record r) :=
  (State.record_kept (E := fun c => c ∈ [Comp.regs, .erq, .rseq, .fwLog, .folded, .msixs, .out]) s r (Kept.refl s) (by simp) (by simp) (by simp)
    (by simp) (by simp) (by simp) (by simp)).1 c h

@[simp] theorem State.record_mem (s : State) (r : Rec) : (s.record r).mem = s.mem := (s.record_agree r .mem (by simp)).symm

@[simp] theorem State.record_ecc (s : State) (r : Rec) : (s.record r).ecc = s.ecc := (s.record_agree r .ecc (by simp)).symm

@[simp] theorem State.eccLog_mem (s : State) (w : Nat) (u : Bool) (src sym : Nat) : (s.eccLog w u src sym).mem = s.mem := rfl

@[simp] theorem State.eccLog_ecc (s : State) (w : Nat) (u : Bool) (src sym : Nat) : (s.eccLog w u src sym).ecc = s.ecc := rfl

@[simp] theorem State.bump_mem (s : State) (f : Fld) (i n : Nat) : (s.bump f i n).mem = s.mem := rfl

@[simp] theorem State.bump_ecc (s : State) (f : Fld) (i n : Nat) : (s.bump f i n).ecc = s.ecc := rfl

@[simp] theorem State.bumpSat_mem (s : State) (f : Fld) (i n : Nat) : (s.bumpSat f i n).mem = s.mem := rfl

@[simp] theorem State.bumpSat_ecc (s : State) (f : Fld) (i n : Nat) : (s.bumpSat f i n).ecc = s.ecc := rfl

theorem State.eccUncorrectable_mem (s : State) (w src d : Nat) : (s.eccUncorrectable w src d).mem = s.mem := by
  simp [State.eccUncorrectable]

theorem State.eccUncorrectable_ecc (s : State) (w src d : Nat) : (s.eccUncorrectable w src d).ecc = s.ecc := by
  simp [State.eccUncorrectable]

/-- A byte is delivered from the stored bytes and deviations alone. -/
theorem State.byteAt_congr {s t : State} (hm : s.mem = t.mem) (he : s.ecc = t.ecc) (a : Nat) : s.byteAt a = t.byteAt a := by
  unfold State.byteAt State.rawByte
  rw [hm, he]

theorem State.fixSymbol_ecc (s : State) (w p e : Nat) : (s.fixSymbol w p e).ecc = s.ecc := by
  unfold State.fixSymbol
  split <;> rfl

theorem singleError_lt {syn : List Nat} {p e : Nat} (h : singleError syn = some (p, e)) : p < 68 := by
  unfold singleError at h
  dsimp only at h
  split at h
  · cases h
  · cases g : (List.range 68).find? fun p => errSyn p (syn.getD 0 0) == syn with
    | none => rw [g] at h; cases h
    | some q =>
      rw [g] at h
      simp only [Option.map_some, Option.some.injEq, Prod.mk.injEq] at h
      have := List.mem_of_find?_eq_some g
      rw [List.mem_range] at this
      omega

theorem classify_corrected_lt {d p e : Nat} (h : classify d = .corrected p e) : p < 68 := by
  unfold classify at h
  split at h
  · cases h
  · split at h
    · cases h
    · split at h
      · next g => cases h; exact singleError_lt g
      · split at h <;> cases h

theorem classify_poisonedCorrected_lt {d p e : Nat} (h : classify d = .poisonedCorrected p e) : p < 68 := by
  unfold classify at h
  split at h
  · cases h
  · split at h
    · cases h
    · split at h
      · cases h
      · split at h
        · next g => cases h; exact singleError_lt g
        · cases h

theorem classify_zero : classify 0 = .clean := rfl

theorem classify_pz : classify pzDev = .poisoned := rfl

/-- A word that is corrected in place delivers what its correction delivered. -/
theorem State.byteAt_fixed {s t : State} (hm : rises s.mem = true) (he : rises s.ecc = true) {w p e d : Nat} (hp : p < 68)
    (hd : d = 0 ∨ d = pzDev)
    (hc : classify (tget (fun _ => 0) s.ecc w) = .corrected p e ∨ classify (tget (fun _ => 0) s.ecc w) = .poisonedCorrected p e)
    (tm : t.mem = (s.fixSymbol w p e).mem) (te : t.ecc = tset (fun _ => 0) s.ecc w d) (a : Nat) : t.byteAt a = s.byteAt a := by
  have raw : ∀ b, t.rawByte b = (s.fixSymbol w p e).rawByte b := fun b => by unfold State.rawByte; rw [tm]
  have fix : ∀ b, (s.fixSymbol w p e).rawByte b = if 4 ≤ p ∧ b = w * 64 + (p - 4) then s.rawByte b ^^^ BitVec.ofNat 8 e else s.rawByte b := by
    intro b
    unfold State.fixSymbol
    by_cases h4 : p < 4
    · rw [if_pos h4, if_neg (by omega)]
    · rw [if_neg h4]
      by_cases hb : b = w * 64 + (p - 4)
      · rw [if_pos ⟨by omega, hb⟩, hb]
        exact tget_tset_same _ _ _ _ hm
      · rw [if_neg (fun x => hb x.2)]
        exact tget_tset_ne _ _ _ _ hb
  by_cases ha : a / 64 = w
  · have hcl : classify (tget (fun _ => 0) t.ecc (a / 64)) = .clean ∨ classify (tget (fun _ => 0) t.ecc (a / 64)) = .poisoned := by
      rw [te, ha, tget_tset_same _ _ _ _ he]
      cases hd with
      | inl h => left; rw [h]; exact classify_zero
      | inr h => right; rw [h]; exact classify_pz
    have l : t.byteAt a = t.rawByte a := by
      unfold State.byteAt
      cases hcl with
      | inl h => rw [h]
      | inr h => rw [h]
    have r : s.byteAt a = if p = a % 64 + 4 then s.rawByte a ^^^ BitVec.ofNat 8 e else s.rawByte a := by
      unfold State.byteAt
      rw [ha]
      cases hc with
      | inl h => rw [h]
      | inr h => rw [h]
    rw [l, r, raw, fix]
    by_cases hq : p = a % 64 + 4
    · rw [if_pos hq, if_pos ⟨by omega, by omega⟩]
    · rw [if_neg hq, if_neg (by omega)]
  · have ee : tget (fun _ => 0) t.ecc (a / 64) = tget (fun _ => 0) s.ecc (a / 64) := by
      rw [te]
      exact tget_tset_ne _ _ _ _ ha
    have rr : t.rawByte a = s.rawByte a := by
      rw [raw, fix, if_neg (by omega)]
    unfold State.byteAt
    rw [ee, rr]

/-- A read of a word changes no byte that any read delivers. -/
theorem State.byteAt_decodeWord {s : State} (h : s.canon = true) (w src a : Nat) : (s.decodeWord w src).byteAt a = s.byteAt a := by
  have hm : rises s.mem = true := twf_rises (State.canon_iff.1 h).1
  have he : rises s.ecc = true := twf_rises (State.canon_iff.1 h).2.1
  unfold State.decodeWord
  dsimp only
  split
  · split
    · exact State.byteAt_congr rfl rfl a
    · rfl
  · split
    · rfl
    · split
      · exact State.byteAt_congr rfl rfl a
      · rfl
    · next p e g =>
      refine State.byteAt_fixed hm he (classify_corrected_lt g) (.inl rfl) (.inl g) ?_ ?_ a
      · simp
      · simp [State.fixSymbol_ecc]
    · next p e g =>
      split
      · refine State.byteAt_fixed hm he (classify_poisonedCorrected_lt g) (.inr rfl) (.inr g) ?_ ?_ a
        · simp
        · simp [State.fixSymbol_ecc]
      · refine State.byteAt_fixed hm he (classify_poisonedCorrected_lt g) (.inr rfl) (.inr g) ?_ ?_ a
        · simp
        · simp [State.fixSymbol_ecc]
    · next g =>
      have key : ∀ t : State, t.mem = s.mem → t.ecc = tset (fun _ => 0) s.ecc w pzDev → t.byteAt a = s.byteAt a := by
        intro t tm te
        have rr : t.rawByte a = s.rawByte a := by unfold State.rawByte; rw [tm]
        unfold State.byteAt
        rw [te, rr]
        by_cases ha : a / 64 = w
        · rw [ha, tget_tset_same _ _ _ _ he, classify_pz, g]
        · rw [tget_tset_ne _ _ _ _ ha]
      split
      · exact key _ (by simp [State.eccUncorrectable_mem]) (by simp [State.eccUncorrectable_ecc])
      · exact key _ (by simp [State.eccUncorrectable_mem]) (by simp [State.eccUncorrectable_ecc])

theorem State.byteAt_readWord {s : State} (h : s.canon = true) (w a : Nat) : (s.readWord w).byteAt a = s.byteAt a :=
  (State.byteAt_congr rfl rfl a).trans (State.byteAt_decodeWord h w 0 a)

theorem State.readWord_canon {s : State} (h : s.canon = true) (w : Nat) : (s.readWord w).canon = true := by
  have := State.readWords_canon h [w]
  exact this

/-- Reads of words change no byte that any read delivers. -/
theorem State.byteAt_readWords {s : State} (h : s.canon = true) (ws : List Nat) (a : Nat) : (s.readWords ws).byteAt a = s.byteAt a := by
  induction ws generalizing s with
  | nil => rfl
  | cons w ws ih => exact (ih (State.readWord_canon h w)).trans (State.byteAt_readWord h w a)

/-! ### Writing -/

theorem State.putBytes_ecc (s : State) (a : Nat) (bs : List Byte) : (s.putBytes a bs).ecc = s.ecc := by
  induction bs generalizing s a with
  | nil => rfl
  | cons b t ih => exact (ih (s.putByte a b) (a + 1)).trans rfl

/-- A stored byte outside the bytes put is as before. -/
theorem State.rawByte_putBytes_out (s : State) (a : Nat) (bs : List Byte) {b : Nat} (h : b < a ∨ a + bs.length ≤ b) :
    (s.putBytes a bs).rawByte b = s.rawByte b := by
  induction bs generalizing s a with
  | nil => rfl
  | cons x t ih =>
    have : (s.putByte a x).rawByte b = s.rawByte b := tget_tset_ne _ _ _ _ (by simp only [List.length_cons] at h; omega)
    exact (ih (s.putByte a x) (a + 1) (by simp only [List.length_cons] at h; omega)).trans this

/-- A stored byte inside is the byte put. -/
theorem State.rawByte_putBytes_in {s : State} (hm : Memory.wf s.mem = true) (a : Nat) (bs : List Byte) {k : Nat} (h : k < bs.length) :
    (s.putBytes a bs).rawByte (a + k) = bs.getD k 0 := by
  induction bs generalizing s a k with
  | nil => simp at h
  | cons x t ih =>
    cases k with
    | zero =>
      have e : (s.putBytes a (x :: t)).rawByte (a + 0) = (s.putByte a x).rawByte (a + 0) :=
        State.rawByte_putBytes_out (s.putByte a x) (a + 1) t (.inl (by omega))
      rw [e]
      exact tget_tset_same _ _ _ _ (twf_rises hm)
    | succ k =>
      have := ih (State.putByte_wf hm a x) (a + 1) (k := k) (by simpa using h)
      rw [show a + 1 + k = a + (k + 1) by omega] at this
      exact this

/-- A write inside one burst leaves every byte outside it as it was delivered. -/
theorem State.byteAt_writeWord_out {s : State} (h : s.canon = true) (a : Nat) (bs : List Byte) {b : Nat} (hb : b < a ∨ a + bs.length ≤ b)
    (ha : a % 64 + bs.length ≤ 64) : (s.writeWord a bs).byteAt b = s.byteAt b := by
  unfold State.writeWord
  dsimp only
  have hB : (s.bump F.cntSitewrBytes (wordSite (a / 64)) 64).canon = true :=
    (State.bump_kept (E := memFx) s _ _ _ (Kept.refl s) (by simp [memFx])).2 h
  split
  · exact State.byteAt_congr rfl rfl b
  · split
    · next hl =>
      have hne : b / 64 ≠ a / 64 := by omega
      unfold State.byteAt
      rw [show tget (fun _ => 0) (((s.bump F.cntSitewrBytes (wordSite (a / 64)) 64).putBytes a bs).setDev (a / 64) 0).ecc (b / 64) =
          tget (fun _ => 0) s.ecc (b / 64) from by
        rw [State.setDev_ecc, State.putBytes_ecc]
        exact tget_tset_ne _ _ _ _ hne]
      rw [show (((s.bump F.cntSitewrBytes (wordSite (a / 64)) 64).putBytes a bs).setDev (a / 64) 0).rawByte b = s.rawByte b from
        State.rawByte_putBytes_out (s.bump F.cntSitewrBytes (wordSite (a / 64)) 64) a bs hb]
    · have e : ((s.bump F.cntSitewrBytes (wordSite (a / 64)) 64).decodeWord (a / 64) 1).byteAt b = s.byteAt b :=
        (State.byteAt_decodeWord hB _ _ _).trans (State.byteAt_congr rfl rfl b)
      rw [← e]
      unfold State.byteAt
      rw [State.putBytes_ecc, State.rawByte_putBytes_out _ a bs hb]

theorem State.writeWord_canon {s : State} (h : s.canon = true) (a : Nat) (bs : List Byte) : (s.writeWord a bs).canon = true :=
  (State.writeWord_kept (E := memFx) s a bs (Kept.refl s) (by simp [memFx]) (by simp [memFx]) (by simp [memFx]) (by simp [memFx])
    (by simp [memFx]) (by simp [memFx]) (by simp [memFx]) (by simp [memFx]) (by simp [memFx])).2 h

theorem State.byteAt_writeFrom_out {s : State} (h : s.canon = true) (f a : Nat) (bs : List Byte) {b : Nat} (hb : b < a ∨ a + bs.length ≤ b) :
    (s.writeFrom f a bs).byteAt b = s.byteAt b := by
  induction f generalizing s a bs with
  | zero => rfl
  | succ f ih =>
    unfold State.writeFrom
    dsimp only
    split
    · rfl
    · have hlt := Nat.mod_lt a (show 0 < 64 by decide)
      have h1 := State.byteAt_writeWord_out h a (bs.take (64 - a % 64)) (b := b) (by simp only [List.length_take]; omega)
        (by simp only [List.length_take]; omega)
      refine (ih (State.writeWord_canon h _ _) (a + (64 - a % 64)) (bs.drop (64 - a % 64)) ?_).trans h1
      simp only [List.length_drop]
      omega

/-- A write leaves every byte outside the bytes written as it was delivered. -/
theorem State.byteAt_writeBytes_out {s : State} (h : s.canon = true) (a : Nat) (bs : List Byte) {b : Nat} (hb : b < a ∨ a + bs.length ≤ b) :
    (s.writeBytes a bs).byteAt b = s.byteAt b :=
  State.byteAt_writeFrom_out h _ a bs hb

/-- A write of bytes inside one clean word of a site that is not lost delivers them. -/
theorem State.byteAt_writeWord_in {s : State} (h : s.canon = true) (a : Nat) (bs : List Byte) {k : Nat} (hk : k < bs.length)
    (ha : a % 64 + bs.length ≤ 64) (hl : s.siteLost (wordSite (a / 64)) = false) (hc : tget (fun _ => 0) s.ecc (a / 64) = 0) :
    (s.writeWord a bs).byteAt (a + k) = bs.getD k 0 := by
  have hm : Memory.wf s.mem = true := (State.canon_iff.1 h).1
  have he : rises s.ecc = true := twf_rises (State.canon_iff.1 h).2.1
  have hw : (a + k) / 64 = a / 64 := by omega
  have hs : (s.bump F.cntSitewrBytes (wordSite (a / 64)) 64).siteLost (wordSite (a / 64)) = false := by
    unfold State.siteLost State.bump at *
    rw [State.getF_setF_place s _ _ _ (by decide)]
    exact hl
  have hd : (s.bump F.cntSitewrBytes (wordSite (a / 64)) 64).decodeWord (a / 64) 1 = s.bump F.cntSitewrBytes (wordSite (a / 64)) 64 := by
    unfold State.decodeWord
    dsimp only
    rw [hs, State.bump_ecc, hc, classify_zero]
    rfl
  have raw : ∀ t : State, tget (fun _ => 0) t.ecc ((a + k) / 64) = 0 → t.byteAt (a + k) = t.rawByte (a + k) := by
    intro t ht
    unfold State.byteAt
    rw [ht, classify_zero]
  have put := State.rawByte_putBytes_in (s := s.bump F.cntSitewrBytes (wordSite (a / 64)) 64) hm a bs hk
  unfold State.writeWord
  dsimp only
  rw [hs]
  simp only [Bool.false_eq_true, if_false]
  split
  · rw [raw _ (by rw [State.setDev_ecc, State.putBytes_ecc, hw]; exact tget_tset_same _ _ _ _ he)]
    exact put
  · rw [hd, raw _ (by rw [State.putBytes_ecc, hw]; exact hc)]
    exact put

end Sys2Proof.Machine
end

