-- ==== Sys2Proof/Laws/Issue.lean ====
section
/-!
SUPPORT. Laws/Issue.lean: what issuing a command, rejecting it, latching waits and completing it do to the tracked commands.
-/
namespace Sys2Proof.Machine

variable {s : State} {q : Nat} {c0 : Cmd} {p : Plan} {ws : List Nat} {r : IssueRow}

/-- A row whose command passes its checks goes on with it. -/
theorem IssueRow.issue_ok (h : r.Has s q c0 (.ok p) ws) (go : State → Cmd → State) :
    s.issue q r.mine r.check go = go (s.readWords ws.eraseDups) (issued s c0 p) := by
  obtain ⟨a, b, c, d⟩ := h
  simp [State.issue, a, b, c, d, issued]

/-- A row whose command fails a check rejects it. -/
theorem IssueRow.issue_error {e : Rej} (h : r.Has s q c0 (.error e) ws) (go : State → Cmd → State) :
    s.issue q r.mine r.check go = (s.readWords ws.eraseDups).rejectCmd (s.sample c0) e := by
  obtain ⟨a, b, c, d⟩ := h
  simp [State.issue, a, b, c, d]

/-- A command that may issue waits for nothing, so no lost counter ends it. -/
theorem State.lostWait_none (h : s.oldest? q = some c0) (w : s.mayIssue c0 = true) : s.lostWait q = none := by
  have hs : c0.satisfied = true := by
    simp only [State.mayIssue, Bool.and_eq_true] at w
    exact w.1.1.1
  simp [State.lostWait, h, hs]

/-- The oldest unissued command is tracked. -/
theorem State.oldest_cmd (h : s.oldest? q = some c0) : ∃ d, s.cmd? c0.id = some d := by
  have m := List.mem_of_find?_eq_some h
  cases e : s.cmd? c0.id with
  | some d => exact ⟨d, rfl⟩
  | none =>
    have := List.find?_eq_none.1 e c0 m
    simp at this

/-- Latching waits leaves a command that has issued. -/
theorem State.cmd_latchWaits {k : Nat} {c : Cmd} (h : s.cmd? k = some c) (w : c.st ≠ .fetched) : s.latchWaits.cmd? k = some c := by
  unfold State.cmd? State.latchWaits at *
  dsimp only
  generalize s.oldest? = ol
  revert h
  generalize s.cmds = cs
  intro h
  induction cs with
  | nil => simp at h
  | cons x cs ih =>
    rw [List.map_cons, List.find?_cons]
    rw [List.find?_cons] at h
    by_cases e : x.id == k
    · have hx : x = c := by simpa [e] using h
      subst hx
      have : (x.st != .fetched) = true := by simpa using w
      simp [this, e]
    · have e' : (x.id == k) = false := by simpa using e
      rw [e'] at h
      have hid : ∀ y : Cmd, y.id = x.id → (y.id == k) = false := fun y hy => by rw [hy]; exact e'
      split
      · next h1 =>
        exfalso
        revert h1
        split <;> simp [e']
      · exact ih h

/-- A tracked command that is set and is past its waits is found after latching. -/
theorem State.cmd_setCmd_latch {c d : Cmd} (h : s.cmd? c.id = some d) (w : c.st ≠ .fetched) : (s.setCmd c).latchWaits.cmd? c.id = some c :=
  State.cmd_latchWaits (State.cmd_setCmd_same h) w

/-- Equal lists of commands are searched alike. -/
theorem State.cmd_congr {t : State} (h : t.cmds = s.cmds) (k : Nat) : t.cmd? k = s.cmd? k := by
  unfold State.cmd?
  rw [h]

/-- A completed command is tracked no longer. -/
theorem State.cmd_finishCmd (s : State) (c : Cmd) : (s.finishCmd c).cmd? c.id = none := by
  unfold State.finishCmd State.cmd? State.latchWaits State.dropCmd
  dsimp only
  rw [List.find?_eq_none]
  intro x hx
  rw [List.mem_map] at hx
  obtain ⟨y, hy, rfl⟩ := hx
  have hy' := (List.mem_filter.1 hy).2
  have hne : y.id ≠ c.id := by simpa using hy'
  split <;> simp [hne]

theorem State.cmd_completeCmd (s : State) (c : Cmd) : (s.completeCmd c).cmd? c.id = none := State.cmd_finishCmd _ _

end Sys2Proof.Machine
end

