-- ==== Sys2Proof/WellFormed.lean ====
section
/-!
DEFINITION. WellFormed.lean: the operands of a command name things that the device has: queues 0–4,095 (R394), contexts 0–1,023, clusters 0–799,
sites 0–47, ports 0–11, and so on. A command whose operand names nothing is ill-formed. A step does not check it: its meaning says what such a command does [Log 4].
-/
namespace Sys2Proof

/-- An operand below a bound. -/
def lt (a b : Nat) : Bool := decide (a < b)

/-- A queue number (R394). -/
def isQueue (q : Nat) : Bool := lt q 4096

/-- A value of a 64-bit access. -/
def isWord (v : Nat) : Bool := lt v 0x10000000000000000

/-- A PCIe function 0–63, or the management bus. -/
def Acr.wf (a : Acr) : Bool :=
  match a with
  | .fn n => lt n 64
  | .mb => true

/-- The operands of the command name things that the device has. -/
def Instr.wf (i : Instr) : Bool :=
  match i with
  | .commandFetch q bytes => isQueue q && decide (bytes.length ≤ 64)
  | .nop q => isQueue q
  | .mma q => isQueue q
  | .chain q => isQueue q
  | .attn q => isQueue q
  | .attnRingStep q seq => isQueue q && lt seq 0x100000000
  | .conv q => isQueue q
  | .maxpool q => isQueue q
  | .avgpool q => isQueue q
  | .upnearest q => isQueue q
  | .uplinear q => isQueue q
  | .stage q => isQueue q
  | .add q => isQueue q
  | .sub q => isQueue q
  | .mul q => isQueue q
  | .fma q => isQueue q
  | .max q => isQueue q
  | .min q => isQueue q
  | .abs q => isQueue q
  | .neg q => isQueue q
  | .cmp q => isQueue q
  | .select q => isQueue q
  | .convert q => isQueue q
  | .func q => isQueue q
  | .iadd q => isQueue q
  | .isub q => isQueue q
  | .imul q => isQueue q
  | .iand q => isQueue q
  | .ior q => isQueue q
  | .ixor q => isQueue q
  | .ishl q => isQueue q
  | .ishr q => isQueue q
  | .rsum q => isQueue q
  | .rmax q => isQueue q
  | .rmin q => isQueue q
  | .argmax q => isQueue q
  | .argmin q => isQueue q
  | .iscan q => isQueue q
  | .sfpRun q => isQueue q
  | .sfpLoad q => isQueue q
  | .imageInstall cluster => lt cluster 800
  | .move q => isQueue q
  | .gather q => isQueue q
  | .scatter q => isQueue q
  | .croprs q => isQueue q
  | .rngfill q => isQueue q
  | .sample q => isQueue q
  | .kvfork q => isQueue q
  | .kvfreeTruncate q => isQueue q
  | .kvfreeEvict q => isQueue q
  | .kvprefetch q => isQueue q
  | .wait q => isQueue q
  | .signal q => isQueue q
  | .fence q => isQueue q
  | .mark q => isQueue q
  | .dump q => isQueue q
  | .zsend q => isQueue q
  | .flread q => isQueue q
  | .flwriteSpill q => isQueue q
  | .flwriteBegin q => isQueue q
  | .flwriteData q => isQueue q
  | .flwriteCommit q => isQueue q
  | .flwriteAbandon q => isQueue q
  | .partStart cluster unit => lt cluster 800 && lt unit 3
  | .mergeSlotGrant cluster => lt cluster 800
  | .partComplete cluster q seq => lt cluster 800 && isQueue q && lt seq 0x100000000
  | .commandComplete q seq => isQueue q && lt seq 0x100000000
  | .completionRecordWrite q => isQueue q
  | .contextTeardown ctx => lt ctx 1024
  | .watchdogCheck => true
  | .shtTok acr n v => acr.wf && lt n 65536 && isWord v
  | .shtTokadd acr n v => acr.wf && lt n 65536 && isWord v
  | .zlkArr acr n v => acr.wf && lt n 4096 && isWord v
  | .registerWrite acr set _ addr size v => acr.wf && lt set 64 && isWord addr && lt size 0x100000000 && isWord v
  | .contextCreate acr set v => acr.wf && lt set 64 && isWord v
  | .contextDestroy acr set v => acr.wf && lt set 64 && isWord v
  | .contextReset acr set v => acr.wf && lt set 64 && isWord v
  | .contextResetEnd ctx => lt ctx 1024
  | .queueDisable acr set v _ => acr.wf && lt set 64 && isWord v
  | .queueCreate acr set v => acr.wf && lt set 64 && isWord v
  | .queueDestroy acr set v => acr.wf && lt set 64 && isWord v
  | .pciSqdb fn q v => lt fn 64 && isQueue q && isWord v
  | .pciCqdb fn q v => lt fn 64 && isQueue q && isWord v
  | .qfetchFailure q => isQueue q
  | .apertureRead fn addr _ => lt fn 64 && isWord addr
  | .apertureWrite fn addr _ _ => lt fn 64 && isWord addr
  | .interruptModerationTimer _ n => isQueue n
  | .pcieLaneFail lane width => lt lane 16 && (width == 8 || width == 4)
  | .functionLevelReset fn rings => lt fn 64 && (rings.all fun e => isQueue e.1)
  | .partitionReset acr v => acr.wf && isWord v
  | .deviceReset src => (match src with | none => true | some e => e.1.wf && isWord e.2)
  | .kvtInit acr p v => acr.wf && lt p 16 && isWord v
  | .agentMap p _ _ => lt p 16
  | .kvCommit q seq => isQueue q && lt seq 0x100000000
  | .kvFetch p => lt p 16
  | .kvEvictEntry p => lt p 16
  | .agentTakeover p => lt p 16
  | .siteRead w => lt w 0xC00000000
  | .siteWrite w bytes => lt w 0xC00000000 && bytes.length == 64
  | .sitePartialWrite w mask bytes => lt w 0xC00000000 && isWord mask && bytes.length == 64
  | .poisonWrite addr _ => isWord addr
  | .scrubStep site => lt site 48
  | .mr4Poll site _ => lt site 48
  | .refresh site => lt site 48
  | .siteLost site => lt site 48
  | .memClear acr v => acr.wf && isWord v
  | .memMargin acr v => acr.wf && isWord v
  | .memOpComplete _ => true
  | .programComplete _ => true
  | .grownBadBlock _ ch lun _ => lt ch 32 && lt lun 512
  | .wearLevelMove _ _ => true
  | .retentionPatrol region _ _ _ ch lun _ => lt region 1024 && lt ch 32 && lt lun 512
  | .lunFail lun => lt lun 512
  | .doubleLunFail lun lost => lt lun 512 && (lost.all fun e => lt e.1 1024)
  | .rebuildComplete => true
  | .holdupMeasure volts => lt volts 16384
  | .holdupProbe _ => true
  | .flitReceive port flit _ _ _ => lt port 12 && flit.length == 256
  | .nak port flit _ _ _ => lt port 12 && flit.length == 256
  | .replayTimeout port => lt port 12
  | .wr port => lt port 12
  | .wrPerformed port wid => lt port 12 && lt wid 0x10000
  | .wack port => lt port 12
  | .elect port => lt port 12
  | .electionTick => true
  | .electionEnd => true
  | .topo port _ => lt port 12
  | .number port _ => lt port 12
  | .formed port => lt port 12
  | .fgreport port => lt port 12
  | .fgreportTick => true
  | .fgswitch port => lt port 12
  | .fgswitchInstant => true
  | .glostTimeout => true
  | .tbstart port => lt port 12
  | .tbprobe port => lt port 12
  | .tbreply port => lt port 12
  | .tbprobeRetry => true
  | .tbset port => lt port 12
  | .tbdone port => lt port 12
  | .sweepTimerExpiry => true
  | .rateTrimProbe => true
  | .tmbCtlSweep acr v => acr.wf && isWord v
  | .laneFault port lane => lt port 12 && lt lane 8
  | .widthChange port flit _ _ _ => lt port 12 && flit.length == 256
  | .linkLoss port _ => lt port 12
  | .trainingStepTimeout port step => lt port 12 && lt step 6
  | .linkUp port serial peer role reach evt faulty _ pol => lt port 12 && lt serial 0x100000000000000 && lt peer 12 && lt role 2 && lt reach 2 && lt evt 0x100000000 && lt faulty 256 && lt pol 256
  | .retrainLimit port => lt port 12
  | .retrain acr port v => acr.wf && lt port 12 && isWord v
  | .form acr v => acr.wf && isWord v
  | .eyeScan acr v => acr.wf && isWord v
  | .eyeScanComplete height width => lt height 65536 && lt width 65536
  | .streamOpen acr set v => acr.wf && lt set 64 && isWord v
  | .streamClose acr set v => acr.wf && lt set 64 && isWord v
  | .streamDisable acr set v => acr.wf && lt set 64 && isWord v
  | .engdis acr engine v => acr.wf && lt engine 8 && isWord v
  | .cdcFdb fn stream v => lt fn 64 && lt stream 256 && isWord v
  | .cdcCdb fn stream v => lt fn 64 && lt stream 256 && isWord v
  | .frameFetch stream bytes => lt stream 256 && decide (bytes.length ≤ 128)
  | .frameStart engine => lt engine 8
  | .blockRow engine _ => lt engine 8
  | .frameDeadline stream => lt stream 256
  | .frameRecordWrite stream => lt stream 256
  | .codecHwError engine => lt engine 8
  | .onReqRise => true
  | .onReqFall => true
  | .pwrfailNFall => true
  | .pwrfailNRise => true
  | .mbPowerRequest acr _ => acr.wf
  | .powerPhaseUp w => (w.sites.all fun e => lt e.site 48) && w.noRef.all fun k => lt k 3
  | .powerPhaseDown => true
  | .phaseBoundOverrun rail => lt rail 14
  | .imageAliveTimeout => true
  | .standbyRise => true
  | .strapSample mbaddr bfclk _ => lt mbaddr 8 && lt bfclk 4
  | .imageWrite acr v _ => acr.wf && isWord v
  | .raiseMinsecver acr v => acr.wf && isWord v
  | .amendmentSubmit acr v _ => acr.wf && isWord v
  | .amendmentDiscard acr v => acr.wf && isWord v
  | .amendmentApply => true
  | .powerControlStep _ _ _ _ _ _ => true
  | .clockSwitch island => lt island 4
  | .sensorRead _ => true
  | .currentTrip island => lt island 4
  | .slopeTick _ => true
  | .extthrNFall => true
  | .extthrRelease => true
  | .pwrCap acr v => acr.wf && isWord v
  | .sysclkLoss => true
  | .pgFall rail => lt rail 14
  | .arrayCheckFail cluster q seq column why addr => lt cluster 800 && isQueue q && lt seq 0x100000000 && lt column 256 && lt why 4 && isWord addr
  | .sfuPipeParity cluster pipe q seq => lt cluster 800 && lt pipe 32 && isQueue q && lt seq 0x100000000
  | .lbfEcc cluster bank _ row off syn _ q seq => lt cluster 800 && lt bank 256 && lt row 0x10000 && isWord off && isWord syn && isQueue q && lt seq 0x100000000
  | .retireCluster acr v => acr.wf && isWord v
  | .clearRetirementList acr v => acr.wf && isWord v
  | .straitLaneFail strait lane => lt strait 8 && lt lane 16
  | .islandLoss island why => lt island 4 && (why == 1 || why == 2)
  | .hmlock => true
  | .hbdie => true
  | .erqPop acr v => acr.wf && isWord v
  | .bundleLoad acr v _ _ => acr.wf && isWord v
  | .bundleStop acr v => acr.wf && isWord v
  | .fleetTestItem cluster crc => lt cluster 800 && isWord crc
  | .cntTrcfg acr p v => acr.wf && lt p 16 && isWord v
  | .cntTrptr acr p v => acr.wf && lt p 16 && isWord v
  | .btest => true
  | .trstNFall => true
  | .flashReadComplete _ _ _ ch lun _ => lt ch 32 && lt lun 512
  | .amendmentCommit => true
  | .imageWriteComplete => true
  | .partitionResetEnd => true
  | .standbyFall => true
  | .accumulatorStoreError cluster => lt cluster 800
  | .differentInstructionLoad => true

end Sys2Proof
end

