-- ==== Sys2Proof/Tests/Slice0.lean ====
section
/-!
SUPPORT. Tests/Slice0.lean: tests with results from the spec, ill-formed commands, and for every statement with hypotheses states and operands that meet them, clause by
clause (the theorems named after the statements).
-/
set_option Elab.async false
open Sys2Proof Sys2Proof.Machine

namespace Sys2Proof.Tests

/-- The reset state with some fields set. -/
def mk (l : List (Fld × Nat × Nat)) : State := l.foldl (fun s e => s.setF e.1 e.2.1 e.2.2) State.reset

/-- `n` bytes with values at byte offsets. -/
def blk (n : Nat) (l : List (Nat × Nat)) : List Byte := leBytes n (l.foldl (fun a e => a + e.2 <<< (8 * e.1)) 0)

/-- A descriptor (Table 4-4): BASE, FMT, RANK, the five sizes, the first stride. -/
def dsc (base fmt rank : Nat) (sizes : List Nat) (stride : Nat) : List Byte :=
  blk 64 ([(0, base), (6, fmt + 16 * rank), (28, stride)] ++ sizes.zipIdx.map fun e => (8 + 4 * e.2, e.1))

/-- A tensor of one element. -/
def one (base fmt : Nat) : List Byte := dsc base fmt 1 [1, 1, 1, 1, 1] 0

/-- A state whose memory holds these bytes and nothing else; addresses rise. -/
def place (l : List (Nat × List Byte)) (s : State) : State :=
  { s with mem := l.flatMap fun w => (w.2.zipIdx.map fun b => (w.1 + b.2, b.1)).filter fun c => c.2 != 0 }

/-- A command of queue 0 and context 0, number 5, fetched and free of waits. -/
def cmd (l : List (Nat × Nat)) : Cmd :=
  { id := 5, q := 0, ctx := 0, seq := 0, bytes := blk 64 l, span := [], st := .fetched, waits := [true, true, true, true], openAt := none, ftz := false,
    compat := false, lseed := 0, lsalt := 0, plan := Plan.none, parts := [], tiles := [], status := 0, dslot := 0, dfield := 0, addr := 0, flush := false,
    poisoned := false, bad := [], armed := [], ring := 0, ready := false }

/-- Site 0 trained and owned by partition 0, context 0 ACTIVE with a share of 256 units; ports 0 and 1 and 16 tokens and arrival counters granted. -/
def baseFields : List (Fld × Nat × Nat) :=
  [(F.memStatusState, 0, 2), (F.memStatusOwner, 0, 0), (F.shtCtxstatState, 0, 1), (F.shtCtxstatShare, 0, 256), (F.shtTokallocTokcount, 0, 16),
   (F.zlkArrallocArrcount, 0, 16), (F.chtPartLinks, 0, 3), (F.kvtSlotsSlotcount, 0, 16)]

/-- The reset state with those fields and some more; context 0 has reach 0. -/
def baseWith (l : List (Fld × Nat × Nat)) : State := { mk (baseFields ++ l) with ctxs := [(0, { Context.free with reaches := [0] })] }
def base : State := baseWith []

/-- The base state with command `c` in flight. -/
def withCmd (s : State) (c : Cmd) : State := { s with cmds := [c] }

/-- Row `r` has `c` to issue in queue 0, and its checks pass. -/
def passes (r : IssueRow) (s : State) (c : Cmd) : Bool :=
  s.oldest? 0 == some c && r.mine c && s.mayIssue c && (match ((r.check s (s.sample c)).run.run []).1 with | .ok _ => true | .error _ => false)

/-- Row `r` has `c` to issue in queue 0, and a check fails. -/
def fails (r : IssueRow) (s : State) (c : Cmd) : Bool :=
  s.oldest? 0 == some c && r.mine c && s.mayIssue c && (match ((r.check s (s.sample c)).run.run []).1 with | .ok _ => false | .error _ => true)

/-! ### Ill-formed commands, one for each check -/

/-- Commands whose operands stand at the upper end of what the device has: each is well-formed. -/
def wellFormed : List Instr :=
  [.commandFetch 4095 (leBytes 64 0), .attnRingStep 4095 0xFFFFFFFF, .imageInstall 799, .partStart 799 2, .contextTeardown 1023, .shtTok (.fn 63) 65535 0xFFFFFFFFFFFFFFFF,
   .zlkArr .mb 4095 0, .contextCreate .mb 63 0, .pciSqdb 63 4095 0, .pcieLaneFail 15 8, .pcieLaneFail 15 4, .functionLevelReset 63 [(4095, [])], .deviceReset none,
   .kvtInit .mb 15 1, .siteRead 0xBFFFFFFFF, .siteWrite 0 (leBytes 64 0), .scrubStep 47] ++
  [.grownBadBlock true 31 511 0, .retentionPatrol 1023 0 0 false 31 511 0, .doubleLunFail 511 [(1023, [])], .holdupMeasure 16383, .flitReceive 11 (leBytes 256 0) false 0 0,
   .wrPerformed 11 65535, .laneFault 11 7, .trainingStepTimeout 11 5, .linkUp 11 0 11 1 1 0xFFFFFFFF 255 true 255, .eyeScanComplete 65535 65535, .engdis .mb 7 1,
   .cdcFdb 63 255 0, .frameFetch 255 (leBytes 128 0), .phaseBoundOverrun 13, .strapSample 7 3 true, .clockSwitch 3] ++
  [.arrayCheckFail 799 4095 0xFFFFFFFF 255 3 0, .sfuPipeParity 799 31 4095 0, .lbfEcc 799 255 0 65535 0 0 true 0 0, .straitLaneFail 7 15, .islandLoss 3 1, .islandLoss 3 2,
   .fleetTestItem 799 0]

/-- The same with one operand a step too large, or of a wrong length: none is. -/
def illFormed : List Instr :=
  [.commandFetch 4096 [], .commandFetch 0 (leBytes 65 0), .attnRingStep 0 0x100000000, .imageInstall 800, .partStart 0 3, .contextTeardown 1024, .shtTok (.fn 64) 0 0,
   .shtTok .mb 65536 0, .shtTok .mb 0 0x10000000000000000, .zlkArr .mb 4096 0, .contextCreate .mb 64 0, .pciSqdb 64 0 0, .pcieLaneFail 16 8, .pcieLaneFail 0 5,
   .functionLevelReset 0 [(4096, [])], .deviceReset (some (.fn 64, 0)), .kvtInit .mb 16 1, .siteRead 0xC00000000, .siteWrite 0 [], .scrubStep 48] ++
  [.grownBadBlock true 32 0 0, .grownBadBlock true 0 512 0, .retentionPatrol 1024 0 0 false 0 0 0, .doubleLunFail 0 [(1024, [])], .holdupMeasure 16384, .flitReceive 12 (leBytes 256 0) false 0 0,
   .flitReceive 0 [] false 0 0, .wrPerformed 0 65536, .laneFault 0 8, .trainingStepTimeout 0 6, .linkUp 0 (2 ^ 56) 0 0 0 0 0 false 0, .linkUp 0 0 12 0 0 0 0 false 0,
   .linkUp 0 0 0 2 0 0 0 false 0, .linkUp 0 0 0 0 2 0 0 false 0, .linkUp 0 0 0 0 0 0x100000000 0 false 0, .linkUp 0 0 0 0 0 0 256 false 0, .linkUp 0 0 0 0 0 0 0 false 256] ++
  [.eyeScanComplete 65536 0, .eyeScanComplete 0 65536, .engdis .mb 8 1, .cdcFdb 0 256 0, .frameFetch 0 (leBytes 129 0), .phaseBoundOverrun 14, .strapSample 8 0 true,
   .strapSample 0 4 true, .clockSwitch 4, .arrayCheckFail 0 0 0 256 0 0, .arrayCheckFail 0 0 0 0 4 0, .sfuPipeParity 0 32 0 0, .lbfEcc 0 256 0 0 0 0 true 0 0,
   .lbfEcc 0 0 0 65536 0 0 true 0 0, .straitLaneFail 8 0, .straitLaneFail 0 16, .islandLoss 4 1, .islandLoss 0 3, .fleetTestItem 0 0x10000000000000000]

theorem test_well_formed : wellFormed.all Instr.wf = true := by decide +kernel
theorem test_ill_formed : illFormed.all (fun i => !i.wf) = true := by decide +kernel

/-! ### Examples of the spec -/

/-- A conversion of m × 2^e: saturating, to nearest, without a flush. -/
def enc (f : Fmt) (m : Nat) (e : Int) : Nat := (encodeElem false .rne none f (.fin false m e)).1

/-- Chapter 1: where cluster 517 lies. Chapter 2: the packing of four MXFP6 elements; the MXFP4 block of 10.3, −0.7, 0.2 and 2.5. -/
theorem test_cluster_517 : clusterIsland 517 = 2 ∧ clusterReach 517 = 51 := by decide
theorem test_mxfp6_packing : packBytes 6 [0x0D, 0x21, 0x3F, 0x00] = [0x4D, 0xF8, 0x03] := by decide
theorem test_mxfp4_block :
    (mxBlock false .rne .mxE2m1 ([0x4124CCCD, 0xBF333333, 0x3E4CCCCD, 0x40200000].map fun v => (f32 v, 0))) = (0x80, [0x7, 0x9, 0x0, 0x2], 0) := by decide +kernel

/-- Chapter 2: a widening; stochastic rounding to BF16; overflow; the flush rules at an FP16 store. -/
theorem test_widening : decodeElem .e4m3 0xD5 = .fin true 13 0 ∧ elemLen 2 13 = 2 := by decide +kernel
theorem test_stochastic_bf16 :
    (encodeElem false ⟨false, false, true⟩ (some 0x4A21) .bf16 (.fin false 1027 (-10))).1 = 0x3F81 ∧
    (encodeElem false ⟨false, false, true⟩ (some 0x9C40) .bf16 (.fin false 1027 (-10))).1 = 0x3F80 := by decide +kernel
theorem test_overflow :
    enc .e4m3 500 0 = 0x7E ∧ (encodeElem false ⟨false, true, false⟩ none .e4m3 (.fin false 500 0)).1 = 0x7F ∧ enc .e5m2 500 0 = 0x60 ∧
    enc .e5m2 70000 0 = 0x7B ∧ (encodeElem false ⟨false, true, false⟩ none .e5m2 (.fin false 70000 0)).1 = 0x7C := by decide +kernel
theorem test_flush_fp16 :
    encodeElem true .rne none .fp16 (.fin false 3 (-16)) = (0, 1) ∧ encodeElem true .rne none .fp16 (.fin false 4095 (-26)) = (0x0400, 0) ∧
    encodeElem false .rne none .fp16 (.fin false 3 (-16)) = (0x0300, 0) := by decide +kernel

/-- Chapter 3: lengths of significands of FP16 and FP8; the window of a chunk sum. -/
theorem test_digit_lengths : [1024, 1536, 1280, 0, 1638].map (elemLen 6) = [1, 2, 2, 0, 6] ∧ [8, 12].map (elemLen 2) = [1, 1] := by decide +kernel
theorem test_chunk_window : (f32Bits false (chunkSum false [.fin false 1 0, .fin false 1 (-24), .fin false 1 (-60)]).1).1 = 0x3F800000 := by decide +kernel

/-- Chapter 6: exp2(0.5); the softplus program, its weight and its results for 0 and 20. -/
theorem test_exp2_half : (f32Bits false (sfuExp2 (.fin false 1 (-1)))).1 = 0x3FB504F3 := by decide +kernel

def softplus : List Byte :=
  blk 704 [(0, 1), (4, 1), (65, 8), (576, 0x0D), (588, 0x07), (589, 0x18), (590, 0x80), (592, 0x0E), (593, 1),
    (608, 0x03), (612, 0x3FB8AA3B), (624, 0x0F), (640, 0x04), (644, 0x3F800000), (656, 0x0F), (660, 2), (672, 0x03), (676, 0x3F317218),
    (688, 0x0C), (690, 0x11), (691, 0x30), (692, 0x41A00000)]

theorem test_softplus_cost : progWeight softplus 0 = 22 ∧ progCycles softplus 0 = 3 ∧ progBad softplus 0 = false := by decide +kernel
theorem test_softplus : (f32Bits false (progRun false softplus 0 .zero)).1 = 0x3F317218 ∧ (f32Bits false (progRun false softplus 0 (.fin false 20 0))).1 = 0x41A00000 := by decide +kernel

/-- Chapter 4: the FP32 product of 100 rows, 1,000 and 300 at a share of 128 KiB on one reach: tiles of 32 rows, single buffered, 28 units, 8,254 array cycles. -/
def product : Cmd := cmd [(0, 1), (32, 0x1040), (38, 0x1080), (44, 0x1000)]
def productState : State :=
  let s := place [(0x1000, blk 64 [(0, 0x100000), (6, 0x20), (8, 300), (12, 100), (16, 1), (20, 1), (24, 1), (28, 1200)]),
                  (0x1040, blk 64 [(0, 0x200000), (6, 0x20), (8, 1000), (12, 100), (16, 1), (20, 1), (24, 1), (28, 4000)]),
                  (0x1080, blk 64 [(0, 0x300000), (6, 0x20), (8, 1000), (12, 300), (16, 1), (20, 1), (24, 1), (28, 4000)])] (baseWith [(F.shtCtxstatShare, 0, 32)])
  withCmd s product
def productPlan : Plan :=
  match exec (.mma 0) productState with
  | .next t => ((t.cmd? 5).map (·.plan)).getD Plan.none
  | _ => Plan.none
theorem test_product_tiles :
    productPlan.tm = 32 ∧ productPlan.single = true ∧ productPlan.units = 28 ∧ productPlan.count = 8254 ∧ productPlan.walk.tu = 4 ∧ productPlan.walk.tv = 3 := by
  decide +kernel

/-- Chapter 12: the token wait across the wrap. Chapter 14: the hold-up limit at 12.00 V and at 8.00 V (236 MB are 225 MiB). -/
theorem test_token_wrap :
    (mk [(F.shtTokValue, 300, 0xFFFFFFFE)]).tokenSat 300 1 = false ∧ (mk [(F.shtTokValue, 300, 2)]).tokenSat 300 1 = true := by decide +kernel
theorem test_stage_limit :
    let s := mk [(F.fltHupcfgCapmf, 0, 500), (F.fltHupcfgVmin, 0, 600), (F.fltHupcfgPflush, 0, 180), (F.fltHupcfgFlushrate, 0, 800), (F.fltHupcfgStagecap, 0, 512)]
    s.stageLim 1200 = 512 ∧ s.stageLim 800 = 225 := by decide +kernel

/-- A step with one command in the queue. -/
def after (i : Instr) (s : State) : State :=
  match step { s with pending := [i] } with
  | .next t => t
  | _ => s

/-- Chapter 12: SIGNAL's addition wraps (R299). Chapter 16: the doorbell over the wrap, and the one that claims too much (R398). -/
theorem test_tokadd_wraps : (after (.shtTokadd (.fn 0) 15 4) (baseWith [(F.shtTokValue, 15, 0xFFFFFFFE)])).getF F.shtTokValue 15 = 2 := by decide +kernel
theorem test_doorbell_wrap :
    let s := { mk [(F.pciQstatState, 0, 1), (F.pciQstatSqhead, 0, 0xFFFFFFFE)] with queues := [(0, { Queue.free with sqLog2 := 8, sqTail := 0xFFFFFFFE })] }
    ((after (.pciSqdb 0 0 2) s).queue 0).sqTail = 2 ∧ (after (.pciSqdb 0 0 0x200) s).getF F.pciQstatQerr 0 = 1 ∧
    ((after (.pciSqdb 0 0 0x200) s).queue 0).sqTail = 0xFFFFFFFE := by decide +kernel

/-- A command comes off the queue; the others stay (R93). -/
theorem test_step_takes_the_front : (match step { State.reset with pending := [.refresh 0, .hmlock] } with | .next t => t.pending | _ => []) = [.hmlock] := by decide +kernel

/-- Chapter 13: a write, a masked write and a read of a word; poison is merged, not cleared (R325, Table 13-4). -/
theorem test_masked_write : (after (.sitePartialWrite 64 0x2 (leBytes 64 0xAABB)) (after (.siteWrite 64 (leBytes 64 0x1122)) base)).byteAt 0x1001 = 0xAA := by decide +kernel
theorem test_poison_stays : ((after (.sitePartialWrite 64 0x2 (leBytes 64 0)) (after (.poisonWrite 0x1000 64) base)).wordClass 64).isPoison = true ∧
    ((after (.siteWrite 64 (leBytes 64 0)) (after (.poisonWrite 0x1000 64) base)).wordClass 64).isPoison = false := by decide +kernel

/-- Chapter 19: ON_REQ starts phase 1; it ends in phase 1, and phase 2 begins (R472). -/
theorem test_power_on :
    (after .onReqRise State.reset).flag F.hbmPwrstatDir 0 = true ∧ (after (.powerPhaseUp ⟨[], none, []⟩) (after .onReqRise State.reset)).phase = 1 ∧
    (after (.powerPhaseUp ⟨[], none, []⟩) (after .onReqRise State.reset)).seqr.moving = true := by decide +kernel

/-- Chapter 21: a record's place in the queue; a pop by another RSEQ does nothing (R506). -/
theorem test_hmlock_record : (after .hmlock State.reset).erq.length = 1 ∧ (after .hmlock State.reset).rseq = 1 ∧
    (after (.erqPop (.fn 0) 9) (after .hmlock State.reset)).erq.length = 1 ∧ (after (.erqPop (.fn 0) 0) (after .hmlock State.reset)).erq = [] := by decide +kernel

/-- Memory of the issue tests: four FP32 tensors of one element, four INT32 ones, four BF16 ones, a stage list with one middle stage, a stage record, a geometry
block, parameter and ring blocks, descriptors of ATTN, a program image. -/
def words : List (Nat × List Byte) :=
  [(0x1000, one 0x4000 0), (0x1040, one 0x5000 0), (0x1080, one 0x6000 0), (0x10C0, one 0x7000 0)] ++
  [(0x1100, one 0x4000 14), (0x1140, one 0x5000 14), (0x1180, one 0x6000 14), (0x11C0, one 0x7000 14)] ++
  [(0x1200, one 0x4000 2), (0x1240, one 0x5000 2), (0x1280, one 0x6000 2), (0x12C0, one 0x7000 2)] ++
  [(0x1300, blk 32 [(0, 0x03)]), (0x1400, blk 64 [(0, 1), (32, 0x03), (33, 64), (34, 2)])] ++
  [(0x1600, blk 64 [(0, 0x010101), (3, 0x010101), (6, 0x010101), (24, 1)]), (0x1640, blk 64 [(0, 0x010101), (3, 0x010101), (6, 0x010101)]),
   (0x1680, blk 64 [(9, 0x010101)])] ++
  [(0x1700, dsc 0x4000 2 2 [64, 1, 1, 1, 1] 128), (0x1740, dsc 0x5000 2 2 [64, 1, 1, 1, 1] 128), (0x1780, dsc 0x6000 2 2 [64, 1, 1, 1, 1] 128),
   (0x17C0, dsc 0x7000 2 2 [64, 1, 1, 1, 1] 128)] ++
  [(0x1900, dsc 0x4000 0 2 [1, 1, 1, 1, 1] 4), (0x1940, dsc 0x5000 14 2 [2, 1, 1, 1, 1] 8), (0x1980, one 0x6000 14)]

/-- What the descriptors that a command names need. -/
def rows (c : Cmd) : State :=
  let a := [32, 38, 44, 50, 56].map c.addrAt
  { place (words.filter fun w => a.contains w.1) base with
    clusters := (List.range 10).map fun c => (c, { Cluster.fresh with image := blk 600 [(0, 1), (4, 1), (65, 1), (576, 1)] }) }

/-- The same with a program image at 0x2000 and nothing else in memory. -/
def image : State := place [(0x2000, [1]), (0x2004, [1])] base

def vop (v : Nat) (l : List (Nat × Nat)) : Cmd := cmd ([(0, 8), (56, v)] ++ l)
/-- FP32 output, one, two and three inputs; the same over INT32; INT32 output over an FP32 input. -/
def f1 : List (Nat × Nat) := [(32, 0x1000), (38, 0x1040)]
def f2 := f1 ++ [(44, 0x1080)]
def f3 := f2 ++ [(50, 0x10C0)]
def i1 : List (Nat × Nat) := [(32, 0x1100), (38, 0x1140)]
def i2 := i1 ++ [(44, 0x1180)]
def x1 : List (Nat × Nat) := [(32, 0x1100), (38, 0x1040)]

/-- For every tiled row, in order, a command that it issues. -/
def tiledCmds : List Cmd :=
  [cmd [(0, 2), (32, 0x1200), (38, 0x1240), (44, 0x1280), (50, 0x12C0), (56, 0x1400)],
   cmd [(0, 4), (32, 0x1200), (38, 0x1240), (44, 0x1280), (56, 0x1600)]] ++
  ([1, 2].map fun o => cmd [(0, 4), (32, 0x1200), (44, 0x1280), (56, 0x1640), (62, o)]) ++
  ([3, 4].map fun o => cmd [(0, 4), (32, 0x1200), (44, 0x1280), (56, 0x1680), (62, o)]) ++
  [vop 0 (f1 ++ [(50, 0x1300)]), vop 1 f2, vop 2 f2, vop 3 f2, vop 4 f3, vop 5 f2, vop 6 f2, vop 7 f1, vop 8 f1, vop 9 f2, vop 10 f3, vop 11 f1, vop 12 f1] ++
  [vop 16 i2, vop 17 i2, vop 18 i2, vop 19 i2, vop 20 i2, vop 21 i2, vop 22 i2, vop 23 i2] ++
  [vop 0x20 f1, vop 0x21 f1, vop 0x22 f1, vop 0x23 x1, vop 0x24 x1, vop 0x25 i1] ++
  [cmd ([(0, 9)] ++ f1), cmd [(0, 9), (44, 0x2000), (50, 1)], cmd ([(0, 0x10)] ++ f1), cmd ([(0, 0x11)] ++ f1 ++ [(44, 0x1180)]),
   cmd ([(0, 0x12)] ++ f1 ++ [(44, 0x1180)]), cmd [(0, 0x13), (32, 0x1000), (38, 0x1040), (44, 0x3000)], cmd [(0, 0x18), (32, 0x1000)],
   cmd [(0, 0x19), (32, 0x1900), (38, 0x1940), (44, 0x1980), (50, 0x3000), (56, 0x3F800000)]]

/-- The state in which it does: the image load has one of its own. -/
def tiledState (c : Cmd) : State := withCmd (if c.sfpLoad && c.opcode == 9 then image else rows c) c

/-- A pool, for states whose agent is ready. -/
def pool : Pool := ⟨1, 5, 32, .bf16, .bf16, 128, 128, 64, 0, 0x10000, 0x20000, 0x30000, 0x40000, 0, 0, []⟩

/-- The base state with a ready pool, a trained flash tier, a dense region 1, a spill region 2, and port 0 in state `up`. -/
def anchors (up : Nat) : State :=
  { place [(0x1000, one 0x4000 0), (0x1A00, blk 64 [(6, 0x10), (7, 0x40), (8, 1), (12, 1), (16, 1), (20, 1), (24, 1)]),
      (0x1A40, blk 64 [(6, 0x10), (7, 0x40), (8, 1024), (12, 1), (16, 1), (20, 1), (24, 1)]), (0x1A80, dsc 0x5000 0 1 [1024, 1, 1, 1, 1] 0)]
      (baseWith [(F.kvtStateState, 0, 2), (F.fltStatusState, 0, 2), (F.chtPartFlr, 0, 1), (F.chtPartFlw, 0, 1), (F.fltRgninfoType, 1, 1),
        (F.fltRgninfoSize, 1, 4), (F.fltRgninfoType, 2, 2), (F.fltRgninfoSize, 2, 4), (F.zlkPstatState, 0, up)]) with
    agents := [(0, { Agent.fresh with pool := some pool, head := 0 })] }

/-- For every row of anchor commands, in order, a command that it issues. -/
def anchorCmds : List Cmd :=
  [cmd [], cmd [(0, 0x28)], cmd [(0, 0x29)], cmd [(0, 0x2A)], cmd [(0, 0x2B)], cmd [(0, 0x2C), (46, 1), (56, 4096)], cmd [(0, 0x20), (36, 1)], cmd [(0, 0x21)],
   cmd [(0, 0x21), (44, 1)], cmd [(0, 0x22)], cmd [(0, 0x30), (32, 0x4000), (44, 64)], cmd [(0, 0x38), (32, 0x1000), (38, 0x1A00), (44, 1)],
   cmd [(0, 0x39), (32, 0x1A40), (38, 0x1A80), (44, 2)], cmd [(0, 0x39), (44, 1), (46, 1)], cmd [(0, 0x39), (32, 0x1A40), (38, 0x1A80), (44, 1), (46, 2)],
   cmd [(0, 0x39), (44, 1), (46, 3)], cmd [(0, 0x39), (44, 1), (46, 4)]]

/-- Words of ATTN: Q, K, V, O of one head and one row, a parameter block without a ring and one with, a ring block. -/
def attns : State :=
  place [(0x1700, dsc 0x4000 2 2 [64, 1, 1, 1, 1] 128), (0x1740, dsc 0x5000 2 2 [64, 1, 1, 1, 1] 128), (0x1780, dsc 0x6000 2 2 [64, 1, 1, 1, 1] 128),
    (0x17C0, dsc 0x7000 2 2 [64, 1, 1, 1, 1] 128), (0x1800, blk 64 [(12, 0x3F800000)]), (0x1840, blk 64 [(12, 0x3F800000), (56, 0x1880)]),
    (0x1880, blk 64 [(0, 2), (4, 1), (8, 1), (10, 2), (16, 256), (24, 0x8000), (30, 0x9000), (54, 0xA000)])] (baseWith [(F.kvtSlotsRing, 0, 1)])
def attn (ring : Nat) : Cmd := cmd [(0, 3), (32, 0x1700), (38, 0x1740), (44, 0x1780), (50, 0x17C0), (56, 0x1800 + 64 * ring), (63, ring)]
def mmaCmd : Cmd := cmd [(0, 1), (32, 0x1200), (38, 0x1240), (44, 0x1280)]

/-! ### The queue, issue -/

theorem witness_StepRunsFrontCommand : { State.reset with pending := [.refresh 0] }.pending = .refresh 0 :: [] := by decide

theorem witness_IdleStepIsATick : State.reset.canon = true ∧ State.reset.pending = [] ∧ State.reset.phase < 2 ∧
    (let s : State := { State.reset with regs := (mk [(F.hbmPwrstatPhase, 0, 2)]).regs }
     s.canon = true ∧ s.pending = [] ∧ 2 ≤ s.phase ∧ s.arch.trim = 0 ∧ s.arch.trimAcc = 0) := by decide

/-- What `passes` says. -/
theorem has_of_passes {r : IssueRow} {s : State} {c : Cmd} (h : passes r s c = true) : ∃ p ws, r.Has s 0 c (.ok p) ws := by
  simp only [passes, Bool.and_eq_true, beq_iff_eq] at h
  obtain ⟨⟨⟨h1, h2⟩, h3⟩, h4⟩ := h
  generalize hr : (r.check s (s.sample c)).run.run [] = x at h4
  obtain ⟨a | a, b⟩ := x
  · exact absurd h4 (by simp)
  · exact ⟨a, b, h1, h2, h3, hr⟩

/-- What `fails` says. -/
theorem has_of_fails {r : IssueRow} {s : State} {c : Cmd} (h : fails r s c = true) : ∃ e ws, r.Has s 0 c (.error e) ws := by
  simp only [fails, Bool.and_eq_true, beq_iff_eq] at h
  obtain ⟨⟨⟨h1, h2⟩, h3⟩, h4⟩ := h
  generalize hr : (r.check s (s.sample c)).run.run [] = x at h4
  obtain ⟨a | a, b⟩ := x
  · exact ⟨a, b, h1, h2, h3, hr⟩
  · exact absurd h4 (by simp)

theorem tiled_pass : (((tiledRows 0).zip tiledCmds).all fun e => (tiledState e.2).canon && passes e.1 (tiledState e.2) e.2) = true := by decide +kernel

/-- Every row of the tiled ones has a command that it issues. -/
theorem witness_TiledCommandsIssue : ∀ e ∈ (tiledRows 0).zip tiledCmds,
    (tiledState e.2).canon = true ∧ ∃ p ws, e.1.Has (tiledState e.2) 0 e.2 (.ok p) ws := by
  intro e he
  have h := List.all_eq_true.mp tiled_pass e he
  rw [Bool.and_eq_true] at h
  exact ⟨h.1, has_of_passes h.2⟩

theorem mma_attn_pass : (rows mmaCmd).canon = true ∧ passes (mmaRow 0) (withCmd (rows mmaCmd) mmaCmd) mmaCmd = true ∧ attns.canon = true ∧
    passes (attnRow 0) (withCmd attns (attn 0)) (attn 0) = true ∧ (attn 0).ringA = false ∧
    passes (attnRow 0) (withCmd attns (attn 1)) (attn 1) = true ∧ (attn 1).ringA = true := by decide +kernel

theorem witness_TiledCommandsIssue_matrix :
    (∃ p ws, (mmaRow 0).Has (withCmd (rows mmaCmd) mmaCmd) 0 mmaCmd (.ok p) ws) ∧
    (∃ p ws, (attnRow 0).Has (withCmd attns (attn 0)) 0 (attn 0) (.ok p) ws) ∧ (attn 0).ringA = false ∧
    (∃ p ws, (attnRow 0).Has (withCmd attns (attn 1)) 0 (attn 1) (.ok p) ws) ∧ (attn 1).ringA = true :=
  have h := mma_attn_pass
  ⟨has_of_passes h.2.1, has_of_passes h.2.2.2.1, h.2.2.2.2.1, has_of_passes h.2.2.2.2.2.1, h.2.2.2.2.2.2⟩

/-- A command of each row with a reserved bit of byte 2 set. -/
def badCmds : List Cmd :=
  (mmaCmd :: attn 0 :: (tiledCmds ++ anchorCmds)).map fun c => { c with bytes := c.bytes.set 2 1 }

theorem bad_fail : (((issueRows 0).zip badCmds).all fun e => fails e.1 (withCmd (anchors 3) e.2) e.2) = true := by decide +kernel

theorem witness_RejectedCommandsWriteNothing : (anchors 3).canon = true ∧
    ∀ e ∈ (issueRows 0).zip badCmds, ∃ r ws, e.1.Has (withCmd (anchors 3) e.2) 0 e.2 (.error r) ws :=
  ⟨by decide +kernel, fun e he => has_of_fails (List.all_eq_true.mp bad_fail e he)⟩

theorem anchor_pass : (((anchorRows 0).zip anchorCmds).all fun e => passes e.1 (withCmd (anchors 3) e.2) e.2) = true := by decide +kernel

/-- Every row of the anchor ones has a command that it issues: those of SIGNAL, FENCE and DUMP with scope 0 and COUNT 1. -/
theorem witness_SynchronizationCommandsIssue : ∀ e ∈ (anchorRows 0).zip anchorCmds, ∃ p ws, e.1.Has (withCmd (anchors 3) e.2) 0 e.2 (.ok p) ws :=
  fun e he => has_of_passes (List.all_eq_true.mp anchor_pass e he)

/-- A DUMP with COUNT 0; a SIGNAL and a FENCE of device and of system scope. -/
def scopeCmds : List (IssueRow × Cmd) :=
  [(⟨.dump 0, isOp 0x2C, dumpCheck⟩, cmd [(0, 0x2C), (56, 4096)]), (⟨.signal 0, isOp 0x29, signalCheck⟩, cmd [(0, 0x29), (32, 1)]),
   (⟨.signal 0, isOp 0x29, signalCheck⟩, cmd [(0, 0x29), (32, 2)]), (⟨.fence 0, isOp 0x2A, fenceCheck⟩, cmd [(0, 0x2A), (32, 1)]),
   (⟨.fence 0, isOp 0x2A, fenceCheck⟩, cmd [(0, 0x2A), (32, 2)])]

theorem scope_pass : (scopeCmds.all fun e => passes e.1 (withCmd base e.2) e.2) = true ∧
    (scopeCmds.map fun e => (e.2.dumpCount, e.2.scope)) = [(0, 0), (0, 1), (0, 2), (0, 1), (0, 2)] := by decide +kernel

theorem witness_SynchronizationCommandsIssue_waiting : ∀ e ∈ scopeCmds, ∃ p ws, e.1.Has (withCmd base e.2) 0 e.2 (.ok p) ws :=
  fun e he => has_of_passes (List.all_eq_true.mp scope_pass.1 e he)

/-- The plan that a check answers. -/
def planOf (r : IssueRow) (s : State) (c : Cmd) : Plan :=
  match ((r.check s (s.sample c)).run.run []).1 with | .ok p => p | .error _ => Plan.none

/-- The clauses of the engine commands: an FLREAD that touches a block, a ZSEND on a port that is UP and on one that is not. The rest is `anchor_pass`. -/
theorem witness_EngineCommandsIssue :
    ((planOf ⟨.flread 0, isOp 0x38, flreadCheck⟩ (anchors 3) (cmd [(0, 0x38), (32, 0x1000), (38, 0x1A00), (44, 1)])).desc 1).regionBlocks ≠ [] ∧
    (anchors 3).portUp (cmd [(0, 0x30), (32, 0x4000), (44, 64)]).zport = true ∧ (anchors 2).portUp (cmd [(0, 0x30), (32, 0x4000), (44, 64)]).zport = false ∧
    passes ⟨.zsend 0, isOp 0x30, zsendCheck⟩ (withCmd (anchors 2) (cmd [(0, 0x30), (32, 0x4000), (44, 64)])) (cmd [(0, 0x30), (32, 0x4000), (44, 64)]) = true := by
  decide +kernel

/-! ### Parts, completion, records -/

/-- A part that is ready or runs in cluster 0. -/
def part (st : PartSt) (status : Nat) : Part := ⟨0, st, false, status, false, 0, 0, 0, 0, []⟩

/-- A vector command that has issued into cluster 0. -/
def running (st : PartSt) (status : Nat) : Cmd := { cmd [(0, 8), (56, 1)] with st := .issued, span := [0], parts := [part st status] }

theorem witness_PartsRun :
    (let s := withCmd base (running .ready 0); s.running = true ∧ s.clusterUp 0 = true ∧ s.nextPart 0 1 = some (running .ready 0)) ∧
    State.reset.nextPart 0 1 = none ∧ { State.reset with lostIslands := [0] }.clusterUp 0 = false ∧ (mk [(F.erqStatusState, 0, 2)]).running = false := by decide +kernel

/-- An MMA with its reduction split over two or four clusters, the owner's tile merged up to part `next`, other parts as given. -/
def splitMma (f next : Nat) (others : List PartTile) : Cmd :=
  { cmd [(0, 1), (3, f)] with
    st := .issued, span := [0, 1, 2, 3], parts := (List.range 4).map fun c => { part .running 0 with cluster := c },
    plan := { Plan.none with descs := [{ Desc.nil with sizes := [512, 1, 1, 1, 1] }, { Desc.nil with sizes := [512, 1, 1, 1, 1] }, Desc.nil], walk := ⟨1, 1, 1, 1, 1, f, false⟩ },
    tiles := ⟨0, 0, [], [], next, []⟩ :: others }

theorem witness_PartsRun_merge :
    (let e : PartTile := ⟨0, 0, [], [], 1, []⟩
     let d : PartTile := ⟨0, 1, [], [], 0, []⟩
     let m := splitMma 4 1 [d]
     let l := splitMma 2 1 [d]
     let k := splitMma 2 1 [⟨0, deadMark, [], [], 0, []⟩]
     m.grantDue 0 = true ∧ m.ownTile 0 = some e ∧ m.tileDead 0 = false ∧ m.nextMerge 0 1 = some 1 ∧ (m.nextMerge 0 (m.mergeTiles e d).1.next).isSome = true ∧
     l.grantDue 0 = true ∧ l.ownTile 0 = some e ∧ l.tileDead 0 = false ∧ l.nextMerge 0 1 = some 1 ∧ l.nextMerge 0 (l.mergeTiles e d).1.next = none ∧
     k.grantDue 0 = true ∧ k.tileDead 0 = true ∧ k.ownTile 0 = some e ∧ base.agentFree m = true ∧ base.agentFree l = true ∧
     (let z := { l with plan := { l.plan with stages := [⟨0x0B, 0, 0, .fp32, 0, none, none, [], 1, 0, 0, 0⟩] } }
      z.grantDue 0 = true ∧ z.ownTile 0 = some e ∧ z.tileDead 0 = false ∧ base.agentFree z = false)) ∧
    (let n := splitMma 2 2 []
     n.grantDue 0 = true ∧ n.ownTile 0 = some ⟨0, 0, [], [], 2, []⟩ ∧ n.tileDead 0 = false ∧ n.nextMerge 0 2 = none ∧ base.agentFree n = true) := by decide +kernel

/-- A load of a store image that has issued into cluster 0. -/
def load : Cmd := { cmd [(0, 9), (44, 0x2000), (50, 1)] with st := .issued, span := [0], parts := [part .ready 0] }

theorem witness_PartsRun_install :
    let s := withCmd base load
    s.canon = true ∧ s.running = true ∧ s.clusterUp 0 = true ∧ s.nextLoad 0 = some load := by decide +kernel

/-- A ring ATTN of two devices after its first step, whose arrival waits are on counters 1 and 2. -/
def ring : Cmd :=
  { attn 1 with
    st := .issued, span := [0], parts := [part .running 0],
    plan := { Plan.none with extra := attnExtra (blk 64 []) (blk 64 [(0, 2), (6, 1), (8, 2), (10, 2), (16, 64)]) [] [] [] } }

theorem witness_PartsRun_ring :
    ring.ringLeft = true ∧ ring.parts.all (fun p => p.st == .running) = true ∧ (withCmd base ring).cmdAt? 0 0 = some ring ∧ (withCmd base ring).running = true ∧
    (let left := fun (s : State) => ring.ringWaits.filter fun w => !s.arrivalSat w.1 w.2
     left base ≠ [] ∧ (left base).any (fun w => base.flag F.zlkArrcfgLost w.1) = false ∧
     (let s := baseWith [(F.zlkArrCount, 1, 64)]; left s = []) ∧
     (let s := baseWith [(F.zlkArrcfgLost, 1, 1)]; (left s).any (fun w => s.flag F.zlkArrcfgLost w.1) = true)) := by decide +kernel

theorem witness_PartsReportAndCommandsComplete :
    (let c := running .running 0; (withCmd base c).cmdAt? 0 0 = some c ∧ c.st = .issued ∧ c.partDone 0 = true ∧ c.part? 0 = some (part .running 0)) ∧
    (let c := running .running 0x0D; c.partDone 0 = true ∧ c.part? 0 = some (part .running 0x0D) ∧ c.status = 0 ∧ c.bad.contains 0 = false) ∧
    (let c := { running .running 0 with parts := [{ part .running 0 with reported := true }] }
     (withCmd base c).running = true ∧ (withCmd base c).cmdAt? 0 0 = some c ∧ (withCmd base c).completeDue c = true) := by decide +kernel

theorem witness_CompletionSignalsAndRecords :
    ∀ c ∈ [running .running 0, { running .running 0 with status := 0x0D }],
      c.parts.all (fun p => p.flushN == 0 && !p.poison) = true ∧ c.armed = [] ∧ c.poisoned = false ∧ c.flush = false := by decide +kernel

theorem witness_WaitingRecordsAreWritten :
    let s := fun (tail : Nat) => { mk [(F.pciQstatCqtail, 0, tail)] with queues := [(0, { Queue.free with waiting := [⟨5, []⟩], cqLog2 := 4 })] }
    (s 15).canon = true ∧ ((s 15).queue 0).waiting = [⟨5, []⟩] ∧ (s 15).cqRoom 0 = true ∧ (s 16).cqRoom 0 = false ∧ ((s 15).queue 0).cqDev = false ∧
      ((s 15).queue 0).ien = false := by decide +kernel

/-! ### Contexts -/

/-- A value with OP and other fields. -/
def opv (op : Nat) (l : List (Nat × Nat)) : Nat := l.foldl (fun a e => a + e.2 <<< e.1) (op <<< 60)

/-- Partition 0 holds contexts 0 to 3 and reach 0; the context descriptor of the physical function asks for context 1 with 32 units on reach 0. -/
def mayCreate (share : Nat) : State :=
  mk [(F.chtPartCtxcount, 0, 4), (F.chtPreachloReach, 0, 1), (F.shtCtxdescBytes, 0, 1 + share <<< 32 + 1 <<< 48)]

theorem witness_ContextsAreCreated :
    fnSet (.fn 0) 0 = 0 ∧ opOf (opv 1 []) = 1 ∧ (mayCreate 32).canon = true ∧ (mayCreate 32).flag F.shtCtxcmdstatBusy 0 = false ∧
    (mayCreate 32).createStatus 0 (opv 1 []) = 0 ∧ (mayCreate 320).createStatus 0 (opv 1 []) = 0 ∧
    (mayCreate 31).createStatus 0 (opv 1 []) = 0x88 ∧ (mayCreate 321).createStatus 0 (opv 1 []) = 0x88 ∧ (mayCreate 31).canon = true := by decide +kernel

/-- Context 0 with a reset that runs, its queue 0 ENABLED with three commands fetched when the reset began. -/
def resetting (destroy : Bool) : State :=
  { mk [(F.shtCtxstatState, 0, 3), (F.pciQstatState, 0, 1), (F.pciQstatSqhead, 0, 2)] with
    ctxs := [(0, { Context.free with reset := some ⟨some 0, destroy, false, [(0, 5)]⟩ })] }

theorem witness_ContextsAreReset :
    (∀ o ∈ [1, 2, 3, 4], opOf (opv o []) = o) ∧ (mk [(F.shtCtxcmdstatBusy, 0, 1)]).flag F.shtCtxcmdstatBusy 0 = true ∧
    (let s := mk [(F.shtCtxstatState, 0, 1), (F.chtPartCtxcount, 0, 4)]
     s.flag F.shtCtxcmdstatBusy 0 = false ∧ s.resetStatus 0 (opv 2 []) = 0 ∧ s.resetStatus 0 (opv 3 []) = 0 ∧
     ((s.setF F.shtCtxcmdstatCtx 0 0).setF F.shtCtxcmdstatBusy 0 1).tearing 0 = false ∧
     (let f : State := { s with ctxs := [(0, { Context.free with fault := some ⟨0x0D, 0x30, 0, 0, none, none⟩ })] }
      f.resetStatus 0 (opv 3 []) = 0 ∧ ((f.setF F.shtCtxcmdstatCtx 0 0).setF F.shtCtxcmdstatBusy 0 1).tearing 0 = true)) ∧
    State.reset.resetStatus 0 (opv 2 []) ≠ 0 ∧ State.reset.resetStatus 0 (opv 3 []) ≠ 0 ∧
    (∀ d ∈ [true, false], (resetting d).canon = true ∧ ((resetting d).ctx 0).reset = some ⟨some 0, d, false, [(0, 5)]⟩ ∧
      (resetting d).getF F.shtCtxstatState 0 = 3 ∧ (resetting d).orphans ((resetting d).partOf 0) = false) ∧
    { resetting false with agents := [(0, { Agent.fresh with queue := [⟨9, false, false, 0, 0, 0, 0, 0, 0, 0⟩] })] }.orphans 0 = true := by decide +kernel

theorem witness_QueuesSkipAfterAReset :
    let s := resetting false
    s.canon = true ∧ (s.ctx 0).reset = some ⟨some 0, false, false, [(0, 5)]⟩ ∧ s.getF F.shtCtxstatState 0 = 3 ∧ s.orphans (s.partOf 0) = false ∧
    ([(0, 5)].map (·.1)).Nodup ∧ s.getF F.pciQstatState 0 = 1 ∧ (s.queue 0).ctx = 0 := by decide +kernel

theorem witness_ContextsAreTornDown :
    (let s := { withCmd State.reset { running .running 0x0D with st := .ended } with ctxs := [(0, { Context.free with fault := some ⟨0x0D, 0x30, 0, 0, some 5, none⟩ })] }
     s.running = true ∧ (s.ctx 0).fault = some ⟨0x0D, 0x30, 0, 0, some 5, none⟩ ∧ s.faultSettled ⟨0x0D, 0x30, 0, 0, some 5, none⟩ = true ∧ (s.ctx 0).reset = none) ∧
    (withCmd State.reset (running .running 0x0D)).faultSettled ⟨0x0D, 0x30, 0, 0, some 5, none⟩ = false ∧
    (let c := { cmd [] with waits := [false, true, true, true], openAt := some 0 }
     let s := fun (now : Nat) => { mk [(F.shtWdogLimit, 0, 1), (F.shtCtxstatState, 0, 1), (F.tmbNowNs, 0, now)] with ctxs := [(0, Context.free)] }
     (cmd []).openAt = none ∧ (s 0).openWaits c = (false, 0, 0, 0) :: [] ∧ (s 0).ctxActive c.ctx = true ∧ c.openAt = some 0 ∧
     (s 999999).now < 0 + (s 999999).getF F.shtWdogLimit 0 * 1000000 ∧ 0 + (s 1000000).getF F.shtWdogLimit 0 * 1000000 ≤ (s 1000000).now) := by decide +kernel

theorem witness_QueuesAreDisabled :
    (let v := opv 4 [(0, 7)]
     let s := mk [(F.pciQstatState, 7, 1)]
     opOf v = 4 ∧ bits v 0 12 = 7 ∧ bits v 22 38 = 0 ∧ s.flag F.shtCtxcmdstatBusy 0 = false ∧ s.getF F.pciQstatState 7 = 1 ∧ (s.ctx (s.queue 7).ctx).reset = none) ∧
    bits (opv 4 [(22, 1)]) 22 38 ≠ 0 ∧
    (let s := mk [(F.pciQstatState, 7, 1), (F.shtCtxstatOwner, 0, 2)]
     fnSet (.fn 1) 0 = 1 ∧ s.getF F.pciQstatState 7 ≠ 0 ∧ s.getF F.shtCtxstatOwner (s.queue 7).ctx ≠ 1 ∧ s.flag F.shtCtxcmdstatBusy 1 = false) := by decide +kernel

/-! ### The host interface -/

/-- Context 0 ACTIVE on reach 0, queue 0 ENABLED with one command to fetch, its ring in device memory or in the host's. -/
def fetching (dev : Bool) : State :=
  { baseWith [(F.pciQstatState, 0, 1), (F.pciQstatSqhead, 0, 0xFFFFFFFF)] with queues := [(0, { Queue.free with sqTail := 0, sqLog2 := 4, sqDev := dev, sqBase := 0x4000 })] }

/-- Four commands hold the window slots of cluster 0. -/
def crowded : State :=
  { fetching false with cmds := (List.range 4).map fun i => { running .ready 0 with id := i, seq := i } }

theorem witness_CommandsAreFetchedInRingOrder :
    (∀ d ∈ [true, false], (fetching d).canon = true ∧ (fetching d).mayFetch 0 = true) ∧
    ((fetching false).holders 0 (newCmd 0 0 0 0xFFFFFFFF (leBytes 64 0) [])).all ((fetching false).windowFree 0) = true ∧
    ((fetching true).holders 0 (newCmd 0 0 0 0xFFFFFFFF ((fetching true).bytesAt (0x4000 + 64 * 15) 64) [])).all ((fetching true).windowFree 0) = true ∧
    (fetching true).anyPoison (wordsOf (0x4000 + 64 * 15) 64) = false ∧
    State.reset.mayFetch 0 = false ∧ crowded.windowFree 0 0 = false ∧
    0 ∈ crowded.holders 0 (newCmd 0 0 0 0xFFFFFFFF (crowded.ringCommand 0 0xFFFFFFFF 0 [[]]) []) ∧
    ((fetching false).queue 0).sqDev = false := by decide +kernel

/-- A queue descriptor of the physical function with SQLOG2 and CQLOG2 `n` and rings in host memory. -/
def mayQueue (n : Nat) : State :=
  mk [(F.shtCtxstatState, 0, 1), (F.pciQcmdstatQlimit, 0, 8), (F.pciQdescBytes, 0, n <<< 16 + n <<< 24)]

theorem witness_QueuesAreCreatedAndDestroyed :
    (mayQueue 4).canon = true ∧ (mayQueue 4).flag F.pciQcmdstatBusy 0 = false ∧ (mayQueue 4).qCreateStatus 0 (opv 1 []) = 0 ∧
    (mayQueue 16).qCreateStatus 0 (opv 1 []) = 0 ∧ (mayQueue 4).freeQueue = some 0 ∧ (mayQueue 3).qCreateStatus 0 (opv 1 []) = 0x90 ∧
    (mayQueue 17).qCreateStatus 0 (opv 1 []) = 0x90 ∧
    (let v := opv 2 [(0, 7)]
     opOf v = 2 ∧ bits v 0 12 = 7 ∧ bits v 12 48 = 0 ∧ bits (opv 2 [(12, 1)]) 12 48 ≠ 0 ∧
     (mk [(F.pciQstatOwner, 7, 3)]).getF F.pciQstatOwner 7 ≠ fnSet (.fn 1) 0 ∧ State.reset.getF F.pciQstatState 7 ≠ 2 ∧
     (let s := mk [(F.pciQstatState, 7, 2)]; s.getF F.pciQstatState 7 = 2 ∧ (s.queue 7).waiting = [] ∧ s.cmds.any (·.q == 7) = false)) := by decide +kernel

theorem witness_DoorbellsMoveTheRings :
    (let s := { mk [(F.pciQstatState, 0, 1), (F.pciQstatSqhead, 0, 0xFFFFFFF8), (F.pciQstatCqtail, 0, 3)] with queues := [(0, { Queue.free with sqLog2 := 4, cqHead := 1 })] }
     s.canon = true ∧ s.ownsQueue 0 0 = true ∧ bits 8 32 32 = 0 ∧ (lo32 8 + 2 ^ 32 - s.getF F.pciQstatSqhead 0) % 2 ^ 32 ≤ 2 ^ (s.queue 0).sqLog2 ∧
     (lo32 3 + 2 ^ 32 - (s.queue 0).cqHead) % 2 ^ 32 ≤ (s.getF F.pciQstatCqtail 0 + 2 ^ 32 - (s.queue 0).cqHead) % 2 ^ 32) ∧
    bits (2 ^ 32) 32 32 ≠ 0 ∧ State.reset.ownsQueue 0 0 = false := by decide +kernel

theorem witness_TheApertureAccessesDeviceMemory :
    base.canon = true ∧ base.apertureOk 0 0x103C 4 = true ∧ 0x103C / 64 = (0x103C + 4 - 1) / 64 ∧ base.apertureOk 0 (0x1000000000 - 1) 2 = false ∧
    base.apertureOk 0 0x103C [1, 2, 3, 4, 5].length = true ∧ State.reset.apertureOk 0 0 [1].length = false := by decide +kernel

theorem witness_InterruptsAndPcieLanes :
    (let s := fun (now : Nat) => { mk [(F.tmbNowNs, 0, now)] with
       queues := [(0, { Queue.free with ien := true, unsig := 1, modTime := 2, firstAt := 5 })], streams := [(0, { Stream.free with unsig := 1, desc := blk 64 [(44, 2)], firstAt := 5 })] }
     let u := (s 0).queue 0
     u.ien = true ∧ u.unsig ≠ 0 ∧ u.modTime ≠ 0 ∧ u.firstAt + u.modTime * 1000 ≤ (s 2005).now ∧ (s 2004).now < u.firstAt + u.modTime * 1000 ∧
     (let w := (s 0).stream 0; w.unsig ≠ 0 ∧ w.modTime ≠ 0 ∧ w.firstAt + w.modTime * 1000 ≤ (s 2005).now ∧ (s 2004).now < w.firstAt + w.modTime * 1000)) ∧
    (State.reset.queue 0).ien = false ∧ (State.reset.stream 0).unsig = 0 ∧ 8 < State.reset.pcieLanes ∧ { State.reset with pcieLanes := 8 }.pcieLanes ≤ 8 := by decide +kernel

/-! ### Tokens, arrival counters, registers, trace -/

theorem witness_CountersAndWaits :
    base.canon = true ∧ base.unitOf (.fn 0) F.shtTokallocTokfirst F.shtTokallocTokcount 65536 65535 = some 65535 ∧
    base.unitOf (.fn 0) F.shtTokallocTokfirst F.shtTokallocTokcount 65536 65536 = none ∧
    base.unitOf .mb F.zlkArrallocArrfirst F.zlkArrallocArrcount 4096 4095 = some 4095 ∧ base.unitOf .mb F.zlkArrallocArrfirst F.zlkArrallocArrcount 4096 4096 = none ∧
    (let s := { baseWith [(F.chtFuncBound, 1, 1)] with cmds := [cmd []] }
     s.unitOf (.fn 1) F.shtTokallocTokfirst F.shtTokallocTokcount 65536 15 = some 15 ∧ s.unitOf (.fn 1) F.shtTokallocTokfirst F.shtTokallocTokcount 65536 16 = none ∧
     cmd [] ∈ s.cmds ∧ (cmd []).st = .fetched ∧ (cmd []).waits.length = 4) := by decide +kernel

theorem witness_RegisterWritesFollowTheAccessCodes :
    State.reset.canon = true ∧ State.reset.placeOf (.fn 0) 0 0x188 = .reg R.pciEvtcfg 0 false ∧ 0x188 % 8 = 0 ∧ R.pciEvtcfg.width = 1 ∧ ownRow R.pciEvtcfg = false ∧
    State.reset.pgenOk (.fn 0) R.pciEvtcfg 0 = true ∧ State.reset.placeOf (.fn 1) 0 0x362000 = .beyond ∧ State.reset.placeOf (.fn 0) 0 0x1000 = .nothing ∧
    State.reset.placeOf (.fn 0) 0 0x10000 = .msix 0 ∧ State.reset.placeOf (.fn 0) 0 0x210008 = .reg R.pwrCfg 0 false ∧ R.pwrCfg.narrow = false ∧
    State.reset.placeOf (.fn 0) 0 0x200018 = .reg R.hbmFwctl 0 true ∧ State.reset.placeOf (.fn 0) 0 0x200010 = .reg R.hbmFwctl 0 false ∧ ownRow R.hbmFwctl = true ∧
    (let s := mk [(F.chtFuncBound, 1, 1)]; s.placeOf (.fn 1) 0 0x36A080 = .reg R.zlkPgen 0 false ∧ ownRow R.zlkPgen = false ∧ s.pgenOk (.fn 1) R.zlkPgen 0 = false) ∧
    State.reset.placeOf (.fn 0) 0 0x2C0000 = .reg R.pciQstat 0 false ∧ ownRow R.pciQstat = false ∧ State.reset.pgenOk (.fn 0) R.pciQstat 0 = true ∧ R.pciQstat.width = 2 ∧
    fnSet .mb 63 < 64 ∧ R.pciEvtcfg.flds ≠ [] := by decide +kernel

theorem witness_TracesFillTheirRing :
    State.reset.mayAct (.fn 1) 0 = false ∧ base.canon = true ∧ base.mayAct (.fn 0) 0 = true ∧
    (let on := 1 + 6 <<< F.cntTrcfgRlog2.lo
     let w := base.wide (.fn 0) on
     bit w 0 = true ∧ bits w F.cntTrcfgBase.lo F.cntTrcfgBase.w % 4096 = 0 ∧ 6 ≤ bits w F.cntTrcfgRlog2.lo F.cntTrcfgRlog2.w ∧
     base.owned 0 (bits w F.cntTrcfgBase.lo F.cntTrcfgBase.w) (64 * 2 ^ bits w F.cntTrcfgRlog2.lo F.cntTrcfgRlog2.w) = true ∧
     bit (base.wide (.fn 0) 0) 0 = false ∧ bit (base.wide (.fn 0) 1) 0 = true ∧ bits (base.wide (.fn 0) 1) F.cntTrcfgRlog2.lo F.cntTrcfgRlog2.w < 6) ∧
    (let s := fun (tail : Nat) => baseWith [(F.cntTrcfgEn, 0, 1), (F.cntTrcfgKinds, 0, 1), (F.cntTrcfgRlog2, 0, 6), (F.cntTrptrTail, 0, tail)]
     (s 63).canon = true ∧ (s 63).flag F.cntTrcfgEn 0 = true ∧ bit ((s 63).getF F.cntTrcfgKinds 0) (1 - 1) = true ∧ (s 63).getF F.cntTrcfgLayerlo 0 ≤ (cmd []).layer ∧
     (cmd []).layer ≤ (s 63).getF F.cntTrcfgLayerhi 0 ∧ ((s 63).getF F.cntTrptrTail 0 + 2 ^ 32 - (s 63).getF F.cntTrptrHead 0) % 2 ^ 32 < 2 ^ (s 63).getF F.cntTrcfgRlog2 0 ∧
     2 ^ (s 64).getF F.cntTrcfgRlog2 0 ≤ ((s 64).getF F.cntTrptrTail 0 + 2 ^ 32 - (s 64).getF F.cntTrptrHead 0) % 2 ^ 32 ∧ (s 64).flag F.cntTrcfgWrap 0 = false) := by decide +kernel

theorem witness_VirtualFunctionsCannotControlTheDevice :
    State.reset.canon = true ∧ 0 < 1 ∧ 63 < 64 ∧ (exec (.form (.fn 63) 1) State.reset matches .next _) = true := by decide +kernel

/-! ### Memory sites -/

/-- A word whose check bytes say poison; a lost site. -/
def poisoned : State := { base with ecc := [(64, pzDev)] }
def lost : State := baseWith [(F.memStatusState, 0, 5)]

theorem witness_SiteWritesStoreCleanWords :
    base.canon = true ∧ base.reaches (64 * 64) 64 = true ∧ (leBytes 64 7).length = 64 ∧ base.siteLost (wordSite 64) = false ∧ poisoned.canon = true ∧
    (poisoned.wordClass 64).isPoison = true := by decide +kernel

theorem witness_DisjointMaskedWritesBothSurvive :
    base.canon = true ∧ base.reaches (64 * 64) 64 = true ∧ (leBytes 64 7).length = 64 ∧ base.siteLost (wordSite 64) = false ∧ poisoned.canon = true ∧
    poisoned.reaches (64 * 64) 64 = true ∧ bit 0xFF 8 = false ∧ (∀ k, k < 64 → ¬(bit 0x0F k = true ∧ bit 0xF0 k = true)) ∧
    (exec (.sitePartialWrite 64 0x0F (leBytes 64 7)) base matches .next _) = true := by decide +kernel

theorem witness_SiteReadsDeliver :
    base.reaches 0x103F 2 = true ∧ base.reaches (64 * 64) 64 = true ∧ State.reset.reaches (64 * 64) 64 = false ∧ State.reset.reaches 0 1 = false ∧
    base.reaches (base.usable 0 - 64) 64 = true ∧ base.reaches (base.usable 0) 64 = false := by decide +kernel

theorem witness_SitesStayHealthyOrAreLost :
    (let s := fun (at_ : Nat) => { baseWith [(F.memScrubPeriod, 0, 24)] with sites := [(0, { Site.fresh with scrub := at_ })] }
     (s 0).canon = true ∧ (s 0).getF F.memScrubPeriod 0 ≠ 0 ∧ (s 0).getF F.memStatusState 0 = 2 ∧ ((s 0).site 0).scrub + 1 < 4 * (s 0).chanWords 0 ∧
     (let e := 4 * (s 0).chanWords 0 - 1; 4 * (s e).chanWords 0 ≤ ((s e).site 0).scrub + 1)) ∧
    State.reset.getF F.memStatusState 0 ≠ 2 ∧ 2 ≤ base.getF F.memStatusState 0 ∧ base.getF F.memStatusState 0 ≤ 4 ∧ [(0, 2, true)] ≠ ([] : List (Nat × Nat × Bool)) ∧
    [(0, 2, true)].any (fun r => r.2.2) = true ∧ base.flag F.memThermHot 0 = false ∧ base.getF F.memThermMult 0 ≤ min 2 (maxOf ([(0, 1, false)].map fun r => r.2.1)) ∧
    base.getF F.memStatusState 0 ≠ 0 ∧ base.getF F.memStatusState 0 ≠ 5 ∧ State.reset.getF F.memStatusState 0 = 0 ∧ lost.getF F.memStatusState 0 = 5 ∧
    lost.siteLost 0 = true ∧ wordSite 64 = 0 ∧ lost.canon = true := by decide +kernel

theorem witness_BusyMemoryOperationsRefuse :
    (mk [(F.memOpstatBusy, 0, 1)]).canon = true ∧ (mk [(F.memOpstatBusy, 0, 1)]).flag F.memOpstatBusy 0 = true ∧ bit (1 <<< 31 + 1 <<< 28) 31 = true ∧
    bits (1 <<< 31 + 2 <<< 28) 28 3 = 2 := by decide +kernel

theorem witness_MemoryOperationsRun :
    (let s := mk [(F.memStatusState, 47, 2), (F.memStatusOwner, 47, 31)]
     let v := fun op => 1 <<< 31 + op <<< 28 + 47 <<< 18
     s.canon = true ∧ s.flag F.memOpstatBusy 0 = false ∧ (∀ op ∈ [1, 2], bit (v op) 31 = true ∧ bits (v op) 28 3 = op ∧ bits (v op) 18 6 = 47 ∧ s.memStatus (v op) = 0) ∧
     bit (v 3) 31 = true ∧ s.memStatus (v 3) ≠ 0 ∧ bits (v 3) 28 3 ≠ 2 ∧ State.reset.memStatus (v 1) ≠ 0) ∧
    (let s := { mk [(F.memStatusState, 47, 3), (F.memOpstatBusy, 0, 1)] with memOp := some ⟨false, 47, 0, 0⟩ }
     s.memOp = some ⟨false, 47, 0, 0⟩ ∧ s.getF F.memStatusState 47 ≠ 5) ∧ State.reset.memOp = none := by decide +kernel

/-! ### Flash and the key/value cache -/

/-- One read job of the FLREAD with number 5 that has blocks `left` to read. -/
def reading (left : List Nat) : State :=
  { withCmd State.reset { cmd [] with st := .issued } with flash := { Flash.fresh with jobs := [⟨.read 5, 1, [], [], left, 0⟩] } }

/-- A hold-up store that is configured, in STATE `st`, whose probe passes; STAGECAP is `cap`. -/
def holdup (st cap : Nat) : State :=
  { mk [(F.fltHupcfgCapmf, 0, 100), (F.fltHupcfgVmin, 0, 100), (F.fltHupcfgPflush, 0, 10), (F.fltHupcfgFlushrate, 0, 100), (F.fltHupcfgStagecap, 0, cap),
      (F.fltHupState, 0, st), (F.fltHupVmeas, 0, 1000), (F.tmbNowNs, 0, 10000000000)] with flash := { Flash.fresh with probeOk := true, goodSince := some 0 } }

theorem witness_FlashReadsAndProgramsComplete :
    ((reading [3]).flash.jobs[0]? = some ⟨.read 5, 1, [], [], [3], 0⟩ ∧ [3].filter (· != 3) = ([] : List Nat) ∧ [3, 4].filter (· != 3) ≠ ([] : List Nat) ∧
     (reading [3, 4]).flash.jobs[0]? = some ⟨.read 5, 1, [], [], [3, 4], 0⟩ ∧ (reading [3]).cmd? 5 = some { cmd [] with st := .issued } ∧ (cmd []).ready = false) ∧
    State.reset.canon = true ∧ (∀ r, (State.reset.flRegion r).ops = []) ∧
    (∀ st ∈ [0, 1, 2], ∀ cap ∈ [1, 0xFFF], (holdup st cap).canon = true ∧ (holdup st cap).getF F.fltHupcfgCapmf 0 ≠ 0 ∧ (holdup st cap).getF F.fltHupcfgVmin 0 ≤ 1000 ∧
      (holdup st cap).getF F.fltHupState 0 = st) ∧
    (∀ r, ((holdup 1 1).flRegion r).ops = []) ∧
    (holdup 1 1).stageLim 1000 % 2 ^ F.fltHupStagelim.w = (holdup 1 1).getF F.fltHupcfgStagecap 0 ∧ (holdup 1 1).flash.goodSince = some 0 ∧
    0 + 10000000000 ≤ (holdup 1 1).now ∧ (holdup 1 0xFFF).stageLim 1000 % 2 ^ F.fltHupStagelim.w ≠ (holdup 1 0xFFF).getF F.fltHupcfgStagecap 0 ∧
    ¬(State.reset.getF F.fltHupcfgCapmf 0 ≠ 0) :=
  ⟨by decide +kernel, by decide +kernel, fun _ => rfl, by decide +kernel, fun _ => rfl, by decide +kernel⟩

theorem witness_FlashMediaFaults :
    (∀ st ∈ [3, 4, 5], (mk [(F.fltStatusState, 0, st)]).canon = true ∧ (mk [(F.fltStatusState, 0, st)]).getF F.fltStatusState 0 = st) ∧
    (let s := { mk [(F.fltSlcrateRating, 0, 10), (F.fltRgninfoType, 1, 1), (F.fltRgninfoType, 1023, 2)] with
       flash := { Flash.fresh with rating := 10, capSlc := 64, capDense := 64, spareSlc := 1, spareDense := 1, regions := [(1, { FlRegion.fresh with written := [7, 8], bad := [8] })] } }
     s.canon = true ∧ s.getF F.fltRgninfoType 1 = 1 ∧ s.getF F.fltRgninfoType 1023 = 2 ∧ (s.flash.spareSlc - 1) * 64 < s.flash.capSlc ∧
     (s.flash.spareDense - 1) * 64 < s.flash.capDense ∧ 9 < s.getF F.fltSlcrateRating 0 ∧ 9 < s.flash.rating ∧ (s.flRegion 1).written.contains 0 = false ∧
     (s.flRegion 1).bad.contains 7 = false ∧ (s.flRegion 1).written.contains 8 = true ∧ (s.flRegion 1).written.contains 7 = true) := by decide +kernel

/-- A pool record at 0x20000 of one extent of four frames, its tables after it; MAXLEN is `m`. -/
def poolAt (m : Nat) : State :=
  place [(0x20000, blk 80 [(0, 1), (2, 1), (3, 5), (4, 0x22), (8, 128), (12, 128), (16, m), (24, 0x30000), (30, 0x40000), (36, 0x50000), (42, 0x60000), (58, 1),
    (64, 0x80000), (70, 4)])] (baseWith [(F.kvtPoolPooladdr, 0, 0x20000), (F.kvtSlotsSlotcount, 0, 1), (F.chtPreachloReach, 0, 1)])

theorem witness_PoolsAreInitialised :
    State.reset.mayAct (.fn 1) 0 = false ∧ State.reset.canon = true ∧
    (poolAt 64).canon = true ∧ (poolAt 64).mayAct (.fn 0) 0 = true ∧ (poolAt 64).agentIdle 0 = true ∧ (poolAt 64).poolBad 0 0x20000 = none ∧
    (poolAt 64).getF F.kvtPoolPooladdr 0 = 0x20000 ∧ (poolAt 63).canon = true ∧ (poolAt 63).poolBad 0 0x20000 = some 4 ∧ (poolAt 63).agentIdle 0 = true ∧
    (let s := { base with agents := [(0, { Agent.fresh with busy := some (.fetch ⟨5, true, false, 0, 0, 1, 0, 0, 0, 0⟩ 0) })] }
     s.canon = true ∧ s.mayAct .mb 0 = true ∧ s.agentIdle 0 = false) := by decide +kernel

/-- The base state with a pool whose free list is `head` on, entry 0 of slot 0 holding `e`, and other bytes of its tables. -/
def mapped (head e : Nat) (l : List (Nat × List Byte)) : State :=
  { place ((if e = 0 then [] else [(0x20000, leBytes 8 e)]) ++ l) base with agents := [(0, { Agent.fresh with pool := some pool, head := head, cluster := some 0 })] }

/-- Its agent waits for the flash tier, with command 5 at it. -/
def busyWith (b : AgBusy) (f : Flash) : State :=
  { withCmd (mapped 0 0 []) { cmd [(0, 0x22)] with st := .issued } with agents := [(0, { Agent.fresh with pool := some pool, head := 0, cluster := some 0, busy := some b })], flash := f }

def agReq : AgReq := ⟨5, true, false, 0, 0, 1, 0, 0, 0, 0⟩

/-- A BF16 key store whose part has reported. -/
def committing : Cmd :=
  { cmd [(0, 1)] with st := .issued, parts := [⟨0, .running, true, 0, false, 0, 0, 0, 0, []⟩],
                      plan := { Plan.none with stages := [⟨0x0B, 0, 0, .fp32, 0, none, none, [], 1, 0, 0, 0⟩] } }

theorem witness_TheAgentOperates :
    (∀ e ∈ [0, 1 <<< 63], ∀ h ∈ [0, noFrame], (mapped h e []).agentIdle 0 = true ∧ ((mapped h e []).agent 0).pool = some pool ∧ (mapped h e []).inSlots 0 0 = true ∧
      63 < pool.maxlen ∧ (mapped h e []).slotField 0 pool 0 0 ≤ 0) ∧
    ((mapped 0 (1 <<< 63) []).ptEntry 0 pool 0 0).1 = true ∧ ((mapped 0 (1 <<< 63) []).ptEntry 0 pool 0 0).2.1 = false ∧ (mapped 0 (1 <<< 63) []).refcnt pool 0 ≤ 1 ∧
    ((mapped 0 0 []).ptEntry 0 pool 0 0).1 = false ∧ ((mapped 0 0 []).agent 0).head ≠ noFrame ∧ ((mapped noFrame 0 []).agent 0).head = noFrame ∧
    (let g : AgReq := agReq
     let w := fun d => { Flash.fresh with writes := [⟨3, 1, 4096, false, d, [], []⟩] }
     ∀ d ∈ [true, false], let s := busyWith (.evict g 7 3) (w d)
       (s.agent 0).pool = some pool ∧ s.cmd? 5 = some { cmd [(0, 0x22)] with st := .issued } ∧ s.agentUp 0 = true ∧ (s.agent 0).busy = some (.evict g 7 3) ∧ s.flash.isDurable 3 = d) ∧
    (∀ l ∈ [[], [9]], let s := busyWith (.fetch agReq 2) { Flash.fresh with jobs := [⟨.fetch 0, 2, [], [], l, 0⟩] }
       s.agentUp 0 = true ∧ (s.agent 0).busy = some (.fetch agReq 2) ∧ s.flash.jobs.find? (fun j => j.who == .fetch 0) = some ⟨.fetch 0, 2, [], [], l, 0⟩) ∧
    ((mapped 0 0 []).agent 0).cluster = some 0 ∧ (mapped 0 0 []).clusterUp 0 = true ∧ { mapped 0 0 [] with lostIslands := [0] }.clusterUp 0 = false ∧
    (let s := withCmd (mapped 0 0 []) committing
     s.cmdAt? 0 0 = some committing ∧ s.commitDue committing = true ∧ s.agentIdle 0 = true) ∧
    (let s := withCmd { mapped 0 0 [] with lostIslands := [0] } committing
     s.cmdAt? 0 0 = some committing ∧ s.commitDue committing = true ∧ s.agentIdle 0 = false) := by decide +kernel

/-! ### Links and the archipelago -/

/-- One byte of the CRC register. -/
def crcByte (c : Nat) (b : Byte) : Nat := (List.range 8).foldl (fun a _ => crc64Bit a) (c ^^^ b.toNat <<< 56)

theorem crc_zeros (n : Nat) : (List.replicate n (0 : Byte)).foldl crcByte 0 = 0 := by
  induction n with
  | zero => rfl
  | succ n ih => rw [List.replicate_succ, List.foldl_cons, show crcByte 0 0 = 0 by decide, ih]

/-- A header, and the eight bytes after it that bring the CRC register to 0. -/
def flitHead (ty seq h : Nat) : List Byte :=
  let b := leBytes 8 (ty <<< 60 + seq <<< 48 + h)
  b ++ (leBytes 8 (b.foldl crcByte (2 ^ 64 - 1))).reverse

/-- A flit of that type and SEQ without a slot, its other header fields in `h`: after the head only zeros, so that its CRC is all ones. -/
def flit (ty seq h : Nat) : List Byte := flitHead ty seq h ++ (List.replicate 232 0 ++ List.replicate 8 255)

theorem flit_take (ty seq h : Nat) : (flit ty seq h).take 248 = flitHead ty seq h ++ List.replicate 232 0 := by
  have e : (flitHead ty seq h).length = 16 := by simp [flitHead, leBytes]
  rw [flit, List.take_append, e, List.take_of_length_le (by omega)]
  rfl

/-- Its checksum is good. -/
theorem flit_crc {ty seq h : Nat} (z : (flitHead ty seq h).foldl crcByte (2 ^ 64 - 1) = 0) : crc64 ((flit ty seq h).take 248) = 2 ^ 64 - 1 := by
  rw [flit_take, show ∀ l, crc64 l = l.foldl crcByte (2 ^ 64 - 1) ^^^ (2 ^ 64 - 1) from fun _ => rfl, List.foldl_append, z, crc_zeros]
  rfl

/-- Good flits of the link tests: data in and out of order, empty, acknowledgement requests, control flits. -/
theorem flits_good :
    (Port.fresh.good (flit 1 0 0) false = true ∧ Port.fresh.good (flit 1 1 0) false = true) ∧ Port.fresh.good (flit 0 0 0) false = true ∧
    (Port.fresh.good (flit 2 0 0) false = true ∧ Port.fresh.good (flit 3 0 0) false = true) ∧
    (Port.fresh.good (flit 3 0 (1 <<< 34)) false = true ∧ Port.fresh.good (flit 3 0 (3 <<< 34)) false = true) ∧
    { Port.fresh with dgr := 1 }.good (flit 3 0 (1 <<< 34)) false = true := by
  refine ⟨⟨?_, ?_⟩, ?_, ⟨?_, ?_⟩, ⟨?_, ?_⟩, ?_⟩ <;> rw [Port.good, flit_crc (by decide +kernel)] <;> decide +kernel

/-- Port 0 is UP and holds `p`; other fields, and the time `now`. -/
def linked (p : Port) (now : Nat) (l : List (Fld × Nat × Nat)) : State :=
  { baseWith ([(F.zlkPstatState, 0, 3), (F.tmbNowNs, 0, now)] ++ l) with ports := [(0, p)] }
def plain : State := linked Port.fresh 0 []

theorem witness_FlitsAreTakenInOrder :
    plain.portRuns 0 = true ∧
    (let v := (plain.fecCount 0 1 2).port 0
     v = Port.fresh ∧ flitField (flit 1 0 0) 60 4 = 1 ∧ flitField (flit 1 0 0) 48 12 = (v.rxSeq + 1) % 4096 ∧
     flitField (flit 1 1 0) 48 12 ≠ (v.rxSeq + 1) % 4096 ∧ v.good (flit 1 0 0) true = false ∧ flitField (flit 0 0 0) 60 4 = 0 ∧
     flitField (flit 3 0 0) 34 2 = 0 ∧ flitField (flit 2 0 0) 60 4 = 2) ∧
    (let x := linked { Port.fresh with gap := true } 0 []; x.canon = true ∧ (x.port 0).gap = true) ∧
    (∀ n ∈ [4000, 4001], ∀ r ∈ [15, 16], let s := linked { Port.fresh with unacked := [⟨7, 0, flit 1 7 0⟩], replays := r } n []
       s.canon = true ∧ s.portRuns 0 = true ∧ (s.port 0).unacked = [⟨7, 0, flit 1 7 0⟩] ∧ s.now = n ∧ (s.port 0).replays = r) := by decide +kernel

/-- The header slot of a WR of 64 bytes with that low part: TYPE 1, the address 0x1000, and WID 9. -/
def wrHdr (low : Nat) : Nat := 1 + 0x40 <<< 38 + 9 <<< 80 + low

theorem witness_PostedWritesArePerformed :
    (∀ dp ∈ [0, 1], let s := linked { Port.fresh with rxWr := [[leBytes 16 (wrHdr (dp <<< 16)), leBytes 16 1, leBytes 16 2, leBytes 16 3, leBytes 16 4]] } 0 []
       s.canon = true ∧ s.portRuns 0 = true ∧ s.wrCheck 0 (wrHdr (dp <<< 16)) = dp) ∧
    (∀ k ∈ [0, 1 <<< 12, 1 <<< 14], let r : RxWr := ⟨9, wrHdr k, leBytes 64 7, 0, false⟩
       let s := linked { Port.fresh with rx := [r] } 0 []
       s.canon = true ∧ s.running = true ∧ (s.port 0).rx.find? (fun r => r.wid == 9 && !r.fin) = some r ∧ bit r.hdr 14 = (k == 1 <<< 14) ∧ bit r.hdr 12 = (k == 1 <<< 12)) ∧
    plain.canon = true ∧ plain.portRuns 0 = true ∧ (plain.port 0).rxWack = [] ∧ ((linked { Port.fresh with rxWack := [2] } 0 []).port 0).rxWack ≠ [] := by decide +kernel

theorem witness_LinksFallAndComeBack :
    plain.canon = true ∧ plain.portUp 0 = true ∧ bit (plain.getF F.zlkPstatFaulty 0) 7 = false ∧ plain.getF F.zlkPstatFaulty 0 = 0 ∧
    (let s := linked Port.fresh 0 [(F.zlkPstatFaulty, 0, 1)]
     s.portUp 0 = true ∧ bit (s.getF F.zlkPstatFaulty 0) 4 = false ∧ bothHalves (s.getF F.zlkPstatFaulty 0 + 2 ^ 4) = true) ∧
    (∀ d ∈ [1, 3], (plain.fecCount 0 0 0).port 0 = Port.fresh ∧ flitField (flit 3 0 (d <<< 34)) 60 4 = 3 ∧ flitField (flit 3 0 (d <<< 34)) 34 2 = d) ∧
    (let s := linked { Port.fresh with dgr := 1 } 2000 []
     (s.fecCount 0 0 0).port 0 = { Port.fresh with dgr := 1 } ∧ (((s.fecCount 0 0 0).takeHeader 0 (flit 3 0 (1 <<< 34))).port 0).dgr = 1) ∧
    (plain.port 0).dgr ≠ 1 ∧ (linked Port.fresh 2000 []).portUp 0 = true ∧ ((linked Port.fresh 2000 []).port 0).since + 2000 ≤ (linked Port.fresh 2000 []).now ∧
    16 ≤ ((linked { Port.fresh with replays := 16 } 0 []).port 0).replays ∧
    (∀ st ∈ [2, 4], let s := linked Port.fresh 5000000 [(F.zlkPstatState, 0, st), (F.zlkPcfgRetrylim, 0, 5)]
       s.canon = true ∧ s.training 0 = true ∧ s.getF F.zlkPcfgRole 0 = 0 ∧ s.getF F.zlkPcfgReach 0 = 0 ∧ s.getF F.zlkPstatState 0 = st ∧ s.getF F.zlkPcfgRetrylim 0 ≠ 0 ∧
       (s.port 0).since + s.getF F.zlkPcfgRetrylim 0 * 1000000 ≤ s.now ∧ s.arch.broke.contains 0 = false) ∧
    bothHalves 0x0F = false ∧ bothHalves 0xF0 = false ∧ (mk [(F.zlkPcfgRetrylim, 0, 0)]).getF F.zlkPcfgRetrylim 0 = 0 ∧ plain.getF F.zlkPstatState 0 ≠ 4 ∧
    (∀ st ∈ [0, 1, 5], (linked Port.fresh 0 [(F.zlkPstatState, 0, st)]).getF F.zlkPstatState 0 = st) ∧
    (let v := fun tgt lane => 1 <<< 31 + tgt <<< 11 + lane <<< 7
     ∀ tgt ∈ [5, 6, 12, 13], ∀ lane ∈ [11, 12], bit (v tgt lane) 31 = true ∧ bits (v tgt lane) 15 16 = 0 ∧ bits (v tgt lane) 0 4 = 0 ∧ bits (v tgt lane) 11 4 = tgt ∧
       bits (v tgt lane) 7 4 = lane) ∧
    State.reset.flag F.zlkEyeresBusy 0 = false ∧ (mk [(F.zlkEyeresBusy, 0, 1)]).flag F.zlkEyeresBusy 0 = true ∧ (mk [(F.zlkEyeresBusy, 0, 1)]).canon = true := by decide +kernel

/-- The side-band message `m` waits at port 0, with archipelago state `a`. -/
def asked (m : Nat) (a : Arch) (l : List (Fld × Nat × Nat)) : State := { linked { Port.fresh with rxSb := [(m, 77)] } 0 l with arch := a }

/-- The state in which it has been taken. -/
def taken (s : State) (kind : Nat) : State :=
  match s.takeSb 0 kind with
  | some (_, _, t) => t
  | none => s

/-- A message of that kind with more fields. -/
def msg (kind h : Nat) : Nat := kind <<< 8 + h

theorem witness_ArchipelagosForm :
    (mk [(F.zlkArchState, 0, 1)]).getF F.zlkArchState 0 = 1 ∧ (mk [(F.zlkArchState, 0, 1)]).canon = true ∧ State.reset.getF F.zlkArchState 0 ≠ 1 ∧
    (∀ b ∈ [0, 4, 5], let s := asked (msg 0x01 (5 <<< 32 + 9 <<< 112)) { Arch.fresh with best := b, parent := some 3 } [(F.zlkArchState, 0, 1)]
       s.canon = true ∧ s.electing = true ∧ (s.takeSb 0 0x01).isSome = true ∧ (taken s 0x01).electing = true ∧ s.arch.parent = some 3 ∧
       s.archKey = 0 ∧ s.arch.best = b) ∧
    bits (msg 0x01 (5 <<< 32 + 9 <<< 112)) 32 64 = 5 ∧
    (let s := { mk [(F.zlkArchState, 0, 1), (F.tmbNowNs, 0, 5000000)] with arch := { Arch.fresh with bestAt := 0 } }
     s.electing = true ∧ s.arch.bestAt + 5000000 ≤ s.now ∧ (s.setF F.tmbNowNs 0 4999999).now < s.arch.bestAt + 5000000) ∧ State.reset.electing = false := by decide +kernel

/-- The lead of an election is the device whose own key stands. -/
theorem witness_ArchipelagosForm_own : ∀ s : State, s.getF F.zlkArchcfgLeadprio 0 = 1 → s.archKey ≠ 0 := by
  intro s h
  simp [State.archKey, h]

theorem witness_ArchipelagosForm_number :
    (∀ lead ∈ [0, 1], ∀ st ∈ [1, 2], ∀ k ∈ [0x02, 0x03, 0x04],
      let s := asked (msg k (6 <<< 32 + 1 <<< 80)) { Arch.fresh with parent := some 3, replies := 1 } [(F.zlkArchLead, 0, lead), (F.zlkArchState, 0, st)]
      (s.takeSb 0 k).isSome = true ∧ (taken s k).isLead = (lead == 1) ∧ (taken s k).getF F.zlkArchState 0 = st ∧ (taken s k).arch.parent = some 3 ∧
      (taken s k).flag F.tmbAlignSweeping 0 = false ∧ s.arch.replies ≠ 0) ∧
    State.reset.canon = true ∧ 7 < 2 ^ F.zlkArchDevnum.w ∧ 8 < 2 ^ F.zlkArchNdev.w ∧ 0xFFFF < 2 ^ F.zlkArchFormno.w := by decide +kernel

theorem witness_TheTimebaseAligns :
    (∀ sw ∈ [0, 1], ∀ lead ∈ [0, 1], ∀ st ∈ [1, 2], let s := mk [(F.zlkArchState, 0, st), (F.zlkArchLead, 0, lead), (F.tmbAlignSweeping, 0, sw)]
       s.canon = true ∧ s.getF F.zlkArchState 0 = st ∧ s.isLead = (lead == 1) ∧ s.flag F.tmbAlignSweeping 0 = (sw == 1)) ∧
    (∀ k ∈ [0x20, 0x21, 0x23, 0x24], ((asked (msg k 0) Arch.fresh []).takeSb 0 k).isSome = true) ∧ (taken (asked (msg 0x20 0) Arch.fresh []) 0x20).arch.children = [] ∧
    (∀ r ∈ [14, 15], let h : Hop := ⟨0, r, 0, some 10, none⟩
       let s := asked (msg 0x22 0) { Arch.fresh with hop := some h } []
       (s.takeSb 0 0x22).isSome = true ∧ (taken s 0x22).arch.hop = some h) ∧
    (let s := asked (msg 0x22 0) { Arch.fresh with parent := some 0, trimT1 := some 10 } []
     (s.takeSb 0 0x22).isSome = true ∧ (taken s 0x22).arch.hop = none ∧ (taken s 0x22).arch.parent = some 0 ∧ (taken s 0x22).arch.trimT1 = some 10) ∧
    (∀ n ∈ [99999, 100000], ∀ m ∈ [1, 2], let s := { linked Port.fresh n [] with arch := { Arch.fresh with hop := some ⟨0, 3, m, some 0, none⟩ } }
       s.canon = true ∧ s.arch.hop = some ⟨0, 3, m, some 0, none⟩ ∧ s.now = n) ∧
    bit (msg 0x24 (1 <<< 48)) 48 = true ∧ ((asked (msg 0x24 (1 <<< 48)) Arch.fresh []).takeSb 0 0x24).isSome = true ∧
    (let s := asked (msg 0x24 0) Arch.fresh [(F.zlkArchLead, 0, 1)]
     (s.takeSb 0 0x24).isSome = true ∧ bit (msg 0x24 0) 48 = false ∧ (taken s 0x24).isLead = true) ∧
    (∀ n ∈ [49, 50], let s := { mk [(F.tmbNowNs, 0, n)] with arch := { Arch.fresh with timer := some 50 } }
       s.canon = true ∧ s.arch.timer = some 50 ∧ s.now = n) ∧
    (let s := { mk [(F.tmbAlignAligned, 0, 1)] with arch := { Arch.fresh with parent := some 0 } }
     s.arch.parent = some 0 ∧ s.flag F.tmbAlignAligned 0 = true ∧ s.flag F.tmbAlignSweeping 0 = false) := by decide +kernel

/-- A member of frequency group 9 in a formed archipelago. -/
def grouped (l : List (Fld × Nat × Nat)) : List (Fld × Nat × Nat) := [(F.zlkArchState, 0, 2), (F.pwrFgrpGroup, 0, 9)] ++ l

theorem witness_FrequencyGroupsSwitchTogether :
    (mk (grouped [])).canon = true ∧ (mk (grouped [])).inGroup = true ∧ State.reset.inGroup = false ∧
    (∀ g ∈ [8, 9], let s := asked (msg 0x10 (g <<< 38)) Arch.fresh (grouped [])
       (s.takeSb 0 0x10).isSome = true ∧ (taken s 0x10).inGroup = true ∧ bits (msg 0x10 (g <<< 38)) 38 8 = g ∧ (taken s 0x10).getF F.pwrFgrpGroup 0 = 9 ∧ (taken s 0x10).treePorts = []) ∧
    (∀ a ∈ [0, 1], let s := asked (msg 0x11 (9 <<< 102)) Arch.fresh (grouped [(F.tmbAlignAligned, 0, a)])
       (s.takeSb 0 0x11).isSome = true ∧ (taken s 0x11).inGroup = true ∧ bits (msg 0x11 (9 <<< 102)) 102 8 = 9 ∧ (taken s 0x11).flag F.tmbAlignAligned 0 = (a == 1) ∧
       (taken s 0x11).getF F.tmbAlignAlgen 0 = bits (msg 0x11 (9 <<< 102)) 110 16 ∧ (taken s 0x11).treePorts = []) ∧
    (let s := fun (now : Nat) => { mk (grouped [(F.tmbNowNs, 0, now), (F.zlkArchDevnum, 0, 1)]) with arch := { Arch.fresh with switches := [(100, 30)], fg := [(0, 30, 9999900)] } }
     (s 100).dueSwitch = some (100, 30) ∧ (s 99).dueSwitch = none ∧ (s 10000000).leadsGroup = false ∧ (s 10000000).arch.leadAt + 10000000 ≤ (s 10000000).now ∧
     (s 9999999).now < (s 9999999).arch.leadAt + 10000000) ∧ (mk (grouped [])).leadsGroup = true := by decide +kernel

/-! ### Power, codecs -/

theorem witness_ControlStepsOnlyLowerAtOnce :
    State.reset.canon = true ∧ State.reset.phase < 4 ∧ (mk [(F.hbmPwrstatPhase, 0, 4)]).canon = true ∧ 4 ≤ (mk [(F.hbmPwrstatPhase, 0, 4)]).phase ∧
    tget (fun _ => 0) State.reset.power.raise_ 3 = 0 ∧
    (let s := { mk [(F.hbmPwrstatPhase, 0, 7)] with power := { Power.fresh with raise_ := [(3, 36)] } }
     s.canon = true ∧ tget (fun _ => 0) s.power.raise_ 3 = 36) := by decide +kernel

theorem witness_ThrottlesActAtOnce :
    State.reset.canon = true ∧ State.reset.power.stretched.contains 3 = false ∧
    sensorAt (([(114 : Int)] ++ List.replicate 72 0).take 72) 115 = none ∧ sensorAt (([(115 : Int)] ++ List.replicate 72 0).take 72) 115 ≠ none ∧ State.reset.power.hot = false ∧
    (mk [(F.hbmPwrstatPhase, 0, 1)]).canon = true ∧ (mk [(F.hbmPwrstatPhase, 0, 1)]).phase ≠ 0 ∧ (mk [(F.hbmPwrstatPhase, 0, 1)]).power.hot = false := by decide +kernel

/-- An encode stream of 16 by 16 pixels at level 30 with one reference and `n` pool buffers; rings in host memory. -/
def streamDesc (n : Nat) : List Byte :=
  blk 64 [(0, 1), (2, 30), (3, n), (4, 16), (6, 16), (8, 1), (10, 64), (16, 0x10000), (22, 0x10000)]

/-- Function 1 acts for partition 0, which may open one stream on engine 0; the descriptor lies at 0x1000. -/
def mayOpen (n : Nat) : State :=
  place [(0x1000, streamDesc n)] (baseWith [(F.chtFuncBound, 1, 1), (F.cdcShareStreams, 0, 1)])

/-- Function 1 owns stream 255 in state `st`, with nothing under way. -/
def streaming (st : Nat) : State :=
  { mk [(F.cdcSstatState, 255, st), (F.cdcSstatOwner, 255, 1)] with streams := [(255, { Stream.free with desc := streamDesc 2 })] }

theorem witness_StreamsOpenAndClose :
    (∀ n ∈ [1, 2], (mayOpen n).canon = true ∧ (mayOpen n).flag F.cdcScmdstatBusy 1 = false) ∧ fnSet (.fn 1) 0 = 1 ∧ opOf (opv 1 [(0, 0x1000)]) = 1 ∧
    (mayOpen 2).openStatus 1 (opv 1 [(0, 0x1000)]) = 0 ∧ (mayOpen 2).freeStream = some 0 ∧ (mayOpen 1).openStatus 1 (opv 1 [(0, 0x1000)]) = 0xAA ∧
    (∀ o ∈ [2, 3], let v := opv o [(48, 255)]; opOf v = o ∧ bits v 56 4 = 0 ∧ bits v 48 8 = 255) ∧
    (∀ st ∈ [0, 1, 2], let s := streaming st
       s.canon = true ∧ s.flag F.cdcScmdstatBusy 1 = false ∧ s.streamState 255 = st ∧ s.ownsStream 1 255 = (st != 0) ∧ (s.stream 255).frame = none ∧
       (s.stream 255).closing = false ∧ s.streamDone 255 = (st == 2)) ∧
    bit 0 0 = false ∧ bit 1 0 = true ∧
    (let s := streaming 1
     bits 16 32 32 = 0 ∧ (lo32 16 + 2 ^ 32 - s.getF F.cdcSstatFhead 255) % 2 ^ 32 ≤ 2 ^ (s.stream 255).frLog2 ∧
     ¬((lo32 17 + 2 ^ 32 - s.getF F.cdcSstatFhead 255) % 2 ^ 32 ≤ 2 ^ (s.stream 255).frLog2) ∧
     (lo32 0 + 2 ^ 32 - (s.stream 255).cHead) % 2 ^ 32 ≤ (s.getF F.cdcSstatCtail 255 + 2 ^ 32 - (s.stream 255).cHead) % 2 ^ 32 ∧
     ¬((lo32 1 + 2 ^ 32 - (s.stream 255).cHead) % 2 ^ 32 ≤ (s.getF F.cdcSstatCtail 255 + 2 ^ 32 - (s.stream 255).cHead) % 2 ^ 32)) := by decide +kernel

/-- A live encode stream 3 that drops late frames, with that frame; a state in which engine 0 may take it. -/
def frameOf (started held : Bool) (deadline : Nat) : Frame :=
  { newFrame (blk 64 [(14, 64), (18, 0x9000), (50, deadline)]) 0 with started := started, held := held, sat := true }
def coding (st : Nat) (tail : Nat) (f : Option Frame) (cur : Option Nat) : State :=
  { baseWith [(F.cdcSstatState, 3, st), (F.tmbNowNs, 0, 100)] with
    streams := [(3, { Stream.free with desc := blk 64 [(0, 0xA1), (2, 30), (3, 2), (4, 16), (6, 16), (8, 1), (10, 64), (12, 1), (16, 0x10000), (22, 0x10000)], fTail := tail, written := tail, frame := f,
                                       waiting := [⟨leBytes 128 0, none, 0⟩] })], engines := [(0, { Engine.fresh with cur := cur })] }

/-- The frame that fetch makes of a descriptor, and its status. -/
def fetched (s : State) (bytes : List Byte) : Nat :=
  let u := s.setF F.cdcSstatFhead 3 1
  let f := newFrame ((bytes ++ leBytes 64 0).take 64) 0
  (u.setStream 3 { s.stream 3 with frame := some f }).frameStatus (s.getF F.cdcSstatPart 3) (s.stream 3) f

theorem witness_FramesAreCoded :
    (∀ st ∈ [1, 2], let s := coding st 1 none none
       s.canon = true ∧ s.running = true ∧ bit ((s.stream 3).g 39 1) 0 = false ∧ (s.stream 3).frame = none ∧ s.streamState 3 = st ∧ (s.stream 3).written ≠ s.getF F.cdcSstatFhead 3 ∧
       (s.stream 3).fTail ≠ s.getF F.cdcSstatFhead 3) ∧
    fetched (coding 1 1 none none) (blk 64 [(62, 1)]) = 0xA8 ∧ fetched (coding 1 1 none none) (blk 64 [(8, 0x20000), (14, 64), (18, 0x9000)]) = 0 ∧
    (∀ b ∈ [true, false], let f := frameOf (!b) (!b) 0
       let s := coding 1 1 (some f) none
       s.canon = true ∧ (s.engine 0).cur = none ∧ (s.stream 3).frame = some f ∧
       ((s.restServed 0).nextFrame 0 = some (3, b))) ∧
    (let s := coding 1 1 none none
     (s.restServed 0).nextFrame 0 = none) ∧
    (let f := frameOf false false 99
     let s := coding 1 1 (some f) none
     s.streamState 3 ≠ 0 ∧ f.started = false ∧ s.pastDeadline (s.stream 3) f = true) ∧
    (let s := coding 1 1 none none
     s.crRoom 3 = true ∧ (s.stream 3).waiting ≠ [] ∧ (s.setF F.cdcSstatCtail 3 16).crRoom 3 = false) ∧
    (let f := frameOf true false 0
     let s := coding 1 1 (some f) (some 3)
     s.canon = true ∧ (s.engine 0).cur = some 3 ∧ (s.stream 3).frame = some f ∧ f.held = false) := by decide +kernel

/-! ### Power phases, resets, boot and charter -/

/-- The device at phase `p`; a phase runs up (DIR = 1) or down, or none. -/
def atPhase (p : Nat) (moving up part : Bool) : State :=
  { mk [(F.hbmPwrstatPhase, 0, p), (F.hbmPwrstatDir, 0, b2n up)] with seqr := ⟨up, moving, part, false, false, false, []⟩ }

theorem witness_PowerRequestsSetTheDirection :
    (∀ p ∈ [0, 6, 7], ∀ m ∈ [true, false], let s := atPhase p m true false
       s.canon = true ∧ s.pins.standby = true ∧ s.pins.boardTest = false ∧ s.pins.thermtrip = false ∧ s.pins.pwrfail = false ∧ s.seqr.moving = m ∧ s.phase = p ∧
       s.applying = false ∧ s.topPhase = 7) ∧
    (∀ i ∈ [0, 1, 2, 3], let q := { State.reset.pins with pwrfail := i == 0, thermtrip := i == 1, standby := i != 2, boardTest := i == 3 }
       q.pwrfail = true ∨ q.thermtrip = true ∨ q.standby = false ∨ q.boardTest = true) := by decide +kernel

theorem witness_PhasesMoveOneAtATime :
    (∀ up ∈ [true, false], ∀ m ∈ [true, false], ∀ part ∈ [true, false], ∀ p ∈ [0, 6], let s := atPhase p m up part
       s.canon = true ∧ s.seqr.moving = m ∧ s.flag F.hbmPwrstatDir 0 = up ∧ s.seqr.partial_ = part) := by decide +kernel

theorem witness_StandbyStrapsAndBoardTest :
    State.reset.canon = true ∧ State.reset.pins.standby = true ∧ State.reset.pins.sampled = false ∧ { State.reset.pins with sampled := true }.sampled = true ∧
    State.reset.pins.boardTest = false ∧ State.reset.seqr.moving = false ∧ State.reset.phase = 0 ∧
    (∀ m ∈ [true, false], let s := { atPhase 1 m false false with pins := { State.reset.pins with boardTest := true } }
       s.canon = true ∧ s.pins.boardTest = true ∧ s.seqr.moving = m ∧ 0 < s.phase ∧ s.applying = false) := by decide +kernel

theorem witness_ResetsRun :
    (∀ b ∈ [0, 1], (mk [(F.hbmRststatBusy, 0, b)]).canon = true ∧ (mk [(F.hbmRststatBusy, 0, b)]).flag F.hbmRststatBusy 0 = (b == 1)) ∧
    bits (1 <<< 30 + 15) 30 2 = 1 ∧ bits (1 <<< 30 + 15) 4 26 = 0 ∧ bits (2 <<< 30) 30 2 = 2 ∧ bits (2 <<< 30) 4 26 = 0 ∧ bits (2 <<< 30 + 16) 4 26 ≠ 0 ∧
    (let s := { mk [(F.hbmRststatBusy, 0, 1), (F.shtCtxstatState, 0, 1)] with ctxs := [(0, Context.free)], boot := { Boot.fresh with partReset := some 0 } }
     s.canon = true ∧ s.boot.partReset = some 0 ∧ s.ctxsIn (s.partOf 0) = [0]) ∧ State.reset.boot.partReset = none ∧
    (let s := atPhase 3 false true false
     s.canon = true ∧ 3 ≤ s.phase ∧ s.seqr.moving = false ∧ s.seqr.reset = false ∧ s.seqr.resetWaits = false ∧ s.applying = false ∧ s.pins.boardTest = false) ∧
    (let s := { mk [(F.pciQstatState, 9, 1), (F.pciQstatOwner, 9, 63), (F.shtCtxstatState, 5, 1), (F.shtCtxstatOwner, 5, 63)] with
       queues := [(9, Queue.free)], ctxs := [(5, Context.free)] }
     s.canon = true ∧ 9 ∈ s.queues.map (·.1) ∧ s.getF F.pciQstatState 9 = 1 ∧ s.getF F.pciQstatOwner 9 = 63) ∧
    (let s := { mk [(F.shtCtxstatState, 5, 1), (F.shtCtxstatOwner, 5, 63)] with ctxs := [(5, Context.free)] }
     s.canon = true ∧ 5 ∈ s.ctxs.map (·.1) ∧ s.getF F.shtCtxstatState 5 ≠ 0 ∧ s.getF F.shtCtxstatOwner 5 = 63 ∧ (s.queues.map (·.1)) = [] ∧
       (∀ n, n < 256 → ¬(s.streamState n ≠ 0))) := by decide +kernel

/-- An image of one payload byte with SECVER 7. -/
def firmware : List Byte := blk 257 [(0, 0x49565254), (4, 1), (6, 0xB0), (8, 7), (12, 1)]

theorem witness_ImagesAreWritten :
    State.reset.canon = true ∧ State.reset.flag F.hbmRststatBusy 0 = false ∧ bits (1 <<< 62) 62 2 = 1 ∧ bits (1 <<< 62) 30 32 = 0 ∧ bits (1 <<< 62) 0 30 = 0 ∧
    bits (2 <<< 62) 62 2 = 2 ∧ bits (2 <<< 62) 30 32 = 0 ∧ bits (3 <<< 62) 62 2 = 3 ∧ imageCheck (some []) 0 ≠ 0 ∧
    (let s := { mk [(F.hbmPwrstatPhase, 0, 3), (F.hbmBootstatRecovery, 0, 0)] with boot := { Boot.fresh with images := [some firmware, none], imgWrite := some (1, firmware) } }
     s.canon = true ∧ s.boot.imgWrite = some (1, firmware) ∧ s.boot.images.getD (s.getF F.hbmBootstatImage 0) none = some firmware ∧
     s.flag F.hbmRststatBusy 0 = false ∧ s.flag F.hbmBootstatRecovery 0 = false ∧ 3 ≤ s.phase) ∧
    (let s := { mk [(F.hbmPwrstatPhase, 0, 2), (F.hbmPwrstatDir, 0, 1)] with seqr := { State.reset.seqr with moving := true } }
     s.canon = true ∧ s.inPhase3 = true) := by decide +kernel

/-- An image passes its checks when the boot flash can hold it, its key is good, and its signature holds. -/
theorem witness_ImagesAreWritten_good (h : 257 ≤ imageSlot) (k : Config.keyRevoked 0 = false) (d : Config.sha384 ((firmware.drop 32).take 96) = Config.imageKey 0)
    (g : Config.sigOk ((firmware.drop 32).take 96) (firmware.take 160 ++ (firmware.drop 256).take 1) ((firmware.drop 160).take 96) = true) :
    imageCheck (some firmware) 7 = 0 := by
  have e : ¬(imageSlot < 257) := by omega
  have a : fieldAt firmware 12 4 = 1 := by decide +kernel
  have b : fieldAt firmware 7 1 = 0 := by decide +kernel
  have c : fieldAt firmware 8 4 = 7 := by decide +kernel
  have l : firmware.length = 257 := by decide +kernel
  have f : (fieldAt firmware 0 4 != 0x49565254 || fieldAt firmware 4 2 != 1 || fieldAt firmware 6 1 != 0xB0 || fieldAt firmware 16 16 != 0 ||
    fieldAt firmware 128 32 != 0) = false := by decide +kernel
  simp [imageCheck, a, b, c, l, f, e, k, d, g]

/-- An owner record with one signer key and no register record. -/
def owner (no : Nat) : List Byte := blk 384 [(0, 0x52544843), (4, 1), (7, 1), (8, no), (31, 1), (36, 384), (256, 0xFF)]

theorem witness_AmendmentsAreDelivered :
    (∀ st ∈ [0, 1, 2], let s := mk [(F.chtAmdst2State, 0, st), (F.hbmPwrstatPhase, 0, 3), (F.hbmBootstatRecovery, 0, 0)]
       s.canon = true ∧ s.getF F.chtAmdst2State 0 = st ∧ s.takesAmendments = true ∧ s.getF F.chtAmdaddrAddr 0 % 64 = 0 ∧ s.applying = (st == 2)) ∧
    State.reset.takesAmendments = false ∧ State.reset.recordStatus State.reset.chart [] = 0xB9 ∧ State.reset.slotFull (owner 1) = false ∧
    (∀ c ∈ [0, 1], let s := { mk [(F.chtAmdst2State, 0, 1), (F.chtAmdst2Affected, 0, 1), (F.chtPartCtxcount, 0, 1), (F.shtCtxstatState, 0, c)] with
       boot := { Boot.fresh with record := some (owner 1) } }
       s.canon = true ∧ s.boot.record = some (owner 1) ∧ s.getF F.chtAmdst2State 0 = 1 ∧
       ((List.range 16).all fun p => !bit (s.getF F.chtAmdst2Affected 0) p || s.quiescent p) = (c == 0)) := by decide +kernel

/-- It passes its checks when its signature holds. -/
theorem witness_AmendmentsAreDelivered_good (g : ∀ m x, Config.sigOk (chOwner (owner 1)) m x = true) :
    State.reset.recordStatus State.reset.chart (owner 1) = 0 := by
  have a : formatOk (owner 1) = true := by decide +kernel
  have b : State.reset.chart.numberOk (owner 1) = true := by decide +kernel
  have c : recordsOk (owner 1) = true := by decide +kernel
  have d : (State.reset.under (State.reset.chart.apply (owner 1))).charterOk = true := by decide +kernel
  have k : chKind (owner 1) = 0 := by decide +kernel
  have l : (chBlocks (owner 1)).all (fun x => x.1 == 0xFF) = true := by decide +kernel
  have e : State.reset.chart.sigsOk State.reset.boot.owner (owner 1) = true := by
    unfold Chart.sigsOk; simp only [k, ↓reduceIte]
    simpa [State.reset, Boot.fresh, g] using l
  simp [State.recordStatus, a, b, c, d, e]

/-! ### Errors and faults, numbers -/

/-- Command `o` of queue 0 with a part that runs in cluster 0. -/
def faulty (l : List (Nat × Nat)) : Cmd := { cmd l with st := .issued, parts := [⟨0, .running, false, 0, false, 0, 0, 0, 0, []⟩] }

theorem witness_RecordsAreQueuedAndPopped :
    isFolded 0x1A = true ∧ isFolded 0x08 = false ∧ State.reset.canon = true ∧ State.reset.erq.length < 1024 ∧ State.reset.erq = [] ∧
    (let s := { State.reset with erq := List.replicate 1024 (leBytes 64 (9 <<< 96)) }
     s.canon = true ∧ 1024 ≤ s.erq.length) ∧
    fieldAt (leBytes 64 (9 <<< 96)) 12 4 = 9 ∧ { State.reset with erq := [leBytes 64 (9 <<< 96)] }.canon = true := by decide +kernel

theorem witness_ClusterFaultsFailTheirPart :
    (∀ o ∈ [[(0, 1)], [(0, 2)], [(0, 3)], [(0, 4)], [(0, 8)]], ∀ chk ∈ [none, some 0], let s := { withCmd (mk [(F.tmbNowNs, 0, dayNs)]) (faulty o) with
         clusters := [(0, { Cluster.fresh with lastChk := chk })] }
       s.canon = true ∧ s.runningIn 0 0 0 = some (faulty o) ∧ (s.cluster 0).lastChk = chk ∧ s.now = 0 + dayNs ∧ s.clusterUp 0 = true ∧
       bit (s.getF F.sfuPipemapRetired 0) 31 = false) ∧
    (faulty [(0, 4)]).convOp = 0 ∧ 0 + dayNs < (mk [(F.tmbNowNs, 0, dayNs + 1)]).now ∧
    (∀ n ∈ [[], [(65541, 1)]], let s := { withCmd (mk [(F.tmbNowNs, 0, 3600000000000)]) (faulty [(0, 8)]) with clusters := [(0, { Cluster.fresh with rowErrs := n })] }
       s.canon = true ∧ s.runningIn 0 0 0 = some (faulty [(0, 8)]) ∧
       tget (fun _ => 0) ((s.record { cls := 0x0A, sev := 0, kind := 1, unit := 0, sub := 0, island := clusterIsland 0, addr := 0, syn := 0 }).cluster 0).rowErrs (1 * 65536 + 5) = n.length ∧
       s.now + 1 ≤ 1 + 3600000000000) := by decide +kernel

theorem witness_RetirementsAndSpares :
    State.reset.canon = true ∧ State.reset.isRetired 799 = false ∧ State.reset.cmds = [] ∧ (∀ x, State.reset.anchor x ≠ some 799) ∧
    (mk [(F.erqRetiredBits, 12, 2 ^ 31)]).isRetired 799 = true ∧ (mk [(F.erqRetiredBits, 12, 2 ^ 31)]).canon = true ∧
    bits (2 <<< 30 + 799) 0 10 = 799 ∧ bits (2 <<< 30 + 799) 30 2 = 2 ∧ bits (2 <<< 30 + 799) 10 20 = 0 ∧ 800 ≤ bits (2 <<< 30 + 800) 0 10 ∧
    bits (1 <<< 30) 30 2 = 1 ∧ bits (1 <<< 30) 10 20 = 0 ∧ bits (1 <<< 30 + 1 <<< 29) 10 20 ≠ 0 ∧ bits 0 30 2 ≠ 1 ∧ bits 0 30 2 ≠ 2 :=
  ⟨by decide +kernel, by decide +kernel, rfl, fun x => by
    rw [State.anchor, State.clusterSet, show (State.reset.ctx x).reaches = [] from rfl, State.clustersOf, List.filter_eq_nil_iff.mpr (by simp)]; nofun, by decide +kernel⟩

theorem witness_FatalErrorsStopTheDevice :
    State.reset.canon = true ∧ State.reset.pins.refLost = false ∧ State.reset.pins.standby = true ∧ State.reset.pins.boardTest = false ∧
    (mk [(F.hbmPwrstatPhase, 0, 1)]).canon = true ∧ 1 ≤ (mk [(F.hbmPwrstatPhase, 0, 1)]).phase ∧ (mk [(F.hbmPwrstatPhase, 0, 6)]).canon = true ∧
    6 ≤ (mk [(F.hbmPwrstatPhase, 0, 6)]).phase ∧ (mk [(F.erqStatusState, 0, 2)]).canon = true ∧ (mk [(F.erqStatusState, 0, 2)]).running = false ∧
    (let s := mk [(F.hbmPwrstatPhase, 0, 4), (F.memStatusState, 47, 2), (F.memStatusOwner, 47, 31)]
     s.canon = true ∧ 3 ∉ s.lostIslands ∧ 4 ≤ s.phase ∧ s.pins.boardTest = false ∧ (∀ p, p < 16 → s.onIsland p 3 = false) ∧ s.getF F.memStatusState (12 * 3 + 11) ≠ 0) := by
  decide +kernel

/-- A bundle of one item, a VOP, signed under key `key`. -/
def bundle (key : Nat) : List Byte := blk (64 + 128 + 128) [(0, 0x4C444E42), (4, 1), (6, key), (8, 77), (12, 1), (14, 1), (64, 8)]

theorem witness_FleetTestsRun :
    bits (1 <<< 62) 62 2 = 1 ∧ bits (1 <<< 62) 0 62 = 0 ∧ bits (2 <<< 62) 62 2 = 2 ∧ bits (2 <<< 62) 0 62 = 0 ∧ State.reset.canon = true ∧
    State.reset.flag F.erqTstatBusy 0 = false ∧ State.reset.bundleStatus [] false ≠ 0 ∧ State.reset.bundleStatus (bundle 4) false ≠ 0 ∧
    (∀ n ∈ [59999999999, 60000000000], let w : Bundle := ⟨77, true, 1, [leBytes 128 8], []⟩
       let s := { mk [(F.tmbNowNs, 0, n)] with bundle := some w, clusters := [(799, { Cluster.fresh with testAt := some 0 })] }
       s.bundle = some w ∧ s.testDue 0 w = true ∧ s.testDue 799 w = decide (60000000000 ≤ n)) := by decide +kernel

/-- A bundle passes its checks when its key is not revoked and its signature holds. -/
theorem witness_FleetTestsRun_good (k : Config.keyRevoked 0 = false)
    (g : Config.sigOk (Config.imagePub 0) ((bundle 0).take ((bundle 0).length - 128)) ((bundle 0).drop ((bundle 0).length - 128 + 32)) = true) :
    State.reset.bundleStatus (bundle 0) false = 0 := by
  have a : ((bundle 0).length != bundleLen (bundle 0)) = false := by decide +kernel
  have b : fieldAt (bundle 0) 6 1 = 0 := by decide +kernel
  have c : (!bundleHead (bundle 0) || false || !(bundleItems (bundle 0)).all itemOk) = false := by decide +kernel
  have e : State.reset.bundleKey (bundle 0) = some (Config.imagePub 0) := by simp [State.bundleKey, b, k]
  simp only [State.bundleStatus, a, e, g, c]
  rfl

theorem witness_ConversionsToIntegersSaturate :
    (∀ f ∈ [Fmt.int8, .uint8, .int16, .int32], f.isInt = true) ∧ (0 : Int) ≤ 0 ∧ (-1 : Int) < 0 ∧
    (2 * 3 + 2 ^ 1 = 2 * (2 * 2 ^ 1) ∧ 2 % 2 = 0) := by decide

theorem witness_IntegerOperationsAreExact : Fmt.int32 ∈ [Fmt.int8, .uint8, .int16, .int32] := by decide

theorem witness_StepsKeepCanonicalForm : State.reset.canon = true ∧ (step State.reset matches .next _) = true := by decide +kernel

end Sys2Proof.Tests
end

/-!
PROOFS. Register writes: what a register write stores, field by field, and what each kind of place does with an access (O26).
-/
namespace Sys2Proof.Machine

/-! ### Where fields are kept -/

/-- The key of a field in unit `i` is its key in unit 0, moved by `i` strides. -/
theorem Fld.key_eq_key_zero (f : Fld) (i : Nat) : f.key i = f.key 0 + 32768 * i := by
  unfold Fld.key
  omega

/-- A key spells the number of its register. -/
theorem register_of_key : ∀ f ∈ allFlds, f.key 0 / 128 % 256 = f.reg.idx := by decide +kernel

/-- No two fields of the device share a key. -/
theorem keys_nodup : (allFlds.map (·.key 0)).Nodup := by decide +kernel

/-- The key of a field of register `r` spells the number of `r`. -/
theorem Reg.idx_of_mem_flds {r : Reg} {f : Fld} (h : f ∈ r.flds) : f.key 0 / 128 % 256 = r.idx := by
  obtain ⟨hmem, hidx⟩ := List.mem_filter.1 h
  exact (register_of_key f hmem).trans (by simpa using hidx)

/-- Two fields of a register have different keys in the same unit. -/
theorem Reg.flds_keys (r : Reg) (i : Nat) : r.flds.Pairwise fun f g => f.key i ≠ g.key i := by
  have hall : allFlds.Pairwise fun f g => f.key 0 ≠ g.key 0 := List.pairwise_map.1 keys_nodup
  refine (hall.filter _).imp fun {f g} hne => ?_
  rw [f.key_eq_key_zero, g.key_eq_key_zero]
  omega

/-! ### A write of one field (R15) -/

/-- What field `f` of unit `i` holds after a write of `v` to its register, by its access code (R15). -/
def State.fieldAfter (s : State) (i v : Nat) (f : Fld) : Nat :=
  match f.acc with
  | .rw => s.storedValue f i (bits v f.lo f.w) % 2 ^ f.w
  | .w1c => (s.getF f i - (s.getF f i).land (bits v f.lo f.w)) % 2 ^ f.w
  | _ => s.getF f i

theorem State.fieldAfter_rw (s : State) (i v : Nat) {f : Fld} (h : f.acc = .rw) :
    s.fieldAfter i v f = s.storedValue f i (bits v f.lo f.w) % 2 ^ f.w := by
  simp only [State.fieldAfter, h]

theorem State.fieldAfter_w1c (s : State) (i v : Nat) {f : Fld} (h : f.acc = .w1c) :
    s.fieldAfter i v f = (s.getF f i - (s.getF f i).land (bits v f.lo f.w)) % 2 ^ f.w := by
  simp only [State.fieldAfter, h]

theorem State.fieldAfter_other (s : State) (i v : Nat) {f : Fld} (hrw : f.acc ≠ .rw) (hw1c : f.acc ≠ .w1c) :
    s.fieldAfter i v f = s.getF f i := by
  unfold State.fieldAfter
  split
  · contradiction
  · contradiction
  · rfl

/-- A write of a field sets that field, or does nothing. -/
theorem State.writeField_cases (s : State) (i v : Nat) (f : Fld) :
    (∃ x, s.writeField i v f = s.setF f i x ∧ s.fieldAfter i v f = x % 2 ^ f.w) ∨
    (s.writeField i v f = s ∧ s.fieldAfter i v f = s.getF f i) := by
  unfold State.writeField State.fieldAfter
  cases f.acc with
  | rw | w1c => exact .inl ⟨_, rfl, rfl⟩
  | ro | wo | lk => exact .inr ⟨rfl, rfl⟩

theorem State.getF_writeField_same {s : State} (h : rises s.regs = true) (i v : Nat) (f : Fld) :
    (s.writeField i v f).getF f i = s.fieldAfter i v f := by
  obtain ⟨x, hset, hx⟩ | ⟨hsame, hx⟩ := s.writeField_cases i v f
  · rw [hset, hx, State.getF_setF_same h]
  · rw [hsame, hx]

theorem State.getF_writeField_ne (s : State) {i j : Nat} (v : Nat) {f g : Fld} (h : g.key j ≠ f.key i) :
    (s.writeField i v f).getF g j = s.getF g j := by
  obtain ⟨x, hset, -⟩ | ⟨hsame, -⟩ := s.writeField_cases i v f
  · rw [hset, s.getF_setF_ne x h]
  · rw [hsame]

theorem State.rises_writeField {s : State} (h : rises s.regs = true) (i v : Nat) (f : Fld) : rises (s.writeField i v f).regs = true := by
  obtain ⟨x, hset, -⟩ | ⟨hsame, -⟩ := s.writeField_cases i v f
  · rw [hset]; exact State.rises_setF h f i x
  · rwa [hsame]

@[simp] theorem State.fresh_writeField (s : State) (i v : Nat) (f : Fld) : (s.writeField i v f).fresh = s.fresh := by
  obtain ⟨x, hset, -⟩ | ⟨hsame, -⟩ := s.writeField_cases i v f
  · rw [hset, State.setF_fresh]
  · rw [hsame]

/-- A write of a field of register `r` keeps every other register. -/
theorem State.regs_writeField (s : State) {r : Reg} {f : Fld} (hf : f ∈ r.flds) (i v : Nat) : RegsKept [r] s (s.writeField i v f) := by
  obtain ⟨x, hset, -⟩ | ⟨hsame, -⟩ := s.writeField_cases i v f
  · rw [hset]; exact (RegsKept.refl _ s).setF f i x (by simp [Reg.idx_of_mem_flds hf])
  · rw [hsame]; exact RegsKept.refl _ s

/-! ### A write of a whole register -/

/-- A field of a register that is not listed reads the same. -/
theorem RegsKept.getF_eq {rs : List Reg} {s t : State} (h : RegsKept rs s t) {f : Fld} (w : f.key 0 / 128 % 256 ∉ rs.map (·.idx)) (i : Nat) :
    t.getF f i = s.getF f i := by
  refine h f i ?_
  rwa [f.key_eq_key_zero, show (f.key 0 + 32768 * i) / 128 % 256 = f.key 0 / 128 % 256 by omega]

/-- Who holds an arrival counter rests on ZLK_ARRALLOC alone. -/
theorem RegsKept.arrivalHolder_eq {rs : List Reg} {s t : State} (h : RegsKept rs s t) (w : R.zlkArralloc.idx ∉ rs.map (·.idx)) (a : Nat) :
    t.arrivalHolder a = s.arrivalHolder a := by
  have hfirst := h.getF_eq (f := F.zlkArrallocArrfirst) w
  have hcount := h.getF_eq (f := F.zlkArrallocArrcount) w
  have howns : t.ownsArrival = s.ownsArrival := by
    funext p b
    simp only [State.ownsArrival, hfirst, hcount]
  rw [State.arrivalHolder, State.arrivalHolder, howns]

/-- What a write stores in a field of register `r` rests on no field of `r` itself: only the ports of ZLK_ARRCFG rest on registers, and these are others. -/
theorem State.storedValue_eq_of_regsKept {s t : State} {r : Reg} (h : RegsKept [r] s t) (hfresh : t.fresh = s.fresh) {f : Fld} (hf : f ∈ r.flds)
    (i x : Nat) : t.storedValue f i x = s.storedValue f i x := by
  by_cases hports : f = F.zlkArrcfgPorts
  · have hr : r.idx = R.zlkArrcfg.idx := by rw [← Reg.idx_of_mem_flds hf, hports]; rfl
    have hholder := h.arrivalHolder_eq (by simp [hr, R.zlkArralloc, R.zlkArrcfg]) i
    have hlinks := h.getF_eq (f := F.chtPartLinks) (by rw [List.map_singleton, hr]; decide)
    simp only [State.storedValue, hholder, hlinks, hfresh]
  · simp only [State.storedValue, if_neg hports, hfresh]

/-- Writing one field of a register leaves what the same write stores in another. -/
theorem State.fieldAfter_writeField {s : State} {r : Reg} {f g : Fld} (hf : f ∈ r.flds) (hg : g ∈ r.flds) (i v : Nat) (hne : g.key i ≠ f.key i) :
    (s.writeField i v f).fieldAfter i v g = s.fieldAfter i v g := by
  have hstored := State.storedValue_eq_of_regsKept (s.regs_writeField hf i v) (s.fresh_writeField i v f) hg i
  simp only [State.fieldAfter, hstored, s.getF_writeField_ne v hne]

/-- Writing some fields of a register leaves a field whose key is none of theirs. -/
theorem State.getF_writeFields_ne (s : State) (i v : Nat) (l : List Fld) {g : Fld} (h : ∀ f ∈ l, g.key i ≠ f.key i) :
    (l.foldl (fun (t : State) f => t.writeField i v f) s).getF g i = s.getF g i := by
  induction l generalizing s with
  | nil => rfl
  | cons f l ih =>
    obtain ⟨hf, hl⟩ := List.forall_mem_cons.1 h
    exact (ih _ hl).trans (s.getF_writeField_ne v hf)

/-- Fields of a register with different keys, written one after the other, each hold what the write alone would have stored. -/
theorem State.getF_writeFields {s : State} (hs : rises s.regs = true) {r : Reg} (i v : Nat) {l : List Fld} (hr : ∀ f ∈ l, f ∈ r.flds)
    (hl : l.Pairwise fun f g => f.key i ≠ g.key i) {f : Fld} (hf : f ∈ l) :
    (l.foldl (fun (t : State) f => t.writeField i v f) s).getF f i = s.fieldAfter i v f := by
  induction l generalizing s with
  | nil => cases hf
  | cons a l ih =>
    obtain ⟨ha, hrest⟩ := List.forall_mem_cons.1 hr
    obtain ⟨hal, hl⟩ := List.pairwise_cons.1 hl
    rw [List.foldl_cons]
    obtain rfl | hf := List.mem_cons.1 hf
    · rw [State.getF_writeFields_ne _ i v l hal, State.getF_writeField_same hs]
    · rw [ih (State.rises_writeField hs i v a) hrest hl hf, State.fieldAfter_writeField ha (hrest f hf) i v (Ne.symm (hal f hf))]

/-- A write of a register reads as the writes of its fields. -/
theorem State.getF_writeReg (s : State) (r : Reg) (i v : Nat) (f : Fld) (j : Nat) :
    (s.writeReg r i v).getF f j = (r.flds.foldl (fun (t : State) f => t.writeField i v f) s).getF f j := by
  unfold State.writeReg
  split <;> rfl

/-- A write of a register stores in each of its fields what the field's access code says (R15). -/
theorem State.getF_writeReg_field {s : State} (hs : rises s.regs = true) {r : Reg} (i v : Nat) {f : Fld} (hf : f ∈ r.flds) :
    (s.writeReg r i v).getF f i = s.fieldAfter i v f := by
  rw [State.getF_writeReg, State.getF_writeFields hs i v (fun _ h => h) (r.flds_keys i) hf]

theorem State.regs_writeFields (s : State) {r : Reg} (i v : Nat) {l : List Fld} (hl : ∀ f ∈ l, f ∈ r.flds) :
    RegsKept [r] s (l.foldl (fun (t : State) f => t.writeField i v f) s) := by
  induction l generalizing s with
  | nil => exact RegsKept.refl _ s
  | cons f l ih =>
    obtain ⟨hf, hl⟩ := List.forall_mem_cons.1 hl
    exact (s.regs_writeField hf i v).trans (ih _ hl)

/-- A write of a register keeps every other register. -/
theorem State.regs_writeReg (s : State) (r : Reg) (i v : Nat) : RegsKept [r] s (s.writeReg r i v) := fun f j h =>
  (s.getF_writeReg r i v f j).trans (s.regs_writeFields i v (fun _ h => h) f j h)

theorem State.only_writeReg (s : State) (r : Reg) (i v : Nat) : OnlyChanged [.regs, .fresh] s (s.writeReg r i v) :=
  (State.writeReg_kept (E := fun c => c ∈ [Comp.regs, .fresh]) s r i v (Kept.refl s) (by simp) (by simp)).only

/-! ### An access at a place (R555, R556, R560) -/

section place
variable (s : State) (acr : Acr) (r : Reg) (i addr v : Nat)

theorem State.writePlace_narrow (high : Bool) (h : r.narrow = false) : s.writePlace acr r i high addr 4 v = s.refuseAcc acr := by
  simp [State.writePlace, h]

theorem State.writePlace_high : s.writePlace acr r i true addr 8 v = s.setLatch acr v := by
  simp [State.writePlace]

theorem State.writePlace_ownRow (h : ownRow r = true) : s.writePlace acr r i false addr 8 v = s := by
  simp [State.writePlace, h]

theorem State.writePlace_noLinkRight (h : ownRow r = false) (hp : s.pgenOk acr r i = false) :
    s.writePlace acr r i false addr 8 v = s.refuseAcc acr := by
  simp [State.writePlace, h, hp]

theorem State.writePlace_wide (h : ownRow r = false) (hp : s.pgenOk acr r i = true) (hw : r.width = 2) :
    s.writePlace acr r i false addr 8 v = (s.writeReg r i (s.wide acr v)).setLatch acr 0 := by
  simp [State.writePlace, h, hp, hw]

theorem State.writePlace_oneSlot (h : ownRow r = false) (hp : s.pgenOk acr r i = true) (hw : r.width = 1) :
    s.writePlace acr r i false addr 8 v = s.writeReg r i v := by
  simp [State.writePlace, h, hp, hw]

end place

/-! ### REGISTER_WRITE -/

/-- What an access of 4 or 8 aligned bytes does to what lies at its address. -/
def State.accessPlace (s : State) (acr : Acr) (set addr size v : Nat) (p : Place) : State :=
  match p with
  | .reg r i high => s.writePlace acr r i high addr size v
  | .msix b => s.writeMsix (fnSet acr set) b size v
  | .nothing => s
  | .beyond => s.refuseAcc acr

section access
variable {s : State} {set addr size : Nat} (acr : Acr) (v : Nat)

/-- An access that is not of 4 or 8 naturally aligned bytes is refused. -/
theorem exec_registerWrite_malformed (h : (size ≠ 4 ∧ size ≠ 8) ∨ addr % size ≠ 0) :
    exec (.registerWrite acr set false addr size v) s = .next (s.refuseAcc acr) := by
  have hbad : (!(size == 4 || size == 8) || addr % size != 0) = true := by
    simpa using h
  simp only [exec, execRegisterWrite, hbad, if_true, Bool.false_eq_true, if_false]

/-- An access of 4 or 8 naturally aligned bytes goes by what lies at its address. -/
theorem exec_registerWrite_aligned (hsize : size = 4 ∨ size = 8) (halign : addr % size = 0) {p : Place} (hp : s.placeOf acr set addr = p) :
    exec (.registerWrite acr set false addr size v) s = .next (s.accessPlace acr set addr size v p) := by
  have hgood : (!(size == 4 || size == 8) || addr % size != 0) = false := by
    obtain rfl | rfl := hsize <;> simp [halign]
  subst hp
  simp only [exec, execRegisterWrite, hgood, Bool.false_eq_true, if_false]
  rfl

end access

/-- A configuration write of a function's Message Control is applied. -/
theorem exec_registerWrite_msgCtl (s : State) (acr : Acr) {set : Nat} (addr size v : Nat) (h : fnSet acr set < 64) :
    exec (.registerWrite acr set true addr size v) s = .next (s.writeMsgCtl (fnSet acr set) v) := by
  simp [exec, execRegisterWrite, h]

/-- An access of 8 aligned bytes to a one-slot register without a command of its own writes the register. -/
theorem exec_registerWrite_oneSlot {s : State} {acr : Acr} {set addr : Nat} {r : Reg} {i : Nat} (v : Nat) (halign : addr % 8 = 0)
    (hp : s.placeOf acr set addr = .reg r i false) (hw : r.width = 1) (hown : ownRow r = false) (hpgen : s.pgenOk acr r i = true) :
    exec (.registerWrite acr set false addr 8 v) s = .next (s.writeReg r i v) := by
  rw [exec_registerWrite_aligned acr v (.inr rfl) halign hp]
  exact congrArg _ (s.writePlace_oneSlot acr r i addr v hown hpgen hw)

/-- Settles O26: the fields of the register have different keys, so writing them one after the other stores in each what the write of it alone stores;
each other clause is the branch of the access that its hypotheses pick. -/
theorem registerWritesFollowTheAccessCodes : Obligations.RegisterWritesFollowTheAccessCodes := by
  unfold Obligations.RegisterWritesFollowTheAccessCodes
  refine ⟨fun s acr set addr v r i hcanon halign hp hw hown hpgen => ?_, fun s acr set addr size v => ⟨fun hbad => ?_, fun hsize halign => ?_, fun hfn => ?_⟩⟩
  · refine ⟨_, exec_registerWrite_oneSlot v halign hp hw hown hpgen, s.regs_writeReg r i v, s.only_writeReg r i v, fun f hf => ?_⟩
    rw [State.getF_writeReg_field (State.canon_regs hcanon) i v hf]
    exact ⟨s.fieldAfter_rw i v, s.fieldAfter_w1c i v, s.fieldAfter_other i v⟩
  · exact exec_registerWrite_malformed acr v hbad
  · refine ⟨exec_registerWrite_aligned acr v hsize halign, exec_registerWrite_aligned acr v hsize halign,
      fun b => exec_registerWrite_aligned acr v hsize halign, fun r i h hp => ?_⟩
    rw [exec_registerWrite_aligned acr v hsize halign hp, State.accessPlace]
    refine ⟨?_, ?_, ?_, ?_, ?_⟩
    · rintro rfl hnarrow
      rw [s.writePlace_narrow acr r i addr v h hnarrow]
    · rintro rfl rfl
      rw [s.writePlace_high acr r i addr v]
    · rintro rfl rfl hown
      rw [s.writePlace_ownRow acr r i addr v hown]
    · rintro rfl rfl hown hpgen
      rw [s.writePlace_noLinkRight acr r i addr v hown hpgen]
    · rintro rfl rfl hown hpgen hw
      rw [s.writePlace_wide acr r i addr v hown hpgen hw]
  · exact exec_registerWrite_msgCtl s acr addr size v hfn

end Sys2Proof.Machine

/-!
PROOFS. Completion: reports of parts, and the completion of a command (O12).
-/
namespace Sys2Proof.Machine

section report
variable (s : State) {c : Cmd} {cl : Nat} {p : Part} (cause : Option Nat) (hp : c.part? cl = some p)
include hp

/-- A part that succeeded is marked as reported. -/
theorem State.reportPart_ok (hok : p.status = 0) :
    s.reportPart c cl cause = s.setCmd (c.mapPart cl fun p => { p with reported := true }) := by
  simp only [State.reportPart, hp, hok, if_true]

/-- The first failed part of a command gives the command its status and names its cluster (R119); a status of R120 tears the context down. -/
theorem State.reportPart_fail (hfail : p.status ≠ 0) (hc : c.status = 0) (hbad : c.bad.contains cl = false) :
    s.reportPart c cl cause =
      let d := { c.mapPart cl (fun p => { p with reported := true }) with bad := c.bad ++ [cl], status := p.status, addr := p.addr }
      if tearsDown p.status then (s.setCmd d).faultCtx c.ctx ⟨p.status, 0x30, p.addr, 0, some c.id, cause⟩ else s.setCmd d := by
  simp only [State.reportPart, hp, hfail, if_false, Cmd.mapPart, hc, hbad, if_true, Bool.false_eq_true]

end report

/-- PART_COMPLETE of a part that is done is its report. -/
theorem exec_partComplete_done {s : State} {cl q seq : Nat} {c : Cmd} (hc : s.cmdAt? q seq = some c) (hst : c.st = .issued)
    (hdone : c.partDone cl = true) : exec (.partComplete cl q seq) s = .next (s.reportPart c cl none) := by
  simp [exec, execPartComplete, hc, hst, hdone]

/-- COMMAND_COMPLETE of a command that is due carries out the steps of R118. -/
theorem exec_commandComplete_due {s : State} {q seq : Nat} {c : Cmd} (hrun : s.running = true) (hc : s.cmdAt? q seq = some c)
    (hdue : s.completeDue c = true) :
    exec (.commandComplete q seq) s = .next ((s.beforeComplete c).1.completeCmd (s.beforeComplete c).2).pruneFences := by
  simp [exec, execCommandComplete, hc, hrun, hdue]

/-- What a command does as it completes keeps its number. -/
@[simp] theorem State.beforeComplete_id (s : State) (c : Cmd) : (s.beforeComplete c).2.id = c.id := by
  unfold State.beforeComplete
  split <;> rfl

/-- Ending cluster fences leaves the tracked commands. -/
@[simp] theorem State.cmd_pruneFences (s : State) (k : Nat) : s.pruneFences.cmd? k = s.cmd? k := State.cmd_congr rfl k

/-- Settles O12: the report of a part by its status, and a completed command is tracked no longer since its completion drops its entry. -/
theorem partsReportAndCommandsComplete : Obligations.PartsReportAndCommandsComplete := by
  unfold Obligations.PartsReportAndCommandsComplete
  refine ⟨fun s cl q seq c p hc hst hdone hp => ?_, fun s q seq c hrun hc hdue => ⟨_, exec_commandComplete_due hrun hc hdue, rfl, ?_⟩⟩
  · rw [exec_partComplete_done hc hst hdone]
    exact ⟨fun hok => congrArg _ (s.reportPart_ok none hp hok), fun hfail hok hbad => congrArg _ (s.reportPart_fail none hp hfail hok hbad)⟩
  · rw [State.cmd_pruneFences, ← s.beforeComplete_id c]
    exact State.cmd_completeCmd _ _

end Sys2Proof.Machine

/-!
PROOFS. Requests at a memory site: what a read answers and leaves behind, what a poison mark stores, and requests that reach no site (O30).
-/
namespace Sys2Proof.Machine

/-! ### Classes and delivered bytes -/

/-- Only the deviations 0 and PZ are of a class without a symbol error (Table 13-3, rows 1 and 2). -/
theorem eq_zero_or_pz_of_classify {d : Nat} (h : classify d = .clean ∨ classify d = .poisoned) : d = 0 ∨ d = pzDev := by
  by_cases hzero : d = 0
  · exact .inl hzero
  by_cases hpz : d = pzDev
  · exact .inr hpz
  simp only [classify, if_neg hzero, if_neg hpz] at h
  split at h
  · simp at h
  · split at h <;> simp at h

section word
variable {s t : State}

theorem State.canon_ecc (h : s.canon = true) : rises s.ecc = true := twf_rises (State.canon_iff.1 h).2.1

/-- A word without a symbol error delivers its stored bytes. -/
theorem State.byteAt_eq_rawByte {a : Nat} (h : tget (fun _ => 0) s.ecc (a / 64) = 0 ∨ tget (fun _ => 0) s.ecc (a / 64) = pzDev) :
    s.byteAt a = s.rawByte a := by
  unfold State.byteAt
  obtain h | h := h
  · rw [h, classify_zero]
  · rw [h, classify_pz]

/-- A byte rests on its own stored byte and on the deviation of its own word. -/
theorem State.byteAt_eq_of_stored {a : Nat} (hraw : t.rawByte a = s.rawByte a)
    (hdev : tget (fun _ => 0) t.ecc (a / 64) = tget (fun _ => 0) s.ecc (a / 64)) : t.byteAt a = s.byteAt a := by
  unfold State.byteAt
  rw [hdev, hraw]

/-- No access to device memory loses a site. -/
theorem RegsKept.siteLost_eq (h : RegsKept memoryRegs s t) (n : Nat) : t.siteLost n = s.siteLost n := by
  unfold State.siteLost
  rw [h.getF_eq (by decide)]

/-- The class of a word rests on its deviation and on whether its site is lost. -/
theorem RegsKept.wordClass_eq (h : RegsKept memoryRegs s t) {w : Nat} (hdev : tget (fun _ => 0) t.ecc w = tget (fun _ => 0) s.ecc w) :
    t.wordClass w = s.wordClass w := by
  unfold State.wordClass
  rw [h.siteLost_eq, hdev]

/-- Every word of a lost site is poison (R330). -/
theorem State.isPoison_of_siteLost {w : Nat} (h : s.siteLost (wordSite w) = true) : (s.wordClass w).isPoison = true := by
  simp [State.wordClass, h, WordClass.isPoison]

/-- A word whose check bytes hold PZ is poison (R323). -/
theorem State.isPoison_of_pz {w : Nat} (h : tget (fun _ => 0) s.ecc w = pzDev) : (s.wordClass w).isPoison = true := by
  unfold State.wordClass
  rw [h, classify_pz]
  split <;> rfl

/-- Decoding a word of a site that is not lost leaves the deviations of a word without a symbol error, and sets that of another to 0 or PZ (R324). -/
theorem State.ecc_decodeWord (w src : Nat) (hl : s.siteLost (wordSite w) = false) :
    ((tget (fun _ => 0) s.ecc w = 0 ∨ tget (fun _ => 0) s.ecc w = pzDev) ∧ (s.decodeWord w src).ecc = s.ecc) ∨
    ∃ d, (d = 0 ∨ d = pzDev) ∧ (s.decodeWord w src).ecc = tset (fun _ => 0) s.ecc w d := by
  unfold State.decodeWord
  simp only [hl, Bool.false_eq_true, if_false]
  cases hc : classify (tget (fun _ => 0) s.ecc w) with
  | clean => exact .inl ⟨eq_zero_or_pz_of_classify (.inl hc), rfl⟩
  | poisoned => exact .inl ⟨eq_zero_or_pz_of_classify (.inr hc), by dsimp only; split <;> rfl⟩
  | corrected p e => exact .inr ⟨0, .inl rfl, by simp [State.fixSymbol_ecc]⟩
  | poisonedCorrected p e => exact .inr ⟨pzDev, .inr rfl, by dsimp only; split <;> simp [State.fixSymbol_ecc]⟩
  | uncorrectable => exact .inr ⟨pzDev, .inr rfl, by dsimp only; split <;> simp [State.eccUncorrectable_ecc]⟩

/-- A decoded word of a site that is not lost has no symbol error left (R324). -/
theorem State.dev_decodeWord_same (hs : s.canon = true) (w src : Nat) (hl : s.siteLost (wordSite w) = false) :
    tget (fun _ => 0) (s.decodeWord w src).ecc w = 0 ∨ tget (fun _ => 0) (s.decodeWord w src).ecc w = pzDev := by
  obtain ⟨hd, he⟩ | ⟨d, hd, he⟩ := s.ecc_decodeWord w src hl
  · rwa [he]
  · rwa [he, tget_tset_same _ _ _ _ (State.canon_ecc hs)]

/-- Decoding a word leaves the deviation of every other. -/
theorem State.dev_decodeWord_ne {w x : Nat} (src : Nat) (hl : s.siteLost (wordSite w) = false) (hx : x ≠ w) :
    tget (fun _ => 0) (s.decodeWord w src).ecc x = tget (fun _ => 0) s.ecc x := by
  obtain ⟨-, he⟩ | ⟨d, -, he⟩ := s.ecc_decodeWord w src hl
  · rw [he]
  · rw [he, tget_tset_ne _ _ _ _ hx]

end word

/-! ### Marking one burst as poison (R326) -/

/-- What a write of `n` bytes of word `w` begins with: it is counted, and a write of less than the whole burst first reads the word (R325, R326). -/
def State.mergeRead (s : State) (w n : Nat) : State :=
  let t := s.bump F.cntSitewrBytes (wordSite w) 64
  if n = 64 then t else t.decodeWord w 1

section merge
variable {s : State} (w n : Nat)

theorem State.regs_countWrite (s : State) (w : Nat) : RegsKept memoryRegs s (s.bump F.cntSitewrBytes (wordSite w) 64) :=
  (RegsKept.refl _ s).setF _ _ _ (by decide)

theorem State.regs_mergeRead (s : State) : RegsKept memoryRegs s (s.mergeRead w n) :=
  RegsKept.ite (s.regs_countWrite w) ((s.regs_countWrite w).trans (State.regs_decodeWord _ w 1))

theorem State.canon_countWrite (hs : s.canon = true) : (s.bump F.cntSitewrBytes (wordSite w) 64).canon = true :=
  (State.bump_kept (E := memFx) s _ _ _ (Kept.refl s) (by simp [memFx])).2 hs

theorem State.byteAt_mergeRead (hs : s.canon = true) (b : Nat) : (s.mergeRead w n).byteAt b = s.byteAt b := by
  have hcount : (s.bump F.cntSitewrBytes (wordSite w) 64).byteAt b = s.byteAt b := State.byteAt_congr rfl rfl b
  unfold State.mergeRead
  dsimp only
  split
  · exact hcount
  · exact (State.byteAt_decodeWord (State.canon_countWrite w hs) w 1 b).trans hcount

/-- The read before a partial write leaves its word without a symbol error. -/
theorem State.dev_mergeRead_same {n : Nat} (hs : s.canon = true) (hl : s.siteLost (wordSite w) = false) (hn : n ≠ 64) :
    tget (fun _ => 0) (s.mergeRead w n).ecc w = 0 ∨ tget (fun _ => 0) (s.mergeRead w n).ecc w = pzDev := by
  rw [State.mergeRead, if_neg hn]
  exact State.dev_decodeWord_same (State.canon_countWrite w hs) w 1 (((s.regs_countWrite w).siteLost_eq _).trans hl)

theorem State.dev_mergeRead_ne {w x : Nat} (hl : s.siteLost (wordSite w) = false) (hx : x ≠ w) :
    tget (fun _ => 0) (s.mergeRead w n).ecc x = tget (fun _ => 0) s.ecc x := by
  unfold State.mergeRead
  dsimp only
  split
  · rfl
  · exact State.dev_decodeWord_ne 1 (((s.regs_countWrite w).siteLost_eq _).trans hl) hx

theorem State.canon_mergeRead (hs : s.canon = true) : (s.mergeRead w n).canon = true := by
  unfold State.mergeRead
  dsimp only
  split
  · exact State.canon_countWrite w hs
  · exact State.decodeWord_canon (State.canon_countWrite w hs) w 1

end merge

section poisonWord
variable {s : State} {a : Nat}

/-- A lost site only counts the write (R330). -/
theorem State.poisonWord_lost (n : Nat) (hl : s.siteLost (wordSite (a / 64)) = true) :
    s.poisonWord a n = s.bump F.cntSitewrBytes (wordSite (a / 64)) 64 := by
  have h := ((s.regs_countWrite (a / 64)).siteLost_eq (wordSite (a / 64))).trans hl
  simp only [State.poisonWord, h, if_true]

/-- On any other site the bytes of the range take new values and the burst takes PZ (R326). -/
theorem State.poisonWord_stored (n : Nat) (hl : s.siteLost (wordSite (a / 64)) = false) :
    ∃ bs : List Byte, bs.length = n ∧
      s.poisonWord a n = (((s.mergeRead (a / 64) n).putBytes a bs).bumpFresh n).setDev (a / 64) pzDev := by
  have h := ((s.regs_countWrite (a / 64)).siteLost_eq (wordSite (a / 64))).trans hl
  refine ⟨(List.range n).map fun i => Config.freeByte ((s.mergeRead (a / 64) n).fresh + i), by simp, ?_⟩
  simp only [State.poisonWord, State.mergeRead, h, Bool.false_eq_true, if_false]

theorem State.putBytes_regs (s : State) (a : Nat) (bs : List Byte) : (s.putBytes a bs).regs = s.regs := by
  induction bs generalizing s a with
  | nil => rfl
  | cons b bs ih => exact ih (s.putByte a b) (a + 1)

/-- Marking a burst as poison changes the registers of an access to device memory only. -/
theorem State.regs_poisonWord (s : State) (a n : Nat) : RegsKept memoryRegs s (s.poisonWord a n) := by
  cases hl : s.siteLost (wordSite (a / 64)) with
  | true => rw [State.poisonWord_lost n hl]; exact s.regs_countWrite (a / 64)
  | false =>
    obtain ⟨bs, -, h⟩ := State.poisonWord_stored n hl
    rw [h]
    exact (State.regs_mergeRead (a / 64) n s).of_regs (State.putBytes_regs _ a bs)

theorem State.canon_poisonWord (hs : s.canon = true) (a n : Nat) : (s.poisonWord a n).canon = true :=
  (State.poisonWord_kept (E := memFx) s a n (Kept.refl s) (by simp [memFx]) (by simp [memFx]) (by simp [memFx]) (by simp [memFx])
    (by simp [memFx]) (by simp [memFx]) (by simp [memFx]) (by simp [memFx]) (by simp [memFx]) (by simp [memFx])).2 hs

/-- On a site that is not lost the marked burst takes PZ. -/
theorem State.dev_poisonWord_same (hs : s.canon = true) (n : Nat) (hl : s.siteLost (wordSite (a / 64)) = false) :
    tget (fun _ => 0) (s.poisonWord a n).ecc (a / 64) = pzDev := by
  obtain ⟨bs, -, h⟩ := State.poisonWord_stored n hl
  rw [h]
  refine tget_tset_same _ _ _ _ ?_
  rw [State.bumpFresh_ecc, State.putBytes_ecc]
  exact State.canon_ecc (State.canon_mergeRead _ n hs)

/-- Marking one burst leaves the deviation of every other word. -/
theorem State.dev_poisonWord_ne (s : State) {a x : Nat} (n : Nat) (hx : x ≠ a / 64) :
    tget (fun _ => 0) (s.poisonWord a n).ecc x = tget (fun _ => 0) s.ecc x := by
  cases hl : s.siteLost (wordSite (a / 64)) with
  | true => rw [State.poisonWord_lost n hl]; rfl
  | false =>
    obtain ⟨bs, -, h⟩ := State.poisonWord_stored n hl
    rw [h, State.setDev_ecc, tget_tset_ne _ _ _ _ hx, State.bumpFresh_ecc, State.putBytes_ecc, State.dev_mergeRead_ne n hl hx]

/-- Outside the marked part the stored bytes are those that the read before the mark left. -/
theorem State.rawByte_poisonWord_out {n b : Nat} (hl : s.siteLost (wordSite (a / 64)) = false) (hb : b < a ∨ a + n ≤ b) :
    (s.poisonWord a n).rawByte b = (s.mergeRead (a / 64) n).rawByte b := by
  obtain ⟨bs, hlen, h⟩ := State.poisonWord_stored n hl
  rw [h]
  exact State.rawByte_putBytes_out _ a bs (by rwa [hlen])

/-- A burst that is marked, wholly or in part, is poison (R326). -/
theorem State.isPoison_poisonWord (hs : s.canon = true) (a n : Nat) : ((s.poisonWord a n).wordClass (a / 64)).isPoison = true := by
  cases hl : s.siteLost (wordSite (a / 64)) with
  | true => exact State.isPoison_of_siteLost (((s.regs_poisonWord a n).siteLost_eq _).trans hl)
  | false => exact State.isPoison_of_pz (State.dev_poisonWord_same hs n hl)

/-- Marking one burst leaves the class of every other word. -/
theorem State.wordClass_poisonWord_ne (s : State) {a x : Nat} (n : Nat) (hx : x ≠ a / 64) : (s.poisonWord a n).wordClass x = s.wordClass x :=
  (s.regs_poisonWord a n).wordClass_eq (s.dev_poisonWord_ne n hx)

/-- Marking a part of one burst leaves every byte outside the part as it was delivered: one in the same burst has been corrected by the read before the mark. -/
theorem State.byteAt_poisonWord_out (hs : s.canon = true) {n : Nat} (ha : a % 64 + n ≤ 64) {b : Nat} (hb : b < a ∨ a + n ≤ b) :
    (s.poisonWord a n).byteAt b = s.byteAt b := by
  cases hl : s.siteLost (wordSite (a / 64)) with
  | true => rw [State.poisonWord_lost n hl]; exact State.byteAt_congr rfl rfl b
  | false =>
    have hraw := State.rawByte_poisonWord_out hl hb
    rw [← State.byteAt_mergeRead (a / 64) n hs b]
    by_cases hw : b / 64 = a / 64
    · have hpart : n ≠ 64 := by omega
      calc (s.poisonWord a n).byteAt b
        _ = (s.poisonWord a n).rawByte b := State.byteAt_eq_rawByte (.inr (by rw [hw]; exact State.dev_poisonWord_same hs n hl))
        _ = (s.mergeRead (a / 64) n).rawByte b := hraw
        _ = (s.mergeRead (a / 64) n).byteAt b := (State.byteAt_eq_rawByte (by rw [hw]; exact State.dev_mergeRead_same _ hs hl hpart)).symm
    · exact State.byteAt_eq_of_stored hraw ((s.dev_poisonWord_ne n hw).trans (State.dev_mergeRead_ne n hl hw).symm)

end poisonWord

/-! ### Marking a range as poison (R326) -/

/-- A range touches the words from that of its first byte to that of its last. -/
theorem mem_wordsOf {a n w : Nat} : w ∈ wordsOf a n ↔ n ≠ 0 ∧ a / 64 ≤ w ∧ w ≤ (a + n - 1) / 64 := by
  unfold wordsOf
  split
  · simp [*]
  · next hn =>
    simp only [List.mem_map, List.mem_range]
    constructor
    · rintro ⟨k, hk, rfl⟩
      omega
    · rintro ⟨-, hlo, hhi⟩
      exact ⟨w - a / 64, by omega, by omega⟩

/-- Mark the part of the range [a, a + n) that lies in word `w`. -/
def State.poisonPart (a n : Nat) (s : State) (w : Nat) : State :=
  s.poisonWord (max a (w * 64)) (min (a + n) (w * 64 + 64) - max a (w * 64))

/-- A range is marked word by word. -/
theorem State.poisonBytes_eq_foldl (s : State) (a n : Nat) : s.poisonBytes a n = (wordsOf a n).foldl (State.poisonPart a n) s := rfl

section parts
variable {s : State} {a n w : Nat}

/-- The part of a range in a word that it touches begins in that word. -/
theorem part_start_word (hw : w ∈ wordsOf a n) : max a (w * 64) / 64 = w := by
  have := mem_wordsOf.1 hw
  omega

theorem State.canon_poisonPart (hs : s.canon = true) (a n w : Nat) : (s.poisonPart a n w).canon = true :=
  State.canon_poisonWord hs _ _

theorem State.isPoison_poisonPart (hs : s.canon = true) (hw : w ∈ wordsOf a n) : ((s.poisonPart a n w).wordClass w).isPoison = true := by
  have h := State.isPoison_poisonWord hs (max a (w * 64)) (min (a + n) (w * 64 + 64) - max a (w * 64))
  rwa [part_start_word hw] at h

theorem State.wordClass_poisonPart_ne (s : State) {x : Nat} (hw : w ∈ wordsOf a n) (hx : x ≠ w) :
    (s.poisonPart a n w).wordClass x = s.wordClass x :=
  s.wordClass_poisonWord_ne _ (by rwa [part_start_word hw])

/-- The part of a range in one word lies in the range. -/
theorem State.bytes_poisonPart (hs : s.canon = true) (hw : w ∈ wordsOf a n) : BytesKept a n s (s.poisonPart a n w) := fun b hb => by
  have := mem_wordsOf.1 hw
  exact State.byteAt_poisonWord_out hs (by omega) (by omega)

variable {l : List Nat} (hl : ∀ w ∈ l, w ∈ wordsOf a n)
include hl

theorem State.wordClass_poisonParts_ne (s : State) {x : Nat} (hx : x ∉ l) : (l.foldl (State.poisonPart a n) s).wordClass x = s.wordClass x := by
  induction l generalizing s with
  | nil => rfl
  | cons w l ih =>
    obtain ⟨hw, hrest⟩ := List.forall_mem_cons.1 hl
    obtain ⟨hxw, hxl⟩ := not_or.1 (mt List.mem_cons.2 hx)
    exact (ih hrest _ hxl).trans (s.wordClass_poisonPart_ne hw hxw)

theorem State.isPoison_poisonParts (hs : s.canon = true) {x : Nat} (hx : x ∈ l) :
    ((l.foldl (State.poisonPart a n) s).wordClass x).isPoison = true := by
  induction l generalizing s with
  | nil => cases hx
  | cons w l ih =>
    obtain ⟨hw, hrest⟩ := List.forall_mem_cons.1 hl
    by_cases hxl : x ∈ l
    · exact ih hrest (State.canon_poisonPart hs a n w) hxl
    · obtain rfl : x = w := (List.mem_cons.1 hx).resolve_right hxl
      rw [List.foldl_cons, State.wordClass_poisonParts_ne hrest _ hxl]
      exact State.isPoison_poisonPart hs hw

theorem State.bytes_poisonParts (hs : s.canon = true) : BytesKept a n s (l.foldl (State.poisonPart a n) s) := by
  induction l generalizing s with
  | nil => exact fun _ _ => rfl
  | cons w l ih =>
    obtain ⟨hw, hrest⟩ := List.forall_mem_cons.1 hl
    exact fun b hb => (ih hrest (State.canon_poisonPart hs a n w) b hb).trans (State.bytes_poisonPart hs hw b hb)

end parts

/-! ### Requests at a controller -/

section requests
variable {s : State}

theorem exec_poisonWrite_reached {addr len : Nat} (h : s.reaches addr len = true) :
    exec (.poisonWrite addr len) s = .next (s.poisonBytes addr len) := by
  simp [exec, execPoisonWrite, h]

theorem exec_poisonWrite_unreached {addr len : Nat} (h : s.reaches addr len = false) : exec (.poisonWrite addr len) s = .next s := by
  simp [exec, execPoisonWrite, h]

/-- A read that reaches its word answers the bytes and the poison flag that the word has before the read's own write-back (R323). -/
theorem exec_siteRead_reached {w : Nat} (hs : s.canon = true) (h : s.reaches (64 * w) 64 = true) :
    exec (.siteRead w) s = .next ((s.readWord w).emit (.siteReply w (s.bytesAt (64 * w) 64) (s.wordClass w).isPoison)) := by
  simp [exec, execSiteRead, h, State.bytesAt, State.byteAt_readWord hs]

theorem State.regs_readWord (s : State) (w : Nat) : RegsKept memoryRegs s (s.readWord w) := s.regs_readWords [w]

theorem exec_siteRead_only {t : State} {w : Nat} (h : exec (.siteRead w) s = .next t) : OnlyChanged memoryComps s t := by
  obtain ⟨u, hu, hkept⟩ := execSiteRead_kept (E := fun c => c ∈ memoryComps) w s (Kept.refl s) (by decide) (by decide) (by decide) (by decide) (by decide)
    (by decide) (by decide) (by decide) (by decide)
  obtain rfl : u = t := Host.Outcome.next.inj (hu.symm.trans h)
  exact hkept.only

/-- A request for a word outside the usable ranges does nothing (R36, R37). -/
theorem exec_siteRequest_unreached {w : Nat} (mask : Nat) (bytes : List Byte) (h : s.reaches (64 * w) 64 = false) :
    exec (.siteRead w) s = .next s ∧ exec (.siteWrite w bytes) s = .next s ∧ exec (.sitePartialWrite w mask bytes) s = .next s := by
  simp [exec, execSiteRead, execSiteWrite, execSitePartialWrite, h]

end requests

/-- Settles O30: a range is marked word by word, each mark makes its own word poison and keeps the class of every other word and the bytes outside
its part; the write-back of a read changes no delivered byte. -/
theorem siteReadsDeliver : Obligations.SiteReadsDeliver := by
  unfold Obligations.SiteReadsDeliver
  refine ⟨fun s addr len hs hreach => ?_, fun s w hs hreach => ?_, fun s w mask addr len bytes => ?_⟩
  · refine ⟨_, exec_poisonWrite_reached hreach, ?_⟩
    rw [State.poisonBytes_eq_foldl]
    exact ⟨fun w => State.isPoison_poisonParts (fun _ h => h) hs, State.bytes_poisonParts (fun _ h => h) hs,
      fun w hw => congrArg _ (State.wordClass_poisonParts_ne (fun _ h => h) s hw)⟩
  · have hexec := exec_siteRead_reached hs hreach
    exact ⟨_, hexec, ⟨_, rfl⟩, State.byteAt_readWord hs w, (s.regs_readWord w).of_regs rfl, exec_siteRead_only hexec⟩
  · exact ⟨exec_siteRequest_unreached mask bytes, exec_poisonWrite_unreached⟩

end Sys2Proof.Machine

/-!
PROOFS. Conversions to integer formats: what one rounding does, what saturation leaves, and what each kind of value gives (O59).
-/
namespace Sys2Proof.Machine

/-! ### One rounding (R55, R56) -/

section rounding
variable {mag : Nat} {exp q : Int}

/-- A value that is a multiple of the unit is not rounded. -/
theorem roundAt_of_le (r : Option Nat) (h : q ≤ exp) : roundAt r mag exp q = mag * 2 ^ (exp - q).toNat := by
  rw [roundAt, if_pos h, Nat.shiftLeft_eq]

/-- Stochastic rounding takes the upper neighbour when the random field is below the fraction's first 16 bits (R56). -/
theorem roundAt_some_of_lt (x : Nat) (h : exp < q) :
    roundAt (some x) mag exp q =
      mag / 2 ^ (q - exp).toNat + if x < mag % 2 ^ (q - exp).toNat * 65536 / 2 ^ (q - exp).toNat then 1 else 0 := by
  simp only [roundAt, if_neg (Int.not_le.2 h), Nat.shiftRight_eq_div_pow]
  split <;> rfl

/-- Without a random field the upper neighbour is taken when the fraction is above one half, or is one half and the lower neighbour is odd (R55). -/
theorem roundAt_none_of_lt (h : exp < q) :
    roundAt none mag exp q =
      mag / 2 ^ (q - exp).toNat + if 2 ^ (q - exp).toNat < 2 * (mag % 2 ^ (q - exp).toNat) ∨
        2 * (mag % 2 ^ (q - exp).toNat) = 2 ^ (q - exp).toNat ∧ mag / 2 ^ (q - exp).toNat % 2 = 1 then 1 else 0 := by
  simp only [roundAt, if_neg (Int.not_le.2 h), Nat.shiftRight_eq_div_pow, Bool.or_eq_true, Bool.and_eq_true, decide_eq_true_eq, beq_iff_eq]
  split <;> rfl

/-- A zero is rounded to 0, whatever the random field. -/
@[simp] theorem roundAt_zero (r : Option Nat) (exp q : Int) : roundAt r 0 exp q = 0 := by
  by_cases h : q ≤ exp
  · rw [roundAt_of_le r h, Nat.zero_mul]
  · cases r with
    | none => simp [roundAt_none_of_lt (Int.not_le.1 h)]
    | some x => simp [roundAt_some_of_lt x (Int.not_le.1 h)]

end rounding

/-- `k` is nearest to mag / d, and is even where mag / d lies halfway between two integers. -/
def IsNearestEven (mag d k : Nat) : Prop :=
  2 * (k * d) ≤ 2 * mag + d ∧ 2 * mag ≤ 2 * (k * d) + d ∧ (2 * mag + d = 2 * (k * d) ∨ 2 * mag = 2 * (k * d) + d → k % 2 = 0)

/-- The upper neighbour exactly for a fraction above one half, or of one half over an odd lower neighbour, is the nearest integer with ties to even. -/
theorem isNearestEven_div (mag : Nat) {d : Nat} (hd : 0 < d) :
    IsNearestEven mag d (mag / d + if d < 2 * (mag % d) ∨ 2 * (mag % d) = d ∧ mag / d % 2 = 1 then 1 else 0) := by
  have hmag : mag / d * d + mag % d = mag := Nat.div_add_mod' mag d
  have hrem : mag % d < d := Nat.mod_lt mag hd
  unfold IsNearestEven
  split
  · rw [Nat.add_mul, Nat.one_mul]
    omega
  · rw [Nat.add_zero]
    omega

/-- Rounding to nearest with ties to even (R55). -/
theorem isNearestEven_roundAt {mag : Nat} {exp q : Int} (h : exp < q) :
    IsNearestEven mag (2 ^ (q - exp).toNat) (roundAt none mag exp q) := by
  rw [roundAt_none_of_lt h]
  exact isNearestEven_div mag (Nat.two_pow_pos _)

/-! ### Saturation (R43) -/

theorem clampInt_of_mem {lo hi i : Int} (hlo : lo ≤ i) (hhi : i ≤ hi) : clampInt lo hi i = i := by
  rw [clampInt, if_neg (Int.not_lt.2 hlo), if_neg (Int.not_lt.2 hhi)]

theorem clampInt_of_le_lo {lo hi i : Int} (h : i ≤ lo) (hlohi : lo ≤ hi) : clampInt lo hi i = lo := by
  unfold clampInt
  split
  · rfl
  · rw [if_neg (by omega)]
    omega

/-- Every integer range holds 0 (R43). -/
theorem Fmt.intRange_zero (f : Fmt) : f.intRange.1 ≤ 0 ∧ 0 ≤ f.intRange.2 := by
  cases f <;> decide

theorem ofInt_zero (w : Nat) : ofInt w 0 = 0 := by
  simp [ofInt]

/-! ### The integer that a value gives (R59) -/

/-- A conversion to an integer format stores the rounded and saturated value in two's complement, in units of 1 (R43, R59). -/
theorem encodeElem_of_isInt {f : Fmt} (hf : f.isInt = true) (ftz : Bool) (c : Cvt) (r : Option Nat) (v : Num) :
    (encodeElem ftz c r f v).1 = ofInt f.width (toIntFmt r f 0 v) := by
  cases f with
  | int8 | uint8 | int16 | int32 => rfl
  | _ => cases hf

theorem toIntFmt_zero (r : Option Nat) (f : Fmt) (u : Int) (neg : Bool) (exp : Int) : toIntFmt r f u (.fin neg 0 exp) = 0 := by
  have h : toIntFmt r f u (.fin neg 0 exp) = clampInt f.intRange.1 f.intRange.2 0 := by
    simp [toIntFmt]
  rw [h, clampInt_of_mem f.intRange_zero.1 f.intRange_zero.2]

theorem toIntFmt_uint8_neg (r : Option Nat) (u : Int) (mag : Nat) (exp : Int) : toIntFmt r .uint8 u (.fin true mag exp) = 0 :=
  clampInt_of_le_lo (Int.neg_nonpos_of_nonneg (Int.natCast_nonneg _)) (by decide)

/-- Settles O59: an integer format stores the saturated rounding of the value in units of 1, and the one rounding is exact for a multiple of the unit, to
nearest with ties to even without a random field, and by the fraction's comparison with the field otherwise. -/
theorem conversionsToIntegersSaturate : Obligations.ConversionsToIntegersSaturate := by
  unfold Obligations.ConversionsToIntegersSaturate
  intro f ftz c r hf
  simp only [encodeElem_of_isInt hf]
  refine ⟨ofInt_zero _, fun neg e => ?_, rfl, rfl, ?_, fun neg mag e => ⟨roundAt r mag e 0, rfl, fun he => ?_, fun he => ⟨?_, ?_⟩⟩⟩
  · rw [toIntFmt_zero, ofInt_zero]
  · rintro rfl mag e
    rw [toIntFmt_uint8_neg, ofInt_zero]
  · rw [roundAt_of_le r he, Int.sub_zero]
  · rintro rfl
    rw [← Int.zero_sub e]
    exact isNearestEven_roundAt he
  · rintro x rfl
    rw [← Int.zero_sub e]
    exact roundAt_some_of_lt x he

end Sys2Proof.Machine

/-!
PROOFS. Parts: which part a free unit starts, the merge of split tiles, the install of a store image and the steps of a ring ATTN (O11).
-/
namespace Sys2Proof.Machine

/-! ### PART_START (R115, R375) -/

section partStart
variable {s : State} {cl u : Nat} {c : Cmd}

/-- The shuttle chooses among the ready parts. -/
theorem State.mem_ready_of_nextPart (h : s.nextPart cl u = some c) : c ∈ s.cmds.filter (s.partReady cl u) := by
  unfold State.nextPart at h
  refine List.foldlRecOn (motive := fun chosen => ∀ d, chosen = some d → d ∈ s.cmds.filter (s.partReady cl u)) _ _ (by simp)
    (fun chosen ih x hx d hd => ?_) c h
  cases chosen with
  | none => obtain rfl := Option.some.inj hd; exact hx
  | some b =>
    dsimp only at hd
    split at hd
    · obtain rfl := Option.some.inj hd; exact hx
    · exact ih d hd

/-- A ready part is of the unit, its credits fit the share of its context, and no fence holds it back. -/
theorem State.of_partReady (h : s.partReady cl u c = true) :
    c.unit = u ∧ s.creditsUsed c.ctx cl + c.plan.units ≤ s.getF F.shtCtxstatShare c.ctx ∧ s.partFenced c cl = false := by
  simp only [State.partReady, Bool.and_eq_true, beq_iff_eq, decide_eq_true_eq, Bool.not_eq_true'] at h
  obtain ⟨⟨⟨⟨⟨-, hunit⟩, -⟩, hshare⟩, hfence⟩, -⟩ := h.1
  exact ⟨hunit, hshare, hfence⟩

theorem exec_partStart_runs (hrun : s.running = true) (hup : s.clusterUp cl = true) (hnext : s.nextPart cl u = some c) :
    exec (.partStart cl u) s = .next (State.afterRun c cl ((s.noteStart c.ctx cl).runPart c cl)) := by
  simp [exec, execPartStart, hrun, hup, hnext]

theorem exec_partStart_idle (h : s.running = false ∨ s.clusterUp cl = false ∨ s.nextPart cl u = none) : exec (.partStart cl u) s = .next s := by
  simp only [exec, execPartStart]
  obtain h | h | h := h
  · simp [h]
  · simp [h]
  · rw [h, ite_self]

end partStart

/-! ### MERGE_SLOT_GRANT (R83, R111, R119) -/

section grant
variable (s : State) {cl : Nat} {c : Cmd} {e : PartTile}

/-- A dead tile is poisoned at its owner. -/
theorem State.grant_dead (hdead : c.tileDead e.tile = true) :
    s.grant c cl e = (s.killTile c e.tile).1.setCmd (s.killTile c e.tile).2 := by
  simp only [State.grant, hdead, if_true]

/-- A part that has arrived is merged into the owner's tile, which waits for a further part or is finished. -/
theorem State.grant_merge {d : PartTile} {p : Nat} (hlive : c.tileDead e.tile = false) (hp : c.nextMerge e.tile e.next = some p)
    (hd : c.tiles.find? (fun d => d.tile == e.tile && d.part == p) = some d) :
    s.grant c cl e =
      let m := c.mergeTiles e d
      let rest := c.tiles.filter fun x => x != e && some x != some d
      if (c.nextMerge e.tile m.1.next).isSome then State.afterRun { c with tiles := rest ++ [m.1] } cl { PartRun.start s [] with fl := m.2 }
      else State.afterRun { c with tiles := rest } cl (({ PartRun.start s [] with fl := m.2 } : PartRun).finishMerged c cl m.1) := by
  simp only [State.grant, hlive, hp, Option.bind_some, hd, Bool.false_eq_true, if_false]

/-- A tile without a further part is finished as it stands. -/
theorem State.grant_finish (hlive : c.tileDead e.tile = false) (hp : c.nextMerge e.tile e.next = none) :
    s.grant c cl e = State.afterRun { c with tiles := c.tiles.filter (· != e) } cl
      (({ PartRun.start s [] with fl := 0 } : PartRun).finishMerged c cl e) := by
  have hrest : (fun x => x != e && some x != (none : Option PartTile)) = (· != e) := by
    funext x
    simp
  simp only [State.grant, hlive, hp, Option.bind_none, hrest, Option.isSome_none, Bool.false_eq_true, if_false]

variable {s}

/-- MERGE_SLOT_GRANT acts on the lowest waiting tile of the first command that is due, when the tile is dead or the agent is free. -/
theorem exec_mergeSlotGrant (hc : s.cmds.find? (·.grantDue cl) = some c) (he : c.ownTile cl = some e) :
    exec (.mergeSlotGrant cl) s = .next (if c.tileDead e.tile || s.agentFree c then s.grant c cl e else s) := by
  simp only [exec, execMergeSlotGrant, hc, he]

end grant

/-! ### IMAGE_INSTALL (R171) -/

/-- A cluster with image `img` in its store, which IMAGEID names. -/
def State.withImage (s : State) (cl : Nat) (img : List Byte) : State :=
  (s.setCluster cl { s.cluster cl with image := img }).setF F.sfuStoreImageid cl (imageId img)

theorem exec_imageInstall_next {s : State} {cl : Nat} {l : Cmd} (hrun : s.running = true) (hup : s.clusterUp cl = true)
    (hl : s.nextLoad cl = some l) :
    exec (.imageInstall cl) s = .next ((s.withImage cl l.plan.imageBytes).setCmd (l.mapPart cl fun p => { p with st := .running })) := by
  simp [exec, execImageInstall, hrun, hup, hl, State.withImage]

section withImage
variable {s : State} (cl : Nat) (img : List Byte)

theorem State.image_withImage (h : rises s.clusters = true) : ((s.withImage cl img).cluster cl).image = img :=
  congrArg Cluster.image (State.cluster_setCluster_same h cl _)

theorem State.cluster_withImage_ne {k : Nat} (h : k ≠ cl) : (s.withImage cl img).cluster k = s.cluster k :=
  s.cluster_setCluster_ne _ h

theorem State.imageid_withImage (h : rises s.regs = true) :
    (s.withImage cl img).getF F.sfuStoreImageid cl = imageId img % 2 ^ F.sfuStoreImageid.w :=
  State.getF_setF_same (s := s.setCluster cl _) h _ _ _

theorem State.fields_withImage : FieldsKept [(F.sfuStoreImageid, cl)] s (s.withImage cl img) :=
  FieldsKept.setF (.of_regs rfl) _ _ _ (by simp)

theorem State.only_withImage : OnlyChanged [.regs, .cmds, .clusters] s (s.withImage cl img) :=
  (State.setF_kept (E := fun c => c ∈ [Comp.regs, .cmds, .clusters]) _ F.sfuStoreImageid cl (imageId img)
    (State.setCluster_kept s cl _ (Kept.refl s) (by simp)) (by simp)).only

end withImage

theorem State.canon_clusters {s : State} (h : s.canon = true) : rises s.clusters = true := by
  obtain ⟨-, -, -, -, -, -, hclusters, -⟩ := State.canon_iff.1 h
  exact hclusters

/-! ### ATTN_RING_STEP (R194, R197) -/

section ring
variable {s : State} {q seq : Nat} {c : Cmd}

/-- The waits of the command's next step that are not satisfied. -/
def State.ringOpen (s : State) (c : Cmd) : List (Nat × Nat) := c.ringWaits.filter fun w => !s.arrivalSat w.1 w.2

/-- A ring command whose parts run evaluates the waits of its next step. -/
theorem exec_attnRingStep_evaluates (hc : s.cmdAt? q seq = some c) (hrun : s.running = true) (hst : c.st = .issued) (hok : c.status = 0)
    (hleft : c.ringLeft = true) (hparts : c.parts.all (fun p => p.st == .running) = true) :
    exec (.attnRingStep q seq) s = .next (
      if (s.ringOpen c).any fun w => s.flag F.zlkArrcfgLost w.1 then s.failRing c 0x33
      else if (s.ringOpen c).isEmpty then s.ringStep c (c.ring + 1)
      else s.setCmd { c with openAt := some (c.openAt.getD s.now) }) := by
  have hgo : (s.running && c.st == .issued && c.status == 0 && c.ringLeft && c.parts.all fun p => p.st == .running) = true := by
    simp only [hrun, hst, hok, hleft, hparts, beq_self_eq_true, Bool.and_self]
  unfold State.ringOpen
  simp only [exec, execAttnRingStep, hc, hgo, Bool.not_true, Bool.false_eq_true, if_false]

end ring

/-- Settles O11: a start picks one of the ready parts, whose readiness holds the bounds; a grant, an install and a ring step take the branch that
their hypotheses pick, and an install is one write of the cluster and one of IMAGEID. -/
theorem partsRun : Obligations.PartsRun := by
  unfold Obligations.PartsRun
  refine ⟨fun s cl u => ⟨fun c hrun hup hnext => ?_, exec_partStart_idle⟩, fun s cl c e d p hc he => ?_, fun s cl l hcanon hrun hup hl => ?_,
    fun s q seq c hc hrun hst hok hleft hparts => ?_⟩
  · obtain ⟨hmem, hready⟩ := List.mem_filter.1 (State.mem_ready_of_nextPart hnext)
    exact ⟨exec_partStart_runs hrun hup hnext, hmem, State.of_partReady hready⟩
  · rw [exec_mergeSlotGrant hc he]
    refine ⟨fun hdead => ?_, fun hlive hagent => ?_, fun hlive hagent hp hd => ⟨fun hmore => ?_, fun hlast => ?_⟩, fun hlive hagent hp => ?_⟩
    · simp only [hdead, Bool.true_or, if_true, s.grant_dead hdead]
    · simp only [hlive, hagent, Bool.or_self, Bool.false_eq_true, if_false]
    · simp only [hagent, Bool.or_true, if_true, s.grant_merge hlive hp hd, hmore]
    · simp only [hagent, Bool.or_true, if_true, s.grant_merge hlive hp hd, hlast, Option.isSome_none, Bool.false_eq_true, if_false]
    · simp only [hagent, Bool.or_true, if_true, s.grant_finish hlive hp]
  · exact ⟨_, exec_imageInstall_next hrun hup hl, State.image_withImage cl _ (State.canon_clusters hcanon),
      State.imageid_withImage cl _ (State.canon_regs hcanon),
      (State.only_withImage cl _).trans (State.setCmd_kept _ _ (Kept.refl _) (by simp)).only, (State.fields_withImage cl _).trans (.of_regs rfl),
      fun k hk => State.cluster_withImage_ne cl _ hk⟩
  · rw [exec_attnRingStep_evaluates hc hrun hst hok hleft hparts]
    refine ⟨fun (hdone : s.ringOpen c = []) => ?_, fun (hlost : (s.ringOpen c).any _ = true) => ?_,
      fun (hopen : s.ringOpen c ≠ []) (hkept : (s.ringOpen c).any _ = false) => ?_⟩
    · simp only [hdone, List.any_nil, List.isEmpty_nil, Bool.false_eq_true, if_false, if_true]
    · simp only [hlost, if_true]
    · simp only [hkept, List.isEmpty_iff, hopen, Bool.false_eq_true, if_false]

end Sys2Proof.Machine

/-!
PROOFS. Faults of a cluster: array checks, the parity of an SFU pipe, and words of the local buffer (O55).
-/
namespace Sys2Proof.Machine

/-! ### What a record and a failed part leave -/

/-- An error record leaves the clusters. -/
theorem State.cluster_record (s : State) (r : Rec) (cl : Nat) : (s.record r).cluster cl = s.cluster cl := by
  have hkept : OnlyChanged recordComps s (s.record r) :=
    (State.record_kept (E := fun c => c ∈ recordComps) s r (Kept.refl s) (by decide) (by decide) (by decide) (by decide) (by decide) (by decide)
      (by decide)).only
  have hclusters : s.clusters = (s.record r).clusters := hkept .clusters (by decide)
  rw [State.cluster, State.cluster, hclusters]

/-- An error record leaves the timebase. -/
theorem State.now_record (s : State) (r : Rec) : (s.record r).now = s.now :=
  (s.regs_record r).getF_eq (f := F.tmbNowNs) (by decide) 0

theorem State.canon_record {s : State} (h : s.canon = true) (r : Rec) : (s.record r).canon = true :=
  (State.record_kept (E := fun _ => True) s r (Kept.refl s) trivial trivial trivial trivial trivial trivial trivial).2 h

theorem State.canon_hwFail {s : State} (h : s.canon = true) (c : Cmd) (cl addr : Nat) : (s.hwFail c cl addr).canon = true :=
  (State.hwFail_kept (E := fun _ => True) s c cl addr (Kept.refl s) trivial trivial trivial trivial trivial trivial trivial trivial trivial trivial
    trivial trivial trivial).2 h

/-! ### ARRAY_CHECK_FAIL (R91, R514) -/

/-- The last array check of the cluster failed at most 24 hours ago. -/
def State.checkedToday (s : State) (cl : Nat) : Bool := (s.cluster cl).lastChk.any fun x => decide (s.now ≤ x + dayNs)

section checkedToday
variable {s : State} {cl : Nat}

theorem State.checkedToday_eq_true {x : Nat} (hx : (s.cluster cl).lastChk = some x) (h : s.now ≤ x + dayNs) : s.checkedToday cl = true := by
  simp only [State.checkedToday, hx, Option.any_some, decide_eq_true_eq, h]

theorem State.checkedToday_eq_false (h : (s.cluster cl).lastChk = none ∨ ∃ x, (s.cluster cl).lastChk = some x ∧ x + dayNs < s.now) :
    s.checkedToday cl = false := by
  obtain hnone | ⟨x, hx, hlate⟩ := h
  · rw [State.checkedToday, hnone, Option.any_none]
  · simp only [State.checkedToday, hx, Option.any_some, decide_eq_false_iff_not, Nat.not_le, hlate]

end checkedToday

/-- The record of an array check of a column that failed while the part of `c` ran. -/
def State.arrayCheckRec (s : State) (c : Cmd) (cl col why addr : Nat) : Rec :=
  { cls := 0x08, sev := 1, kind := 1, unit := cl, sub := col, island := clusterIsland cl, op := s.opOfCmd c, addr := addr, syn := why, status := 0x0C }

/-- A failed check of a part that uses the array is recorded and noted, fails the part, and retires the cluster when it is the second within 24 hours. -/
theorem exec_arrayCheckFail {s : State} {cl q seq : Nat} {c : Cmd} (col why addr : Nat) (hc : s.runningIn cl q seq = some c)
    (hop : c.opcode ∈ [0x01, 0x02, 0x03] ∨ (c.opcode = 0x04 ∧ c.convOp = 0)) :
    exec (.arrayCheckFail cl q seq col why addr) s = .next (
      let t := s.record (s.arrayCheckRec c cl col why addr)
      let u := (t.setCluster cl { t.cluster cl with lastChk := some t.now }).hwFail c cl addr
      if s.checkedToday cl then u.retireCluster cl 1 (some t.lastSeq) else u) := by
  have harray : ([0x01, 0x02, 0x03].contains c.opcode || (c.opcode == 0x04 && c.convOp == 0)) = true := by
    simpa only [Bool.or_eq_true, List.contains_iff_mem, Bool.and_eq_true, beq_iff_eq] using hop
  simp only [exec, execArrayCheckFail, hc, harray, Bool.not_true, Bool.false_eq_true, if_false, State.cluster_record, State.now_record,
    State.checkedToday, State.arrayCheckRec]
  cases (s.cluster cl).lastChk <;> rfl

/-! ### SFU_PIPE_PARITY (R159) -/

/-- A parity error of a pipe that is in use retires the pipe. -/
theorem exec_sfuPipeParity_retires {s : State} {cl pipe q seq : Nat} {c : Cmd} (hs : s.canon = true) (hc : s.runningIn cl q seq = some c)
    (hpipe : pipe < 32) (hused : bit (s.getF F.sfuPipemapRetired cl) pipe = false) (hup : s.clusterUp cl = true) :
    ∃ t, exec (.sfuPipeParity cl pipe q seq) s = .next t ∧
      t.getF F.sfuPipemapRetired cl = (s.getF F.sfuPipemapRetired cl + 2 ^ pipe) % 2 ^ F.sfuPipemapRetired.w := by
  have hfails : (decide (32 ≤ pipe) || bit (s.getF F.sfuPipemapRetired cl) pipe || !s.clusterUp cl) = false := by
    simp [hused, hup, hpipe]
  simp only [exec, execSfuPipeParity, hc, hfails, Bool.false_eq_true, if_false]
  refine ⟨_, rfl, ?_⟩
  rw [(State.regs_record _ _).getF_eq (by decide)]
  exact State.getF_setF_same (State.canon_regs (State.canon_hwFail (State.canon_record hs _) _ _ _)) _ _ _

/-! ### LBF_ECC (R515) -/

section lbfEcc
variable {s : State} {cl : Nat} (bank mac row off syn q seq : Nat)

/-- The record of a word of a bank of the local buffer, uncorrectable under a part of `c`. -/
def State.lbfUncRec (s : State) (c : Cmd) (cl bank off syn : Nat) : Rec :=
  { cls := 0x0B, sev := 1, kind := 1, unit := cl, sub := bank, island := clusterIsland cl, op := s.opOfCmd c, addr := off, syn := syn, status := 0x0C }

/-- The record of a corrected word of a bank of the local buffer. -/
def lbfCorrRec (cl bank off syn : Nat) : Rec :=
  { cls := 0x0A, sev := 0, kind := 1, unit := cl, sub := bank, island := clusterIsland cl, addr := off, syn := syn }

/-- An uncorrectable word is recorded, fails the part that reads it, and its row is remapped. -/
theorem exec_lbfEcc_uncorrectable {c : Cmd} (hup : s.clusterUp cl = true) (hc : s.runningIn cl q seq = some c) :
    exec (.lbfEcc cl bank mac row off syn true q seq) s = .next (
      let t := s.record (s.lbfUncRec c cl bank off syn)
      (t.hwFail c cl 0).remapRow cl mac row (some t.lastSeq)) := by
  simp only [exec, execLbfEcc, hup, hc, Bool.not_true, Bool.false_eq_true, if_false, if_true, Option.bind_some, State.lbfUncRec]

/-- A corrected word is recorded; its row is remapped when the last correction in it was within the hour, and else the correction is noted. -/
theorem exec_lbfEcc_corrected (hup : s.clusterUp cl = true) :
    exec (.lbfEcc cl bank mac row off syn false q seq) s = .next (
      let t := s.record (lbfCorrRec cl bank off syn)
      let last := tget (fun _ => 0) (t.cluster cl).rowErrs (mac * 65536 + row)
      if last ≠ 0 ∧ t.now + 1 ≤ last + 3600000000000 then t.remapRow cl mac row none
      else t.setCluster cl { t.cluster cl with rowErrs := tset (fun _ => 0) (t.cluster cl).rowErrs (mac * 65536 + row) (t.now + 1) }) := by
  unfold lbfCorrRec
  simp only [exec, execLbfEcc, hup, Bool.not_true, Bool.false_eq_true, if_false, Bool.and_eq_true, bne_iff_ne, decide_eq_true_eq]

end lbfEcc

/-- Settles O55: a record changes neither the timebase nor a cluster, so whether a check is the second of the day is read off the first state; a pipe's
bit is written after all that its failed part does, and the record of its retirement leaves it. -/
theorem clusterFaultsFailTheirPart : Obligations.ClusterFaultsFailTheirPart := by
  unfold Obligations.ClusterFaultsFailTheirPart
  intro s cl q seq why addr pipe bank mac row off syn col c hs hc
  refine ⟨fun hop => ?_, exec_sfuPipeParity_retires hs hc, fun hup => exec_lbfEcc_uncorrectable bank mac row off syn q seq hup hc, fun hup => ?_⟩
  · rw [exec_arrayCheckFail col why addr hc hop]
    refine ⟨fun hfirst => ?_, fun x hx hday => ?_⟩
    · simp only [State.checkedToday_eq_false hfirst, Bool.false_eq_true, if_false, State.arrayCheckRec]
    · simp only [State.checkedToday_eq_true hx hday, if_true, State.arrayCheckRec]
  · rw [exec_lbfEcc_corrected bank mac row off syn q seq hup]
    exact ⟨fun hfirst => congrArg _ (if_neg fun h => h.1 hfirst), fun hagain hhour => congrArg _ (if_pos ⟨hagain, hhour⟩)⟩

end Sys2Proof.Machine

/-!
PROOFS. Frames of Chapter 4, run over every command. Each is elaborated before the text goes on, so the proofs above are under way before those below
start, and the compile keeps within its memory.
-/
namespace Sys2Proof.Machine

/-- No command changes the queue of commands that wait. -/
example (i : Instr) : Comp.pending ∉ changes i := by
  cases i <;> exact of_decide_eq_true rfl

/-- The anchor numbers a command when it fetches it, when the fetch fails, and when it ends one that is still in a ring (R95, R121, R400). -/
example (i : Instr) : decide (Comp.nextCmd ∈ changes i) =
    (i matches .commandFetch _ _ | .qfetchFailure _ | .queueDisable _ _ _ _ | .functionLevelReset _ _) := by
  cases i <;> rfl

/-- Bars of a FENCE come and go with a FENCE, with a completion, and where commands end before they complete (R303). -/
example (i : Instr) : Comp.fences ∈ changes i → Comp.cmds ∈ changes i := by
  cases i <;> exact of_decide_eq_true rfl

end Sys2Proof.Machine

/-!
PROOFS. Reads at issue, waits that latch, and trace events: what they leave, for the statements of Chapter 4.
-/
namespace Sys2Proof.Machine

/-! ### Reading words at issue -/

section readWords
variable (s : State) (ws : List Nat)

/-- Reading words changes the components of memory only. -/
theorem State.only_readWords : OnlyChanged memoryComps s (s.readWords ws) :=
  (State.readWords_kept (E := fun c => c ∈ memoryComps) s ws (Kept.refl s) (by decide) (by decide) (by decide) (by decide) (by decide) (by decide)
    (by decide) (by decide) (by decide)).only

@[simp] theorem State.readWords_cmds : (s.readWords ws).cmds = s.cmds := (s.only_readWords ws .cmds (by decide)).symm

@[simp] theorem State.readWords_ctxs : (s.readWords ws).ctxs = s.ctxs := (s.only_readWords ws .ctxs (by decide)).symm

@[simp] theorem State.readWords_nextCmd : (s.readWords ws).nextCmd = s.nextCmd := (s.only_readWords ws .nextCmd (by decide)).symm

@[simp] theorem State.cmd_readWords (k : Nat) : (s.readWords ws).cmd? k = s.cmd? k := State.cmd_congr (s.readWords_cmds ws) k

@[simp] theorem State.ctx_readWords (x : Nat) : (s.readWords ws).ctx x = s.ctx x := by rw [State.ctx, State.ctx, s.readWords_ctxs ws]

/-- The state of a context is not among the registers that a read changes. -/
@[simp] theorem State.ctxstat_readWords (x : Nat) : (s.readWords ws).getF F.shtCtxstatState x = s.getF F.shtCtxstatState x :=
  (s.regs_readWords ws).getF_eq (by decide) x

end readWords

/-! ### Latching waits (R113) -/

/-- A command after the waits that are satisfied now have latched. -/
def State.latchCmd (s : State) (c : Cmd) : Cmd :=
  if c.st != .fetched then c
  else
    let w := List.zipWith (· || ·) c.waits (s.waitsNow c)
    let old := (s.oldest? c.q).any (·.id == c.id)
    { c with waits := w, openAt := if old && !w.all (fun b => b) then some (c.openAt.getD s.now) else none }

section latch
variable (s : State)

theorem State.latchWaits_cmds : s.latchWaits.cmds = s.cmds.map s.latchCmd := rfl

@[simp] theorem State.latchWaits_getF (f : Fld) (i : Nat) : s.latchWaits.getF f i = s.getF f i := rfl

theorem State.only_latchWaits : OnlyChanged [.cmds, .streams] s s.latchWaits :=
  (State.latchWaits_kept (E := fun c => c ∈ [Comp.cmds, .streams]) s (Kept.refl s) (by decide) (by decide)).only

/-- Latching touches nothing of a command but its waits and since when it has waited. -/
theorem State.latchCmd_eq (c : Cmd) : s.latchCmd c = { c with waits := (s.latchCmd c).waits, openAt := (s.latchCmd c).openAt } := by
  unfold State.latchCmd
  split <;> rfl

/-- A wait of a fetched command is satisfied after latching when it was satisfied before, or is satisfied now. -/
theorem State.latchCmd_waits {c : Cmd} (h : c.st = .fetched) : (s.latchCmd c).waits = List.zipWith (· || ·) c.waits (s.waitsNow c) := by
  simp [State.latchCmd, h]

theorem State.waitsNow_length (c : Cmd) : (s.waitsNow c).length = 4 := rfl

end latch

/-- A tracked command stays tracked, but for its waits. -/
theorem State.mem_latchWaits {s : State} {d : Cmd} (h : d ∈ s.cmds) :
    ∃ e ∈ s.latchWaits.cmds, e = { d with waits := e.waits, openAt := e.openAt } :=
  ⟨s.latchCmd d, List.mem_map_of_mem h, s.latchCmd_eq d⟩

/-! ### Trace events (R532) -/

section trace
variable (s : State) (c : Cmd) (kind status : Nat) (tail : List Byte)

/-- A trace event changes the ring's memory, its registers and the event number only. -/
theorem State.only_trace : OnlyChanged (memoryComps ++ [.evseq]) s (s.trace c kind status tail) :=
  (State.trace_kept (E := fun c => c ∈ memoryComps ++ [Comp.evseq]) s c kind status tail (Kept.refl s) (by decide) (by decide) (by decide) (by decide)
    (by decide) (by decide) (by decide) (by decide) (by decide) (by decide)).only

@[simp] theorem State.trace_cmds : (s.trace c kind status tail).cmds = s.cmds := (s.only_trace c kind status tail .cmds (by decide)).symm

@[simp] theorem State.traceStart_cmds : (s.traceStart c).cmds = s.cmds := s.trace_cmds c _ _ _

@[simp] theorem State.cmd_traceStart (k : Nat) : (s.traceStart c).cmd? k = s.cmd? k := State.cmd_congr (s.traceStart_cmds c) k

variable {s c}

/-- While tracing of the partition is off no event is generated. -/
theorem State.trace_off (h : s.flag F.cntTrcfgEn (s.partOf c.ctx) = false) : s.trace c kind status tail = s := by
  simp [State.trace, h]

end trace

/-! ### The rows that issue -/

section rows
variable {s : State} {q : Nat} {r : IssueRow}

/-- A tiled row issues into the shuttles of the span. -/
theorem exec_tiledRow : ∀ r ∈ tiledRows q, exec r.row s = .next (s.issue q r.mine r.check State.goTiled) :=
  List.map_inj_left.1 rfl

/-- A WAIT that no lost arrival counter ends goes through its checks (R302, R310). -/
theorem exec_wait_notLost (hlost : s.lostWait q = none) : exec (.wait q) s = .next (s.issue q (isOp 0x28) waitCheck State.goNow) := by
  show execWait q s = _
  rw [execWait, hlost]
  rfl

theorem exec_anchorRow (hlost : s.lostWait q = none) : ∀ r ∈ anchorRows q, ∃ go, exec r.row s = .next (s.issue q r.mine r.check go) := by
  simp only [anchorRows, List.forall_mem_cons]
  exact ⟨⟨_, rfl⟩, ⟨_, exec_wait_notLost hlost⟩, ⟨_, rfl⟩, ⟨_, rfl⟩, ⟨_, rfl⟩, ⟨_, rfl⟩, ⟨_, rfl⟩, ⟨_, rfl⟩, ⟨_, rfl⟩, ⟨_, rfl⟩, ⟨_, rfl⟩, ⟨_, rfl⟩, ⟨_, rfl⟩, ⟨_, rfl⟩,
    ⟨_, rfl⟩, ⟨_, rfl⟩, ⟨_, rfl⟩, by simp⟩

/-- A row that issues goes through the checks of its command, unless a lost arrival counter ends a WAIT (R310). -/
theorem exec_issueRow (hlost : s.lostWait q = none) (hr : r ∈ issueRows q) : ∃ go, exec r.row s = .next (s.issue q r.mine r.check go) := by
  rw [issueRows, List.mem_cons, List.mem_cons, List.mem_append] at hr
  obtain rfl | rfl | htiled | hanchor := hr
  · exact ⟨_, rfl⟩
  · exact ⟨_, rfl⟩
  · exact ⟨_, exec_tiledRow r htiled⟩
  · exact exec_anchorRow hlost r hanchor

end rows

end Sys2Proof.Machine

/-!
PROOFS. Tiled commands at issue (O7).
-/
namespace Sys2Proof.Machine

section goTiled
variable {s : State} {c d : Cmd}

theorem State.goTiled_eq (s : State) (c : Cmd) : s.goTiled c = ((s.setCmd (tiledCmd s c)).latchWaits).traceStart (tiledCmd s c) := rfl

/-- The command that issues is tracked with its span and a ready part in each cluster of it (R97). -/
theorem State.cmd_goTiled (h : s.cmd? c.id = some d) (hst : c.st = .issued) : (s.goTiled c).cmd? c.id = some (tiledCmd s c) := by
  rw [State.goTiled_eq, State.cmd_traceStart]
  exact State.cmd_setCmd_latch (c := tiledCmd s c) h (by simp [tiledCmd, hst])

/-- Every other command stays, but for waits that latch. -/
theorem State.mem_goTiled (h : d ∈ s.cmds) (hne : d.id ≠ c.id) : ∃ e ∈ (s.goTiled c).cmds, e = { d with waits := e.waits, openAt := e.openAt } := by
  have hset : d ∈ (s.setCmd (tiledCmd s c)).cmds := List.mem_map.2 ⟨d, h, if_neg hne⟩
  rw [State.goTiled_eq, State.traceStart_cmds]
  exact State.mem_latchWaits hset

/-- With the partition's trace off no byte of device memory changes. -/
theorem State.byteAt_goTiled (h : s.flag F.cntTrcfgEn (s.partOf c.ctx) = false) (a : Nat) : (s.goTiled c).byteAt a = s.byteAt a := by
  rw [State.goTiled_eq, State.traceStart, State.trace_off (s := (s.setCmd (tiledCmd s c)).latchWaits) (c := tiledCmd s c) _ _ _ h]
  rfl

end goTiled

section coStart
variable (s : State) {c : Cmd}

/-- Opening a carry-over block tracks every command as before. -/
theorem State.cmd_coStart (c : Cmd) (k : Nat) : (s.coStart c).cmd? k = s.cmd? k :=
  State.cmd_congr ((State.coStart_kept (E := fun c => c ∈ memoryComps) s c (Kept.refl s) (by decide) (by decide) (by decide) (by decide) (by decide)
    (by decide) (by decide) (by decide) (by decide)).only .cmds (by decide)).symm k

theorem State.coStart_none (h : c.plan.co = none) : s.coStart c = s := by
  simp [State.coStart, h]

end coStart

/-- An ATTN that is no ring step issues as a tiled command. -/
theorem State.goAttn_local (s : State) {c : Cmd} (h : c.ringA = false) : s.goAttn c = s.goTiled c := by
  simp [State.goAttn, h]

/-- A ring ATTN posts its first block from the command that it then tracks (R194). -/
theorem State.goAttn_ring {s : State} {c d : Cmd} (h : (s.goTiled c).cmd? c.id = some d) (hring : c.ringA = true) :
    s.goAttn c = (s.goTiled c).ringPost d 0 := by
  simp [State.goAttn, h, hring]

section issued
variable {s : State} {q : Nat} {c0 : Cmd} {p : Plan} {ws : List Nat} {r : IssueRow}

/-- The command that issues is tracked while its checks read words. -/
theorem IssueRow.Has.tracked {o : Except Rej Plan} (h : r.Has s q c0 o ws) : ∃ d, (s.readWords ws.eraseDups).cmd? c0.id = some d := by
  obtain ⟨hold, -⟩ := h
  rw [State.cmd_readWords]
  exact State.oldest_cmd hold

/-- The command that issues is tracked as a tiled one. -/
theorem IssueRow.Has.cmd_goTiled (h : r.Has s q c0 (.ok p) ws) :
    ((s.readWords ws.eraseDups).goTiled (issued s c0 p)).cmd? c0.id = some (tiledCmd (s.readWords ws.eraseDups) (issued s c0 p)) := by
  obtain ⟨d, hd⟩ := h.tracked
  exact State.cmd_goTiled (c := issued s c0 p) hd rfl

theorem exec_mma_issues (h : (mmaRow q).Has s q c0 (.ok p) ws) : exec (.mma q) s = .next ((s.readWords ws.eraseDups).goMma (issued s c0 p)) :=
  congrArg Host.Outcome.next (IssueRow.issue_ok h State.goMma)

theorem exec_attn_issues (h : (attnRow q).Has s q c0 (.ok p) ws) : exec (.attn q) s = .next ((s.readWords ws.eraseDups).goAttn (issued s c0 p)) :=
  congrArg Host.Outcome.next (IssueRow.issue_ok h State.goAttn)

/-- With the trace off, a tiled command that issues changes no byte of device memory. -/
theorem byteAt_goTiled_issued (hs : s.canon = true)
    (hoff : (s.readWords ws.eraseDups).flag F.cntTrcfgEn ((s.readWords ws.eraseDups).partOf c0.ctx) = false) (a : Nat) :
    ((s.readWords ws.eraseDups).goTiled (issued s c0 p)).byteAt a = s.byteAt a :=
  (State.byteAt_goTiled (c := issued s c0 p) hoff a).trans (State.byteAt_readWords hs _ a)

end issued

/-- Settles O7: a tiled row sets its command, latches waits and traces; the trace leaves the tracked commands, and while it is off the memory. MMA opens its
block before, ATTN posts it after. -/
theorem tiledCommandsIssue : Obligations.TiledCommandsIssue := by
  unfold Obligations.TiledCommandsIssue
  refine ⟨fun s q c0 p ws hs r hr h => ?_, fun s q c0 p ws hs => ⟨fun h => ?_, fun h => ⟨fun hlocal => ?_, fun hring => ?_⟩⟩⟩
  · rw [exec_tiledRow r hr, IssueRow.issue_ok h]
    exact ⟨_, rfl, h.cmd_goTiled, fun d hd hne => State.mem_goTiled (by rwa [State.readWords_cmds]) hne, byteAt_goTiled_issued hs⟩
  · obtain ⟨d, hd⟩ := h.tracked
    rw [exec_mma_issues h, State.goMma]
    refine ⟨_, rfl, State.cmd_goTiled (c := issued s c0 p) (d := d) (by rwa [State.cmd_coStart]) rfl, fun hco hoff => ?_⟩
    rw [State.coStart_none _ hco]
    exact byteAt_goTiled_issued hs hoff
  · rw [exec_attn_issues h, State.goAttn_local (c := issued s c0 p) _ hlocal]
    exact ⟨_, rfl, h.cmd_goTiled, byteAt_goTiled_issued hs⟩
  · rw [exec_attn_issues h, State.goAttn_ring h.cmd_goTiled hring]

end Sys2Proof.Machine

/-!
PROOFS. Commands that fail a check at issue (O8).
-/
namespace Sys2Proof.Machine

theorem State.canon_ctxs {s : State} (h : s.canon = true) : rises s.ctxs = true := by
  obtain ⟨-, -, -, -, hctxs, -⟩ := State.canon_iff.1 h
  exact hctxs

/-- The context of a command that may issue is ACTIVE, with no fault that waits for its teardown (R96). -/
theorem State.ctxActive_of_mayIssue {s : State} {c : Cmd} (h : s.mayIssue c = true) : s.ctxActive c.ctx = true := by
  simp only [State.mayIssue, Bool.and_eq_true] at h
  obtain ⟨⟨-, hactive⟩, -⟩ := h
  exact hactive

section rejectCmd
variable {s : State} {c d : Cmd} (r : Rej)

/-- The command as its rejection leaves it (R582). -/
def rejected (c : Cmd) (r : Rej) : Cmd := { c with st := .ended, status := r.status, dslot := r.dslot, dfield := r.dfield, addr := r.addr }

/-- The fault that a rejection notes in the context (R116). -/
def rejFault (c : Cmd) (r : Rej) : CtxFault := ⟨r.status, 0x30, r.addr, r.dslot * 32 + r.dfield, some c.id, none⟩

/-- The first fault of an ACTIVE context is noted in it (R22). -/
theorem State.faultCtx_active {x : Nat} (h : s.ctxActive x = true) (f : CtxFault) : ∃ v, s.faultCtx x f = s.setCtx x v ∧ v.fault = some f := by
  rw [State.ctxActive] at h
  exact ⟨_, if_pos h, rfl⟩

/-- A rejection in an ACTIVE context sets the command and notes the fault in the context; memory stays (R116). -/
theorem State.rejectCmd_active (h : s.ctxActive c.ctx = true) (hs : rises s.ctxs = true) :
    (s.rejectCmd c r).cmds = (s.setCmd (rejected c r)).cmds ∧ ((s.rejectCmd c r).ctx c.ctx).fault = some (rejFault c r) ∧
      ∀ a, (s.rejectCmd c r).byteAt a = s.byteAt a := by
  obtain ⟨v, hset, hv⟩ := State.faultCtx_active (s := s.setCmd (rejected c r)) h (rejFault c r)
  have hctx : (((s.setCmd (rejected c r)).setCtx c.ctx v).ctx c.ctx).fault = some (rejFault c r) := by
    rwa [State.ctx_setCtx_same (s := s.setCmd (rejected c r)) hs]
  have hreject : s.rejectCmd c r =
      let t := (s.setCmd (rejected c r)).setCtx c.ctx v
      if r.dslot = 6 then t.setCtx c.ctx { t.ctx c.ctx with faultTag := r.tag } else t := by
    rw [← hset]
    rfl
  rw [hreject]
  by_cases hslot : r.dslot = 6
  · simp only [if_pos hslot]
    exact ⟨rfl, (congrArg Context.fault (State.ctx_setCtx_same (rises_tset _ _ hs) _ _)).trans hctx, fun _ => rfl⟩
  · simp only [if_neg hslot]
    exact ⟨rfl, hctx, fun _ => rfl⟩

end rejectCmd

/-- Settles O8: every row that issues hands a failed check to the rejection, in a context that is ACTIVE since the command may issue. -/
theorem rejectedCommandsWriteNothing : Obligations.RejectedCommandsWriteNothing := by
  unfold Obligations.RejectedCommandsWriteNothing
  intro s q c0 e ws hs r hr h
  obtain ⟨d, hd⟩ := h.tracked
  have ⟨hold, _, hmay, _⟩ := h
  obtain ⟨go, hexec⟩ := exec_issueRow (State.lostWait_none hold hmay) hr
  have hactive : (s.readWords ws.eraseDups).ctxActive c0.ctx = true := by
    rw [State.ctxActive, State.ctxstat_readWords, State.ctx_readWords]
    exact State.ctxActive_of_mayIssue hmay
  obtain ⟨hcmds, hfault, hbytes⟩ := State.rejectCmd_active (c := s.sample c0) e hactive (State.canon_ctxs (State.readWords_canon hs _))
  rw [hexec, IssueRow.issue_error h]
  refine ⟨_, rfl, ?_, hfault, fun a => (hbytes a).trans (State.byteAt_readWords hs _ a)⟩
  rw [State.cmd_congr hcmds]
  exact State.cmd_setCmd_same (c := rejected (s.sample c0) e) hd

end Sys2Proof.Machine

/-!
PROOFS. Writes of counters, and waits that stay satisfied (O25).
-/
namespace Sys2Proof.Machine

theorem State.fields_latchWaits (l : List (Fld × Nat)) (s : State) : FieldsKept l s s.latchWaits := .of_regs rfl

/-! ### A counter is set, then every open wait is evaluated (R298, R299, R309) -/

section counter
variable {s : State} (f : Fld) (n v : Nat)

/-- A counter that is set reads the value, cut to its width, after the waits have latched. -/
theorem State.getF_setCounter (hs : s.canon = true) : (s.setF f n v).latchWaits.getF f n = v % 2 ^ f.w := by
  rw [State.latchWaits_getF, State.getF_setF_same (State.canon_regs hs)]

theorem State.fields_setCounter : FieldsKept [(f, n)] s (s.setF f n v).latchWaits :=
  ((FieldsKept.refl _ s).setF f n v (List.mem_singleton_self _)).trans (State.fields_latchWaits _ _)

theorem State.only_setCounter : OnlyChanged [.regs, .cmds, .streams] s (s.setF f n v).latchWaits :=
  ((OnlyChanged.refl _ s).setF f n v (by decide)).trans ((State.only_latchWaits _).mono (by decide))

end counter

section access
variable {s : State} {acr : Acr} {n t : Nat} (v : Nat)

/-- A write of SHT_TOK sets the counter of the accessor's grant (R298). -/
theorem exec_shtTok_granted (h : s.unitOf acr F.shtTokallocTokfirst F.shtTokallocTokcount 65536 n = some t) :
    exec (.shtTok acr n v) s = .next (s.setF F.shtTokValue t (v % 2 ^ 32)).latchWaits := by
  show execShtTok acr n v s = _
  rw [execShtTok, h]
  rfl

/-- A write of SHT_TOKADD adds to it (R299). -/
theorem exec_shtTokadd_granted (h : s.unitOf acr F.shtTokallocTokfirst F.shtTokallocTokcount 65536 n = some t) :
    exec (.shtTokadd acr n v) s = .next (s.setF F.shtTokValue t (s.getF F.shtTokValue t + v % 2 ^ 32)).latchWaits := by
  show execShtTokadd acr n v s = _
  rw [execShtTokadd, h]
  rfl

/-- A write of ZLK_ARR sets an arrival counter (R309). -/
theorem exec_zlkArr_granted (h : s.unitOf acr F.zlkArrallocArrfirst F.zlkArrallocArrcount 4096 n = some t) :
    exec (.zlkArr acr n v) s = .next (s.setF F.zlkArrCount t (v % 2 ^ 64)).latchWaits := by
  show execZlkArr acr n v s = _
  rw [execZlkArr, h]
  rfl

/-- A token counter outside the grant is refused. -/
theorem exec_token_beyond (h : s.unitOf acr F.shtTokallocTokfirst F.shtTokallocTokcount 65536 n = none) :
    exec (.shtTok acr n v) s = .next (s.refuseAcc acr) ∧ exec (.shtTokadd acr n v) s = .next (s.refuseAcc acr) := by
  show execShtTok acr n v s = _ ∧ execShtTokadd acr n v s = _
  rw [execShtTok, execShtTokadd, h]
  exact ⟨rfl, rfl⟩

/-- An arrival counter outside the grant is refused. -/
theorem exec_zlkArr_beyond (h : s.unitOf acr F.zlkArrallocArrfirst F.zlkArrallocArrcount 4096 n = none) :
    exec (.zlkArr acr n v) s = .next (s.refuseAcc acr) := by
  show execZlkArr acr n v s = _
  rw [execZlkArr, h]

end access

/-- The waits of a fetched command after latching: those that were satisfied, and those that are satisfied now (R113). -/
theorem State.getElem_latchCmd_waits (s : State) {c : Cmd} (hst : c.st = .fetched) {i : Nat} (hi : i < 4) (hlen : c.waits.length = 4) :
    (s.latchCmd c).waits[i]? = some (c.waits.getD i false || (s.waitsNow c).getD i false) := by
  have hnow : i < (s.waitsNow c).length := by rwa [s.waitsNow_length]
  have hold : i < c.waits.length := by rwa [hlen]
  rw [s.latchCmd_waits hst, List.getElem?_zipWith, List.getElem?_eq_getElem hold, List.getElem?_eq_getElem hnow]
  simp [List.getD_eq_getElem?_getD, hold, hnow]

/-- Settles O25: each write is one setting of a field followed by the latching of waits, which changes no register; a latched wait is the disjunction of
what it was and of what is satisfied now. -/
theorem countersAndWaits : Obligations.CountersAndWaits := by
  unfold Obligations.CountersAndWaits
  refine ⟨fun s acr n v hs => ⟨fun t ht => ⟨?_, ?_⟩, fun a ha => ?_, exec_token_beyond v, exec_zlkArr_beyond v⟩, fun s t w => ?_, fun s c i hc hst hlen hi => ?_⟩
  · refine ⟨_, exec_shtTok_granted v ht, ?_, State.fields_setCounter _ _ _, State.only_setCounter _ _ _, rfl⟩
    rw [State.getF_setCounter _ _ _ hs]
    exact Nat.mod_mod v (2 ^ 32)
  · refine ⟨_, exec_shtTokadd_granted v ht, ?_, State.fields_setCounter _ _ _, State.only_setCounter _ _ _⟩
    rw [State.getF_setCounter _ _ _ hs]
    exact Nat.add_mod_mod _ v (2 ^ 32)
  · refine ⟨_, exec_zlkArr_granted v ha, ?_, State.fields_setCounter _ _ _, State.only_setCounter _ _ _⟩
    rw [State.getF_setCounter _ _ _ hs]
    exact Nat.mod_mod v (2 ^ 64)
  · exact decide_eq_true_iff
  · refine ⟨s.latchCmd c, List.mem_map_of_mem hc, s.latchCmd_eq c, ?_, s.getElem_latchCmd_waits hst hi hlen⟩
    rw [s.latchCmd_waits hst, List.length_zipWith, s.waitsNow_length, hlen, Nat.min_self]

end Sys2Proof.Machine

/-!
PROOFS. Completion of a command: the order of its steps (O13).
-/
namespace Sys2Proof.Machine

/-- The command with the flags that its parts give it as it completes (R118). -/
def Cmd.flagged (c : Cmd) : Cmd := { c with flush := c.parts.any fun p => p.flushN != 0, poisoned := c.poisoned || c.parts.any (·.poison) }

/-- The steps of R118, in order: FLUSHED, dumps, signal, END event, and the record with the end of tracking. -/
theorem State.completeCmd_eq (s : State) (c : Cmd) : s.completeCmd c =
    let d := c.flagged
    let t := (if d.flush then s.setF F.shtNumctlFlushed d.ctx 1 else s).fireDumps d
    let u := if d.status == 0 && d.sgen then t.addToken d.stok d.sinc else t
    (u.traceEnd d).finishCmd d := rfl

section clean
variable {c : Cmd} (s : State)

/-- A command whose parts flushed no element and took no poison completes with the flags that it has. -/
theorem Cmd.flagged_clean (hparts : c.parts.all (fun p => p.flushN == 0 && !p.poison) = true) (hflush : c.flush = false) : c.flagged = c := by
  have hpart : ∀ p ∈ c.parts, p.flushN = 0 ∧ p.poison = false := by
    simpa only [List.all_eq_true, Bool.and_eq_true, beq_iff_eq, Bool.not_eq_true'] using hparts
  have hnoflush : (c.parts.any fun p => p.flushN != 0) = c.flush := by
    rw [hflush, List.any_eq_false]
    exact fun p hp => by simp [(hpart p hp).1]
  have hnopoison : c.parts.any (·.poison) = false := by
    rw [List.any_eq_false]
    exact fun p hp => by simp [(hpart p hp).2]
  rw [Cmd.flagged, hnoflush, hnopoison, Bool.or_false]

/-- A command with no armed slot fires no dump (R537). -/
theorem State.fireDumps_unarmed (h : c.armed = []) : s.fireDumps c = s := by
  rw [State.fireDumps, h, List.foldl_nil]

end clean

/-- The end of a command: its record is owed when it asked for one or did not succeed, and it is tracked no longer (R118 steps 3, 4). -/
theorem State.finishCmd_eq (s : State) (c : Cmd) :
    s.finishCmd c = ((if c.notify = true ∨ c.status ≠ 0 then s.oweRecord c.q c.id (s.cmdRecord c) else s).dropCmd c.id).latchWaits := by
  simp only [State.finishCmd, Bool.or_eq_true, bne_iff_ne]

/-- Settles O13: with no flag to set and no dump to fire, what is left of the steps of R118 is the signal, the END event and the record. -/
theorem completionSignalsAndRecords : Obligations.CompletionSignalsAndRecords := by
  unfold Obligations.CompletionSignalsAndRecords
  intro s c hparts harmed _ hflush
  rw [State.completeCmd_eq, Cmd.flagged_clean hparts hflush]
  simp only [hflush, s.fireDumps_unarmed harmed, State.finishCmd_eq, Bool.false_eq_true, if_false, Bool.and_eq_true, beq_iff_eq]

end Sys2Proof.Machine

/-!
PROOFS. NOP, WAIT, SIGNAL, FENCE, MARK and DUMP at issue (O9).
-/
namespace Sys2Proof.Machine

/-! ### What a command that passed its checks does -/

section go
variable (s : State) {c : Cmd}

/-- A DUMP with COUNT 0 frees every slot of the context (R536). -/
theorem State.goDump_free (h : c.dumpCount = 0) :
    s.goDump c = (s.setCtx c.ctx { s.ctx c.ctx with dumps := (s.ctx c.ctx).dumps.map fun _ => none }).goAnchorNow c := by
  simp only [State.goDump, h, if_true]

/-- A DUMP with another COUNT arms the lowest free slot (R536). -/
theorem State.goDump_arm (h : c.dumpCount ≠ 0) :
    s.goDump c = (s.setCtx c.ctx { s.ctx c.ctx with
      dumps := (s.ctx c.ctx).dumps.set ((s.ctx c.ctx).dumps.findIdx (·.isNone)) (some ⟨c.id, c.bytes.drop 32, 0⟩) }).goAnchorNow c := by
  simp only [State.goDump, h, if_false]

/-- A SIGNAL of cluster scope applies its entries and completes (R301). -/
theorem State.goSignal_cluster (h : c.scope = 0) : s.goSignal c = (s.signalEntries c).goAnchorNow c := if_pos h

/-- A SIGNAL of device or system scope waits for the earlier commands (R301). -/
theorem State.goSignal_waits (h : c.scope ≠ 0) : s.goSignal c = s.goAnchor c := if_neg h

/-- A FENCE of cluster scope leaves a bar in its span and completes (R303). -/
theorem State.goFence_cluster (h : c.scope = 0) : s.goFence c =
    let d := { c with span := s.issueSpan c }
    (((({ s with fences := s.fences ++ [⟨c.id, c.q, c.ctx, c.wholeCtx, d.span⟩] } : State).setCmd d).traceStart d).completeCmd d).pruneFences :=
  if_pos h

/-- A FENCE of device or system scope stays tracked (R303). -/
theorem State.goFence_waits (h : c.scope ≠ 0) : s.goFence c =
    let d := { c with span := s.issueSpan c }
    ((s.setCmd d).latchWaits).traceStart d :=
  if_neg h

end go

section issue
variable {s : State} {q : Nat} {c0 : Cmd} {p : Plan} {ws : List Nat}

theorem issued_st_ne (s : State) (c0 : Cmd) (p : Plan) : (issued s c0 p).st ≠ .fetched := by
  simp [issued]

theorem exec_nop_issues (h : IssueRow.Has ⟨.nop q, isNopRow, nopCheck⟩ s q c0 (.ok p) ws) :
    exec (.nop q) s = .next ((s.readWords ws.eraseDups).goNow (issued s c0 p)) :=
  congrArg Host.Outcome.next (IssueRow.issue_ok h State.goNow)

theorem exec_wait_issues (h : IssueRow.Has ⟨.wait q, isOp 0x28, waitCheck⟩ s q c0 (.ok p) ws) :
    exec (.wait q) s = .next ((s.readWords ws.eraseDups).goNow (issued s c0 p)) := by
  have ⟨hold, _, hmay, _⟩ := h
  exact (exec_wait_notLost (State.lostWait_none hold hmay)).trans (congrArg Host.Outcome.next (IssueRow.issue_ok h State.goNow))

theorem exec_mark_issues (h : IssueRow.Has ⟨.mark q, isOp 0x2B, markCheck⟩ s q c0 (.ok p) ws) :
    exec (.mark q) s = .next ((s.readWords ws.eraseDups).goMark (issued s c0 p)) :=
  congrArg Host.Outcome.next (IssueRow.issue_ok h State.goMark)

theorem exec_dump_issues (h : IssueRow.Has ⟨.dump q, isOp 0x2C, dumpCheck⟩ s q c0 (.ok p) ws) :
    exec (.dump q) s = .next ((s.readWords ws.eraseDups).goDump (issued s c0 p)) :=
  congrArg Host.Outcome.next (IssueRow.issue_ok h State.goDump)

theorem exec_signal_issues (h : IssueRow.Has ⟨.signal q, isOp 0x29, signalCheck⟩ s q c0 (.ok p) ws) :
    exec (.signal q) s = .next ((s.readWords ws.eraseDups).goSignal (issued s c0 p)) :=
  congrArg Host.Outcome.next (IssueRow.issue_ok h State.goSignal)

theorem exec_fence_issues (h : IssueRow.Has ⟨.fence q, isOp 0x2A, fenceCheck⟩ s q c0 (.ok p) ws) :
    exec (.fence q) s = .next ((s.readWords ws.eraseDups).goFence (issued s c0 p)) :=
  congrArg Host.Outcome.next (IssueRow.issue_ok h State.goFence)

end issue

/-- Settles O9: each row hands its command on, by its scope or its COUNT; a completed command is tracked no longer, and one of wider scope is what is set. -/
theorem synchronizationCommandsIssue : Obligations.SynchronizationCommandsIssue := by
  unfold Obligations.SynchronizationCommandsIssue
  refine ⟨fun s q c0 p ws => ⟨?_, exec_mark_issues, fun h => ⟨fun hfree => ?_, fun harm => ?_⟩, fun h hscope => ?_, fun h hscope => ?_, State.cmd_completeCmd⟩,
    fun s q c0 p ws hscope => ⟨fun h => ?_, fun h => ?_⟩⟩
  · simp only [List.forall_mem_cons]
    exact ⟨exec_nop_issues, exec_wait_issues, by simp⟩
  · rw [exec_dump_issues h, State.goDump_free (c := issued s c0 p) _ hfree]
    rfl
  · rw [exec_dump_issues h, State.goDump_arm (c := issued s c0 p) _ harm]
    rfl
  · rw [exec_signal_issues h, State.goSignal_cluster (c := issued s c0 p) _ hscope]
    rfl
  · rw [exec_fence_issues h, State.goFence_cluster (c := issued s c0 p) _ hscope]
  · obtain ⟨x, hx⟩ := h.tracked
    rw [exec_signal_issues h, State.goSignal_waits (c := issued s c0 p) _ hscope]
    exact ⟨_, rfl, State.cmd_setCmd_latch (c := issued s c0 p) hx (issued_st_ne s c0 p), fun n => rfl⟩
  · obtain ⟨x, hx⟩ := h.tracked
    rw [exec_fence_issues h, State.goFence_waits (c := issued s c0 p) _ hscope]
    refine ⟨_, rfl, ?_⟩
    rw [State.cmd_traceStart]
    exact State.cmd_setCmd_latch (c := { issued s c0 p with span := _ }) hx (issued_st_ne s c0 p)

end Sys2Proof.Machine

/-!
PROOFS. Disabling a queue (O19).
-/
namespace Sys2Proof.Machine

section queueDisable
variable {s : State} {acr : Acr} {set v fn : Nat} (host : List (List Byte))

/-- The checks of QUEUE_DISABLE, in their order, for a function with no operation under way (R384). -/
def State.disableOp (s : State) (fn v : Nat) (host : List (List Byte)) : State :=
  let q := bits v 0 12
  let x := (s.queue q).ctx
  let st := s.getF F.pciQstatState q
  if bits v 22 38 != 0 then s.ctxOp fn x 0x88
  else if st != 0 && fn != 0 && s.getF F.shtCtxstatOwner x != fn then s.ctxOp fn x 0x89
  else if st != 1 then s.ctxOp fn x 0x8A
  else (s.disableQueue q host).ctxOp fn x 0

/-- QUEUE_DISABLE of a function with no operation under way goes through its checks. -/
theorem exec_queueDisable_checks (hset : fnSet acr set = fn) (hfn : fn < 64) (hbusy : s.flag F.shtCtxcmdstatBusy fn = false) (hop : opOf v = 4) :
    exec (.queueDisable acr set v host) s = .next (s.disableOp fn v host) := by
  subst hset
  show execQueueDisable acr set v host s = _
  simp only [execQueueDisable, State.ctxCmd, hop, bne_self_eq_false, Bool.false_eq_true, if_false, hbusy, Nat.not_le.2 hfn]
  rfl

/-- With no reset of its context under way, a queue is disabled by ending its unissued commands, those in the windows first (R121). -/
theorem State.disableQueue_noReset {q : Nat} (h : (s.ctx (s.queue q).ctx).reset = none) :
    s.disableQueue q host =
      let u := s.setF F.pciQstatState q 2
      (((u.cmds.filter fun c => c.q == q && c.st == .fetched).foldl (fun t c => t.endAs c 0x0E) u).endRing q host).pruneFences := by
  simp only [State.disableQueue, State.setF_ctx, h]

/-- A nonzero reserved bit is refused first. -/
theorem State.disableOp_reserved (h : bits v 22 38 ≠ 0) : s.disableOp fn v host = s.ctxOp fn (s.queue (bits v 0 12)).ctx 0x88 := by
  simp [State.disableOp, h]

/-- A queue of another function's context is refused next. -/
theorem State.disableOp_notOwned (hres : bits v 22 38 = 0) (hst : s.getF F.pciQstatState (bits v 0 12) ≠ 0) (hfn : fn ≠ 0)
    (howner : s.getF F.shtCtxstatOwner (s.queue (bits v 0 12)).ctx ≠ fn) :
    s.disableOp fn v host = s.ctxOp fn (s.queue (bits v 0 12)).ctx 0x89 := by
  simp [State.disableOp, hres, hst, hfn, howner]

/-- An ENABLED queue that the function may disable is disabled. -/
theorem State.disableOp_enabled (hres : bits v 22 38 = 0) (hst : s.getF F.pciQstatState (bits v 0 12) = 1)
    (howner : fn = 0 ∨ s.getF F.shtCtxstatOwner (s.queue (bits v 0 12)).ctx = fn) :
    s.disableOp fn v host = (s.disableQueue (bits v 0 12) host).ctxOp fn (s.queue (bits v 0 12)).ctx 0 := by
  obtain rfl | rfl := howner <;> simp [State.disableOp, hres, hst]

end queueDisable

/-- Settles O19: the checks run in their order, and the queue of a context without a reset is disabled as R121 says. -/
theorem queuesAreDisabled : Obligations.QueuesAreDisabled := by
  unfold Obligations.QueuesAreDisabled
  intro s acr set v fn host hset hfn hbusy hop
  rw [exec_queueDisable_checks host hset hfn hbusy hop]
  refine ⟨fun hres => ?_, fun hres hst hpf howner => ?_, fun hres hst howner hreset => ?_⟩
  · rw [State.disableOp_reserved host hres]
  · rw [State.disableOp_notOwned host hres hst hpf howner]
  · rw [State.disableOp_enabled host hres hst howner, State.disableQueue_noReset host hreset]

end Sys2Proof.Machine

/-!
PROOFS. Fetching commands (O20).
-/
namespace Sys2Proof.Machine

/-! ### The state that a fetch goes on from -/

/-- The address of the command that SQHEAD names (R398). -/
def State.headAddr (s : State) (q : Nat) : Nat := (s.queue q).sqBase + 64 * (s.getF F.pciQstatSqhead q % 2 ^ (s.queue q).sqLog2)

/-- The command that SQHEAD names, before its holders are chosen. -/
def State.headCmd (s : State) (q : Nat) (bytes : List Byte) : Cmd :=
  newCmd s.nextCmd q (s.queue q).ctx (s.getF F.pciQstatSqhead q) (s.ringCommand q (s.getF F.pciQstatSqhead q) 0 [bytes]) []

/-- Every cluster that would hold the command has a window slot free (R95, R374). -/
def State.headFits (s : State) (q : Nat) (bytes : List Byte) : Bool :=
  (s.holders (s.queue q).ctx (s.headCmd q bytes)).all (s.windowFree (s.queue q).ctx)

/-- The read of the command from a ring in device memory; a ring in host memory is not read. -/
def State.readHead (s : State) (q : Nat) : State := if (s.queue q).sqDev then s.readWords (wordsOf (s.headAddr q) 64) else s

/-- The read brings poison. -/
def State.headPoisoned (s : State) (q : Nat) : Bool := (s.queue q).sqDev && s.anyPoison (wordsOf (s.headAddr q) 64)

section readHead
variable (s : State) (q : Nat)

@[simp] theorem State.readHead_cmds : (s.readHead q).cmds = s.cmds := by
  unfold State.readHead
  split
  · exact s.readWords_cmds _
  · rfl

@[simp] theorem State.readHead_nextCmd : (s.readHead q).nextCmd = s.nextCmd := by
  unfold State.readHead
  split
  · exact s.readWords_nextCmd _
  · rfl

variable {s}

theorem State.readHead_canon (hs : s.canon = true) : (s.readHead q).canon = true := by
  unfold State.readHead
  split
  · exact State.readWords_canon hs _
  · exact hs

theorem State.byteAt_readHead (hs : s.canon = true) (a : Nat) : (s.readHead q).byteAt a = s.byteAt a := by
  unfold State.readHead
  split
  · exact State.byteAt_readWords hs _ a
  · rfl

end readHead

/-! ### A command is tracked -/

/-- A fetched command is tracked last, SQHEAD of its queue takes the value `h`, and every open wait is evaluated (R95, R398). -/
def State.track (s : State) (c : Cmd) (h : Nat) : State :=
  ({ s.setF F.pciQstatSqhead c.q h with cmds := s.cmds ++ [c], nextCmd := s.nextCmd + 1 } : State).latchWaits

section track
variable (s : State) (c : Cmd) (h : Nat)

theorem State.track_nextCmd : (s.track c h).nextCmd = s.nextCmd + 1 := rfl

theorem State.byteAt_track (a : Nat) : (s.track c h).byteAt a = s.byteAt a := rfl

theorem State.sqhead_track (hs : s.canon = true) : (s.track c h).getF F.pciQstatSqhead c.q = h % 2 ^ 32 :=
  State.getF_setF_same (State.canon_regs hs) F.pciQstatSqhead c.q h

theorem State.length_track : (s.track c h).cmds.length = s.cmds.length + 1 := by
  simp [State.track, State.latchWaits_cmds]

theorem State.getLast_track : ∃ d, (s.track c h).cmds.getLast? = some d ∧ d = { c with waits := d.waits, openAt := d.openAt } := by
  refine ⟨_, ?_, State.latchCmd_eq ({ s.setF F.pciQstatSqhead c.q h with cmds := s.cmds ++ [c], nextCmd := s.nextCmd + 1 } : State) c⟩
  rw [State.track, State.latchWaits_cmds, List.map_append, List.map_singleton, List.getLast?_concat]

end track

/-! ### COMMAND_FETCH and QFETCH_FAILURE -/

section fetch
variable {s : State} {q : Nat} (bytes : List Byte)

/-- COMMAND_FETCH of a queue that may fetch. -/
theorem exec_commandFetch_mayFetch (hmay : s.mayFetch q = true) :
    exec (.commandFetch q bytes) s = .next (
      if s.headFits q bytes = false then s
      else if s.headPoisoned q = true then (s.readHead q).fetchFail q
      else (s.readHead q).track { s.headCmd q bytes with span := s.holders (s.queue q).ctx (s.headCmd q bytes) } (s.getF F.pciQstatSqhead q + 1)) := by
  show execCommandFetch q bytes s = _
  simp only [execCommandFetch, hmay, Bool.not_true, Bool.false_eq_true, if_false, Bool.not_eq_true']
  rfl

theorem exec_commandFetch_waits (hmay : s.mayFetch q = false) : exec (.commandFetch q bytes) s = .next s := by
  show execCommandFetch q bytes s = _
  simp only [execCommandFetch, hmay, Bool.not_false, if_true]

theorem exec_qfetchFailure_waits (hmay : s.mayFetch q = false) : exec (.qfetchFailure q) s = .next s := by
  show execQfetchFailure q s = _
  simp only [execQfetchFailure, hmay, Bool.false_and, Bool.false_eq_true, if_false]

/-- The read of the next command from host memory fails (R400). -/
theorem exec_qfetchFailure_fails (hmay : s.mayFetch q = true) (hhost : (s.queue q).sqDev = false) :
    exec (.qfetchFailure q) s = .next (s.fetchFail q) := by
  show execQfetchFailure q s = _
  simp only [execQfetchFailure, hmay, hhost, Bool.not_false, Bool.and_self, if_true]

/-- A command whose holders have room and whose read brings no poison is tracked. -/
theorem exec_commandFetch_tracks (hmay : s.mayFetch q = true) (hfits : s.headFits q bytes = true) (hclean : s.headPoisoned q = false) :
    exec (.commandFetch q bytes) s = .next
      ((s.readHead q).track { s.headCmd q bytes with span := s.holders (s.queue q).ctx (s.headCmd q bytes) } (s.getF F.pciQstatSqhead q + 1)) := by
  simp only [exec_commandFetch_mayFetch bytes hmay, hfits, hclean, Bool.true_eq_false, Bool.false_eq_true, if_false]

/-- Without a window slot in a cluster that would hold the command nothing is fetched (R374). -/
theorem exec_commandFetch_noWindow {cl : Nat} (hcl : cl ∈ s.holders (s.queue q).ctx (s.headCmd q bytes))
    (hfull : s.windowFree (s.queue q).ctx cl = false) : exec (.commandFetch q bytes) s = .next s := by
  cases hmay : s.mayFetch q with
  | false => exact exec_commandFetch_waits bytes hmay
  | true =>
    have hfits : s.headFits q bytes = false := List.all_eq_false.2 ⟨cl, hcl, by simp [hfull]⟩
    rw [exec_commandFetch_mayFetch bytes hmay, if_pos hfits]

end fetch

/-- Settles O20: the read of the ring keeps the commands and every byte, and what is tracked is the command with its waits latched; a queue that may not
fetch or finds no window leaves the state; a failed read takes the steps of R400. -/
theorem commandsAreFetchedInRingOrder : Obligations.CommandsAreFetchedInRingOrder := by
  unfold Obligations.CommandsAreFetchedInRingOrder
  refine ⟨fun s q bytes hs hmay hfits hclean => ?_, fun s q bytes => ⟨fun hmay => ?_, fun cl => exec_commandFetch_noWindow bytes⟩,
    fun s q hmay hhost => exec_qfetchFailure_fails hmay hhost⟩
  · have hread : s.headPoisoned q = false := by
      cases hdev : (s.queue q).sqDev with
      | false => simp only [State.headPoisoned, hdev, Bool.false_and]
      | true => simp only [State.headPoisoned, State.headAddr, hdev, Bool.true_and]; exact hclean hdev
    refine ⟨_, exec_commandFetch_tracks bytes hmay hfits hread, ?_, ?_, ?_, State.getLast_track _ _ _, fun w => ?_⟩
    · rw [State.track_nextCmd, State.readHead_nextCmd]
    · exact State.sqhead_track _ _ _ (State.readHead_canon q hs)
    · rw [State.length_track, State.readHead_cmds]
    · rw [State.byteAt_track, State.byteAt_readHead q hs]
  · exact ⟨exec_commandFetch_waits bytes hmay, exec_qfetchFailure_waits hmay⟩

end Sys2Proof.Machine

/-!
PROOFS. Integer operations of a VOP: an exact integer result saturates on its store, and the 32-bit form of the bitwise operations is stored as it is (O60).
-/
namespace Sys2Proof.Machine

/-! ### Two's complement -/

/-- A `w`-bit field read as two's complement and written back is the field. -/
theorem ofInt_toInt (w v : Nat) : ofInt w (toInt w v) = v % 2 ^ w := by
  have hmod : toInt w v % (2 ^ w : Nat) = ((v % 2 ^ w : Nat) : Int) := by
    unfold toInt
    split <;> simp
  rw [ofInt, hmod, Int.toNat_natCast]

/-- Two's complement of `w` bits spells the integers from -2^(w-1) to 2^(w-1) - 1. -/
theorem toInt_mem_range {w : Nat} (hw : 0 < w) (v : Nat) : -2 ^ (w - 1) ≤ toInt w v ∧ toInt w v ≤ 2 ^ (w - 1) - 1 := by
  have hpow : 2 ^ w = 2 * 2 ^ (w - 1) := by rw [Nat.mul_comm, Nat.two_pow_pred_mul_two hw]
  have hlt : v % 2 ^ w < 2 ^ w := Nat.mod_lt v (Nat.two_pow_pos w)
  have hfield : (v : Int) % 2 ^ w = (v % 2 ^ w : Nat) := by simp only [Int.natCast_emod, Int.natCast_pow, Int.cast_ofNat_Int]
  have hhalf : (2 : Int) ^ (w - 1) = (2 ^ (w - 1) : Nat) := by simp only [Int.natCast_pow, Int.cast_ofNat_Int]
  have hfull : (2 : Int) ^ w = (2 ^ w : Nat) := by simp only [Int.natCast_pow, Int.cast_ofNat_Int]
  rw [toInt, hfield, hhalf, hfull]
  split <;> omega

theorem ofInt_lt (w : Nat) (i : Int) : ofInt w i < 2 ^ w := by
  have hpos : (0 : Int) < (2 ^ w : Nat) := Int.natCast_pos.2 (Nat.two_pow_pos w)
  exact (Int.toNat_lt (Int.emod_nonneg i (Int.ne_of_gt hpos))).2 (Int.emod_lt_of_pos i hpos)

/-! ### The store of an integer result (R151) -/

/-- An integer needs no rounding: it is only saturated to the format (R43, R59). -/
theorem toIntFmt_numOfInt (r : Option Nat) (f : Fmt) (i : Int) :
    toIntFmt r f 0 (numOfInt i 0) = clampInt f.intRange.1 f.intRange.2 i := by
  have hmag : roundAt r i.natAbs 0 0 = i.natAbs := by
    simp [roundAt_of_le]
  have hsign : (if decide (i < 0) = true then -(i.natAbs : Int) else i.natAbs) = i := by
    simp only [decide_eq_true_eq]
    split <;> omega
  simp only [numOfInt, toIntFmt, hmag, hsign]

/-- The store of an integer result saturates it to the output format (R151). -/
theorem encodeElem_intRes {f : Fmt} (hf : f.isInt = true) (ftz : Bool) (c : Cvt) (r : Option Nat) (i : Int) :
    (encodeElem ftz c r f (intRes i).val).1 = ofInt f.width (clampInt f.intRange.1 f.intRange.2 i) := by
  rw [encodeElem_of_isInt hf, ← toIntFmt_numOfInt r f i]
  rfl

/-- A 32-bit field taken as an integer is stored in INT32 as it is: no field is beyond the range. -/
theorem encodeElem_int32_toInt (ftz : Bool) (c : Cvt) (r : Option Nat) {n : Nat} (hn : n < 2 ^ 32) :
    (encodeElem ftz c r .int32 (intRes (toInt 32 n)).val).1 = n := by
  obtain ⟨hlo, hhi⟩ := toInt_mem_range (w := 32) (by decide) n
  have hclamp : clampInt Fmt.int32.intRange.1 Fmt.int32.intRange.2 (toInt 32 n) = toInt 32 n := clampInt_of_mem hlo hhi
  rw [encodeElem_intRes rfl, hclamp]
  exact (ofInt_toInt 32 n).trans (Nat.mod_eq_of_lt hn)

/-- Settles O60: each operation gives its exact integer, which the store saturates; the field of a bitwise one fits INT32. -/
theorem integerOperationsAreExact : Obligations.IntegerOperationsAreExact := by
  unfold Obligations.IntegerOperationsAreExact
  intro v sub compat ftz c r x y z f hf
  have hint : f.isInt = true := (by decide : ∀ f ∈ [Fmt.int8, .uint8, .int16, .int32], f.isInt = true) f hf
  refine ⟨?iadd, ?isub, ?imul, ?ishl, ?ishr, ?iand, ?ior, ?ixor⟩
  case iadd => rintro rfl; exact encodeElem_intRes hint ftz c r (x.int + y.int)
  case isub => rintro rfl; exact encodeElem_intRes hint ftz c r (x.int - y.int)
  case imul => rintro rfl; exact encodeElem_intRes hint ftz c r (x.int * y.int)
  case ishl => rintro rfl; exact encodeElem_intRes hint ftz c r (x.int * 2 ^ (y.int % 32).toNat)
  case ishr => rintro rfl; exact encodeElem_intRes hint ftz c r (x.int.fdiv (2 ^ (y.int % 32).toNat))
  case iand => rintro rfl rfl; exact encodeElem_int32_toInt ftz c r (Nat.and_lt_two_pow _ (ofInt_lt 32 y.int))
  case ior => rintro rfl rfl; exact encodeElem_int32_toInt ftz c r (Nat.or_lt_two_pow (ofInt_lt 32 x.int) (ofInt_lt 32 y.int))
  case ixor => rintro rfl rfl; exact encodeElem_int32_toInt ftz c r (Nat.xor_lt_two_pow (ofInt_lt 32 x.int) (ofInt_lt 32 y.int))

end Sys2Proof.Machine

/-!
PROOFS. Key/value, flash and send commands at issue (O10).
-/
namespace Sys2Proof.Machine

section go
variable (s : State) {c : Cmd}

/-- A command of the key/value cache joins the end of the queue of its partition's agent, which goes on (R207, R218). -/
theorem State.goKv_eq (c : Cmd) : s.goKv c =
    let v := s.goAnchor c
    let p := v.partOf c.ctx
    (v.setAgent p { v.agent p with queue := (v.agent p).queue ++ [⟨c.id, false, false, 0, 0, 0, 0, 0, 0, 0⟩] }).agentGo p := rfl

/-- An FLREAD of at least one block samples the version of its region and becomes a read job (R343). -/
theorem State.goFlread_blocks (h : (c.plan.desc 1).regionBlocks ≠ []) : s.goFlread c =
    let v := s.goAnchor c
    let r := s.flRegion c.region
    v.setFlash { v.flash with jobs := v.flash.jobs ++ [⟨.read c.id, c.region, r.data, r.bad, (c.plan.desc 1).regionBlocks, r.switches⟩] } :=
  if_neg (mt List.isEmpty_iff.1 h)

/-- A ZSEND on a port that is UP reads its source and hands its writes to the port (R421). -/
theorem State.goZsend_up (h : (s.goAnchor c).portUp c.zport = true) : s.goZsend c =
    let v := s.goAnchor c
    (v.readWords (wordsOf (c.addrAt 32) (c.field 44 4))).queueWrs c.zport
      (mkWrs c.id (c.addrAt 38) (wrBase (c.field 52 4) (bits (c.field 49 2) 0 12) (c.bits 48 4 4) (c.bits 51 1 1) (c.bits 51 0 1))
        (v.chunks (c.addrAt 32) (c.field 44 4))) := by
  simp only [State.goZsend, h, Bool.not_true, Bool.false_eq_true, if_false]

/-- A ZSEND on a port that is not UP fails (R423). -/
theorem State.goZsend_notUp (h : (s.goAnchor c).portUp c.zport = false) : s.goZsend c = (s.goAnchor c).endZsend c 0x9E := by
  simp only [State.goZsend, h, Bool.not_false, if_true]

end go

section issue
variable {s : State} {q : Nat} {c0 : Cmd} {p : Plan} {ws : List Nat}

/-- The rows of the key/value commands. -/
def kvRows (q : Nat) : List IssueRow :=
  [⟨.kvfork q, isOp 0x20, kvOpCheck⟩, ⟨.kvfreeTruncate q, fun c => c.opcode == 0x21 && c.kvMode != 1, kvOpCheck⟩,
   ⟨.kvfreeEvict q, fun c => c.opcode == 0x21 && c.kvMode == 1, kvOpCheck⟩, ⟨.kvprefetch q, isOp 0x22, kvOpCheck⟩]

/-- The rows of FLWRITE. -/
def flwriteRows (q : Nat) : List IssueRow :=
  [⟨.flwriteSpill q, isFlwrite 0, flwriteCheck⟩, ⟨.flwriteBegin q, isFlwrite 1, flwriteCheck⟩, ⟨.flwriteData q, isFlwrite 2, flwriteCheck⟩,
   ⟨.flwriteCommit q, isFlwrite 3, flwriteCheck⟩, ⟨.flwriteAbandon q, isFlwrite 4, flwriteCheck⟩]

theorem exec_kvRow (s : State) : ∀ r ∈ kvRows q, exec r.row s = .next (s.issue q r.mine r.check State.goKv) :=
  List.map_inj_left.1 rfl

theorem exec_flwriteRow (s : State) : ∀ r ∈ flwriteRows q, exec r.row s = .next (s.issue q r.mine r.check State.goFlwrite) :=
  List.map_inj_left.1 rfl

theorem exec_kvRow_issues {r : IssueRow} (hr : r ∈ kvRows q) (h : r.Has s q c0 (.ok p) ws) :
    exec r.row s = .next ((s.readWords ws.eraseDups).goKv (issued s c0 p)) := by
  rw [exec_kvRow s r hr, IssueRow.issue_ok h]

theorem exec_flwriteRow_issues {r : IssueRow} (hr : r ∈ flwriteRows q) (h : r.Has s q c0 (.ok p) ws) :
    exec r.row s = .next ((s.readWords ws.eraseDups).goFlwrite (issued s c0 p)) := by
  rw [exec_flwriteRow s r hr, IssueRow.issue_ok h]

theorem exec_flread_issues (h : IssueRow.Has ⟨.flread q, isOp 0x38, flreadCheck⟩ s q c0 (.ok p) ws) :
    exec (.flread q) s = .next ((s.readWords ws.eraseDups).goFlread (issued s c0 p)) :=
  congrArg Host.Outcome.next (IssueRow.issue_ok h State.goFlread)

theorem exec_zsend_issues (h : IssueRow.Has ⟨.zsend q, isOp 0x30, zsendCheck⟩ s q c0 (.ok p) ws) :
    exec (.zsend q) s = .next ((s.readWords ws.eraseDups).goZsend (issued s c0 p)) :=
  congrArg Host.Outcome.next (IssueRow.issue_ok h State.goZsend)

end issue

/-- Settles O10: each row hands its command on to its engine: the agent's queue, a read job, the region's queue, or the port when it is UP. -/
theorem engineCommandsIssue : Obligations.EngineCommandsIssue := by
  unfold Obligations.EngineCommandsIssue
  intro s q c0 p ws
  refine ⟨fun r hr h => ?kv, fun h hblocks => ?flread, fun r hr h => ?flwrite, fun h => ⟨fun hup => ?sent, fun hdown => ?failed⟩⟩
  case kv =>
    rw [exec_kvRow_issues hr h, State.goKv_eq]
    rfl
  case flread =>
    rw [exec_flread_issues h, State.goFlread_blocks (c := issued s c0 p) _ hblocks]
    rfl
  case flwrite => exact exec_flwriteRow_issues hr h
  case sent =>
    rw [exec_zsend_issues h, State.goZsend_up (c := issued s c0 p) _ hup]
    rfl
  case failed =>
    rw [exec_zsend_issues h, State.goZsend_notUp (c := issued s c0 p) _ hdown]
    rfl

end Sys2Proof.Machine

/-!
PROOFS. Initialisation of a key/value pool (O36).
-/
namespace Sys2Proof.Machine

/-! ### Agents -/

section agents
variable {s : State}

theorem State.only_record (s : State) (r : Rec) : OnlyChanged recordComps s (s.record r) :=
  (State.record_kept (E := fun c => c ∈ recordComps) s r (Kept.refl s) (by decide) (by decide) (by decide) (by decide) (by decide) (by decide)
    (by decide)).only

/-- States with the same agents have the same agent in each partition. -/
theorem State.agent_congr {t : State} (h : s.agents = t.agents) (p : Nat) : t.agent p = s.agent p := by
  rw [State.agent, State.agent, h]

@[simp] theorem State.agent_record (s : State) (r : Rec) (p : Nat) : (s.record r).agent p = s.agent p :=
  State.agent_congr (s.only_record r .agents (by decide)) p

theorem State.canon_agents (h : s.canon = true) : rises s.agents = true := by
  obtain ⟨-, -, -, -, -, -, -, hagents, -⟩ := State.canon_iff.1 h
  exact hagents

/-- Setting an agent changes the agents only. -/
theorem OnlyChanged.setAgent {m : List Comp} {t : State} (h : OnlyChanged m s t) (p : Nat) (a : Agent) (w : Comp.agents ∈ m) :
    OnlyChanged m s (t.setAgent p a) :=
  h.trans (State.setAgent_kept (E := fun c => c ∈ m) t p a (Kept.refl t) w).only

end agents

/-! ### A pool that is refused (R204, R209) -/

/-- The state that a failed initialisation records its failure in: INITERR is set, STATE is 0, and the agent has no pool. -/
def State.poolRefused (s : State) (p : Nat) : State :=
  ((s.setF F.kvtStateIniterr p 1).setF F.kvtStateState p 0).setAgent p { s.agent p with pool := none, cluster := s.agentHome p, initWaits := false }

/-- The KVINIT record of a failed initialisation, with the number of the failed condition. -/
def State.kvInitRec (s : State) (p n : Nat) : Rec :=
  let an := (s.agentHome p).getD 0
  { cls := 0x34, sev := 0, kind := 1, unit := an, island := clusterIsland an, addr := s.getF F.kvtPoolPooladdr p, syn := n }

section refused
variable {s : State} {p n : Nat}

/-- A pool whose record fails a condition of R204 is refused, and the record in the error queue has the condition's number. -/
theorem State.poolInit_bad (h : s.poolBad p (s.getF F.kvtPoolPooladdr p) = some n) : s.poolInit p = (s.poolRefused p).record (s.kvInitRec p n) := by
  simp only [State.poolInit, h]
  rfl

theorem State.state_poolRefused (hs : s.canon = true) : (s.poolRefused p).getF F.kvtStateState p = 0 :=
  State.getF_setF_same (State.rises_setF (State.canon_regs hs) _ _ _) _ _ _

theorem State.initerr_poolRefused (hs : s.canon = true) : (s.poolRefused p).getF F.kvtStateIniterr p = 1 :=
  (State.getF_setF_place _ _ _ _ (by decide)).trans (State.getF_setF_same (State.canon_regs hs) _ _ _)

theorem State.pool_poolRefused (hs : s.canon = true) : ((s.poolRefused p).agent p).pool = none :=
  congrArg Agent.pool (State.agent_setAgent_same (State.canon_agents hs) p _)

theorem State.only_poolRefused (s : State) (p : Nat) : OnlyChanged (recordComps ++ [.agents]) s (s.poolRefused p) :=
  (((OnlyChanged.refl _ s).setF _ _ _ (by decide)).setF _ _ _ (by decide)).setAgent _ _ (by decide)

theorem State.regs_poolRefused (s : State) (p : Nat) : RegsKept (R.kvtState :: recordRegs) s (s.poolRefused p) :=
  (((RegsKept.refl _ s).setF F.kvtStateIniterr p 1 (by decide)).setF F.kvtStateState p 0 (by decide)).of_regs rfl

end refused

/-! ### A pool that is ready (R209, R210) -/

/-- The slot table, the page table and the spill bitmap of a pool cleared, and its frames linked into the free list. -/
def State.poolTables (s : State) (p : Nat) (u : Pool) : State :=
  let n := s.getF F.kvtSlotsSlotcount p
  let t := (s.zeroRange u.slottab (16 * n)).zeroRange u.ptbase (8 * n * u.ptcap)
  (if u.spillreg = 0 then t else t.zeroRange u.spillmap (cdiv u.spillunits 8)).linkFrames u u.freeOrder

/-- The agent of a partition whose pool `u` is ready. -/
def State.readyAgent (s : State) (p : Nat) (u : Pool) : Agent :=
  { s.agent p with pool := some u, head := u.freeOrder.headD noFrame, cluster := s.agentHome p, initWaits := false }

/-- The ready agent of the partition, the count of its free frames, INITERR cleared and STATE 2. -/
def State.poolReady (s : State) (p : Nat) (a : Agent) (frames : Nat) : State :=
  (((s.setAgent p a).setF F.kvtStateFreecnt p frames).setF F.kvtStateIniterr p 0).setF F.kvtStateState p 2

section poolReady
variable {s : State} {p : Nat} (a : Agent) (frames : Nat)

theorem State.state_poolReady (hs : s.canon = true) : (s.poolReady p a frames).getF F.kvtStateState p = 2 :=
  State.getF_setF_same (State.rises_setF (State.rises_setF (State.canon_regs hs) _ _ _) _ _ _) _ _ _

theorem State.initerr_poolReady (hs : s.canon = true) : (s.poolReady p a frames).getF F.kvtStateIniterr p = 0 := by
  rw [State.poolReady, State.getF_setF_place _ _ _ _ (by decide)]
  exact State.getF_setF_same (State.rises_setF (State.canon_regs hs) _ _ _) _ _ _

theorem State.freecnt_poolReady (hs : s.canon = true) :
    (s.poolReady p a frames).getF F.kvtStateFreecnt p = frames % 2 ^ F.kvtStateFreecnt.w := by
  rw [State.poolReady, State.getF_setF_place _ _ _ _ (by decide), State.getF_setF_place _ _ _ _ (by decide)]
  exact State.getF_setF_same (State.canon_regs hs) _ _ _

theorem State.agent_poolReady (hs : s.canon = true) : (s.poolReady p a frames).agent p = a :=
  State.agent_setAgent_same (State.canon_agents hs) p a

theorem State.agent_poolReady_ne {k : Nat} (hk : k ≠ p) : (s.poolReady p a frames).agent k = s.agent k :=
  s.agent_setAgent_ne a hk

end poolReady

section ready
variable {s : State} {p : Nat}

theorem State.poolTables_kept (s : State) (p : Nat) (u : Pool) : Kept (fun c => c ∈ memoryComps) s (s.poolTables p u) := by
  have zero (t : State) (a n : Nat) (h : Kept (fun c => c ∈ memoryComps) s t) : Kept (fun c => c ∈ memoryComps) s (t.zeroRange a n) :=
    State.zeroRange_kept t a n h (by decide) (by decide) (by decide) (by decide) (by decide) (by decide) (by decide) (by decide) (by decide)
  have htabs := zero _ u.ptbase (8 * s.getF F.kvtSlotsSlotcount p * u.ptcap) (zero s u.slottab (16 * s.getF F.kvtSlotsSlotcount p) (Kept.refl s))
  exact State.linkFrames_kept _ u _ (kept_ite htabs (zero _ _ _ htabs)) (by decide) (by decide) (by decide) (by decide) (by decide) (by decide)
    (by decide) (by decide) (by decide)

theorem State.canon_poolTables (hs : s.canon = true) (p : Nat) (u : Pool) : (s.poolTables p u).canon = true :=
  (s.poolTables_kept p u).2 hs

theorem State.agent_poolTables (s : State) (p : Nat) (u : Pool) (k : Nat) : (s.poolTables p u).agent k = s.agent k :=
  State.agent_congr ((s.poolTables_kept p u).only .agents (by decide)) k

/-- A pool whose record meets R204 has its tables cleared and its free list linked, and is then ready. -/
theorem State.poolInit_good (h : s.poolBad p (s.getF F.kvtPoolPooladdr p) = none) : s.poolInit p =
    let u := s.parsePool (s.getF F.kvtPoolPooladdr p)
    (s.poolTables p u).poolReady p (s.readyAgent p u) u.freeOrder.length := by
  simp only [State.poolInit, h]
  rfl

theorem State.only_poolInit (s : State) (p : Nat) : OnlyChanged (memoryComps ++ [.agents]) s (s.poolInit p) :=
  (State.poolInit_kept (E := fun c => c ∈ memoryComps ++ [Comp.agents]) s p (Kept.refl s) (by decide) (by decide) (by decide) (by decide) (by decide)
    (by decide) (by decide) (by decide) (by decide) (by decide)).only

end ready

/-! ### KVT_INIT -/

section kvtInit
variable {s : State} {acr : Acr} {p v : Nat}

theorem exec_kvtInit (s : State) (acr : Acr) (p v : Nat) :
    exec (.kvtInit acr p v) s = .next (s.forPart acr p fun t => if v = 1 then t.kvtInit p else t) := rfl

theorem exec_kvtInit_refused (h : s.mayAct acr p = false) : exec (.kvtInit acr p v) s = .next (s.refuseAcc acr) := by
  simp only [exec_kvtInit, State.forPart, h, Bool.false_eq_true, if_false]

/-- A value other than an INIT starts nothing (R557). -/
theorem exec_kvtInit_noInit (h : s.mayAct acr p = true) (hv : v ≠ 1) : exec (.kvtInit acr p v) s = .next s := by
  simp only [exec_kvtInit, State.forPart, h, hv, if_true, if_false]

theorem exec_kvtInit_init (h : s.mayAct acr p = true) : exec (.kvtInit acr p 1) s = .next (s.kvtInit p) := by
  simp only [exec_kvtInit, State.forPart, h, if_true]

theorem exec_kvtInit_waits (h : s.mayAct acr p = true) (hbusy : s.agentIdle p = false) :
    exec (.kvtInit acr p 1) s = .next (s.setAgent p { s.agent p with initWaits := true }) := by
  simp only [exec_kvtInit_init h, State.kvtInit, hbusy, Bool.false_eq_true, if_false]

theorem exec_kvtInit_idle (h : s.mayAct acr p = true) (hidle : s.agentIdle p = true) : exec (.kvtInit acr p 1) s = .next (s.poolInit p) := by
  simp only [exec_kvtInit_init h, State.kvtInit, hidle, if_true]

end kvtInit

/-- Settles O36: a refused pool differs from the state before in its two fields, its agent and one record, which touches neither; a ready one sets its fields
and its agent last, after the memory operations, which leave the agents. -/
theorem poolsAreInitialised : Obligations.PoolsAreInitialised := by
  unfold Obligations.PoolsAreInitialised
  intro s acr p v hs _
  refine ⟨exec_kvtInit_refused, exec_kvtInit_noInit, fun hmay hv hbusy => ?waits, fun hmay hv hidle => ?starts⟩
  case waits =>
    subst hv
    exact exec_kvtInit_waits hmay hbusy
  case starts =>
    subst hv
    rw [exec_kvtInit_idle hmay hidle]
    refine ⟨fun n hbad => ⟨_, rfl, ?_⟩, fun hgood => ⟨_, rfl, ?_⟩⟩
    · rw [State.poolInit_bad hbad]
      have hrec := (s.poolRefused p).regs_record (s.kvInitRec p n)
      refine ⟨?_, ?_, ?_, fun b => ?_, ?_, ?_⟩
      · rw [hrec.getF_eq (by decide), State.state_poolRefused hs]
      · rw [hrec.getF_eq (by decide), State.initerr_poolRefused hs]
      · rw [State.agent_record, State.pool_poolRefused hs]
      · exact State.byteAt_congr (State.record_mem _ _) (State.record_ecc _ _) b
      · exact (s.only_poolRefused p).trans ((State.only_record _ _).mono (by decide))
      · exact (s.regs_poolRefused p).trans (hrec.mono (by decide))
    · have honly := s.only_poolInit p
      rw [State.poolInit_good hgood] at honly ⊢
      have htabs := State.canon_poolTables hs p (s.parsePool (s.getF F.kvtPoolPooladdr p))
      exact ⟨State.state_poolReady _ _ htabs, State.initerr_poolReady _ _ htabs, State.freecnt_poolReady _ _ htabs, State.agent_poolReady _ _ htabs,
        fun k hk => (State.agent_poolReady_ne _ _ hk).trans (s.agent_poolTables p _ k), honly⟩

end Sys2Proof.Machine

/-!
PROOFS. Writes at a memory site: a whole word, the bytes that a mask names, and two masked writes of one burst (O28, O29).
-/
namespace Sys2Proof.Machine

/-! ### Whole words (R325) -/

section wholeWord
variable {s : State} {w : Nat} {bytes : List Byte}

/-- A write of all 64 bytes of a word of a site that is not lost is counted, stores its bytes, and clears the deviation. -/
theorem State.writeWord_whole (hlen : bytes.length = 64) (hl : s.siteLost (wordSite w) = false) :
    s.writeWord (64 * w) bytes = ((s.bump F.cntSitewrBytes (wordSite w) 64).putBytes (64 * w) bytes).setDev w 0 := by
  have hw : 64 * w / 64 = w := by omega
  have hcount := ((s.regs_countWrite w).siteLost_eq (wordSite w)).trans hl
  simp only [State.writeWord, hw, hcount, hlen, Bool.false_eq_true, if_false, if_true]

theorem exec_siteWrite_reached (h : s.reaches (64 * w) 64 = true) (hlen : bytes.length = 64) :
    exec (.siteWrite w bytes) s = .next (s.writeWord (64 * w) bytes) := by
  simp [exec, execSiteWrite, h, hlen]

variable (hlen : bytes.length = 64) (hl : s.siteLost (wordSite w) = false)
include hlen hl

theorem State.regs_writeWord_whole :
    (s.writeWord (64 * w) bytes).regs = (s.bump F.cntSitewrBytes (wordSite w) 64).regs := by
  rw [State.writeWord_whole hlen hl, State.setDev_regs, State.putBytes_regs]

theorem State.regsKept_writeWord_whole : RegsKept memoryRegs s (s.writeWord (64 * w) bytes) :=
  (s.regs_countWrite w).of_regs (State.regs_writeWord_whole hlen hl)

/-- Of all fields only the site's traffic count moves (R529). -/
theorem State.fields_writeWord_whole : FieldsKept [(F.cntSitewrBytes, wordSite w)] s (s.writeWord (64 * w) bytes) :=
  ((FieldsKept.refl _ s).setF F.cntSitewrBytes (wordSite w) _ (List.mem_singleton_self _)).trans
    (.of_regs (State.regs_writeWord_whole hlen hl))

theorem State.only_writeWord_whole : OnlyChanged [.regs, .mem, .ecc] s (s.writeWord (64 * w) bytes) := by
  rw [State.writeWord_whole hlen hl]
  exact (State.setDev_kept (E := fun c => c ∈ [Comp.regs, .mem, .ecc]) _ w 0
    (State.putBytes_kept _ _ _ (State.bump_kept _ _ _ _ (Kept.refl s) (by decide)) (by decide)) (by decide)).only

theorem State.dev_writeWord_same (hs : s.canon = true) : tget (fun _ => 0) (s.writeWord (64 * w) bytes).ecc w = 0 := by
  rw [State.writeWord_whole hlen hl, State.setDev_ecc, State.putBytes_ecc]
  exact tget_tset_same _ _ _ _ (State.canon_ecc (State.canon_countWrite w hs))

theorem State.dev_writeWord_ne {x : Nat} (hx : x ≠ w) :
    tget (fun _ => 0) (s.writeWord (64 * w) bytes).ecc x = tget (fun _ => 0) s.ecc x := by
  rw [State.writeWord_whole hlen hl, State.setDev_ecc, State.putBytes_ecc]
  exact tget_tset_ne _ _ _ _ hx

theorem State.wordClass_writeWord_same (hs : s.canon = true) : (s.writeWord (64 * w) bytes).wordClass w = .clean := by
  have hlost := ((State.regsKept_writeWord_whole hlen hl).siteLost_eq (wordSite w)).trans hl
  simp only [State.wordClass, hlost, State.dev_writeWord_same hlen hl hs, classify_zero, Bool.false_eq_true, if_false]

theorem State.wordClass_writeWord_ne {x : Nat} (hx : x ≠ w) : (s.writeWord (64 * w) bytes).wordClass x = s.wordClass x :=
  (State.regsKept_writeWord_whole hlen hl).wordClass_eq (State.dev_writeWord_ne hlen hl hx)

/-- A read delivers what the write stored. -/
theorem State.byteAt_writeWord_whole (hs : s.canon = true) {k : Nat} (hk : k < 64) :
    (s.writeWord (64 * w) bytes).byteAt (64 * w + k) = bytes.getD k 0 := by
  have hw : (64 * w + k) / 64 = w := by omega
  rw [State.byteAt_eq_rawByte (.inl (by rw [hw]; exact State.dev_writeWord_same hlen hl hs)), State.writeWord_whole hlen hl]
  exact State.rawByte_putBytes_in (s := s.bump F.cntSitewrBytes (wordSite w) 64) (State.canon_iff.1 hs).1 _ bytes (by omega)

omit hl in
theorem State.bytes_writeWord_whole (hs : s.canon = true) : BytesKept (64 * w) 64 s (s.writeWord (64 * w) bytes) :=
  fun _ hb => State.byteAt_writeWord_out hs _ bytes (by omega) (by omega)

end wholeWord

/-- Settles O28: a whole word is stored without a look at what stood there, with the deviation 0 of a clean word, and only the traffic count is a register. -/
theorem siteWritesStoreCleanWords : Obligations.SiteWritesStoreCleanWords := by
  unfold Obligations.SiteWritesStoreCleanWords
  intro s w bytes hs hreach hlen hl
  exact ⟨_, exec_siteWrite_reached hreach hlen, fun k hk => State.byteAt_writeWord_whole hlen hl hs hk,
    State.wordClass_writeWord_same hlen hl hs, State.bytes_writeWord_whole hlen hs, fun x hx => State.wordClass_writeWord_ne hlen hl hx,
    State.only_writeWord_whole hlen hl, State.fields_writeWord_whole hlen hl⟩

/-! ### Putting the bytes that a mask names -/

section putMasked
variable {s : State} {a mask : Nat} {bytes : List Byte}

/-- Byte `i` of a word is put where the mask names it. -/
def State.putMaskedByte (a mask : Nat) (bytes : List Byte) (s : State) (i : Nat) : State :=
  if bit mask i then s.putByte (a + i) (bytes.getD i 0) else s

theorem State.putMasked_eq_foldl (s : State) (a mask : Nat) (bytes : List Byte) :
    s.putMasked a mask bytes = (List.range 64).foldl (State.putMaskedByte a mask bytes) s := rfl

theorem State.wf_putMaskedByte (hm : Memory.wf s.mem = true) (i : Nat) : Memory.wf (s.putMaskedByte a mask bytes i).mem = true := by
  unfold State.putMaskedByte
  split
  · exact State.putByte_wf hm _ _
  · exact hm

theorem State.rawByte_putMaskedByte (hm : Memory.wf s.mem = true) (i b : Nat) :
    (s.putMaskedByte a mask bytes i).rawByte b = if bit mask i = true ∧ b = a + i then bytes.getD i 0 else s.rawByte b := by
  unfold State.putMaskedByte
  by_cases hbit : bit mask i = true
  · rw [if_pos hbit]
    by_cases hb : b = a + i
    · rw [if_pos ⟨hbit, hb⟩, hb]
      exact tget_tset_same _ _ _ _ (twf_rises hm)
    · rw [if_neg fun h => hb h.2]
      exact tget_tset_ne _ _ _ _ hb
  · rw [if_neg hbit, if_neg fun h => hbit h.1]

/-- A stored byte that none of the numbers reaches is as before. -/
theorem State.rawByte_putMaskedBytes_out (hm : Memory.wf s.mem = true) {l : List Nat} {b : Nat} (hb : ∀ i ∈ l, b ≠ a + i) :
    (l.foldl (State.putMaskedByte a mask bytes) s).rawByte b = s.rawByte b := by
  induction l generalizing s with
  | nil => rfl
  | cons i l ih =>
    obtain ⟨hi, hrest⟩ := List.forall_mem_cons.1 hb
    rw [List.foldl_cons, ih (State.wf_putMaskedByte hm i) hrest, State.rawByte_putMaskedByte hm, if_neg fun h => hi h.2]

/-- A stored byte that one of the numbers reaches is the byte put where the mask names it. -/
theorem State.rawByte_putMaskedBytes_in (hm : Memory.wf s.mem = true) {l : List Nat} {k : Nat} (hk : k ∈ l) :
    (l.foldl (State.putMaskedByte a mask bytes) s).rawByte (a + k) = if bit mask k then bytes.getD k 0 else s.rawByte (a + k) := by
  induction l generalizing s with
  | nil => cases hk
  | cons i l ih =>
    rw [List.foldl_cons]
    have hwf := State.wf_putMaskedByte (a := a) (mask := mask) (bytes := bytes) hm i
    by_cases hl : k ∈ l
    · rw [ih hwf hl, State.rawByte_putMaskedByte hm]
      by_cases hi : k = i
      · subst hi
        cases bit mask k <;> simp
      · simp [hi]
    · obtain rfl : k = i := (List.mem_cons.1 hk).resolve_right hl
      rw [State.rawByte_putMaskedBytes_out hwf fun i hi => by rintro h; exact hl (by rwa [show k = i by omega]), State.rawByte_putMaskedByte hm]
      simp

theorem State.rawByte_putMasked_in (hm : Memory.wf s.mem = true) {k : Nat} (hk : k < 64) :
    (s.putMasked a mask bytes).rawByte (a + k) = if bit mask k then bytes.getD k 0 else s.rawByte (a + k) :=
  State.rawByte_putMaskedBytes_in hm (List.mem_range.2 hk)

theorem State.rawByte_putMasked_out (hm : Memory.wf s.mem = true) {b : Nat} (hb : b < a ∨ a + 64 ≤ b) :
    (s.putMasked a mask bytes).rawByte b = s.rawByte b :=
  State.rawByte_putMaskedBytes_out hm fun i hi => by
    have := List.mem_range.1 hi
    omega

theorem State.putMasked_agree (s : State) (a mask : Nat) (bytes : List Byte) {c : Comp} (h : c ≠ .mem) : c.agree s (s.putMasked a mask bytes) :=
  (State.putMasked_kept (E := (· = Comp.mem)) s a mask bytes (Kept.refl s) rfl).1 c h

theorem State.putMasked_ecc (s : State) (a mask : Nat) (bytes : List Byte) : (s.putMasked a mask bytes).ecc = s.ecc :=
  (s.putMasked_agree a mask bytes (c := .ecc) (by decide)).symm

theorem State.putMasked_regs (s : State) (a mask : Nat) (bytes : List Byte) : (s.putMasked a mask bytes).regs = s.regs :=
  (s.putMasked_agree a mask bytes (c := .regs) (by decide)).symm

end putMasked

/-! ### Merging masked bytes into a word (R325, Table 13-4) -/

section merged
variable {s : State} {w : Nat}

/-- Decoding a word of a site that is not lost corrects it or leaves it poisoned: the poison flag stays (Table 13-3). -/
theorem State.isPoison_decodeWord (hs : s.canon = true) (w src : Nat) (hl : s.siteLost (wordSite w) = false) :
    ((s.decodeWord w src).wordClass w).isPoison = (s.wordClass w).isPoison := by
  have hlost := ((s.regs_decodeWord w src).siteLost_eq (wordSite w)).trans hl
  have hset : ∀ d, tget (fun _ => 0) (tset (fun _ => 0) s.ecc w d) w = d := fun d => tget_tset_same _ _ _ _ (State.canon_ecc hs)
  simp only [State.wordClass, hlost, hl, Bool.false_eq_true, if_false]
  unfold State.decodeWord
  simp only [hl, Bool.false_eq_true, if_false]
  cases hc : classify (tget (fun _ => 0) s.ecc w) with
  | clean => simp [hc]
  | poisoned => dsimp only; split <;> simp [hc]
  | corrected p e => simp [State.fixSymbol_ecc, hset, classify_zero, WordClass.isPoison]
  | poisonedCorrected p e => dsimp only; split <;> simp [State.fixSymbol_ecc, hset, classify_pz, WordClass.isPoison]
  | uncorrectable => dsimp only; split <;> simp [State.eccUncorrectable_ecc, hset, classify_pz, WordClass.isPoison]

/-- What a masked write of less than the whole word stores: the word is read, and the bytes that the mask names are put (R325). -/
def State.mergeMasked (s : State) (w mask : Nat) (bytes : List Byte) : State := (s.mergeRead w 0).putMasked (64 * w) mask bytes

theorem State.regs_mergeMasked (s : State) (w mask : Nat) (bytes : List Byte) : RegsKept memoryRegs s (s.mergeMasked w mask bytes) :=
  (s.regs_mergeRead w 0).of_regs (State.putMasked_regs _ _ _ _)

/-- A byte outside the word rests on what the read before the write left, and that read changes no delivered byte. -/
theorem State.bytes_mergeMasked (hs : s.canon = true) (w mask : Nat) (bytes : List Byte) :
    BytesKept (64 * w) 64 s (s.mergeMasked w mask bytes) := fun b hb => by
  have hm := (State.canon_iff.1 (State.canon_mergeRead w 0 hs)).1
  rw [← State.byteAt_mergeRead w 0 hs b]
  exact State.byteAt_eq_of_stored (State.rawByte_putMasked_out hm hb) (by rw [State.mergeMasked, State.putMasked_ecc])

variable (hl : s.siteLost (wordSite w) = false)
include hl

/-- The read has corrected the word, so that its bytes that the mask does not name are stored as they were delivered. -/
theorem State.byteAt_mergeMasked (hs : s.canon = true) (mask : Nat) (bytes : List Byte) {k : Nat} (hk : k < 64) :
    (s.mergeMasked w mask bytes).byteAt (64 * w + k) = if bit mask k then bytes.getD k 0 else s.byteAt (64 * w + k) := by
  have hw : (64 * w + k) / 64 = w := by omega
  have hdev := State.dev_mergeRead_same w hs hl (n := 0) (by decide)
  have hread : (s.mergeRead w 0).rawByte (64 * w + k) = s.byteAt (64 * w + k) := by
    rw [← State.byteAt_mergeRead w 0 hs, State.byteAt_eq_rawByte (by rwa [hw])]
  rw [State.byteAt_eq_rawByte (by rwa [hw, State.mergeMasked, State.putMasked_ecc]), ← hread]
  exact State.rawByte_putMasked_in (State.canon_iff.1 (State.canon_mergeRead w 0 hs)).1 hk

/-- A poisoned word stays poisoned and no other becomes so (Table 13-4). -/
theorem State.isPoison_mergeMasked (hs : s.canon = true) (mask : Nat) (bytes : List Byte) :
    ((s.mergeMasked w mask bytes).wordClass w).isPoison = (s.wordClass w).isPoison := by
  have hcount := s.regs_countWrite w
  have hput : (s.mergeMasked w mask bytes).wordClass w = (s.mergeRead w 0).wordClass w :=
    ((RegsKept.refl memoryRegs _).of_regs (State.putMasked_regs _ _ _ _)).wordClass_eq (by rw [State.putMasked_ecc])
  calc ((s.mergeMasked w mask bytes).wordClass w).isPoison
    _ = ((s.mergeRead w 0).wordClass w).isPoison := by rw [hput]
    _ = ((s.bump F.cntSitewrBytes (wordSite w) 64).wordClass w).isPoison :=
      State.isPoison_decodeWord (State.canon_countWrite w hs) w 1 ((hcount.siteLost_eq _).trans hl)
    _ = (s.wordClass w).isPoison := by rw [hcount.wordClass_eq rfl]

end merged

/-! ### Masked writes -/

/-- The mask names every byte of a word. -/
def wholeMask (mask : Nat) : Bool := (List.range 64).all (bit mask)

theorem wholeMask_iff {mask : Nat} : wholeMask mask = true ↔ ∀ k, k < 64 → bit mask k = true := by
  simp [wholeMask]

/-- What a masked write stores: a mask of all 64 bytes is a whole write (R325). -/
def State.maskedWrite (s : State) (w mask : Nat) (bytes : List Byte) : State :=
  if wholeMask mask then s.writeWord (64 * w) bytes else s.mergeMasked w mask bytes

section maskedWrite
variable {s : State} {w mask : Nat} {bytes : List Byte}

theorem exec_sitePartialWrite_reached (h : s.reaches (64 * w) 64 = true) (hlen : bytes.length = 64) (hl : s.siteLost (wordSite w) = false) :
    exec (.sitePartialWrite w mask bytes) s = .next (s.maskedWrite w mask bytes) := by
  have hcount := ((s.regs_countWrite w).siteLost_eq (wordSite w)).trans hl
  have htake : (bytes ++ leBytes 64 0).take 64 = bytes := List.take_left' hlen
  simp only [exec, execSitePartialWrite, h, htake, hcount, Bool.not_true, Bool.false_eq_true, if_false]
  rfl

theorem State.canon_maskedWrite (hs : s.canon = true) : (s.maskedWrite w mask bytes).canon = true := by
  unfold State.maskedWrite
  split
  · exact State.writeWord_canon hs _ _
  · exact (State.putMasked_kept (E := memFx) _ (64 * w) mask bytes (Kept.refl _) (by simp [memFx])).2 (State.canon_mergeRead w 0 hs)

variable (hlen : bytes.length = 64)
include hlen

theorem State.bytes_maskedWrite (hs : s.canon = true) : BytesKept (64 * w) 64 s (s.maskedWrite w mask bytes) := by
  unfold State.maskedWrite
  split
  · exact State.bytes_writeWord_whole hlen hs
  · exact State.bytes_mergeMasked hs w mask bytes

variable (hl : s.siteLost (wordSite w) = false)
include hl

theorem State.regs_maskedWrite : RegsKept memoryRegs s (s.maskedWrite w mask bytes) :=
  .ite (State.regsKept_writeWord_whole hlen hl) (s.regs_mergeMasked w mask bytes)

/-- The bytes that the mask names take the new values, the others of the word keep theirs. -/
theorem State.byteAt_maskedWrite (hs : s.canon = true) {k : Nat} (hk : k < 64) :
    (s.maskedWrite w mask bytes).byteAt (64 * w + k) = if bit mask k then bytes.getD k 0 else s.byteAt (64 * w + k) := by
  unfold State.maskedWrite
  split
  · next hwhole => rw [if_pos (wholeMask_iff.1 hwhole k hk), State.byteAt_writeWord_whole hlen hl hs hk]
  · exact State.byteAt_mergeMasked hl hs mask bytes hk

omit hlen in
theorem State.isPoison_maskedWrite (hs : s.canon = true) (hmask : ∃ k, k < 64 ∧ bit mask k = false) :
    ((s.maskedWrite w mask bytes).wordClass w).isPoison = (s.wordClass w).isPoison := by
  obtain ⟨k, hk, hbit⟩ := hmask
  have hpart : ¬wholeMask mask = true := fun h => Bool.false_ne_true (hbit.symm.trans (wholeMask_iff.1 h k hk))
  rw [State.maskedWrite, if_neg hpart]
  exact State.isPoison_mergeMasked hl hs mask bytes

end maskedWrite

/-- An access to device memory moves no usable range (R36). -/
theorem RegsKept.reaches_eq {s t : State} (h : RegsKept memoryRegs s t) (a n : Nat) : t.reaches a n = s.reaches a n := by
  have hstate := h.getF_eq (f := F.memStatusState) (by decide)
  have hcap := h.getF_eq (f := F.memStatusCap) (by decide)
  have hsite := h.getF_eq (f := F.fltStageSite) (by decide)
  have hsize := h.getF_eq (f := F.fltStageSize) (by decide)
  have hstage : ∀ i, t.stageBytes i = s.stageBytes i := fun i => congrArg maxOf (List.map_congr_left fun p _ => by rw [hsite, hsize])
  have hup : ∀ i, t.siteUp i = s.siteUp i := fun i => by simp only [State.siteUp, hstate]
  have husable : ∀ i, t.usable i = s.usable i := fun i => by simp only [State.usable, State.siteCap, hcap, hstage]
  unfold State.reaches State.inSite
  dsimp only
  rw [hup, husable]

/-- Settles O29: a masked write is a whole write or a merge into a word that has just been corrected; it reaches the same words after it as before, so that
a second one merges into what the first has stored. -/
theorem disjointMaskedWritesBothSurvive : Obligations.DisjointMaskedWritesBothSurvive := by
  unfold Obligations.DisjointMaskedWritesBothSurvive
  refine ⟨fun s w mask bytes hs hreach hlen hl => ?one, fun s t u w m n a b hs hreach ha hb hl hdisj ht hu k hk => ?two⟩
  case one =>
    exact ⟨_, exec_sitePartialWrite_reached hreach hlen hl, fun k hk => State.byteAt_maskedWrite hlen hl hs hk, State.bytes_maskedWrite hlen hs,
      State.isPoison_maskedWrite hl hs, State.regs_maskedWrite hlen hl⟩
  case two =>
    obtain rfl : s.maskedWrite w m a = t := Host.Outcome.next.inj ((exec_sitePartialWrite_reached hreach ha hl).symm.trans ht)
    have hregs : RegsKept memoryRegs s (s.maskedWrite w m a) := State.regs_maskedWrite ha hl
    have hl' := (hregs.siteLost_eq (wordSite w)).trans hl
    have hreach' := (hregs.reaches_eq (64 * w) 64).trans hreach
    obtain rfl : (s.maskedWrite w m a).maskedWrite w n b = u :=
      Host.Outcome.next.inj ((exec_sitePartialWrite_reached hreach' hb hl').symm.trans hu)
    rw [State.byteAt_maskedWrite hb hl' (State.canon_maskedWrite hs) hk, State.byteAt_maskedWrite ha hl hs hk]
    by_cases hm : bit m k = true
    · rw [if_neg fun hn => hdisj k hk ⟨hm, hn⟩]
      simp only [hm, if_true]
    · simp only [if_neg hm]

end Sys2Proof.Machine

/-!
PROOFS. Teardown of a faulted context: the cause that two contexts share (O18).
-/
namespace Sys2Proof.Machine

/-- The fault of a context whose command `id` ended with status 0x0C when the cluster of CLRETIRE record 1 was retired (R514). -/
def retiredFault (id : Nat) : CtxFault := ⟨0x0C, 0x30, 0, 0, some id, some 1⟩

/-- Contexts 0 and 1, which one retirement has faulted, are to be torn down; its handling is open. -/
def sharedCause : State :=
  { State.reset with
    ctxs := [(0, { Context.free with fault := some (retiredFault 5) }), (1, { Context.free with fault := some (retiredFault 6) })]
    handling := [1] }

/-- The open handlings after a step. -/
def handlingAfter (o : Host.Outcome State Fault Refusal) : Option (List Nat) :=
  match o with
  | .next t => some t.handling
  | .fault _ | .refused _ => none

/-- The handling stays open while context 1 is still to be torn down (R507). -/
theorem handling_teardown_sharedCause : handlingAfter (exec (.contextTeardown 0) sharedCause) = some [1] := by decide +kernel

/-- Raising an event cause leaves the open handlings. -/
theorem State.handling_raiseEvt (s : State) (fn : Nat) (f : Fld) : (s.raiseEvt fn f).handling = s.handling :=
  (s.only_raiseEvt fn f .handling (by decide)).symm

/-- Refutes O18: a handling stays open while another context's teardown still belongs to it (R507, log entry 44), and the statement closes it with the
first teardown of the two. -/
theorem not_contextsAreTornDown : ¬Obligations.ContextsAreTornDown := by
  unfold Obligations.ContextsAreTornDown
  rintro ⟨hteardown, -⟩
  have h := (hteardown sharedCause 0 (retiredFault 5) (by decide +kernel) rfl).2 rfl rfl
  have hclosed := congrArg handlingAfter h
  rw [handling_teardown_sharedCause] at hclosed
  simp only [handlingAfter, State.handling_raiseEvt] at hclosed
  exact absurd hclosed (by decide +kernel)

end Sys2Proof.Machine

/-!
PROOFS. Memory operations: what a request through MEM_OPCTL does while one runs, when it is refused and when it starts, and how a clear ends (O32, O33).
-/
namespace Sys2Proof.Machine

/-! ### Requests through MEM_OPCTL (R335) -/

section request
variable {s : State} {acr : Acr} {v : Nat}

theorem exec_memClear_request (hop : bits v 28 3 ≠ 2) : exec (.memClear acr v) s = .next (s.memRequest acr v) :=
  congrArg _ (if_neg hop)

theorem exec_memMargin_request (hop : bits v 28 3 = 2) : exec (.memMargin acr v) s = .next (s.memRequest acr v) :=
  congrArg _ (if_pos hop)

/-- The physical function and the management bus reach every register of the device (R560). -/
theorem State.forDevice_of_mem (hacr : acr ∈ [Acr.fn 0, .mb]) (k : State → State) : s.forDevice acr k = k s := by
  simp only [List.mem_cons, List.not_mem_nil, or_false] at hacr
  obtain rfl | rfl := hacr <;> rfl

/-- What a request that finds no operation running leaves in MEM_OPSTAT: its status and its site. -/
def State.noteRequest (s : State) (v : Nat) : State :=
  (s.setF F.memOpstatStatus 0 (s.memStatus v)).setF F.memOpstatSite 0 (bits v 18 6)

/-- The start of a requested operation, a sweep when `margin` is set and else a clear. -/
def State.startMemOp (s : State) (v : Nat) (margin : Bool) : State :=
  (({ s.noteRequest v with memOp := some ⟨margin, bits v 18 6, bits v 24 2, bits v 26 2⟩ } : State).setF F.memOpstatBusy 0 1).setF
    F.memStatusState (bits v 18 6) (if margin then 4 else 3)

variable (hacr : acr ∈ [Acr.fn 0, .mb]) (hgo : bit v 31 = true)
include hacr hgo

theorem State.memRequest_busy (hbusy : s.flag F.memOpstatBusy 0 = true) : s.memRequest acr v = s.setF F.memOpstatStatus 0 0x70 := by
  simp only [State.memRequest, State.forDevice_of_mem hacr, hgo, hbusy, Bool.not_true, Bool.false_eq_true, if_false, if_true]

variable (hidle : s.flag F.memOpstatBusy 0 = false)
include hidle

theorem State.memRequest_refused (hst : s.memStatus v ≠ 0) : s.memRequest acr v = (s.noteRequest v).raiseEvt 0 F.pciEvtcauseEvt := by
  simp only [State.memRequest, State.forDevice_of_mem hacr, hgo, hidle, bne_iff_ne.2 hst, Bool.not_true, Bool.false_eq_true, if_false, if_true,
    State.noteRequest]

theorem State.memRequest_accepted (hst : s.memStatus v = 0) : s.memRequest acr v = s.startMemOp v (bits v 28 3 == 2) := by
  simp only [State.memRequest, State.forDevice_of_mem hacr, hgo, hidle, hst, bne_self_eq_false, Bool.not_true, Bool.false_eq_true, if_false,
    State.startMemOp, State.noteRequest]

end request

/-- Settles O32: the refusal is one write of STATUS. -/
theorem busyMemoryOperationsRefuse : Obligations.BusyMemoryOperationsRefuse := by
  unfold Obligations.BusyMemoryOperationsRefuse
  intro s v hs hbusy hgo acr hacr i hi
  have hexec : exec i s = .next (s.setF F.memOpstatStatus 0 0x70) := by
    rw [← State.memRequest_busy hacr hgo hbusy, List.mem_singleton.1 hi]
    split
    · next hop => exact exec_memMargin_request hop
    · next hop => exact exec_memClear_request hop
  exact ⟨_, hexec, State.getF_setF_same (State.canon_regs hs) _ _ _, rfl, (OnlyFields.refl _ s).setF _ _ _ (by simp)⟩

/-! ### The start of an operation -/

section start
variable {s : State} (v : Nat)

theorem State.regs_noteRequest (s : State) : RegsKept [R.memOpstat] s (s.noteRequest v) :=
  ((RegsKept.refl _ s).setF _ _ _ (by decide)).setF _ _ _ (by decide)

/-- A request is noted with its status (Table 13-14). -/
theorem State.status_noteRequest (hs : rises s.regs = true) : (s.noteRequest v).getF F.memOpstatStatus 0 = s.memStatus v % 2 ^ F.memOpstatStatus.w := by
  rw [State.noteRequest, State.getF_setF_place _ _ _ _ (by decide), State.getF_setF_same hs]

theorem State.rises_noteRequest (hs : rises s.regs = true) : rises (s.noteRequest v).regs = true :=
  State.rises_setF (State.rises_setF hs _ _ _) _ _ _

variable (margin : Bool)

theorem State.busy_startMemOp (hs : rises s.regs = true) : (s.startMemOp v margin).flag F.memOpstatBusy 0 = true := by
  have hbusy : (s.startMemOp v margin).getF F.memOpstatBusy 0 = 1 := by
    rw [State.startMemOp, State.getF_setF_place _ _ _ _ (by decide)]
    exact State.getF_setF_same (State.rises_noteRequest v hs) _ _ _
  rw [State.flag, hbusy, beq_self_eq_true]

theorem State.state_startMemOp (hs : rises s.regs = true) :
    (s.startMemOp v margin).getF F.memStatusState (bits v 18 6) = if margin then 4 else 3 := by
  rw [State.startMemOp, State.getF_setF_same]
  · cases margin <;> rfl
  · exact State.rises_setF (State.rises_noteRequest v hs) _ _ _

theorem State.regs_startMemOp (s : State) : RegsKept [R.memOpstat, R.memStatus] s (s.startMemOp v margin) :=
  ((((s.regs_noteRequest v).mono (by simp)).of_regs rfl).setF _ _ _ (by decide)).setF _ _ _ (by decide)

theorem State.only_startMemOp (s : State) : OnlyChanged [.regs, .memOp] s (s.startMemOp v margin) :=
  (State.setF_kept (E := fun c => c ∈ [Comp.regs, .memOp]) _ _ _ _ (State.setF_kept _ _ _ _ ((kept_memOp (by decide) _).2
    (State.setF_kept _ _ _ _ (State.setF_kept _ _ _ _ (Kept.refl s) (by decide)) (by decide))) (by decide)) (by decide)).only

end start

/-! ### Clearing a data region (R329) -/

/-- One past the last byte of a site's data region, which 1/16 of its capacity follows. -/
def State.dataEnd (s : State) (n : Nat) : Nat := n * siteWindow + s.siteCap n / 16 * 15

/-- The address is in the data region of the site. -/
def State.inData (s : State) (n a : Nat) : Bool := decide (n * siteWindow ≤ a) && decide (a < s.dataEnd n)

section clear
variable (s : State) (n : Nat)

/-- Data regions begin and end at word boundaries. -/
theorem State.dvd_dataEnd : 64 ∣ n * siteWindow ∧ 64 ∣ s.dataEnd n := by
  have hstart : 64 ∣ n * siteWindow := Nat.dvd_mul_left_of_dvd (by decide) n
  have hcap : s.siteCap n / 16 = 64 * (0x1000000 * 2 ^ s.getF F.memStatusCap n) := by
    rw [State.siteCap, Nat.shiftLeft_eq]
    omega
  exact ⟨hstart, Nat.dvd_add hstart (Nat.dvd_mul_right_of_dvd ⟨_, hcap⟩ 15)⟩

/-- A byte is in a data region exactly when its word's first byte is. -/
theorem State.inData_word (a : Nat) : s.inData n (64 * (a / 64)) = s.inData n a := by
  obtain ⟨⟨lo, hlo⟩, hi, hhi⟩ := s.dvd_dataEnd n
  rw [Bool.eq_iff_iff]
  simp only [State.inData, hlo, hhi, Bool.and_eq_true, decide_eq_true_eq]
  omega

theorem State.rawByte_clearSite (a : Nat) : (s.clearSite n).rawByte a = if s.inData n a then 0 else s.rawByte a :=
  tget_tclear memDflt (s.inData n) s.mem a

theorem State.dev_clearSite (w : Nat) :
    tget (fun _ => 0) (s.clearSite n).ecc w = if s.inData n (64 * w) then 0 else tget (fun _ => 0) s.ecc w :=
  tget_tclear _ (fun w => s.inData n (64 * w)) s.ecc w

variable {s n} {a : Nat}

/-- The words of a cleared region have no deviation. -/
theorem State.dev_clearSite_in (ha : s.inData n a = true) : tget (fun _ => 0) (s.clearSite n).ecc (a / 64) = 0 := by
  rw [State.dev_clearSite, s.inData_word, if_pos ha]

/-- A cleared region reads as zeros. -/
theorem State.byteAt_clearSite_in (ha : s.inData n a = true) : (s.clearSite n).byteAt a = 0 := by
  rw [State.byteAt_eq_rawByte (.inl (State.dev_clearSite_in ha)), State.rawByte_clearSite, if_pos ha]

/-- Clearing a region leaves every byte outside it. -/
theorem State.byteAt_clearSite_out (ha : s.inData n a = false) : (s.clearSite n).byteAt a = s.byteAt a :=
  State.byteAt_eq_of_stored (by simp [State.rawByte_clearSite, ha]) (by simp [State.dev_clearSite, State.inData_word, ha])

end clear

/-- Results of a sweep change MEM_MGRES0 to MEM_MGRES3 only. -/
theorem State.regs_putMargins (s : State) (edges : List (Int × Int)) : RegsKept [R.memMgres] s (s.putMargins edges) := by
  refine RegsKept.foldl _ (fun u l => ?_) _ (RegsKept.refl _ s)
  obtain h | h | h | h : l % 4 = 0 ∨ l % 4 = 1 ∨ l % 4 = 2 ∨ l % 4 = 3 := by omega
  all_goals
    rw [h]
    exact ((RegsKept.refl _ u).setF _ _ _ (by decide)).setF _ _ _ (by decide)

/-! ### The end of an operation (R335, Table 13-15) -/

/-- The operation is no longer remembered, and MEM_OPSTAT shows that it ended well. -/
def State.noteEnd (s : State) : State := (({ s with memOp := none } : State).setF F.memOpstatBusy 0 0).setF F.memOpstatStatus 0 0

/-- The end of operation `m`, before the clear with which both kinds end: a sweep has put its results. -/
def State.endMemOp (s : State) (m : MemOp) (edges : List (Int × Int)) : State := if m.margin then s.noteEnd.putMargins edges else s.noteEnd

/-- The site is cleared and READY, and its scrubber begins a pass. -/
def State.readySite (s : State) (n : Nat) : State :=
  let t := (s.clearSite n).setF F.memStatusState n 2
  t.setSite n { t.site n with scrub := 0 }

/-- The event of a finished operation: the cause bit of the physical function and a message. -/
def State.announce (s : State) (n : Nat) : State := (s.raiseEvt 0 F.pciEvtcauseEvt).emit (.mctp 3 n 0)

section announce
variable (s : State) (n : Nat)

theorem State.regs_announce : RegsKept [R.pciEvtcause] s (s.announce n) :=
  ((RegsKept.refl _ s).raiseEvt 0 F.pciEvtcauseEvt (by decide)).of_regs rfl

theorem State.only_announce : OnlyChanged [.regs, .msixs, .out] s (s.announce n) :=
  (State.emit_kept _ _ (State.raiseEvt_kept (E := fun c => c ∈ [Comp.regs, .msixs, .out]) s 0 F.pciEvtcauseEvt (Kept.refl s) (by decide) (by decide)
    (by decide)) (by decide)).only

end announce

section readySite
variable {s : State} {n : Nat}

theorem State.regs_readySite (s : State) (n : Nat) : RegsKept [R.memStatus] s (s.readySite n) :=
  (((RegsKept.refl _ s).of_regs (u := s.clearSite n) rfl).setF F.memStatusState n 2 (by decide)).of_regs rfl

theorem State.state_readySite (hs : rises s.regs = true) : (s.readySite n).getF F.memStatusState n = 2 :=
  State.getF_setF_same (s := s.clearSite n) hs _ _ _

theorem State.byteAt_readySite (s : State) (n a : Nat) : (s.readySite n).byteAt a = (s.clearSite n).byteAt a :=
  State.byteAt_congr rfl rfl a

/-- The words of a site that has been cleared are clean: it is READY, and thus not lost. -/
theorem State.wordClass_readySite (hs : rises s.regs = true) {w : Nat} (hw : wordSite w = n) (hdata : s.inData n (64 * w) = true) :
    (s.readySite n).wordClass w = .clean := by
  have hlost : (s.readySite n).siteLost (wordSite w) = false := by
    rw [hw, State.siteLost, State.state_readySite hs]
    rfl
  have hdev : tget (fun _ => 0) (s.readySite n).ecc w = 0 := (s.dev_clearSite n w).trans (if_pos hdata)
  simp only [State.wordClass, hlost, hdev, classify_zero, Bool.false_eq_true, if_false]

end readySite

section endMemOp
variable {s : State} (m : MemOp) (edges : List (Int × Int))

theorem State.noteEnd_kept (s : State) : Kept (fun c => c ∈ [Comp.regs, .memOp]) s s.noteEnd :=
  State.setF_kept _ _ _ _ (State.setF_kept _ _ _ _ ((kept_memOp (by decide) _).2 (Kept.refl s)) (by decide)) (by decide)

theorem State.regs_noteEnd (s : State) : RegsKept [R.memOpstat] s s.noteEnd :=
  (((RegsKept.refl _ s).of_regs rfl).setF F.memOpstatBusy _ _ (by decide)).setF F.memOpstatStatus _ _ (by decide)

theorem State.busy_noteEnd (hs : rises s.regs = true) : s.noteEnd.getF F.memOpstatBusy 0 = 0 := by
  rw [State.noteEnd, State.getF_setF_place _ _ _ _ (by decide)]
  exact State.getF_setF_same hs _ _ _

theorem State.status_noteEnd (hs : rises s.regs = true) : s.noteEnd.getF F.memOpstatStatus 0 = 0 :=
  State.getF_setF_same (State.rises_setF hs _ _ _) _ _ _

theorem State.endMemOp_kept (s : State) : Kept (· = Comp.regs) s.noteEnd (s.endMemOp m edges) :=
  kept_ite (State.putMargins_kept _ edges (Kept.refl _) rfl) (Kept.refl _)

theorem State.regs_endMemOp (s : State) : RegsKept [R.memMgres] s.noteEnd (s.endMemOp m edges) :=
  .ite (State.regs_putMargins _ edges) (RegsKept.refl _ _)

theorem State.memOp_endMemOp (s : State) : (s.endMemOp m edges).memOp = none :=
  ((s.endMemOp_kept m edges).1 .memOp (by decide)).symm

theorem State.rises_endMemOp (hs : s.canon = true) : rises (s.endMemOp m edges).regs = true :=
  (s.endMemOp_kept m edges).regs (s.noteEnd_kept.2 hs)

theorem State.byteAt_endMemOp (s : State) (a : Nat) : (s.endMemOp m edges).byteAt a = s.byteAt a :=
  State.byteAt_congr ((s.endMemOp_kept m edges).1 .mem (by decide)).symm ((s.endMemOp_kept m edges).1 .ecc (by decide)).symm a

/-- The operation's end moves no data region. -/
theorem State.inData_endMemOp (s : State) (n a : Nat) : (s.endMemOp m edges).inData n a = s.inData n a := by
  have hcap : (s.endMemOp m edges).getF F.memStatusCap n = s.getF F.memStatusCap n :=
    ((s.regs_endMemOp m edges).getF_eq (by decide) n).trans (s.regs_noteEnd.getF_eq (by decide) n)
  rw [State.inData, State.inData, State.dataEnd, State.dataEnd, State.siteCap, State.siteCap, hcap]

end endMemOp

/-- What the end of an operation on a site that was not lost in the meantime leaves. -/
def State.completeMemOp (s : State) (m : MemOp) (edges : List (Int × Int)) : State := ((s.endMemOp m edges).readySite m.site).announce m.site

section completeMemOp
variable {s : State} (m : MemOp) (edges : List (Int × Int))

theorem exec_memOpComplete_ready (hm : s.memOp = some m) (hup : s.getF F.memStatusState m.site ≠ 5) :
    exec (.memOpComplete edges) s = .next (s.completeMemOp m edges) := by
  simp only [exec, execMemOpComplete, hm, beq_eq_false_iff_ne.2 hup, Bool.false_eq_true, if_false]
  rfl

theorem exec_memOpComplete_none (h : s.memOp = none) : exec (.memOpComplete edges) s = .next s := by
  simp only [exec, execMemOpComplete, h]

/-- After MEM_OPSTAT the end writes the results, STATE and the event cause. -/
theorem State.regs_completeMemOp (s : State) : RegsKept [R.memMgres, R.memStatus, R.pciEvtcause] s.noteEnd (s.completeMemOp m edges) :=
  (((s.regs_endMemOp m edges).mono (by simp)).trans ((State.regs_readySite _ _).mono (by simp))).trans ((State.regs_announce _ _).mono (by simp))

theorem State.memOp_completeMemOp (s : State) : (s.completeMemOp m edges).memOp = none :=
  (State.only_announce _ _ .memOp (by decide)).symm.trans (s.memOp_endMemOp m edges)

theorem State.busy_completeMemOp (hs : rises s.regs = true) : (s.completeMemOp m edges).flag F.memOpstatBusy 0 = false := by
  rw [State.flag, (s.regs_completeMemOp m edges).getF_eq (by decide), State.busy_noteEnd hs]
  rfl

theorem State.status_completeMemOp (hs : rises s.regs = true) : (s.completeMemOp m edges).getF F.memOpstatStatus 0 = 0 := by
  rw [(s.regs_completeMemOp m edges).getF_eq (by decide), State.status_noteEnd hs]

theorem State.state_completeMemOp (hs : s.canon = true) : (s.completeMemOp m edges).getF F.memStatusState m.site = 2 := by
  rw [State.completeMemOp, (State.regs_announce _ _).getF_eq (by decide), State.state_readySite (State.rises_endMemOp m edges hs)]

theorem State.wordClass_announce (s : State) (n w : Nat) : (s.announce n).wordClass w = s.wordClass w :=
  ((s.regs_announce n).mono (by decide)).wordClass_eq (by rw [← s.only_announce n .ecc (by decide)])

/-- A byte reads as the clear has left it. -/
theorem State.byteAt_completeMemOp (s : State) (a : Nat) : (s.completeMemOp m edges).byteAt a = ((s.endMemOp m edges).clearSite m.site).byteAt a :=
  (State.byteAt_congr (State.only_announce _ _ .mem (by decide)).symm (State.only_announce _ _ .ecc (by decide)).symm a).trans
    (State.byteAt_readySite _ _ a)

/-- The data region of the operation's site holds clean words of zeros. -/
theorem State.clean_completeMemOp (hs : s.canon = true) {a : Nat} (hsite : a / siteWindow = m.site) (hend : a < s.dataEnd m.site) :
    (s.completeMemOp m edges).byteAt a = 0 ∧ (s.completeMemOp m edges).wordClass (a / 64) = .clean := by
  have hstart : m.site * siteWindow ≤ a := hsite ▸ Nat.div_mul_le_self a siteWindow
  have hdata : (s.endMemOp m edges).inData m.site a = true := by
    rw [State.inData_endMemOp, State.inData, decide_eq_true hstart, decide_eq_true hend, Bool.and_self]
  have hword : wordSite (a / 64) = m.site := by
    rw [← hsite, wordSite, siteWindow]
    omega
  rw [State.byteAt_completeMemOp, State.byteAt_clearSite_in hdata, State.completeMemOp, State.wordClass_announce,
    State.wordClass_readySite (State.rises_endMemOp m edges hs) hword (by rwa [State.inData_word])]
  exact ⟨rfl, rfl⟩

/-- Every byte outside that region is kept. -/
theorem State.kept_completeMemOp (s : State) {a : Nat} (ha : a < m.site * siteWindow ∨ s.dataEnd m.site ≤ a) :
    (s.completeMemOp m edges).byteAt a = s.byteAt a := by
  have hout : (s.endMemOp m edges).inData m.site a = false := by
    rw [State.inData_endMemOp, State.inData, Bool.and_eq_false_iff, decide_eq_false_iff_not, decide_eq_false_iff_not]
    omega
  rw [State.byteAt_completeMemOp, State.byteAt_clearSite_out hout, State.byteAt_endMemOp]

end completeMemOp

/-- Settles O33: an accepted request is the start of its operation and a refused one is noted with its status; the end of an operation on a site that is not
lost clears the data region, which begins and ends at words, and makes the site READY. -/
theorem memoryOperationsRun : Obligations.MemoryOperationsRun := by
  unfold Obligations.MemoryOperationsRun
  intro s v edges hs
  have hr := State.canon_regs hs
  refine ⟨fun hidle hgo hst acr hacr => ⟨fun hop => ?clear, fun hop => ?margin⟩, fun hidle hgo hst hop acr hacr => ?refused,
    fun m hm hup => ?complete, exec_memOpComplete_none edges⟩
  case clear =>
    refine ⟨s.startMemOp v false, ?_, State.busy_startMemOp v false hr, State.state_startMemOp v false hr, rfl, s.only_startMemOp v false,
      s.regs_startMemOp v false⟩
    rw [exec_memClear_request (by omega), State.memRequest_accepted hacr hgo hidle hst, hop]
    rfl
  case margin =>
    refine ⟨s.startMemOp v true, ?_, State.busy_startMemOp v true hr, State.state_startMemOp v true hr, rfl, s.only_startMemOp v true,
      s.regs_startMemOp v true⟩
    rw [exec_memMargin_request hop, State.memRequest_accepted hacr hgo hidle hst, hop]
    rfl
  case refused =>
    have hregs : RegsKept [R.pciEvtcause] (s.noteRequest v) ((s.noteRequest v).raiseEvt 0 F.pciEvtcauseEvt) :=
      (RegsKept.refl _ _).raiseEvt 0 F.pciEvtcauseEvt (by decide)
    refine ⟨_, (exec_memClear_request hop).trans (congrArg _ (State.memRequest_refused hacr hgo hidle hst)), ?_, ?_, ?_⟩
    · rw [hregs.getF_eq (by decide), State.status_noteRequest v hr]
      rfl
    · exact (State.only_raiseEvt _ _ _ .memOp (by decide)).symm
    · exact ((s.regs_noteRequest v).mono (by simp)).trans (hregs.mono (by simp))
  case complete =>
    exact ⟨_, exec_memOpComplete_ready m edges hm hup, s.memOp_completeMemOp m edges, State.busy_completeMemOp m edges hr,
      State.status_completeMemOp m edges hr, State.state_completeMemOp m edges hs, fun a => State.clean_completeMemOp m edges hs,
      fun a => s.kept_completeMemOp m edges⟩

end Sys2Proof.Machine

/-!
PROOFS. The health of a memory site: scrubbing, the MR4 polls, and the loss of a site (O31).
-/
namespace Sys2Proof.Machine

/-! ### The scrubber (R328) -/

theorem State.canon_sites {s : State} (h : s.canon = true) : rises s.sites = true := by
  obtain ⟨-, -, -, -, -, -, -, -, -, -, -, -, hsites, -⟩ := State.canon_iff.1 h
  exact hsites

section scrub
variable {s : State} {n : Nat}

/-- The state after the scrubber has decoded word `scrub` of its pass. -/
def State.scrubbed (s : State) (n : Nat) : State := s.decodeWord (s.patrolWord n (s.site n).scrub) 2

theorem exec_scrubStep_rests (h : s.getF F.memScrubPeriod n = 0 ∨ s.getF F.memStatusState n ≠ 2) : exec (.scrubStep n) s = .next s := by
  have hrests : (decide (s.getF F.memScrubPeriod n = 0) || s.getF F.memStatusState n != 2) = true := by simpa using h
  simp only [exec, execScrubStep, hrests, if_true]

variable (hperiod : s.getF F.memScrubPeriod n ≠ 0) (hready : s.getF F.memStatusState n = 2)
include hperiod hready

/-- Below the last word of its pass the scrubber goes on to the next one. -/
theorem exec_scrubStep_next (hmore : (s.site n).scrub + 1 < 4 * s.chanWords n) :
    exec (.scrubStep n) s = .next ((s.scrubbed n).setSite n { s.site n with scrub := (s.site n).scrub + 1 }) := by
  simp only [exec, execScrubStep, hperiod, hready, hmore, bne_self_eq_false, decide_false, Bool.or_self, Bool.false_eq_true, if_false, if_true,
    State.scrubbed]

/-- After the last word it counts the pass and begins another. -/
theorem exec_scrubStep_pass (hlast : 4 * s.chanWords n ≤ (s.site n).scrub + 1) :
    exec (.scrubStep n) s = .next (((s.scrubbed n).setSite n { s.site n with scrub := 0 }).bumpSat F.memScrubPasses n 1) := by
  simp only [exec, execScrubStep, hperiod, hready, Nat.not_lt.2 hlast, bne_self_eq_false, decide_false, Bool.or_self, Bool.false_eq_true, if_false,
    State.scrubbed]

end scrub

section scrubbed
variable {s : State} (hs : s.canon = true) (n : Nat)

theorem State.passes_scrubbed (s : State) (n : Nat) : (s.scrubbed n).getF F.memScrubPasses n = s.getF F.memScrubPasses n :=
  (s.regs_decodeWord _ _).getF_eq (by decide) n

include hs

theorem State.canon_scrubbed : (s.scrubbed n).canon = true := State.decodeWord_canon hs _ _

theorem State.byteAt_scrubbed (a : Nat) : (s.scrubbed n).byteAt a = s.byteAt a := State.byteAt_decodeWord hs _ _ a

theorem State.site_setSite_scrubbed (v : Site) : ((s.scrubbed n).setSite n v).site n = v :=
  State.site_setSite_same (State.canon_sites (State.canon_scrubbed hs n)) n v

/-- A pass is counted once, up to the width of PASSES. -/
theorem State.passes_pass (v : Site) :
    (((s.scrubbed n).setSite n v).bumpSat F.memScrubPasses n 1).getF F.memScrubPasses n =
      satAdd F.memScrubPasses.w (s.getF F.memScrubPasses n) 1 % 2 ^ F.memScrubPasses.w := by
  have hr : rises (s.scrubbed n).regs = true := State.canon_regs (State.canon_scrubbed hs n)
  rw [State.bumpSat, State.getF_setF_same (s := (s.scrubbed n).setSite n v) hr, State.setSite_getF, State.passes_scrubbed]

end scrubbed

/-! ### Temperature and refresh (R331, R332) -/

/-- What a poll writes to MEM_THERM: an MR4 value, the multiplier, HOT and FAST. -/
def State.setTherm (s : State) (n mr4 mult : Nat) (hot fast : Bool) : State :=
  (((s.setF F.memThermMr4 n mr4).setF F.memThermMult n mult).setF F.memThermHot n (b2n hot)).setF F.memThermFast n (b2n fast)

/-- A poll of a present site writes MEM_THERM and what the site remembers of its readings, and reason 5 of the throttle follows. A reading above the limit
gives 4× and HOT; without one, on a site that is not HOT, a multiplier that is not below the present one holds at once; one above 1× makes polls fast. -/
theorem exec_mr4Poll_present {s : State} {n : Nat} {readings : List (Nat × Nat × Bool)} (hlo : 2 ≤ s.getF F.memStatusState n)
    (hhi : s.getF F.memStatusState n ≤ 4) (hne : readings ≠ []) :
    let m := min 2 (maxOf (readings.map fun r => r.2.1))
    ∃ mr4 mult hot fast v, exec (.mr4Poll n readings) s = .next (((s.setTherm n mr4 mult hot fast).setSite n v).memReason) ∧
      (readings.any (fun r => r.2.2) = true → mult = 2 ∧ hot = true) ∧
      (s.flag F.memThermHot n = false → readings.any (fun r => r.2.2) = false → s.getF F.memThermMult n ≤ m → mult = m ∧ hot = false) ∧
      (m ≠ 0 → fast = true) := by
  have hpolls : (decide (s.getF F.memStatusState n < 2) || decide (4 < s.getF F.memStatusState n) || readings.isEmpty) = false := by
    simp [Nat.not_lt.2 hlo, hhi, hne]
  intro m
  simp only [exec, execMr4Poll, hpolls, Bool.false_eq_true, if_false]
  refine ⟨_, _, _, _, _, rfl, fun hhot => ?_, fun hcool hnone hmult => ?_, fun hm => ?_⟩
  · simp [hhot]
  · simp [hcool, hnone, hmult, m]
  · simp [hm, m]

section therm
variable {s : State} (n mr4 mult : Nat) (hot fast : Bool)

theorem State.regs_setTherm (s : State) : RegsKept [R.memTherm] s (s.setTherm n mr4 mult hot fast) :=
  ((((RegsKept.refl _ s).setF _ _ _ (by decide)).setF _ _ _ (by decide)).setF _ _ _ (by decide)).setF _ _ _ (by decide)

theorem State.regs_memReason (s : State) : RegsKept [R.pwrThr] s s.memReason := (RegsKept.refl _ s).setF _ _ _ (by decide)

/-- What a poll leaves: MEM_THERM as written, and the throttle's reason. -/
theorem State.regs_polled (s : State) (v : Site) : RegsKept [R.memTherm, R.pwrThr] s ((s.setTherm n mr4 mult hot fast).setSite n v).memReason :=
  (((s.regs_setTherm n mr4 mult hot fast).of_regs rfl).mono (by simp)).trans ((State.regs_memReason _).mono (by simp))

variable (v : Site)

theorem State.mult_polled (hs : rises s.regs = true) :
    ((s.setTherm n mr4 mult hot fast).setSite n v).memReason.getF F.memThermMult n = mult % 2 ^ F.memThermMult.w := by
  rw [(State.regs_memReason _).getF_eq (by decide), State.setSite_getF, State.setTherm, State.getF_setF_place _ _ _ _ (by decide),
    State.getF_setF_place _ _ _ _ (by decide), State.getF_setF_same (State.rises_setF hs _ _ _)]

theorem State.hot_polled (hs : rises s.regs = true) :
    ((s.setTherm n mr4 mult hot fast).setSite n v).memReason.getF F.memThermHot n = b2n hot := by
  rw [(State.regs_memReason _).getF_eq (by decide), State.setSite_getF, State.setTherm, State.getF_setF_place _ _ _ _ (by decide),
    State.getF_setF_same (State.rises_setF (State.rises_setF hs _ _ _) _ _ _)]
  cases hot <;> rfl

theorem State.fast_polled (hs : rises s.regs = true) :
    ((s.setTherm n mr4 mult hot fast).setSite n v).memReason.getF F.memThermFast n = b2n fast := by
  rw [(State.regs_memReason _).getF_eq (by decide), State.setSite_getF, State.setTherm,
    State.getF_setF_same (State.rises_setF (State.rises_setF (State.rises_setF hs _ _ _) _ _ _) _ _ _)]
  cases fast <;> rfl

theorem State.only_polled (s : State) : OnlyChanged [.regs, .sites] s ((s.setTherm n mr4 mult hot fast).setSite n v).memReason :=
  (State.memReason_kept (E := fun c => c ∈ [Comp.regs, .sites]) _ (State.setSite_kept _ n v (State.setF_kept _ _ _ _ (State.setF_kept _ _ _ _
    (State.setF_kept _ _ _ _ (State.setF_kept _ _ _ _ (Kept.refl s) (by decide)) (by decide)) (by decide)) (by decide)) (by decide)) (by decide)).only

end therm

/-! ### Loss (R330) -/

/-- The record of a site's loss (class 0x02 of Table 21-3). -/
def lossRec (n : Nat) : Rec := { cls := 0x02, sev := 2, kind := 2, unit := n, island := siteIsland n }

section loss
variable {s : State} {n : Nat}

theorem exec_siteLost_stays (h : s.getF F.memStatusState n = 0 ∨ s.getF F.memStatusState n = 5) : exec (.siteLost n) s = .next s := by
  simp [exec, execSiteLost, State.loseSite, h]

/-- A present site that is lost reads STATE 5, and its loss is recorded. -/
theorem exec_siteLost_present (hn : n < 48) (hpresent : s.getF F.memStatusState n ≠ 0) (hup : s.getF F.memStatusState n ≠ 5) :
    exec (.siteLost n) s = .next ((s.setF F.memStatusState n 5).record (lossRec n)) := by
  simp [exec, execSiteLost, State.loseSite, hn, hpresent, hup, lossRec]

theorem State.siteLost_recorded (hs : rises s.regs = true) : ((s.setF F.memStatusState n 5).record (lossRec n)).siteLost n = true := by
  rw [State.siteLost, (State.regs_record _ _).getF_eq (by decide), State.getF_setF_same hs]
  rfl

/-- The loss of a site leaves STATE of every other. -/
theorem State.state_recorded_ne (s : State) {k : Nat} (hk : k ≠ n) :
    ((s.setF F.memStatusState n 5).record (lossRec n)).getF F.memStatusState k = s.getF F.memStatusState k := by
  rw [(State.regs_record _ _).getF_eq (by decide), State.getF_setF_inst _ _ _ hk]

theorem State.byteAt_lost (s : State) (n a : Nat) : ((s.setF F.memStatusState n 5).record (lossRec n)).byteAt a = s.byteAt a :=
  State.byteAt_congr (by rw [State.record_mem, State.setF_mem]) (by rw [State.record_ecc, State.setF_ecc]) a

theorem State.only_lost (s : State) (n : Nat) : OnlyChanged recordComps s ((s.setF F.memStatusState n 5).record (lossRec n)) :=
  (State.record_kept (E := fun c => c ∈ recordComps) _ _ (State.setF_kept _ _ _ _ (Kept.refl s) (by decide)) (by decide) (by decide) (by decide)
    (by decide) (by decide) (by decide) (by decide)).only

/-- A lost site only counts a write (R330). -/
theorem State.writeWord_lost {w : Nat} (bytes : List Byte) (hl : s.siteLost (wordSite w) = true) :
    s.writeWord (64 * w) bytes = s.bump F.cntSitewrBytes (wordSite w) 64 := by
  have hw : 64 * w / 64 = w := by omega
  have hcount := ((s.regs_countWrite w).siteLost_eq (wordSite w)).trans hl
  simp only [State.writeWord, hw, hcount, if_true]

/-- A write to a lost site is discarded, whether or not it reaches the site's range. -/
theorem exec_siteWrite_lost {w : Nat} {bytes : List Byte} (hlen : bytes.length = 64) (hl : s.siteLost (wordSite w) = true) :
    ∃ t, exec (.siteWrite w bytes) s = .next t ∧ ∀ a, t.byteAt a = s.byteAt a := by
  cases hreach : s.reaches (64 * w) 64 with
  | true => exact ⟨_, exec_siteWrite_reached hreach hlen, State.byteAt_congr (by rw [State.writeWord_lost bytes hl]; rfl)
      (by rw [State.writeWord_lost bytes hl]; rfl)⟩
  | false =>
    obtain ⟨-, hwrite, -⟩ := exec_siteRequest_unreached 0 bytes hreach
    exact ⟨s, hwrite, fun _ => rfl⟩

end loss

/-- Settles O31: the scrubber's decode changes no delivered byte and none of its own registers; a poll is one write of MEM_THERM, after which the throttle's
reason follows; a lost site is one write of STATE and one record, and whatever is on a lost site reads as poison. -/
theorem sitesStayHealthyOrAreLost : Obligations.SitesStayHealthyOrAreLost := by
  unfold Obligations.SitesStayHealthyOrAreLost
  refine ⟨fun s n hs => ⟨fun hperiod hready => ?scrub, exec_scrubStep_rests, rfl⟩, fun s n readings hs hlo hhi hne => ?poll,
    fun s n hs hn => ⟨fun hpresent hup => ?loss, exec_siteLost_stays, ?discard⟩⟩
  case scrub =>
    by_cases hmore : (s.site n).scrub + 1 < 4 * s.chanWords n
    · refine ⟨_, exec_scrubStep_next hperiod hready hmore, State.byteAt_scrubbed hs n, fun _ => ?_, fun hlast => absurd hmore (Nat.not_lt.2 hlast)⟩
      exact congrArg Site.scrub (State.site_setSite_scrubbed hs n _)
    · refine ⟨_, exec_scrubStep_pass hperiod hready (Nat.not_lt.1 hmore), State.byteAt_scrubbed hs n, fun h => absurd h hmore,
        fun _ => ⟨?_, State.passes_pass hs n _⟩⟩
      exact congrArg Site.scrub (State.site_setSite_scrubbed hs n _)
  case poll =>
    obtain ⟨mr4, mult, hot, fast, v, hexec, habove, hraise, hfast⟩ := exec_mr4Poll_present hlo hhi hne
    have hr := State.canon_regs hs
    refine ⟨_, hexec, s.regs_polled n mr4 mult hot fast v, s.only_polled n mr4 mult hot fast v, fun h => ?_, fun hcool hnone hle => ?_, fun h => ?_⟩
    · obtain ⟨rfl, rfl⟩ := habove h
      exact ⟨State.mult_polled n mr4 2 true fast v hr, State.hot_polled n mr4 2 true fast v hr⟩
    · obtain ⟨rfl, rfl⟩ := hraise hcool hnone hle
      rw [State.mult_polled n mr4 _ false fast v hr, State.hot_polled n mr4 _ false fast v hr]
      exact ⟨Nat.mod_eq_of_lt (Nat.lt_of_le_of_lt (Nat.min_le_left _ _) (by decide)), rfl⟩
    · obtain rfl := hfast h
      exact State.fast_polled n mr4 mult hot true v hr
  case loss =>
    have hlost := State.siteLost_recorded (n := n) (State.canon_regs hs)
    refine ⟨_, exec_siteLost_present hn hpresent hup, hlost, fun k => s.state_recorded_ne,
      fun w hw => State.isPoison_of_siteLost (hw.symm ▸ hlost), s.byteAt_lost n, s.only_lost n⟩
  case discard =>
    rintro w bytes rfl hl hlen
    exact exec_siteWrite_lost hlen hl

end Sys2Proof.Machine

/-!
PROOFS. Power requests and PWRFAIL_N: what a request leaves in the sequencer and in HBM_PWRSTAT, and what a flush leaves of the flash tier (O48).
-/
namespace Sys2Proof.Machine

/-! ### Frames of single updates -/

section frames
variable {s t : State} {m : List Comp}

theorem OnlyChanged.setSeqr (h : OnlyChanged m s t) (q : Sequencer) (w : Comp.seqr ∈ m) : OnlyChanged m s (t.setSeqr q) :=
  h.trans (State.setSeqr_kept (E := fun c => c ∈ m) t q (Kept.refl t) w).only

theorem OnlyChanged.setPins (h : OnlyChanged m s t) (p : Pins) (w : Comp.pins ∈ m) : OnlyChanged m s (t.setPins p) :=
  h.trans (State.setPins_kept (E := fun c => c ∈ m) t p (Kept.refl t) w).only

/-- A frame by fields is a frame by their registers. -/
theorem FieldsKept.regs {l : List (Fld × Nat)} {rs : List Reg} (h : FieldsKept l s t) (w : ∀ e ∈ l, e.1.key 0 / 128 % 256 ∈ rs.map (·.idx)) :
    RegsKept rs s t := fun f i hf => h f i fun e he hkey => hf (by
  have hreg := w e he
  rw [e.1.key_eq_key_zero] at hkey
  rwa [← hkey, show (e.1.key 0 + 32768 * e.2) / 128 % 256 = e.1.key 0 / 128 % 256 by omega])

/-- A field at another place than each of the listed ones reads the same. -/
theorem FieldsKept.getF_place {l : List (Fld × Nat)} (h : FieldsKept l s t) {f : Fld} (i : Nat) (w : ∀ e ∈ l, f.key 0 % 32768 ≠ e.1.key 0 % 32768) :
    t.getF f i = s.getF f i :=
  h f i fun e he => Ne.symm (Fld.key_ne_of_place i e.2 (w e he))

theorem OnlyChanged.byteAt_eq (h : OnlyChanged m s t) (hmem : Comp.mem ∉ m) (hecc : Comp.ecc ∉ m) (a : Nat) : t.byteAt a = s.byteAt a :=
  (State.byteAt_congr (h .mem hmem) (h .ecc hecc) a).symm

end frames

/-! ### A request sets the direction (R472, R473) -/

section request
variable (s : State) (on : Bool) (src : Nat)

/-- The last request, and its source. -/
def State.aimed : State := (s.setSeqr { s.seqr with want := on }).setF F.hbmPwrstatSrc 0 src

/-- The device runs in a direction. -/
def State.moved : State := (s.setSeqr { s.seqr with moving := true }).setF F.hbmPwrstatDir 0 (b2n on)

theorem State.fields_aimed : FieldsKept [(F.hbmPwrstatSrc, 0)] s (s.aimed on src) :=
  FieldsKept.setF (.of_regs rfl) _ _ _ (List.mem_singleton_self _)

theorem State.fields_moved : FieldsKept [(F.hbmPwrstatDir, 0)] s (s.moved on) :=
  FieldsKept.setF (.of_regs rfl) _ _ _ (List.mem_singleton_self _)

theorem State.src_aimed {s : State} (hs : rises s.regs = true) : (s.aimed on src).getF F.hbmPwrstatSrc 0 = src % 8 := State.getF_setF_same hs _ _ _

theorem State.dir_moved {s : State} (hs : rises s.regs = true) : (s.moved on).flag F.hbmPwrstatDir 0 = on := by
  have hdir : (s.moved on).getF F.hbmPwrstatDir 0 = b2n on % 2 := State.getF_setF_same hs _ _ _
  rw [State.flag, hdir]
  cases on <;> rfl

theorem State.phase_aimed : (s.aimed on src).phase = s.phase := (s.fields_aimed on src).getF_place 0 (by decide)

theorem State.applying_aimed : (s.aimed on src).applying = s.applying := by
  rw [State.applying, (s.fields_aimed on src).getF_place 0 (by decide), State.applying]

theorem State.topPhase_aimed : (s.aimed on src).topPhase = s.topPhase := by
  rw [State.topPhase, s.phase_aimed, State.flag, (s.fields_aimed on src).getF_place 0 (by decide)]
  rfl

theorem State.runPhases_cases : s.runPhases on = s ∨ s.runPhases on = s.moved on := by
  unfold State.runPhases
  split
  · exact .inr rfl
  · exact .inl rfl

theorem State.requestPower_eq : s.requestPower on src = if s.seqr.moving then s.aimed on src else (s.aimed on src).runPhases on := rfl

/-- A request sets the direction and its source; a device that rests short of its end then runs. -/
theorem State.requestPower_cases : s.requestPower on src = s.aimed on src ∨ s.requestPower on src = (s.aimed on src).moved on := by
  rw [s.requestPower_eq on src]
  split
  · exact .inl rfl
  · exact (s.aimed on src).runPhases_cases on

theorem State.requestPower_up (hrest : s.seqr.moving = false) (hshort : s.phase < s.topPhase) :
    s.requestPower true src = (s.aimed true src).moved true := by
  rw [← s.phase_aimed true src, ← s.topPhase_aimed true src] at hshort
  rw [s.requestPower_eq true src, hrest, if_neg Bool.false_ne_true, State.runPhases, if_pos (by simp [hshort])]
  rfl

theorem State.requestPower_down (hrest : s.seqr.moving = false) (hshort : 0 < s.phase) (hfree : s.applying = false) :
    s.requestPower false src = (s.aimed false src).moved false := by
  rw [← s.phase_aimed false src] at hshort
  rw [← s.applying_aimed false src] at hfree
  rw [s.requestPower_eq false src, hrest, if_neg Bool.false_ne_true, State.runPhases, if_pos (by simp [hshort, hfree])]
  rfl

theorem State.want_requestPower : (s.requestPower on src).seqr.want = on := by
  obtain h | h := s.requestPower_cases on src <;> rw [h] <;> rfl

theorem State.fields_requestPower : FieldsKept [(F.hbmPwrstatSrc, 0), (F.hbmPwrstatDir, 0)] s (s.requestPower on src) := by
  have haim : FieldsKept [(F.hbmPwrstatSrc, 0), (F.hbmPwrstatDir, 0)] s (s.aimed on src) := (s.fields_aimed on src).mono (by simp)
  obtain h | h := s.requestPower_cases on src <;> rw [h]
  · exact haim
  · exact haim.trans (((s.aimed on src).fields_moved on).mono (by simp))

theorem State.phase_requestPower : (s.requestPower on src).phase = s.phase := (s.fields_requestPower on src).getF_place 0 (by decide)

theorem State.src_requestPower {s : State} (hs : rises s.regs = true) : (s.requestPower on src).getF F.hbmPwrstatSrc 0 = src % 8 := by
  obtain h | h := s.requestPower_cases on src <;> rw [h]
  · exact State.src_aimed on src hs
  · exact (((s.aimed on src).fields_moved on).getF_place 0 (by decide)).trans (State.src_aimed on src hs)

theorem State.only_requestPower : OnlyChanged [.regs, .seqr] s (s.requestPower on src) :=
  (State.requestPower_kept (E := fun c => c ∈ [Comp.regs, .seqr]) s on src (Kept.refl s) (by decide) (by decide)).only

end request

/-! ### Requests of ON_REQ and of the management bus -/

section asked
variable {s u : State} {on : Bool} {src : Nat}

/-- The state that a request finds, once the pin or the status of the request is noted. -/
structure State.Notes (s u : State) : Prop where
  only : OnlyChanged [.regs, .pins] s u
  fields : FieldsKept [(F.hbmRststatStatus, 0)] s u
  regs_rise : rises s.regs = true → rises u.regs = true
  boardTest : u.pins.boardTest = s.pins.boardTest

theorem State.notes_onReq (s : State) (b : Bool) : s.Notes (s.setPins { s.pins with onReq := b }) :=
  ⟨(OnlyChanged.refl _ s).setPins _ (by decide), .of_regs rfl, id, rfl⟩

theorem State.notes_rstStatus (s : State) : s.Notes (s.rstStatus 0) :=
  ⟨(OnlyChanged.refl _ s).setF _ _ _ (by decide), (FieldsKept.refl _ s).setF _ _ _ (by decide), fun h => State.rises_setF h _ _ _, rfl⟩

theorem State.Notes.phase_eq (h : s.Notes u) : u.phase = s.phase := h.fields.getF_place 0 (by decide)

theorem State.Notes.applying_eq (h : s.Notes u) : u.applying = s.applying := by
  rw [State.applying, h.fields.getF_place 0 (by decide), State.applying]

theorem State.Notes.topPhase_eq (h : s.Notes u) : u.topPhase = s.topPhase := by
  rw [State.topPhase, State.flag, h.boardTest, h.phase_eq, h.fields.getF_place 0 (by decide)]
  rfl

theorem State.Notes.moving_eq (h : s.Notes u) : u.seqr.moving = s.seqr.moving := (congrArg Sequencer.moving (h.only .seqr (by decide))).symm

theorem State.Notes.moves_up (h : s.Notes u) (hs : rises s.regs = true) (hrest : s.seqr.moving = false) (hshort : s.phase < s.topPhase) :
    (u.requestPower true src).seqr.moving = true ∧ (u.requestPower true src).flag F.hbmPwrstatDir 0 = true := by
  rw [u.requestPower_up src (h.moving_eq.trans hrest) (by rwa [h.phase_eq, h.topPhase_eq])]
  exact ⟨rfl, State.dir_moved true (State.rises_setF (h.regs_rise hs) _ _ _)⟩

theorem State.Notes.moves_down (h : s.Notes u) (hs : rises s.regs = true) (hrest : s.seqr.moving = false) (hshort : 0 < s.phase)
    (hfree : s.applying = false) :
    (u.requestPower false src).seqr.moving = true ∧ (u.requestPower false src).flag F.hbmPwrstatDir 0 = false := by
  rw [u.requestPower_down src (h.moving_eq.trans hrest) (by rwa [h.phase_eq]) (h.applying_eq.trans hfree)]
  exact ⟨rfl, State.dir_moved false (State.rises_setF (h.regs_rise hs) _ _ _)⟩

theorem State.Notes.only_request (h : s.Notes u) : OnlyChanged [.regs, .seqr, .pins] s (u.requestPower on src) :=
  (h.only.mono (by decide)).trans ((u.only_requestPower on src).mono (by decide))

theorem State.Notes.regs_request (h : s.Notes u) : RegsKept [R.hbmPwrstat, R.hbmRststat] s (u.requestPower on src) :=
  (h.fields.regs (by decide)).trans ((u.fields_requestPower on src).regs (by decide))

theorem State.onRequest_acts (hstandby : s.pins.standby = true) (htest : s.pins.boardTest = false) (htrip : s.pins.thermtrip = false) :
    s.onRequest src = s.requestPower true src := by
  simp [State.onRequest, hstandby, htest, htrip]

theorem State.onRequest_ignored (h : s.pins.thermtrip = true ∨ s.pins.standby = false ∨ s.pins.boardTest = true) : s.onRequest src = s := by
  obtain h | h | h := h <;> simp [State.onRequest, h]

theorem State.offRequest_acts (hstandby : s.pins.standby = true) (htest : s.pins.boardTest = false) : s.offRequest src = s.requestPower false src := by
  simp [State.offRequest, hstandby, htest]

end asked

/-- The requests that may ask, with their direction and SRC of Table 19-12. -/
def powerRequests : List (Instr × Bool × Nat) :=
  [(.onReqRise, true, 0), (.onReqFall, false, 0), (.mbPowerRequest .mb true, true, 1), (.mbPowerRequest .mb false, false, 1),
    (.mbPowerRequest (.fn 0) false, false, 2)]

/-- A request of an agent that may ask for it acts: the pin or the status of the request is noted, then the direction is set. -/
theorem exec_powerRequest {s : State} {i : Instr} {on : Bool} {src : Nat} (hi : (i, on, src) ∈ powerRequests) (hstandby : s.pins.standby = true)
    (htest : s.pins.boardTest = false) (htrip : on = true → s.pins.thermtrip = false) (hfail : i = .onReqRise → s.pins.pwrfail = false) :
    ∃ u, exec i s = .next (u.requestPower on src) ∧ s.Notes u := by
  simp only [powerRequests, List.mem_cons, Prod.mk.injEq, List.not_mem_nil, or_false] at hi
  obtain ⟨rfl, rfl, rfl⟩ | ⟨rfl, rfl, rfl⟩ | ⟨rfl, rfl, rfl⟩ | ⟨rfl, rfl, rfl⟩ | ⟨rfl, rfl, rfl⟩ := hi
  · have hhigh : ¬s.pins.pwrfail = true := by simp [hfail rfl]
    exact ⟨_, congrArg Host.Outcome.next ((if_neg hhigh).trans (State.onRequest_acts hstandby htest (htrip rfl))), s.notes_onReq true⟩
  · exact ⟨_, congrArg Host.Outcome.next (State.offRequest_acts hstandby htest), s.notes_onReq false⟩
  · exact ⟨_, congrArg Host.Outcome.next (State.onRequest_acts hstandby htest (htrip rfl)), s.notes_rstStatus⟩
  · exact ⟨_, congrArg Host.Outcome.next (State.offRequest_acts hstandby htest), s.notes_rstStatus⟩
  · exact ⟨_, congrArg Host.Outcome.next (State.offRequest_acts hstandby htest), s.notes_rstStatus⟩

theorem powerRequests_src {i : Instr} {on : Bool} {src : Nat} (hi : (i, on, src) ∈ powerRequests) : src % 8 = src := by
  simp only [powerRequests, List.mem_cons, Prod.mk.injEq, List.not_mem_nil, or_false] at hi
  omega

/-- ON_REQ that rises while PWRFAIL_N is low, THERMTRIP_N is asserted, the standby supply is down or the device is in board test is only noted. -/
theorem exec_onReqRise_noted {s : State}
    (h : s.pins.pwrfail = true ∨ s.pins.thermtrip = true ∨ s.pins.standby = false ∨ s.pins.boardTest = true) :
    exec .onReqRise s = .next (s.setPins { s.pins with onReq := true }) := by
  simp only [exec, execOnReqRise]
  obtain hfail | hother := h
  · rw [if_pos hfail]
  · rw [State.onRequest_ignored (s := s.setPins { s.pins with onReq := true }) hother, ite_self]

/-! ### The flush of the staged bytes (R363) -/

section flush
variable {s : State}

/-- A block of a write that is not durable keeps its new content, or goes back to its old one, which is open. -/
def State.settleBlock (k : Nat) (s : State) (e : (Nat × Nat × Tab Byte) × Nat) : State :=
  if (Config.freeByte (k + e.2)).toNat % 2 = 0 then
    s.setRegion e.1.1 { s.flRegion e.1.1 with
      data := putTab (s.flRegion e.1.1).data (e.1.2.1 * 4096) (getTab e.1.2.2 (e.1.2.1 * 4096) 4096) }
  else s

/-- Blocks of the staged writes that are neither durable nor part of an update. -/
def Flash.openBlocks (f : Flash) : List (Nat × Nat × Tab Byte) :=
  (f.writes.filter fun w => !w.durable && !w.upd).flatMap fun w => w.blocks.map fun b => (w.region, b, w.prev)

/-- The state in which every open block is settled. -/
def State.settled (s : State) : State :=
  s.flash.openBlocks.zipIdx.foldl (State.settleBlock s.fresh) (s.setFlash { s.flash with flushing := true })

theorem State.flashFlush_eq (s : State) : s.flashFlush =
    (((s.settled.bumpFresh s.flash.openBlocks.length).setFlash { s.settled.flash with writes := [] }).showStaged) := rfl

theorem State.settleBlock_regs (k : Nat) (s : State) (e : (Nat × Nat × Tab Byte) × Nat) : (s.settleBlock k e).regs = s.regs := by
  unfold State.settleBlock
  split <;> rfl

theorem State.flushing_settleBlock (k : Nat) (s : State) (e : (Nat × Nat × Tab Byte) × Nat) :
    (s.settleBlock k e).flash.flushing = s.flash.flushing := by
  unfold State.settleBlock
  split <;> rfl

theorem State.settled_regs (s : State) : s.settled.regs = s.regs :=
  List.foldlRecOn (motive := fun t : State => t.regs = s.regs) _ _ rfl fun t ht e _ => (t.settleBlock_regs s.fresh e).trans ht

theorem State.flushing_settled (s : State) : s.settled.flash.flushing = true :=
  List.foldlRecOn (motive := fun t : State => t.flash.flushing = true) _ _ rfl fun t ht e _ => (t.flushing_settleBlock s.fresh e).trans ht

/-- From a flush on no write is staged. -/
theorem State.flash_flashFlush (s : State) : s.flashFlush.flash.flushing = true ∧ s.flashFlush.flash.writes = [] := by
  rw [s.flashFlush_eq]
  exact ⟨s.flushing_settled, rfl⟩

theorem State.fields_flashFlush (s : State) : FieldsKept [(F.fltHupStaged, 0)] s s.flashFlush := by
  rw [s.flashFlush_eq]
  exact FieldsKept.setF (.of_regs s.settled_regs) _ _ _ (List.mem_singleton_self _)

end flush

/-! ### PWRFAIL_N falls (R363, R473) -/

section fall
variable {s : State}

/-- PWRFAIL_N is low, and from phase 6 on the staged bytes are flushed. -/
def State.failNoted (s : State) : State :=
  let t := s.setPins { s.pins with pwrfail := true }
  if 6 ≤ t.phase && !t.pins.boardTest then t.flashFlush else t

/-- A fall of PWRFAIL_N, up to its off request: an amendment before its commit and a phase that runs up are given up. -/
def State.fallen (s : State) : State := (if s.failNoted.applying then s.failNoted.dropAmendment else s.failNoted).abandonUp

theorem exec_pwrfailNFall_acts (hstandby : s.pins.standby = true) (hhigh : s.pins.pwrfail = false) :
    exec .pwrfailNFall s = .next (s.fallen.requestPower false 4) := by
  have hlive : ¬(!s.pins.standby || s.pins.pwrfail) = true := by simp [hstandby, hhigh]
  exact congrArg Host.Outcome.next (if_neg hlive)

theorem State.failNoted_kept (s : State) : Kept (fun c => c ∈ [Comp.regs, .flash, .fresh, .pins]) s s.failNoted := by
  have hpins := State.setPins_kept (E := fun c => c ∈ [Comp.regs, .flash, .fresh, .pins]) s { s.pins with pwrfail := true } (Kept.refl s) (by decide)
  exact kept_ite (State.flashFlush_kept _ hpins (by decide) (by decide) (by decide)) hpins

/-- The amendment and the phase that are given up touch neither the flash tier nor the pins. -/
theorem State.fallen_kept (s : State) : Kept (fun c => c ∈ [Comp.regs, .boot, .seqr]) s.failNoted s.fallen :=
  State.abandonUp_kept _ (kept_ite (State.dropAmendment_kept _ (Kept.refl _) (by decide) (by decide)) (Kept.refl _)) (by decide) (by decide)

theorem State.canon_fallen (hs : s.canon = true) : s.fallen.canon = true := s.fallen_kept.2 (s.failNoted_kept.2 hs)

theorem State.only_fall (s : State) : OnlyChanged [.regs, .boot, .seqr] s.failNoted (s.fallen.requestPower false 4) :=
  s.fallen_kept.only.trans ((s.fallen.only_requestPower false 4).mono (by decide))

theorem State.pins_failNoted (s : State) : s.failNoted.pins = { s.pins with pwrfail := true } := by
  have h := (State.flashFlush_kept (E := fun c => c ∈ [Comp.flash, .fresh, .regs]) (s.setPins { s.pins with pwrfail := true }) (Kept.refl _)
    (by decide) (by decide) (by decide)).only .pins (by decide)
  unfold State.failNoted
  dsimp only
  split
  · exact h.symm
  · rfl

theorem State.flash_failNoted (hup : 6 ≤ s.phase) (htest : s.pins.boardTest = false) :
    s.failNoted.flash.flushing = true ∧ s.failNoted.flash.writes = [] := by
  have hflush : s.failNoted = (s.setPins { s.pins with pwrfail := true }).flashFlush := if_pos (by
    change (decide (6 ≤ s.phase) && !s.pins.boardTest) = true
    rw [htest, decide_eq_true hup]
    rfl)
  rw [hflush]
  exact State.flash_flashFlush _

theorem State.fields_endReset (s : State) : FieldsKept [(F.hbmRststatBusy, 0)] s s.endReset := FieldsKept.setF (.of_regs rfl) _ _ _ (by decide)

theorem State.phase_abandonUp (s : State) : s.abandonUp.phase = s.phase := by
  unfold State.abandonUp
  split
  · refine (State.getF_setF_place _ _ _ _ (by decide)).trans ?_
    split
    · exact s.fields_endReset.getF_place 0 (by decide)
    · rfl
  · rfl

theorem State.phase_dropAmendment (s : State) : s.dropAmendment.phase = s.phase :=
  (State.getF_setF_place _ _ _ _ (by decide)).trans (State.getF_setF_place _ _ _ _ (by decide))

theorem State.phase_failNoted (s : State) : s.failNoted.phase = s.phase := by
  unfold State.failNoted
  dsimp only
  split
  · exact (State.fields_flashFlush _).getF_place 0 (by decide)
  · rfl

theorem State.phase_fallen (s : State) : s.fallen.phase = s.phase := by
  rw [State.fallen, State.phase_abandonUp, apply_ite State.phase, State.phase_dropAmendment, ite_self, State.phase_failNoted]

end fall

/-- Settles O48: a request that acts is one change of the direction on the state that has noted it; a fall of PWRFAIL_N asks for off after what it gives
up, and that keeps the phase, the pins and what the flush has left. -/
theorem powerRequestsSetTheDirection : Obligations.PowerRequestsSetTheDirection := by
  unfold Obligations.PowerRequestsSetTheDirection
  intro s hs
  have hr := State.canon_regs hs
  refine ⟨fun i on src hi hstandby htest htrip hfail => ?request, exec_onReqRise_noted, rfl, fun hstandby hhigh => ?fall, ?rise⟩
  case request =>
    obtain ⟨u, hexec, hu⟩ := exec_powerRequest hi hstandby htest htrip hfail
    refine ⟨_, hexec, u.want_requestPower on src, ?_, (u.phase_requestPower on src).trans hu.phase_eq, ?_, ?_, hu.only_request, hu.regs_request⟩
    · rw [State.src_requestPower on src (hu.regs_rise hr), powerRequests_src hi]
    · rintro hrest rfl hshort
      exact hu.moves_up hr hrest hshort
    · rintro hrest rfl hshort hfree
      exact hu.moves_down hr hrest hshort hfree
  case fall =>
    have hfall := s.only_fall
    have hpins := hfall .pins (by decide)
    have hflash := hfall .flash (by decide)
    refine ⟨_, exec_pwrfailNFall_acts hstandby hhigh, hpins.symm.trans s.pins_failNoted, State.want_requestPower _ _ _,
      State.src_requestPower _ _ (State.canon_regs (State.canon_fallen hs)), (State.phase_requestPower _ _ _).trans s.phase_fallen,
      fun hup htest => ?_, fun a => ?_⟩
    · rw [← hflash]
      exact State.flash_failNoted hup htest
    · exact (hfall.byteAt_eq (by decide) (by decide) a).trans (s.failNoted_kept.only.byteAt_eq (by decide) (by decide) a)
  case rise =>
    simp only [exec, execPwrfailNRise, Bool.and_eq_true]

end Sys2Proof.Machine

/-!
PROOFS. Reads, programs and the hold-up store of the flash tier: a codeword of a read job, the end of programs, and what a measurement of the bank
voltage makes of the store (O34).
-/
namespace Sys2Proof.Machine

/-! ### Rules for the flash tier -/

section tier
variable {s t : State}

theorem OnlyChanged.setFlash {m : List Comp} (h : OnlyChanged m s t) (f : Flash) (w : Comp.flash ∈ m) : OnlyChanged m s (t.setFlash f) :=
  h.trans fun c n => by cases c <;> first | rfl | exact absurd w n

/-- A region is what the table of the tier holds. -/
theorem State.flRegion_congr (h : t.flash.regions = s.flash.regions) (r : Nat) : t.flRegion r = s.flRegion r := by
  rw [State.flRegion, h, State.flRegion]

/-- No FLWRITE waits in a region's queue. -/
def State.noFlwrite (s : State) : Prop := ∀ r, (s.flRegion r).ops = []

theorem State.noFlwrite_congr (hidle : s.noFlwrite) (h : t.flash.regions = s.flash.regions) : t.noFlwrite := fun r => by
  rw [State.flRegion_congr h]
  exact hidle r

theorem State.flashRun_idle {r : Nat} (h : (s.flRegion r).ops = []) (fuel : Nat) : s.flashRun r fuel = s := by
  cases fuel with
  | zero => rfl
  | succ n => simp only [State.flashRun, h]

/-- With no FLWRITE waiting no region has anything to go on with. -/
theorem State.flashAll_idle (hidle : s.noFlwrite) : s.flashAll = s :=
  List.foldlRecOn (motive := fun t : State => t = s) _ _ rfl fun t ht e _ => by
    rw [ht]
    exact State.flashRun_idle (hidle e.1) _

end tier

/-! ### A codeword of a read job (R343, R349) -/

/-- A read job after one of its blocks was delivered. -/
def FlJob.without (j : FlJob) (block : Nat) : FlJob := { j with left := j.left.filter (· != block) }

section read
variable {s : State} {j : FlJob} {id : Nat} {c : Cmd}

/-- The state in which job `n` is `j`. -/
def State.setJob (s : State) (n : Nat) (j : FlJob) : State := s.setFlash { s.flash with jobs := s.flash.jobs.set n j }

/-- The state in which job `j` is gone, and the blocks that it alone held are released. -/
def State.closeJob (s : State) (j : FlJob) : State := (s.setFlash { s.flash with jobs := s.flash.jobs.filter (· != j) }).releaseHeld j.region

/-- A codeword that the first read or its second try delivers leaves nothing to count, to record or to relocate. -/
theorem State.codeword_delivered {step : Nat} (h : step < 2) (r block : Nat) (w : NandAt) : s.codeword r block step w = s := by
  simp only [State.codeword, show ¬2 ≤ step by omega, show ¬3 ≤ step by omega, show step ≠ 4 by omega, show ¬5 ≤ step by omega, if_false]

theorem exec_flashReadComplete_delivered {n block step : Nat} (ch lun loc : Nat) (hj : s.flash.jobs[n]? = some j) (hleft : block ∈ j.left)
    (hgood : block ∉ j.bad) (hstep : step < 2) :
    exec (.flashReadComplete n block step ch lun loc) s =
      .next (if (j.without block).left.isEmpty then (s.setJob n (j.without block)).finishJob (j.without block) else s.setJob n (j.without block)) := by
  simp only [exec, execFlashReadComplete, State.jobRead, hj, List.contains_iff_mem.2 hleft, List.contains_eq_mem, hgood, decide_false,
    Bool.not_true, Bool.false_eq_true, Bool.not_false, Bool.and_true, ge_iff_le, show ¬5 ≤ step by omega, if_false,
    State.codeword_delivered hstep]
  rfl

/-- While blocks are left, the job has one less. -/
theorem exec_flashReadComplete_more {n block step : Nat} (ch lun loc : Nat) (hj : s.flash.jobs[n]? = some j) (hleft : block ∈ j.left)
    (hgood : block ∉ j.bad) (hstep : step < 2) (hmore : (j.without block).left ≠ []) :
    exec (.flashReadComplete n block step ch lun loc) s = .next (s.setJob n (j.without block)) := by
  rw [exec_flashReadComplete_delivered ch lun loc hj hleft hgood hstep, if_neg (mt List.isEmpty_iff.1 hmore)]

/-- A read job with every block read copies its tensor, and its command ends. -/
theorem State.finishJob_read (hwho : j.who = .read id) (hc : s.cmd? id = some c) (hst : c.st = .issued) :
    s.finishJob j =
      let r := (s.closeJob j).copyOut (c.plan.desc 0) (c.plan.desc 1) j.data j.bad
      r.1.engineDone id (if r.2 then 0x7C else 0) r.2 := by
  have hclosed : (s.closeJob j).cmd? id = some c := hc
  simp only [State.closeJob] at hclosed
  simp only [State.finishJob, hwho, State.closeJob, hclosed, hst, bne_self_eq_false, Bool.false_eq_true, if_false]
  rfl

/-- Copying a tensor out of a region leaves the tracked commands. -/
theorem State.cmd_copyOut (s : State) (d x : Desc) (data : Tab Byte) (bad : List Nat) (k : Nat) : (s.copyOut d x data bad).1.cmd? k = s.cmd? k :=
  State.cmd_congr ((State.copyOut_kept (E := fun c => c ∈ memoryComps) s d x data bad (Kept.refl s) (by decide) (by decide) (by decide) (by decide)
    (by decide) (by decide) (by decide) (by decide) (by decide)).only .cmds (by decide)).symm k

theorem State.id_of_cmd (h : s.cmd? id = some c) : c.id = id := by
  have hfound := List.find?_some h
  exact beq_iff_eq.1 hfound

/-- The engine ends a running command with a status that leaves its context. -/
theorem State.engineDone_keepsCtx {status : Nat} (p : Bool) (hc : s.cmd? id = some c) (hst : c.st = .issued) (hopen : c.ready = false)
    (hsoft : tearsDown status = false) :
    s.engineDone id status p = s.setCmd { c with ready := true, status := status, poisoned := c.poisoned || p } := by
  simp only [State.engineDone, hc, hopen, hst, bne_self_eq_false, Bool.or_self, Bool.false_eq_true, if_false, hsoft]

theorem State.cmd_setCmd_found {d : Cmd} (hc : s.cmd? id = some c) (hd : d.id = c.id) : (s.setCmd d).cmd? id = some d := by
  obtain rfl := (State.id_of_cmd hc).symm
  rw [← hd] at hc ⊢
  exact State.cmd_setCmd_same hc

/-- The last block of an FLREAD: memory is what the copy leaves, and the command is done, with status 0x7C when the copy met poison. -/
theorem exec_flashReadComplete_last {n block step : Nat} (ch lun loc : Nat) (hj : s.flash.jobs[n]? = some j) (hleft : block ∈ j.left)
    (hgood : block ∉ j.bad) (hstep : step < 2) (hlast : (j.without block).left = []) (hwho : j.who = .read id) (hc : s.cmd? id = some c)
    (hst : c.st = .issued) (hopen : c.ready = false) :
    let r := ((s.setJob n (j.without block)).closeJob (j.without block)).copyOut (c.plan.desc 0) (c.plan.desc 1) j.data j.bad
    ∃ t, exec (.flashReadComplete n block step ch lun loc) s = .next t ∧ t.mem = r.1.mem ∧
      t.cmd? id = some { c with ready := true, status := if r.2 then 0x7C else 0, poisoned := c.poisoned || r.2 } := by
  intro r
  have hcopied : r.1.cmd? id = some c := (State.cmd_copyOut _ _ _ _ _ id).trans hc
  have hsoft : tearsDown (if r.2 then 0x7C else 0) = false := by cases r.2 <;> rfl
  have hjob : (s.setJob n (j.without block)).finishJob (j.without block) = r.1.engineDone id (if r.2 then 0x7C else 0) r.2 :=
    State.finishJob_read (s := s.setJob n (j.without block)) (j := j.without block) hwho hc hst
  refine ⟨r.1.setCmd { c with ready := true, status := if r.2 then 0x7C else 0, poisoned := c.poisoned || r.2 }, ?_, rfl,
    State.cmd_setCmd_found hcopied rfl⟩
  rw [exec_flashReadComplete_delivered ch lun loc hj hleft hgood hstep, hlast, if_pos List.isEmpty_nil, hjob,
    State.engineDone_keepsCtx r.2 hcopied hst hopen hsoft]

end read

/-! ### Programs complete (R360) -/

section program
variable {s : State} (ids : List Nat)

/-- The writes of the given numbers are no longer staged. -/
def State.unstage (s : State) (ids : List Nat) : State := s.setFlash { s.flash with writes := s.flash.writes.filter fun w => !ids.contains w.id }

theorem State.programmed_idle (hidle : s.noFlwrite) : s.programmed ids = (s.unstage ids).showStaged :=
  State.flashAll_idle (State.noFlwrite_congr (t := (s.unstage ids).showStaged) hidle rfl)

theorem State.fields_unstaged (s : State) : FieldsKept [(F.fltHupStaged, 0)] s (s.unstage ids).showStaged :=
  FieldsKept.setF (.of_regs rfl) _ _ _ (List.mem_singleton_self _)

theorem State.only_unstaged (s : State) : OnlyChanged [.regs, .flash] s (s.unstage ids).showStaged :=
  ((OnlyChanged.refl _ s).setFlash _ (by decide)).setF _ _ _ (by decide)

theorem State.staged_unstaged (hs : rises s.regs = true) :
    (s.unstage ids).showStaged.getF F.fltHupStaged 0 = cdiv (s.unstage ids).flash.staged 0x100000 % 2 ^ F.fltHupStaged.w :=
  State.getF_setF_same hs _ _ _

end program

/-! ### The hold-up store (R362, Table 14-6) -/

/-- The store is configured, the bank is not below VMIN, and the last probe passed. -/
def State.storeGood (s : State) (v : Nat) : Prop := s.getF F.fltHupcfgCapmf 0 ≠ 0 ∧ s.getF F.fltHupcfgVmin 0 ≤ v ∧ s.flash.probeOk = true

/-- The limit is the full one. -/
def State.limitFull (s : State) : Prop := s.getF F.fltHupStagelim 0 = s.getF F.fltHupcfgStagecap 0

/-- Since when the limit has been full. -/
def State.since (s : State) (g : Option Nat) : State := s.setFlash { s.flash with goodSince := g }

/-- The bank voltage is measured: FLT_HUP shows it, with the limit of R362. -/
def State.measured (s : State) (v : Nat) : State := (s.setF F.fltHupVmeas 0 v).setF F.fltHupStagelim 0 (s.stageLim v)

/-- What becomes of the store once FLT_HUP shows a measurement `v`: the rows of Table 14-6. -/
inductive State.Judged (m : State) (v : Nat) : State → Prop
  | fails : ¬m.storeGood v → Judged m v ((m.leaveReady 0).since none)
  | charges (g : Option Nat) : m.storeGood v → m.getF F.fltHupState 0 = 0 → Judged m v ((m.setF F.fltHupState 0 1).since g)
  | starts : m.storeGood v → m.getF F.fltHupState 0 = 1 → m.limitFull → m.flash.goodSince = none → Judged m v (m.since (some m.now))
  | ready (g : Nat) : m.storeGood v → m.getF F.fltHupState 0 = 1 → m.limitFull → m.flash.goodSince = some g → g + 10000000000 ≤ m.now →
      Judged m v (m.setF F.fltHupState 0 2)
  | waits (g : Nat) : m.storeGood v → m.getF F.fltHupState 0 = 1 → m.limitFull → m.flash.goodSince = some g → ¬g + 10000000000 ≤ m.now →
      Judged m v m
  | short : m.storeGood v → m.getF F.fltHupState 0 = 1 → ¬m.limitFull → Judged m v (m.since none)
  | rests : m.storeGood v → m.getF F.fltHupState 0 ≠ 0 → m.getF F.fltHupState 0 ≠ 1 → Judged m v m

section hold
variable {s m t : State} {v : Nat}

/-- A measurement judges the store by the state that shows it, and then the regions go on. -/
theorem State.holdMeasure_judged (s : State) (v : Nat) : ∃ t, s.holdMeasure v = t.flashAll ∧ (s.measured v).Judged v t := by
  have hgood : (s.measured v).storeGood v ↔
      ¬(decide ((s.measured v).getF F.fltHupcfgCapmf 0 = 0) || decide (v < (s.measured v).getF F.fltHupcfgVmin 0) ||
        !(s.measured v).flash.probeOk) = true := by
    simp [State.storeGood, and_assoc]
  refine ⟨_, rfl, ?_⟩
  change (s.measured v).Judged v (if _ then _ else _)
  split
  next h => exact .fails (mt hgood.1 (not_not_intro h))
  next h =>
    have hg := hgood.2 h
    split
    next h0 => exact .charges _ hg h0
    next h0 =>
      split
      next h1 =>
        split
        next hfull =>
          split
          next hnone => exact .starts hg h1 hfull hnone
          next g hsome =>
            split
            next hdue => exact .ready g hg h1 hfull hsome hdue
            next hdue => exact .waits g hg h1 hfull hsome hdue
        next hfull => exact .short hg h1 hfull
      next h1 => exact .rests hg h0 h1

/-- Leaving READY shows the state, and stages no durable write any longer. -/
theorem State.leaveReady_cases (hidle : m.noFlwrite) (st : Nat) :
    m.leaveReady st = m.setF F.fltHupState 0 st ∨ ∃ ids, m.leaveReady st = ((m.setF F.fltHupState 0 st).unstage ids).showStaged := by
  unfold State.leaveReady
  split
  · exact .inr ⟨_, State.programmed_idle _ (State.noFlwrite_congr (t := m.setF F.fltHupState 0 st) hidle rfl)⟩
  · exact .inl rfl

/-- Only STATE and the staged total may differ from the state that shows the measurement, and beside FLT_HUP only the flash tier does. -/
structure State.HupMoved (m t : State) : Prop where
  only : OnlyChanged [.regs, .flash] m t
  fields : FieldsKept [(F.fltHupState, 0), (F.fltHupStaged, 0)] m t
  regions : t.flash.regions = m.flash.regions

theorem State.hupMoved_setF (m : State) (st : Nat) : m.HupMoved (m.setF F.fltHupState 0 st) :=
  ⟨(OnlyChanged.refl _ m).setF _ _ _ (by decide), (FieldsKept.refl _ m).setF _ _ _ (by simp), rfl⟩

theorem State.HupMoved.since (h : m.HupMoved t) (g : Option Nat) : m.HupMoved (t.since g) :=
  ⟨h.only.setFlash _ (by decide), h.fields.trans (.of_regs rfl), h.regions⟩

theorem State.HupMoved.unstaged (h : m.HupMoved t) (ids : List Nat) : m.HupMoved (t.unstage ids).showStaged :=
  ⟨h.only.trans (t.only_unstaged ids), h.fields.trans ((t.fields_unstaged ids).mono (by simp)), h.regions⟩

theorem State.hupMoved_leaveReady (hidle : m.noFlwrite) (st : Nat) : m.HupMoved (m.leaveReady st) := by
  obtain h | ⟨ids, h⟩ := State.leaveReady_cases hidle st <;> rw [h]
  · exact m.hupMoved_setF st
  · exact (m.hupMoved_setF st).unstaged ids

theorem State.Judged.hupMoved (hidle : m.noFlwrite) (h : m.Judged v t) : m.HupMoved t := by
  have hrefl : m.HupMoved m := ⟨OnlyChanged.refl _ m, FieldsKept.refl _ m, rfl⟩
  cases h with
  | fails => exact (State.hupMoved_leaveReady hidle 0).since none
  | charges g => exact (m.hupMoved_setF 1).since g
  | starts => exact hrefl.since _
  | ready => exact m.hupMoved_setF 2
  | waits => exact hrefl
  | short => exact hrefl.since none
  | rests => exact hrefl

/-- With no FLWRITE waiting a measurement is its judgement. -/
theorem State.holdMeasure_idle (hidle : s.noFlwrite) (v : Nat) : (s.measured v).Judged v (s.holdMeasure v) := by
  obtain ⟨t, ht, hj⟩ := s.holdMeasure_judged v
  have hm : (s.measured v).noFlwrite := State.noFlwrite_congr hidle rfl
  rwa [ht, State.flashAll_idle (State.noFlwrite_congr hm (hj.hupMoved hm).regions)]

theorem State.fields_measured (s : State) (v : Nat) : FieldsKept [(F.fltHupVmeas, 0), (F.fltHupStagelim, 0)] s (s.measured v) :=
  ((FieldsKept.refl _ s).setF _ _ _ (by simp)).setF _ _ _ (by simp)

theorem State.only_measured (s : State) (v : Nat) : OnlyChanged [.regs, .flash] s (s.measured v) :=
  ((OnlyChanged.refl _ s).setF _ _ _ (by decide)).setF _ _ _ (by decide)

theorem State.vmeas_measured (hs : rises s.regs = true) (v : Nat) : (s.measured v).getF F.fltHupVmeas 0 = v % 2 ^ F.fltHupVmeas.w :=
  (State.getF_setF_place _ _ _ _ (by decide)).trans (State.getF_setF_same hs _ _ _)

theorem State.stagelim_measured (hs : rises s.regs = true) (v : Nat) :
    (s.measured v).getF F.fltHupStagelim 0 = s.stageLim v % 2 ^ F.fltHupStagelim.w :=
  State.getF_setF_same (State.rises_setF hs _ _ _) _ _ _

theorem State.state_measured (s : State) (v : Nat) : (s.measured v).getF F.fltHupState 0 = s.getF F.fltHupState 0 :=
  (s.fields_measured v).getF_place 0 (by decide)

theorem State.now_measured (s : State) (v : Nat) : (s.measured v).now = s.now := (s.fields_measured v).getF_place 0 (by decide)

theorem State.storeGood_measured (s : State) (v : Nat) : (s.measured v).storeGood v ↔ s.storeGood v := by
  rw [State.storeGood, (s.fields_measured v).getF_place 0 (by decide), (s.fields_measured v).getF_place 0 (by decide)]
  rfl

theorem State.limitFull_measured (hs : rises s.regs = true) (v : Nat) :
    (s.measured v).limitFull ↔ s.stageLim v % 2 ^ F.fltHupStagelim.w = s.getF F.fltHupcfgStagecap 0 := by
  rw [State.limitFull, State.stagelim_measured hs, (s.fields_measured v).getF_place 0 (by decide)]

theorem State.rises_measured (hs : rises s.regs = true) (v : Nat) : rises (s.measured v).regs = true := State.rises_setF (State.rises_setF hs _ _ _) _ _ _

theorem State.state_leaveReady (hm : rises m.regs = true) (hidle : m.noFlwrite) : (m.leaveReady 0).getF F.fltHupState 0 = 0 := by
  have hset : (m.setF F.fltHupState 0 0).getF F.fltHupState 0 = 0 := State.getF_setF_same hm _ _ _
  obtain h | ⟨ids, h⟩ := State.leaveReady_cases hidle 0 <;> rw [h]
  · exact hset
  · exact ((State.fields_unstaged ids _).getF_place 0 (by decide)).trans hset

end hold

section outcome
variable {s : State} {v : Nat} (hr : rises s.regs = true) (hidle : s.noFlwrite)
include hidle

theorem State.hupMoved_holdMeasure (v : Nat) : (s.measured v).HupMoved (s.holdMeasure v) :=
  (State.holdMeasure_idle hidle v).hupMoved (State.noFlwrite_congr hidle rfl)

theorem State.regs_holdMeasure (v : Nat) : RegsKept [R.fltHup] s (s.holdMeasure v) :=
  ((s.fields_measured v).regs (by decide)).trans ((State.hupMoved_holdMeasure hidle v).fields.regs (by decide))

theorem State.only_holdMeasure (v : Nat) : OnlyChanged [.regs, .flash] s (s.holdMeasure v) :=
  (s.only_measured v).trans (State.hupMoved_holdMeasure hidle v).only

/-- A good store that is READY stays READY. -/
theorem State.state_holdMeasure_stays (hgood : s.storeGood v) (hst : s.getF F.fltHupState 0 = 2) : (s.holdMeasure v).getF F.fltHupState 0 = 2 := by
  rw [← s.state_measured v] at hst
  have hjudged := State.holdMeasure_idle hidle v
  generalize s.holdMeasure v = t at hjudged ⊢
  cases hjudged with
  | fails h => exact absurd ((s.storeGood_measured v).2 hgood) h
  | rests => exact hst
  | _ => omega

include hr

theorem State.vmeas_holdMeasure (v : Nat) : (s.holdMeasure v).getF F.fltHupVmeas 0 = v % 2 ^ F.fltHupVmeas.w :=
  ((State.hupMoved_holdMeasure hidle v).fields.getF_place 0 (by decide)).trans (State.vmeas_measured hr v)

theorem State.stagelim_holdMeasure (v : Nat) : (s.holdMeasure v).getF F.fltHupStagelim 0 = s.stageLim v % 2 ^ F.fltHupStagelim.w :=
  ((State.hupMoved_holdMeasure hidle v).fields.getF_place 0 (by decide)).trans (State.stagelim_measured hr v)

/-- A store that is not good reads STATE 0. -/
theorem State.state_holdMeasure_fails (hbad : ¬s.storeGood v) : (s.holdMeasure v).getF F.fltHupState 0 = 0 := by
  rw [← s.storeGood_measured v] at hbad
  have hjudged := State.holdMeasure_idle hidle v
  generalize s.holdMeasure v = t at hjudged ⊢
  cases hjudged with
  | fails => exact State.state_leaveReady (State.rises_measured hr v) (State.noFlwrite_congr hidle rfl)
  | _ => contradiction

/-- A good store that was off charges. -/
theorem State.state_holdMeasure_charges (hgood : s.storeGood v) (hst : s.getF F.fltHupState 0 = 0) : (s.holdMeasure v).getF F.fltHupState 0 = 1 := by
  rw [← s.state_measured v] at hst
  have hjudged := State.holdMeasure_idle hidle v
  generalize s.holdMeasure v = t at hjudged ⊢
  cases hjudged with
  | fails h => exact absurd ((s.storeGood_measured v).2 hgood) h
  | charges => exact State.getF_setF_same (State.rises_measured hr v) _ _ _
  | rests _ h0 _ => exact absurd hst h0
  | _ => omega

/-- A good store is READY after ten seconds at its full limit. -/
theorem State.state_holdMeasure_ready {g : Nat} (hgood : s.storeGood v) (hst : s.getF F.fltHupState 0 = 1)
    (hfull : s.stageLim v % 2 ^ F.fltHupStagelim.w = s.getF F.fltHupcfgStagecap 0) (hsince : s.flash.goodSince = some g)
    (hdue : g + 10000000000 ≤ s.now) : (s.holdMeasure v).getF F.fltHupState 0 = 2 := by
  rw [← s.state_measured v] at hst
  rw [← s.now_measured v] at hdue
  have hjudged := State.holdMeasure_idle hidle v
  generalize s.holdMeasure v = t at hjudged ⊢
  cases hjudged with
  | fails h => exact absurd ((s.storeGood_measured v).2 hgood) h
  | charges => omega
  | starts _ _ _ hnone => exact absurd (hsince.symm.trans hnone) (by simp)
  | ready => exact State.getF_setF_same (State.rises_measured hr v) _ _ _
  | waits x _ _ _ hx hwait =>
    obtain rfl : g = x := Option.some.inj (hsince.symm.trans hx)
    exact absurd hdue hwait
  | short _ _ hshort => exact absurd ((State.limitFull_measured hr v).2 hfull) hshort
  | rests _ _ h1 => exact absurd hst h1

/-- Below its full limit a good store goes on charging, and its time starts again. -/
theorem State.holdMeasure_short (hgood : s.storeGood v) (hst : s.getF F.fltHupState 0 = 1)
    (hshort : s.stageLim v % 2 ^ F.fltHupStagelim.w ≠ s.getF F.fltHupcfgStagecap 0) :
    (s.holdMeasure v).getF F.fltHupState 0 = 1 ∧ (s.holdMeasure v).flash.goodSince = none := by
  rw [← s.state_measured v] at hst
  have hpart : ¬(s.measured v).limitFull := mt (State.limitFull_measured hr v).1 hshort
  have hjudged := State.holdMeasure_idle hidle v
  generalize s.holdMeasure v = t at hjudged ⊢
  cases hjudged with
  | fails h => exact absurd ((s.storeGood_measured v).2 hgood) h
  | charges => omega
  | short => exact ⟨hst, rfl⟩
  | rests _ _ h1 => exact absurd hst h1
  | _ => contradiction

end outcome

/-- A probe is a measurement of the last voltage, with the probe's outcome; a measurement keeps the last outcome. -/
theorem exec_holdup {s u : State} {i : Instr} {v : Nat} {ok : Bool}
    (h : (i = .holdupMeasure v ∧ u = s) ∨ (i = .holdupProbe ok ∧ v = s.getF F.fltHupVmeas 0 ∧ u = s.setFlash { s.flash with probeOk := ok })) :
    exec i s = .next (u.holdMeasure v) ∧ ∃ p, u = s.setFlash { s.flash with probeOk := p } := by
  obtain ⟨rfl, rfl⟩ | ⟨rfl, rfl, rfl⟩ := h
  · exact ⟨rfl, _, rfl⟩
  · exact ⟨rfl, ok, rfl⟩

/-- Settles O34: a codeword delivered without error only takes its block off its job, and the last one runs the job's end; programs end the staging of their
writes; every measurement shows itself in FLT_HUP and then judges the store by the rows of Table 14-6. -/
theorem flashReadsAndProgramsComplete : Obligations.FlashReadsAndProgramsComplete := by
  unfold Obligations.FlashReadsAndProgramsComplete
  refine ⟨⟨fun s n block step ch lun loc j hj hleft hgood hstep => ⟨fun hmore => ?more, fun id c hlast hwho hc hst hopen => ?last⟩,
    fun s ids hs hidle => ?program⟩, fun s u i v ok hs hidle hi => ?hold⟩
  case more => exact exec_flashReadComplete_more ch lun loc hj hleft hgood hstep hmore
  case last => exact exec_flashReadComplete_last ch lun loc hj hleft hgood hstep hlast hwho hc hst hopen
  case program =>
    exact ⟨_, congrArg Host.Outcome.next (State.programmed_idle ids hidle), rfl, State.staged_unstaged ids (State.canon_regs hs), s.only_unstaged ids,
      s.fields_unstaged ids⟩
  case hold =>
    obtain ⟨hexec, p, rfl⟩ := exec_holdup hi
    have hr : rises (s.setFlash { s.flash with probeOk := p }).regs = true := State.canon_regs hs
    have hidleU : (s.setFlash { s.flash with probeOk := p }).noFlwrite := hidle
    refine ⟨_, hexec, State.vmeas_holdMeasure hr hidleU v, State.stagelim_holdMeasure hr hidleU v, State.state_holdMeasure_fails hr hidleU,
      State.state_holdMeasure_charges hr hidleU, State.state_holdMeasure_stays hidleU, fun hgood hst hfull g hg hdue => ?_,
      State.holdMeasure_short hr hidleU, State.regs_holdMeasure hidleU v, ?_⟩
    · exact State.state_holdMeasure_ready hr hidleU hgood hst hfull hg hdue
    · exact ((OnlyChanged.refl _ s).setFlash _ (by decide)).trans (State.only_holdMeasure hidleU v)

end Sys2Proof.Machine

/-!
PROOFS. Faults of the flash media: grown bad blocks and worn modes, wear moves, the retention patrol, and lost LUNs with their rebuild (O35).
-/
namespace Sys2Proof.Machine

/-! ### Records and the flash tier -/

section tier
variable {s t : State}

theorem OnlyChanged.record {m : List Comp} (h : OnlyChanged m s t) (r : Rec) (w : ∀ c ∈ recordComps, c ∈ m) : OnlyChanged m s (t.record r) :=
  h.trans (OnlyChanged.mono (fun c hc => t.record_agree r c hc) w)

@[simp] theorem State.flash_record (s : State) (r : Rec) : (s.record r).flash = s.flash := (s.record_agree r .flash (by simp)).symm

theorem State.canon_regions (h : s.canon = true) : rises s.flash.regions = true := by
  obtain ⟨-, -, -, -, -, -, -, -, -, -, -, -, -, -, -, hregions⟩ := State.canon_iff.1 h
  exact hregions

end tier

/-! ### Grown bad blocks (R351, R354) -/

section worn
variable {s t : State} {r : Nat} {f : Flash}

/-- Fewer spares are left than 1/64 of the capacity, in the mode of a region of type `ty`. -/
def Flash.modeWorn (f : Flash) (ty : Nat) : Bool :=
  (decide (ty = 1) && decide (f.spareDense * 64 < f.capDense)) || (decide (ty = 2) && decide (f.spareSlc * 64 < f.capSlc))

/-- A region of a worn mode is WORN. -/
def State.wearRegion (f : Flash) (s : State) (r : Nat) : State :=
  if f.modeWorn (s.getF F.fltRgninfoType r) then s.setF F.fltRgninfoWorn r 1 else s

theorem State.checkWorn_eq (s : State) : s.checkWorn = (List.range 1024).foldl (State.wearRegion s.flash) s := rfl

theorem State.rises_wearRegion (hs : rises s.regs = true) (r : Nat) : rises (s.wearRegion f r).regs = true := by
  unfold State.wearRegion
  split
  · exact State.rises_setF hs _ _ _
  · exact hs

theorem State.type_wearRegion (s : State) (f : Flash) (k r : Nat) : (s.wearRegion f k).getF F.fltRgninfoType r = s.getF F.fltRgninfoType r := by
  unfold State.wearRegion
  split
  · exact State.getF_setF_place _ _ _ _ (by decide)
  · rfl

/-- What is WORN stays so. -/
theorem State.worn_wearRegion (hs : rises s.regs = true) (k : Nat) (h : s.getF F.fltRgninfoWorn r = 1) : (s.wearRegion f k).getF F.fltRgninfoWorn r = 1 := by
  unfold State.wearRegion
  split
  · by_cases e : r = k
    · rw [e]
      exact State.getF_setF_same hs _ _ _
    · exact (State.getF_setF_inst _ _ _ e).trans h
  · exact h

theorem State.worn_wearRegions_kept (hs : rises s.regs = true) (l : List Nat) (h : s.getF F.fltRgninfoWorn r = 1) :
    (l.foldl (State.wearRegion f) s).getF F.fltRgninfoWorn r = 1 :=
  (List.foldlRecOn (motive := fun t : State => rises t.regs = true ∧ t.getF F.fltRgninfoWorn r = 1) l _ ⟨hs, h⟩ fun _ ht k _ =>
    ⟨State.rises_wearRegion ht.1 k, State.worn_wearRegion ht.1 k ht.2⟩).2

theorem State.worn_wearRegions {l : List Nat} (hs : rises s.regs = true) (hr : r ∈ l) (hworn : f.modeWorn (s.getF F.fltRgninfoType r) = true) :
    (l.foldl (State.wearRegion f) s).getF F.fltRgninfoWorn r = 1 := by
  induction l generalizing s with
  | nil => simp at hr
  | cons k l ih =>
    rw [List.foldl_cons]
    obtain rfl | hl := List.mem_cons.1 hr
    · refine State.worn_wearRegions_kept (State.rises_wearRegion hs r) l ?_
      rw [State.wearRegion, if_pos hworn]
      exact State.getF_setF_same hs _ _ _
    · exact ih (State.rises_wearRegion hs k) hl (by rwa [State.type_wearRegion])

theorem State.worn_checkWorn (hs : rises s.regs = true) (hr : r < 1024) (hworn : s.flash.modeWorn (s.getF F.fltRgninfoType r) = true) :
    s.checkWorn.getF F.fltRgninfoWorn r = 1 := by
  rw [s.checkWorn_eq]
  exact State.worn_wearRegions hs (List.mem_range.2 hr) hworn

theorem State.regs_wearRegion (s : State) (f : Flash) (k : Nat) : RegsKept [R.fltRgninfo] s (s.wearRegion f k) := by
  unfold State.wearRegion
  split
  · exact (RegsKept.refl _ s).setF _ _ _ (by decide)
  · exact RegsKept.refl _ s

theorem State.regs_checkWorn (s : State) : RegsKept [R.fltRgninfo] s s.checkWorn := by
  rw [s.checkWorn_eq]
  exact RegsKept.foldl _ (fun t k => t.regs_wearRegion s.flash k) _ (RegsKept.refl _ s)

theorem State.only_checkWorn (s : State) : OnlyChanged [.regs] s s.checkWorn :=
  (State.checkWorn_kept (E := fun c => c ∈ [Comp.regs]) s (Kept.refl s) (by decide)).only

end worn

section grown
variable {s : State}

/-- The tier with one spare block of a mode taken. -/
def Flash.useSpare (f : Flash) (slc : Bool) : Flash :=
  if slc then { f with spareSlc := f.spareSlc - 1 } else { f with spareDense := f.spareDense - 1 }

/-- A block of a mode is retired, counted, and its record is folded (class 0x11 of Table 21-3). -/
def State.retireBlock (s : State) (slc : Bool) (w : NandAt) : State :=
  ((s.setFlash (s.flash.useSpare slc)).bump F.fltWearGrownbad 0 1).record { cls := 0x11, sev := 0, kind := 3, unit := w.ch, sub := w.lun, syn := w.loc }

theorem State.growBad_eq (s : State) (slc : Bool) (w : NandAt) : s.growBad slc w = (s.retireBlock slc w).checkWorn := rfl

variable (slc : Bool) (w : NandAt)

theorem State.flash_retireBlock (s : State) : (s.retireBlock slc w).flash = s.flash.useSpare slc := State.flash_record _ _

theorem State.canon_retireBlock (hs : s.canon = true) : (s.retireBlock slc w).canon = true := by
  refine State.canon_record (State.bump_kept (E := fun _ => True) _ _ _ _ (State.setFlash_kept _ (Kept.refl s) (fun h => ?_) trivial) trivial |>.2 hs) _
  cases slc <;> exact h

theorem State.grownbad_retireBlock (hs : rises s.regs = true) :
    (s.retireBlock slc w).getF F.fltWearGrownbad 0 = (s.getF F.fltWearGrownbad 0 + 1) % 2 ^ F.fltWearGrownbad.w :=
  ((State.regs_record _ _).getF_eq (by decide) 0).trans (State.getF_setF_same hs _ _ _)

theorem State.regs_retireBlock (s : State) : RegsKept (recordRegs ++ [R.fltWear]) s (s.retireBlock slc w) :=
  (((RegsKept.refl _ s).of_regs (u := s.setFlash (s.flash.useSpare slc)) rfl).setF _ _ _ (by decide)).trans
    ((State.regs_record _ _).mono fun _ => List.mem_append_left _)

theorem State.only_retireBlock (s : State) : OnlyChanged (recordComps ++ [.flash]) s (s.retireBlock slc w) :=
  (((OnlyChanged.refl _ s).setFlash _ (by decide)).setF _ _ _ (by decide)).record _ fun _ => List.mem_append_left _

theorem State.flash_growBad (s : State) : (s.growBad slc w).flash = s.flash.useSpare slc := by
  have hkept : (s.retireBlock slc w).flash = (s.retireBlock slc w).checkWorn.flash := State.only_checkWorn _ .flash (by decide)
  rw [s.growBad_eq, ← hkept, s.flash_retireBlock]

theorem State.grownbad_growBad (hs : rises s.regs = true) :
    (s.growBad slc w).getF F.fltWearGrownbad 0 = (s.getF F.fltWearGrownbad 0 + 1) % 2 ^ F.fltWearGrownbad.w := by
  rw [s.growBad_eq, (State.regs_checkWorn _).getF_eq (by decide), State.grownbad_retireBlock slc w hs]

theorem State.regs_growBad (s : State) : RegsKept (recordRegs ++ [R.fltWear, R.fltRgninfo]) s (s.growBad slc w) :=
  ((s.regs_retireBlock slc w).mono (by decide)).trans ((State.regs_checkWorn _).mono (by decide))

theorem State.only_growBad (s : State) : OnlyChanged (recordComps ++ [.flash]) s (s.growBad slc w) :=
  (s.only_retireBlock slc w).trans ((State.only_checkWorn _).mono (by decide))

theorem Flash.modeWorn_of_low {f : Flash} {slc : Bool} (h : if slc then f.spareSlc * 64 < f.capSlc else f.spareDense * 64 < f.capDense) :
    f.modeWorn (if slc then 2 else 1) = true := by
  cases slc <;> simpa [Flash.modeWorn] using h

/-- With too few spares left in the block's mode every region of that mode is WORN. -/
theorem State.worn_growBad {r : Nat} (hs : s.canon = true) (hr : r < 1024) (hty : s.getF F.fltRgninfoType r = if slc then 2 else 1)
    (hlow : if slc then (s.growBad slc w).flash.spareSlc * 64 < (s.growBad slc w).flash.capSlc
      else (s.growBad slc w).flash.spareDense * 64 < (s.growBad slc w).flash.capDense) :
    (s.growBad slc w).getF F.fltRgninfoWorn r = 1 := by
  rw [s.flash_growBad slc w, ← s.flash_retireBlock slc w] at hlow
  rw [s.growBad_eq]
  refine State.worn_checkWorn (State.canon_regs (State.canon_retireBlock slc w hs)) hr ?_
  rw [(s.regs_retireBlock slc w).getF_eq (by decide), hty]
  exact Flash.modeWorn_of_low hlow

end grown

/-! ### Wear (R352) -/

section wear
variable {s : State} {slc : Bool} {worst rate : Nat}

/-- FLT_WEAR's field of a mode. -/
def wearField (slc : Bool) : Fld := if slc then F.fltWearSlcused else F.fltWearDenseused

/-- A wear move counts its 2^16 erases. -/
def State.countErases (s : State) : State := s.setFlash { s.flash with erases := s.flash.erases + 65536 }

/-- Below the rating a wear move only shows the most-worn block, in thousandths of the rating. -/
theorem exec_wearLevelMove_below (hrate : rate = if slc then s.getF F.fltSlcrateRating 0 else s.flash.rating) (hbelow : worst < rate) :
    exec (.wearLevelMove slc worst) s = .next (s.countErases.setF (wearField slc) 0 (worst * 1000 / rate)) := by
  have hmil : worst * 1000 / rate < 1000 := Nat.div_lt_of_lt_mul (by omega)
  have hpos : rate ≠ 0 := by omega
  have hrate' : (if slc then s.countErases.getF F.fltSlcrateRating 0 else s.countErases.flash.rating) = rate := hrate.symm
  change Host.Outcome.next (s.countErases.worn slc worst) = _
  simp only [State.worn, hrate', hpos, hmil, if_false, if_true, Nat.not_lt_zero, wearField, Nat.min_eq_left (show worst * 1000 / rate ≤ 65535 by omega)]

theorem State.used_wearShown (hs : rises s.regs = true) (hbelow : worst < rate) :
    (s.countErases.setF (wearField slc) 0 (worst * 1000 / rate)).getF (wearField slc) 0 = worst * 1000 / rate := by
  have hmil : worst * 1000 / rate < 1000 := Nat.div_lt_of_lt_mul (by omega)
  have hw : (wearField slc).w = 16 := by cases slc <;> rfl
  refine (State.getF_setF_same (s := s.countErases) hs (wearField slc) 0 (worst * 1000 / rate)).trans ?_
  rw [hw]
  exact Nat.mod_eq_of_lt (by omega)

theorem State.only_wearShown (s : State) (v : Nat) : OnlyChanged [.regs, .flash] s (s.countErases.setF (wearField slc) 0 v) :=
  ((OnlyChanged.refl _ s).setFlash _ (by decide)).setF _ _ _ (by decide)

theorem State.fields_wearShown (s : State) (v : Nat) : FieldsKept [(wearField slc, 0)] s (s.countErases.setF (wearField slc) 0 v) :=
  FieldsKept.setF (.of_regs rfl) _ _ _ (List.mem_singleton_self _)

end wear

/-! ### Blocks that become unreadable (R350, R353, R357) -/

section lose
variable {s t : State}

/-- From `s` to `t` no region's content changes, and a block that is unreadable stays so. -/
structure State.LosesOnly (s t : State) : Prop where
  data : ∀ k, (t.flRegion k).data = (s.flRegion k).data
  bad : ∀ k, ∀ b ∈ (s.flRegion k).bad, b ∈ (t.flRegion k).bad

theorem State.LosesOnly.of_regions (h : t.flash.regions = s.flash.regions) : s.LosesOnly t :=
  ⟨fun k => by rw [State.flRegion_congr h], fun k b hb => by rwa [State.flRegion_congr h]⟩

theorem State.LosesOnly.trans {u : State} (h : s.LosesOnly t) (k : t.LosesOnly u) : s.LosesOnly u :=
  ⟨fun r => (k.data r).trans (h.data r), fun r b hb => k.bad r b (h.bad r b hb)⟩

theorem State.flRegion_setRegion_same (hs : rises s.flash.regions = true) (r : Nat) (v : FlRegion) : (s.setRegion r v).flRegion r = v :=
  tget_tset_same _ _ _ _ hs

theorem State.flRegion_setRegion_ne (s : State) {r k : Nat} (v : FlRegion) (h : k ≠ r) : (s.setRegion r v).flRegion k = s.flRegion k :=
  tget_tset_ne _ _ _ _ h

variable (hs : rises s.flash.regions = true) (r : Nat) (bl : List Nat)
include hs

theorem State.rises_loseBlocks : rises (s.loseBlocks r bl).flash.regions = true := rises_tset _ _ hs

/-- Region `r` once blocks of it are lost: its list of unreadable blocks, beside what its pending update keeps. -/
theorem State.flRegion_loseBlocks_same :
    ∃ up, (s.loseBlocks r bl).flRegion r = { s.flRegion r with bad := ((s.flRegion r).bad ++ bl).eraseDups, upd := up } :=
  ⟨_, State.flRegion_setRegion_same hs r _⟩

theorem State.bad_loseBlocks {b : Nat} (hb : b ∈ bl) : b ∈ ((s.loseBlocks r bl).flRegion r).bad := by
  obtain ⟨up, h⟩ := State.flRegion_loseBlocks_same hs r bl
  rw [h]
  exact List.mem_eraseDups.2 (List.mem_append_right _ hb)

theorem State.losesOnly_loseBlocks : s.LosesOnly (s.loseBlocks r bl) := by
  obtain ⟨up, hsame⟩ := State.flRegion_loseBlocks_same hs r bl
  have hother : ∀ k, k ≠ r → (s.loseBlocks r bl).flRegion k = s.flRegion k := fun k hk => s.flRegion_setRegion_ne _ hk
  constructor
  · intro k
    by_cases hk : k = r
    · rw [hk, hsame]
    · rw [hother k hk]
  · intro k b hb
    by_cases hk : k = r
    · rw [hk] at hb ⊢
      rw [hsame]
      exact List.mem_eraseDups.2 (List.mem_append_left _ hb)
    · rwa [hother k hk]

end lose

section stripes
variable {s : State} (lost : List (Nat × List Nat))

/-- The blocks of every listed region are lost. -/
def State.loseStripes (s : State) (lost : List (Nat × List Nat)) : State := lost.foldl (fun t e => t.loseBlocks e.1 e.2) s

theorem State.losesOnly_loseStripes (hs : rises s.flash.regions = true) : s.LosesOnly (s.loseStripes lost) :=
  (List.foldlRecOn (motive := fun t : State => rises t.flash.regions = true ∧ s.LosesOnly t) lost _ ⟨hs, .of_regions rfl⟩ fun _ ht e _ =>
    ⟨State.rises_loseBlocks ht.1 e.1 e.2, ht.2.trans (State.losesOnly_loseBlocks ht.1 e.1 e.2)⟩).2

theorem State.bad_loseStripes (hs : rises s.flash.regions = true) {e : Nat × List Nat} (he : e ∈ lost) {b : Nat} (hb : b ∈ e.2) :
    b ∈ ((s.loseStripes lost).flRegion e.1).bad := by
  induction lost generalizing s with
  | nil => simp at he
  | cons x lost ih =>
    obtain rfl | hl := List.mem_cons.1 he
    · exact (State.losesOnly_loseStripes lost (State.rises_loseBlocks hs e.1 e.2)).bad e.1 b (State.bad_loseBlocks hs e.1 e.2 hb)
    · exact ih (State.rises_loseBlocks hs x.1 x.2) hl

theorem State.regs_loseStripes (s : State) : (s.loseStripes lost).regs = s.regs :=
  List.foldlRecOn (motive := fun t : State => t.regs = s.regs) lost _ rfl fun _ ht _ _ => ht

theorem State.only_loseStripes (s : State) : OnlyChanged [.flash] s (s.loseStripes lost) :=
  List.foldlRecOn (motive := fun t : State => OnlyChanged [.flash] s t) lost _ (OnlyChanged.refl _ s) fun t ht e _ =>
    ht.trans (State.loseBlocks_kept (E := fun c => c ∈ [Comp.flash]) t e.1 e.2 (Kept.refl t) (by decide)).only

end stripes

/-! ### The retention patrol (R353) -/

section patrol
variable {s : State} {region block step : Nat}

/-- Counting and recording a codeword leaves the regions. -/
theorem State.regions_codeword (s : State) (r block step : Nat) (w : NandAt) : (s.codeword r block step w).flash.regions = s.flash.regions := by
  simp [State.codeword, apply_ite State.flash, apply_ite Flash.regions, State.bump, State.setFlash]

theorem exec_retentionPatrol_rests {old : Bool} (ch lun loc : Nat) (h : (s.flRegion region).written.contains block = false ∨
      ((s.flRegion region).bad.contains block = false ∧ step < 2 ∧ old = false)) :
    exec (.retentionPatrol region block step old ch lun loc) s = .next s := by
  obtain hout | ⟨hgood, hstep, rfl⟩ := h
  · simp only [exec, execRetentionPatrol, hout, Bool.not_false, if_true]
  · simp only [exec, execRetentionPatrol, hgood, Bool.false_eq_true, if_false, State.codeword_delivered hstep, show ¬5 ≤ step by omega,
      show ¬2 ≤ step by omega, decide_false, Bool.or_self, ite_self]

/-- The place in the patrol's list of a block that it has handled is gone. -/
def State.relocated (s : State) (region block : Nat) : State := s.setFlash { s.flash with relocate := s.flash.relocate.filter (· != (region, block)) }

/-- A written block that no step reads is counted and recorded, and lost. -/
theorem exec_retentionPatrol_lost (old : Bool) (ch lun loc : Nat) (hw : (s.flRegion region).written.contains block = true) (hstep : 5 ≤ step) :
    ∃ n, exec (.retentionPatrol region block step old ch lun loc) s =
      .next (((s.codeword region block n ⟨ch, lun, loc⟩).loseBlocks region [block]).relocated region block) := by
  refine ⟨if (s.flRegion region).bad.contains block then 5 else step, ?_⟩
  have hlost : 5 ≤ if (s.flRegion region).bad.contains block then 5 else step := by split <;> omega
  generalize hn : (if (s.flRegion region).bad.contains block then 5 else step) = n at hlost
  simp only [exec, execRetentionPatrol, hw, Bool.not_true, Bool.false_eq_true, if_false, hn, hlost, if_true, show 2 ≤ n by omega, decide_true,
    Bool.or_true]
  rfl

theorem State.only_patrolLost (s : State) (n : Nat) (w : NandAt) :
    OnlyChanged (recordComps ++ [.flash]) s (((s.codeword region block n w).loseBlocks region [block]).relocated region block) :=
  (State.loseBlocks_kept (E := fun c => c ∈ recordComps ++ [Comp.flash]) _ _ _ (State.codeword_kept s region block n w (Kept.refl s) (by decide)
    (by decide) (by decide) (by decide) (by decide) (by decide) (by decide) (by decide)) (by decide)).only.setFlash _ (by decide)

end patrol

/-! ### Lost LUNs (R356, R357) -/

section luns
variable {s : State} {lun : Nat} {lost : List (Nat × List Nat)}

/-- The record of a lost LUN, of class 0x12, or 0x13 for a second one (Table 21-3). -/
def lunRec (cls lun : Nat) : Rec := { cls := cls, sev := 2, kind := 3, unit := lun / 16, sub := lun % 16, syn := lun }

/-- FLT_STATUS of a tier whose rebuild begins or has ended. -/
def State.setTier (s : State) (st lun : Nat) : State := ((s.setF F.fltStatusState 0 st).setF F.fltStatusLostlun 0 lun).setF F.fltStatusRebuild 0 0

theorem exec_lunFail_ready (h : s.getF F.fltStatusState 0 = 3) : exec (.lunFail lun) s = .next ((s.setTier 4 lun).record (lunRec 0x12 lun)) := by
  simp only [exec, execLunFail, h, if_true, State.setTier, lunRec]

theorem exec_lunFail_notReady (h : s.getF F.fltStatusState 0 ≠ 3) : exec (.lunFail lun) s = .next s := by
  simp only [exec, execLunFail, h, if_false]

theorem exec_doubleLunFail_degraded (h : s.getF F.fltStatusState 0 = 4) :
    exec (.doubleLunFail lun lost) s = .next (((s.setF F.fltStatusState 0 5).loseStripes lost).record (lunRec 0x13 lun)) := by
  simp only [exec, execDoubleLunFail, h, if_true, State.loseStripes, lunRec]

theorem exec_doubleLunFail_other (h : s.getF F.fltStatusState 0 ≠ 4) : exec (.doubleLunFail lun lost) s = .next s := by
  simp only [exec, execDoubleLunFail, h, if_false]

theorem exec_rebuildComplete_runs (h : s.getF F.fltStatusState 0 = 4 ∨ s.getF F.fltStatusState 0 = 5) :
    exec .rebuildComplete s = .next (s.setTier 3 0xFFF) := by
  simp only [exec, execRebuildComplete, Bool.or_eq_true, decide_eq_true_eq, h, if_true, State.setTier]

theorem exec_rebuildComplete_none (h4 : s.getF F.fltStatusState 0 ≠ 4) (h5 : s.getF F.fltStatusState 0 ≠ 5) : exec .rebuildComplete s = .next s := by
  simp only [exec, execRebuildComplete, h4, h5, decide_false, Bool.or_self, Bool.false_eq_true, if_false]

theorem State.only_setTier (s : State) (st lun : Nat) :
    OnlyFields [(F.fltStatusState, 0), (F.fltStatusLostlun, 0), (F.fltStatusRebuild, 0)] s (s.setTier st lun) :=
  (((OnlyFields.refl _ s).setF _ _ _ (by simp)).setF _ _ _ (by simp)).setF _ _ _ (by simp)

section set
variable (hs : rises s.regs = true) (st lun : Nat)
include hs

theorem State.state_setTier : (s.setTier st lun).getF F.fltStatusState 0 = st % 2 ^ F.fltStatusState.w :=
  (State.getF_setF_place _ _ _ _ (by decide)).trans ((State.getF_setF_place _ _ _ _ (by decide)).trans (State.getF_setF_same hs _ _ _))

theorem State.lostlun_setTier : (s.setTier st lun).getF F.fltStatusLostlun 0 = lun % 2 ^ F.fltStatusLostlun.w :=
  (State.getF_setF_place _ _ _ _ (by decide)).trans (State.getF_setF_same (State.rises_setF hs _ _ _) _ _ _)

theorem State.rebuild_setTier : (s.setTier st lun).getF F.fltStatusRebuild 0 = 0 :=
  State.getF_setF_same (State.rises_setF (State.rises_setF hs _ _ _) _ _ _) _ _ _

end set

theorem State.only_lunRecorded (s : State) (r : Rec) : OnlyChanged recordComps s ((s.setTier 4 lun).record r) :=
  ((s.only_setTier 4 lun).1.mono (by decide)).record r fun _ => id

theorem State.regs_lunRecorded (s : State) (r : Rec) : RegsKept (R.fltStatus :: recordRegs) s ((s.setTier 4 lun).record r) :=
  ((s.only_setTier 4 lun).2.regs (by decide)).trans ((State.regs_record _ _).mono fun _ => List.mem_cons_of_mem _)

theorem State.only_stripesLost (s : State) (r : Rec) : OnlyChanged (recordComps ++ [.flash]) s (((s.setF F.fltStatusState 0 5).loseStripes lost).record r) :=
  (((OnlyChanged.refl _ s).setF _ _ _ (by decide)).trans ((State.only_loseStripes lost _).mono (by decide))).record r
    fun _ => List.mem_append_left _

theorem State.state_stripesLost (hs : rises s.regs = true) (r : Rec) :
    (((s.setF F.fltStatusState 0 5).loseStripes lost).record r).getF F.fltStatusState 0 = 5 := by
  rw [(State.regs_record _ _).getF_eq (by decide), State.getF, State.regs_loseStripes]
  exact State.getF_setF_same hs _ _ _

end luns

/-- Settles O35: a retired block is taken from the spares and counted, then every region of a worn mode is marked; a wear move below the rating is one write;
the patrol and a second lost LUN add to the unreadable blocks and keep all content; FLT_STATUS follows the first loss and the end of the rebuild. -/
theorem flashMediaFaults : Obligations.FlashMediaFaults := by
  unfold Obligations.FlashMediaFaults
  intro s slc old ch lun block region step loc worst lost hs
  have hr := State.canon_regs hs
  have hregions := State.canon_regions hs
  refine ⟨?grown, fun rate hrate hbelow => ?wear, exec_retentionPatrol_rests ch lun loc, fun hw hstep => ?patrol, fun hready => ?lun,
    fun hdegraded => ?double, fun h => ?rebuild, exec_lunFail_notReady, exec_doubleLunFail_other, exec_rebuildComplete_none⟩
  case grown =>
    exact ⟨s.growBad slc ⟨ch, lun, block⟩, rfl, s.only_growBad slc _, s.flash_growBad slc _, State.grownbad_growBad slc _ hr,
      fun r hlt hty => State.worn_growBad slc _ hs hlt hty, s.regs_growBad slc _⟩
  case wear =>
    exact ⟨_, exec_wearLevelMove_below hrate hbelow, rfl, State.used_wearShown hr hbelow, s.only_wearShown _, s.fields_wearShown _⟩
  case patrol =>
    obtain ⟨n, hexec⟩ := exec_retentionPatrol_lost old ch lun loc hw hstep
    have hcoded := s.regions_codeword region block n ⟨ch, lun, loc⟩
    have hrise : rises (s.codeword region block n ⟨ch, lun, loc⟩).flash.regions = true := by rwa [hcoded]
    refine ⟨_, hexec, ?_, ?_, s.only_patrolLost n _⟩
    · exact List.contains_iff_mem.2 (State.bad_loseBlocks hrise region [block] (List.mem_singleton_self block))
    · exact ((State.losesOnly_loseBlocks hrise region [block]).data region).trans (congrArg FlRegion.data (State.flRegion_congr hcoded region))
  case lun =>
    have hkept := State.regs_record (s.setTier 4 lun) (lunRec 0x12 lun)
    exact ⟨_, exec_lunFail_ready hready, (hkept.getF_eq (by decide) 0).trans (State.state_setTier hr 4 lun),
      (hkept.getF_eq (by decide) 0).trans (State.lostlun_setTier hr 4 lun), (hkept.getF_eq (by decide) 0).trans (State.rebuild_setTier hr 4 lun),
      s.only_lunRecorded _, s.regs_lunRecorded _⟩
  case double =>
    have hflash := congrArg Flash.regions (State.flash_record ((s.setF F.fltStatusState 0 5).loseStripes lost) (lunRec 0x13 lun))
    refine ⟨_, exec_doubleLunFail_degraded hdegraded, State.state_stripesLost hr _, fun e he b hb => ?_, fun r => ?_, s.only_stripesLost _⟩
    · rw [State.flRegion_congr hflash, List.contains_iff_mem]
      exact State.bad_loseStripes (s := s.setF F.fltStatusState 0 5) lost hregions he hb
    · rw [State.flRegion_congr hflash]
      exact (State.losesOnly_loseStripes (s := s.setF F.fltStatusState 0 5) lost hregions).data r
  case rebuild =>
    exact ⟨_, exec_rebuildComplete_runs h, State.state_setTier hr 3 0xFFF, State.lostlun_setTier hr 3 0xFFF, s.only_setTier 3 0xFFF⟩

end Sys2Proof.Machine

/-!
PROOFS. Virtual functions at the registers of the device: each such access is refused, and a refusal raises ACCERR of the function alone (O6).
-/
namespace Sys2Proof.Machine

/-! ### Accesses that reach the physical function and the management bus only (R369, R560) -/

/-- The commands that stand for a write of a register of the device, of a site, of a port or of an engine. -/
def deviceWrites (acr : Acr) (e v : Nat) (b : List Byte) (on long : Bool) : List Instr :=
  [.memClear acr v, .memMargin acr v, .engdis acr e v, .erqPop acr v, .retireCluster acr v, .clearRetirementList acr v, .bundleLoad acr v b long,
    .bundleStop acr v, .partitionReset acr v, .deviceReset (some (acr, v)), .imageWrite acr v b, .raiseMinsecver acr v, .amendmentSubmit acr v b,
    .amendmentDiscard acr v, .mbPowerRequest acr on, .pwrCap acr v, .form acr v, .eyeScan acr v, .retrain acr e v, .tmbCtlSweep acr v]

section refuse
variable {s : State} {n : Nat}

/-- The outcome of a command that another row of the same register acts on, or that is refused. -/
def State.RestsOrRefuses (s : State) (acr : Acr) (o : Host.Outcome State Fault Refusal) : Prop := o = .next s ∨ o = .next (s.refuseAcc acr)

/-- A row of a register with several operations rests where another operation is named. -/
theorem State.restsOrRefuses_ite_rest (acr : Acr) (p : Prop) [Decidable p] : s.RestsOrRefuses acr (.next (if p then s else s.refuseAcc acr)) := by
  by_cases hp : p
  · exact .inl (congrArg _ (if_pos hp))
  · exact .inr (congrArg _ (if_neg hp))

/-- MEM_OPCTL has one row for margin runs and one for its other operations. -/
theorem State.restsOrRefuses_ite_refuse (acr : Acr) (p : Prop) [Decidable p] : s.RestsOrRefuses acr (.next (if p then s.refuseAcc acr else s)) := by
  by_cases hp : p
  · exact .inr (congrArg _ (if_pos hp))
  · exact .inl (congrArg _ (if_neg hp))

/-- A virtual function's write of a register of the device is refused, or names an operation of another row. -/
theorem exec_deviceWrite_virtual (s : State) (m e v : Nat) (b : List Byte) (on long : Bool) :
    ∀ i ∈ deviceWrites (.fn (m + 1)) e v b on long, s.RestsOrRefuses (.fn (m + 1)) (exec i s) := by
  simp only [deviceWrites, List.forall_mem_cons]
  exact ⟨s.restsOrRefuses_ite_rest _ _, s.restsOrRefuses_ite_refuse _ _, .inr rfl, .inr rfl, s.restsOrRefuses_ite_rest _ _, s.restsOrRefuses_ite_rest _ _,
    s.restsOrRefuses_ite_rest _ _, s.restsOrRefuses_ite_rest _ _, s.restsOrRefuses_ite_rest _ _, s.restsOrRefuses_ite_rest _ _, s.restsOrRefuses_ite_rest _ _,
    s.restsOrRefuses_ite_rest _ _, .inr rfl, .inr rfl, .inr rfl, .inr rfl, .inr rfl, .inr rfl, .inr rfl, .inr rfl, by simp⟩

end refuse

/-- Settles O6: the row is refused or rests, and what a refusal does is to raise ACCERR of the function. -/
theorem virtualFunctionsCannotControlTheDevice : Obligations.VirtualFunctionsCannotControlTheDevice := by
  unfold Obligations.VirtualFunctionsCannotControlTheDevice
  intro s t n v e b on long _ hpos _ i hi hexec
  obtain ⟨m, rfl⟩ := Nat.exists_eq_add_one.2 hpos
  have hrow := exec_deviceWrite_virtual s m e v b on long i hi
  rw [hexec] at hrow
  obtain hrests | hrefused := hrow
  · obtain rfl := Host.Outcome.next.inj hrests
    exact ⟨OnlyChanged.refl _ _, FieldsKept.refl _ _⟩
  · obtain rfl := Host.Outcome.next.inj hrefused
    exact ⟨s.only_raiseEvt _ _, s.fields_raiseEvt _ _⟩

end Sys2Proof.Machine

/-!
PROOFS. The life of contexts: creation, and reset and destroy from the request to the end (O15, O16).
-/
namespace Sys2Proof.Machine

/-! ### Frames -/

section frames
variable {s t : State} {m : List Comp}

/-- A context beside its registers rests on the table of contexts alone. -/
theorem OnlyChanged.ctx_eq (h : OnlyChanged m s t) (w : Comp.ctxs ∉ m) (x : Nat) : t.ctx x = s.ctx x := by
  have hctxs : s.ctxs = t.ctxs := h .ctxs w
  rw [State.ctx, State.ctx, hctxs]

theorem OnlyChanged.setCtx (h : OnlyChanged m s t) (x : Nat) (v : Context) (w : Comp.ctxs ∈ m) : OnlyChanged m s (t.setCtx x v) :=
  h.trans (State.setCtx_kept (E := fun c => c ∈ m) t x v (Kept.refl t) w).only

end frames

/-! ### Several fields at one index -/

/-- Two fields of the device are kept at different places. -/
def Fld.apart (f g : Fld) : Prop := f.key 0 % 32768 ≠ g.key 0 % 32768

/-- The state with fields at index `i` set, one after the other. -/
def State.setFields (s : State) (i : Nat) (l : List (Fld × Nat)) : State := l.foldl (fun t e => t.setF e.1 i e.2) s

section setFields
variable {s : State} {l : List (Fld × Nat)}

theorem State.fields_setFields (s : State) (i : Nat) (l : List (Fld × Nat)) : FieldsKept (l.map fun e => (e.1, i)) s (s.setFields i l) :=
  List.foldlRecOn (motive := fun t => FieldsKept (l.map fun e => (e.1, i)) s t) _ _ (FieldsKept.refl _ s) fun _ ht e he =>
    ht.setF e.1 i e.2 (List.mem_map_of_mem he)

theorem State.only_setFields (s : State) (i : Nat) (l : List (Fld × Nat)) : OnlyChanged [.regs] s (s.setFields i l) :=
  List.foldlRecOn (motive := fun t => OnlyChanged [.regs] s t) _ _ (OnlyChanged.refl _ s) fun _ ht e _ => ht.setF e.1 i e.2 (by decide)

/-- Each of several fields that are apart reads what was written to it. -/
theorem State.getF_setFields (hs : rises s.regs = true) (i : Nat) (hl : (l.map (·.1)).Pairwise Fld.apart) {f : Fld} {v : Nat} (hf : (f, v) ∈ l) :
    (s.setFields i l).getF f i = v % 2 ^ f.w := by
  induction l generalizing s with
  | nil => cases hf
  | cons a l ih =>
    obtain ⟨ha, hl⟩ := List.pairwise_cons.1 hl
    obtain rfl | hf := List.mem_cons.1 hf
    · have hlater := ((s.setF f i v).fields_setFields i l).getF_place (f := f) i
        (List.forall_mem_map.2 fun e he => ha e.1 (List.mem_map_of_mem he))
      exact hlater.trans (State.getF_setF_same hs f i v)
    · exact ih (State.rises_setF hs _ _ _) hl hf

end setFields

theorem bits_mod (v lo w : Nat) : bits v lo w % 2 ^ w = bits v lo w := Nat.mod_mod _ _

/-! ### The end of an operation on SHT_CTXCMD (Table 15-9) -/

section ctxOp
variable {s : State} {fn : Nat}

theorem State.fields_ctxOpEnd (s : State) (fn st : Nat) :
    FieldsKept [(F.shtCtxcmdstatStatus, fn), (F.shtCtxcmdstatBusy, fn), (F.pciEvtcauseEvt, fn)] s (s.ctxOpEnd fn st) :=
  (((FieldsKept.refl _ s).setF _ _ _ (by simp)).setF _ _ _ (by simp)).trans ((State.fields_raiseEvt _ _ _).mono (by simp))

theorem State.only_ctxOpEnd (s : State) (fn st : Nat) : OnlyChanged [.regs, .msixs, .out] s (s.ctxOpEnd fn st) :=
  (State.ctxOpEnd_kept (E := fun c => c ∈ [Comp.regs, .msixs, .out]) s fn st (Kept.refl s) (by decide) (by decide) (by decide)).only

theorem State.status_ctxOpEnd (hs : rises s.regs = true) (st : Nat) : (s.ctxOpEnd fn st).getF F.shtCtxcmdstatStatus fn = st % 256 :=
  ((State.fields_raiseEvt _ _ _).getF_place fn (by simp; decide)).trans
    ((State.getF_setF_place _ _ _ _ (by decide)).trans (State.getF_setF_same hs _ _ _))

theorem State.busy_ctxOpEnd (hs : rises s.regs = true) (st : Nat) : (s.ctxOpEnd fn st).getF F.shtCtxcmdstatBusy fn = 0 :=
  ((State.fields_raiseEvt _ _ _).getF_place fn (by simp; decide)).trans (State.getF_setF_same (State.rises_setF hs _ _ _) _ _ _)

theorem State.fields_ctxOp (s : State) (fn x st : Nat) :
    FieldsKept [(F.shtCtxcmdstatCtx, fn), (F.shtCtxcmdstatStatus, fn), (F.shtCtxcmdstatBusy, fn), (F.pciEvtcauseEvt, fn)] s (s.ctxOp fn x st) :=
  ((FieldsKept.refl _ s).setF _ _ _ (by simp)).trans ((State.fields_ctxOpEnd _ fn st).mono (by simp))

theorem State.only_ctxOp (s : State) (fn x st : Nat) : OnlyChanged [.regs, .msixs, .out] s (s.ctxOp fn x st) :=
  ((OnlyChanged.refl _ s).setF _ _ _ (by decide)).trans (State.only_ctxOpEnd _ fn st)

theorem State.status_ctxOp (hs : rises s.regs = true) (x st : Nat) : (s.ctxOp fn x st).getF F.shtCtxcmdstatStatus fn = st % 256 :=
  State.status_ctxOpEnd (State.rises_setF hs _ _ _) st

theorem State.ctx_ctxOp (hs : rises s.regs = true) (x st : Nat) : (s.ctxOp fn x st).getF F.shtCtxcmdstatCtx fn = x % 1024 :=
  ((State.fields_ctxOpEnd _ fn st).getF_place fn (by simp; decide)).trans (State.getF_setF_same hs _ _ _)

theorem State.regs_ctxOp (s : State) (fn x st : Nat) : RegsKept [R.shtCtxcmdstat, R.pciEvtcause] s (s.ctxOp fn x st) :=
  (s.fields_ctxOp fn x st).regs (by simp only [List.forall_mem_cons]; decide)

/-- The end of an operation leaves every field that is not of SHT_CTXCMDSTAT or the event cause. -/
theorem State.getF_ctxOp (s : State) (fn x st : Nat) {f : Fld} (i : Nat)
    (w : ∀ g ∈ [F.shtCtxcmdstatCtx, F.shtCtxcmdstatStatus, F.shtCtxcmdstatBusy, F.pciEvtcauseEvt], f.apart g) :
    (s.ctxOp fn x st).getF f i = s.getF f i :=
  (s.fields_ctxOp fn x st).getF_place i (by simpa [Fld.apart] using w)

end ctxOp

/-! ### Writes of SHT_CTXCMD -/

section ctxCmd
variable {s : State} {acr : Acr} {set fn : Nat}

/-- While an operation of the function runs, a further write is refused. -/
theorem State.ctxCmd_busy (hset : fnSet acr set = fn) (hfn : fn < 64) (hbusy : s.flag F.shtCtxcmdstatBusy fn = true) (k : Nat → State) :
    s.ctxCmd acr set k = s.setF F.shtCtxcmdstatStatus fn 0x8D := by
  simp only [State.ctxCmd, hset, Nat.not_le.2 hfn, if_false, hbusy, if_true]

theorem State.ctxCmd_idle (hset : fnSet acr set = fn) (hfn : fn < 64) (hbusy : s.flag F.shtCtxcmdstatBusy fn = false) (k : Nat → State) :
    s.ctxCmd acr set k = k fn := by
  simp only [State.ctxCmd, hset, Nat.not_le.2 hfn, if_false, hbusy, Bool.false_eq_true]

end ctxCmd

/-! ### The registers of a context -/

/-- The registers that a context resets with (Table 19-14). -/
def contextRegs : List Reg := [R.shtCreg, R.shtNumctl, R.shtWdog, R.sfuMode, R.rngLseed, R.rngLsalt]

theorem State.getF_clearRegs (s : State) (p : Nat → Nat → Bool) (f : Fld) (i : Nat) :
    (s.clearRegs p).getF f i = if p (f.key i / 128 % 256) (f.key i / 32768) then f.dflt i else s.getF f i :=
  tget_tclear (fun _ => f.dflt i) (fun k => p (k / 128 % 256) (k / 32768)) s.regs (f.key i)

theorem State.rises_clearRegs {s : State} (hs : rises s.regs = true) (p : Nat → Nat → Bool) : rises (s.clearRegs p).regs = true :=
  rises_tclear (fun k => p (k / 128 % 256) (k / 32768)) hs

theorem State.regs_resetCtxRegs (s : State) (x : Nat) : RegsKept contextRegs s (s.resetCtxRegs x) := fun f i hf => by
  refine (s.getF_clearRegs _ f i).trans (if_neg ?_)
  simp only [contextRegs, List.map_cons, List.map_nil, List.mem_cons, List.not_mem_nil, or_false, not_or] at hf
  obtain ⟨hcreg, hnumctl, hwdog, hmode, hlseed, hlsalt⟩ := hf
  simp [hcreg, hnumctl, hwdog, hmode, hlseed, hlsalt]

theorem State.rises_resetCtxRegs {s : State} (hs : rises s.regs = true) (x : Nat) : rises (s.resetCtxRegs x).regs = true :=
  State.rises_clearRegs hs _

/-! ### Creation (R372, Table 15-6) -/

section create
variable {s : State} {fn : Nat}

/-- The context that the descriptor of a function names. -/
def State.descCtx (s : State) (fn : Nat) : Nat := bits (s.ctxDesc fn 0 2) 0 10

/-- SHT_CTXSTAT as a creation sets it: ACTIVE, with what the descriptor gives. -/
def State.createdFields (s : State) (fn : Nat) : List (Fld × Nat) :=
  [(F.shtCtxstatState, 1), (F.shtCtxstatClass, bits (s.ctxDesc fn 2 1) 0 1), (F.shtCtxstatPart, bits (s.ctxDesc fn 2 1) 4 4),
    (F.shtCtxstatShare, bits (s.ctxDesc fn 4 2) 0 9), (F.shtCtxstatFstatus, 0), (F.shtCtxstatOwner, fn)]

/-- The context that a creation makes, beside its registers: idle, with the reaches of the descriptor. -/
def State.createdCtx (s : State) (fn : Nat) : Context :=
  { Context.free with reaches := (List.range (s.ctxDesc fn 6 1)).map fun i => s.ctxDesc fn (16 + i) 1 }

theorem State.create_eq (s : State) (fn : Nat) :
    s.create fn = ((s.resetCtxRegs (s.descCtx fn)).setFields (s.descCtx fn) (s.createdFields fn)).setCtx (s.descCtx fn) (s.createdCtx fn) := rfl

/-- CONTEXT_CREATE goes through the checks of Table 15-6, and its status is shown. -/
theorem exec_contextCreate_checks {acr : Acr} {set v : Nat} (hset : fnSet acr set = fn) (hfn : fn < 64)
    (hbusy : s.flag F.shtCtxcmdstatBusy fn = false) (hop : opOf v = 1) :
    exec (.contextCreate acr set v) s =
      .next ((if s.createStatus fn v = 0 then s.create fn else s).ctxOp fn (s.descCtx fn) (s.createStatus fn v)) := by
  simp only [exec, execContextCreate, State.ctxCmd_idle hset hfn hbusy, hop]
  rfl

theorem State.createdFields_apart (s : State) (fn : Nat) : ((s.createdFields fn).map (·.1)).Pairwise Fld.apart := by
  show [F.shtCtxstatState, F.shtCtxstatClass, F.shtCtxstatPart, F.shtCtxstatShare, F.shtCtxstatFstatus, F.shtCtxstatOwner].Pairwise Fld.apart
  unfold Fld.apart
  decide

/-- A created context shows in SHT_CTXSTAT what the creation has set, through the end of the operation. -/
theorem State.getF_created (hs : rises s.regs = true) (x st : Nat) :
    ∀ e ∈ s.createdFields fn, ((s.create fn).ctxOp fn x st).getF e.1 (s.descCtx fn) = e.2 % 2 ^ e.1.w := fun e he => by
  have hplace : ∀ f ∈ (s.createdFields fn).map (·.1),
      ∀ g ∈ [F.shtCtxcmdstatCtx, F.shtCtxcmdstatStatus, F.shtCtxcmdstatBusy, F.pciEvtcauseEvt], f.apart g := by
    show ∀ f ∈ [F.shtCtxstatState, F.shtCtxstatClass, F.shtCtxstatPart, F.shtCtxstatShare, F.shtCtxstatFstatus, F.shtCtxstatOwner], _
    unfold Fld.apart
    decide
  rw [State.getF_ctxOp _ _ _ _ _ (hplace e.1 (List.mem_map_of_mem he)), s.create_eq]
  exact State.getF_setFields (State.rises_resetCtxRegs hs _) _ (s.createdFields_apart fn) he

theorem State.regs_create (s : State) (fn : Nat) : RegsKept (R.shtCtxstat :: contextRegs) s (s.create fn) := by
  rw [s.create_eq]
  refine RegsKept.of_regs (t := (s.resetCtxRegs (s.descCtx fn)).setFields (s.descCtx fn) (s.createdFields fn)) ?_ rfl
  refine ((s.regs_resetCtxRegs _).mono fun _ => List.mem_cons_of_mem _).trans ((State.fields_setFields _ _ _).regs ?_)
  simp only [State.createdFields, List.map_cons, List.map_nil, List.forall_mem_cons]
  decide

theorem State.only_create (s : State) (fn : Nat) : OnlyChanged [.regs, .ctxs] s (s.create fn) :=
  (State.create_kept (E := fun c => c ∈ [Comp.regs, .ctxs]) s fn (Kept.refl s) (by decide) (by decide)).only

theorem State.canon_create (hs : s.canon = true) (fn : Nat) : (s.create fn).canon = true :=
  (State.create_kept (E := fun _ => True) s fn (Kept.refl s) trivial trivial).2 hs

theorem State.ctx_create_same (hs : rises s.ctxs = true) (fn : Nat) : (s.create fn).ctx (s.descCtx fn) = s.createdCtx fn := by
  have hctxs := ((s.resetCtxRegs (s.descCtx fn)).only_setFields (s.descCtx fn) (s.createdFields fn)) .ctxs (by decide)
  rw [s.create_eq]
  exact State.ctx_setCtx_same (hctxs ▸ hs) _ _

theorem State.ctx_create_ne {y : Nat} (hy : y ≠ s.descCtx fn) : (s.create fn).ctx y = s.ctx y := by
  rw [s.create_eq, State.ctx_setCtx_ne _ _ hy]
  exact (State.only_setFields _ _ _).ctx_eq (by decide) y

end create

/-- Settles O15: a passed creation sets SHT_CTXSTAT and the context, which the end of the operation leaves; a refused one is that end alone. -/
theorem contextsAreCreated : Obligations.ContextsAreCreated := by
  unfold Obligations.ContextsAreCreated
  refine ⟨fun s acr set v fn hs hset hfn hbusy hop hok => ?created, fun s acr set v fn hs hset hfn hbusy hop hbad => ?refused⟩
  case created =>
    have hcr := State.canon_regs (State.canon_create hs fn)
    have hctx := (State.only_ctxOp (s.create fn) fn (s.descCtx fn) 0).ctx_eq (by decide)
    have hstat := State.getF_created (fn := fn) (State.canon_regs hs) (s.descCtx fn) 0
    simp only [State.createdFields, List.forall_mem_cons] at hstat
    obtain ⟨hstate, hclass, hpart, hshare, hfstatus, howner, -⟩ := hstat
    rw [exec_contextCreate_checks hset hfn hbusy hop, if_pos hok, hok]
    refine ⟨_, rfl, hstate, hclass.trans (bits_mod _ _ _), hpart.trans (bits_mod _ _ _), hshare.trans (bits_mod _ _ _),
      howner.trans (Nat.mod_eq_of_lt hfn), hfstatus, ?reaches, ?status, ?shown, fun y hy => ?others, ?only, ?regs⟩
    case reaches => exact congrArg Context.reaches ((hctx _).trans (State.ctx_create_same (State.canon_ctxs hs) fn))
    case status => exact State.status_ctxOp hcr _ _
    case shown => exact (State.ctx_ctxOp hcr _ _).trans (bits_mod _ _ _)
    case others => exact (hctx y).trans (State.ctx_create_ne hy)
    case only => exact ((s.only_create fn).mono (by decide)).trans ((State.only_ctxOp _ _ _ _).mono (by decide))
    case regs => exact ((s.regs_create fn).mono (by decide)).trans ((State.regs_ctxOp _ _ _ _).mono (by decide))
  case refused =>
    rw [exec_contextCreate_checks hset hfn hbusy hop, if_neg hbad]
    exact ⟨_, rfl, State.status_ctxOp (State.canon_regs hs) _ _, State.only_ctxOp _ _ _ _, State.fields_ctxOp _ _ _ _⟩

/-! ### Reset and destroy, as they are asked for (R373, R385) -/

section asked
variable {s : State} {acr : Acr} {set v fn x : Nat} {r : CtxReset}

/-- What the row of OP `op` does once no operation of the function runs: the checks, and the reset of a context that passes them. -/
def State.resetOp (s : State) (fn v op : Nat) : State :=
  if s.resetStatus fn v != 0 then s.ctxOp fn (bits v 12 10) (s.resetStatus fn v)
  else ((s.setF F.shtCtxcmdstatCtx fn (bits v 12 10)).setF F.shtCtxcmdstatBusy fn 1).askReset (bits v 12 10) ⟨some fn, op == 2, false, []⟩

theorem State.resetCmd_busy {op : Nat} (hset : fnSet acr set = fn) (hfn : fn < 64) (hbusy : s.flag F.shtCtxcmdstatBusy fn = true) (hop : opOf v = op) :
    s.resetCmd acr set v op = s.setF F.shtCtxcmdstatStatus fn 0x8D := by
  rw [State.resetCmd, hop, bne_self_eq_false, if_neg Bool.false_ne_true, State.ctxCmd_busy hset hfn hbusy]

theorem State.resetCmd_idle {op : Nat} (hset : fnSet acr set = fn) (hfn : fn < 64) (hbusy : s.flag F.shtCtxcmdstatBusy fn = false) (hop : opOf v = op) :
    s.resetCmd acr set v op = s.resetOp fn v op := by
  rw [State.resetCmd, hop, bne_self_eq_false, if_neg Bool.false_ne_true, State.ctxCmd_idle hset hfn hbusy, State.resetOp]

theorem State.resetOp_refused {op : Nat} (h : s.resetStatus fn v ≠ 0) : s.resetOp fn v op = s.ctxOp fn (bits v 12 10) (s.resetStatus fn v) :=
  if_pos (bne_iff_ne.2 h)

theorem State.resetOp_admitted {op : Nat} (h : s.resetStatus fn v = 0) :
    s.resetOp fn v op =
      ((s.setF F.shtCtxcmdstatCtx fn (bits v 12 10)).setF F.shtCtxcmdstatBusy fn 1).askReset (bits v 12 10) ⟨some fn, op == 2, false, []⟩ :=
  if_neg (by simp [h])

theorem State.askReset_tearing (h : s.tearing x = true) : s.askReset x r = s.setCtx x { s.ctx x with reset := some { r with waits := true } } :=
  if_pos h

theorem State.askReset_starts (h : s.tearing x = false) : s.askReset x r = s.startReset x r := if_neg (by simp [h])

/-- A write of SHT_CTXCMD is refused while an operation of its function runs. -/
theorem exec_contextCreate_busy (hset : fnSet acr set = fn) (hfn : fn < 64) (hbusy : s.flag F.shtCtxcmdstatBusy fn = true) (hop : opOf v = 1) :
    exec (.contextCreate acr set v) s = .next (s.setF F.shtCtxcmdstatStatus fn 0x8D) := by
  simp only [exec, execContextCreate, State.ctxCmd_busy hset hfn hbusy, hop]
  rfl

theorem exec_queueDisable_busy (hset : fnSet acr set = fn) (hfn : fn < 64) (hbusy : s.flag F.shtCtxcmdstatBusy fn = true) (hop : opOf v = 4)
    (host : List (List Byte)) : exec (.queueDisable acr set v host) s = .next (s.setF F.shtCtxcmdstatStatus fn 0x8D) := by
  simp only [exec, execQueueDisable, State.ctxCmd_busy hset hfn hbusy, hop]
  rfl

end asked

/-! ### The end of a reset (R373, R401) -/

section finish
variable {s : State} {x : Nat} {r : CtxReset}

/-- The queues of a context skip to the tails that were sampled. -/
def State.skipTails (s : State) (x : Nat) (tails : List (Nat × Nat)) : State :=
  tails.foldl (fun t e => if t.getF F.pciQstatState e.1 == 1 && (t.queue e.1).ctx == x then t.skipTo e.1 e.2 else t) s

/-- The state of a reset whose registers and rings have been put back. -/
def State.resetSkipped (s : State) (x : Nat) (r : CtxReset) : State := ((s.resetCtxRegs x).setF F.shtCtxstatFstatus x 0).skipTails x r.tails

/-- The state after a reset, before the operation that asked for it ends. -/
def State.resetDone (s : State) (x : Nat) (r : CtxReset) : State :=
  ((s.resetSkipped x r).setF F.shtCtxstatState x (if r.destroy then 0 else 1)).setCtx x
    (if r.destroy then Context.free else { Context.free with reaches := ((s.resetSkipped x r).ctx x).reaches })

theorem State.finishReset_eq (s : State) (x : Nat) (r : CtxReset) :
    s.finishReset x r = match r.by_ with | some fn => (s.resetDone x r).ctxOpEnd fn 0 | none => s.resetDone x r := by
  obtain ⟨_, destroy, _, _⟩ := r
  cases destroy <;> rfl

theorem State.regs_skipTails (s : State) (x : Nat) (tails : List (Nat × Nat)) : RegsKept [R.pciQstat] s (s.skipTails x tails) :=
  RegsKept.foldl _ (fun t e => RegsKept.ite (((RegsKept.refl _ t).setF _ _ _ (by decide)).setF _ _ _ (by decide)) (RegsKept.refl _ t)) _
    (RegsKept.refl _ s)

theorem State.skipTails_kept {E : Comp → Prop} {s0 : State} (s : State) (x : Nat) (tails : List (Nat × Nat)) (h : Kept E s0 s) (w : E .regs) :
    Kept E s0 (s.skipTails x tails) := by
  unfold State.skipTails
  exact kept_foldl _ (fun t e ht => kept_ite (State.skipTo_kept t e.1 e.2 ht w) ht) _ h

theorem State.resetSkipped_kept (s : State) (x : Nat) (r : CtxReset) : Kept (fun c => c ∈ [Comp.regs]) s (s.resetSkipped x r) :=
  State.skipTails_kept _ _ _ (State.setF_kept _ _ _ _ (State.resetCtxRegs_kept s x (Kept.refl s) (by decide)) (by decide)) (by decide)

theorem State.ctx_resetSkipped (s : State) (x : Nat) (r : CtxReset) (y : Nat) : (s.resetSkipped x r).ctx y = s.ctx y :=
  (s.resetSkipped_kept x r).only.ctx_eq (by decide) y

theorem State.state_resetDone (hs : s.canon = true) (x : Nat) (r : CtxReset) :
    (s.resetDone x r).getF F.shtCtxstatState x = if r.destroy then 0 else 1 := by
  refine (State.getF_setF_same (State.canon_regs ((s.resetSkipped_kept x r).2 hs)) _ _ _).trans ?_
  split <;> rfl

theorem State.fstatus_resetDone (hs : rises s.regs = true) (x : Nat) (r : CtxReset) : (s.resetDone x r).getF F.shtCtxstatFstatus x = 0 :=
  (State.getF_setF_place _ _ _ _ (by decide)).trans
    (((State.regs_skipTails _ x r.tails).getF_eq (by decide) x).trans (State.getF_setF_same (State.rises_resetCtxRegs hs x) _ _ _))

theorem State.ctx_resetDone_same (hs : s.canon = true) (x : Nat) (r : CtxReset) :
    (s.resetDone x r).ctx x = if r.destroy then Context.free else { Context.free with reaches := (s.ctx x).reaches } := by
  rw [State.resetDone, s.ctx_resetSkipped x r]
  exact State.ctx_setCtx_same (State.canon_ctxs ((s.resetSkipped_kept x r).2 hs)) _ _

theorem State.ctx_resetDone_ne (r : CtxReset) {y : Nat} (hy : y ≠ x) : (s.resetDone x r).ctx y = s.ctx y :=
  (State.ctx_setCtx_ne _ _ hy).trans (s.ctx_resetSkipped x r y)

theorem State.rises_resetDone (hs : s.canon = true) (x : Nat) (r : CtxReset) : rises (s.resetDone x r).regs = true :=
  State.rises_setF (State.canon_regs ((s.resetSkipped_kept x r).2 hs)) _ _ _

/-- The end of the operation that asked for a reset leaves the context. -/
theorem State.finishReset_frame (s : State) (x : Nat) (r : CtxReset) :
    RegsKept [R.shtCtxcmdstat, R.pciEvtcause] (s.resetDone x r) (s.finishReset x r) ∧ ∀ y, (s.finishReset x r).ctx y = (s.resetDone x r).ctx y := by
  rw [s.finishReset_eq]
  cases r.by_ with
  | none => exact ⟨RegsKept.refl _ _, fun _ => rfl⟩
  | some fn => exact ⟨(State.fields_ctxOpEnd _ fn 0).regs (by simp only [List.forall_mem_cons]; decide), (State.only_ctxOpEnd _ fn 0).ctx_eq (by decide)⟩

theorem State.cmdstat_finishReset (hs : s.canon = true) {fn : Nat} (h : r.by_ = some fn) :
    (s.finishReset x r).getF F.shtCtxcmdstatStatus fn = 0 ∧ (s.finishReset x r).getF F.shtCtxcmdstatBusy fn = 0 := by
  rw [s.finishReset_eq, h]
  exact ⟨State.status_ctxOpEnd (State.rises_resetDone hs x r) 0, State.busy_ctxOpEnd (State.rises_resetDone hs x r) 0⟩

/-- A reset that has begun ends once no agent operation of its commands still runs. -/
theorem exec_contextResetEnd (hreset : (s.ctx x).reset = some r) (hbegun : r.waits = false) (hstate : s.getF F.shtCtxstatState x = 3) :
    exec (.contextResetEnd x) s = .next (if s.orphans (s.partOf x) = true then s else s.finishReset x r) := by
  have hbegin : s.beginWaiting x = s := by simp [State.beginWaiting, hreset, hbegun]
  simp only [exec, execContextResetEnd, hbegin, hreset, hbegun, hstate, bne_self_eq_false, Bool.false_or]

end finish

/-- Settles O16: a write of SHT_CTXCMD goes through BUSY, then the checks, then the teardown that a reset waits for; the end of a reset sets the state of the
context and its entry, and the end of the operation that asked for it leaves both. -/
theorem contextsAreReset : Obligations.ContextsAreReset := by
  unfold Obligations.ContextsAreReset
  refine ⟨fun s acr set v fn host hset hfn hbusy => ?busy, fun s acr set v fn hset hfn hidle => ?asked, fun s x r hs hreset hbegun hstate => ?finish⟩
  case busy =>
    exact ⟨exec_contextCreate_busy hset hfn hbusy, fun hop => congrArg _ (State.resetCmd_busy hset hfn hbusy hop),
      fun hop => congrArg _ (State.resetCmd_busy hset hfn hbusy hop), fun hop => exec_queueDisable_busy hset hfn hbusy hop host⟩
  case asked =>
    have hrow : ∀ r ∈ [(Instr.contextDestroy acr set v, 2, true), (Instr.contextReset acr set v, 3, false)],
        opOf v = r.2.1 → exec r.1 s = .next (s.resetOp fn v r.2.1) ∧ (r.2.1 == 2) = r.2.2 := by
      simp only [List.forall_mem_cons]
      exact ⟨fun hop => ⟨congrArg _ (State.resetCmd_idle hset hfn hidle hop), rfl⟩,
        fun hop => ⟨congrArg _ (State.resetCmd_idle hset hfn hidle hop), rfl⟩, by simp⟩
    intro x u r hr hop
    obtain ⟨hexec, hdestroy⟩ := hrow r hr hop
    rw [hexec]
    refine ⟨fun hbad => congrArg _ (State.resetOp_refused hbad), fun hok hwaits => congrArg _ ?_, fun hok hfree => congrArg _ ?_⟩
    · rw [State.resetOp_admitted hok, State.askReset_tearing hwaits, hdestroy]
    · rw [State.resetOp_admitted hok, State.askReset_starts hfree, hdestroy]
      rfl
  case finish =>
    rw [exec_contextResetEnd hreset hbegun hstate]
    refine ⟨fun hruns => congrArg _ (if_pos hruns), fun hdone => ?_⟩
    obtain ⟨hregs, hctx⟩ := s.finishReset_frame x r
    refine ⟨_, congrArg _ (if_neg (by simp [hdone])), ?_, ?_, ?_, fun y hy => ?_, fun fn hfn => State.cmdstat_finishReset hs hfn⟩
    · rw [hregs.getF_eq (by decide), State.state_resetDone hs]
    · rw [hregs.getF_eq (by decide), State.fstatus_resetDone (State.canon_regs hs)]
    · rw [hctx, State.ctx_resetDone_same hs]
    · rw [hctx, State.ctx_resetDone_ne r hy]

end Sys2Proof.Machine

/-!
PROOFS. What the ends of commands and of frames leave in the registers: the frames on which the resets of Chapter 19 rest.
-/
namespace Sys2Proof.Machine

/-! ### Registers that an end may change -/

/-- The registers that the end of a command or of a frame may change: those of an access to device memory, the trace pointers, the token counters,
the streams and the engines' counts. CQTAIL of a queue, which moves as well, stands in a register with fields that stay. -/
def endRegs : List Reg := memoryRegs ++ [R.cntTrptr, R.shtTok, R.cdcSstat, R.cdcEcnt]

/-- From `s` to `t` every field reads the same, but for those of `endRegs` and CQTAIL of the queues. -/
def EndKept (s t : State) : Prop :=
  ∀ g i, g.key 0 / 128 % 256 ∉ endRegs.map (·.idx) → g.apart F.pciQstatCqtail → t.getF g i = s.getF g i

section endKept
variable {s t u : State}

theorem EndKept.refl (s : State) : EndKept s s := fun _ _ _ _ => rfl

theorem EndKept.trans (h : EndKept s t) (k : EndKept t u) : EndKept s u := fun g i hr hq => (k g i hr hq).trans (h g i hr hq)

theorem RegsKept.endKept {rs : List Reg} (h : RegsKept rs s t) (w : ∀ r ∈ rs, r ∈ endRegs) : EndKept s t := fun _ i hr _ =>
  (h.mono w).getF_eq hr i

theorem EndKept.of_regs (h : EndKept s t) (e : u.regs = t.regs) : EndKept s u :=
  h.trans (((RegsKept.refl endRegs t).of_regs e).endKept fun _ => id)

theorem EndKept.setF (h : EndKept s t) (f : Fld) (i v : Nat) (w : f.key 0 / 128 % 256 ∈ endRegs.map (·.idx)) : EndKept s (t.setF f i v) :=
  h.trans (((RegsKept.refl endRegs t).setF f i v w).endKept fun _ => id)

theorem EndKept.setCqtail (h : EndKept s t) (q v : Nat) : EndKept s (t.setF F.pciQstatCqtail q v) :=
  h.trans fun _ j _ hq => t.getF_setF_place q j v hq

theorem EndKept.ite {c : Prop} [Decidable c] (h : EndKept s t) (k : EndKept s u) : EndKept s (if c then t else u) := by
  split
  · exact h
  · exact k

theorem EndKept.foldl {α : Type} (f : State → α → State) (hf : ∀ v a, EndKept v (f v a)) (l : List α) (h : EndKept s t) : EndKept s (l.foldl f t) :=
  List.foldlRecOn (motive := fun v => EndKept s v) _ _ h fun v hv a _ => hv.trans (hf v a)

/-- The states of contexts are not among what an end may change. -/
theorem EndKept.ctxstate_eq (h : EndKept s t) (x : Nat) : t.getF F.shtCtxstatState x = s.getF F.shtCtxstatState x :=
  h F.shtCtxstatState x (by decide) (by unfold Fld.apart; decide)

/-- The states of queues are not among what an end may change. -/
theorem EndKept.queueState_eq (h : EndKept s t) (q : Nat) : t.getF F.pciQstatState q = s.getF F.pciQstatState q :=
  h F.pciQstatState q (by decide) (by unfold Fld.apart; decide)

end endKept

/-! ### Writes to device memory (R294, R325) -/

section write
variable (s : State)

theorem State.regs_writeWord (a : Nat) (bs : List Byte) : RegsKept memoryRegs s (s.writeWord a bs) := by
  have hcount := s.regs_countWrite (a / 64)
  unfold State.writeWord
  refine hcount.ite (RegsKept.ite ?whole ?merged)
  case whole => exact hcount.of_regs (State.putBytes_regs _ a bs)
  case merged => exact (hcount.trans (State.regs_decodeWord _ _ 1)).of_regs (State.putBytes_regs _ a bs)

theorem State.regs_writeFrom (fuel a : Nat) (bs : List Byte) : RegsKept memoryRegs s (s.writeFrom fuel a bs) := by
  induction fuel generalizing s a bs with
  | zero => exact RegsKept.refl _ s
  | succ f ih => exact (RegsKept.refl _ s).ite ((s.regs_writeWord a _).trans (ih _ _ _))

theorem State.endKept_writeBytes (a : Nat) (bs : List Byte) : EndKept s (s.writeBytes a bs) := (s.regs_writeFrom _ a bs).endKept (by decide)

theorem State.endKept_readWords (ws : List Nat) : EndKept s (s.readWords ws) := (s.regs_readWords ws).endKept (by decide)

end write

/-! ### The end of a command (R118, R120, R399, R534) -/

section command
variable (s : State) (c : Cmd)

theorem State.regs_queueMsg (q : Nat) : (s.queueMsg q).regs = s.regs := State.regs_sendMsix _ _ _

theorem State.endKept_trace (kind status : Nat) (tail : List Byte) : EndKept s (s.trace c kind status tail) := by
  unfold State.trace
  extract_lets p layer ev t n tl full body w
  have ht : EndKept s t := (EndKept.refl s).of_regs rfl
  have hw : EndKept s w := ht.trans (t.endKept_writeBytes _ _)
  exact (EndKept.refl s).ite ((ht.setF _ _ _ (by decide)).ite (((hw.setF _ _ _ (by decide)).ite hw).setF _ _ _ (by decide)))

theorem State.endKept_traceEnd : EndKept s (s.traceEnd c) := State.endKept_trace (s.bumpFresh 8) c _ _ _

theorem State.endKept_putRecord (q : Nat) (r : List Byte) : EndKept s (s.putRecord q r) := by
  unfold State.putRecord
  extract_lets u tl a b t w v
  have ht : EndKept s t := (s.endKept_writeBytes a b).ite ((EndKept.refl s).of_regs rfl)
  have hw : EndKept s w := ht.setCqtail q (tl + 1)
  have hv : EndKept s v := hw.of_regs rfl
  exact ((hv.of_regs (v.regs_queueMsg q)).ite hv).ite hw

theorem State.endKept_oweRecord (q id : Nat) (r : List Byte) : EndKept s (s.oweRecord q id r) :=
  (s.endKept_putRecord q r).ite ((EndKept.refl s).of_regs rfl)

theorem State.endKept_finishCmd : EndKept s (s.finishCmd c) :=
  ((s.endKept_oweRecord c.q c.id (s.cmdRecord c)).ite (EndKept.refl s)).of_regs rfl

theorem State.endKept_endAs (status : Nat) : EndKept s (s.endAs c status) := (s.endKept_traceEnd _).trans (State.endKept_finishCmd _ _)

theorem State.regs_stopEngines (ids : List Nat) : (s.stopEngines ids).regs = s.regs :=
  ((State.stopEngines_kept (E := fun c => c ∈ [Comp.flash, .ports]) s ids (Kept.refl s) (by decide) (by decide)).only .regs (by decide)).symm

theorem State.regs_pruneFences : s.pruneFences.regs = s.regs := rfl

theorem State.getF_pruneFences (f : Fld) (i : Nat) : s.pruneFences.getF f i = s.getF f i := rfl

/-- The commands of a context end without a change of any context's state. -/
theorem State.endKept_abortCtx (x : Nat) : EndKept s (s.abortCtx x) := by
  unfold State.abortCtx
  extract_lets cs t
  have ht : EndKept s t := EndKept.foldl _ (fun v d => v.endKept_endAs d 0x0F) _ (EndKept.refl s)
  have hstopped : EndKept s (t.stopEngines (cs.map (·.id))) := ht.of_regs (t.regs_stopEngines _)
  exact hstopped.of_regs (State.regs_pruneFences _)

end command

/-! ### The end of a stream and of a frame (R442, R455) -/

section stream
variable (s : State) (n : Nat)

theorem State.endKept_putStream (v : Stream) : EndKept s (s.putStream n v) := EndKept.setF ((EndKept.refl s).of_regs rfl) _ _ _ (by decide)

theorem State.endKept_restServed (e : Nat) : EndKept s (s.restServed e) := EndKept.ite ((EndKept.refl s).of_regs rfl) (EndKept.refl s)

theorem State.endKept_freeTheStream : EndKept s (s.freeTheStream n) := by
  unfold State.freeTheStream
  extract_lets t
  have ht : EndKept s t := by
    refine EndKept.foldl _ (fun v e => ?_) _ (EndKept.refl s)
    exact EndKept.ite ((EndKept.refl v).of_regs rfl) (EndKept.refl v)
  exact ((ht.setF _ _ _ (by decide)).trans (State.endKept_putStream _ _ _)).trans (State.endKept_restServed _ _)

theorem State.endKept_autoClose : EndKept s (s.autoClose n) := (s.endKept_freeTheStream n).ite (EndKept.refl s)

theorem State.regs_streamMsg : (s.streamMsg n).regs = s.regs := State.regs_sendMsix _ _ _

theorem State.endKept_addToken (t v : Nat) : EndKept s (s.addToken t v) := ((EndKept.refl s).setF _ _ _ (by decide)).of_regs rfl

theorem State.endKept_putFrameRecord (w : WaitFrame) : EndKept s (s.putFrameRecord n w) := by
  unfold State.putFrameRecord
  extract_lets v late b0 b t tl a t2 t3 t4 v4 t5
  have ht : EndKept s t := ((EndKept.refl s).setF _ _ _ (by decide)).ite (EndKept.refl s)
  have ht2 : EndKept s t2 := (ht.trans (t.endKept_writeBytes a b)).ite (ht.of_regs rfl)
  have ht3 : EndKept s t3 := ht2.setF _ _ _ (by decide)
  have ht4 : EndKept s t4 := by
    unfold t4
    split
    · exact ht3.trans (t3.endKept_addToken _ _)
    · exact ht3
  have ht5 : EndKept s t5 := ht4.of_regs rfl
  exact ((ht5.of_regs (t5.regs_streamMsg n)).ite ht5).ite ht4

theorem State.endKept_oweFrame (w : WaitFrame) : EndKept s (s.oweFrame n w) :=
  (s.endKept_putFrameRecord n w).ite ((EndKept.refl s).of_regs rfl)

theorem State.endKept_endFrame (f : Frame) (status outlen : Nat) (outputs : List (Nat × Nat)) : EndKept s (s.endFrame n f status outlen outputs) := by
  unfold State.endFrame
  extract_lets v e idle t g sig w
  have ht : EndKept s t := by
    unfold t
    exact EndKept.ite ((EndKept.refl s).of_regs rfl) (EndKept.refl s)
  have hw : EndKept s w := (ht.trans (t.endKept_putStream n _)).trans (State.endKept_restServed _ e)
  exact (hw.trans (w.endKept_oweFrame n _)).trans (State.endKept_autoClose _ n)

theorem State.endKept_disableStream : EndKept s (s.disableStream n) := by
  unfold State.disableStream
  split
  · exact EndKept.refl s
  · extract_lets v t
    have ht : EndKept s t := EndKept.of_regs ((EndKept.refl s).setF F.cdcSstatState n 2 (by decide)) rfl
    split
    · exact ht.ite (ht.trans (t.endKept_endFrame n _ _ _ _))
    · exact ht.trans (t.endKept_autoClose n)

end stream

/-! ### Disabling a queue (R121) -/

section queue
variable {s : State}

theorem State.queueState_skipTo (s : State) (q tail k : Nat) : (s.skipTo q tail).getF F.pciQstatState k = s.getF F.pciQstatState k :=
  (State.getF_setF_place _ _ _ _ (by decide)).trans (State.getF_setF_place _ _ _ _ (by decide))

theorem State.queueState_endRing (s : State) (q : Nat) (host : List (List Byte)) (k : Nat) :
    (s.endRing q host).getF F.pciQstatState k = s.getF F.pciQstatState k := by
  unfold State.endRing
  extract_lets u h n t
  have ht : EndKept s t := EndKept.foldl _ (fun v i => by
    extract_lets seq b w c
    have hw : EndKept v w := (v.endKept_readWords _).ite (EndKept.refl v)
    exact (hw.of_regs (u := { w with nextCmd := w.nextCmd + 1 }) rfl).trans (State.endKept_endAs _ _ _)) _ (EndKept.refl s)
  exact (State.getF_setF_place _ _ _ _ (by decide)).trans (ht.queueState_eq k)

/-- Disabling a queue makes it DISABLED and leaves the state of every other queue. -/
theorem State.queueState_disableQueue (hs : rises s.regs = true) (q : Nat) (host : List (List Byte)) (k : Nat) :
    (s.disableQueue q host).getF F.pciQstatState k = if k = q then 2 else s.getF F.pciQstatState k := by
  have hset : (s.setF F.pciQstatState q 2).getF F.pciQstatState k = if k = q then 2 else s.getF F.pciQstatState k := by
    split
    · next hk => exact hk ▸ State.getF_setF_same hs _ _ _
    · next hk => exact s.getF_setF_inst _ _ hk
  unfold State.disableQueue
  extract_lets x t old u w
  have hu : u.getF F.pciQstatState k = t.getF F.pciQstatState k := by
    unfold u
    split
    · split
      · exact (State.setCtx_getF _ _ _ _ _).trans (t.queueState_skipTo _ _ k)
      · rfl
    · rfl
  have hw : EndKept u w := EndKept.foldl _ (fun v c => v.endKept_endAs c 0x0E) _ (EndKept.refl u)
  rw [State.getF_pruneFences, w.queueState_endRing q host k, hw.queueState_eq k, hu]
  exact hset

end queue

end Sys2Proof.Machine

/-!
PROOFS. Resets: a partition reset from its request to its end, a function-level reset, and the start of a device reset (O51).
-/
namespace Sys2Proof.Machine

/-! ### Contexts become FREE with their partition (Table 19-14) -/

section freeCtx
variable {s : State}

/-- The state of a context after its commands have ended and its registers are put back. -/
def State.ctxCleared (s : State) (x : Nat) : State := (((s.abortCtx x).resetCtxRegs x).setF F.shtCtxstatFstatus x 0).setF F.shtCtxstatState x 0

theorem State.freeCtx_eq (s : State) (x : Nat) :
    s.freeCtx x = match (s.ctx x).reset.bind (·.by_) with
      | some fn => ((s.ctxCleared x).setCtx x Context.free).ctxOpEnd fn 0
      | none => (s.ctxCleared x).setCtx x Context.free := rfl

theorem State.canon_abortCtx (hs : s.canon = true) (x : Nat) : (s.abortCtx x).canon = true :=
  (State.abortCtx_kept (E := fun _ => True) s x (Kept.refl s) trivial trivial trivial trivial trivial trivial trivial trivial trivial trivial trivial
    trivial trivial trivial trivial trivial trivial).2 hs

theorem State.canon_freeCtx (hs : s.canon = true) (x : Nat) : (s.freeCtx x).canon = true :=
  (State.freeCtx_kept (E := fun _ => True) s x (Kept.refl s) trivial trivial trivial trivial trivial trivial trivial trivial trivial trivial trivial
    trivial trivial trivial trivial trivial trivial trivial).2 hs

theorem State.ctxstate_ctxCleared (hs : s.canon = true) (x y : Nat) :
    (s.ctxCleared x).getF F.shtCtxstatState y = if y = x then 0 else s.getF F.shtCtxstatState y := by
  have hr := State.canon_regs (State.canon_abortCtx hs x)
  split
  · next hy => exact hy ▸ State.getF_setF_same (State.rises_setF (State.rises_resetCtxRegs hr x) _ _ _) _ _ _
  · next hy =>
    calc (s.ctxCleared x).getF F.shtCtxstatState y
      _ = (((s.abortCtx x).resetCtxRegs x).setF F.shtCtxstatFstatus x 0).getF F.shtCtxstatState y := State.getF_setF_inst _ _ _ hy
      _ = ((s.abortCtx x).resetCtxRegs x).getF F.shtCtxstatState y := State.getF_setF_place _ _ _ _ (by decide)
      _ = (s.abortCtx x).getF F.shtCtxstatState y := (State.regs_resetCtxRegs _ x).getF_eq (by decide) y
      _ = s.getF F.shtCtxstatState y := (s.endKept_abortCtx x).ctxstate_eq y

/-- A freed context is FREE, and every other context keeps its state. -/
theorem State.ctxstate_freeCtx (hs : s.canon = true) (x y : Nat) :
    (s.freeCtx x).getF F.shtCtxstatState y = if y = x then 0 else s.getF F.shtCtxstatState y := by
  rw [s.freeCtx_eq]
  split
  · exact ((State.fields_ctxOpEnd _ _ _).getF_place y (by simp only [List.forall_mem_cons]; decide)).trans
      ((State.setCtx_getF _ _ _ _ _).trans (State.ctxstate_ctxCleared hs x y))
  · exact (State.setCtx_getF _ _ _ _ _).trans (State.ctxstate_ctxCleared hs x y)

theorem State.canon_freeCtxs (hs : s.canon = true) (l : List Nat) : (l.foldl State.freeCtx s).canon = true :=
  List.foldlRecOn (motive := fun t : State => t.canon = true) _ _ hs fun _ ht x _ => State.canon_freeCtx ht x

theorem State.ctxstate_freeCtxs_free (hs : s.canon = true) (l : List Nat) {y : Nat} (hy : s.getF F.shtCtxstatState y = 0) :
    (l.foldl State.freeCtx s).getF F.shtCtxstatState y = 0 := by
  induction l generalizing s with
  | nil => exact hy
  | cons x l ih =>
    refine ih (State.canon_freeCtx hs x) ?_
    rw [State.ctxstate_freeCtx hs x y, hy, ite_self]

/-- Contexts that are freed one after the other are all FREE in the end. -/
theorem State.ctxstate_freeCtxs (hs : s.canon = true) {l : List Nat} {y : Nat} (hy : y ∈ l) :
    (l.foldl State.freeCtx s).getF F.shtCtxstatState y = 0 := by
  induction l generalizing s with
  | nil => cases hy
  | cons x l ih =>
    obtain rfl | hy := List.mem_cons.1 hy
    · exact State.ctxstate_freeCtxs_free (State.canon_freeCtx hs y) l (by rw [State.ctxstate_freeCtx hs y y, if_pos rfl])
    · exact ih (State.canon_freeCtx hs x) hy

end freeCtx

/-! ### The end of a partition reset (R474, Table 19-14) -/

section partition
variable {s : State} {p : Nat}

/-- Queues become FREE. -/
def State.freeQueues (s : State) (qs : List Nat) : State := qs.foldl (fun (t : State) q => (t.setF F.pciQstatState q 0).setQueue q Queue.free) s

/-- The registers of a partition take their reset values, and its events are numbered from 0 again. -/
def State.clearPartition (s : State) (p : Nat) : State := { s with regs := tclear (s.partKey p) s.regs, evseq := tset (fun _ => 0) s.evseq p 0 }

/-- The units of a partition are reset: clusters, agent, reads of its agent, streams, pending updates of its regions. -/
def State.resetUnits (s : State) (p : Nat) : State :=
  let t := (s.clusters.filter fun e => s.hasReach p (clusterReach e.1)).foldl (fun (t : State) e => t.setCluster e.1 { t.cluster e.1 with image := [] }) s
  let t := (t.setAgent p Agent.fresh).setFlash { t.flash with jobs := t.flash.jobs.filter fun j => j.who != .fetch p }
  let t := (t.streamsBy fun n _ => t.streamState n != 0 && t.getF F.cdcSstatPart n == p).foldl State.freeTheStream t
  t.dropUpdates fun r => t.getF F.fltRgninfoOwner r == p

theorem State.resetPartition_eq (s : State) (p : Nat) :
    s.resetPartition p = ((((s.ctxsIn p).foldl State.freeCtx s).freeQueues (s.queuesIn p)).clearPartition p).resetUnits p := rfl

theorem State.regs_freeQueues (s : State) (qs : List Nat) : RegsKept [R.pciQstat] s (s.freeQueues qs) := by
  refine RegsKept.foldl _ (fun t q => ?_) _ (RegsKept.refl _ s)
  exact RegsKept.of_regs ((RegsKept.refl [R.pciQstat] t).setF F.pciQstatState q 0 (by decide)) (State.setQueue_regs _ _ _)

theorem State.canon_freeQueues (hs : s.canon = true) (qs : List Nat) : (s.freeQueues qs).canon = true := by
  refine (kept_foldl (E := fun _ => True) _ (fun t q ht => ?_) qs (Kept.refl s)).2 hs
  exact State.setQueue_kept _ _ _ (State.setF_kept _ _ _ _ ht trivial) trivial

/-- SHT_CTXSTAT resets with the device, not with a partition (Table 15-10). -/
theorem State.partKey_ctxstate (s : State) (p x : Nat) : s.partKey p (F.shtCtxstatState.key x) = false := by
  have hreg : F.shtCtxstatState.key x / 128 % 256 = R.shtCtxstat.idx := by
    show (30 + 128 * 94 + 32768 * x) / 128 % 256 = 94
    omega
  have hfind : (allRegs.find? fun r => r.idx == R.shtCtxstat.idx) = some R.shtCtxstat := by decide
  have hscope : (R.shtCtxstat.scope == .partition) = false ∧ (R.shtCtxstat.scope == .devPart) = false := by decide
  simp only [State.partKey, hreg, hfind, hscope, Bool.false_eq_true, if_false, Bool.false_and, Bool.and_false]

theorem State.ctxstate_clearPartition (s : State) (p x : Nat) :
    (s.clearPartition p).getF F.shtCtxstatState x = s.getF F.shtCtxstatState x := by
  have hread := tget_tclear (fun _ => F.shtCtxstatState.dflt x) (s.partKey p) s.regs (F.shtCtxstatState.key x)
  rw [s.partKey_ctxstate p x] at hread
  exact hread

theorem State.regs_dropUpdate (s : State) (r : Nat) : RegsKept [R.fltRgnver, R.fltRgninfo, R.fltHup] s (s.dropUpdate r) := by
  unfold State.dropUpdate
  extract_lets v t u old w
  have hw : RegsKept [R.fltRgnver, R.fltRgninfo, R.fltHup] s w := (RegsKept.refl _ s).of_regs rfl
  exact ((hw.setF F.fltRgnverBuilding r 0 (by decide)).setF F.fltRgninfoPend r 0 (by decide)).setF F.fltHupStaged 0 _ (by decide)

theorem State.regs_dropUpdates (s : State) (f : Nat → Bool) : RegsKept [R.fltRgnver, R.fltRgninfo, R.fltHup] s (s.dropUpdates f) := by
  unfold State.dropUpdates
  refine RegsKept.foldl _ (fun t e => ?_) _ (RegsKept.refl _ s)
  split
  · exact t.regs_dropUpdate e.1
  · exact RegsKept.refl _ t

theorem State.ctxstate_resetUnits (s : State) (p x : Nat) : (s.resetUnits p).getF F.shtCtxstatState x = s.getF F.shtCtxstatState x := by
  unfold State.resetUnits
  extract_lets t src u w
  have ht : EndKept s t := EndKept.foldl _ (fun v e => (EndKept.refl v).of_regs (State.setCluster_regs _ _ _)) _ (EndKept.refl s)
  have hu : EndKept s u := ht.of_regs ((State.setFlash_regs _ _).trans (State.setAgent_regs _ _ _))
  have hw : EndKept s w := EndKept.foldl _ (fun v n => v.endKept_freeTheStream n) _ hu
  exact ((w.regs_dropUpdates _).getF_eq (by decide) x).trans (hw.ctxstate_eq x)

theorem State.resetUnits_kept (s : State) (p : Nat) :
    Kept (fun c => c ∈ [Comp.regs, .clusters, .agents, .flash, .streams, .engines]) s (s.resetUnits p) := by
  unfold State.resetUnits
  extract_lets t src u w
  have ht := kept_foldl (E := fun c => c ∈ [Comp.regs, .clusters, .agents, .flash, .streams, .engines]) _
    (fun v (e : Nat × Cluster) h => State.setCluster_kept v e.1 { v.cluster e.1 with image := [] } h (by decide))
    (s.clusters.filter fun e => s.hasReach p (clusterReach e.1)) (Kept.refl s)
  have hu := State.setFlash_kept { (t.setAgent p Agent.fresh).flash with jobs := t.flash.jobs.filter fun j => j.who != .fetch p }
    (State.setAgent_kept t p Agent.fresh ht (by decide)) id (by decide)
  have hw := kept_foldl _ (fun v n h => State.freeTheStream_kept v n h (by decide) (by decide) (by decide))
    (u.streamsBy fun n _ => u.streamState n != 0 && u.getF F.cdcSstatPart n == p) hu
  exact State.dropUpdates_kept w _ hw (by decide) (by decide)

theorem State.canon_clearPartition (hs : s.canon = true) (p : Nat) : (s.clearPartition p).canon = true :=
  (kept_regs_evseq (E := fun _ => True) _ _ (Kept.refl s) (rises_tclear _) (rises_tset _ _) trivial trivial).2 hs

/-- The state of a partition reset before its units are reset. -/
def State.partitionFreed (s : State) (p : Nat) : State := ((s.ctxsIn p).foldl State.freeCtx s).freeQueues (s.queuesIn p)

theorem State.canon_partitionFreed (hs : s.canon = true) (p : Nat) : (s.partitionFreed p).canon = true :=
  State.canon_freeQueues (State.canon_freeCtxs hs _) _

theorem State.canon_resetPartition (hs : s.canon = true) (p : Nat) : (s.resetPartition p).canon = true :=
  (State.resetUnits_kept _ p).2 (State.canon_clearPartition (State.canon_partitionFreed hs p) p)

/-- The contexts of the partition are FREE after its reset. -/
theorem State.ctxstate_resetPartition (hs : s.canon = true) {x : Nat} (hx : x ∈ s.ctxsIn p) :
    (s.resetPartition p).getF F.shtCtxstatState x = 0 := by
  rw [s.resetPartition_eq, State.ctxstate_resetUnits, State.ctxstate_clearPartition, (State.regs_freeQueues _ _).getF_eq (by decide)]
  exact State.ctxstate_freeCtxs hs hx

/-- The trace events of the partition are numbered from 0 after its reset. -/
theorem State.evseq_resetPartition (hs : s.canon = true) (p : Nat) : tget (fun _ => 0) (s.resetPartition p).evseq p = 0 := by
  have hunits : ((s.partitionFreed p).clearPartition p).evseq = (s.resetPartition p).evseq := (State.resetUnits_kept _ p).only .evseq (by decide)
  rw [← hunits]
  exact tget_tset_same _ _ _ _ (State.canon_iff.1 (State.canon_partitionFreed hs p)).2.2.2.2.2.2.2.2.1

/-- The end of a partition reset shows status 0 and no operation under way. -/
def State.partitionDone (s : State) (p : Nat) : State :=
  (((s.resetPartition p).setBoot { (s.resetPartition p).boot with partReset := none }).rstStatus 0).setF F.hbmRststatBusy 0 0

theorem exec_partitionResetEnd_runs (h : s.boot.partReset = some p) : exec .partitionResetEnd s = .next (s.partitionDone p) := by
  simp only [exec, execPartitionResetEnd, h]
  rfl

theorem State.partReset_partitionDone (s : State) (p : Nat) : (s.partitionDone p).boot.partReset = none := by
  simp only [State.partitionDone, State.rstStatus, State.setF_boot, State.setBoot_boot]

theorem State.evseq_partitionDone (hs : s.canon = true) (p : Nat) : tget (fun _ => 0) (s.partitionDone p).evseq p = 0 := by
  simp only [State.partitionDone, State.rstStatus, State.setF_evseq, State.setBoot_evseq, State.evseq_resetPartition hs]

theorem exec_partitionResetEnd_none (h : s.boot.partReset = none) : exec .partitionResetEnd s = .next s := by
  simp only [exec, execPartitionResetEnd, h]

theorem State.ctxstate_partitionDone (hs : s.canon = true) {x : Nat} (hx : x ∈ s.ctxsIn p) :
    (s.partitionDone p).getF F.shtCtxstatState x = 0 :=
  (State.getF_setF_place _ _ _ _ (by decide)).trans ((State.getF_setF_place _ _ _ _ (by decide)).trans
    ((State.setBoot_getF _ _ _ _).trans (State.ctxstate_resetPartition hs hx)))

theorem State.rises_partitionReset (hs : s.canon = true) (p : Nat) (b : Boot) : rises ((s.resetPartition p).setBoot b).regs = true :=
  State.canon_regs (State.canon_resetPartition hs p)

theorem State.busy_partitionDone (hs : s.canon = true) (p : Nat) : (s.partitionDone p).flag F.hbmRststatBusy 0 = false := by
  have hbusy : (s.partitionDone p).getF F.hbmRststatBusy 0 = 0 := State.getF_setF_same (State.rises_setF (State.rises_partitionReset hs p _) _ _ _) _ _ _
  rw [State.flag, hbusy]
  rfl

theorem State.status_partitionDone (hs : s.canon = true) (p : Nat) : (s.partitionDone p).getF F.hbmRststatStatus 0 = 0 :=
  (State.getF_setF_place _ _ _ _ (by decide)).trans (State.getF_setF_same (State.rises_partitionReset hs p _) _ _ _)

end partition

end Sys2Proof.Machine

/-!
PROOFS. Resets: the function-level reset and the start of a device reset (O51).
-/
namespace Sys2Proof.Machine

/-! ### Requests of a reset (R474, R475) -/

section requests
variable {s : State} {acr : Acr} {v : Nat}

theorem exec_partitionReset_refused (hacr : acr ∈ [Acr.fn 0, .mb]) (hbusy : s.flag F.hbmRststatBusy 0 = true) (hl : bits v 30 2 ≠ 2) :
    exec (.partitionReset acr v) s = .next (s.rstStatus 0xBE) := by
  simp only [exec, execPartitionReset, if_neg hl, State.forDevice_of_mem hacr, hbusy, Bool.true_or, if_true]

theorem exec_partitionReset_runs (hacr : acr ∈ [Acr.fn 0, .mb]) (hl : bits v 30 2 = 1) (hz : bits v 4 26 = 0)
    (hbusy : s.flag F.hbmRststatBusy 0 = false) :
    exec (.partitionReset acr v) s = .next ((s.ctxsIn (bits v 0 4)).foldl State.takeOver
      ((s.setBoot { s.boot with partReset := some (bits v 0 4) }).setF F.hbmRststatBusy 0 1)) := by
  simp only [exec, execPartitionReset, State.forDevice_of_mem hacr, hl, hz, hbusy, bne_self_eq_false, Bool.or_self, Bool.false_eq_true, if_false,
    Nat.reduceEqDiff]

theorem exec_deviceReset_level2 (hacr : acr ∈ [Acr.fn 0, .mb]) (hl : bits v 30 2 = 2) :
    exec (.deviceReset (some (acr, v))) s =
      .next (if s.flag F.hbmRststatBusy 0 || bits v 4 26 != 0 then s.rstStatus 0xBE else (s.rstStatus 0).askDeviceReset) := by
  simp only [exec, execDeviceReset, State.forDevice_of_mem hacr, hl, bne_self_eq_false, Bool.false_eq_true, if_false]

theorem exec_deviceReset_refused (hacr : acr ∈ [Acr.fn 0, .mb]) (hl : bits v 30 2 = 2)
    (hr : s.flag F.hbmRststatBusy 0 = true ∨ bits v 4 26 ≠ 0) : exec (.deviceReset (some (acr, v))) s = .next (s.rstStatus 0xBE) := by
  rw [exec_deviceReset_level2 hacr hl, if_pos (by simpa using hr)]

theorem exec_deviceReset_runs (hacr : acr ∈ [Acr.fn 0, .mb]) (hl : bits v 30 2 = 2) (hbusy : s.flag F.hbmRststatBusy 0 = false)
    (hz : bits v 4 26 = 0) : exec (.deviceReset (some (acr, v))) s = .next (s.rstStatus 0).askDeviceReset := by
  rw [exec_deviceReset_level2 hacr hl, if_neg (by simp [hbusy, hz])]

/-- PERST_N or a hot reset asks for a device reset and resets the MSI-X capabilities (R392). -/
theorem exec_deviceReset_none (s : State) : exec (.deviceReset none) s = .next { s.askDeviceReset with msixs := [] } := by
  simp only [exec, execDeviceReset]

end requests

/-! ### The start of a device reset (R474) -/

section device
variable {s : State}

/-- A pending amendment ends with status 0xBF where a device reset is due; an image write and a partition reset stop. -/
def State.giveUpWork (s : State) : State :=
  let t := s.setBoot { s.boot with imgWrite := none, partReset := none }
  if t.getF F.chtAmdst2State 0 = 1 then ((t.setF F.chtAmdst2State 0 t.restState).setF F.chtAmdst2Affected 0 0).amdStatus 0xBF else t

/-- A device reset waits for the next phase boundary, with BUSY shown. -/
def State.awaitReset (s : State) : State := (s.setSeqr { s.seqr with resetWaits := true }).setF F.hbmRststatBusy 0 1

/-- A device reset that waited runs: the phases go down. -/
def State.beginReset (s : State) : State :=
  (s.setSeqr { s.seqr with reset := true, resetWaits := false, moving := true }).setF F.hbmPwrstatDir 0 0

theorem State.askDeviceReset_eq (hph : 3 ≤ s.phase) (hr : s.seqr.reset = false) (hw : s.seqr.resetWaits = false) (hb : s.pins.boardTest = false) :
    s.askDeviceReset = if s.giveUpWork.awaitReset.seqr.moving then s.giveUpWork.awaitReset else s.giveUpWork.awaitReset.atBoundary true := by
  unfold State.askDeviceReset
  rw [if_neg (by simp [hph, hr, hw, hb])]
  rfl

theorem State.atBoundary_starts (up : Bool) (hw : s.seqr.resetWaits = true) (ha : s.applying = false) (hph : 3 ≤ s.phase) :
    s.atBoundary up = s.beginReset := by
  unfold State.atBoundary
  rw [if_pos (by simp [hw, ha, hph])]
  rfl

theorem State.seqr_giveUpWork (s : State) : s.giveUpWork.seqr = s.seqr := by
  unfold State.giveUpWork
  extract_lets b t
  split
  · rfl
  · rfl

theorem State.rises_giveUpWork (hs : rises s.regs = true) : rises s.giveUpWork.regs = true := by
  unfold State.giveUpWork
  extract_lets b t
  have ht : rises t.regs = true := hs
  split
  · exact State.rises_setF (State.rises_setF (State.rises_setF ht _ _ _) _ _ _) _ _ _
  · exact ht

theorem State.phase_giveUpWork (s : State) : s.giveUpWork.phase = s.phase := by
  unfold State.giveUpWork
  extract_lets b t
  split
  · exact (State.getF_setF_place _ _ _ _ (by decide)).trans
      ((State.getF_setF_place _ _ _ _ (by decide)).trans (State.getF_setF_place _ _ _ _ (by decide)))
  · exact rfl

/-- An amendment that was pending rests; it does not apply. -/
theorem State.applying_giveUpWork (hs : rises s.regs = true) (ha : s.applying = false) : s.giveUpWork.applying = false := by
  unfold State.giveUpWork
  extract_lets b t
  have ht : rises t.regs = true := hs
  split
  · have hrest : (((t.setF F.chtAmdst2State 0 t.restState).setF F.chtAmdst2Affected 0 0).amdStatus 0xBF).getF F.chtAmdst2State 0 =
        t.restState % 2 ^ F.chtAmdst2State.w :=
      (State.getF_setF_place _ _ _ _ (by decide)).trans ((State.getF_setF_place _ _ _ _ (by decide)).trans (State.getF_setF_same ht _ _ _))
    rw [State.applying, hrest, State.restState]
    split
    · rfl
    · rfl
  · exact ha

/-- At rest at phase 3 or above a device reset begins at once. -/
theorem State.askDeviceReset_starts (hs : rises s.regs = true) (hph : 3 ≤ s.phase) (hm : s.seqr.moving = false) (hr : s.seqr.reset = false)
    (hw : s.seqr.resetWaits = false) (ha : s.applying = false) (hb : s.pins.boardTest = false) :
    s.askDeviceReset = s.giveUpWork.awaitReset.beginReset := by
  have hmoving : s.giveUpWork.awaitReset.seqr.moving = false := (congrArg Sequencer.moving s.seqr_giveUpWork).trans hm
  have happly : s.giveUpWork.awaitReset.applying = false :=
    (congrArg (· == 2) (State.getF_setF_place _ _ _ _ (by decide))).trans (State.applying_giveUpWork hs ha)
  have hphase : s.giveUpWork.awaitReset.phase = s.phase := (State.getF_setF_place _ _ _ _ (by decide)).trans s.phase_giveUpWork
  rw [State.askDeviceReset_eq hph hr hw hb, hmoving, if_neg Bool.false_ne_true, State.atBoundary_starts true rfl happly (hphase ▸ hph)]

theorem State.dir_beginReset (hs : rises s.regs = true) : s.beginReset.flag F.hbmPwrstatDir 0 = false := by
  have hdir : s.beginReset.getF F.hbmPwrstatDir 0 = 0 := State.getF_setF_same (s := s.setSeqr _) hs _ _ _
  rw [State.flag, hdir]
  rfl

theorem State.busy_beginReset (hs : rises s.regs = true) : s.awaitReset.beginReset.flag F.hbmRststatBusy 0 = true := by
  have hbusy : s.awaitReset.beginReset.getF F.hbmRststatBusy 0 = 1 :=
    (State.getF_setF_place _ _ _ _ (by decide)).trans (State.getF_setF_same (s := s.setSeqr _) hs _ _ _)
  rw [State.flag, hbusy]
  rfl

end device

/-! ### Function-level reset (R384) -/

section functionLevel
variable {s : State} {fn : Nat}

/-- The commands that wait in the ring of queue `q` in host memory. -/
def hostRing (rings : List (Nat × List (List Byte))) (q : Nat) : List (List Byte) := ((rings.find? fun e => e.1 == q).map (·.2)).getD []

/-- The enabled queues of a function. -/
def State.queuesOf (s : State) (fn : Nat) : List Nat :=
  (s.queues.filter fun e => s.getF F.pciQstatState e.1 == 1 && s.getF F.pciQstatOwner e.1 == fn).map (·.1)

/-- The open streams of a function. -/
def State.streamsOf (s : State) (fn : Nat) : List Nat := s.streamsBy fun n _ => s.streamState n != 0 && s.getF F.cdcSstatOwner n == fn

/-- The contexts of a function. -/
def State.ctxsOf (s : State) (fn : Nat) : List Nat :=
  (s.ctxs.filter fun e => s.getF F.shtCtxstatState e.1 != 0 && s.getF F.shtCtxstatOwner e.1 == fn).map (·.1)

/-- The reset that destroys a context once its issued commands have completed. -/
def Context.dying (c : Context) : CtxReset :=
  match c.reset with
  | some r => { r with destroy := true }
  | none => ⟨none, true, true, []⟩

def State.shutQueues (s : State) (rings : List (Nat × List (List Byte))) (qs : List Nat) : State :=
  qs.foldl (fun (t : State) q => t.disableQueue q (hostRing rings q)) s

def State.shutStreams (s : State) (ns : List Nat) : State :=
  ns.foldl (fun (t : State) n => ((t.setStream n { t.stream n with closing := true }).disableStream n).autoClose n) s

def State.doomCtx (s : State) (x : Nat) : State := s.setCtx x { s.ctx x with reset := some (s.ctx x).dying }

def State.doomCtxs (s : State) (xs : List Nat) : State := xs.foldl State.doomCtx s

/-- A function-level reset after the queues are shut. -/
def State.functionEnd (s : State) (fn : Nat) : State :=
  ((s.shutStreams (s.streamsOf fn)).doomCtxs ((s.shutStreams (s.streamsOf fn)).ctxsOf fn)).setMsix fn Msix.fresh

theorem exec_functionLevelReset (rings : List (Nat × List (List Byte))) (h0 : 0 < fn) (h64 : fn < 64) :
    exec (.functionLevelReset fn rings) s = .next ((s.shutQueues rings (s.queuesOf fn)).functionEnd fn) :=
  congrArg Host.Outcome.next (if_neg (by simp only [Nat.ne_of_gt h0, Nat.not_le.2 h64, decide_false, Bool.or_self, Bool.false_eq_true, not_false_eq_true]))

theorem State.canon_shutQueues (hs : s.canon = true) (rings : List (Nat × List (List Byte))) (qs : List Nat) : (s.shutQueues rings qs).canon = true := by
  refine (kept_foldl (E := fun _ => True) _ (fun t q ht => ?_) qs (Kept.refl s)).2 hs
  exact State.disableQueue_kept t q _ ht trivial trivial trivial trivial trivial trivial trivial trivial trivial trivial trivial trivial trivial
    trivial trivial trivial trivial

theorem State.canon_shutStreams (hs : s.canon = true) (ns : List Nat) : (s.shutStreams ns).canon = true := by
  refine (kept_foldl (E := fun _ => True) _ (fun t n ht => ?_) ns (Kept.refl s)).2 hs
  have hset := State.setStream_kept t n { t.stream n with closing := true } ht trivial
  have hdis := State.disableStream_kept _ n hset trivial trivial trivial trivial trivial trivial trivial trivial trivial trivial trivial trivial
  exact State.autoClose_kept _ n hdis trivial trivial trivial

theorem State.doomCtxs_kept (s : State) (xs : List Nat) : Kept (fun _ => True) s (s.doomCtxs xs) :=
  kept_foldl _ (fun t x ht => State.setCtx_kept t x _ ht trivial) xs (Kept.refl s)

/-- Every queue of the list is DISABLED, the others keep their state. -/
theorem State.queueState_shutQueues (hs : s.canon = true) (rings : List (Nat × List (List Byte))) (qs : List Nat) (q : Nat) :
    (s.shutQueues rings qs).getF F.pciQstatState q = if q ∈ qs then 2 else s.getF F.pciQstatState q := by
  induction qs generalizing s with
  | nil => rfl
  | cons k qs ih =>
    have hk := State.canon_shutQueues hs rings [k]
    have hstep := State.queueState_disableQueue (State.canon_regs hs) k (hostRing rings k) q
    refine (ih hk).trans ?_
    simp only [List.mem_cons]
    split
    · next hq => rw [if_pos (.inr hq)]
    · next hq =>
      refine hstep.trans ?_
      simp only [hq, or_false]

theorem State.endKept_shutStreams (s : State) (ns : List Nat) : EndKept s (s.shutStreams ns) :=
  EndKept.foldl _ (fun t n => (((EndKept.refl t).of_regs (State.setStream_regs _ _ _)).trans (State.endKept_disableStream _ n)).trans
    (State.endKept_autoClose _ n)) ns (EndKept.refl s)

theorem State.getF_doomCtxs (s : State) (xs : List Nat) (f : Fld) (i : Nat) : (s.doomCtxs xs).getF f i = s.getF f i :=
  List.foldlRecOn (motive := fun t : State => t.getF f i = s.getF f i) xs _ rfl fun t ht x _ => (State.setCtx_getF t x _ f i).trans ht

/-- What a function-level reset does after the queues are shut leaves the state of the queues. -/
theorem State.queueState_functionEnd (s : State) (fn q : Nat) : (s.functionEnd fn).getF F.pciQstatState q = s.getF F.pciQstatState q :=
  (State.setMsix_getF _ _ _ _ _).trans ((State.getF_doomCtxs _ _ _ _).trans ((s.endKept_shutStreams _).queueState_eq q))

theorem State.msixOf_functionEnd (hs : s.canon = true) (fn : Nat) : (s.functionEnd fn).msixOf fn = Msix.fresh := by
  have hc := (State.doomCtxs_kept _ ((s.shutStreams (s.streamsOf fn)).ctxsOf fn)).2 (State.canon_shutStreams hs (s.streamsOf fn))
  obtain ⟨-, -, -, -, -, -, -, -, -, -, -, -, -, hmsixs, -, -⟩ := State.canon_iff.1 hc
  exact tget_tset_same _ _ _ _ hmsixs

/-- A context that will be destroyed. -/
def State.doomed (s : State) (x : Nat) : Prop := ∃ r, (s.ctx x).reset = some r ∧ r.destroy = true

theorem Context.dying_destroy (c : Context) : c.dying.destroy = true := by
  unfold Context.dying
  split
  · rfl
  · rfl

theorem State.doomed_doomCtx_same (hs : rises s.ctxs = true) (x : Nat) : (s.doomCtx x).doomed x :=
  ⟨_, congrArg Context.reset (State.ctx_setCtx_same hs x _), (s.ctx x).dying_destroy⟩

theorem State.doomed_doomCtx (hs : rises s.ctxs = true) (x : Nat) {y : Nat} (hy : s.doomed y) : (s.doomCtx x).doomed y := by
  by_cases hxy : y = x
  · exact hxy ▸ State.doomed_doomCtx_same hs x
  · have hctx : (s.doomCtx x).ctx y = s.ctx y := State.ctx_setCtx_ne s _ hxy
    rwa [State.doomed, hctx]

theorem State.rises_doomCtx (hs : rises s.ctxs = true) (x : Nat) : rises (s.doomCtx x).ctxs = true := rises_tset _ _ hs

theorem State.doomed_doomCtxs_of_doomed (hs : rises s.ctxs = true) (xs : List Nat) {y : Nat} (hy : s.doomed y) : (s.doomCtxs xs).doomed y := by
  induction xs generalizing s with
  | nil => exact hy
  | cons x xs ih => exact ih (State.rises_doomCtx hs x) (State.doomed_doomCtx hs x hy)

theorem State.doomed_doomCtxs (hs : rises s.ctxs = true) {xs : List Nat} {y : Nat} (hy : y ∈ xs) : (s.doomCtxs xs).doomed y := by
  induction xs generalizing s with
  | nil => cases hy
  | cons x xs ih =>
    obtain rfl | hy := List.mem_cons.1 hy
    · exact State.doomed_doomCtxs_of_doomed (State.rises_doomCtx hs y) xs (State.doomed_doomCtx_same hs y)
    · exact ih (State.rises_doomCtx hs x) hy

theorem State.mem_queuesOf {q : Nat} (hq : q ∈ s.queues.map (·.1)) (hst : s.getF F.pciQstatState q = 1) (ho : s.getF F.pciQstatOwner q = fn) :
    q ∈ s.queuesOf fn := by
  obtain ⟨e, he, rfl⟩ := List.mem_map.1 hq
  exact List.mem_map_of_mem (List.mem_filter.2 ⟨he, by simp [hst, ho]⟩)

theorem State.queuesOf_eq_nil (h : ∀ q ∈ s.queues.map (·.1), s.getF F.pciQstatState q = 1 → s.getF F.pciQstatOwner q ≠ fn) : s.queuesOf fn = [] := by
  refine List.map_eq_nil_iff.2 (List.filter_eq_nil_iff.2 fun e he ht => ?_)
  obtain ⟨hst, ho⟩ : s.getF F.pciQstatState e.1 = 1 ∧ s.getF F.pciQstatOwner e.1 = fn := by simpa using ht
  exact h e.1 (List.mem_map_of_mem he) hst ho

theorem State.streamsOf_eq_nil (h : ∀ n, n < 256 → s.streamState n ≠ 0 → s.getF F.cdcSstatOwner n ≠ fn) : s.streamsOf fn = [] := by
  refine List.filter_eq_nil_iff.2 fun n hn ht => ?_
  obtain ⟨hst, -, ho⟩ : s.streamState n ≠ 0 ∧ s.streamState n ≠ 0 ∧ s.getF F.cdcSstatOwner n = fn := by simpa using ht
  exact h n (List.mem_range.1 hn) hst ho

theorem State.mem_ctxsOf {x : Nat} (hx : x ∈ s.ctxs.map (·.1)) (hst : s.getF F.shtCtxstatState x ≠ 0) (ho : s.getF F.shtCtxstatOwner x = fn) :
    x ∈ s.ctxsOf fn := by
  obtain ⟨e, he, rfl⟩ := List.mem_map.1 hx
  exact List.mem_map_of_mem (List.mem_filter.2 ⟨he, by simp [hst, ho]⟩)

/-- Where the function has no open stream, each of its contexts is to be destroyed. -/
theorem State.doomed_functionEnd (hs : s.canon = true) (hn : s.streamsOf fn = []) {x : Nat} (hx : x ∈ s.ctxsOf fn) : (s.functionEnd fn).doomed x := by
  obtain ⟨-, -, -, -, hctxs, -⟩ := State.canon_iff.1 hs
  have hend : s.functionEnd fn = (s.doomCtxs (s.ctxsOf fn)).setMsix fn Msix.fresh := by
    unfold State.functionEnd
    rw [hn]
    rfl
  rw [hend, State.doomed, State.setMsix_ctx]
  exact State.doomed_doomCtxs hctxs hx

end functionLevel

/-- Settles O51: a partition reset frees its contexts one by one; a device reset at rest takes the first branch of the phase boundary; of a
function-level reset only the queues' step changes the state of queues, and only its last fold touches contexts when nothing else is open. -/
theorem resetsRun : Obligations.ResetsRun := by
  intro s v hs
  have hregs := State.canon_regs hs
  refine ⟨fun acr hacr => ⟨exec_partitionReset_refused hacr, exec_partitionReset_runs hacr, exec_deviceReset_refused hacr, exec_deviceReset_runs hacr⟩,
    fun p hp => ?_, exec_partitionResetEnd_none, exec_deviceReset_none s, fun hph hm hr hw ha hb => ?_, fun fn rings h0 h64 => ?_⟩
  · exact ⟨_, exec_partitionResetEnd_runs hp, State.partReset_partitionDone s p, State.busy_partitionDone hs p, State.status_partitionDone hs p,
      fun _ hx => State.ctxstate_partitionDone hs hx, State.evseq_partitionDone hs p⟩
  · rw [State.askDeviceReset_starts hregs hph hm hr hw ha hb]
    have hgiven := State.rises_giveUpWork hregs
    exact ⟨rfl, rfl, State.dir_beginReset (State.rises_setF hgiven _ _ _), State.busy_beginReset hgiven⟩
  · have hshut := State.canon_shutQueues hs rings (s.queuesOf fn)
    refine ⟨_, exec_functionLevelReset rings h0 h64, State.msixOf_functionEnd hshut fn, fun q hq hst ho => ?_, fun hnq hns x hx hst ho => ?_⟩
    · rw [State.queueState_functionEnd, State.queueState_shutQueues hs, if_pos (State.mem_queuesOf hq hst ho)]
    · rw [State.queuesOf_eq_nil hnq]
      exact State.doomed_functionEnd hs (State.streamsOf_eq_nil hns) (State.mem_ctxsOf hx hst ho)

end Sys2Proof.Machine

/-!
PROOFS. Steps: the command at the front of the queue, the frame of every command and the canonical form, and the tick of an empty queue; and what
the reset state holds (O1 to O5).
-/
namespace Sys2Proof.Machine

/-! ### The fall of the standby supply keeps the queue and the model's numbers (R573) -/

section standby
variable (s : State)

/-- The state that the standby supply leaves behind as it falls: the staged bytes are flushed, if the tier runs, and every pending update ends. -/
def State.flushed : State := (if 6 ≤ s.phase && !s.flash.flushing then s.flashFlush else s).dropUpdates fun _ => true

theorem State.flushed_kept : Kept (fun c => c ∈ [Comp.regs, .flash, .fresh]) s s.flushed :=
  State.dropUpdates_kept _ _ (kept_ite (State.flashFlush_kept s (Kept.refl s) (by decide) (by decide) (by decide)) (Kept.refl s)) (by decide) (by decide)

theorem exec_standbyFall_up (h : s.pins.standby = true) : exec .standbyFall s = .next s.flushed.standbyDown := by
  rw [exec, execStandbyFall, State.flushed, h]
  cases decide (6 ≤ s.phase) && !s.flash.flushing <;> rfl

theorem exec_standbyFall_down (h : s.pins.standby = false) : exec .standbyFall s = .next s := by
  rw [exec, execStandbyFall, h]
  rfl

/-- Of what the standby supply takes away, the queue of commands and the numbers that name commands go on. -/
theorem State.standbyDown_agree (c : Comp) (h : c ∉ changes .standbyFall) : c.agree s s.standbyDown := by
  cases c with
  | pending => rfl
  | nextCmd => rfl
  | _ => exact absurd (List.mem_of_elem_eq_true rfl) h

theorem State.canon_standbyDown (h : s.canon = true) : s.standbyDown.canon = true := by
  refine (?_ : Kept (fun _ => True) s s.standbyDown).2 h
  apply @State.standbyDown_kept _ _ s (Kept.refl s) <;> exact trivial

theorem exec_standbyFall_kept : ∃ t, exec .standbyFall s = .next t ∧ Kept (fun c => c ∈ changes .standbyFall) s t := by
  cases h : s.pins.standby with
  | false => exact ⟨s, exec_standbyFall_down s h, Kept.refl s⟩
  | true =>
    refine ⟨_, exec_standbyFall_up s h, Kept.trans_of (s := s.flushed) ?_ s.flushed.standbyDown_agree s.flushed.canon_standbyDown⟩
    exact ⟨OnlyChanged.mono s.flushed_kept.only (by decide), s.flushed_kept.2⟩

end standby

/-! ### The frame of every command -/

/-- Every command answers a next state, within its frame and in canonical form: one case for each row, by its meaning's own lemma. -/
theorem exec_kept (i : Instr) (s : State) : ∃ t, exec i s = .next t ∧ Kept (fun c => c ∈ changes i) s t := by
  cases i with
  | commandFetch q bytes => apply @execCommandFetch_kept _ _ q bytes s (Kept.refl s) <;> exact List.mem_of_elem_eq_true rfl
  | nop q => apply @execNop_kept _ _ q s (Kept.refl s) <;> exact List.mem_of_elem_eq_true rfl
  | mma q => apply @execMma_kept _ _ q s (Kept.refl s) <;> exact List.mem_of_elem_eq_true rfl
  | chain q => apply @execChain_kept _ _ q s (Kept.refl s) <;> exact List.mem_of_elem_eq_true rfl
  | attn q => apply @execAttn_kept _ _ q s (Kept.refl s) <;> exact List.mem_of_elem_eq_true rfl
  | attnRingStep q seq => apply @execAttnRingStep_kept _ _ q seq s (Kept.refl s) <;> exact List.mem_of_elem_eq_true rfl
  | conv q => apply @execConv_kept _ _ q s (Kept.refl s) <;> exact List.mem_of_elem_eq_true rfl
  | maxpool q => apply @execMaxpool_kept _ _ q s (Kept.refl s) <;> exact List.mem_of_elem_eq_true rfl
  | avgpool q => apply @execAvgpool_kept _ _ q s (Kept.refl s) <;> exact List.mem_of_elem_eq_true rfl
  | upnearest q => apply @execUpnearest_kept _ _ q s (Kept.refl s) <;> exact List.mem_of_elem_eq_true rfl
  | uplinear q => apply @execUplinear_kept _ _ q s (Kept.refl s) <;> exact List.mem_of_elem_eq_true rfl
  | stage q => apply @execStage_kept _ _ q s (Kept.refl s) <;> exact List.mem_of_elem_eq_true rfl
  | add q => apply @execAdd_kept _ _ q s (Kept.refl s) <;> exact List.mem_of_elem_eq_true rfl
  | sub q => apply @execSub_kept _ _ q s (Kept.refl s) <;> exact List.mem_of_elem_eq_true rfl
  | mul q => apply @execMul_kept _ _ q s (Kept.refl s) <;> exact List.mem_of_elem_eq_true rfl
  | fma q => apply @execFma_kept _ _ q s (Kept.refl s) <;> exact List.mem_of_elem_eq_true rfl
  | max q => apply @execMax_kept _ _ q s (Kept.refl s) <;> exact List.mem_of_elem_eq_true rfl
  | min q => apply @execMin_kept _ _ q s (Kept.refl s) <;> exact List.mem_of_elem_eq_true rfl
  | abs q => apply @execAbs_kept _ _ q s (Kept.refl s) <;> exact List.mem_of_elem_eq_true rfl
  | neg q => apply @execNeg_kept _ _ q s (Kept.refl s) <;> exact List.mem_of_elem_eq_true rfl
  | cmp q => apply @execCmp_kept _ _ q s (Kept.refl s) <;> exact List.mem_of_elem_eq_true rfl
  | select q => apply @execSelect_kept _ _ q s (Kept.refl s) <;> exact List.mem_of_elem_eq_true rfl
  | convert q => apply @execConvert_kept _ _ q s (Kept.refl s) <;> exact List.mem_of_elem_eq_true rfl
  | func q => apply @execFunc_kept _ _ q s (Kept.refl s) <;> exact List.mem_of_elem_eq_true rfl
  | iadd q => apply @execIadd_kept _ _ q s (Kept.refl s) <;> exact List.mem_of_elem_eq_true rfl
  | isub q => apply @execIsub_kept _ _ q s (Kept.refl s) <;> exact List.mem_of_elem_eq_true rfl
  | imul q => apply @execImul_kept _ _ q s (Kept.refl s) <;> exact List.mem_of_elem_eq_true rfl
  | iand q => apply @execIand_kept _ _ q s (Kept.refl s) <;> exact List.mem_of_elem_eq_true rfl
  | ior q => apply @execIor_kept _ _ q s (Kept.refl s) <;> exact List.mem_of_elem_eq_true rfl
  | ixor q => apply @execIxor_kept _ _ q s (Kept.refl s) <;> exact List.mem_of_elem_eq_true rfl
  | ishl q => apply @execIshl_kept _ _ q s (Kept.refl s) <;> exact List.mem_of_elem_eq_true rfl
  | ishr q => apply @execIshr_kept _ _ q s (Kept.refl s) <;> exact List.mem_of_elem_eq_true rfl
  | rsum q => apply @execRsum_kept _ _ q s (Kept.refl s) <;> exact List.mem_of_elem_eq_true rfl
  | rmax q => apply @execRmax_kept _ _ q s (Kept.refl s) <;> exact List.mem_of_elem_eq_true rfl
  | rmin q => apply @execRmin_kept _ _ q s (Kept.refl s) <;> exact List.mem_of_elem_eq_true rfl
  | argmax q => apply @execArgmax_kept _ _ q s (Kept.refl s) <;> exact List.mem_of_elem_eq_true rfl
  | argmin q => apply @execArgmin_kept _ _ q s (Kept.refl s) <;> exact List.mem_of_elem_eq_true rfl
  | iscan q => apply @execIscan_kept _ _ q s (Kept.refl s) <;> exact List.mem_of_elem_eq_true rfl
  | sfpRun q => apply @execSfpRun_kept _ _ q s (Kept.refl s) <;> exact List.mem_of_elem_eq_true rfl
  | sfpLoad q => apply @execSfpLoad_kept _ _ q s (Kept.refl s) <;> exact List.mem_of_elem_eq_true rfl
  | imageInstall cluster => apply @execImageInstall_kept _ _ cluster s (Kept.refl s) <;> exact List.mem_of_elem_eq_true rfl
  | move q => apply @execMove_kept _ _ q s (Kept.refl s) <;> exact List.mem_of_elem_eq_true rfl
  | gather q => apply @execGather_kept _ _ q s (Kept.refl s) <;> exact List.mem_of_elem_eq_true rfl
  | scatter q => apply @execScatter_kept _ _ q s (Kept.refl s) <;> exact List.mem_of_elem_eq_true rfl
  | croprs q => apply @execCroprs_kept _ _ q s (Kept.refl s) <;> exact List.mem_of_elem_eq_true rfl
  | rngfill q => apply @execRngfill_kept _ _ q s (Kept.refl s) <;> exact List.mem_of_elem_eq_true rfl
  | sample q => apply @execSample_kept _ _ q s (Kept.refl s) <;> exact List.mem_of_elem_eq_true rfl
  | kvfork q => apply @execKvfork_kept _ _ q s (Kept.refl s) <;> exact List.mem_of_elem_eq_true rfl
  | kvfreeTruncate q => apply @execKvfreeTruncate_kept _ _ q s (Kept.refl s) <;> exact List.mem_of_elem_eq_true rfl
  | kvfreeEvict q => apply @execKvfreeEvict_kept _ _ q s (Kept.refl s) <;> exact List.mem_of_elem_eq_true rfl
  | kvprefetch q => apply @execKvprefetch_kept _ _ q s (Kept.refl s) <;> exact List.mem_of_elem_eq_true rfl
  | wait q => apply @execWait_kept _ _ q s (Kept.refl s) <;> exact List.mem_of_elem_eq_true rfl
  | signal q => apply @execSignal_kept _ _ q s (Kept.refl s) <;> exact List.mem_of_elem_eq_true rfl
  | fence q => apply @execFence_kept _ _ q s (Kept.refl s) <;> exact List.mem_of_elem_eq_true rfl
  | mark q => apply @execMark_kept _ _ q s (Kept.refl s) <;> exact List.mem_of_elem_eq_true rfl
  | dump q => apply @execDump_kept _ _ q s (Kept.refl s) <;> exact List.mem_of_elem_eq_true rfl
  | zsend q => apply @execZsend_kept _ _ q s (Kept.refl s) <;> exact List.mem_of_elem_eq_true rfl
  | flread q => apply @execFlread_kept _ _ q s (Kept.refl s) <;> exact List.mem_of_elem_eq_true rfl
  | flwriteSpill q => apply @execFlwriteSpill_kept _ _ q s (Kept.refl s) <;> exact List.mem_of_elem_eq_true rfl
  | flwriteBegin q => apply @execFlwriteBegin_kept _ _ q s (Kept.refl s) <;> exact List.mem_of_elem_eq_true rfl
  | flwriteData q => apply @execFlwriteData_kept _ _ q s (Kept.refl s) <;> exact List.mem_of_elem_eq_true rfl
  | flwriteCommit q => apply @execFlwriteCommit_kept _ _ q s (Kept.refl s) <;> exact List.mem_of_elem_eq_true rfl
  | flwriteAbandon q => apply @execFlwriteAbandon_kept _ _ q s (Kept.refl s) <;> exact List.mem_of_elem_eq_true rfl
  | partStart cluster unit => apply @execPartStart_kept _ _ cluster unit s (Kept.refl s) <;> exact List.mem_of_elem_eq_true rfl
  | mergeSlotGrant cluster => apply @execMergeSlotGrant_kept _ _ cluster s (Kept.refl s) <;> exact List.mem_of_elem_eq_true rfl
  | partComplete cluster q seq => apply @execPartComplete_kept _ _ cluster q seq s (Kept.refl s) <;> exact List.mem_of_elem_eq_true rfl
  | commandComplete q seq => apply @execCommandComplete_kept _ _ q seq s (Kept.refl s) <;> exact List.mem_of_elem_eq_true rfl
  | completionRecordWrite q => apply @execCompletionRecordWrite_kept _ _ q s (Kept.refl s) <;> exact List.mem_of_elem_eq_true rfl
  | contextTeardown ctx => apply @execContextTeardown_kept _ _ ctx s (Kept.refl s) <;> exact List.mem_of_elem_eq_true rfl
  | watchdogCheck => apply @execWatchdogCheck_kept _ _ s (Kept.refl s) <;> exact List.mem_of_elem_eq_true rfl
  | shtTok acr n v => apply @execShtTok_kept _ _ acr n v s (Kept.refl s) <;> exact List.mem_of_elem_eq_true rfl
  | shtTokadd acr n v => apply @execShtTokadd_kept _ _ acr n v s (Kept.refl s) <;> exact List.mem_of_elem_eq_true rfl
  | zlkArr acr n v => apply @execZlkArr_kept _ _ acr n v s (Kept.refl s) <;> exact List.mem_of_elem_eq_true rfl
  | registerWrite acr set cfg addr size v => apply @execRegisterWrite_kept _ _ acr set cfg addr size v s (Kept.refl s) <;> exact List.mem_of_elem_eq_true rfl
  | contextCreate acr set v => apply @execContextCreate_kept _ _ acr set v s (Kept.refl s) <;> exact List.mem_of_elem_eq_true rfl
  | contextDestroy acr set v => apply @execContextDestroy_kept _ _ acr set v s (Kept.refl s) <;> exact List.mem_of_elem_eq_true rfl
  | contextReset acr set v => apply @execContextReset_kept _ _ acr set v s (Kept.refl s) <;> exact List.mem_of_elem_eq_true rfl
  | contextResetEnd ctx => apply @execContextResetEnd_kept _ _ ctx s (Kept.refl s) <;> exact List.mem_of_elem_eq_true rfl
  | queueDisable acr set v host => apply @execQueueDisable_kept _ _ acr set v host s (Kept.refl s) <;> exact List.mem_of_elem_eq_true rfl
  | queueCreate acr set v => apply @execQueueCreate_kept _ _ acr set v s (Kept.refl s) <;> exact List.mem_of_elem_eq_true rfl
  | queueDestroy acr set v => apply @execQueueDestroy_kept _ _ acr set v s (Kept.refl s) <;> exact List.mem_of_elem_eq_true rfl
  | pciSqdb fn q v => apply @execPciSqdb_kept _ _ fn q v s (Kept.refl s) <;> exact List.mem_of_elem_eq_true rfl
  | pciCqdb fn q v => apply @execPciCqdb_kept _ _ fn q v s (Kept.refl s) <;> exact List.mem_of_elem_eq_true rfl
  | qfetchFailure q => apply @execQfetchFailure_kept _ _ q s (Kept.refl s) <;> exact List.mem_of_elem_eq_true rfl
  | apertureRead fn addr len => apply @execApertureRead_kept _ _ fn addr len s (Kept.refl s) <;> exact List.mem_of_elem_eq_true rfl
  | apertureWrite fn addr bytes poisoned => apply @execApertureWrite_kept _ _ fn addr bytes poisoned s (Kept.refl s) <;> exact List.mem_of_elem_eq_true rfl
  | interruptModerationTimer isStream n => apply @execInterruptModerationTimer_kept _ _ isStream n s (Kept.refl s) <;> exact List.mem_of_elem_eq_true rfl
  | pcieLaneFail lane width => apply @execPcieLaneFail_kept _ _ lane width s (Kept.refl s) <;> exact List.mem_of_elem_eq_true rfl
  | functionLevelReset fn rings => apply @execFunctionLevelReset_kept _ _ fn rings s (Kept.refl s) <;> exact List.mem_of_elem_eq_true rfl
  | partitionReset acr v => apply @execPartitionReset_kept _ _ acr v s (Kept.refl s) <;> exact List.mem_of_elem_eq_true rfl
  | deviceReset src => apply @execDeviceReset_kept _ _ src s (Kept.refl s) <;> exact List.mem_of_elem_eq_true rfl
  | kvtInit acr p v => apply @execKvtInit_kept _ _ acr p v s (Kept.refl s) <;> exact List.mem_of_elem_eq_true rfl
  | agentMap p slot pos => apply @execAgentMap_kept _ _ p slot pos s (Kept.refl s) <;> exact List.mem_of_elem_eq_true rfl
  | kvCommit q seq => apply @execKvCommit_kept _ _ q seq s (Kept.refl s) <;> exact List.mem_of_elem_eq_true rfl
  | kvFetch p => apply @execKvFetch_kept _ _ p s (Kept.refl s) <;> exact List.mem_of_elem_eq_true rfl
  | kvEvictEntry p => apply @execKvEvictEntry_kept _ _ p s (Kept.refl s) <;> exact List.mem_of_elem_eq_true rfl
  | agentTakeover p => apply @execAgentTakeover_kept _ _ p s (Kept.refl s) <;> exact List.mem_of_elem_eq_true rfl
  | siteRead w => apply @execSiteRead_kept _ _ w s (Kept.refl s) <;> exact List.mem_of_elem_eq_true rfl
  | siteWrite w bytes => apply @execSiteWrite_kept _ _ w bytes s (Kept.refl s) <;> exact List.mem_of_elem_eq_true rfl
  | sitePartialWrite w mask bytes => apply @execSitePartialWrite_kept _ _ w mask bytes s (Kept.refl s) <;> exact List.mem_of_elem_eq_true rfl
  | poisonWrite addr len => apply @execPoisonWrite_kept _ _ addr len s (Kept.refl s) <;> exact List.mem_of_elem_eq_true rfl
  | scrubStep site => apply @execScrubStep_kept _ _ site s (Kept.refl s) <;> exact List.mem_of_elem_eq_true rfl
  | mr4Poll site readings => apply @execMr4Poll_kept _ _ site readings s (Kept.refl s) <;> exact List.mem_of_elem_eq_true rfl
  | refresh site => exact @execRefresh_kept _ _ site s (Kept.refl s)
  | siteLost site => apply @execSiteLost_kept _ _ site s (Kept.refl s) <;> exact List.mem_of_elem_eq_true rfl
  | memClear acr v => apply @execMemClear_kept _ _ acr v s (Kept.refl s) <;> exact List.mem_of_elem_eq_true rfl
  | memMargin acr v => apply @execMemMargin_kept _ _ acr v s (Kept.refl s) <;> exact List.mem_of_elem_eq_true rfl
  | memOpComplete edges => apply @execMemOpComplete_kept _ _ edges s (Kept.refl s) <;> exact List.mem_of_elem_eq_true rfl
  | programComplete writes => apply @execProgramComplete_kept _ _ writes s (Kept.refl s) <;> exact List.mem_of_elem_eq_true rfl
  | grownBadBlock slc ch lun block => apply @execGrownBadBlock_kept _ _ slc ch lun block s (Kept.refl s) <;> exact List.mem_of_elem_eq_true rfl
  | wearLevelMove slc worst => apply @execWearLevelMove_kept _ _ slc worst s (Kept.refl s) <;> exact List.mem_of_elem_eq_true rfl
  | retentionPatrol region block step old ch lun loc => apply @execRetentionPatrol_kept _ _ region block step old ch lun loc s (Kept.refl s) <;> exact List.mem_of_elem_eq_true rfl
  | lunFail lun => apply @execLunFail_kept _ _ lun s (Kept.refl s) <;> exact List.mem_of_elem_eq_true rfl
  | doubleLunFail lun lost => apply @execDoubleLunFail_kept _ _ lun lost s (Kept.refl s) <;> exact List.mem_of_elem_eq_true rfl
  | rebuildComplete => exact @execRebuildComplete_kept _ _ s (Kept.refl s) (List.mem_of_elem_eq_true rfl)
  | holdupMeasure volts => apply @execHoldupMeasure_kept _ _ volts s (Kept.refl s) <;> exact List.mem_of_elem_eq_true rfl
  | holdupProbe ok => apply @execHoldupProbe_kept _ _ ok s (Kept.refl s) <;> exact List.mem_of_elem_eq_true rfl
  | flitReceive port flit fecBad sym unc => apply @execFlitReceive_kept _ _ port flit fecBad sym unc s (Kept.refl s) <;> exact List.mem_of_elem_eq_true rfl
  | nak port flit fecBad sym unc => apply @execNak_kept _ _ port flit fecBad sym unc s (Kept.refl s) <;> exact List.mem_of_elem_eq_true rfl
  | replayTimeout port => apply @execReplayTimeout_kept _ _ port s (Kept.refl s) <;> exact List.mem_of_elem_eq_true rfl
  | wr port => apply @execWr_kept _ _ port s (Kept.refl s) <;> exact List.mem_of_elem_eq_true rfl
  | wrPerformed port wid => apply @execWrPerformed_kept _ _ port wid s (Kept.refl s) <;> exact List.mem_of_elem_eq_true rfl
  | wack port => apply @execWack_kept _ _ port s (Kept.refl s) <;> exact List.mem_of_elem_eq_true rfl
  | elect port => apply @execElect_kept _ _ port s (Kept.refl s) <;> exact List.mem_of_elem_eq_true rfl
  | electionTick => apply @execElectionTick_kept _ _ s (Kept.refl s) <;> exact List.mem_of_elem_eq_true rfl
  | electionEnd => apply @execElectionEnd_kept _ _ s (Kept.refl s) <;> exact List.mem_of_elem_eq_true rfl
  | topo port map => apply @execTopo_kept _ _ port map s (Kept.refl s) <;> exact List.mem_of_elem_eq_true rfl
  | number port child => apply @execNumber_kept _ _ port child s (Kept.refl s) <;> exact List.mem_of_elem_eq_true rfl
  | formed port => apply @execFormed_kept _ _ port s (Kept.refl s) <;> exact List.mem_of_elem_eq_true rfl
  | fgreport port => apply @execFgreport_kept _ _ port s (Kept.refl s) <;> exact List.mem_of_elem_eq_true rfl
  | fgreportTick => apply @execFgreportTick_kept _ _ s (Kept.refl s) <;> exact List.mem_of_elem_eq_true rfl
  | fgswitch port => apply @execFgswitch_kept _ _ port s (Kept.refl s) <;> exact List.mem_of_elem_eq_true rfl
  | fgswitchInstant => apply @execFgswitchInstant_kept _ _ s (Kept.refl s) <;> exact List.mem_of_elem_eq_true rfl
  | glostTimeout => exact @execGlostTimeout_kept _ _ s (Kept.refl s) (List.mem_of_elem_eq_true rfl)
  | tbstart port => apply @execTbstart_kept _ _ port s (Kept.refl s) <;> exact List.mem_of_elem_eq_true rfl
  | tbprobe port => apply @execTbprobe_kept _ _ port s (Kept.refl s) <;> exact List.mem_of_elem_eq_true rfl
  | tbreply port => apply @execTbreply_kept _ _ port s (Kept.refl s) <;> exact List.mem_of_elem_eq_true rfl
  | tbprobeRetry => apply @execTbprobeRetry_kept _ _ s (Kept.refl s) <;> exact List.mem_of_elem_eq_true rfl
  | tbset port => apply @execTbset_kept _ _ port s (Kept.refl s) <;> exact List.mem_of_elem_eq_true rfl
  | tbdone port => apply @execTbdone_kept _ _ port s (Kept.refl s) <;> exact List.mem_of_elem_eq_true rfl
  | sweepTimerExpiry => apply @execSweepTimerExpiry_kept _ _ s (Kept.refl s) <;> exact List.mem_of_elem_eq_true rfl
  | rateTrimProbe => apply @execRateTrimProbe_kept _ _ s (Kept.refl s) <;> exact List.mem_of_elem_eq_true rfl
  | tmbCtlSweep acr v => apply @execTmbCtlSweep_kept _ _ acr v s (Kept.refl s) <;> exact List.mem_of_elem_eq_true rfl
  | laneFault port lane => apply @execLaneFault_kept _ _ port lane s (Kept.refl s) <;> exact List.mem_of_elem_eq_true rfl
  | widthChange port flit fecBad sym unc => apply @execWidthChange_kept _ _ port flit fecBad sym unc s (Kept.refl s) <;> exact List.mem_of_elem_eq_true rfl
  | linkLoss port announced => apply @execLinkLoss_kept _ _ port announced s (Kept.refl s) <;> exact List.mem_of_elem_eq_true rfl
  | trainingStepTimeout port step => exact @execTrainingStepTimeout_kept _ _ port step s (Kept.refl s) (List.mem_of_elem_eq_true rfl)
  | linkUp port serial peer role reach evt faulty rev pol => apply @execLinkUp_kept _ _ port serial peer role reach evt faulty rev pol s (Kept.refl s) <;> exact List.mem_of_elem_eq_true rfl
  | retrainLimit port => exact @execRetrainLimit_kept _ _ port s (Kept.refl s) (List.mem_of_elem_eq_true rfl)
  | retrain acr port v => apply @execRetrain_kept _ _ acr port v s (Kept.refl s) <;> exact List.mem_of_elem_eq_true rfl
  | form acr v => apply @execForm_kept _ _ acr v s (Kept.refl s) <;> exact List.mem_of_elem_eq_true rfl
  | eyeScan acr v => apply @execEyeScan_kept _ _ acr v s (Kept.refl s) <;> exact List.mem_of_elem_eq_true rfl
  | eyeScanComplete height width => exact @execEyeScanComplete_kept _ _ height width s (Kept.refl s) (List.mem_of_elem_eq_true rfl)
  | streamOpen acr set v => apply @execStreamOpen_kept _ _ acr set v s (Kept.refl s) <;> exact List.mem_of_elem_eq_true rfl
  | streamClose acr set v => apply @execStreamClose_kept _ _ acr set v s (Kept.refl s) <;> exact List.mem_of_elem_eq_true rfl
  | streamDisable acr set v => apply @execStreamDisable_kept _ _ acr set v s (Kept.refl s) <;> exact List.mem_of_elem_eq_true rfl
  | engdis acr engine v => apply @execEngdis_kept _ _ acr engine v s (Kept.refl s) <;> exact List.mem_of_elem_eq_true rfl
  | cdcFdb fn stream v => apply @execCdcFdb_kept _ _ fn stream v s (Kept.refl s) <;> exact List.mem_of_elem_eq_true rfl
  | cdcCdb fn stream v => apply @execCdcCdb_kept _ _ fn stream v s (Kept.refl s) <;> exact List.mem_of_elem_eq_true rfl
  | frameFetch stream bytes => apply @execFrameFetch_kept _ _ stream bytes s (Kept.refl s) <;> exact List.mem_of_elem_eq_true rfl
  | frameStart engine => apply @execFrameStart_kept _ _ engine s (Kept.refl s) <;> exact List.mem_of_elem_eq_true rfl
  | blockRow engine ev => apply @execBlockRow_kept _ _ engine ev s (Kept.refl s) <;> exact List.mem_of_elem_eq_true rfl
  | frameDeadline stream => apply @execFrameDeadline_kept _ _ stream s (Kept.refl s) <;> exact List.mem_of_elem_eq_true rfl
  | frameRecordWrite stream => apply @execFrameRecordWrite_kept _ _ stream s (Kept.refl s) <;> exact List.mem_of_elem_eq_true rfl
  | codecHwError engine => apply @execCodecHwError_kept _ _ engine s (Kept.refl s) <;> exact List.mem_of_elem_eq_true rfl
  | onReqRise => apply @execOnReqRise_kept _ _ s (Kept.refl s) <;> exact List.mem_of_elem_eq_true rfl
  | onReqFall => apply @execOnReqFall_kept _ _ s (Kept.refl s) <;> exact List.mem_of_elem_eq_true rfl
  | pwrfailNFall => apply @execPwrfailNFall_kept _ _ s (Kept.refl s) <;> exact List.mem_of_elem_eq_true rfl
  | pwrfailNRise => apply @execPwrfailNRise_kept _ _ s (Kept.refl s) <;> exact List.mem_of_elem_eq_true rfl
  | mbPowerRequest acr on => apply @execMbPowerRequest_kept _ _ acr on s (Kept.refl s) <;> exact List.mem_of_elem_eq_true rfl
  | powerPhaseUp w => apply @execPowerPhaseUp_kept _ _ w s (Kept.refl s) <;> exact List.mem_of_elem_eq_true rfl
  | powerPhaseDown => apply @execPowerPhaseDown_kept _ _ s (Kept.refl s) <;> exact List.mem_of_elem_eq_true rfl
  | phaseBoundOverrun rail => apply @execPhaseBoundOverrun_kept _ _ rail s (Kept.refl s) <;> exact List.mem_of_elem_eq_true rfl
  | imageAliveTimeout => exact @execImageAliveTimeout_kept _ _ s (Kept.refl s) (List.mem_of_elem_eq_true rfl)
  | standbyRise => exact @execStandbyRise_kept _ _ s (Kept.refl s) (List.mem_of_elem_eq_true rfl)
  | strapSample mbaddr bfclk recov => exact @execStrapSample_kept _ _ mbaddr bfclk recov s (Kept.refl s) (List.mem_of_elem_eq_true rfl)
  | imageWrite acr v bytes => apply @execImageWrite_kept _ _ acr v bytes s (Kept.refl s) <;> exact List.mem_of_elem_eq_true rfl
  | raiseMinsecver acr v => apply @execRaiseMinsecver_kept _ _ acr v s (Kept.refl s) <;> exact List.mem_of_elem_eq_true rfl
  | amendmentSubmit acr v record => apply @execAmendmentSubmit_kept _ _ acr v record s (Kept.refl s) <;> exact List.mem_of_elem_eq_true rfl
  | amendmentDiscard acr v => apply @execAmendmentDiscard_kept _ _ acr v s (Kept.refl s) <;> exact List.mem_of_elem_eq_true rfl
  | amendmentApply => apply @execAmendmentApply_kept _ _ s (Kept.refl s) <;> exact List.mem_of_elem_eq_true rfl
  | powerControlStep harbour leak amps done pkgw mj => apply @execPowerControlStep_kept _ _ harbour leak amps done pkgw mj s (Kept.refl s) <;> exact List.mem_of_elem_eq_true rfl
  | clockSwitch island => apply @execClockSwitch_kept _ _ island s (Kept.refl s) <;> exact List.mem_of_elem_eq_true rfl
  | sensorRead readings => apply @execSensorRead_kept _ _ readings s (Kept.refl s) <;> exact List.mem_of_elem_eq_true rfl
  | currentTrip island => apply @execCurrentTrip_kept _ _ island s (Kept.refl s) <;> exact List.mem_of_elem_eq_true rfl
  | slopeTick work => apply @execSlopeTick_kept _ _ work s (Kept.refl s) <;> exact List.mem_of_elem_eq_true rfl
  | extthrNFall => apply @execExtthrNFall_kept _ _ s (Kept.refl s) <;> exact List.mem_of_elem_eq_true rfl
  | extthrRelease => apply @execExtthrRelease_kept _ _ s (Kept.refl s) <;> exact List.mem_of_elem_eq_true rfl
  | pwrCap acr v => apply @execPwrCap_kept _ _ acr v s (Kept.refl s) <;> exact List.mem_of_elem_eq_true rfl
  | sysclkLoss => apply @execSysclkLoss_kept _ _ s (Kept.refl s) <;> exact List.mem_of_elem_eq_true rfl
  | pgFall rail => apply @execPgFall_kept _ _ rail s (Kept.refl s) <;> exact List.mem_of_elem_eq_true rfl
  | arrayCheckFail cluster q seq column why addr => apply @execArrayCheckFail_kept _ _ cluster q seq column why addr s (Kept.refl s) <;> exact List.mem_of_elem_eq_true rfl
  | sfuPipeParity cluster pipe q seq => apply @execSfuPipeParity_kept _ _ cluster pipe q seq s (Kept.refl s) <;> exact List.mem_of_elem_eq_true rfl
  | lbfEcc cluster bank mac row off syn unc q seq => apply @execLbfEcc_kept _ _ cluster bank mac row off syn unc q seq s (Kept.refl s) <;> exact List.mem_of_elem_eq_true rfl
  | retireCluster acr v => apply @execRetireCluster_kept _ _ acr v s (Kept.refl s) <;> exact List.mem_of_elem_eq_true rfl
  | clearRetirementList acr v => apply @execClearRetirementList_kept _ _ acr v s (Kept.refl s) <;> exact List.mem_of_elem_eq_true rfl
  | straitLaneFail strait lane => apply @execStraitLaneFail_kept _ _ strait lane s (Kept.refl s) <;> exact List.mem_of_elem_eq_true rfl
  | islandLoss island why => apply @execIslandLoss_kept _ _ island why s (Kept.refl s) <;> exact List.mem_of_elem_eq_true rfl
  | hmlock => apply @execHmlock_kept _ _ s (Kept.refl s) <;> exact List.mem_of_elem_eq_true rfl
  | hbdie => apply @execHbdie_kept _ _ s (Kept.refl s) <;> exact List.mem_of_elem_eq_true rfl
  | erqPop acr v => apply @execErqPop_kept _ _ acr v s (Kept.refl s) <;> exact List.mem_of_elem_eq_true rfl
  | bundleLoad acr v bundle long => apply @execBundleLoad_kept _ _ acr v bundle long s (Kept.refl s) <;> exact List.mem_of_elem_eq_true rfl
  | bundleStop acr v => apply @execBundleStop_kept _ _ acr v s (Kept.refl s) <;> exact List.mem_of_elem_eq_true rfl
  | fleetTestItem cluster crc => apply @execFleetTestItem_kept _ _ cluster crc s (Kept.refl s) <;> exact List.mem_of_elem_eq_true rfl
  | cntTrcfg acr p v => apply @execCntTrcfg_kept _ _ acr p v s (Kept.refl s) <;> exact List.mem_of_elem_eq_true rfl
  | cntTrptr acr p v => apply @execCntTrptr_kept _ _ acr p v s (Kept.refl s) <;> exact List.mem_of_elem_eq_true rfl
  | btest => apply @execBtest_kept _ _ s (Kept.refl s) <;> exact List.mem_of_elem_eq_true rfl
  | trstNFall => apply @execTrstNFall_kept _ _ s (Kept.refl s) <;> exact List.mem_of_elem_eq_true rfl
  | flashReadComplete job block step ch lun loc => apply @execFlashReadComplete_kept _ _ job block step ch lun loc s (Kept.refl s) <;> exact List.mem_of_elem_eq_true rfl
  | amendmentCommit => apply @execAmendmentCommit_kept _ _ s (Kept.refl s) <;> exact List.mem_of_elem_eq_true rfl
  | imageWriteComplete => apply @execImageWriteComplete_kept _ _ s (Kept.refl s) <;> exact List.mem_of_elem_eq_true rfl
  | partitionResetEnd => apply @execPartitionResetEnd_kept _ _ s (Kept.refl s) <;> exact List.mem_of_elem_eq_true rfl
  | standbyFall => exact exec_standbyFall_kept s
  | accumulatorStoreError cluster => apply @execAccumulatorStoreError_kept _ _ cluster s (Kept.refl s) <;> exact List.mem_of_elem_eq_true rfl
  | differentInstructionLoad => apply @execDifferentInstructionLoad_kept _ _ s (Kept.refl s) <;> exact List.mem_of_elem_eq_true rfl

/-- Settles O1: it is the definition of a step. -/
theorem stepRunsFrontCommand : Obligations.StepRunsFrontCommand := by
  unfold Obligations.StepRunsFrontCommand
  intro s i rest h
  rw [step, h]

/-- Settles O3: by the frame lemma of each row. -/
theorem commandsAnswerWithinTheirFrame : Obligations.CommandsAnswerWithinTheirFrame := by
  unfold Obligations.CommandsAnswerWithinTheirFrame
  refine ⟨fun i s => ?_, fun i s t h => ?_⟩
  · obtain ⟨t, ht, -⟩ := exec_kept i s
    exact ⟨t, ht⟩
  · obtain ⟨u, hu, hkept⟩ := exec_kept i s
    obtain rfl := Host.Outcome.next.inj (h.symm.trans hu)
    exact hkept.only

/-- A nanosecond of the timebase keeps the canonical form. -/
theorem State.canon_idle {s : State} (h : s.canon = true) : s.idle.canon = true :=
  (State.idle_kept (E := fun _ => True) s (Kept.refl s) trivial trivial trivial trivial trivial trivial trivial trivial).2 h

/-- Settles O4: a step is a command's, which keeps the forms with its frame, or a nanosecond of the timebase. -/
theorem stepsKeepCanonicalForm : Obligations.StepsKeepCanonicalForm := by
  unfold Obligations.StepsKeepCanonicalForm
  intro s t hs h
  cases hp : s.pending with
  | nil =>
    rw [step, hp] at h
    obtain rfl := Host.Outcome.next.inj h
    exact State.canon_idle hs
  | cons i rest =>
    rw [step, hp] at h
    obtain ⟨u, hu, hkept⟩ := exec_kept i { s with pending := rest }
    obtain rfl := Host.Outcome.next.inj (h.symm.trans hu)
    exact hkept.2 hs

/-! ### The tick of an empty queue (R492) -/

section tick
variable {s : State}

theorem State.regs_countThrottle (s : State) : RegsKept [R.pwrThrdur] s s.countThrottle :=
  RegsKept.foldl _ (fun u n => ((RegsKept.refl _ u).setF F.pwrThrdurUs n _ (by decide)).ite (RegsKept.refl _ u)) _ (RegsKept.refl _ s)

theorem State.regs_writeFolded (s : State) : RegsKept recordRegs s s.writeFolded :=
  RegsKept.foldl _ (fun u _ => u.regs_appendRec _ _) _ ((RegsKept.refl _ s).of_regs rfl)

/-- A state whose kept registers hold the timebase shows the same NOW. -/
theorem RegsKept.now_eq {rs : List Reg} {t : State} (h : RegsKept rs s t) (w : F.tmbNowNs.key 0 / 128 % 256 ∉ rs.map (·.idx)) : t.now = s.now :=
  h.getF_eq w 0

theorem trimTick_untrimmed {a : Arch} (htrim : a.trim = 0) (hacc : a.trimAcc = 0) : trimTick a = (0, 0) := by
  rw [trimTick, htrim, hacc]
  rfl

theorem State.idle_below (h : s.phase < 2) : s.idle = s := by
  rw [State.idle, if_pos h]

/-- Without a rate trim NOW goes up by one, and what a microsecond or a millisecond brings leaves it. -/
theorem State.now_idle (hs : s.canon = true) (hph : 2 ≤ s.phase) (htrim : s.arch.trim = 0) (hacc : s.arch.trimAcc = 0) :
    s.idle.now = (s.now + 1) % 2 ^ 64 := by
  rw [State.idle, if_neg (by omega)]
  extract_lets d old a t u
  have ht : t.now = (s.now + 1) % 2 ^ 64 := by
    have hd : d = (0, 0) := trimTick_untrimmed htrim hacc
    have hn : ((old : Int) + 1 + d.1).toNat = s.now + 1 := by rw [hd]; exact Int.toNat_natCast (s.now + 1)
    exact (State.getF_setF_same (s := s.setArch _) (State.canon_regs hs) F.tmbNowNs 0 _).trans (congrArg (· % 2 ^ 64) hn)
  have hu : u.now = t.now := by
    by_cases hus : old / 1000 = t.now / 1000
    · simp only [u, if_pos hus]
    · simp only [u, if_neg hus]
      exact t.regs_countThrottle.now_eq (by decide)
  by_cases hms : old / 1000000 = u.now / 1000000
  · rw [if_pos hms, hu, ht]
  · rw [if_neg hms, u.regs_writeFolded.now_eq (by decide), hu, ht]

end tick

/-- Settles O2. -/
theorem idleStepIsATick : Obligations.IdleStepIsATick := by
  unfold Obligations.IdleStepIsATick
  intro s hs hp
  have hstep : step s = .next s.idle := by rw [step, hp]
  refine ⟨fun hph => ?_, fun hph htrim hacc => ⟨s.idle, hstep, State.now_idle hs hph htrim hacc⟩⟩
  rw [hstep, State.idle_below hph]

/-! ### The reset state -/

/-- In the reset state a field reads its value at reset. -/
theorem State.getF_reset (f : Fld) (i : Nat) : State.reset.getF f i = f.dflt i := rfl

/-- Settles O5: every table is empty, and every field holds its value at reset. -/
theorem resetLeaves : Obligations.ResetLeaves := by
  unfold Obligations.ResetLeaves
  refine ⟨rfl, rfl, rfl, rfl, rfl, rfl, fun _ => ⟨rfl, rfl⟩, fun _ => ⟨rfl, rfl⟩, fun _ => rfl, fun c => ?_, fun _ => ⟨rfl, rfl⟩⟩
  rw [State.isRetired, State.getF_reset]
  show bit 0 (c % 64) = false
  simp [bit, bits]

end Sys2Proof.Machine

/-!
PROOFS. Retirement of a cluster: the handling that closes with it (O56).
-/
namespace Sys2Proof.Machine

/-- At reset no record has been written, so that the next one is record 0; a retirement of that number is still handled. -/
def handlingZero : State := { State.reset with handling := [0] }

/-- The retirement writes record 0 and closes every handling of that number as it ends (R507). -/
theorem handling_accumulatorStoreError_handlingZero : handlingAfter (exec (.accumulatorStoreError 0) handlingZero) = some [] := by decide +kernel

/-- A context without reaches has no anchor (R93). -/
theorem State.anchor_none {s : State} {x : Nat} (h : (s.ctx x).reaches = []) : s.anchor x = none := by
  rw [State.anchor, State.clusterSet, h, State.clustersOf]
  exact List.head?_eq_none_iff.2 (List.filter_eq_nil_iff.2 fun _ _ => Bool.false_ne_true)

/-- Refutes O56: at a cluster without commands and without an anchor, a retirement also closes the open handling of the record that it writes, and the
statement's frame leaves the open handlings as they were. -/
theorem not_retirementsAndSpares : ¬Obligations.RetirementsAndSpares := by
  unfold Obligations.RetirementsAndSpares
  intro h
  obtain ⟨hretire, -⟩ := h handlingZero 0 0 0 0 (by decide +kernel)
  obtain ⟨t, ht, -, hframe⟩ := (hretire (.accumulatorStoreError 0) (Or.inl rfl)).2 (by decide +kernel) (by decide)
  obtain ⟨-, honly⟩ := hframe rfl fun x => by rw [State.anchor_none rfl]; exact nofun
  have hopen : t.handling = [0] := (honly .handling (by decide)).symm
  have hclosed := handling_accumulatorStoreError_handlingZero
  rw [ht, handlingAfter, hopen] at hclosed
  exact absurd hclosed (by decide)

end Sys2Proof.Machine

/-!
PROOFS. The host interface: doorbells, queue operations, and the oldest waiting record of a queue (O22, O21, O14).
-/
namespace Sys2Proof.Machine

theorem State.canon_queues {s : State} (h : s.canon = true) : rises s.queues = true := by
  obtain ⟨-, -, -, -, -, hqueues, -⟩ := State.canon_iff.1 h
  exact hqueues

/-- A raised cause leaves every field at another place. -/
theorem State.getF_raiseEvt (s : State) (fn : Nat) {f g : Fld} (i : Nat) (h : g.key 0 % 32768 ≠ f.key 0 % 32768) :
    (s.raiseEvt fn f).getF g i = s.getF g i :=
  (s.fields_raiseEvt fn f).getF_place i fun e he => by rw [List.mem_singleton.1 he]; exact h

/-- A step that leaves the queues leaves each one. -/
theorem OnlyChanged.queue_eq {m : List Comp} {s t : State} (h : OnlyChanged m s t) (w : Comp.queues ∉ m) (k : Nat) : t.queue k = s.queue k := by
  rw [State.queue, State.queue, ← h .queues w]

theorem State.only_setQueue (s : State) (q : Nat) (u : Queue) : OnlyChanged [.queues] s (s.setQueue q u) := fun c h => by
  cases c with
  | queues => exact absurd (List.mem_singleton.2 rfl) h
  | _ => rfl

theorem State.only_emit (s : State) (o : Out) : OnlyChanged [.out] s (s.emit o) := fun c h => by
  cases c with
  | out => exact absurd (List.mem_singleton.2 rfl) h
  | _ => rfl

/-! ### Doorbells (R397 to R399) -/

section doorbells
variable {s : State} {fn q v : Nat}

theorem exec_pciSqdb_reserved (h : bits v 32 32 ≠ 0) : exec (.pciSqdb fn q v) s = .next s :=
  congrArg _ (if_pos (bne_iff_ne.2 h))

theorem exec_pciCqdb_reserved (h : bits v 32 32 ≠ 0) : exec (.pciCqdb fn q v) s = .next s :=
  congrArg _ (if_pos (bne_iff_ne.2 h))

theorem exec_pciSqdb_moves (hv : bits v 32 32 = 0) (ho : s.ownsQueue fn q = true)
    (hroom : (lo32 v + 2 ^ 32 - s.getF F.pciQstatSqhead q) % 2 ^ 32 ≤ 2 ^ (s.queue q).sqLog2) :
    exec (.pciSqdb fn q v) s = .next (s.setQueue q { s.queue q with sqTail := lo32 v }) := by
  have hfit : ¬2 ^ (s.queue q).sqLog2 < (lo32 v + 0x100000000 - s.getF F.pciQstatSqhead q) % 0x100000000 := Nat.not_lt.2 hroom
  simp [exec, execPciSqdb, hv, ho, hfit]

theorem exec_pciCqdb_moves (hv : bits v 32 32 = 0) (ho : s.ownsQueue fn q = true)
    (hroom : (lo32 v + 2 ^ 32 - (s.queue q).cqHead) % 2 ^ 32 ≤ (s.getF F.pciQstatCqtail q + 2 ^ 32 - (s.queue q).cqHead) % 2 ^ 32) :
    exec (.pciCqdb fn q v) s = .next (s.setQueue q { s.queue q with cqHead := lo32 v }) := by
  have hfit : ¬(s.getF F.pciQstatCqtail q + 0x100000000 - (s.queue q).cqHead) % 0x100000000 <
      (lo32 v + 0x100000000 - (s.queue q).cqHead) % 0x100000000 := Nat.not_lt.2 hroom
  simp [exec, execPciCqdb, hv, ho, hfit]

theorem exec_doorbell_notOwned (hv : bits v 32 32 = 0) (ho : s.ownsQueue fn q = false) {i : Instr} (hi : i ∈ [Instr.pciSqdb fn q v, .pciCqdb fn q v]) :
    exec i s = .next (s.qErr q) := by
  simp only [List.mem_cons, List.not_mem_nil, or_false] at hi
  obtain rfl | rfl := hi
  · rw [exec, execPciSqdb, hv, ho]
    rfl
  · rw [exec, execPciCqdb, hv, ho]
    rfl

theorem State.qerr_qErr (hs : rises s.regs = true) : (s.qErr q).getF F.pciQstatQerr q = 1 := by
  have h : (s.setF F.pciQstatQerr q 1).getF F.pciQstatQerr q = 1 := State.getF_setF_same hs _ _ _
  rw [State.qErr]
  split
  · exact h
  · exact (State.getF_raiseEvt _ _ q (by decide)).trans h

theorem State.only_qErr (s : State) : OnlyChanged [.regs, .msixs, .out] s (s.qErr q) := by
  refine Kept.only ?_
  apply @State.qErr_kept _ _ s q (Kept.refl s) <;> exact List.mem_of_elem_eq_true rfl

theorem State.fields_qErr (s : State) : FieldsKept [(F.pciQstatQerr, q), (F.pciEvtcauseQerr, s.getF F.pciQstatOwner q)] s (s.qErr q) := by
  have h := (FieldsKept.refl [(F.pciQstatQerr, q), (F.pciEvtcauseQerr, s.getF F.pciQstatOwner q)] s).setF F.pciQstatQerr q 1 (by simp)
  rw [State.qErr]
  split
  · exact h
  · exact h.trans ((State.fields_raiseEvt _ _ _).mono (by simp))

end doorbells

/-- Settles O22. -/
theorem doorbellsMoveTheRings : Obligations.DoorbellsMoveTheRings := by
  unfold Obligations.DoorbellsMoveTheRings
  intro s fn q v hs
  have hregs := State.canon_regs hs
  have hqueues := State.canon_queues hs
  refine ⟨fun hv => ⟨exec_pciSqdb_reserved hv, exec_pciCqdb_reserved hv⟩, fun hv ho hroom => ?_, fun hv ho hroom => ?_, fun hv ho i hi => ?_⟩
  · exact ⟨_, exec_pciSqdb_moves hv ho hroom, State.queue_setQueue_same hqueues _ _, fun k hk => s.queue_setQueue_ne _ hk, s.only_setQueue _ _⟩
  · exact ⟨_, exec_pciCqdb_moves hv ho hroom, State.queue_setQueue_same hqueues _ _, fun k hk => s.queue_setQueue_ne _ hk, s.only_setQueue _ _⟩
  · exact ⟨_, exec_doorbell_notOwned hv ho hi, State.qerr_qErr hregs, s.only_qErr.queue_eq (by decide), s.only_qErr, s.fields_qErr⟩

/-! ### Queue operations (R394 to R396) -/

section operations
variable {s : State} {acr : Acr} {set v fn q : Nat}

theorem State.qCmd_idle (hset : fnSet acr set = fn) (hfn : fn < 64) (hbusy : s.flag F.pciQcmdstatBusy fn = false) (k : Nat → State) :
    s.qCmd acr set k = k fn := by
  subst hset
  rw [State.qCmd, hbusy]
  exact if_neg (by omega)

theorem State.regs_qOp (s : State) (fn q st : Nat) : RegsKept [R.pciQcmdstat, R.pciEvtcause] s (s.qOp fn q st) :=
  (((RegsKept.refl _ s).setF _ _ _ (by decide)).setF _ _ _ (by decide)).raiseEvt _ _ (by decide)

theorem State.fields_qOp (s : State) (fn q st : Nat) :
    FieldsKept [(F.pciQcmdstatStatus, fn), (F.pciQcmdstatQueue, fn), (F.pciEvtcauseEvt, fn)] s (s.qOp fn q st) :=
  (((FieldsKept.refl _ s).setF _ _ _ (by simp)).setF _ _ _ (by simp)).trans ((State.fields_raiseEvt _ _ _).mono (by simp))

theorem State.only_qOp (s : State) (fn q st : Nat) : OnlyChanged [.regs, .msixs, .out] s (s.qOp fn q st) :=
  (((OnlyChanged.refl _ s).setF _ _ _ (by decide)).setF _ _ _ (by decide)).trans (State.only_raiseEvt _ _ _)

theorem State.status_qOp (hs : rises s.regs = true) (fn q st : Nat) : (s.qOp fn q st).getF F.pciQcmdstatStatus fn = st % 256 :=
  ((State.getF_raiseEvt _ _ fn (by decide)).trans (State.getF_setF_place _ _ _ _ (by decide))).trans (State.getF_setF_same hs _ _ _)

theorem State.queue_qOp (hs : rises s.regs = true) (fn q st : Nat) : (s.qOp fn q st).getF F.pciQcmdstatQueue fn = q % 4096 :=
  (State.getF_raiseEvt _ _ fn (by decide)).trans (State.getF_setF_same (State.rises_setF hs _ _ _) _ _ _)

theorem exec_queueCreate_checks (hset : fnSet acr set = fn) (hfn : fn < 64) (hbusy : s.flag F.pciQcmdstatBusy fn = false) (hop : opOf v = 1) :
    exec (.queueCreate acr set v) s = .next (if s.qCreateStatus fn v = 0 then (s.makeQueue fn (s.freeQueue.getD 0)).qOp fn (s.freeQueue.getD 0) 0
      else s.qOp fn (s.getF F.pciQcmdstatQueue fn) (s.qCreateStatus fn v)) := by
  have hop2 : opOf v ≠ 2 := by omega
  rw [exec, execQueueCreate, if_neg hop2, State.qCmd_idle hset hfn hbusy]

/-- The fields of PCI_QSTAT at the creation of a queue (Table 16-7). -/
def createdQstat (fn : Nat) : List (Fld × Nat) :=
  [(F.pciQstatCqtail, 0), (F.pciQstatSqhead, 0), (F.pciQstatSkipped, 0), (F.pciQstatQerr, 0), (F.pciQstatState, 1), (F.pciQstatOwner, fn)]

theorem State.makeQueue_eq (s : State) (fn q : Nat) : s.makeQueue fn q = (s.setQueue q (queueOf (s.qDesc fn))).setFields q (createdQstat fn) := rfl

theorem createdQstat_apart (fn : Nat) : ((createdQstat fn).map (·.1)).Pairwise Fld.apart := by
  have h : [F.pciQstatCqtail, F.pciQstatSqhead, F.pciQstatSkipped, F.pciQstatQerr, F.pciQstatState, F.pciQstatOwner].Pairwise Fld.apart := by
    unfold Fld.apart
    decide
  exact h

theorem State.rises_makeQueue (hs : rises s.regs = true) (fn q : Nat) : rises (s.makeQueue fn q).regs = true :=
  State.rises_setF (State.rises_setF (State.rises_setF (State.rises_setF (State.rises_setF (State.rises_setF hs _ _ _) _ _ _) _ _ _) _ _ _) _ _ _) _ _ _

theorem State.getF_makeQueue (hs : rises s.regs = true) (q : Nat) {f : Fld} {x : Nat} (hf : (f, x) ∈ createdQstat fn) :
    (s.makeQueue fn q).getF f q = x % 2 ^ f.w := by
  rw [State.makeQueue_eq]
  exact State.getF_setFields hs q (createdQstat_apart fn) hf

theorem State.regs_makeQueue (s : State) (fn q : Nat) : RegsKept [R.pciQstat] s (s.makeQueue fn q) :=
  ((((((RegsKept.of_regs (RegsKept.refl _ s) rfl).setF _ _ _ (by decide)).setF _ _ _ (by decide)).setF _ _ _ (by decide)).setF _ _ _
    (by decide)).setF _ _ _ (by decide)).setF _ _ _ (by decide)

theorem State.queue_makeQueue_same (hs : rises s.queues = true) (fn q : Nat) : (s.makeQueue fn q).queue q = queueOf (s.qDesc fn) :=
  State.queue_setQueue_same hs q _

theorem State.queue_makeQueue_ne (s : State) (fn : Nat) {k : Nat} (hk : k ≠ q) : (s.makeQueue fn q).queue k = s.queue k :=
  s.queue_setQueue_ne _ hk

theorem State.only_makeQueue (s : State) (fn q : Nat) : OnlyChanged [.regs, .queues] s (s.makeQueue fn q) := by
  rw [State.makeQueue_eq]
  exact ((s.only_setQueue q _).mono (by decide)).trans ((State.only_setFields _ _ _).mono (by decide))

theorem State.freeQueue_lt (h : s.freeQueue = some q) : q < 4096 := by
  rw [State.freeQueue] at h
  exact List.mem_range.1 (List.mem_of_find?_eq_some h)

/-- The queue that a destroy names is FREE again. -/
def State.dropQueue (s : State) (q : Nat) : State := (s.setF F.pciQstatState q 0).setQueue q Queue.free

theorem State.only_dropQueue (s : State) (q : Nat) : OnlyChanged [.regs, .queues] s (s.dropQueue q) :=
  ((OnlyChanged.refl _ s).setF _ _ _ (by decide)).trans ((State.only_setQueue _ _ _).mono (by decide))

theorem State.fields_dropQueue (s : State) (q : Nat) : FieldsKept [(F.pciQstatState, q)] s (s.dropQueue q) :=
  ((FieldsKept.refl _ s).setF _ _ _ (by simp)).trans (.of_regs rfl)

/-- A destroy without set reserved bits, of a queue of the function that asks or for the physical function, goes by the queue's state. -/
theorem exec_queueDestroy_allowed (hset : fnSet acr set = fn) (hfn : fn < 64) (hbusy : s.flag F.pciQcmdstatBusy fn = false) (hop : opOf v = 2)
    (hres : bits v 12 48 = 0) (ho : fn = 0 ∨ s.getF F.pciQstatOwner (bits v 0 12) = fn) :
    exec (.queueDestroy acr set v) s = .next (
      if s.getF F.pciQstatState (bits v 0 12) != 2 || !(s.queue (bits v 0 12)).waiting.isEmpty || s.cmds.any (·.q == bits v 0 12) then
        s.qOp fn (bits v 0 12) 0x91
      else (s.dropQueue (bits v 0 12)).qOp fn (bits v 0 12) 0) := by
  have hother : (fn != 0 && s.getF F.pciQstatOwner (bits v 0 12) != fn) = false := by
    obtain h | h := ho <;> simp [h]
  simp only [exec, execQueueDestroy, hop, State.qCmd_idle hset hfn hbusy, hres, hother]
  rfl

theorem exec_queueDestroy_reserved (hset : fnSet acr set = fn) (hfn : fn < 64) (hbusy : s.flag F.pciQcmdstatBusy fn = false) (hop : opOf v = 2)
    (hres : bits v 12 48 ≠ 0) : exec (.queueDestroy acr set v) s = .next (s.qOp fn (bits v 0 12) 0x90) := by
  simp [exec, execQueueDestroy, hop, State.qCmd_idle hset hfn hbusy, hres]

theorem exec_queueDestroy_notOwned (hset : fnSet acr set = fn) (hfn : fn < 64) (hbusy : s.flag F.pciQcmdstatBusy fn = false) (hop : opOf v = 2)
    (hres : bits v 12 48 = 0) (h0 : fn ≠ 0) (ho : s.getF F.pciQstatOwner (bits v 0 12) ≠ fn) :
    exec (.queueDestroy acr set v) s = .next (s.qOp fn (bits v 0 12) 0x92) := by
  simp [exec, execQueueDestroy, hop, State.qCmd_idle hset hfn hbusy, hres, h0, ho]

end operations

/-- Settles O21. -/
theorem queuesAreCreatedAndDestroyed : Obligations.QueuesAreCreatedAndDestroyed := by
  unfold Obligations.QueuesAreCreatedAndDestroyed
  refine ⟨fun s acr set v fn hs hset hfn hbusy hop => ⟨fun q hst hq => ?created, fun hst => ?refused⟩, fun s acr set v fn hs hset hfn hbusy hop =>
    ⟨exec_queueDestroy_reserved hset hfn hbusy hop, exec_queueDestroy_notOwned hset hfn hbusy hop, fun hres ho hopen => ?kept,
      fun hres ho hstate hwait hcmds => ?destroyed⟩⟩
  case created =>
    have hregs := State.canon_regs hs
    have hmade := (s.regs_makeQueue fn q)
    have hrises := State.rises_makeQueue hregs fn q
    have hq4096 := State.freeQueue_lt hq
    have hstat (f : Fld) (x : Nat) (hf : (f, x) ∈ createdQstat fn) (hplace : f.key 0 / 128 % 256 ∉ [R.pciQcmdstat, R.pciEvtcause].map (·.idx)) :
        ((s.makeQueue fn q).qOp fn q 0).getF f q = x % 2 ^ f.w :=
      ((State.regs_qOp _ fn q 0).getF_eq hplace q).trans (State.getF_makeQueue hregs q hf)
    have hqueue := (State.only_qOp (s.makeQueue fn q) fn q 0).queue_eq (by decide)
    refine ⟨_, (exec_queueCreate_checks hset hfn hbusy hop).trans (by rw [if_pos hst, hq]; rfl), hstat _ 1 (by simp [createdQstat]) (by decide),
      (hstat _ fn (by simp [createdQstat]) (by decide)).trans (Nat.mod_eq_of_lt (Nat.lt_of_lt_of_le hfn (by decide))), hstat _ 0 (by simp [createdQstat]) (by decide),
      hstat _ 0 (by simp [createdQstat]) (by decide), ?_, ?_, (hqueue q).trans (State.queue_makeQueue_same (State.canon_queues hs) fn q),
      State.status_qOp hrises fn q 0, (State.queue_qOp hrises fn q 0).trans (Nat.mod_eq_of_lt hq4096),
      fun k hk => (hqueue k).trans (s.queue_makeQueue_ne fn hk),
      ((s.only_makeQueue fn q).mono (by decide)).trans ((State.only_qOp _ _ _ _).mono (by decide)),
      (hmade.mono (by decide)).trans ((State.regs_qOp _ _ _ _).mono (by decide))⟩
    · rw [hqueue, State.queue_makeQueue_same (State.canon_queues hs)]
      rfl
    · rw [hqueue, State.queue_makeQueue_same (State.canon_queues hs)]
      rfl
  case refused =>
    exact ⟨_, (exec_queueCreate_checks hset hfn hbusy hop).trans (by rw [if_neg hst]), State.status_qOp (State.canon_regs hs) _ _ _, s.only_qOp _ _ _,
      s.regs_qOp _ _ _⟩
  case kept =>
    refine (exec_queueDestroy_allowed hset hfn hbusy hop hres ho).trans (congrArg _ (if_pos ?_))
    simpa [or_assoc] using hopen
  case destroyed =>
    have hrises : rises (s.dropQueue (bits v 0 12)).regs = true := State.rises_setF (State.canon_regs hs) _ _ _
    have hqueue := (State.only_qOp (s.dropQueue (bits v 0 12)) fn (bits v 0 12) 0).queue_eq (by decide)
    refine ⟨_, (exec_queueDestroy_allowed hset hfn hbusy hop hres ho).trans (congrArg _ (if_neg (by simp [hstate, hwait, hcmds]))),
      ((State.regs_qOp _ _ _ _).getF_eq (by decide) _).trans (State.getF_setF_same (State.canon_regs hs) _ _ _),
      (hqueue _).trans (State.queue_setQueue_same (State.canon_queues hs) _ _), State.status_qOp hrises _ _ _,
      fun k hk => (hqueue k).trans (State.queue_setQueue_ne _ _ hk),
      ((s.only_dropQueue _).mono (by decide)).trans ((State.only_qOp _ _ _ _).mono (by decide)),
      ((s.fields_dropQueue _).mono (by simp)).trans ((State.fields_qOp _ _ _ _).mono (by simp))⟩

/-! ### The oldest waiting record (R399) -/

section waiting
variable {s : State} {q : Nat} {r : WaitRec} {rest : List WaitRec}

theorem State.writeWaiting_full (hw : (s.queue q).waiting = r :: rest) (hroom : s.cqRoom q = false) : s.writeWaiting q = s := by
  rw [State.writeWaiting, hw]
  exact if_neg (by simp [hroom])

theorem State.writeWaiting_room (hw : (s.queue q).waiting = r :: rest) (hroom : s.cqRoom q = true) :
    s.writeWaiting q = (s.setQueue q { s.queue q with waiting := rest }).putRecord q r.bytes := by
  rw [State.writeWaiting, hw]
  exact if_pos hroom

/-- A record in a ring in host memory of a queue that asks for no interrupt: one write to the host, and CQTAIL moves on. -/
theorem State.putRecord_quiet (hdev : (s.queue q).cqDev = false) (hien : (s.queue q).ien = false) (b : List Byte) :
    s.putRecord q b = (s.emit (.hostWrite (s.getF F.pciQstatOwner q)
      ((s.queue q).cqBase + 128 * (s.getF F.pciQstatCqtail q % 2 ^ (s.queue q).cqLog2)) (stampTend b s.now) false)).setF F.pciQstatCqtail q
        (s.getF F.pciQstatCqtail q + 1) := by
  simp only [State.putRecord, hdev, hien]
  rfl

end waiting

/-- Settles O14: once the record is taken off the list, the ring is written as the queue's own fields say. -/
theorem waitingRecordsAreWritten : Obligations.WaitingRecordsAreWritten := by
  unfold Obligations.WaitingRecordsAreWritten
  intro s q r rest hs hw
  refine ⟨fun hroom => congrArg _ (State.writeWaiting_full hw hroom), fun hroom => congrArg _ (State.writeWaiting_room hw hroom), fun hroom hdev hien => ?_⟩
  have hq : (s.setQueue q { s.queue q with waiting := rest }).queue q = { s.queue q with waiting := rest } :=
    State.queue_setQueue_same (State.canon_queues hs) _ _
  refine ⟨_, congrArg Host.Outcome.next ((State.writeWaiting_room hw hroom).trans (State.putRecord_quiet (by rw [hq]; exact hdev) (by rw [hq]; exact hien) _)),
    ?_, State.getF_setF_same (State.canon_regs hs) _ _ _, hq, ?_, ?_⟩
  · rw [hq]
    rfl
  · exact (((s.only_setQueue q _).mono (by decide)).trans ((State.only_emit _ _).mono (by decide))).setF _ _ _ (by decide)
  · exact (FieldsKept.of_regs rfl).setF _ _ _ (by simp)

end Sys2Proof.Machine

/-!
PROOFS. Queues after a context reset, accesses through the aperture, interrupt moderation and PCIe lanes (O17, O23, O24).
-/
namespace Sys2Proof.Machine

/-! ### The tails that a reset samples (R401) -/

section tails
variable {s : State} {x : Nat}

/-- A queue of context `x` that is still ENABLED skips to the tail that was sampled. -/
def State.skipOne (x : Nat) (s : State) (e : Nat × Nat) : State :=
  if s.getF F.pciQstatState e.1 == 1 && (s.queue e.1).ctx == x then s.skipTo e.1 e.2 else s

theorem State.skipTails_eq (s : State) (x : Nat) (tails : List (Nat × Nat)) : s.skipTails x tails = tails.foldl (State.skipOne x) s := rfl

/-- The fields that skipping writes. -/
def skipFields (q : Nat) : List (Fld × Nat) := [(F.pciQstatSqhead, q), (F.pciQstatSkipped, q)]

theorem State.fields_skipOne (s : State) (e : Nat × Nat) : FieldsKept (skipFields e.1) s (s.skipOne x e) := by
  rw [State.skipOne]
  split
  · exact ((FieldsKept.refl _ s).setF _ _ _ (by simp [skipFields])).setF _ _ _ (by simp [skipFields])
  · exact FieldsKept.refl _ s

theorem State.regs_skipOne (s : State) (e : Nat × Nat) (hs : rises s.regs = true) : rises (s.skipOne x e).regs = true := by
  rw [State.skipOne]
  split
  · exact State.rises_setF (State.rises_setF hs _ _ _) _ _ _
  · exact hs

theorem State.queue_skipOne (s : State) (e : Nat × Nat) (q : Nat) : (s.skipOne x e).queue q = s.queue q := by
  rw [State.skipOne]
  split <;> rfl

theorem State.getF_skipTails_place (s : State) (tails : List (Nat × Nat)) {f : Fld} (i : Nat)
    (h : f.key 0 % 32768 ≠ F.pciQstatSqhead.key 0 % 32768 ∧ f.key 0 % 32768 ≠ F.pciQstatSkipped.key 0 % 32768) :
    (s.skipTails x tails).getF f i = s.getF f i := by
  rw [State.skipTails_eq]
  induction tails generalizing s with
  | nil => rfl
  | cons e tails ih => exact (ih _).trans ((s.fields_skipOne e).getF_place i (by simpa [skipFields] using h))

theorem State.getF_skipTails_other (s : State) {tails : List (Nat × Nat)} {q : Nat} (hq : q ∉ tails.map (·.1)) {f : Fld} (hf : (f, q) ∈ skipFields q) :
    (s.skipTails x tails).getF f q = s.getF f q := by
  have hapart : F.pciQstatSqhead.apart F.pciQstatSkipped := by unfold Fld.apart; decide
  rw [State.skipTails_eq]
  induction tails generalizing s with
  | nil => rfl
  | cons e tails ih =>
    simp only [List.map_cons, List.mem_cons, not_or] at hq
    obtain ⟨hne, hrest⟩ := hq
    refine (ih _ hrest).trans (s.fields_skipOne e f q fun d hd => ?_)
    simp only [skipFields, List.mem_cons, List.not_mem_nil, or_false, Prod.mk.injEq, and_true] at hf hd
    obtain rfl | rfl := hf <;> obtain rfl | rfl := hd
    · exact Fld.key_ne_of_inst _ (Ne.symm hne)
    · exact Fld.key_ne_of_place _ _ (Ne.symm hapart)
    · exact Fld.key_ne_of_place _ _ hapart
    · exact Fld.key_ne_of_inst _ (Ne.symm hne)

/-- An ENABLED queue of the context with one sampled tail ends at that tail, and the commands between are counted. -/
theorem State.skipTails_sampled (hs : rises s.regs = true) {tails : List (Nat × Nat)} (hnodup : (tails.map (·.1)).Nodup) {e : Nat × Nat} (he : e ∈ tails)
    (hstate : s.getF F.pciQstatState e.1 = 1) (hctx : (s.queue e.1).ctx = x) :
    (s.skipTails x tails).getF F.pciQstatSqhead e.1 = e.2 % 2 ^ 32 ∧
      (s.skipTails x tails).getF F.pciQstatSkipped e.1 =
        (s.getF F.pciQstatSkipped e.1 + (e.2 + 2 ^ 32 - s.getF F.pciQstatSqhead e.1) % 2 ^ 32) % 2 ^ 32 := by
  induction tails generalizing s with
  | nil => exact absurd he List.not_mem_nil
  | cons d tails ih =>
    simp only [List.map_cons, List.nodup_cons] at hnodup
    obtain ⟨hout, hnodup⟩ := hnodup
    have hstep : s.skipTails x (d :: tails) = (s.skipOne x d).skipTails x tails := rfl
    rw [hstep]
    obtain rfl | he := List.mem_cons.1 he
    · rw [State.getF_skipTails_other _ hout (by simp [skipFields]), State.getF_skipTails_other _ hout (by simp [skipFields])]
      have hskip : s.skipOne x e = s.skipTo e.1 e.2 := by simp [State.skipOne, hstate, hctx]
      have hold : (s.setF F.pciQstatSqhead e.1 e.2).getF F.pciQstatSkipped e.1 = s.getF F.pciQstatSkipped e.1 := s.getF_setF_place _ _ _ (by decide)
      rw [hskip]
      refine ⟨(State.getF_setF_place _ _ _ _ (by decide)).trans (State.getF_setF_same hs _ _ _), ?_⟩
      refine (State.getF_setF_same (State.rises_setF hs _ _ _) _ _ _).trans ?_
      rw [hold]
      rfl
    · have hne : e.1 ≠ d.1 := fun h => hout (h ▸ List.mem_map_of_mem he)
      have hkeep {f : Fld} (hf : (f, e.1) ∈ skipFields e.1) : (s.skipOne x d).getF f e.1 = s.getF f e.1 :=
        State.getF_skipTails_other (tails := [d]) s (by simpa using hne) hf
      have := ih (s.regs_skipOne d hs) hnodup he ((s.getF_skipTails_place (x := x) [d] e.1 (by decide)).trans hstate) (by rw [State.queue_skipOne]; exact hctx)
      rwa [hkeep (f := F.pciQstatSqhead) (by simp [skipFields]), hkeep (f := F.pciQstatSkipped) (by simp [skipFields])] at this

end tails

/-- What ends a reset after the rings have been put back leaves PCI_QSTAT. -/
theorem State.qstat_finishReset (s : State) (x : Nat) (r : CtxReset) {f : Fld} (i : Nat)
    (h : f.key 0 / 128 % 256 ∉ [R.shtCtxcmdstat, R.pciEvtcause, R.shtCtxstat].map (·.idx)) :
    (s.finishReset x r).getF f i = (s.resetSkipped x r).getF f i := by
  have hdone : RegsKept [R.shtCtxstat] (s.resetSkipped x r) (s.resetDone x r) := ((RegsKept.refl _ _).setF _ _ _ (by decide)).of_regs rfl
  obtain ⟨hfinish, -⟩ := s.finishReset_frame x r
  exact ((hdone.mono (by decide)).trans (hfinish.mono (by decide)) : RegsKept [R.shtCtxcmdstat, R.pciEvtcause, R.shtCtxstat] _ _).getF_eq h i

/-- Settles O17: the registers of a context lie outside PCI_QSTAT, and each sampled tail is that of another queue. -/
theorem queuesSkipAfterAReset : Obligations.QueuesSkipAfterAReset := by
  unfold Obligations.QueuesSkipAfterAReset
  intro s x r hs hreset hbegun hstate horphans hnodup
  have hkept : Kept (fun c => c ∈ [Comp.regs, .ctxs, .msixs, .out]) s (s.finishReset x r) := by
    apply @State.finishReset_kept _ _ s x r (Kept.refl s) <;> exact List.mem_of_elem_eq_true rfl
  refine ⟨_, (exec_contextResetEnd hreset hbegun hstate).trans (by rw [if_neg (by simp [horphans])]), fun e he hq hctx => ?_, hkept.only.queue_eq (by decide)⟩
  let u := (s.resetCtxRegs x).setF F.shtCtxstatFstatus x 0
  have hu : RegsKept (R.shtCtxstat :: contextRegs) s u := ((s.regs_resetCtxRegs x).mono (by decide)).setF _ _ _ (by decide)
  have hrises : rises u.regs = true := State.rises_setF (State.rises_resetCtxRegs (State.canon_regs hs) x) _ _ _
  obtain ⟨hhead, hskipped⟩ := State.skipTails_sampled (x := x) hrises hnodup he ((hu.getF_eq (by decide) e.1).trans hq) hctx
  rw [hu.getF_eq (by decide), hu.getF_eq (by decide)] at hskipped
  refine ⟨?_, (s.qstat_finishReset x r e.1 (by decide)).trans hhead, (s.qstat_finishReset x r e.1 (by decide)).trans hskipped, ?_⟩
  · exact (s.qstat_finishReset x r e.1 (by decide)).trans ((u.getF_skipTails_place r.tails e.1 (by decide)).trans ((hu.getF_eq (by decide) e.1).trans hq))
  · exact (s.qstat_finishReset x r e.1 (by decide)).trans ((u.getF_skipTails_place r.tails e.1 (by decide)).trans (hu.getF_eq (by decide) e.1))

/-! ### The aperture (R393) -/

section aperture
variable {s : State} {fn addr : Nat}

theorem wordsOf_single {a n : Nat} (hn : n ≠ 0) (h : a / 64 = (a + n - 1) / 64) : wordsOf a n = [a / 64] := by
  rw [wordsOf, if_neg hn, ← h, Nat.sub_self]
  rfl

theorem exec_apertureRead_single {len : Nat} (hok : s.apertureOk fn addr len = true) (hlen : len ≠ 0) (hburst : addr / 64 = (addr + len - 1) / 64) :
    exec (.apertureRead fn addr len) s =
      .next ((s.readWord (addr / 64)).emit (.readReply fn (s.bytesAt addr len) (s.wordClass (addr / 64)).isPoison)) := by
  have hlo : max addr (addr / 64 * 64) = addr := by omega
  have hhi : min (addr + len) (addr / 64 * 64 + 64) - addr = len := by omega
  rw [exec, execApertureRead, if_pos hok, wordsOf_single hlen hburst, List.foldl_cons, List.foldl_nil]
  simp only [hlo, hhi]

theorem exec_apertureRead_refused {len : Nat} (hok : s.apertureOk fn addr len = false) :
    exec (.apertureRead fn addr len) s = .next ((s.apertureRefuse fn addr).emit (.unsupported fn)) :=
  congrArg _ (if_neg (by simp [hok]))

theorem exec_apertureWrite_allowed {bytes : List Byte} (hok : s.apertureOk fn addr bytes.length = true) (poisoned : Bool) :
    exec (.apertureWrite fn addr bytes poisoned) s = .next (if poisoned then s.poisonBytes addr bytes.length else s.writeBytes addr bytes) :=
  congrArg _ (if_pos hok)

theorem exec_apertureWrite_refused {bytes : List Byte} (hok : s.apertureOk fn addr bytes.length = false) (poisoned : Bool) :
    exec (.apertureWrite fn addr bytes poisoned) s = .next (s.apertureRefuse fn addr) :=
  congrArg _ (if_neg (by simp [hok]))

theorem State.byteAt_apertureRefuse (a : Nat) : (s.apertureRefuse fn addr).byteAt a = s.byteAt a := by
  refine OnlyChanged.byteAt_eq (m := recordComps) ?_ (by decide) (by decide) a
  exact (s.only_record _).trans ((State.only_raiseEvt _ _ _).mono (by decide))

end aperture

/-- Settles O23: inside one burst a read is one read of its word; a refused access leaves its record and its cause alone. -/
theorem theApertureAccessesDeviceMemory : Obligations.TheApertureAccessesDeviceMemory := by
  unfold Obligations.TheApertureAccessesDeviceMemory
  intro s fn addr len bytes hs
  refine ⟨fun hok hlen hburst => ?_, fun hok => ?_, exec_apertureRead_refused, exec_apertureWrite_refused, fun a => State.byteAt_apertureRefuse a⟩
  · exact ⟨_, exec_apertureRead_single hok hlen hburst, fun a => State.byteAt_readWord hs _ a, _, rfl⟩
  · exact ⟨exec_apertureWrite_allowed hok false, exec_apertureWrite_allowed hok true, fun b hb => State.byteAt_writeBytes_out hs addr bytes hb⟩

/-! ### Interrupt moderation (R402, R442) and PCIe lanes (R391) -/

section moderation
variable {unsig modTime firstAt now : Nat}

theorem modDue_eq_true (hu : unsig ≠ 0) (hm : modTime ≠ 0) (hdue : firstAt + modTime * 1000 ≤ now) : modDue unsig modTime firstAt now = true := by
  simp [modDue, hu, hm, hdue]

theorem modDue_eq_false (h : unsig = 0 ∨ modTime = 0 ∨ now < firstAt + modTime * 1000) : modDue unsig modTime firstAt now = false := by
  obtain h | h | h := h
  · simp [modDue, h]
  · simp [modDue, h]
  · simp [modDue, Nat.not_le.2 h]

theorem exec_moderationTimer_queue (s : State) (n : Nat) : exec (.interruptModerationTimer false n) s =
    .next (if (s.queue n).ien && modDue (s.queue n).unsig (s.queue n).modTime (s.queue n).firstAt s.now then s.queueMsg n else s) := rfl

theorem exec_moderationTimer_stream (s : State) (n : Nat) : exec (.interruptModerationTimer true n) s =
    .next (if modDue (s.stream n).unsig (s.stream n).modTime (s.stream n).firstAt s.now then s.streamMsg n else s) := rfl

theorem exec_pcieLaneFail_narrower {s : State} {lane width : Nat} (hw : width = 8 ∨ width = 4) (hlt : width < s.pcieLanes) :
    exec (.pcieLaneFail lane width) s =
      .next (({ s with pcieLanes := width } : State).record { cls := 0x20, sev := 2, kind := 5, unit := 0, sub := lane, syn := width }) := by
  rw [exec, execPcieLaneFail, if_pos (by simpa [hlt] using hw)]

theorem exec_pcieLaneFail_noNarrower {s : State} {lane width : Nat} (hle : s.pcieLanes ≤ width) : exec (.pcieLaneFail lane width) s = .next s := by
  rw [exec, execPcieLaneFail, if_neg (by simp [Nat.not_lt.2 hle])]

end moderation

/-- Settles O24: a timer acts when it is due, and a width below the link's own narrows it. -/
theorem interruptsAndPcieLanes : Obligations.InterruptsAndPcieLanes := by
  unfold Obligations.InterruptsAndPcieLanes
  refine ⟨fun s n => ⟨fun hi hu hm hdue => ?_, fun h => ?_, fun hu hm hdue => ?_, fun h => ?_⟩, fun s lane width hw => ⟨fun hlt => ?_, exec_pcieLaneFail_noNarrower⟩⟩
  · rw [exec_moderationTimer_queue, if_pos (by rw [hi, modDue_eq_true hu hm hdue]; rfl)]
    rfl
  · rw [exec_moderationTimer_queue]
    obtain h | h := h
    · rw [h]
      rfl
    · rw [modDue_eq_false h, Bool.and_false]
      rfl
  · rw [exec_moderationTimer_stream, modDue_eq_true hu hm hdue]
    rfl
  · rw [exec_moderationTimer_stream, modDue_eq_false h]
    rfl
  · exact ⟨_, exec_pcieLaneFail_narrower hw hlt, (State.record_agree _ _ .pcieLanes (by decide)).symm, rfl⟩

end Sys2Proof.Machine

/-!
PROOFS. Error records: the stages of a record's way into the error queue, and pops (O54).
-/
namespace Sys2Proof.Machine

/-! ### Folds over the registers -/

section folds
variable {α : Type} {s : State}

/-- A fold whose steps all leave a field leaves it. -/
theorem State.getF_foldl {f : Fld} {i : Nat} (g : State → α → State) (hg : ∀ u a, (g u a).getF f i = u.getF f i) (l : List α) (s : State) :
    (l.foldl g s).getF f i = s.getF f i := by
  induction l generalizing s with
  | nil => rfl
  | cons a l ih => exact (ih _).trans (hg s a)

theorem State.rises_setRange (hs : rises s.regs = true) (f : Fld) (v : Nat → Nat) (n : Nat) :
    rises ((List.range n).foldl (fun t i => t.setF f i (v i)) s).regs = true := by
  induction n with
  | zero => exact hs
  | succ n ih =>
    rw [List.range_succ, List.foldl_append]
    exact State.rises_setF ih f n (v n)

/-- Each place of a field in a range that is written reads its own value. -/
theorem State.getF_setRange (hs : rises s.regs = true) (f : Fld) (v : Nat → Nat) {n i : Nat} (hi : i < n) :
    ((List.range n).foldl (fun t i => t.setF f i (v i)) s).getF f i = v i % 2 ^ f.w := by
  induction n with
  | zero => exact absurd hi (Nat.not_lt_zero i)
  | succ n ih =>
    rw [List.range_succ, List.foldl_append, List.foldl_cons, List.foldl_nil]
    obtain hlt | rfl := Nat.lt_succ_iff_lt_or_eq.1 hi
    · rw [State.getF_setF_inst _ f (v n) (Nat.ne_of_lt hlt), ih hlt]
    · exact State.getF_setF_same (State.rises_setRange hs f v i) f i (v i)

/-- Writing a range leaves the fields at every other place. -/
theorem State.getF_setRange_place (s : State) {f g : Fld} (v : Nat → Nat) (n j : Nat) (h : g.key 0 % 32768 ≠ f.key 0 % 32768) :
    ((List.range n).foldl (fun t i => t.setF f i (v i)) s).getF g j = s.getF g j :=
  State.getF_foldl _ (fun u i => u.getF_setF_place i j (v i) h) _ s

end folds

/-! ### The oldest record is shown (R506) -/

section shown
variable {s : State}

theorem State.showOldest_eq (s : State) : s.showOldest = (List.range 8).foldl (fun t i => t.setF F.erqDataBytes i (fieldAt (s.erq.headD []) (8 * i) 8))
    (s.setF F.erqStatusCount 0 s.erq.length) := rfl

theorem State.getF_showOldest (s : State) {f : Fld} (i : Nat)
    (h : f.key 0 % 32768 ≠ F.erqDataBytes.key 0 % 32768 ∧ f.key 0 % 32768 ≠ F.erqStatusCount.key 0 % 32768) : s.showOldest.getF f i = s.getF f i := by
  obtain ⟨hdata, hcount⟩ := h
  rw [State.showOldest_eq, State.getF_setRange_place _ _ 8 i hdata, State.getF_setF_place _ _ _ _ hcount]

theorem State.count_showOldest (hs : rises s.regs = true) : s.showOldest.getF F.erqStatusCount 0 = s.erq.length % 2 ^ F.erqStatusCount.w := by
  rw [State.showOldest_eq, State.getF_setRange_place _ _ 8 0 (by decide), State.getF_setF_same hs]

theorem State.data_showOldest (hs : rises s.regs = true) {i : Nat} (hi : i < 8) :
    s.showOldest.getF F.erqDataBytes i = fieldAt (s.erq.headD []) (8 * i) 8 % 2 ^ F.erqDataBytes.w := by
  rw [State.showOldest_eq, State.getF_setRange (State.rises_setF hs _ _ _) F.erqDataBytes _ hi]

theorem State.rises_showOldest (hs : rises s.regs = true) : rises s.showOldest.regs = true := by
  rw [State.showOldest_eq]
  exact State.rises_setRange (State.rises_setF hs _ _ _) _ _ 8

theorem State.only_showOldest (s : State) : OnlyChanged [.regs] s s.showOldest :=
  Kept.only (State.showOldest_kept s (Kept.refl s) (by decide))

theorem State.shownRegs_showOldest (s : State) : RegsKept [R.erqStatus, R.erqData] s s.showOldest :=
  RegsKept.foldl _ (fun u i => (RegsKept.refl _ u).setF F.erqDataBytes i _ (by decide)) _ ((RegsKept.refl _ s).setF F.erqStatusCount 0 _ (by decide))

end shown

/-! ### The stages of a record (R503 to R508) -/

section stages
variable {s : State} {sev : Nat} {b : List Byte}

/-- The record joins the error queue, or is counted as lost in a full one. -/
def State.queueRec (s : State) (b : List Byte) : State :=
  if s.erq.length < 1024 then
    if s.erq.isEmpty then (({ s with erq := s.erq ++ [b] } : State).raiseEvt 0 F.pciEvtcauseErq).emit (.mctp 1 s.rseq 0) else { s with erq := s.erq ++ [b] }
  else s.bumpSat F.erqStatusLost 0 1

/-- The record is logged from severity 2 on. -/
def State.logRec (s : State) (sev : Nat) (b : List Byte) : State := if sev ≥ 2 then { s with fwLog := b :: s.fwLog } else s

/-- A record of severity 3 is shown in ERQ_FATAL. -/
def State.showFatal (s : State) (sev : Nat) (b : List Byte) : State :=
  if sev = 3 then ((List.range 8).foldl (fun t i => t.setF F.erqFatalBytes i (fieldAt b (8 * i) 8)) s).setF F.erqStatusFatalv 0 1 else s

/-- The next record takes the next RSEQ. -/
def State.nextRseq (s : State) : State := { s with rseq := lo32 (s.rseq + 1) }

/-- A record degrades the device, or stops it (R508). -/
def State.judge (s : State) (r : Rec) : State :=
  let t := if degrades r.cls && s.getF F.erqStatusState 0 == 0 then s.setF F.erqStatusState 0 1 else s
  if r.sev = 3 then t.setF F.erqStatusState 0 2 else t

theorem State.appendRec_eq (s : State) (sev : Nat) (b : List Byte) : s.appendRec sev b = (((s.queueRec b).logRec sev b).showFatal sev b).nextRseq.showOldest :=
  rfl

theorem State.record_eq {r : Rec} (h : isFolded r.cls = false) : s.record r = (s.appendRec r.sev (s.makeRec r)).judge r := by
  rw [State.record, h]
  rfl

theorem State.queueRec_kept (s : State) (b : List Byte) : Kept (fun c => c ∈ [Comp.regs, .erq, .msixs, .out]) s (s.queueRec b) := by
  have hjoin : Kept (fun c => c ∈ [Comp.regs, .erq, .msixs, .out]) s { s with erq := s.erq ++ [b] } := (kept_erq (by decide) _).2 (Kept.refl s)
  exact kept_ite (kept_ite (State.emit_kept _ _ (State.raiseEvt_kept _ _ _ hjoin (by decide) (by decide) (by decide)) (by decide)) hjoin)
    (State.bumpSat_kept _ _ _ _ (Kept.refl s) (by decide))

theorem State.logRec_kept (s : State) (sev : Nat) (b : List Byte) : Kept (fun c => c ∈ [Comp.fwLog]) s (s.logRec sev b) :=
  kept_ite ((kept_fwLog (by decide) _).2 (Kept.refl s)) (Kept.refl s)

theorem State.showFatal_kept (s : State) (sev : Nat) (b : List Byte) : Kept (fun c => c ∈ [Comp.regs]) s (s.showFatal sev b) :=
  kept_ite (State.setF_kept _ _ _ _ (kept_foldl _ (fun t _ h => State.setF_kept t _ _ _ h (by decide)) _ (Kept.refl s)) (by decide)) (Kept.refl s)

theorem State.erq_queueRec (s : State) (b : List Byte) : (s.queueRec b).erq = if s.erq.length < 1024 then s.erq ++ [b] else s.erq := by
  rw [State.queueRec]
  split
  · split
    · exact ((State.only_emit _ _ .erq (by decide)).symm).trans (State.only_raiseEvt _ _ _ .erq (by decide)).symm
    · rfl
  · rfl

theorem State.lost_queueRec (hs : rises s.regs = true) (hfull : 1024 ≤ s.erq.length) :
    (s.queueRec b).getF F.erqStatusLost 0 = satAdd F.erqStatusLost.w (s.getF F.erqStatusLost 0) 1 % 2 ^ F.erqStatusLost.w := by
  rw [State.queueRec, if_neg (Nat.not_lt.2 hfull)]
  exact State.getF_setF_same hs _ _ _

theorem State.state_queueRec (s : State) (b : List Byte) : (s.queueRec b).getF F.erqStatusState 0 = s.getF F.erqStatusState 0 := by
  rw [State.queueRec]
  split
  · split
    · exact State.getF_raiseEvt _ _ 0 (by decide)
    · rfl
  · exact State.getF_setF_place _ _ _ _ (by decide)

theorem State.getF_showFatal (s : State) {f : Fld} (i : Nat)
    (h : f.key 0 % 32768 ≠ F.erqStatusFatalv.key 0 % 32768 ∧ f.key 0 % 32768 ≠ F.erqFatalBytes.key 0 % 32768) :
    (s.showFatal sev b).getF f i = s.getF f i := by
  rw [State.showFatal]
  split
  · exact (State.getF_setF_place _ _ _ _ h.1).trans (State.getF_setRange_place _ _ 8 i h.2)
  · rfl

theorem State.getF_logRec (s : State) (sev : Nat) (b : List Byte) (f : Fld) (i : Nat) : (s.logRec sev b).getF f i = s.getF f i := by
  rw [State.logRec]
  split <;> rfl

theorem State.fwLog_logRec (s : State) (sev : Nat) (b : List Byte) : (s.logRec sev b).fwLog = (if 2 ≤ sev then [b] else []) ++ s.fwLog := by
  rw [State.logRec]
  split <;> rfl

/-- After the stage that queues it a record's way changes one component of the model beside the registers. -/
def State.staged (s : State) (sev : Nat) (b : List Byte) : State := ((s.queueRec b).logRec sev b).showFatal sev b

theorem State.canon_staged (hs : s.canon = true) (sev : Nat) (b : List Byte) : (s.staged sev b).canon = true :=
  (State.showFatal_kept _ sev b).2 ((State.logRec_kept _ sev b).2 ((s.queueRec_kept b).2 hs))

theorem State.rises_nextRseq (hs : s.canon = true) (sev : Nat) (b : List Byte) : rises (s.staged sev b).nextRseq.regs = true :=
  State.canon_regs (State.canon_staged hs sev b)

theorem State.getF_staged (s : State) (sev : Nat) (b : List Byte) {f : Fld} (i : Nat)
    (h : f.key 0 % 32768 ≠ F.erqStatusFatalv.key 0 % 32768 ∧ f.key 0 % 32768 ≠ F.erqFatalBytes.key 0 % 32768) :
    (s.staged sev b).nextRseq.getF f i = (s.queueRec b).getF f i :=
  (State.getF_showFatal _ i h).trans (State.getF_logRec _ sev b f i)

theorem State.erq_staged (s : State) (sev : Nat) (b : List Byte) : (s.staged sev b).nextRseq.erq = if s.erq.length < 1024 then s.erq ++ [b] else s.erq := by
  rw [← s.erq_queueRec b]
  exact ((State.showFatal_kept _ sev b).only .erq (by decide)).symm.trans ((State.logRec_kept _ sev b).only .erq (by decide)).symm

theorem State.fwLog_staged (s : State) (sev : Nat) (b : List Byte) : (s.staged sev b).fwLog = (if 2 ≤ sev then [b] else []) ++ s.fwLog := by
  rw [show s.fwLog = (s.queueRec b).fwLog from (s.queueRec_kept b).only .fwLog (by decide), ← State.fwLog_logRec]
  exact ((State.showFatal_kept _ sev b).only .fwLog (by decide)).symm

theorem State.rseq_staged (s : State) (sev : Nat) (b : List Byte) : (s.staged sev b).nextRseq.rseq = lo32 (s.rseq + 1) := by
  have h : s.rseq = (s.staged sev b).rseq := ((s.queueRec_kept b).only .rseq (by decide)).trans
    (((State.logRec_kept _ sev b).only .rseq (by decide)).trans ((State.showFatal_kept _ sev b).only .rseq (by decide)))
  rw [h]
  rfl

theorem State.folded_staged (s : State) (sev : Nat) (b : List Byte) : (s.staged sev b).folded = s.folded :=
  (((s.queueRec_kept b).only .folded (by decide)).trans
    (((State.logRec_kept _ sev b).only .folded (by decide)).trans ((State.showFatal_kept _ sev b).only .folded (by decide)))).symm

theorem State.fields_judge (s : State) (r : Rec) : FieldsKept [(F.erqStatusState, 0)] s (s.judge r) := by
  have h : FieldsKept [(F.erqStatusState, 0)] s (if degrades r.cls && s.getF F.erqStatusState 0 == 0 then s.setF F.erqStatusState 0 1 else s) := by
    split
    · exact (FieldsKept.refl _ s).setF _ _ _ (by simp)
    · exact FieldsKept.refl _ s
  rw [State.judge]
  split
  · exact h.setF _ _ _ (by simp)
  · exact h

theorem State.only_judge (s : State) (r : Rec) : OnlyChanged [.regs] s (s.judge r) :=
  Kept.only (kept_ite (State.setF_kept _ _ _ _ (kept_ite (State.setF_kept _ _ _ _ (Kept.refl s) (by decide)) (Kept.refl s)) (by decide))
    (kept_ite (State.setF_kept _ _ _ _ (Kept.refl s) (by decide)) (Kept.refl s)))

theorem State.running_judge_fatal (hs : rises s.regs = true) {r : Rec} (h : r.sev = 3) : (s.judge r).running = false := by
  have hrises : rises (if degrades r.cls && s.getF F.erqStatusState 0 == 0 then s.setF F.erqStatusState 0 1 else s).regs = true := by
    split
    · exact State.rises_setF hs _ _ _
    · exact hs
  have h2 : (s.judge r).getF F.erqStatusState 0 = 2 := by
    rw [State.judge, if_pos h]
    exact State.getF_setF_same hrises _ _ _
  rw [State.running, h2]
  rfl

theorem State.running_judge (hs : rises s.regs = true) {r : Rec} (h : r.sev ≠ 3) : (s.judge r).running = s.running := by
  rw [State.judge, if_neg h]
  split
  case isTrue hd =>
    obtain ⟨-, h0⟩ := Bool.and_eq_true_iff.1 hd
    have h1 : (s.setF F.erqStatusState 0 1).getF F.erqStatusState 0 = 1 := State.getF_setF_same hs _ _ _
    rw [State.running, State.running, h1, beq_iff_eq.1 h0]
    rfl
  case isFalse => rfl

end stages

section records
variable {s : State} {r : Rec}

theorem State.record_folds (h : isFolded r.cls = true) : (s.record r).erq = s.erq ∧ (s.record r).rseq = s.rseq := by
  rw [State.record, if_pos h]
  split <;> exact ⟨rfl, rfl⟩

theorem State.record_stages (h : isFolded r.cls = false) : s.record r = ((s.staged r.sev (s.makeRec r)).nextRseq.showOldest).judge r := by
  rw [State.record_eq h, State.appendRec_eq]
  rfl

/-- What a record leaves in the model's components is what its stages leave. -/
theorem State.agree_record (h : isFolded r.cls = false) {c : Comp} (hc : c ≠ .regs) :
    c.agree (s.staged r.sev (s.makeRec r)).nextRseq (s.record r) := by
  rw [State.record_stages h]
  exact ((State.only_showOldest _).trans (State.only_judge _ r)) c (by simpa using hc)

theorem State.getF_record (h : isFolded r.cls = false) {f : Fld} (i : Nat) (w : f.key 0 % 32768 ≠ F.erqStatusState.key 0 % 32768) :
    (s.record r).getF f i = (s.staged r.sev (s.makeRec r)).nextRseq.showOldest.getF f i := by
  rw [State.record_stages h]
  exact (State.fields_judge _ r).getF_place i fun e he => by rw [List.mem_singleton.1 he]; exact w

theorem State.erq_record (h : isFolded r.cls = false) :
    (s.record r).erq = if s.erq.length < 1024 then s.erq ++ [s.makeRec r] else s.erq :=
  (State.agree_record h (c := .erq) (by decide)).symm.trans (s.erq_staged _ _)

theorem State.running_staged (s : State) (sev : Nat) (b : List Byte) : (s.staged sev b).nextRseq.showOldest.running = s.running := by
  rw [State.running, State.getF_showOldest _ 0 (by decide), s.getF_staged sev b 0 (by decide), s.state_queueRec]
  rfl

/-- A record of severity 3 stops the device (R508). -/
theorem State.running_record_fatal (hs : s.canon = true) (hf : isFolded r.cls = false) (h3 : r.sev = 3) : (s.record r).running = false := by
  rw [State.record_stages hf]
  exact State.running_judge_fatal (State.rises_showOldest (State.rises_nextRseq hs r.sev (s.makeRec r))) h3

/-- ERQ_POP by the physical function or the management bus. -/
theorem exec_erqPop {acr : Acr} (hacr : acr ∈ [Acr.fn 0, .mb]) (v : Nat) : exec (.erqPop acr v) s = .next (match s.erq with
    | a :: rest => if fieldAt a 12 4 = v then ({ s with erq := rest } : State).showOldest else s
    | [] => s) :=
  congrArg Host.Outcome.next (State.forDevice_of_mem hacr _)

end records

/-- Settles O54: a record that is not folded goes through its stages one by one, each of which leaves what the others set. -/
theorem recordsAreQueuedAndPopped : Obligations.RecordsAreQueuedAndPopped := by
  unfold Obligations.RecordsAreQueuedAndPopped
  intro s r hs
  have hregs := State.canon_regs hs
  refine ⟨fun hf => ?queued, State.record_folds, s.only_record r, s.regs_record r, fun v acr hacr => ⟨fun a rest hq hv => ?popped, fun a rest hq hv => ?other,
    fun hq => ?empty⟩⟩
  case queued =>
    have hrises := State.rises_nextRseq hs r.sev (s.makeRec r)
    have hshown := State.rises_showOldest hrises
    refine ⟨(State.agree_record hf (c := .rseq) (by decide)).symm.trans (s.rseq_staged _ _),
      (State.agree_record hf (c := .folded) (by decide)).symm.trans (s.folded_staged _ _), fun hlt => (State.erq_record hf).trans (if_pos hlt),
      fun hge => ⟨(State.erq_record hf).trans (if_neg (Nat.not_lt.2 hge)), ?_⟩,
      (State.agree_record hf (c := .fwLog) (by decide)).symm.trans (s.fwLog_staged _ _), State.running_record_fatal hs hf, fun h3 => ?_, ?_⟩
    · rw [State.getF_record hf 0 (by decide), State.getF_showOldest _ 0 (by decide), s.getF_staged _ _ 0 (by decide), State.lost_queueRec hregs hge]
    · rw [State.record_stages hf, State.running_judge hshown h3, s.running_staged]
    · rw [State.getF_record hf 0 (by decide), State.count_showOldest hrises, s.erq_staged, State.erq_record hf]
  case popped =>
    have hexec : exec (.erqPop acr v) s = .next ({ s with erq := rest } : State).showOldest := by rw [exec_erqPop hacr, hq]; exact congrArg _ (if_pos hv)
    have hother : OnlyChanged [.regs, .erq] s ({ s with erq := rest } : State) := Kept.only ((kept_erq (by decide) _).2 (Kept.refl s))
    refine ⟨_, hexec, ((State.only_showOldest _) .erq (by decide)).symm, State.count_showOldest (s := { s with erq := rest }) hregs,
      fun i hi => State.data_showOldest (s := { s with erq := rest }) hregs hi,
      hother.trans ((State.only_showOldest _).mono (by decide)), ?_⟩
    exact ((RegsKept.refl _ s).of_regs rfl).trans (State.shownRegs_showOldest _)
  case other =>
    rw [exec_erqPop hacr, hq]
    exact congrArg _ (if_neg hv)
  case empty =>
    rw [exec_erqPop hacr, hq]

end Sys2Proof.Machine

/-!
PROOFS. Fatal errors: what stops with the device, the commands that a stopped device does not run, and the loss of an island (O57).
-/
namespace Sys2Proof.Machine

/-! ### The device stops (R508, R519) -/

section fatal
variable {s : State}

/-- Commands, handlings and jobs are gone before the agents and streams stop. -/
theorem State.fatalStop_emptied (s : State) : s.fatalStop.cmds = [] ∧ s.fatalStop.flash.jobs = [] := by
  let u : State := ({ s with handling := [], cmds := [], fences := [] } : State).setFlash { s.flash with jobs := [] }
  have h : Kept (fun c => c ∈ [Comp.agents, .streams]) u s.fatalStop :=
    kept_foldl _ (fun t e ht => State.setStream_kept _ _ _ ht (by decide)) _
      (kept_foldl _ (fun t p ht => State.setAgent_kept _ _ _ ht (by decide)) _ (Kept.refl u))
  exact ⟨(h.only .cmds (by decide)).symm, congrArg Flash.jobs (h.only .flash (by decide)).symm⟩

theorem State.fatalStop_frame (s : State) : Kept (fun c => c ∈ [Comp.agents, .cmds, .fences, .flash, .handling, .streams]) s s.fatalStop := by
  apply @State.fatalStop_kept _ _ s (Kept.refl s) <;> exact List.mem_of_elem_eq_true rfl

/-- The record of a fatal error. -/
def fatalRec (cls kind unit syn : Nat) : Rec := { cls := cls, sev := 3, kind := kind, unit := unit, syn := syn }

theorem State.fatal_eq (s : State) (cls kind unit syn : Nat) : s.fatal cls kind unit syn = (s.record (fatalRec cls kind unit syn)).fatalStop := rfl

/-- What every fatal error leaves behind. -/
structure State.Stopped (s t : State) : Prop where
  running : t.running = false
  cmds : t.cmds = []
  jobs : t.flash.jobs = []
  bytes : ∀ a, t.byteAt a = s.byteAt a

theorem State.stopped_fatal (hs : s.canon = true) {cls : Nat} (hf : isFolded cls = false) (kind unit syn : Nat) :
    s.Stopped (s.fatal cls kind unit syn) := by
  rw [State.fatal_eq]
  let r := fatalRec cls kind unit syn
  have hframe := (s.record r).fatalStop_frame.only
  have hregs : (s.record r).regs = (s.record r).fatalStop.regs := hframe .regs (by decide)
  obtain ⟨hcmds, hjobs⟩ := (s.record r).fatalStop_emptied
  refine ⟨?_, hcmds, hjobs, fun a => ?_⟩
  · have hrec : (s.record r).running = false := State.running_record_fatal hs hf rfl
    rwa [State.running, State.getF, hregs] at hrec
  · exact (hframe.byteAt_eq (by decide) (by decide) a).trans ((s.only_record r).byteAt_eq (by decide) (by decide) a)

/-- The sequencer and the pins lie outside what a stop is judged by. -/
theorem State.Stopped.hardFatal {t : State} (h : s.Stopped t) : s.Stopped (t.setSeqr { t.seqr with hardFatal := true }) :=
  ⟨h.running, h.cmds, h.jobs, h.bytes⟩

theorem exec_sysclkLoss_stops (hp : s.pins.refLost = false) (hb : s.pins.standby = true) : exec .sysclkLoss s =
    .next (((s.setPins { s.pins with refLost := true }).fatal 0x43 7 8 0).setSeqr
      { ((s.setPins { s.pins with refLost := true }).fatal 0x43 7 8 0).seqr with hardFatal := true }) := by
  rw [exec, execSysclkLoss, hp, hb]
  rfl

theorem exec_pgFall_core {rail : Nat} (ht : s.pins.boardTest = false) (hlo : 2 ≤ rail) (hhi : rail ≤ 4) (hp : 1 ≤ s.phase) :
    exec (.pgFall rail) s = .next ((s.fatal 0x42 7 20 20).setSeqr { (s.fatal 0x42 7 20 20).seqr with hardFatal := true }) := by
  rw [exec, execPgFall, ht, if_neg Bool.false_ne_true, if_neg (by omega), if_neg (by omega), if_pos ⟨hlo, hhi⟩, if_pos hp]

theorem exec_pgFall_flash {rail : Nat} (ht : s.pins.boardTest = false) (hlo : 11 ≤ rail) (hhi : rail ≤ 13) (hp : 6 ≤ s.phase) :
    exec (.pgFall rail) s = .next (s.fatal 0x42 7 20 20) := by
  rw [exec, execPgFall, ht, if_neg Bool.false_ne_true, if_neg (by omega), if_neg (by omega), if_neg (by omega), if_pos ⟨hlo, hhi⟩, if_pos hp]

end fatal

/-! ### A stopped device -/

section stopped
variable {s : State} (h : s.running = false)
include h

theorem State.portRuns_stopped (p : Nat) : s.portRuns p = false := by
  rw [State.portRuns, h, Bool.and_false]

theorem State.testDue_stopped (cl : Nat) (b : Bundle) : s.testDue cl b = false := by
  simp [State.testDue, h]

theorem exec_partStart_stopped (cl u : Nat) : exec (.partStart cl u) s = .next s := exec_partStart_idle (.inl h)

theorem exec_commandComplete_stopped (q seq : Nat) : exec (.commandComplete q seq) s = .next s := by
  simp only [exec, execCommandComplete, h, Bool.false_and]
  split <;> rfl

theorem exec_attnRingStep_stopped (q seq : Nat) : exec (.attnRingStep q seq) s = .next s := by
  simp only [exec, execAttnRingStep, h, Bool.false_and]
  split <;> rfl

theorem exec_imageInstall_stopped (cl : Nat) : exec (.imageInstall cl) s = .next s := by
  simp only [exec, execImageInstall, h, Bool.false_and]
  rfl

theorem exec_watchdogCheck_stopped : exec .watchdogCheck s = .next s := by
  simp only [exec, execWatchdogCheck, h]
  rfl

theorem exec_contextTeardown_stopped (x : Nat) : exec (.contextTeardown x) s = .next s := by
  simp only [exec, execContextTeardown, h, Bool.false_and]
  split <;> rfl

theorem exec_fleetTestItem_stopped (cl e : Nat) : exec (.fleetTestItem cl e) s = .next s := by
  simp only [exec, execFleetTestItem, State.testDue_stopped h]
  split <;> rfl

theorem exec_frameFetch_stopped (n : Nat) (b : List Byte) : exec (.frameFetch n b) s = .next s := by
  simp only [exec, execFrameFetch, h]
  simp

theorem exec_frameStart_stopped (e : Nat) : exec (.frameStart e) s = .next s := by
  simp only [exec, execFrameStart, h]
  simp

theorem exec_frameDeadline_stopped (n : Nat) : exec (.frameDeadline n) s = .next s := by
  simp only [exec, execFrameDeadline, h, Bool.false_and]
  split <;> rfl

theorem exec_codecHwError_stopped (e : Nat) : exec (.codecHwError e) s = .next s := by
  simp only [exec, execCodecHwError, h]
  split
  · rfl
  · split <;> rfl

theorem exec_wrPerformed_stopped (p w : Nat) : exec (.wrPerformed p w) s = .next s := by
  simp only [exec, execWrPerformed, h]
  split <;> rfl

theorem exec_wr_stopped (p : Nat) : exec (.wr p) s = .next s := by
  simp only [exec, execWr, State.portRuns_stopped h]
  split <;> rfl

theorem exec_wack_stopped (p : Nat) : exec (.wack p) s = .next s := by
  simp only [exec, execWack, State.portRuns_stopped h, Bool.false_and]
  rfl

end stopped

/-! ### The loss of an island (R518) -/

section island
variable {s : State} {n : Nat} {cause : Option Nat}

theorem State.regs_loseSite (s : State) (n : Nat) (cause : Option Nat) : RegsKept (R.memStatus :: recordRegs) s (s.loseSite n cause) := by
  rw [State.loseSite]
  refine RegsKept.ite (RegsKept.refl _ s) ?_
  exact ((RegsKept.refl _ s).setF _ _ _ (by decide)).trans ((State.regs_record _ _).mono (by decide))

theorem State.canon_loseSite (hs : s.canon = true) (n : Nat) (cause : Option Nat) : (s.loseSite n cause).canon = true := by
  refine (?_ : Kept (fun _ => True) s (s.loseSite n cause)).2 hs
  apply @State.loseSite_kept _ _ s n cause (Kept.refl s) <;> exact trivial

/-- A record leaves the state of a site. -/
theorem State.siteState_record (s : State) (r : Rec) (k : Nat) : (s.record r).getF F.memStatusState k = s.getF F.memStatusState k :=
  (s.regs_record r).getF_eq (by decide) k

theorem State.siteState_loseSite_ne (s : State) (cause : Option Nat) {k : Nat} (hk : k ≠ n) :
    (s.loseSite n cause).getF F.memStatusState k = s.getF F.memStatusState k := by
  rw [State.loseSite]
  split
  · rfl
  · exact (State.siteState_record _ _ k).trans (s.getF_setF_inst _ _ hk)

theorem State.siteState_loseSite (hs : rises s.regs = true) (cause : Option Nat) (hn : s.getF F.memStatusState n ≠ 0) :
    (s.loseSite n cause).getF F.memStatusState n = 5 := by
  by_cases h5 : s.getF F.memStatusState n = 5
  · rw [State.loseSite, if_pos (by simp [h5]), h5]
  · rw [State.loseSite, if_neg (by simp [hn, h5])]
    exact (State.siteState_record _ _ n).trans (State.getF_setF_same hs _ _ _)

/-- The sites of a list are lost one by one. -/
def State.loseSites (s : State) (l : List Nat) (cause : Option Nat) : State := l.foldl (fun t n => t.loseSite n cause) s

theorem State.siteState_loseSites_lost (hs : s.canon = true) (l : List Nat) (h5 : s.getF F.memStatusState n = 5) :
    (s.loseSites l cause).getF F.memStatusState n = 5 := by
  induction l generalizing s with
  | nil => exact h5
  | cons m l ih =>
    refine ih (State.canon_loseSite hs m cause) ?_
    by_cases hm : n = m
    · exact hm ▸ State.siteState_loseSite (State.canon_regs hs) cause (by rw [h5]; decide)
    · exact (s.siteState_loseSite_ne cause hm).trans h5

theorem State.siteState_loseSites (hs : s.canon = true) {l : List Nat} (hl : n ∈ l) (hn : s.getF F.memStatusState n ≠ 0) :
    (s.loseSites l cause).getF F.memStatusState n = 5 := by
  induction l generalizing s with
  | nil => exact absurd hl List.not_mem_nil
  | cons m l ih =>
    by_cases hm : n = m
    · subst hm
      exact State.siteState_loseSites_lost (State.canon_loseSite hs n cause) l (State.siteState_loseSite (State.canon_regs hs) cause hn)
    · refine ih (State.canon_loseSite hs m cause) ((List.mem_cons.1 hl).resolve_left hm) ?_
      rwa [s.siteState_loseSite_ne cause hm]

theorem State.regs_loseSites (s : State) (l : List Nat) (cause : Option Nat) : RegsKept (R.memStatus :: recordRegs) s (s.loseSites l cause) :=
  RegsKept.foldl _ (fun u m => u.regs_loseSite m cause) _ (RegsKept.refl _ s)

theorem State.siteOwner_loseSites (s : State) (l : List Nat) (cause : Option Nat) (k : Nat) : (s.loseSites l cause).siteOwner k = s.siteOwner k := by
  refine State.getF_foldl _ (fun t m => ?_) l s
  rw [State.loseSite]
  split
  · rfl
  · exact ((State.regs_record _ _).getF_eq (by decide) k).trans (t.getF_setF_place _ _ _ (by decide))

/-- The record of an island's loss. -/
def islandRec (i why : Nat) : Rec := { cls := 0x0F, sev := 2, kind := 7, unit := if why = 1 then 16 + i else i, island := i, syn := why }

/-- The island is in the list of the lost ones. -/
def State.addLost (s : State) (i : Nat) : State := { s with lostIslands := s.lostIslands ++ [i] }

/-- The loss is recorded, its handling opens, and the island is in the list of the lost ones. -/
def State.noteIsland (s : State) (i why : Nat) : State := (s.record (islandRec i why)).openHandling.addLost i

/-- The number of the record of the loss. -/
def State.lossSeq (s : State) (i why : Nat) : Nat := (s.record (islandRec i why)).lastSeq

/-- The twelve sites of an island. -/
def sitesOf (i : Nat) : List Nat := (List.range 12).map (12 * i + ·)

/-- The island's sites are lost in the handling of the record. -/
def State.islandSites (s : State) (i why : Nat) : State := (s.noteIsland i why).loseSites (sitesOf i) (some (s.lossSeq i why))

/-- A partition of the island ends its contexts and is reset. -/
def State.endPartition (i r : Nat) (t : State) (p : Nat) : State :=
  ((t.ctxsIn p).foldl (fun (t : State) x => t.islandCtx i r x) t).resetPartition p

/-- The partitions that hold a reach or a site of the island. -/
def State.partsOn (s : State) (i : Nat) : List Nat := (List.range 16).filter fun p => s.onIsland p i

/-- What the loss does to the partitions of the island. -/
def State.islandParts (s : State) (i why : Nat) : State :=
  ((s.islandSites i why).partsOn i).foldl (State.endPartition i (s.lossSeq i why)) (s.islandSites i why)

/-- The handling of a record ends. -/
def State.closeHandling (s : State) (r : Nat) : State := { s with handling := s.handling.filter (· != r) }

theorem State.siteLost_closeHandling (s : State) (r n : Nat) : (s.closeHandling r).siteLost n = s.siteLost n := rfl

theorem State.loseSites_range (s : State) (i : Nat) (cause : Option Nat) :
    (List.range 12).foldl (fun (t : State) j => t.loseSite (12 * i + j) cause) s = s.loseSites (sitesOf i) cause := by
  rw [State.loseSites, sitesOf, List.foldl_map]

theorem State.loseIsland_eq {i why : Nat} (hi : i < 4) (hl : i ∉ s.lostIslands) :
    s.loseIsland i why = (s.islandParts i why).closeHandling (s.lossSeq i why) := by
  rw [State.loseIsland, if_neg (by simp [hi, hl])]
  dsimp only
  rw [State.loseSites_range]
  rfl

theorem Kept.trans {E : Comp → Prop} {s t u : State} (h : Kept E s t) (k : Kept E t u) : Kept E s u := h.trans_of k.1 k.2

/-- Noting the loss changes two lists of the state that holds its record. -/
theorem State.noteIsland_kept (s : State) (i why : Nat) :
    Kept (fun c => c ∈ [Comp.handling, .lostIslands]) (s.record (islandRec i why)) (s.noteIsland i why) :=
  (kept_lostIslands (by decide) _).2 (State.openHandling_kept _ (Kept.refl _) (by decide))

theorem State.noteIsland_regs (s : State) (i why : Nat) : (s.noteIsland i why).regs = (s.record (islandRec i why)).regs :=
  ((s.noteIsland_kept i why).only .regs (by decide)).symm

theorem State.canon_noteIsland (hs : s.canon = true) (i why : Nat) : (s.noteIsland i why).canon = true :=
  (s.noteIsland_kept i why).2 (State.canon_record hs (islandRec i why))

theorem State.lostIslands_noteIsland (s : State) (i why : Nat) : (s.noteIsland i why).lostIslands = s.lostIslands ++ [i] := by
  have h : s.lostIslands = (s.record (islandRec i why)).lostIslands := State.record_agree s _ .lostIslands (by decide)
  rw [h, State.noteIsland, State.addLost, State.openHandling]

theorem State.lostIslands_islandSites (s : State) (i why : Nat) : (s.islandSites i why).lostIslands = s.lostIslands ++ [i] := by
  have h : Kept (fun c => c ≠ Comp.lostIslands) (s.noteIsland i why) (s.islandSites i why) := by
    unfold State.islandSites State.loseSites
    refine kept_foldl _ (fun t n ht => ?_) _ (Kept.refl _)
    apply @State.loseSite_kept _ _ t n _ ht <;> decide
  have hsame : (s.noteIsland i why).lostIslands = (s.islandSites i why).lostIslands := h.1 .lostIslands (by simp)
  rw [← hsame, s.lostIslands_noteIsland]

theorem State.endPartition_kept (i r : Nat) (t : State) (p : Nat) : Kept (fun c => c ≠ Comp.lostIslands) t (t.endPartition i r p) := by
  have hctxs : Kept (fun c => c ≠ Comp.lostIslands) t ((t.ctxsIn p).foldl (fun (t : State) x => t.islandCtx i r x) t) := by
    refine kept_foldl _ (fun u x hu => ?_) _ (Kept.refl t)
    apply @State.islandCtx_kept _ _ u i r x hu <;> decide
  apply @State.resetPartition_kept _ _ _ p hctxs <;> decide

theorem State.lostIslands_loseIsland {i why : Nat} (hi : i < 4) (hl : i ∉ s.lostIslands) : (s.loseIsland i why).lostIslands = s.lostIslands ++ [i] := by
  have h : Kept (fun c => c ≠ Comp.lostIslands) (s.islandSites i why) (s.islandParts i why) := by
    unfold State.islandParts
    exact kept_foldl _ (fun t p ht => Kept.trans ht (State.endPartition_kept _ _ t p)) _ (Kept.refl _)
  have hsame : (s.islandSites i why).lostIslands = (s.islandParts i why).lostIslands := h.1 .lostIslands (by simp)
  rw [State.loseIsland_eq hi hl, State.closeHandling, ← hsame, s.lostIslands_islandSites]

theorem State.regs_islandSites (s : State) (i why : Nat) : RegsKept (R.memStatus :: recordRegs) s (s.islandSites i why) := by
  have hnote : RegsKept recordRegs s (s.noteIsland i why) := (s.regs_record (islandRec i why)).of_regs (s.noteIsland_regs i why)
  exact (hnote.mono (by decide)).trans (State.regs_loseSites _ _ _)

/-- Which partitions an island has is seen in registers that records and lost sites leave. -/
theorem State.onIsland_islandSites (s : State) (i why p : Nat) : (s.islandSites i why).onIsland p i = s.onIsland p i := by
  have h := s.regs_islandSites i why
  have hreach : (s.islandSites i why).hasReach p = s.hasReach p := by
    funext r
    rw [State.hasReach, State.hasReach, h.getF_eq (by decide), h.getF_eq (by decide)]
  have howner (n : Nat) : (s.islandSites i why).siteOwner n = s.siteOwner n :=
    ((s.noteIsland i why).siteOwner_loseSites _ _ n).trans (by rw [State.siteOwner, State.getF, s.noteIsland_regs]; exact (s.regs_record _).getF_eq (by decide) n)
  simp only [State.onIsland, State.reachesIn, hreach, howner]

theorem State.siteLost_loseIsland (hs : s.canon = true) {i why j : Nat} (hi : i < 4) (hl : i ∉ s.lostIslands) (hj : j < 12)
    (hfree : ∀ p, p < 16 → s.onIsland p i = false) (hst : s.getF F.memStatusState (12 * i + j) ≠ 0) :
    (s.loseIsland i why).siteLost (12 * i + j) = true := by
  have hparts : (s.islandSites i why).partsOn i = [] :=
    List.filter_eq_nil_iff.2 fun p hp => by simp [s.onIsland_islandSites, hfree p (List.mem_range.1 hp)]
  have hsame : s.islandParts i why = s.islandSites i why := by rw [State.islandParts, hparts, List.foldl_nil]
  have hmem : 12 * i + j ∈ sitesOf i := List.mem_map.2 ⟨j, List.mem_range.2 hj, rfl⟩
  have hnote : (s.noteIsland i why).getF F.memStatusState (12 * i + j) = s.getF F.memStatusState (12 * i + j) := by
    rw [State.getF, s.noteIsland_regs]
    exact s.siteState_record (islandRec i why) _
  have hcanon : (s.noteIsland i why).canon = true := State.canon_noteIsland hs i why
  have h5 := State.siteState_loseSites (cause := some (s.lossSeq i why)) hcanon hmem (by rwa [hnote])
  rw [State.loseIsland_eq hi hl, hsame, State.siteLost_closeHandling]
  exact beq_iff_eq.2 h5

theorem exec_islandLoss_up {i : Nat} (why : Nat) (hp : 4 ≤ s.phase) (ht : s.pins.boardTest = false) :
    exec (.islandLoss i why) s = .next (s.loseIsland i why) := by
  rw [exec, execIslandLoss, ht, if_pos (by simp [hp])]

theorem exec_pgFall_island {i : Nat} (hi : i < 4) (hp : 4 ≤ s.phase) (ht : s.pins.boardTest = false) :
    exec (.pgFall (5 + i)) s = .next (s.loseIsland i 1) := by
  rw [exec, execPgFall, ht, if_neg Bool.false_ne_true, if_pos (by omega), if_pos hp, Nat.add_sub_cancel_left]

end island

/-- Settles O57: each fatal error is one record and one stop; every command of a stopped device asks first whether it runs; the partitions of a lost island
are found after its sites are lost. -/
theorem fatalErrorsStopTheDevice : Obligations.FatalErrorsStopTheDevice := by
  unfold Obligations.FatalErrorsStopTheDevice
  intro s hs
  refine ⟨fun i hi => ?stops, fun h cl u q seq n e => ?stands, fun island why hi hl hp ht i hloss => ?island⟩
  case stops =>
    obtain rfl | ⟨rfl, href, hsb⟩ | ⟨rail, rfl, ht, ⟨hlo, hhi, hp⟩ | ⟨hlo, hhi, hp⟩⟩ := hi
    · obtain ⟨hrun, hcmds, hjobs, hbytes⟩ := State.stopped_fatal hs (cls := 0x44) rfl 7 20 0
      exact ⟨_, rfl, hrun, hcmds, hjobs, hbytes, fun h => absurd rfl h⟩
    · obtain ⟨hrun, hcmds, hjobs, hbytes⟩ := (State.stopped_fatal (s := s.setPins { s.pins with refLost := true }) hs (cls := 0x43) rfl 7 8 0).hardFatal
      exact ⟨_, exec_sysclkLoss_stops href hsb, hrun, hcmds, hjobs, hbytes, fun _ _ => rfl⟩
    · obtain ⟨hrun, hcmds, hjobs, hbytes⟩ := (State.stopped_fatal hs (cls := 0x42) rfl 7 20 20).hardFatal
      exact ⟨_, exec_pgFall_core ht hlo hhi hp, hrun, hcmds, hjobs, hbytes, fun _ _ => rfl⟩
    · obtain ⟨hrun, hcmds, hjobs, hbytes⟩ := State.stopped_fatal hs (cls := 0x42) rfl 7 20 20
      exact ⟨_, exec_pgFall_flash ht hlo hhi hp, hrun, hcmds, hjobs, hbytes, fun _ h => absurd rfl (h rail hlo)⟩
  case stands =>
    simp only [List.forall_mem_cons, List.not_mem_nil, false_imp_iff, implies_true, and_true]
    exact ⟨exec_partStart_stopped h cl u, exec_commandComplete_stopped h q seq, exec_attnRingStep_stopped h q seq, exec_imageInstall_stopped h cl,
      exec_watchdogCheck_stopped h, exec_contextTeardown_stopped h n, exec_fleetTestItem_stopped h cl e, exec_frameFetch_stopped h n [],
      exec_frameStart_stopped h e, exec_frameDeadline_stopped h n, exec_codecHwError_stopped h e, exec_wrPerformed_stopped h n e, exec_wr_stopped h n,
      exec_wack_stopped h n⟩
  case island =>
    have hexec : exec i s = .next (s.loseIsland island why) := by
      obtain rfl | ⟨rfl, rfl⟩ := hloss
      · exact exec_islandLoss_up why hp ht
      · exact exec_pgFall_island hi hp ht
    exact ⟨_, hexec, rfl, State.lostIslands_loseIsland hi hl, fun hfree j hj hst => State.siteLost_loseIsland hs hi hl hj hfree hst⟩

end Sys2Proof.Machine

/-!
PROOFS. Fleet test bundles: what a load leaves at every cluster, and a test item; and trace registers and trace events (O58, O27).
-/
namespace Sys2Proof.Machine

/-! ### Entries of a table -/

section entries
variable {α : Type} {d : Nat → α} {t : Tab α} {k : Nat} {v : α}

theorem le_of_risesAbove {lo : Nat} (h : risesAbove lo t = true) (hm : (k, v) ∈ t) : lo ≤ k := by
  induction t generalizing lo with
  | nil => exact absurd hm List.not_mem_nil
  | cons e t ih =>
    obtain ⟨hlo, ht⟩ := Bool.and_eq_true_iff.1 h
    obtain rfl | hm := List.mem_cons.1 hm
    · exact of_decide_eq_true hlo
    · exact Nat.le_trans (Nat.le_succ_of_le (of_decide_eq_true hlo)) (ih ht hm)

theorem tget_of_mem {lo : Nat} (h : risesAbove lo t = true) (hm : (k, v) ∈ t) : tget d t k = v := by
  induction t generalizing lo with
  | nil => exact absurd hm List.not_mem_nil
  | cons e t ih =>
    obtain ⟨-, ht⟩ := Bool.and_eq_true_iff.1 h
    obtain rfl | hm := List.mem_cons.1 hm
    · exact if_pos rfl
    · exact (if_neg (Nat.ne_of_lt (le_of_risesAbove ht hm))).trans (ih ht hm)

theorem tget_of_not_mem (h : ∀ e ∈ t, e.1 ≠ k) : tget d t k = d k := by
  induction t with
  | nil => rfl
  | cons e t ih =>
    obtain ⟨hne, ht⟩ := List.forall_mem_cons.1 h
    exact (if_neg hne).trans (ih ht)

end entries

/-! ### A loaded bundle starts anew at every cluster (R522) -/

section bundle
variable {s : State} {cl : Nat}

/-- A cluster that starts its bundle anew and holds image `img`. -/
def Cluster.Anew (img : List Byte) (c : Cluster) : Prop := c.image = img ∧ c.testPos = 0 ∧ c.testAt = none

/-- One cluster's test run starts anew. -/
def State.restart (s : State) (e : Nat × Cluster) : State := s.setCluster e.1 { e.2 with testPos := 0, testAt := none }

theorem State.rises_restarts (hs : rises s.clusters = true) (l : List (Nat × Cluster)) : rises (l.foldl State.restart s).clusters = true := by
  induction l generalizing s with
  | nil => exact hs
  | cons e l ih => exact ih (rises_tset _ _ hs)

theorem State.anew_restart (hs : rises s.clusters = true) {img : List Byte} {e : Nat × Cluster} (he : e.1 = cl) (himg : e.2.image = img) :
    ((s.restart e).cluster cl).Anew img := by
  subst he
  rw [State.restart, State.cluster_setCluster_same hs]
  exact ⟨himg, rfl, rfl⟩

/-- A cluster that has started anew, or that a listed entry names, has started anew after the list. -/
theorem State.anew_restarts (hs : rises s.clusters = true) {img : List Byte} {l : List (Nat × Cluster)} (himg : ∀ e ∈ l, e.1 = cl → e.2.image = img)
    (h : (s.cluster cl).Anew img ∨ ∃ e ∈ l, e.1 = cl) : ((l.foldl State.restart s).cluster cl).Anew img := by
  induction l generalizing s with
  | nil =>
    obtain h | ⟨e, he, -⟩ := h
    · exact h
    · exact absurd he List.not_mem_nil
  | cons e l ih =>
    obtain ⟨hfirst, hrest⟩ := List.forall_mem_cons.1 himg
    refine ih (rises_tset _ _ hs) hrest ?_
    by_cases he : e.1 = cl
    · exact .inl (State.anew_restart hs he (hfirst he))
    · obtain h | ⟨x, hx, hxcl⟩ := h
      · refine .inl ?_
        rwa [State.restart, State.cluster_setCluster_ne _ _ (Ne.symm he)]
      · exact .inr ⟨x, (List.mem_cons.1 hx).resolve_left fun hxe => he (hxe ▸ hxcl), hxcl⟩

/-- After a pass over its own table every cluster has started anew, with the image that it held. -/
theorem State.anew_restartAll (hs : rises s.clusters = true) (cl : Nat) : ((s.clusters.foldl State.restart s).cluster cl).Anew (s.cluster cl).image := by
  refine State.anew_restarts hs (fun e he hcl => ?_) ?_
  · have hget : s.cluster e.1 = e.2 := tget_of_mem hs he
    rw [← hcl, hget]
  · by_cases h : ∃ e ∈ s.clusters, e.1 = cl
    · exact .inr h
    · have hfresh : s.cluster cl = Cluster.fresh := tget_of_not_mem fun e he hcl => h ⟨e, he, hcl⟩
      rw [hfresh]
      exact .inl ⟨rfl, rfl, rfl⟩

/-- The bundle of the delivered bytes. -/
def bundleOf (b : List Byte) : Bundle :=
  ⟨fieldAt b 8 4, bit (fieldAt b 7 1) 0, fieldAt b 14 2, bundleItems b, (b.drop (64 + 128 * fieldAt b 12 2)).take (fieldAt b 16 4)⟩

/-- The state that holds a bundle and whose clusters start it anew. -/
def State.withBundle (s : State) (w : Bundle) : State := s.clusters.foldl State.restart { s with bundle := some w }

/-- A bundle that passes is loaded. -/
def State.loadBundle (s : State) (w : Bundle) : State := ((s.withBundle w).setF F.erqTstatBundleid 0 w.id).tstat 0

theorem State.withBundle_kept (s : State) (w : Bundle) : Kept (fun c => c ∈ [Comp.clusters]) { s with bundle := some w } (s.withBundle w) :=
  kept_foldl _ (fun _ _ h => State.setCluster_kept _ _ _ h (by decide)) _ (Kept.refl _)

theorem State.rises_withBundle (hs : rises s.regs = true) (w : Bundle) : rises (s.withBundle w).regs = true := by
  have h : s.regs = (s.withBundle w).regs := (s.withBundle_kept w).1 .regs (by decide)
  rwa [← h]

theorem State.bundle_withBundle (s : State) (w : Bundle) : (s.withBundle w).bundle = some w := ((s.withBundle_kept w).1 .bundle (by decide)).symm

theorem State.status_loadBundle (hs : rises s.regs = true) (w : Bundle) : (s.loadBundle w).getF F.erqTstatStatus 0 = 0 :=
  State.getF_setF_same (State.rises_setF (State.rises_withBundle hs w) _ _ _) _ _ _

theorem State.bundleid_loadBundle (hs : rises s.regs = true) (w : Bundle) :
    (s.loadBundle w).getF F.erqTstatBundleid 0 = w.id % 2 ^ F.erqTstatBundleid.w :=
  (State.getF_setF_place _ _ _ _ (by decide)).trans (State.getF_setF_same (State.rises_withBundle hs w) _ _ _)

variable {acr : Acr} {v : Nat} {b : List Byte} {long : Bool}

theorem exec_bundleLoad (hacr : acr ∈ [Acr.fn 0, .mb]) (hop : bits v 62 2 = 1) (hres : bits v 0 62 = 0) (hbusy : s.flag F.erqTstatBusy 0 = false) :
    exec (.bundleLoad acr v b long) s = .next (if s.bundleStatus b long != 0 then (s.setLatch acr 0).tstat (s.bundleStatus b long)
      else (s.setLatch acr 0).loadBundle (bundleOf b)) := by
  have hbusy' : (s.setLatch acr 0).flag F.erqTstatBusy 0 = false := hbusy
  rw [exec, execBundleLoad, if_neg (by omega), State.forDevice_of_mem hacr]
  simp only [hop, hres, hbusy']
  rfl

theorem exec_bundleStop (hacr : acr ∈ [Acr.fn 0, .mb]) (hop : bits v 62 2 = 2) (hres : bits v 0 62 = 0) :
    exec (.bundleStop acr v) s = .next ((({ s.setLatch acr 0 with bundle := none } : State).setF F.erqTstatBundleid 0 0).tstat 0) := by
  rw [exec, execBundleStop, hop, State.forDevice_of_mem hacr, hres]
  rfl

/-- The item that a cluster runs next. -/
def State.testItem (s : State) (cl : Nat) (w : Bundle) : List Byte := w.items.getD ((s.cluster cl).testPos % w.items.length) []

/-- The cluster moves on to its next item. -/
def State.tested (s : State) (cl : Nat) (w : Bundle) : State :=
  s.setCluster cl { s.cluster cl with testPos := ((s.cluster cl).testPos + 1) % w.items.length,
                                      testAt := if (s.cluster cl).testPos = 0 then some s.now else (s.cluster cl).testAt }

/-- A failed item is counted and recorded. -/
def State.testFailed (s : State) (cl crc : Nat) (w : Bundle) : State :=
  ((s.tested cl w).bump F.cntTestFail cl 1).record
    { cls := 0x50, sev := if w.retire then 2 else 0, kind := 1, unit := cl, island := clusterIsland cl, op := some ((s.testItem cl w).take 64, 0, 0),
      addr := fieldAt (s.testItem cl w) 120 8, syn := crc }

theorem exec_fleetTestItem_due {w : Bundle} (crc : Nat) (hw : s.bundle = some w) (hdue : s.testDue cl w = true) :
    exec (.fleetTestItem cl crc) s = .next (if crc = fieldAt (s.testItem cl w) 120 8 then (s.tested cl w).bump F.cntTestPass cl 1
      else if w.retire then (s.testFailed cl crc w).retireCluster cl 4 (some (s.testFailed cl crc w).lastSeq) else s.testFailed cl crc w) := by
  simp only [exec, execFleetTestItem, hw, hdue]
  rfl

end bundle

/-- Settles O58: a load restarts every listed cluster, and an unlisted one is fresh. -/
theorem fleetTestsRun : Obligations.FleetTestsRun := by
  unfold Obligations.FleetTestsRun
  intro s v b long hs acr hacr
  have hregs := State.canon_regs hs
  have hclusters := State.canon_clusters hs
  refine ⟨fun hop hres hbusy hst => ?loaded, fun hop hres hbusy hst => ?refused, fun hop hres => ?stopped, fun cl crc w hw hdue => ?item⟩
  case loaded =>
    refine ⟨_, (exec_bundleLoad hacr hop hres hbusy).trans (congrArg Host.Outcome.next (if_neg (by simp [hst]))), State.status_loadBundle (s := s.setLatch acr 0) hregs _,
      State.bundleid_loadBundle (s := s.setLatch acr 0) hregs _, State.bundle_withBundle _ _, fun cl => ?_⟩
    exact State.anew_restartAll (s := { s.setLatch acr 0 with bundle := some (bundleOf b) }) hclusters cl
  case refused =>
    exact (exec_bundleLoad hacr hop hres hbusy).trans (congrArg Host.Outcome.next (if_pos (by simp [hst])))
  case stopped =>
    exact ⟨_, exec_bundleStop hacr hop hres, rfl,
      (State.getF_setF_place _ _ _ _ (by decide)).trans (State.getF_setF_same (s := { s.setLatch acr 0 with bundle := none }) hregs _ _ _),
      State.getF_setF_same (State.rises_setF (s := { s.setLatch acr 0 with bundle := none }) hregs _ _ _) _ _ _⟩
  case item =>
    have hexec := exec_fleetTestItem_due crc hw hdue
    exact ⟨fun hc => hexec.trans (congrArg _ (if_pos hc)), fun hc => hexec.trans (congrArg _ (if_neg hc))⟩

/-! ### Trace registers (R531, R532) -/

theorem State.canon_evseq {s : State} (h : s.canon = true) : rises s.evseq = true := by
  obtain ⟨-, -, -, -, -, -, -, -, hevseq, -⟩ := State.canon_iff.1 h
  exact hevseq

section traceRegs
variable {s : State} {acr : Acr} {p v : Nat}

/-- What a write of CNT_TRCFG stores whatever it asks for. -/
def traceFields (w : Nat) : List (Fld × Nat) :=
  [F.cntTrcfgLayerhi, F.cntTrcfgLayerlo, F.cntTrcfgBase, F.cntTrcfgKinds, F.cntTrcfgRlog2, F.cntTrcfgWrap].map fun f => (f, bits w f.lo f.w)

/-- The fields of the written value, and CFGERR cleared where the write clears it. -/
def State.traceStored (s : State) (p w : Nat) : State :=
  if bit w 3 then (s.setFields p (traceFields w)).setF F.cntTrcfgCfgerr p 0 else s.setFields p (traceFields w)

/-- Tracing starts with an empty ring. -/
def State.traceEmpty (s : State) (p : Nat) : State :=
  let t := ((s.setF F.cntTrcfgEn p 1).setF F.cntTrptrHead p 0).setF F.cntTrptrTail p 0
  { t with evseq := tset (fun _ => 0) t.evseq p 0 }

/-- The ring that a value of CNT_TRCFG asks for is aligned, large enough and owned. -/
def State.ringOk (s : State) (p w : Nat) : Bool :=
  decide (bits w F.cntTrcfgBase.lo F.cntTrcfgBase.w % 4096 = 0) && decide (6 ≤ bits w F.cntTrcfgRlog2.lo F.cntTrcfgRlog2.w) &&
    s.owned p (bits w F.cntTrcfgBase.lo F.cntTrcfgBase.w) (64 * 2 ^ bits w F.cntTrcfgRlog2.lo F.cntTrcfgRlog2.w)

/-- The write of CNT_TRCFG after its fields are stored. -/
def State.traceSwitch (s : State) (p w : Nat) : State :=
  if !bit w 0 then s.setF F.cntTrcfgEn p 0
  else if s.ringOk p w then s.traceEmpty p
  else (s.setF F.cntTrcfgEn p 0).setF F.cntTrcfgCfgerr p 1

theorem exec_cntTrcfg_refused (h : s.mayAct acr p = false) : exec (.cntTrcfg acr p v) s = .next (s.refuseAcc acr) := by
  rw [exec, execCntTrcfg, State.forPart, h]
  rfl

theorem exec_cntTrptr_refused (h : s.mayAct acr p = false) : exec (.cntTrptr acr p v) s = .next (s.refuseAcc acr) := by
  rw [exec, execCntTrptr, State.forPart, h]
  rfl

theorem exec_cntTrcfg_granted (h : s.mayAct acr p = true) :
    exec (.cntTrcfg acr p v) s = .next (((s.setLatch acr 0).traceStored p (s.wide acr v)).traceSwitch p (s.wide acr v)) := by
  rw [exec, execCntTrcfg, State.forPart, if_pos h]
  extract_lets w latched g stored cleared r base
  have hcleared : cleared = (s.setLatch acr 0).traceStored p (s.wide acr v) := rfl
  rw [← hcleared]
  clear_value cleared
  rfl

theorem traceFields_apart (w : Nat) : ((traceFields w).map (·.1)).Pairwise Fld.apart := by
  have h : [F.cntTrcfgLayerhi, F.cntTrcfgLayerlo, F.cntTrcfgBase, F.cntTrcfgKinds, F.cntTrcfgRlog2, F.cntTrcfgWrap].Pairwise Fld.apart := by
    unfold Fld.apart
    decide
  exact h

theorem State.regs_traceStored (s : State) (p w : Nat) : RegsKept [R.cntTrcfg] s (s.traceStored p w) := by
  have h : RegsKept [R.cntTrcfg] s (s.setFields p (traceFields w)) :=
    ((((((RegsKept.refl _ s).setF F.cntTrcfgLayerhi p _ (by decide)).setF F.cntTrcfgLayerlo p _ (by decide)).setF F.cntTrcfgBase p _ (by decide)).setF
      F.cntTrcfgKinds p _ (by decide)).setF F.cntTrcfgRlog2 p _ (by decide)).setF F.cntTrcfgWrap p _ (by decide)
  exact RegsKept.ite (h.setF _ _ _ (by decide)) h

theorem State.traceStored_kept (s : State) (p w : Nat) : Kept (fun c => c ∈ [Comp.regs]) s (s.traceStored p w) := by
  have h : Kept (fun c => c ∈ [Comp.regs]) s (s.setFields p (traceFields w)) :=
    kept_foldl _ (fun t e ht => State.setF_kept t _ _ _ ht (by decide)) _ (Kept.refl s)
  exact kept_ite (State.setF_kept _ _ _ _ h (by decide)) h

theorem State.getF_traceStored (hs : rises s.regs = true) {w : Nat} {f : Fld} (hf : (f, bits w f.lo f.w) ∈ traceFields w)
    (hplace : f.key 0 % 32768 ≠ F.cntTrcfgCfgerr.key 0 % 32768) : (s.traceStored p w).getF f p = bits w f.lo f.w := by
  have h : (s.setFields p (traceFields w)).getF f p = bits w f.lo f.w := (State.getF_setFields hs p (traceFields_apart w) hf).trans (bits_mod _ _ _)
  rw [State.traceStored]
  split
  · exact (State.getF_setF_place _ _ _ _ hplace).trans h
  · exact h

theorem State.regs_traceSwitch (s : State) (p w : Nat) : RegsKept [R.cntTrcfg, R.cntTrptr] s (s.traceSwitch p w) := by
  have r := RegsKept.refl [R.cntTrcfg, R.cntTrptr] s
  refine RegsKept.ite (r.setF _ _ _ (by decide)) (RegsKept.ite ?_ ((r.setF _ _ _ (by decide)).setF _ _ _ (by decide)))
  exact (((r.setF F.cntTrcfgEn p 1 (by decide)).setF F.cntTrptrHead p 0 (by decide)).setF F.cntTrptrTail p 0 (by decide)).of_regs rfl

theorem State.traceEmpty_kept (s : State) (p : Nat) : Kept (fun c => c ∈ [Comp.regs, .evseq]) s (s.traceEmpty p) :=
  kept_evseq _ (State.setF_kept _ _ _ _ (State.setF_kept _ _ _ _ (State.setF_kept _ _ _ _ (Kept.refl s) (by decide)) (by decide)) (by decide))
    (rises_tset _ _) (by decide)

theorem State.traceSwitch_kept (s : State) (p w : Nat) : Kept (fun c => c ∈ [Comp.regs, .evseq]) s (s.traceSwitch p w) := by
  have h0 : Kept (fun c => c ∈ [Comp.regs, .evseq]) s (s.setF F.cntTrcfgEn p 0) := State.setF_kept _ _ _ _ (Kept.refl s) (by decide)
  exact kept_ite h0 (kept_ite (s.traceEmpty_kept p) (State.setF_kept _ _ _ _ h0 (by decide)))

/-- What the switch leaves of the fields that the write stored. -/
theorem State.getF_traceSwitch (s : State) (p w : Nat) {f : Fld}
    (h : ∀ g ∈ [F.cntTrcfgEn, F.cntTrcfgCfgerr, F.cntTrptrHead, F.cntTrptrTail], f.key 0 % 32768 ≠ g.key 0 % 32768) :
    (s.traceSwitch p w).getF f p = s.getF f p := by
  simp only [List.forall_mem_cons, List.not_mem_nil, false_imp_iff, implies_true, and_true] at h
  obtain ⟨hen, herr, hhead, htail⟩ := h
  rw [State.traceSwitch]
  split
  · exact State.getF_setF_place _ _ _ _ hen
  · split
    · exact ((State.getF_setF_place _ _ _ _ htail).trans (State.getF_setF_place _ _ _ _ hhead)).trans (State.getF_setF_place _ _ _ _ hen)
    · exact (State.getF_setF_place _ _ _ _ herr).trans (State.getF_setF_place _ _ _ _ hen)

theorem State.traceSwitch_off (hs : rises s.regs = true) {w : Nat} (h : bit w 0 = false) : (s.traceSwitch p w).getF F.cntTrcfgEn p = 0 := by
  rw [State.traceSwitch, h]
  exact State.getF_setF_same hs _ _ _

theorem State.traceSwitch_on (hs : s.canon = true) {w : Nat} (h : bit w 0 = true) (hok : s.ringOk p w = true) :
    (s.traceSwitch p w).getF F.cntTrcfgEn p = 1 ∧ (s.traceSwitch p w).getF F.cntTrptrHead p = 0 ∧ (s.traceSwitch p w).getF F.cntTrptrTail p = 0 ∧
      tget (fun _ => 0) (s.traceSwitch p w).evseq p = 0 := by
  have hregs := State.canon_regs hs
  have hevseq : rises s.evseq = true := State.canon_evseq hs
  have hon : s.traceSwitch p w = s.traceEmpty p := by
    rw [State.traceSwitch, h, hok]
    rfl
  rw [hon]
  refine ⟨?_, ?_, ?_, tget_tset_same _ _ _ _ hevseq⟩
  · exact ((State.getF_setF_place _ _ _ _ (by decide)).trans (State.getF_setF_place _ _ _ _ (by decide))).trans (State.getF_setF_same hregs F.cntTrcfgEn p 1)
  · exact (State.getF_setF_place _ _ _ _ (by decide)).trans (State.getF_setF_same (State.rises_setF hregs _ _ _) F.cntTrptrHead p 0)
  · exact State.getF_setF_same (State.rises_setF (State.rises_setF hregs _ _ _) _ _ _) F.cntTrptrTail p 0

theorem State.traceSwitch_refused (hs : rises s.regs = true) {w : Nat} (h : bit w 0 = true) (hbad : s.ringOk p w = false) :
    (s.traceSwitch p w).getF F.cntTrcfgEn p = 0 ∧ (s.traceSwitch p w).getF F.cntTrcfgCfgerr p = 1 := by
  have hoff : s.traceSwitch p w = (s.setF F.cntTrcfgEn p 0).setF F.cntTrcfgCfgerr p 1 := by
    rw [State.traceSwitch, h, hbad]
    rfl
  rw [hoff]
  exact ⟨(State.getF_setF_place _ _ _ _ (by decide)).trans (State.getF_setF_same hs _ _ _), State.getF_setF_same (State.rises_setF hs _ _ _) _ _ _⟩

/-- Which ranges a partition owns is seen in the registers of the sites and of the staging windows. -/
theorem RegsKept.owned_eq {rs : List Reg} {s t : State} (h : RegsKept rs s t) (hm : R.memStatus.idx ∉ rs.map (·.idx)) (hf : R.fltStage.idx ∉ rs.map (·.idx))
    (p a n : Nat) : t.owned p a n = s.owned p a n := by
  have hstate := h.getF_eq (f := F.memStatusState) hm
  have howner := h.getF_eq (f := F.memStatusOwner) hm
  have hcap := h.getF_eq (f := F.memStatusCap) hm
  have hsite := h.getF_eq (f := F.fltStageSite) hf
  have hsize := h.getF_eq (f := F.fltStageSize) hf
  have hstage (i : Nat) : t.stageBytes i = s.stageBytes i := congrArg maxOf (List.map_congr_left fun p _ => by rw [hsite, hsize])
  simp only [State.owned, State.inSite, State.siteUp, State.siteOwner, State.usable, State.siteCap, hstate, howner, hcap, hstage]
  rfl

/-- CNT_TRPTR moves HEAD when it stays at or before TAIL (R532). -/
theorem exec_cntTrptr_granted (h : s.mayAct acr p = true) : exec (.cntTrptr acr p v) s = .next (
    if (v % 2 ^ 32 + 2 ^ 32 - s.getF F.cntTrptrHead p) % 2 ^ 32 ≤ (s.getF F.cntTrptrTail p + 2 ^ 32 - s.getF F.cntTrptrHead p) % 2 ^ 32 then
      (s.setLatch acr 0).setF F.cntTrptrHead p (lo32 v)
    else s.setLatch acr 0) := by
  rw [exec, execCntTrptr, State.forPart, if_pos h]
  rfl

theorem State.only_setLatch (s : State) (acr : Acr) (v : Nat) : OnlyChanged [.latch] s (s.setLatch acr v) := fun c h => by
  cases c with
  | latch => exact absurd (List.mem_singleton.2 rfl) h
  | _ => rfl

end traceRegs

/-! ### Trace events (R531, R532) -/

section events
variable {s : State} {c : Cmd} {kind status : Nat} {tail : List Byte} {p : Nat}

/-- The 64 bytes of an event (Table 22-7). -/
def State.eventBytes (s : State) (c : Cmd) (kind status ev : Nat) (tail : List Byte) : List Byte :=
  leBytes 8 s.now ++ leBytes 2 (s.getF F.tmbAlignAlgen 0) ++ leBytes 1 kind ++ leBytes 1 status ++ leBytes 4 ev ++
    leBytes 2 (s.partOf c.ctx * 4096 + c.ctx) ++ leBytes 2 c.q ++ leBytes 1 c.opcode ++ leBytes 1 0 ++ leBytes 2 c.layer ++
    leBytes 2 c.oper ++ leBytes 2 c.step ++ leBytes 4 c.seq ++ (tail ++ leBytes 32 0).take 32

theorem length_leBytes (n v : Nat) : (leBytes n v).length = n := by
  induction n generalizing v with
  | zero => rfl
  | succ n ih => exact congrArg (· + 1) (ih _)

theorem State.length_eventBytes (s : State) (c : Cmd) (kind status ev : Nat) (tail : List Byte) : (s.eventBytes c kind status ev tail).length = 64 := by
  simp only [State.eventBytes, List.length_append, List.length_take, length_leBytes]
  omega

/-- The event takes the partition's next EVSEQ. -/
def State.takeEvseq (s : State) (p : Nat) : State := { s with evseq := tset (fun _ => 0) s.evseq p (lo32 (tget (fun _ => 0) s.evseq p + 1)) }

/-- The ring of a partition has no room. -/
def State.ringFull (s : State) (p : Nat) : Bool :=
  decide (2 ^ s.getF F.cntTrcfgRlog2 p ≤ (s.getF F.cntTrptrTail p + 0x100000000 - s.getF F.cntTrptrHead p) % 0x100000000)

/-- The address that an EVSEQ names in the ring. -/
def State.eventAddr (s : State) (p ev : Nat) : Nat := s.getF F.cntTrcfgBase p + 64 * (ev % 2 ^ s.getF F.cntTrcfgRlog2 p)

/-- An event is written and TAIL moves on; in a full ring it takes the oldest one's place, which is lost. -/
def State.putEvent (s : State) (p a : Nat) (full : Bool) (b : List Byte) : State :=
  (if full then (s.writeBytes a b).bumpSat F.cntTrptrLost p 1 else s.writeBytes a b).setF F.cntTrptrTail p (s.getF F.cntTrptrTail p + 1)

theorem State.trace_on (hp : s.partOf c.ctx = p) (hen : s.flag F.cntTrcfgEn p = true) (hkind : bit (s.getF F.cntTrcfgKinds p) (kind - 1) = true)
    (hlo : s.getF F.cntTrcfgLayerlo p ≤ c.layer) (hhi : c.layer ≤ s.getF F.cntTrcfgLayerhi p) : s.trace c kind status tail =
      if s.ringFull p && !s.flag F.cntTrcfgWrap p then (s.takeEvseq p).bumpSat F.cntTrptrLost p 1
      else (s.takeEvseq p).putEvent p (s.eventAddr p (tget (fun _ => 0) s.evseq p)) (s.ringFull p)
        (s.eventBytes c kind status (tget (fun _ => 0) s.evseq p) tail) := by
  subst hp
  rw [State.trace, if_neg (by simp [hen, hkind, Nat.not_lt.2 hlo, Nat.not_lt.2 hhi])]
  rfl

theorem State.lost_full (hs : rises s.regs = true) (p : Nat) : ((s.takeEvseq p).bumpSat F.cntTrptrLost p 1).getF F.cntTrptrLost p =
    satAdd F.cntTrptrLost.w (s.getF F.cntTrptrLost p) 1 % 2 ^ F.cntTrptrLost.w :=
  State.getF_setF_same hs _ _ _

theorem State.evseq_takeEvseq (hs : s.canon = true) (p : Nat) :
    tget (fun _ => 0) (s.takeEvseq p).evseq p = (tget (fun _ => 0) s.evseq p + 1) % 2 ^ 32 :=
  tget_tset_same _ _ _ _ (State.canon_evseq hs)

theorem State.canon_takeEvseq (hs : s.canon = true) (p : Nat) : (s.takeEvseq p).canon = true :=
  (kept_evseq (E := fun _ => True) _ (Kept.refl s) (rises_tset _ _) trivial).2 hs

theorem State.regs_writeBytes (s : State) (a : Nat) (b : List Byte) : RegsKept memoryRegs s (s.writeBytes a b) := s.regs_writeFrom _ a b

variable {a : Nat} {full : Bool} {b : List Byte}

theorem State.putEvent_kept (s : State) (p a : Nat) (full : Bool) (b : List Byte) : Kept memFx (s.writeBytes a b) (s.putEvent p a full b) :=
  State.setF_kept _ _ _ _ (kept_ite (State.bumpSat_kept _ _ _ _ (Kept.refl _) (by simp [memFx])) (Kept.refl _)) (by simp [memFx])

theorem State.byteAt_putEvent (s : State) (p a : Nat) (full : Bool) (b : List Byte) (x : Nat) : (s.putEvent p a full b).byteAt x = (s.writeBytes a b).byteAt x := by
  cases full <;> rfl

theorem State.evseq_putEvent (s : State) (p a : Nat) (full : Bool) (b : List Byte) : (s.putEvent p a full b).evseq = s.evseq := by
  have h : Kept memFx s (s.writeBytes a b) := by
    apply @State.writeBytes_kept _ _ s a b (Kept.refl s) <;> simp [memFx]
  have hput : (s.writeBytes a b).evseq = (s.putEvent p a full b).evseq := (s.putEvent_kept p a full b).1 .evseq (by simp [memFx])
  exact hput.symm.trans (h.1 .evseq (by simp [memFx])).symm

/-- With room in the ring TAIL moves on, and nothing is lost. -/
theorem State.pointers_putEvent (hs : s.canon = true) (p a : Nat) (b : List Byte) :
    (s.putEvent p a false b).getF F.cntTrptrTail p = (s.getF F.cntTrptrTail p + 1) % 2 ^ 32 ∧
      (s.putEvent p a false b).getF F.cntTrptrLost p = s.getF F.cntTrptrLost p :=
  ⟨State.getF_setF_same (State.canon_regs (State.writeBytes_canon hs a b)) _ _ _,
    (State.getF_setF_place _ _ _ _ (by decide)).trans ((s.regs_writeBytes a b).getF_eq (by decide) p)⟩

end events

/-- Settles O27: a write of CNT_TRCFG stores its fields and then switches tracing; an event first takes its EVSEQ, and is then written or counted as lost. -/
theorem tracesFillTheirRing : Obligations.TracesFillTheirRing := by
  unfold Obligations.TracesFillTheirRing
  refine ⟨fun s acr p v hs hp => ⟨fun h => ⟨exec_cntTrcfg_refused h, exec_cntTrptr_refused h⟩, fun h => ?config, fun h => ?pointer⟩,
    fun s c kind status tail hs hen hkind hlo hhi => ?event⟩
  case config =>
    intro w base r
    let u := (s.setLatch acr 0).traceStored p w
    have hu : u.canon = true := ((s.setLatch acr 0).traceStored_kept p w).2 (State.setLatch_kept (E := fun _ => True) s acr 0 (Kept.refl s) trivial |>.2 hs)
    have hregs : RegsKept [R.cntTrcfg] s u := (s.setLatch acr 0).regs_traceStored p w
    have howned : u.owned p base (64 * 2 ^ r) = s.owned p base (64 * 2 ^ r) := hregs.owned_eq (by decide) (by decide) p base _
    have hok : u.ringOk p w = (decide (base % 4096 = 0) && decide (6 ≤ r) && s.owned p base (64 * 2 ^ r)) := by rw [State.ringOk, howned]
    have hlatched : rises s.regs = true := State.canon_regs hs
    refine ⟨_, exec_cntTrcfg_granted h, (hregs.mono (by decide)).trans (u.regs_traceSwitch p w), ?_, ?_, ?_, fun h0 => ?_, fun h0 hal hsz hown => ?_,
      fun h0 hbad => ?_⟩
    · exact ((s.only_setLatch acr 0).mono (by decide)).trans ((((s.setLatch acr 0).traceStored_kept p w).only.mono (by decide)).trans
        ((u.traceSwitch_kept p w).only.mono (by decide)))
    · exact (u.getF_traceSwitch p w (by decide)).trans (State.getF_traceStored (s := s.setLatch acr 0) hlatched (by simp [traceFields]) (by decide))
    · exact (u.getF_traceSwitch p w (by decide)).trans (State.getF_traceStored (s := s.setLatch acr 0) hlatched (by simp [traceFields]) (by decide))
    · exact State.traceSwitch_off (State.canon_regs hu) h0
    · exact State.traceSwitch_on hu h0 (by rw [hok]; simp [hal, hsz, hown])
    · refine State.traceSwitch_refused (State.canon_regs hu) h0 (hok.trans ?_)
      obtain hal | hsz | hown := hbad
      · simp [hal]
      · simp [Nat.not_le.2 hsz]
      · simp [hown]
  case pointer =>
    have hregs := State.canon_regs hs
    refine ⟨_, exec_cntTrptr_granted h, ?_, ?_, ?_⟩
    · split
      · exact (FieldsKept.of_regs rfl).setF _ _ _ (by simp)
      · exact FieldsKept.of_regs rfl
    · have hl := (s.only_setLatch acr 0).mono (m' := [.regs, .latch]) (by decide)
      split
      · exact hl.setF _ _ _ (by decide)
      · exact hl
    · split
      · exact (State.getF_setF_same (s := s.setLatch acr 0) hregs F.cntTrptrHead p _).trans (Nat.mod_mod _ _)
      · rfl
  case event =>
    intro t
    have ht := s.trace_on (status := status) (tail := tail) rfl hen hkind hlo hhi
    have hcanon := State.canon_takeEvseq hs (s.partOf c.ctx)
    have hring : s.ringFull (s.partOf c.ctx) = true ↔ 2 ^ s.getF F.cntTrcfgRlog2 (s.partOf c.ctx) ≤
        (s.getF F.cntTrptrTail (s.partOf c.ctx) + 2 ^ 32 - s.getF F.cntTrptrHead (s.partOf c.ctx)) % 2 ^ 32 := decide_eq_true_iff
    by_cases hfull : (s.ringFull (s.partOf c.ctx) && !s.flag F.cntTrcfgWrap (s.partOf c.ctx)) = true
    case pos =>
      obtain ⟨hno, -⟩ := Bool.and_eq_true_iff.1 hfull
      have hev : t = (s.takeEvseq (s.partOf c.ctx)).bumpSat F.cntTrptrLost (s.partOf c.ctx) 1 := ht.trans (if_pos hfull)
      have hbyte (x : Nat) : t.byteAt x = s.byteAt x := by rw [hev]; exact State.byteAt_congr rfl rfl x
      refine ⟨by rw [hev]; exact State.evseq_takeEvseq hs _, fun x _ => hbyte x, fun hroom => absurd (hring.1 hno) (Nat.not_le.2 hroom), fun _ _ => ?_⟩
      rw [hev]
      exact ⟨State.getF_setF_place _ _ _ _ (by decide), State.lost_full (State.canon_regs hs) _, fun x => State.byteAt_congr rfl rfl x⟩
    case neg =>
      have hev := ht.trans (if_neg hfull)
      refine ⟨?_, fun x hx => ?_, fun hroom => ?_, fun hno hwrap => absurd (by rw [hring.2 hno, hwrap]; rfl) hfull⟩
      · exact (congrArg (fun u => tget (fun _ => 0) u.evseq (s.partOf c.ctx)) hev).trans
          ((congrArg (fun e => tget (fun _ => 0) e (s.partOf c.ctx)) (State.evseq_putEvent _ _ _ _ _)).trans (State.evseq_takeEvseq hs _))
      · refine (congrArg (State.byteAt · x) hev).trans ((State.byteAt_putEvent _ _ _ _ _ x).trans ?_)
        exact State.byteAt_writeBytes_out hcanon _ _ (by rwa [State.length_eventBytes])
      · have hclear : s.ringFull (s.partOf c.ctx) = false := by
          rw [← Bool.not_eq_true, hring]
          exact Nat.not_le.2 hroom
        rw [hclear] at hev
        obtain ⟨htail, hlost⟩ := State.pointers_putEvent hcanon (s.partOf c.ctx) (s.eventAddr (s.partOf c.ctx) (tget (fun _ => 0) s.evseq (s.partOf c.ctx)))
          (s.eventBytes c kind status (tget (fun _ => 0) s.evseq (s.partOf c.ctx)) tail)
        exact ⟨(congrArg (State.getF · F.cntTrptrTail _) hev).trans htail, (congrArg (State.getF · F.cntTrptrLost _) hev).trans hlost⟩

end Sys2Proof.Machine

/-!
PROOFS. Flits and replays of a port, and posted writes at the receiver (O38, O39).
-/
namespace Sys2Proof.Machine

theorem State.canon_ports {s : State} (h : s.canon = true) : rises s.ports = true := by
  obtain ⟨-, -, -, -, -, -, -, -, -, hports, -⟩ := State.canon_iff.1 h
  exact hports

theorem State.port_mapPort_same {s : State} (h : rises s.ports = true) (p : Nat) (f : Port → Port) : (s.mapPort p f).port p = f (s.port p) :=
  State.port_setPort_same h p _

/-! ### A flit that arrives (R409 to R412) -/

section flits
variable {s : State} {p sym unc : Nat} {flit : List Byte} {bad : Bool}

/-- What a good flit that is accepted brings beside messages: acknowledgement, credits, and a width request. -/
def State.headerTaken (s : State) (p : Nat) (flit : List Byte) : State := (s.takeHeader p flit).widthAsked p (flitField flit 34 2)

/-- A flit that is neither a NAK nor a width change, at a port that runs. -/
theorem exec_flitReceive (hrun : s.portRuns p = true) (hnak : flitField flit 60 4 ≠ 2) (hw : flitField flit 60 4 ≠ 3 ∨ flitField flit 34 2 = 0) :
    exec (.flitReceive p flit bad sym unc) s = .next (
      if ((s.fecCount p sym unc).port p).good flit bad = false then ((s.fecCount p sym unc).bump F.zlkCnt0Damaged p 1).openGap p
      else if flitField flit 60 4 = 1 then
        if flitField flit 48 12 = (((s.fecCount p sym unc).port p).rxSeq + 1) % 4096 then
          (((s.fecCount p sym unc).headerTaken p flit).acceptData p flit).serve p
        else (s.fecCount p sym unc).openGap p
      else ((s.fecCount p sym unc).headerTaken p flit).pump p (((s.fecCount p sym unc).headerTaken p flit).port p).work) := by
  have hgo : (!s.portRuns p || flitField flit 60 4 = 2 || (flitField flit 60 4 = 3 && flitField flit 34 2 != 0)) = false := by
    obtain hw | hw := hw <;> simp [hrun, hnak, hw]
  rw [exec, execFlitReceive]
  simp only [hgo, Bool.false_eq_true, if_false, Bool.not_eq_true', State.headerTaken]
  by_cases h1 : flitField flit 60 4 = 1
  · by_cases hseq : flitField flit 48 12 = (((s.fecCount p sym unc).port p).rxSeq + 1) % 4096
    · simp [h1, hseq]
    · simp [h1, hseq]
  · simp [h1]

/-- A NAK at a port that runs. -/
theorem exec_nak (hrun : s.portRuns p = true) (hnak : flitField flit 60 4 = 2) : exec (.nak p flit bad sym unc) s = .next (
    if ((s.fecCount p sym unc).port p).good flit bad = false then ((s.fecCount p sym unc).bump F.zlkCnt0Damaged p 1).openGap p
    else if (((s.fecCount p sym unc).headerTaken p flit).replay p).portRuns p then
      (((s.fecCount p sym unc).headerTaken p flit).replay p).pump p ((((s.fecCount p sym unc).headerTaken p flit).replay p).port p).work
    else ((s.fecCount p sym unc).headerTaken p flit).replay p) := by
  have hgo : (!s.portRuns p || flitField flit 60 4 != 2) = false := by simp [hrun, hnak]
  rw [exec, execNak]
  simp only [hgo, Bool.false_eq_true, if_false, Bool.not_eq_true', State.headerTaken]
  rfl

theorem State.openGap_open (h : (s.port p).gap = true) : s.openGap p = s := if_pos h

theorem State.port_acceptData (hs : s.canon = true) : ((s.acceptData p flit).port p).rxSeq = flitField flit 48 12 ∧ ((s.acceptData p flit).port p).gap = false ∧
    ((s.acceptData p flit).port p).rxWr = (s.port p).rxWr ++ ((s.port p).parse flit).wrs := by
  rw [State.acceptData, State.port_mapPort_same (State.canon_ports hs)]
  exact ⟨rfl, rfl, rfl⟩

end flits

/-! ### A replay (R412) -/

section replay
variable {s : State} {p : Nat} {f : TxFlit} {rest : List TxFlit}

/-- Outputs that are emitted in turn stand in front of the earlier ones, the last one first. -/
theorem State.emits_eq {α : Type} (g : α → Out) (l : List α) (s : State) : l.foldl (fun t a => t.emit (g a)) s = { s with out := (l.map g).reverse ++ s.out } := by
  induction l generalizing s with
  | nil => rfl
  | cons a l ih =>
    rw [List.foldl_cons, ih, List.map_cons, List.reverse_cons, List.append_assoc]
    rfl

theorem exec_replayTimeout (hrun : s.portRuns p = true) (hf : (s.port p).unacked = f :: rest) :
    exec (.replayTimeout p) s = .next (if f.at_ + 4000 < s.now then s.replay p else s) := by
  rw [exec, execReplayTimeout, hf, hrun]
  simp only [Bool.true_and, decide_eq_true_eq]

/-- A port after a replay: one more without an advance, every flit sent anew. -/
def Port.replayed (v : Port) (now : Nat) : Port :=
  { v with replays := v.replays + 1, unacked := v.unacked.map fun f => { f with at_ := now } }

theorem State.replay_last (hf : (s.port p).unacked = f :: rest) (h : 16 ≤ (s.port p).replays) : s.replay p = s.loseLink p := by
  rw [State.replay, hf]
  exact if_pos h

theorem State.replay_again (hf : (s.port p).unacked = f :: rest) (h : (s.port p).replays < 16) : s.replay p =
    { (s.setPort p ((s.port p).replayed s.now)).bump F.zlkCnt0Replay p 1 with
      out := ((s.port p).unacked.map fun g => Out.flit p g.bytes).reverse ++ s.out } := by
  have hne : (s.port p).unacked.isEmpty = false := by rw [hf]; rfl
  rw [State.replay]
  dsimp only
  rw [hne, if_neg Bool.false_ne_true, if_neg (Nat.not_le.2 h)]
  exact State.emits_eq (fun g : TxFlit => Out.flit p g.bytes) _ _

theorem State.only_setPort (s : State) (p : Nat) (v : Port) : OnlyChanged [.ports] s (s.setPort p v) := fun c h => by
  cases c with
  | ports => exact absurd (List.mem_singleton.2 rfl) h
  | _ => rfl

end replay

/-- Settles O38: each branch of a flit's arrival has its own condition; a replay emits the unacknowledged flits and touches its own port and count. -/
theorem flitsAreTakenInOrder : Obligations.FlitsAreTakenInOrder := by
  unfold Obligations.FlitsAreTakenInOrder
  refine ⟨fun s p sym unc flit bad hrun => ⟨fun hnak hw => ?flit, fun hnak => ?nak, fun _ _ h => State.openGap_open h, fun _ hx => State.port_acceptData hx⟩,
    fun s p f rest hs hrun hf => ⟨fun hyoung => ?young, fun hold hlast => ?last, fun hold hmore => ?again⟩⟩
  case flit =>
    have hexec := exec_flitReceive (sym := sym) (unc := unc) (bad := bad) hrun hnak hw
    refine ⟨?_, ?_, ?_, ?_⟩
    · intro hg
      rw [hexec, if_pos hg]
    · intro hg h1 hseq
      rw [hexec, if_neg (by simp [hg]), if_pos h1, if_neg hseq]
    · intro hg h1 hseq
      rw [hexec, if_neg (by simp [hg]), if_pos h1, if_pos hseq]
      rfl
    · intro hg h1
      rw [hexec, if_neg (by simp [hg]), if_neg h1]
      rfl
  case nak =>
    have hexec := exec_nak (sym := sym) (unc := unc) (bad := bad) hrun hnak
    refine ⟨fun hg => by rw [hexec, if_pos hg], fun hg => ?_⟩
    rw [hexec, if_neg (by simp [hg])]
    rfl
  case young =>
    rw [exec_replayTimeout hrun hf, if_neg (Nat.not_lt.2 hyoung)]
  case last =>
    rw [exec_replayTimeout hrun hf, if_pos hold, State.replay_last hf hlast]
  case again =>
    have hregs := State.canon_regs hs
    have hexec := exec_replayTimeout hrun hf
    rw [if_pos hold, State.replay_again hf hmore] at hexec
    refine ⟨_, hexec, rfl, State.port_setPort_same (State.canon_ports hs) p ((s.port p).replayed s.now), ?_, ?_, ?_⟩
    · exact State.getF_setF_same (s := s.setPort p ((s.port p).replayed s.now)) hregs F.zlkCnt0Replay p (s.getF F.zlkCnt0Replay p + 1)
    · exact Kept.only ((kept_out (by decide) _).2 (State.bump_kept _ _ _ _ (State.setPort_kept _ _ _ (Kept.refl s) (by decide)) (by decide)))
    · have hport : FieldsKept [(F.zlkCnt0Replay, p)] s (s.setPort p ((s.port p).replayed s.now)) := .of_regs rfl
      exact hport.setF F.zlkCnt0Replay p (s.getF F.zlkCnt0Replay p + 1) (by simp)

/-! ### Posted writes at the receiver (R417 to R419) -/

section writes
variable {s : State} {p wid : Nat}

/-- The header of a WR by its slots. -/
def wrHdr (l : List (List Byte)) : Nat := leNat (l.headD [])

/-- The entry of a write that has been checked. -/
def State.checkedWr (s : State) (p : Nat) (l : List (List Byte)) : RxWr :=
  ⟨bits (wrHdr l) 80 16, wrHdr l, ((l.drop 1).flatMap fun x => x).take (wrBytes (wrHdr l)),
    if s.wrCheck p (wrHdr l) != 0 then s.wrCheck p (wrHdr l) else if bit (wrHdr l) 14 then 5 else 0, s.wrCheck p (wrHdr l) != 0⟩

/-- A write leaves the buffer for the list of those that are under way, and its slots are credited. -/
def State.takeWr (s : State) (p : Nat) (l : List (List Byte)) (rest : List (List (List Byte))) : State :=
  s.mapPort p fun v =>
    { v with rxWr := rest, rx := v.rx ++ [s.checkedWr p l], returns := v.returns.set 0 (v.returns.getD 0 0 + wrSlots (wrHdr l)) }

theorem exec_wr {l : List (List Byte)} {rest : List (List (List Byte))} (hrun : s.portRuns p = true) (hrx : (s.port p).rxWr = l :: rest) :
    exec (.wr p) s = .next ((if s.wrCheck p (wrHdr l) = 0 then s.takeWr p l rest
      else ((s.takeWr p l rest).bumpSat F.zlkCnt1Rxref p 1).record { cls := 0x1A, sev := 0, kind := 4, unit := p, sub := 0xFF, addr := wrAddr (wrHdr l),
                                                                     syn := bits (wrHdr l) 80 16 + s.wrCheck p (wrHdr l) <<< 16 }).flushWacks p) := by
  rw [exec, execWr, hrx]
  simp only [hrun]
  rfl

/-- What a write that is performed does to memory. -/
def State.performed (s : State) (r : RxWr) : State :=
  if bit r.hdr 14 then s.poisonBytes (wrAddr r.hdr) 64 else s.writeBytes (wrAddr r.hdr) r.data

/-- A write that is performed counts its bytes where it asks for it. -/
def State.countArrival (s : State) (r : RxWr) : State :=
  if bit r.hdr 12 then (s.bump F.zlkArrCount (bits r.hdr 20 12) (wrBytes r.hdr)).latchWaits else s

/-- The write is finished: its acknowledgement is due, or it is forgotten at a port that has lost its link. -/
def State.finishWr (s : State) (up : Bool) (p : Nat) (r : RxWr) : State :=
  (s.mapPort p fun v => { v with rx := if up then v.rx.map fun x => if x = r then { x with fin := true } else x else v.rx.filter (· != r) }).flushWacks p

theorem exec_wrPerformed {r : RxWr} (hrun : s.running = true) (hr : (s.port p).rx.find? (fun r => r.wid == wid && !r.fin) = some r) :
    exec (.wrPerformed p wid) s = .next (((s.performed r).countArrival r).finishWr (s.portUp p) p r) := by
  rw [exec, execWrPerformed, hr, hrun]
  rfl

theorem State.finishWr_kept (s : State) (up : Bool) (p : Nat) (r : RxWr) : Kept (fun c => c ∈ [Comp.ports, .arch, .out]) s (s.finishWr up p r) :=
  State.flushWacks_kept _ _ (State.mapPort_kept _ _ _ (Kept.refl s) (by decide)) (by decide) (by decide) (by decide)

theorem State.regs_poisonBytes (s : State) (a n : Nat) : RegsKept memoryRegs s (s.poisonBytes a n) :=
  RegsKept.foldl _ (fun u _ => u.regs_poisonWord _ _) _ (RegsKept.refl _ s)

theorem State.regs_performed (s : State) (r : RxWr) : RegsKept memoryRegs s (s.performed r) :=
  RegsKept.ite (s.regs_poisonBytes _ _) (s.regs_writeBytes _ _)

theorem State.canon_performed (hs : s.canon = true) (r : RxWr) : (s.performed r).canon = true := by
  rw [State.performed]
  split
  · exact State.poisonBytes_canon hs _ _
  · exact State.writeBytes_canon hs _ _

theorem State.countArrival_kept (s : State) (r : RxWr) : Kept (fun c => c ∈ [Comp.regs, .cmds, .streams]) s (s.countArrival r) :=
  kept_ite (State.latchWaits_kept _ (State.bump_kept _ _ _ _ (Kept.refl s) (by decide)) (by decide) (by decide)) (Kept.refl s)

theorem State.arr_countArrival (hs : rises s.regs = true) {r : RxWr} (h : bit r.hdr 12 = true) :
    (s.countArrival r).getF F.zlkArrCount (bits r.hdr 20 12) = (s.getF F.zlkArrCount (bits r.hdr 20 12) + wrBytes r.hdr) % 2 ^ 64 := by
  rw [State.countArrival, if_pos h, State.latchWaits_getF]
  exact State.getF_setF_same hs _ _ _

/-- What follows the performance of a write leaves memory alone. -/
theorem State.memory_wrPerformed (s : State) (r : RxWr) (up : Bool) (p : Nat) :
    ((s.countArrival r).finishWr up p r).mem = s.mem ∧ ((s.countArrival r).finishWr up p r).ecc = s.ecc :=
  ⟨(((s.countArrival_kept r).only .mem (by decide)).trans ((State.finishWr_kept _ up p r).only .mem (by decide))).symm,
    (((s.countArrival_kept r).only .ecc (by decide)).trans ((State.finishWr_kept _ up p r).only .ecc (by decide))).symm⟩

theorem State.getF_finishWr (s : State) (up : Bool) (p : Nat) (r : RxWr) (f : Fld) (i : Nat) : (s.finishWr up p r).getF f i = s.getF f i := by
  have h : s.regs = (s.finishWr up p r).regs := (s.finishWr_kept up p r).only .regs (by decide)
  rw [State.getF, ← h, State.getF]

end writes

/-- Settles O39: a write is taken off the buffer and its outcome noted; what it does to memory comes before its count and its acknowledgement. -/
theorem postedWritesArePerformed : Obligations.PostedWritesArePerformed := by
  unfold Obligations.PostedWritesArePerformed
  intro s p wid hs
  refine ⟨fun l rest hrun hrx => ?checked, fun r hrun hr => ?performed, fun hrun hne => ?wack, fun hrun hnil => ?none⟩
  case checked =>
    have hexec := exec_wr hrun hrx
    refine ⟨fun (h : s.wrCheck p (wrHdr l) = 0) => ?_, fun (h : s.wrCheck p (wrHdr l) ≠ 0) => ?_, ?_⟩
    · rw [hexec, if_pos h]
      rfl
    · rw [hexec, if_neg h]
      rfl
    obtain ⟨t, ht, hkept⟩ : ∃ t, exec (.wr p) s = .next t ∧ Kept (fun c => c ∈ recordComps ++ [.ports, .arch]) s t := by
      apply @execWr_kept _ _ p s (Kept.refl s) <;> exact List.mem_of_elem_eq_true rfl
    exact ⟨t, ht, hkept.only⟩
  case performed =>
    obtain ⟨hmem, hecc⟩ := (s.performed r).memory_wrPerformed r (s.portUp p) p
    have hregs := s.regs_performed r
    refine ⟨_, exec_wrPerformed hrun hr, hmem, fun h14 a ha => ?_, fun h12 => ?_, fun h12 n => ?_⟩
    · refine (State.byteAt_congr hmem hecc a).trans ?_
      rw [State.performed, if_neg (by simp [h14])]
      exact State.byteAt_writeBytes_out hs _ _ ha
    · rw [State.getF_finishWr, State.arr_countArrival (State.canon_regs (State.canon_performed hs r)) h12, hregs.getF_eq (by decide)]
    · rw [State.getF_finishWr, State.countArrival, if_neg (by simp [h12]), hregs.getF_eq (by decide)]
  case wack =>
    rw [exec, execWack, hrun]
    exact congrArg _ (if_pos (by simpa [List.isEmpty_iff] using hne))
  case none =>
    rw [exec, execWack, hnil]
    simp

end Sys2Proof.Machine

/-!
PROOFS. Links: lane faults, loss, training, and eye scans (O40).
-/
namespace Sys2Proof.Machine

/-! ### Lanes (R415) -/

section lanes
variable {s : State} {p lane : Nat}

theorem bothHalves_single : ∀ lane < 8, bothHalves (0 + 2 ^ lane) = false := by decide

/-- A lane of a port that is UP, and that was sound, fails. -/
theorem exec_laneFault (hup : s.portUp p = true) (hlane : lane < 8) (hsound : bit (s.getF F.zlkPstatFaulty p) lane = false) :
    exec (.laneFault p lane) s = .next (
      if bothHalves (s.getF F.zlkPstatFaulty p + 2 ^ lane) then (s.setF F.zlkPstatFaulty p (s.getF F.zlkPstatFaulty p + 2 ^ lane)).loseLink p
      else if s.getF F.zlkPstatFaulty p ≠ 0 then s.setF F.zlkPstatFaulty p (s.getF F.zlkPstatFaulty p + 2 ^ lane)
      else (((s.setF F.zlkPstatFaulty p (s.getF F.zlkPstatFaulty p + 2 ^ lane)).record
        { cls := 0x19, sev := 2, kind := 4, unit := p, sub := lane, syn := s.getF F.zlkPstatFaulty p + 2 ^ lane }).mapPort p
          fun v => { v with dgr := if lane < 4 then 2 else 1 }).sendBare p 0 (if lane < 4 then 2 else 1)) := by
  rw [exec, execLaneFault]
  simp only [hup, hsound, Nat.not_le.2 hlane, decide_false, Bool.not_true, Bool.or_self, Bool.false_eq_true, if_false, bne_iff_ne]

theorem exec_widthChange {flit : List Byte} {sym unc : Nat} (hrun : s.portRuns p = true) (hty : flitField flit 60 4 = 3) (hd : flitField flit 34 2 ≠ 0)
    (hg : ((s.fecCount p sym unc).port p).good flit false = true) : exec (.widthChange p flit false sym unc) s = .next (
      if (((s.fecCount p sym unc).takeHeader p flit).port p).dgr = flitField flit 34 2 then
        (((s.fecCount p sym unc).takeHeader p flit).mapPort p fun v => { v with dgr := 0 }).setWidth p (flitField flit 34 2)
      else ((s.fecCount p sym unc).takeHeader p flit).widthAsked p (flitField flit 34 2)) := by
  rw [exec, execWidthChange]
  simp only [hrun, hty, hd, hg]
  rfl

end lanes

/-! ### The loss of a link (R430) -/

section loss
variable {s : State} {p : Nat}

/-- What a port forgets as its link is lost. -/
def Port.cut (w : Port) : Port :=
  { w with unacked := [], txSb := [], txWack := [], txSlots := [], rxSlots := [], rxWr := [], replays := 0, gap := false, dgr := 0 }

/-- What was received is settled, the port forgets, and the counters that it feeds note the loss. -/
def State.lossCut (s : State) (p : Nat) : State :=
  (((List.range (s.port p).rxWack.length).foldl (fun (t : State) _ => t.takeWack p) s).mapPort p Port.cut).setLost p

/-- The sends of the port end. -/
def State.lossEnds (s : State) (p : Nat) : State :=
  (s.cmds.filter fun c => c.opcode == 0x30 && c.st == .issued && !c.ready && c.zport == p).foldl (fun (t : State) c => t.endZsend c 0x9A) s

/-- The ring commands that use the port fail. -/
def State.lossFails (s : State) (p : Nat) : State := (s.cmds.filter (·.usesPort p)).foldl (fun (t : State) c => t.failRing c 0x33) s

/-- The steps of a loss that come before the port changes its state. -/
def State.lossSteps (s : State) (p : Nat) : State :=
  ((((s.lossCut p).lossEnds p).lossFails p).mapPort p fun w => { w with txWr := [], sent := [] }).linkEvent p (s.port p).rxSeq (s.port p).acked false

/-- The port is RETRAINING and announces it. -/
def State.toRetraining (s : State) (p : Nat) : State :=
  ((s.setF F.zlkPstatState p 4).mapPort p fun w => { w with step := 1, since := (s.setF F.zlkPstatState p 4).now }).sendBare p 3 0

/-- A sweep that still waits for the port breaks there. -/
def State.lossSweep (s : State) (p : Nat) : State :=
  if !s.flag F.tmbAlignSweeping 0 then s
  else if s.arch.owed.contains p then (s.breakAt p).nextHop
  else if s.treePorts.contains p then s.setArch { s.arch with broke := s.arch.broke ++ [p] }
  else s

theorem State.loseLink_eq (s : State) (p : Nat) : s.loseLink p = ((s.lossSteps p).toRetraining p).lossSweep p := by
  unfold State.loseLink State.lossSteps State.lossCut State.lossEnds State.lossFails State.toRetraining State.lossSweep Port.cut
  rfl

theorem State.canon_lossCut (hs : s.canon = true) (p : Nat) : (s.lossCut p).canon = true := by
  have htake : Kept (fun _ => True) s ((List.range (s.port p).rxWack.length).foldl (fun (t : State) _ => t.takeWack p) s) := by
    refine kept_foldl _ (fun t _ h => ?_) _ (Kept.refl s)
    apply @State.takeWack_kept _ _ t p h <;> exact trivial
  exact (State.setLost_kept _ p (State.mapPort_kept _ p Port.cut htake trivial) trivial).2 hs

theorem State.canon_lossEnds (hs : s.canon = true) (p : Nat) : (s.lossEnds p).canon = true := by
  refine (?_ : Kept (fun _ => True) s (s.lossEnds p)).2 hs
  refine kept_foldl _ (fun t c ht => ?_) _ (Kept.refl s)
  apply @State.endZsend_kept _ _ t c _ ht <;> exact trivial

theorem State.canon_lossFails (hs : s.canon = true) (p : Nat) : (s.lossFails p).canon = true := by
  refine (?_ : Kept (fun _ => True) s (s.lossFails p)).2 hs
  refine kept_foldl _ (fun t c ht => ?_) _ (Kept.refl s)
  apply @State.failRing_kept _ _ t c _ ht <;> exact trivial

theorem State.canon_lossSteps (hs : s.canon = true) (p : Nat) : (s.lossSteps p).canon = true := by
  let u := ((s.lossCut p).lossEnds p).lossFails p
  have hu : u.canon = true := State.canon_lossFails (State.canon_lossEnds (State.canon_lossCut hs p) p) p
  refine (?_ : Kept (fun _ => True) u (s.lossSteps p)).2 hu
  apply @State.linkEvent_kept _ _ _ _ _ _ _ (State.mapPort_kept u p _ (Kept.refl u) trivial) <;> exact trivial

theorem State.getF_toRetraining (s : State) (p : Nat) (f : Fld) (i : Nat) : (s.toRetraining p).getF f i = (s.setF F.zlkPstatState p 4).getF f i := rfl

/-- Messages on a port change no register. -/
theorem State.getF_sendBare (s : State) (p ty dgr : Nat) (f : Fld) (i : Nat) : (s.sendBare p ty dgr).getF f i = s.getF f i := rfl

theorem State.regs_sendSb (s : State) (p kind body : Nat) : (s.sendSb p kind body).regs = s.regs := by
  have h : Kept (fun c => c ∈ [Comp.ports, .arch, .out]) s (s.sendSb p kind body) :=
    State.sendSb_kept _ _ _ _ (Kept.refl s) (by decide) (by decide) (by decide)
  exact (h.only .regs (by decide)).symm

theorem State.regs_breakAt (s : State) (p : Nat) : RegsKept [R.tmbAlign] s (s.breakAt p) := by
  have hset (a : Arch) : RegsKept [R.tmbAlign] s (s.setArch a) := (RegsKept.refl _ s).of_regs rfl
  unfold State.breakAt
  dsimp only
  split
  · exact (hset _).setF _ _ _ (by decide)
  · split
    · exact (hset _).of_regs (State.regs_sendSb _ _ _ _)
    · exact hset _

theorem State.regs_probe (s : State) : s.probe.regs = s.regs := by
  rw [State.probe]
  split
  · exact State.regs_sendSb _ _ _ _
  · rfl

theorem State.regs_sweepDone (s : State) : RegsKept [R.tmbAlign] s s.sweepDone := by
  rw [State.sweepDone]
  have hu : RegsKept [R.tmbAlign] s (s.setF F.tmbAlignSweeping 0 0) := (RegsKept.refl _ s).setF _ _ _ (by decide)
  split
  · exact RegsKept.ite hu (hu.setF _ _ _ (by decide))
  · split
    · exact hu
    · split
      · exact hu.of_regs (State.regs_sendSb _ _ _ _)
      · exact hu

theorem State.regs_nextHop (s : State) : RegsKept [R.tmbAlign] s s.nextHop := by
  rw [State.nextHop]
  split
  · exact RegsKept.refl _ s
  · split
    · exact (RegsKept.refl _ s).of_regs (State.regs_probe _)
    · exact RegsKept.ite s.regs_sweepDone (RegsKept.refl _ s)

theorem State.regs_lossSweep (s : State) (p : Nat) : RegsKept [R.tmbAlign] s (s.lossSweep p) := by
  have r := RegsKept.refl [R.tmbAlign] s
  exact RegsKept.ite r (RegsKept.ite ((s.regs_breakAt p).trans (State.regs_nextHop _)) (RegsKept.ite (r.of_regs rfl) r))

/-- A link that is lost leaves its port RETRAINING. -/
theorem State.state_loseLink (hs : s.canon = true) (p : Nat) : (s.loseLink p).getF F.zlkPstatState p = 4 := by
  have hset : ((s.lossSteps p).setF F.zlkPstatState p 4).getF F.zlkPstatState p = 4 :=
    State.getF_setF_same (State.canon_regs (State.canon_lossSteps hs p)) _ _ _
  rw [State.loseLink_eq, (State.regs_lossSweep _ p).getF_eq (by decide), State.getF_toRetraining, hset]

theorem exec_linkLoss {announced : Bool} (hup : s.portUp p = true)
    (h : announced = true ∨ 16 ≤ (s.port p).replays ∨ ((s.port p).dgr = 0 ∧ (s.port p).since + 2000 ≤ s.now)) :
    exec (.linkLoss p announced) s = .next (s.loseLink p) := by
  rw [exec, execLinkLoss]
  refine congrArg Host.Outcome.next (if_pos ?_)
  obtain h | h | ⟨hd, hold⟩ := h
  · simp [hup, h]
  · simp [hup, h]
  · simp [hup, hd, hold]

end loss

/-! ### Training (R407, R408) -/

section training
variable {s : State} {p : Nat}

/-- The fields of the link that training sets, in their order. -/
def State.linkFields (s : State) (p serial peer evt faulty : Nat) (rev : Bool) (pol : Nat) : List (Fld × Nat) :=
  let d := if faulty = 0 then 3 else if faulty < 16 then 2 else 1
  [(F.zlkPstatEvtno, lo32 (max (s.getF F.zlkPstatEvtno p) evt + 1)), (F.zlkPstatNarrow, b2n (d != 3)), (F.zlkPstatHalf, b2n (d == 2)),
   (F.zlkPstatFaulty, faulty), (F.zlkPstatLanerev, b2n rev), (F.zlkPstatPolinv, pol), (F.zlkNbrNbrserial, serial), (F.zlkNbrNbrport, peer)]

/-- A port whose training has ended: fresh credits, and the writes that are still under way. -/
def Port.trained (v : Port) (now : Nat) : Port :=
  { Port.fresh with step := 5, since := now, credits := [4096, 256, 64], wid := v.wid, rx := v.rx.filter fun r => !r.fin }

/-- The port is UP. -/
def State.portTrained (s : State) (p serial peer evt faulty : Nat) (rev : Bool) (pol : Nat) : State :=
  let t := s.setFields p (s.linkFields p serial peer evt faulty rev pol)
  (t.setPort p ((t.port p).trained t.now)).setF F.zlkPstatState p 3

/-- Failed lanes are recorded, and so is the return of a link. -/
def State.noteLink (s : State) (p faulty : Nat) (back : Bool) : State :=
  let t := if faulty = 0 then s
    else s.record { cls := 0x19, sev := 2, kind := 4, unit := p, sub := ((List.range 8).find? fun l => bit faulty l).getD 0, syn := faulty }
  if back then t.linkEvent p 0xFFF 0xFFF true else t

/-- A link of the tree that comes back with the same neighbour joins the tree again. -/
def State.rejoin (s : State) (p peer : Nat) (same : Bool) : State :=
  if same && s.arch.broke.contains p then
    let t := s.setArch { s.arch with broke := s.arch.broke.filter (· != p) }
    if t.arch.parent = some p then t.sendSb p 0x02 (Config.serial.toNat <<< 32 + (p * 16 + peer + 0xFFFF00) <<< 96) else t
  else s

theorem State.linkUp_eq (s : State) (p serial peer evt faulty : Nat) (rev : Bool) (pol : Nat) : s.linkUp p serial peer evt faulty rev pol =
    ((s.portTrained p serial peer evt faulty rev pol).noteLink p faulty (s.getF F.zlkPstatState p == 4)).rejoin p peer
      (s.getF F.zlkNbrNbrserial p == serial) := rfl

theorem exec_linkUp {serial peer role reach evt faulty : Nat} {rev : Bool} {pol : Nat} (ht : s.training p = true) (hrole : s.getF F.zlkPcfgRole p = role)
    (hreach : s.getF F.zlkPcfgReach p = reach) (hhalves : bothHalves faulty = false) (hf : faulty < 256) :
    exec (.linkUp p serial peer role reach evt faulty rev pol) s = .next (s.linkUp p serial peer evt faulty rev pol) := by
  rw [exec, execLinkUp]
  exact congrArg _ (if_pos (by simp [ht, hrole, hreach, hhalves, hf]))

theorem State.linkFields_apart (s : State) (p serial peer evt faulty : Nat) (rev : Bool) (pol : Nat) :
    ((s.linkFields p serial peer evt faulty rev pol).map (·.1)).Pairwise Fld.apart := by
  have h : [F.zlkPstatEvtno, F.zlkPstatNarrow, F.zlkPstatHalf, F.zlkPstatFaulty, F.zlkPstatLanerev, F.zlkPstatPolinv, F.zlkNbrNbrserial,
      F.zlkNbrNbrport].Pairwise Fld.apart := by
    unfold Fld.apart
    decide
  exact h

variable {serial peer evt faulty : Nat} {rev : Bool} {pol : Nat}

theorem State.portTrained_kept (s : State) (p serial peer evt faulty : Nat) (rev : Bool) (pol : Nat) :
    Kept (fun c => c ∈ [Comp.regs, .ports]) s (s.portTrained p serial peer evt faulty rev pol) := by
  have h : Kept (fun c => c ∈ [Comp.regs, .ports]) s (s.setFields p (s.linkFields p serial peer evt faulty rev pol)) :=
    kept_foldl _ (fun t e ht => State.setF_kept t _ _ _ ht (by decide)) _ (Kept.refl s)
  exact State.setF_kept _ _ _ _ (State.setPort_kept _ _ _ h (by decide)) (by decide)

theorem State.setFields_kept (s : State) (i : Nat) (l : List (Fld × Nat)) : Kept (fun c => c ∈ [Comp.regs]) s (s.setFields i l) :=
  kept_foldl _ (fun t e ht => State.setF_kept t _ _ _ ht (by decide)) _ (Kept.refl s)

theorem State.rises_setFields (hs : s.canon = true) (i : Nat) (l : List (Fld × Nat)) : rises (s.setFields i l).regs = true :=
  State.canon_regs ((s.setFields_kept i l).2 hs)

theorem State.getF_portTrained (hs : rises s.regs = true) {f : Fld} {v : Nat} (hf : (f, v) ∈ s.linkFields p serial peer evt faulty rev pol)
    (hplace : f.key 0 % 32768 ≠ F.zlkPstatState.key 0 % 32768) : (s.portTrained p serial peer evt faulty rev pol).getF f p = v % 2 ^ f.w :=
  (State.getF_setF_place _ _ _ _ hplace).trans (State.getF_setFields hs p (s.linkFields_apart p serial peer evt faulty rev pol) hf)

theorem State.state_portTrained (hs : s.canon = true) : (s.portTrained p serial peer evt faulty rev pol).getF F.zlkPstatState p = 3 :=
  State.getF_setF_same (State.rises_setFields hs p (s.linkFields p serial peer evt faulty rev pol)) F.zlkPstatState p 3

theorem State.port_portTrained (hs : s.canon = true) : (s.portTrained p serial peer evt faulty rev pol).port p =
    ((s.setFields p (s.linkFields p serial peer evt faulty rev pol)).port p).trained (s.setFields p (s.linkFields p serial peer evt faulty rev pol)).now :=
  State.port_setPort_same (State.canon_ports ((s.setFields_kept p (s.linkFields p serial peer evt faulty rev pol)).2 hs)) p _

theorem State.regs_linkEvent (s : State) (p ackTx ackRx : Nat) (back : Bool) : RegsKept recordRegs s (s.linkEvent p ackTx ackRx back) :=
  RegsKept.foldl _ (fun u _ => (RegsKept.refl _ u).raiseEvt _ _ (by decide)) _ (s.regs_record _)

theorem State.regs_noteLink (s : State) (p faulty : Nat) (back : Bool) : RegsKept recordRegs s (s.noteLink p faulty back) := by
  have h : RegsKept recordRegs s (if faulty = 0 then s
      else s.record { cls := 0x19, sev := 2, kind := 4, unit := p, sub := ((List.range 8).find? fun l => bit faulty l).getD 0, syn := faulty }) :=
    RegsKept.ite (RegsKept.refl _ s) (s.regs_record _)
  exact RegsKept.ite (h.trans (State.regs_linkEvent _ _ _ _ _)) h

theorem State.noteLink_kept (s : State) (p faulty : Nat) (back : Bool) : Kept (fun c => c ∈ recordComps) s (s.noteLink p faulty back) := by
  have hrec (r : Rec) : Kept (fun c => c ∈ recordComps) s (s.record r) := by
    apply @State.record_kept _ _ s r (Kept.refl s) <;> exact List.mem_of_elem_eq_true rfl
  have h := kept_ite (c := faulty = 0) (Kept.refl s)
    (hrec { cls := 0x19, sev := 2, kind := 4, unit := p, sub := ((List.range 8).find? fun l => bit faulty l).getD 0, syn := faulty })
  refine kept_ite ?_ h
  apply @State.linkEvent_kept _ _ _ _ _ _ _ h <;> exact List.mem_of_elem_eq_true rfl

theorem State.getF_rejoin (s : State) (p peer : Nat) (same : Bool) (f : Fld) (i : Nat) : (s.rejoin p peer same).getF f i = s.getF f i := by
  rw [State.rejoin]
  split
  · dsimp only
    split
    · rw [State.getF, State.regs_sendSb]
      rfl
    · rfl
  · rfl

theorem State.rejoin_whole (same : Bool) (h : s.arch.broke.contains p = false) : s.rejoin p peer same = s := by
  rw [State.rejoin, h, Bool.and_false]
  rfl

/-- What notes the link and joins it to the tree leaves the registers of the port. -/
theorem State.getF_linkUp (s : State) {f : Fld} (i : Nat) (w : f.key 0 / 128 % 256 ∉ recordRegs.map (·.idx)) :
    (s.linkUp p serial peer evt faulty rev pol).getF f i = (s.portTrained p serial peer evt faulty rev pol).getF f i := by
  rw [State.linkUp_eq, State.getF_rejoin]
  exact (State.regs_noteLink _ _ _ _).getF_eq w i

/-- A port that did not break the tree holds fresh credits. -/
theorem State.port_linkUp (hs : s.canon = true) (hb : s.arch.broke.contains p = false) : ((s.linkUp p serial peer evt faulty rev pol).port p).credits = [4096, 256, 64] ∧
    ((s.linkUp p serial peer evt faulty rev pol).port p).unacked = [] ∧ ((s.linkUp p serial peer evt faulty rev pol).port p).txWr = [] := by
  let t := s.portTrained p serial peer evt faulty rev pol
  have hnote := t.noteLink_kept p faulty (s.getF F.zlkPstatState p == 4)
  have harch : s.arch = (t.noteLink p faulty (s.getF F.zlkPstatState p == 4)).arch :=
    ((s.portTrained_kept p serial peer evt faulty rev pol).only .arch (by decide)).trans (hnote.only .arch (by decide))
  have hports : t.ports = (t.noteLink p faulty (s.getF F.zlkPstatState p == 4)).ports := hnote.only .ports (by decide)
  have hport : (s.linkUp p serial peer evt faulty rev pol).port p = t.port p := by
    rw [State.linkUp_eq, State.rejoin_whole _ (by rwa [← harch]), State.port, ← hports, State.port]
  rw [hport, State.port_portTrained hs]
  exact ⟨rfl, rfl, rfl⟩

end training

/-! ### Eye scans (R432) -/

/-- What a scan that ends shows. -/
def eyeFields (height width : Nat) : List (Fld × Nat) :=
  [(F.zlkEyeresBusy, 0), (F.zlkEyeresStatus, 0), (F.zlkEyeresHeight, height), (F.zlkEyeresWidth, width)]

theorem eyeFields_apart (height width : Nat) : ((eyeFields height width).map (·.1)).Pairwise Fld.apart := by
  have h : [F.zlkEyeresBusy, F.zlkEyeresStatus, F.zlkEyeresHeight, F.zlkEyeresWidth].Pairwise Fld.apart := by
    unfold Fld.apart
    decide
  exact h

section commands
variable {s : State} {p v : Nat} {acr : Acr}

theorem exec_retrain (hacr : acr ∈ [Acr.fn 0, .mb]) (hp : p < 12) : exec (.retrain acr p 1) s = .next (
    if s.getF F.zlkPstatState p = 3 then s.loseLink p
    else if s.getF F.zlkPstatState p < 2 then s
    else (s.setF F.zlkPstatState p (if s.getF F.zlkPstatState p = 5 then 4 else s.getF F.zlkPstatState p)).mapPort p fun w => { w with step := 1, since := s.now }) := by
  rw [exec, execRetrain, State.forDevice_of_mem hacr, if_neg (by simp [hp])]

theorem exec_retrainLimit_rests (h : 12 ≤ p ∨ s.getF F.zlkPstatState p ≠ 4 ∨ s.getF F.zlkPcfgRetrylim p = 0) : exec (.retrainLimit p) s = .next s := by
  rw [exec, execRetrainLimit]
  refine congrArg Host.Outcome.next (if_neg ?_)
  obtain h | h | h := h
  · simp [Nat.not_lt.2 h]
  · simp [h]
  · simp [h]

theorem exec_retrainLimit_down (hp : p < 12) (hst : s.getF F.zlkPstatState p = 4) (hlim : s.getF F.zlkPcfgRetrylim p ≠ 0)
    (hold : (s.port p).since + s.getF F.zlkPcfgRetrylim p * 1000000 ≤ s.now) : exec (.retrainLimit p) s = .next (s.setF F.zlkPstatState p 5) := by
  rw [exec, execRetrainLimit]
  exact congrArg Host.Outcome.next (if_pos (by simp [hp, hst, hlim, hold]))

theorem exec_eyeScan (hacr : acr ∈ [Acr.fn 0, .mb]) (hgo : bit v 31 = true) (hhi : bits v 15 16 = 0) (hlo : bits v 0 4 = 0) :
    exec (.eyeScan acr v) s = .next (
      if s.flag F.zlkEyeresBusy 0 then s.setF F.zlkEyeresStatus 0 0xA1
      else if bits v 11 4 < 6 ∨ 12 < bits v 11 4 ∨ 11 < bits v 7 4 then s.setF F.zlkEyeresStatus 0 0xA2
      else s.setF F.zlkEyeresBusy 0 1) := by
  rw [exec, execEyeScan, State.forDevice_of_mem hacr, hgo, hhi, hlo]
  simp [or_assoc]

theorem exec_eyeScanComplete (height width : Nat) : exec (.eyeScanComplete height width) s = .next (
    if s.flag F.zlkEyeresBusy 0 then s.setFields 0 (eyeFields height width) else s) := rfl

end commands

/-- Settles O40: a loss is its steps, the port's new state, and the sweep that breaks; the end of training sets the link's fields before it notes them. -/
theorem linksFallAndComeBack : Obligations.LinksFallAndComeBack := by
  unfold Obligations.LinksFallAndComeBack
  refine ⟨fun s p hs => ⟨?lane, ?width, ?loss, ?timeout, ?up, exec_retrainLimit_rests, exec_retrainLimit_down, ?retrain⟩, fun s v height width hs => ⟨?scan, ?ends, ?idle⟩⟩
  case lane =>
    intro lane hup hlane hsound m u d r
    have hexec := exec_laneFault hup hlane hsound
    refine ⟨fun hboth => hexec.trans (congrArg _ (if_pos hboth)), fun h0 => ?_⟩
    have hone : bothHalves m = false := (congrArg bothHalves (congrArg (· + 2 ^ lane) h0)).trans (bothHalves_single lane hlane)
    rw [hexec, if_neg (by simpa [m] using hone), if_neg (by simp [h0])]
  case width =>
    intro flit sym unc hrun hty hd hg d t
    have hexec := exec_widthChange hrun hty hd hg
    exact ⟨fun h => hexec.trans (congrArg _ (if_pos h)), fun h => hexec.trans (congrArg _ (if_neg h))⟩
  case loss =>
    intro announced hup h
    exact ⟨_, exec_linkLoss hup h, rfl, State.state_loseLink hs p⟩
  case timeout =>
    intro step ht
    exact congrArg Host.Outcome.next (if_pos ht)
  case up =>
    intro serial peer role reach evt faulty rev pol ht hrole hreach hhalves hf
    have hregs := State.canon_regs hs
    refine ⟨_, exec_linkUp ht hrole hreach hhalves hf, (s.getF_linkUp p (by decide)).trans (State.state_portTrained hs), ?_, ?_, ?_, State.port_linkUp hs⟩
    · exact (s.getF_linkUp p (by decide)).trans (State.getF_portTrained hregs (by simp [State.linkFields]) (by decide))
    · exact (s.getF_linkUp p (by decide)).trans ((State.getF_portTrained hregs (f := F.zlkPstatFaulty) (v := faulty) (by simp [State.linkFields]) (by decide)).trans
        (Nat.mod_eq_of_lt hf))
    · exact (s.getF_linkUp p (by decide)).trans (State.getF_portTrained hregs (by simp [State.linkFields]) (by decide))
  case retrain =>
    intro hp acr hacr
    have hexec := exec_retrain (s := s) hacr hp
    refine ⟨fun h3 => hexec.trans (congrArg _ (if_pos h3)), fun hlow => ?_, fun h5 => ?_⟩
    · rw [hexec, if_neg (by omega), if_pos hlow]
    · rw [hexec, if_neg (by omega), if_neg (by omega), if_pos h5]
  case scan =>
    intro hgo hhi hlo acr hacr
    have hexec := exec_eyeScan (s := s) hacr hgo hhi hlo
    refine ⟨fun hbusy => hexec.trans (congrArg _ (if_pos hbusy)), fun hidle hbad => ?_, fun hidle h6 h12 hlane => ?_⟩
    · rw [hexec, if_neg (by simp [hidle]), if_pos hbad]
    · rw [hexec, if_neg (by simp [hidle]), if_neg (by omega)]
  case ends =>
    intro hbusy
    have hregs := State.canon_regs hs
    have hread {f : Fld} {x : Nat} (hf : (f, x) ∈ eyeFields height width) : (s.setFields 0 (eyeFields height width)).getF f 0 = x % 2 ^ f.w :=
      State.getF_setFields hregs 0 (eyeFields_apart height width) hf
    refine ⟨_, (exec_eyeScanComplete height width).trans (congrArg _ (if_pos hbusy)), ?_, hread (f := F.zlkEyeresStatus) (x := 0) (by simp [eyeFields]),
      hread (by simp [eyeFields]), hread (by simp [eyeFields]), State.only_setFields _ _ _, s.fields_setFields 0 (eyeFields height width)⟩
    rw [State.flag, hread (f := F.zlkEyeresBusy) (x := 0) (by simp [eyeFields])]
    rfl
  case idle =>
    intro hidle
    exact (exec_eyeScanComplete height width).trans (congrArg _ (if_neg (by simp [hidle])))

end Sys2Proof.Machine

/-!
PROOFS. Formation of an archipelago (O41).
-/
namespace Sys2Proof.Machine

/-! ### A command that ends in a choice of states, on the side that is taken -/

section choice
variable {o : Host.Outcome State Fault Refusal} {c : Prop} [Decidable c] {a b : State}

theorem next_pos (h : o = .next (if c then a else b)) (hc : c) : o = .next a := h.trans (congrArg Host.Outcome.next (if_pos hc))

theorem next_neg (h : o = .next (if c then a else b)) (hc : ¬c) : o = .next b := h.trans (congrArg Host.Outcome.next (if_neg hc))

end choice

section formation
variable {s t : State} {p m t0 : Nat} {acr : Acr}

/-- What the start of a formation writes. -/
def formFields : List (Fld × Nat) := [(F.zlkArchState, 1), (F.zlkArchStatus, 0), (F.zlkArchLead, 0), (F.tmbAlignSweeping, 0)]

theorem formFields_apart : (formFields.map (·.1)).Pairwise Fld.apart := by
  unfold Fld.apart
  decide

theorem State.getF_startForm (s : State) (f : Fld) (i : Nat) : s.startForm.getF f i = (s.setFields 0 formFields).getF f i := rfl

theorem State.fields_startForm (s : State) : FieldsKept (formFields.map fun e => (e.1, 0)) s s.startForm := s.fields_setFields 0 formFields

theorem State.only_startForm (s : State) : OnlyChanged [.regs, .arch] s s.startForm :=
  ((s.only_setFields 0 formFields).mono (by decide)).trans
    (State.setArch_kept (E := fun c => c ∈ [Comp.regs, .arch]) (s.setFields 0 formFields) _ (Kept.refl _) (by decide)).only

theorem exec_form (hacr : acr ∈ [Acr.fn 0, .mb]) : exec (.form acr 1) s = .next (
    if s.getF F.zlkArchState 0 = 1 then s.setF F.zlkArchStatus 0 0xA1 else s.startForm) := by
  rw [exec, execForm, State.forDevice_of_mem hacr, if_neg (by decide)]

theorem State.electing_iff : s.electing = true ↔ s.getF F.zlkArchState 0 = 1 ∧ s.arch.ended = false := by
  simp [State.electing]

/-- A device that takes part takes the larger FORMNO, and the better key with the port that it came from. -/
theorem exec_elect (h : s.takeSb p 0x01 = some (m, t0, t)) (he : t.electing = true) {u : State}
    (hu : u = t.setArch { t.arch with formMax := max t.arch.formMax (bits m 112 16) }) : exec (.elect p) s = .next (
      if u.arch.best < bits m 32 64 then u.setArch { u.arch with best := bits m 32 64, bestAt := u.now, parent := some p } else u) := by
  subst hu
  rw [exec, execElect, h]
  dsimp only
  rw [if_pos (State.electing_iff.1 he).1]
  refine congrArg Host.Outcome.next (if_congr ?_ rfl rfl)
  rw [Bool.and_eq_true, decide_eq_true_iff]
  exact and_iff_right he

/-- The end of an election whose best key has stood for 5 ms. -/
theorem exec_electionEnd (he : s.electing = true) (hold : s.arch.bestAt + 5000000 ≤ s.now) {u : State} (hu : u = s.setArch { s.arch with ended := true }) :
    exec .electionEnd s = .next (
      if s.arch.best = 0 then s.archState 3 0xA0
      else if s.arch.best = s.archKey then (if u.connected.isEmpty then u.archState 3 0x9F else u.setF F.zlkArchLead 0 1)
      else match s.arch.parent with
        | some p => (topoBodies Config.serial.toNat u.connected).foldl (fun t b => t.sendSb p 0x02 b) u
        | none => u) := by
  subst hu
  have hgo : ¬(!s.electing || decide (s.now < s.arch.bestAt + 5000000)) = true := by simp [he, hold]
  rw [exec, execElectionEnd]
  exact congrArg Host.Outcome.next (if_neg hgo)

theorem exec_electionEnd_rests (h : s.electing = false ∨ s.now < s.arch.bestAt + 5000000) : exec .electionEnd s = .next s := by
  rw [exec, execElectionEnd, if_pos (by simpa using h)]

/-- The port that a TOPO came from counts as a child while the formation runs. -/
def State.countChild (t : State) (p : Nat) : State :=
  if t.getF F.zlkArchState 0 = 1 ∧ t.arch.children.any (fun c => c.1 == p) = false then t.setArch { t.arch with children := t.arch.children ++ [(p, 0xFFFF)] } else t

theorem State.regs_countChild (t : State) (p : Nat) : (t.countChild p).regs = t.regs := by
  rw [State.countChild]
  split <;> rfl

theorem State.isLead_countChild (t : State) (p : Nat) : (t.countChild p).isLead = t.isLead := by
  rw [State.isLead, State.flag, State.getF, State.regs_countChild]
  rfl

theorem State.parent_countChild (t : State) (p : Nat) : (t.countChild p).arch.parent = t.arch.parent := by
  rw [State.countChild]
  split <;> rfl

theorem State.getF_countChild (t : State) (p : Nat) (f : Fld) (i : Nat) : (t.countChild p).getF f i = t.getF f i := by
  rw [State.getF, State.regs_countChild]
  rfl

theorem State.countChild_formed (h : t.getF F.zlkArchState 0 ≠ 1) : t.countChild p = t := if_neg fun hnew => h hnew.1

/-- A TOPO goes on to the parent, or counts at the lead. -/
theorem exec_topo (map : Option (Nat × List (Nat × List (Nat × Nat)))) (h : s.takeSb p 0x02 = some (m, t0, t)) {u : State} (hu : u = t.countChild p) :
    exec (.topo p map) s = .next (
      if !t.isLead then (match t.arch.parent with | some q => u.forwardSb q m | none => u)
      else if t.getF F.zlkArchState 0 = 1 then
        (match map with
        | none => u
        | some (me, l) =>
          if topoOk (t.getF F.zlkArchcfgTopo 0) (t.getF F.zlkArchcfgNx 0) (t.getF F.zlkArchcfgNy 0) me l then u.number me l else u.archState 3 0x9F)
      else if t.getF F.zlkArchState 0 = 2 ∧ t.flag F.tmbAlignSweeping 0 = false then u.startSweep
      else u) := by
  have hcount : (if t.getF F.zlkArchState 0 == 1 && !t.arch.children.any (fun c => c.1 == p) then
      t.setArch { t.arch with children := t.arch.children ++ [(p, 0xFFFF)] } else t) = u := by
    rw [hu, State.countChild]
    exact if_congr (by simp) rfl rfl
  have hflag : u.flag F.tmbAlignSweeping 0 = t.flag F.tmbAlignSweeping 0 := by rw [State.flag, hu, State.getF_countChild, State.flag]
  have hlead : u.isLead = t.isLead := by rw [hu, State.isLead_countChild]
  have hparent : u.arch.parent = t.arch.parent := by rw [hu, State.parent_countChild]
  have hread (f : Fld) (i : Nat) : u.getF f i = t.getF f i := by rw [hu, State.getF_countChild]
  rw [exec, execTopo, h]
  dsimp only
  rw [hcount, hlead, hparent, hread, hread, hread, hread, hflag]
  congr 1
  refine if_congr Iff.rfl rfl (if_congr (by simp) rfl (if_congr (by simp) rfl rfl))

theorem exec_number (h : s.takeSb p 0x03 = some (m, t0, t)) (child : Option Nat) : exec (.number p child) s = .next (
    match child with
    | some q => t.forwardSb q m
    | none => (t.setNumber (bits m 32 16) (if bits m 80 2 = 2 then bits m 48 16 * bits m 64 16 else bits m 48 16) (bits m 112 16)).sendSb p 0x04 0) := by
  cases child <;> rw [exec, execNumber, h]

/-- A reply that has made one hop tells the child's number. -/
def State.childNumbered (t : State) (p m : Nat) : State :=
  if bits m 4 4 = 0 then t.setArch { t.arch with children := t.arch.children.map fun c => if c.1 = p then (p, bits m 16 16) else c } else t

theorem State.isLead_childNumbered (t : State) (p m : Nat) : (t.childNumbered p m).isLead = t.isLead := by
  rw [State.childNumbered]
  split <;> rfl

theorem State.parent_childNumbered (t : State) (p m : Nat) : (t.childNumbered p m).arch.parent = t.arch.parent := by
  rw [State.childNumbered]
  split <;> rfl

theorem exec_formed (h : s.takeSb p 0x04 = some (m, t0, t)) {w u : State} (hw : w = t.childNumbered p m)
    (hu : u = w.setArch { w.arch with replies := w.arch.replies - 1 }) : exec (.formed p) s = .next (
      if !t.isLead then (match t.arch.parent with | some q => w.forwardSb q m | none => w)
      else if u.arch.replies = 0 ∧ s.arch.replies ≠ 0 then u.startSweep else u) := by
  subst hu
  have hlead : w.isLead = t.isLead := by rw [hw, State.isLead_childNumbered]
  have hparent : w.arch.parent = t.arch.parent := by rw [hw, State.parent_childNumbered]
  rw [exec, execFormed, h, ← hlead, ← hparent]
  dsimp only
  rw [← State.childNumbered, ← hw]
  refine congrArg Host.Outcome.next (if_congr Iff.rfl rfl (if_congr ?_ rfl rfl))
  rw [Bool.and_eq_true, decide_eq_true_iff, bne_iff_ne]

/-- What the number of a device writes. -/
def numberFields (num n fo : Nat) : List (Fld × Nat) :=
  [(F.zlkArchDevnum, num), (F.zlkArchNdev, n), (F.zlkArchFormno, fo), (F.zlkArchState, 2), (F.zlkArchStatus, 0)]

theorem numberFields_apart (num n fo : Nat) : ((numberFields num n fo).map (·.1)).Pairwise Fld.apart := by
  have h : [F.zlkArchDevnum, F.zlkArchNdev, F.zlkArchFormno, F.zlkArchState, F.zlkArchStatus].Pairwise Fld.apart := by
    unfold Fld.apart
    decide
  exact h

theorem State.getF_setNumber (hs : s.canon = true) {num n fo : Nat} {f : Fld} {v : Nat} (hf : (f, v) ∈ numberFields num n fo) (hv : v < 2 ^ f.w) :
    (s.setNumber num n fo).getF f 0 = v :=
  (State.getF_setFields (s := s.setArch { s.arch with leadAt := s.now }) (State.canon_regs hs) 0 (numberFields_apart num n fo) hf).trans (Nat.mod_eq_of_lt hv)

end formation

/-- Settles O41: each message's case is a branch of its command, once the state with the message taken is named. -/
theorem archipelagosForm : Obligations.ArchipelagosForm := by
  unfold Obligations.ArchipelagosForm
  refine ⟨fun s acr hs hacr => ⟨?busy, ?form, ?tick, ?elect, ?ends, exec_electionEnd_rests⟩, fun s p m t0 t => ⟨?topo, ?number, ?formed, ?numbered⟩⟩
  case busy =>
    intro h1
    exact next_pos (exec_form (by simpa using hacr)) h1
  case form =>
    intro h1
    have hread {f : Fld} {v : Nat} (hf : (f, v) ∈ formFields) : s.startForm.getF f 0 = v % 2 ^ f.w :=
      State.getF_setFields (State.canon_regs hs) 0 formFields_apart hf
    have hkey : (s.setFields 0 formFields).archKey = s.archKey := by
      rw [State.archKey, State.archKey, (s.fields_setFields 0 formFields).getF_place 0 (by decide)]
    exact ⟨_, next_neg (exec_form (by simpa using hacr)) h1, hread (f := F.zlkArchState) (v := 1) (by simp [formFields]),
      hread (f := F.zlkArchLead) (v := 0) (by simp [formFields]), hkey, (s.fields_setFields 0 formFields).getF_place 0 (by decide), rfl, rfl,
      s.only_startForm, s.fields_startForm⟩
  case tick => exact fun h => congrArg Host.Outcome.next (if_pos h)
  case elect =>
    intro p m t0 t h he k u
    have hexec := exec_elect h he rfl
    exact ⟨fun hlt => next_pos hexec hlt, fun hle => next_neg hexec (Nat.not_lt.2 hle)⟩
  case ends =>
    intro he hold u
    have hexec := exec_electionEnd he hold rfl
    refine ⟨fun h0 => ?_, fun h0 hkey => ?_, fun h0 hkey p hp => ?_⟩
    · rw [hexec, if_pos h0]
    · rw [hexec, if_neg h0, if_pos hkey]
    · rw [hexec, if_neg h0, if_neg hkey, hp]
  case topo =>
    intro h new u
    have hexec (map) := exec_topo map h rfl
    refine ⟨fun map q hlead hq => ?_, fun me l hlead h1 => ?_, fun hlead h1 => ?_, fun map hlead h2 hsw => ?_⟩
    · rw [hexec, if_pos (by simp [hlead]), hq]
      rfl
    · rw [hexec, if_neg (by simp [hlead]), if_pos h1]
      rfl
    · rw [hexec, if_neg (by simp [hlead]), if_pos h1]
      rfl
    · rw [hexec, if_neg (by simp [hlead]), if_neg (by omega), if_pos ⟨h2, hsw⟩, State.countChild_formed (by omega)]
  case number => exact fun h => ⟨fun q => exec_number h (some q), exec_number h none⟩
  case formed =>
    intro h kids w
    have hexec := exec_formed h rfl rfl
    refine ⟨fun q hlead hq => ?_, fun hlead => ?_⟩
    · rw [hexec, if_pos (by simp [hlead]), hq]
      rfl
    · exact next_neg hexec (by simp [hlead])
  case numbered =>
    intro x num n fo hx hnum hn hfo
    exact ⟨State.getF_setNumber hx (by simp [numberFields]) hnum, State.getF_setNumber hx (by simp [numberFields]) hn,
      State.getF_setNumber hx (by simp [numberFields]) hfo, State.getF_setNumber hx (by simp [numberFields]) (by decide),
      State.getF_setNumber hx (by simp [numberFields]) (by decide)⟩

end Sys2Proof.Machine

/-!
PROOFS. The timebase sweep and the rate trim (O42).
-/
namespace Sys2Proof.Machine

/-! ### What a message and the next hop leave unchanged -/

section hops
variable (s : State)

theorem State.timer_stampProbe (p : Nat) (kind : Option Nat) : (s.stampProbe p kind).arch.timer = s.arch.timer := by
  rw [State.stampProbe]
  split
  · rfl
  · split
    · split <;> rfl
    · rfl

theorem State.timer_pump (p n : Nat) : (s.pump p n).arch.timer = s.arch.timer := by
  induction n generalizing s with
  | zero => rfl
  | succ n ih =>
    rw [State.pump]
    extract_lets v f
    split
    · rfl
    · exact (ih _).trans (State.timer_stampProbe _ _ _)

theorem State.timer_serve (p : Nat) : (s.serve p).arch.timer = s.arch.timer := by
  rw [State.serve]
  split
  · exact s.timer_pump p _
  · rfl

theorem State.timer_sendSb (p kind body : Nat) : (s.sendSb p kind body).arch.timer = s.arch.timer := by
  rw [State.sendSb]
  split
  · exact State.timer_serve _ p
  · rfl

theorem State.timer_probe : s.probe.arch.timer = s.arch.timer := by
  rw [State.probe]
  split
  · exact State.timer_sendSb _ _ _ _
  · rfl

theorem State.timer_sweepDone : s.sweepDone.arch.timer = s.arch.timer := by
  rw [State.sweepDone]
  split
  · split <;> rfl
  · split
    · rfl
    · split
      · exact State.timer_sendSb _ _ _ _
      · rfl

theorem State.timer_nextHop : s.nextHop.arch.timer = s.arch.timer := by
  rw [State.nextHop]
  split
  · rfl
  · split
    · exact State.timer_probe _
    · split
      · exact s.timer_sweepDone
      · rfl

/-- What the end of a sweep writes. -/
def sweepEndFields : List (Fld × Nat) := [(F.tmbAlignSweeping, 0), (F.tmbAlignStatus, 0)]

theorem State.fields_sweepDone : FieldsKept sweepEndFields s s.sweepDone := by
  have hu : FieldsKept sweepEndFields s (s.setF F.tmbAlignSweeping 0 0) := (FieldsKept.refl _ s).setF _ _ _ (by decide)
  rw [State.sweepDone]
  split
  · split
    · exact hu
    · exact hu.setF _ _ _ (by decide)
  · split
    · exact hu
    · split
      · exact hu.trans (FieldsKept.of_regs (State.regs_sendSb _ _ _ _))
      · exact hu

theorem State.fields_nextHop : FieldsKept sweepEndFields s s.nextHop := by
  rw [State.nextHop]
  split
  · exact FieldsKept.refl _ s
  · split
    · exact FieldsKept.of_regs (State.regs_probe _)
    · split
      · exact s.fields_sweepDone
      · exact FieldsKept.refl _ s

theorem State.fields_alignChildren : FieldsKept sweepEndFields s s.alignChildren := State.fields_nextHop (s.setArch _)

theorem State.timer_alignChildren : s.alignChildren.arch.timer = s.arch.timer := State.timer_nextHop (s.setArch _)

end hops

/-! ### The sweep's messages -/

section sweep
variable {s t : State} {p m t0 t1 : Nat} {acr : Acr}

theorem State.canon_takeSb {kind : Nat} (hs : s.canon = true) (h : s.takeSb p kind = some (m, t0, t)) : t.canon = true :=
  (State.takeSb_kept (E := fun _ => True) h (Kept.refl s) trivial trivial trivial).2 hs

theorem exec_tmbCtlSweep (hacr : acr ∈ [Acr.fn 0, .mb]) : exec (.tmbCtlSweep acr 1) s = .next (
    if s.getF F.zlkArchState 0 ≠ 2 then s.setF F.tmbAlignStatus 0 0xC3
    else if s.isLead = false then s.setF F.tmbAlignStatus 0 0xC2
    else if s.flag F.tmbAlignSweeping 0 = true then s.setF F.tmbAlignStatus 0 0xC1
    else s.startSweep) := by
  rw [exec, execTmbCtlSweep, State.forDevice_of_mem hacr, if_neg (by decide)]
  exact congrArg Host.Outcome.next (if_congr (by simp) rfl (if_congr (by simp) rfl rfl))

/-- The sweep begins on a device without children. -/
theorem exec_tbstart_leaf (h : s.takeSb p 0x20 = some (m, t0, t)) (hkids : t.arch.children = []) : exec (.tbstart p) s = .next (
    (t.setF F.tmbAlignSweeping 0 1).setArch { t.arch with
      algen := bits m 32 16, timer := some (t.now + 50000000), bad := false, align := [], owed := [], hop := none, broke := [] }) := by
  have hnow : (t.setF F.tmbAlignSweeping 0 1).now = t.now := t.getF_setF_place 0 0 1 (by decide)
  have hnone : t.arch.children.foldl (fun (t : State) c => t.forwardSb c.1 m) t = t := by rw [hkids, List.foldl_nil]
  rw [exec, execTbstart, h]
  dsimp only
  rw [hnone, hnow]
  rfl

theorem exec_tbprobe (h : s.takeSb p 0x21 = some (m, t0, t)) : exec (.tbprobe p) s = .next (t.sendSb p 0x22 (t0 <<< 32)) := by
  rw [exec, execTbprobe, h]

/-- A reply to the running hop's probe ends a round, and after the 16th the child is set. -/
theorem exec_tbreply_hop {hop : Hop} (h : s.takeSb p 0x22 = some (m, t0, t)) (hhop : t.arch.hop = some hop) (hport : hop.port = p) (ht1 : hop.t1 = some t1)
    {b : Option (Nat × Int)} (hb : b = bestRound hop.best (round t1 (bits m 32 64) (bits m 96 32) t0)) {u : State} (hu : u = t.setArch { t.arch with hop := none }) :
    exec (.tbreply p) s = .next (
      if hop.round + 1 < 16 then (t.setArch { t.arch with hop := some { hop with round := hop.round + 1, misses := 0, best := b } }).probe
      else (u.sendSb p 0x23 (ofInt 64 (b.getD (0, 0)).2 <<< 32 + u.getF F.tmbAlignAlgen 0 <<< 96 +
        ((u.getF F.tmbAlignErrns 0 + 8 + (b.getD (0, 0)).1 / 8) % 65536) <<< 112)).nextHop) := by
  subst hb hu
  rw [exec, execTbreply, h]
  dsimp only
  rw [hhop]
  dsimp only
  rw [if_pos hport, ht1]

theorem exec_tbreply_trim (h : s.takeSb p 0x22 = some (m, t0, t)) (hhop : t.arch.hop = none) (hparent : t.arch.parent = some p) (ht1 : t.arch.trimT1 = some t1) :
    exec (.tbreply p) s = .next (
      t.setArch { t.arch with trimT1 := none, trim := trimTo t.arch.trim (round t1 (bits m 32 64) (bits m 96 32) t0).2 }) := by
  rw [exec, execTbreply, h]
  dsimp only
  rw [hhop]
  dsimp only
  rw [if_pos hparent, ht1]

theorem exec_tbprobeRetry {hop : Hop} (hhop : s.arch.hop = some hop) (ht1 : hop.t1 = some t1) : exec .tbprobeRetry s = .next (
    if s.now < t1 + 100000 then s
    else if 2 ≤ hop.misses then (s.breakAt hop.port).nextHop
    else (s.setArch { s.arch with hop := some { hop with misses := hop.misses + 1 } }).probe) := by
  rw [exec, execTbprobeRetry, hhop]
  dsimp only
  rw [ht1]

/-- What the parent's correction writes. -/
def setFieldsOf (t : State) (m : Nat) : List (Fld × Nat) :=
  [(F.tmbNowNs, ofInt 64 (t.now + toInt 64 (bits m 32 64))), (F.tmbAlignAlgen, bits m 96 16), (F.tmbAlignAligned, 1), (F.tmbAlignErrns, bits m 112 16)]

theorem setFieldsOf_apart (t : State) (m : Nat) : ((setFieldsOf t m).map (·.1)).Pairwise Fld.apart := by
  have h : [F.tmbNowNs, F.tmbAlignAlgen, F.tmbAlignAligned, F.tmbAlignErrns].Pairwise Fld.apart := by
    unfold Fld.apart
    decide
  exact h

/-- The state after the parent's correction, before the children are aligned. -/
def State.corrected (t : State) (m : Nat) : State :=
  let u := t.setFields 0 (setFieldsOf t m)
  u.setArch { u.arch with algen := bits m 96 16, timer := none }

theorem exec_tbset (h : s.takeSb p 0x23 = some (m, t0, t)) : exec (.tbset p) s = .next (t.corrected m).alignChildren := by
  rw [exec, execTbset, h]
  rfl

theorem State.getF_corrected (ht : t.canon = true) {f : Fld} {v : Nat} (hf : (f, v) ∈ setFieldsOf t m) (hv : v < 2 ^ f.w)
    (w : ∀ e ∈ sweepEndFields, f.key 0 % 32768 ≠ e.1.key 0 % 32768) : (t.corrected m).alignChildren.getF f 0 = v :=
  ((t.corrected m).fields_alignChildren.getF_place 0 w).trans
    ((State.getF_setFields (State.canon_regs ht) 0 (setFieldsOf_apart t m) hf).trans (Nat.mod_eq_of_lt hv))

theorem exec_tbdone (h : s.takeSb p 0x24 = some (m, t0, t)) {u : State} (hu : u = t.setArch { t.arch with owed := t.arch.owed.filter (· != p) })
    {v : State} (hv : v = t.setArch { t.arch with owed := t.arch.owed.filter (· != p), bad := true }) : exec (.tbdone p) s = .next (
      if bit m 48 then u.nextHop
      else if t.isLead then (v.setF F.tmbAlignStatus 0 0xC0).nextHop
      else match t.arch.parent with
        | some q => (v.forwardSb q m).nextHop
        | none => v.nextHop) := by
  subst hu hv
  rw [exec, execTbdone, h]
  dsimp only
  refine congrArg Host.Outcome.next ((apply_ite State.nextHop _ _ _).trans (if_congr Iff.rfl rfl ((apply_ite State.nextHop _ _ _).trans (if_congr Iff.rfl rfl ?_))))
  change State.nextHop (match t.arch.parent with | some q => _ | none => _) = _
  cases t.arch.parent <;> rfl

theorem exec_sweepTimerExpiry {e : Nat} (htimer : s.arch.timer = some e) : exec .sweepTimerExpiry s = .next (
    if s.now < e then s else ((s.setF F.tmbAlignAligned 0 0).setF F.tmbAlignSweeping 0 0).setArch { s.arch with timer := none }) := by
  rw [exec, execSweepTimerExpiry, htimer]

end sweep

/-- Settles O42: the timebase steps by the parent's correction before the children are aligned, which writes only the sweep's own fields. -/
theorem theTimebaseAligns : Obligations.TheTimebaseAligns := by
  unfold Obligations.TheTimebaseAligns
  intro s hs
  have hregs := State.canon_regs hs
  refine ⟨fun acr hacr => ?ask, ?start, ?probe, ?round, ?last, ?trim, ?retry, ?set, ?done, ?broken, ?expiry, ?early, ?trimProbe⟩
  case ask =>
    have hexec := exec_tmbCtlSweep (s := s) hacr
    refine ⟨fun hst => ?_, fun hst hlead => ?_, fun hst hlead hsw => ?_, fun hst hlead hsw => ?_⟩
    · rw [hexec, if_pos hst]
    · rw [hexec, if_neg (not_not.2 hst), if_pos hlead]
    · rw [hexec, if_neg (not_not.2 hst), if_neg (by simp [hlead]), if_pos hsw]
    · rw [hexec, if_neg (not_not.2 hst), if_neg (by simp [hlead]), if_neg (by simp [hsw])]
  case start =>
    intro p m t0 t h hkids
    refine ⟨_, exec_tbstart_leaf h hkids, ?_, rfl, rfl, (OnlyFields.refl _ t).setF _ _ _ (by decide)⟩
    exact beq_iff_eq.2 (State.getF_setF_same (State.canon_regs (State.canon_takeSb hs h)) F.tmbAlignSweeping 0 1)
  case probe => exact fun p m t2 t h => exec_tbprobe h
  case round => exact fun p m t4 t h t1 htake hhop hport ht1 hr => next_pos (exec_tbreply_hop htake hhop hport ht1 rfl rfl) hr
  case last =>
    exact fun p m t4 t h t1 htake hhop hport ht1 hr =>
      next_neg (exec_tbreply_hop htake hhop hport ht1 rfl rfl) (Nat.not_lt.2 hr)
  case trim => exact fun p m t4 t t1 htake hhop hparent ht1 => exec_tbreply_trim htake hhop hparent ht1
  case retry =>
    intro h t1 hhop ht1
    have hexec := exec_tbprobeRetry hhop ht1
    refine ⟨fun hlt => ?_, fun hge hm => ?_, fun hge hm => ?_⟩
    · rw [hexec, if_pos hlt]
    · rw [hexec, if_neg (Nat.not_lt.2 hge), if_neg (Nat.not_le.2 hm)]
    · rw [hexec, if_neg (Nat.not_lt.2 hge), if_pos hm]
  case set =>
    intro p m t0 t h
    have ht := State.canon_takeSb hs h
    have hread {f : Fld} {v : Nat} (hf : (f, v) ∈ setFieldsOf t m) := State.getF_corrected ht hf
    exact ⟨_, exec_tbset h, hread (by simp [setFieldsOf]) (ofInt_lt 64 _) (by decide), hread (by simp [setFieldsOf]) (Nat.mod_lt _ (by decide)) (by decide),
      beq_iff_eq.2 (hread (f := F.tmbAlignAligned) (by simp [setFieldsOf]) (by decide) (by decide)), hread (by simp [setFieldsOf]) (Nat.mod_lt _ (by decide)) (by decide),
      (t.corrected m).timer_alignChildren⟩
  case done => exact fun p m t0 t h hb => next_pos (exec_tbdone h rfl rfl) hb
  case broken =>
    intro p m t0 t h hb hlead u
    rw [exec_tbdone h rfl rfl, if_neg (by simp [hb]), if_pos hlead]
  case expiry =>
    intro e htimer hle
    refine ⟨_, next_neg (exec_sweepTimerExpiry htimer) (Nat.not_lt.2 hle), ?_, ?_, rfl, ?_, ?_⟩
    · refine beq_eq_false_iff_ne.2 (ne_of_eq_of_ne ?_ (by decide : (0 : Nat) ≠ 1))
      exact ((s.setF F.tmbAlignAligned 0 0).getF_setF_place 0 0 0 (by decide)).trans (State.getF_setF_same hregs F.tmbAlignAligned 0 0)
    · refine beq_eq_false_iff_ne.2 (ne_of_eq_of_ne ?_ (by decide : (0 : Nat) ≠ 1))
      exact State.getF_setF_same (State.rises_setF hregs _ _ _) F.tmbAlignSweeping 0 0
    · exact ((s.setF F.tmbAlignAligned 0 0).getF_setF_place 0 0 0 (by decide)).trans (s.getF_setF_place 0 0 0 (by decide))
    · exact ((s.setF F.tmbAlignAligned 0 0).getF_setF_place 0 0 0 (by decide)).trans (s.getF_setF_place 0 0 0 (by decide))
  case early => exact fun e htimer hlt => next_pos (exec_sweepTimerExpiry htimer) hlt
  case trimProbe =>
    intro p hparent ha hsw
    rw [exec, execRateTrimProbe, hparent]
    exact congrArg Host.Outcome.next (if_pos (by simp [ha, hsw]))

end Sys2Proof.Machine

/-!
PROOFS. Frequency groups (O43).
-/
namespace Sys2Proof.Machine

section groups
variable {s t : State} {p m t0 : Nat}

/-- A group's message goes on along the tree. -/
def State.passOn (t : State) (p m : Nat) : State := (t.treePorts.filter (· != p)).foldl (fun (t : State) p => t.forwardSb p m) t

theorem exec_fgreportTick_member (h : s.inGroup = true) {u : State}
    (hu : u = s.treePorts.foldl (fun (t : State) p => t.sendSb p 0x10 (t.power.allow <<< 32 + t.getF F.pwrFgrpGroup 0 <<< 38)) s) :
    exec .fgreportTick s = .next (u.noteReport (u.getF F.zlkArchDevnum 0) u.power.allow).setGf := by
  subst hu
  rw [exec, execFgreportTick, if_neg (by simp [h])]

theorem exec_fgreportTick_other (h : s.inGroup = false) : exec .fgreportTick s = .next s := by
  rw [exec, execFgreportTick, if_pos (by simp [h])]

theorem exec_fgreport (h : s.takeSb p 0x10 = some (m, t0, t)) {w u : State} (hw : w = t.passOn p m) (hu : u = w.noteReport (bits m 16 16) (bits m 32 6)) :
    exec (.fgreport p) s = .next (
      if w.inGroup = false ∨ bits m 38 8 ≠ w.getF F.pwrFgrpGroup 0 then w
      else (if u.recent.all fun e => decide (bits m 16 16 ≤ e.1) then u.setArch { u.arch with leadAt := u.now } else u).setGf) := by
  subst hu hw
  rw [exec, execFgreport, h]
  exact congrArg Host.Outcome.next (if_congr (by simp [State.passOn]) rfl rfl)

theorem exec_fgswitch (h : s.takeSb p 0x11 = some (m, t0, t)) {w u : State} (hw : w = t.passOn p m)
    (hu : u = (w.setF F.pwrFgrpGlost 0 0).setArch { w.arch with leadAt := w.now }) : exec (.fgswitch p) s = .next (
      if w.inGroup = false ∨ bits m 102 8 ≠ w.getF F.pwrFgrpGroup 0 then w
      else if u.flag F.tmbAlignAligned 0 = true ∧ u.getF F.tmbAlignAlgen 0 = bits m 110 16 then
        u.setArch { u.arch with switches := u.arch.switches ++ [(bits m 32 64, bits m 96 6)] }
      else u.applyGf (bits m 96 6)) := by
  rw [exec, execFgswitch, h]
  dsimp only
  rw [← State.passOn, ← hw]
  subst hu
  exact congrArg Host.Outcome.next (if_congr (by simp) rfl (if_congr (by simp) rfl rfl))

/-- The due switch is one of those whose instant has come. -/
theorem State.dueSwitch_due {e : Nat × Nat} (h : s.dueSwitch = some e) : e.1 ≤ s.now := by
  let l := s.arch.switches.filter fun e => decide (e.1 ≤ s.now)
  have hmem : ∀ e, s.dueSwitch = some e → e ∈ l := by
    refine List.foldlRecOn (motive := fun a => ∀ e, a = some e → e ∈ l) l _ (by simp) fun a ha x hx e he => ?_
    split at he
    · exact Option.some.inj he ▸ hx
    · split at he
      · exact Option.some.inj he ▸ hx
      · exact ha e he
  exact of_decide_eq_true (List.mem_filter.1 (hmem e h)).2

theorem State.regs_applyFreq (s : State) (i f : Nat) : RegsKept [R.pwrIsland] s (s.applyFreq i f) := by
  rw [State.applyFreq]
  have hu (a : Power) : RegsKept [R.pwrIsland] s (s.setPower a) := (RegsKept.refl _ s).of_regs rfl
  exact RegsKept.ite (((hu _).setF _ _ _ (by decide)).setF _ _ _ (by decide)) (hu _)

theorem State.arch_applyFreq (s : State) (i f : Nat) : (s.applyFreq i f).arch = s.arch := by
  rw [State.applyFreq]
  split <;> rfl

theorem State.gf_applyGf (hs : rises s.regs = true) (gf : Nat) : (s.applyGf gf).getF F.pwrFgrpGf 0 = gf % 2 ^ F.pwrFgrpGf.w :=
  ((RegsKept.foldl _ (fun u i => u.regs_applyFreq i _) _ (RegsKept.refl [R.pwrIsland] _)).getF_eq (by decide) 0).trans (State.getF_setF_same hs F.pwrFgrpGf 0 gf)

theorem State.arch_applyGf (s : State) (gf : Nat) : (s.applyGf gf).arch = s.arch :=
  List.foldlRecOn (motive := fun u : State => u.arch = s.arch) _ _ rfl fun u hu i _ => (u.arch_applyFreq i _).trans hu

theorem exec_fgswitchInstant {e : Nat × Nat} (h : s.dueSwitch = some e) : exec .fgswitchInstant s = .next (
    (s.setArch { s.arch with switches := s.arch.switches.erase e }).applyGf e.2) := by
  rw [exec, execFgswitchInstant, h]

theorem exec_glostTimeout : exec .glostTimeout s = .next (
    if s.inGroup = true ∧ s.leadsGroup = false ∧ s.arch.leadAt + 10000000 ≤ s.now then s.setF F.pwrFgrpGlost 0 1 else s) := by
  rw [exec, execGlostTimeout]
  exact congrArg Host.Outcome.next (if_congr (by simp [and_assoc]) rfl rfl)

end groups

/-- Settles O43: each clause is a branch of its command, after the message has gone on along the tree. -/
theorem frequencyGroupsSwitchTogether : Obligations.FrequencyGroupsSwitchTogether := by
  unfold Obligations.FrequencyGroupsSwitchTogether
  intro s hs
  refine ⟨fun h => exec_fgreportTick_member h rfl, exec_fgreportTick_other, fun p m t0 t htake => ?report, fun p m t0 t htake => ?switch, fun e he => ?instant,
    fun hnone => ?none, fun hin hnot hold => ?lost, fun h => ?heard⟩
  case report =>
    intro w
    have hexec := exec_fgreport htake rfl rfl
    refine ⟨fun hother => next_pos hexec hother, fun hin hgroup => next_neg hexec (?_)⟩
    exact not_or.2 ⟨ne_of_eq_of_ne hin (by decide), not_not.2 hgroup⟩
  case switch =>
    intro w hin hgroup u
    have hexec := exec_fgswitch htake rfl rfl
    have hmine : ¬(w.inGroup = false ∨ bits m 102 8 ≠ w.getF F.pwrFgrpGroup 0) := not_or.2 ⟨ne_of_eq_of_ne hin (by decide), not_not.2 hgroup⟩
    have hgo := next_neg hexec hmine
    refine ⟨fun ha hg => next_pos hgo ⟨ha, hg⟩, fun hnot => next_neg hgo (fun hboth => ?_)⟩
    exact hnot.elim ((fun ha => Bool.false_ne_true (ha.symm.trans hboth.1))) fun hg => hg hboth.2
  case instant =>
    have hregs : rises (s.setArch { s.arch with switches := s.arch.switches.erase e }).regs = true := State.canon_regs hs
    refine ⟨_, exec_fgswitchInstant he, State.gf_applyGf hregs e.2, State.dueSwitch_due he, ?_⟩
    rw [State.arch_applyGf]
    rfl
  case none => rw [exec, execFgswitchInstant, hnone]
  case lost => exact next_pos exec_glostTimeout ⟨hin, hnot, hold⟩
  case heard =>
    refine next_neg exec_glostTimeout (?_)
    rintro ⟨hin, hnot, hold⟩
    simp only [hin, hnot, Bool.true_eq_false, Bool.false_eq_true, false_or] at h
    omega

end Sys2Proof.Machine

/-!
PROOFS. The control step of the power controller (O44).
-/
namespace Sys2Proof.Machine

section control
variable {s t : State} {rs : List Reg}

theorem RegsKept.setReason (h : RegsKept rs s t) (n : Nat) (b : Bool) (w : R.pwrThr.idx ∈ rs.map (·.idx)) : RegsKept rs s (t.setReason n b) :=
  h.setF _ _ _ w

theorem State.rises_setReason (hs : rises s.regs = true) (n : Nat) (b : Bool) : rises (s.setReason n b).regs = true := State.rises_setF hs _ _ _

theorem State.rises_applyFreq (hs : rises s.regs = true) (i f : Nat) : rises (s.applyFreq i f).regs = true := by
  rw [State.applyFreq]
  split
  · exact State.rises_setF (State.rises_setF hs _ _ _) _ _ _
  · exact hs

/-- A raise of an island waits for its rail ramp. -/
def State.pendRaise (s : State) (i f : Nat) : State :=
  s.setPower { s.power with raise_ := tset (fun _ => 0) s.power.raise_ i (if s.getF F.pwrIslandFreq i < f then f else 0) }

theorem State.applyFreq_eq (s : State) (i f : Nat) : s.applyFreq i f =
    if f < s.getF F.pwrIslandFreq i then ((s.pendRaise i f).setF F.pwrIslandFreq i f).setF F.pwrIslandVmv i (s.vOf f) else s.pendRaise i f := rfl

/-- No island's clock is raised when an island goes to a frequency, and that island's is then at most it. -/
theorem State.freq_applyFreq (hs : rises s.regs = true) (i f k : Nat) :
    (s.applyFreq i f).getF F.pwrIslandFreq k ≤ s.getF F.pwrIslandFreq k ∧ (k = i → (s.applyFreq i f).getF F.pwrIslandFreq k ≤ f) := by
  rw [State.applyFreq_eq]
  have hu : rises (s.pendRaise i f).regs = true := hs
  split
  next hlt =>
    rw [State.getF_setF_place _ _ _ _ (by decide)]
    by_cases hk : k = i
    · subst hk
      rw [State.getF_setF_same hu]
      have hmod := Nat.mod_le f (2 ^ F.pwrIslandFreq.w)
      exact ⟨Nat.le_trans hmod (Nat.le_of_lt hlt), fun _ => hmod⟩
    · rw [State.getF_setF_inst _ _ _ hk]
      exact ⟨Nat.le_refl _, fun h => absurd h hk⟩
  next hge =>
    refine ⟨Nat.le_refl _, fun h => ?_⟩
    subst h
    exact Nat.not_lt.1 hge

/-- Nor when several islands do. -/
theorem State.freq_applyAll (hs : rises s.regs = true) (f : State → Nat → Nat) (l : List Nat) (k : Nat) :
    rises (l.foldl (fun (t : State) i => t.applyFreq i (f t i)) s).regs = true ∧
      (l.foldl (fun (t : State) i => t.applyFreq i (f t i)) s).getF F.pwrIslandFreq k ≤ s.getF F.pwrIslandFreq k :=
  List.foldlRecOn (motive := fun t : State => rises t.regs = true ∧ t.getF F.pwrIslandFreq k ≤ s.getF F.pwrIslandFreq k) l _ ⟨hs, Nat.le_refl _⟩
    fun _ ht i _ => ⟨State.rises_applyFreq ht.1 _ _, Nat.le_trans (State.freq_applyFreq ht.1 i _ k).1 ht.2⟩

theorem State.regs_learn (s : State) (key : List Byte) (x : Nat) : (s.learn key x).regs = s.regs := rfl

theorem State.regs_limitCurrent (s : State) (i amps : Nat) : (s.limitCurrent i amps).regs = s.regs := by
  rw [State.limitCurrent]
  split
  · rfl
  · split <;> rfl

/-- The control computation sets reasons, and then each island goes to its frequency. -/
theorem State.control_applies (s : State) (harbour : Nat) (leak : List Nat) : ∃ (u : State) (f : Nat → Nat),
    RegsKept [R.pwrThr] s u ∧ (rises s.regs = true → rises u.regs = true) ∧
      s.control harbour leak = (List.range 4).foldl (fun (t : State) i => t.applyFreq i (f i)) u := by
  unfold State.control
  extract_lets cap b dyn go f own _ a r1 r2
  have ha : RegsKept [R.pwrThr] s a := (RegsKept.refl _ s).of_regs rfl
  have h1 : RegsKept [R.pwrThr] s r1 := ((ha.setReason _ _ (by decide)).setReason _ _ (by decide)).setReason _ _ (by decide)
  refine ⟨r2, fun i => f.getD i 8, (h1.setReason _ _ (by decide)).setReason _ _ (by decide), fun hs => ?_, rfl⟩
  have hr1 : rises r1.regs = true := State.rises_setReason (State.rises_setReason (State.rises_setReason (s := a) hs _ _) _ _) _ _
  exact State.rises_setReason (State.rises_setReason hr1 _ _) _ _

/-- What a control step measures, before the control computation. -/
def State.gauged (s : State) (amps : List Nat) (done : List (List Byte × Nat)) (pkgw mj : Nat) : State :=
  let t := done.foldl (fun (t : State) (e : List Byte × Nat) => t.learn e.1 e.2) s
  (List.range 4).foldl (fun (t : State) i => t.limitCurrent i (amps.getD i 0)) ((t.setF F.pwrPowerPkgw 0 pkgw).bump F.pwrPowerEnergy 0 mj)

theorem State.regs_gauged (s : State) (amps : List Nat) (done : List (List Byte × Nat)) (pkgw mj : Nat) :
    (s.gauged amps done pkgw mj).regs = ((s.setF F.pwrPowerPkgw 0 pkgw).bump F.pwrPowerEnergy 0 mj).regs := by
  let t := done.foldl (fun (t : State) (e : List Byte × Nat) => t.learn e.1 e.2) s
  have ht : t.regs = s.regs := List.foldlRecOn (motive := fun t : State => t.regs = s.regs) _ _ rfl fun u hu e _ => (u.regs_learn e.1 e.2).trans hu
  have hset (g : Fld) (i v : Nat) {u w : State} (h : u.regs = w.regs) : (u.setF g i v).regs = (w.setF g i v).regs := congrArg (tset _ · _ _) h
  have hbump : ((t.setF F.pwrPowerPkgw 0 pkgw).bump F.pwrPowerEnergy 0 mj).regs = ((s.setF F.pwrPowerPkgw 0 pkgw).bump F.pwrPowerEnergy 0 mj).regs := by
    rw [State.bump, State.bump, State.getF, hset F.pwrPowerPkgw 0 pkgw ht]
    exact hset _ _ _ (hset _ _ _ ht)
  exact List.foldlRecOn (motive := fun u : State => u.regs = ((s.setF F.pwrPowerPkgw 0 pkgw).bump F.pwrPowerEnergy 0 mj).regs) _ _ hbump
    fun u hu i _ => (u.regs_limitCurrent i _).trans hu

theorem exec_powerControlStep (h : 4 ≤ s.phase) (harbour pkgw mj : Nat) (leak amps : List Nat) (done : List (List Byte × Nat)) :
    exec (.powerControlStep harbour leak amps done pkgw mj) s = .next ((s.gauged amps done pkgw mj).control harbour leak) := by
  rw [exec, execPowerControlStep, if_neg (Nat.not_lt.2 h)]
  rfl

/-- The rail ramp of a raise is complete: the rail and the clock. -/
theorem exec_clockSwitch {i f : Nat} (hf : tget (fun _ => 0) s.power.raise_ i = f) (h : f ≠ 0) : exec (.clockSwitch i) s = .next (
    (s.setPower { s.power with raise_ := tset (fun _ => 0) s.power.raise_ i 0 }).setFields i [(F.pwrIslandVmv, s.vOf f), (F.pwrIslandFreq, f)]) := by
  subst hf
  rw [exec, execClockSwitch]
  exact congrArg Host.Outcome.next (if_neg h)

theorem clockFields_apart : [F.pwrIslandVmv, F.pwrIslandFreq].Pairwise Fld.apart := by
  unfold Fld.apart
  decide

end control

/-- Settles O44: the measurements come first, and the control computation ends in moves of the islands, none of which raises a clock. -/
theorem controlStepsOnlyLowerAtOnce : Obligations.ControlStepsOnlyLowerAtOnce := by
  unfold Obligations.ControlStepsOnlyLowerAtOnce
  intro s harbour pkgw mj leak amps done hs
  have hregs := State.canon_regs hs
  refine ⟨fun hlow => ?low, fun h => ?step, fun i => ⟨fun h0 => ?rests, fun hf => ?switch⟩⟩
  case low =>
    rw [exec, execPowerControlStep, if_pos hlow]
  case step =>
    have hexec := exec_powerControlStep h harbour pkgw mj leak amps done
    obtain ⟨t, hnext, hkept⟩ := exec_kept (.powerControlStep harbour leak amps done pkgw mj) s
    have ht : t = (s.gauged amps done pkgw mj).control harbour leak := Host.Outcome.next.inj (hnext.symm.trans hexec)
    obtain ⟨u, f, hu, hrises, hcontrol⟩ := (s.gauged amps done pkgw mj).control_applies harbour leak
    have hmeas : RegsKept [R.pwrPower] s (s.gauged amps done pkgw mj) :=
      (((RegsKept.refl _ s).setF F.pwrPowerPkgw 0 pkgw (by decide)).setF F.pwrPowerEnergy 0 _ (by decide)).of_regs (s.regs_gauged amps done pkgw mj)
    have hmoved : RegsKept [R.pwrThr, R.pwrIsland] (s.gauged amps done pkgw mj) t := by
      rw [ht, hcontrol]
      exact RegsKept.foldl _ (fun v i => (v.regs_applyFreq i _).mono (by decide)) _ (hu.mono (by decide))
    have hgauged (g : Fld) : (s.gauged amps done pkgw mj).getF g 0 = ((s.setF F.pwrPowerPkgw 0 pkgw).bump F.pwrPowerEnergy 0 mj).getF g 0 := by
      rw [State.getF, s.regs_gauged]
      rfl
    refine ⟨t, hnext, ?_, ?_, fun i => ?_, hkept.only, (hmeas.mono (by decide)).trans (hmoved.mono (by decide))⟩
    · rw [hmoved.getF_eq (by decide), hgauged, State.bump, State.getF_setF_place _ _ _ _ (by decide), State.getF_setF_same hregs]
    · rw [hmoved.getF_eq (by decide), hgauged, State.bump, State.getF_setF_same (State.rises_setF hregs _ _ _), State.getF_setF_place _ _ _ _ (by decide)]
    · have hrg : rises (s.gauged amps done pkgw mj).regs = true := by
        rw [s.regs_gauged]
        exact State.rises_setF (State.rises_setF hregs _ _ _) _ _ _
      have hle := (State.freq_applyAll (hrises hrg) (fun _ => f) (List.range 4) i).2
      rw [ht, hcontrol]
      exact Nat.le_trans hle (Nat.le_of_eq ((hu.getF_eq (by decide) i).trans (hmeas.getF_eq (by decide) i)))
  case rests =>
    rw [exec, execClockSwitch]
    exact congrArg Host.Outcome.next (if_pos h0)
  case switch =>
    let f := tget (fun _ => 0) s.power.raise_ i
    let u := s.setPower { s.power with raise_ := tset (fun _ => 0) s.power.raise_ i 0 }
    have hu : rises u.regs = true := hregs
    have hapart : ([(F.pwrIslandVmv, s.vOf f), (F.pwrIslandFreq, f)].map (·.1)).Pairwise Fld.apart := clockFields_apart
    have hpower : OnlyChanged [.regs, .power] s u := (State.setPower_kept (E := fun c => c ∈ [Comp.regs, .power]) s _ (Kept.refl s) (by decide)).only
    refine ⟨_, exec_clockSwitch rfl hf, State.getF_setFields hu i hapart (by simp [f]), State.getF_setFields hu i hapart (by simp [f]),
      hpower.trans ((u.only_setFields i _).mono (by decide)), ?_⟩
    exact (u.fields_setFields i [(F.pwrIslandVmv, s.vOf f), (F.pwrIslandFreq, f)]).mono (by simp)

end Sys2Proof.Machine

/-!
PROOFS. The reasons that act at once, the slope limit, and PWR_CAP (O45).
-/
namespace Sys2Proof.Machine

/-! ### One bit of a field -/

theorem bit_eq_testBit (v i : Nat) : bit v i = v.testBit i := by
  rw [Nat.testBit_eq_decide_div_mod_eq, bit, bits, Nat.shiftRight_eq_div_pow, Nat.pow_one]

/-- A bit that is taken out of a field and put in anew reads as put in. -/
theorem bit_putBit (r : Nat) {n w : Nat} (b : Bool) (h : n < w) :
    bit ((r - (if bit r n then 2 ^ n else 0) + (if b then 2 ^ n else 0)) % 2 ^ w) n = b := by
  have hpos : 0 < 2 ^ n := Nat.two_pow_pos n
  obtain ⟨q, m, hm, hr⟩ : ∃ q m, m < 2 ^ n ∧ r = 2 ^ n * q + m := ⟨r / 2 ^ n, r % 2 ^ n, Nat.mod_lt r hpos, (Nat.div_add_mod r (2 ^ n)).symm⟩
  have hdiv (k : Nat) : (2 ^ n * k + m) / 2 ^ n = k := by rw [Nat.mul_add_div hpos, Nat.div_eq_of_lt hm, Nat.add_zero]
  have hout : ∃ k, k % 2 = 0 ∧ r - (if bit r n then 2 ^ n else 0) = 2 ^ n * k + m := by
    by_cases hbit : r.testBit n = true
    · have hodd : q % 2 = 1 := by rwa [hr, Nat.testBit_eq_decide_div_mod_eq, hdiv, decide_eq_true_iff] at hbit
      obtain ⟨k, rfl⟩ : ∃ k, q = k + 1 := ⟨q - 1, by omega⟩
      refine ⟨k, by omega, ?_⟩
      rw [bit_eq_testBit, if_pos hbit, hr, Nat.mul_succ]
      omega
    · have heven : q % 2 ≠ 1 := by rwa [hr, Nat.testBit_eq_decide_div_mod_eq, hdiv, decide_eq_true_iff] at hbit
      exact ⟨q, by omega, by rw [bit_eq_testBit, if_neg hbit, Nat.sub_zero, hr]⟩
  obtain ⟨k, heven, hk⟩ := hout
  rw [hk, bit_eq_testBit, Nat.testBit_mod_two_pow, decide_eq_true h, Bool.true_and, Nat.testBit_eq_decide_div_mod_eq]
  cases b with
  | false =>
    rw [if_neg Bool.false_ne_true, Nat.add_zero, hdiv]
    exact decide_eq_false (by omega)
  | true =>
    rw [if_pos rfl, show 2 ^ n * k + m + 2 ^ n = 2 ^ n * (k + 1) + m by rw [Nat.mul_succ]; omega, hdiv]
    exact decide_eq_true (by omega)

section reasons
variable {s t : State}

theorem State.bit_setReason (hs : rises s.regs = true) {n : Nat} (hn : n < 7) (b : Bool) : bit ((s.setReason n b).getF F.pwrThrReason 0) n = b := by
  rw [State.setReason, State.getF_setF_same hs]
  exact bit_putBit _ b hn

theorem State.fields_setReason (s : State) (n : Nat) (b : Bool) : FieldsKept [(F.pwrThrReason, 0)] s (s.setReason n b) :=
  (FieldsKept.refl _ s).setF _ _ _ (by decide)

theorem State.only_setReason (s : State) (n : Nat) (b : Bool) : OnlyChanged [.regs] s (s.setReason n b) :=
  (State.setReason_kept (E := fun c => c ∈ [Comp.regs]) s n b (Kept.refl s) (by decide)).only

/-! ### EXTTHR_N and the current trip (R486) -/

theorem exec_currentTrip {i : Nat} (hi : i < 4) (h : s.power.stretched.contains i = false) : exec (.currentTrip i) s = .next (
    (s.setPower { s.power with stretched := s.power.stretched ++ [i], raise_ := tset (fun _ => 0) s.power.raise_ i 0,
                               currF := s.power.currF.set i (s.getF F.pwrIslandFreq i) }).setReason 2 true) := by
  have hno : ¬(decide (4 ≤ i) || s.power.stretched.contains i) = true := by simpa only [h, Bool.or_false, decide_eq_true_iff, Nat.not_le] using hi
  rw [exec, execCurrentTrip, if_neg hno]

/-- EXTTHR_N is low, and the reason shows whether an island has to slow down. -/
def State.extNoted (s : State) : State :=
  (s.setPins { s.pins with extLow := true }).setReason 6 ((List.range 4).any fun i => decide (s.getF F.pwrCfgExtfreq 0 < s.getF F.pwrIslandFreq i))

theorem exec_extthrNFall : exec .extthrNFall s = .next (
    (List.range 4).foldl (fun (t : State) i => t.applyFreq i (min (s.getF F.pwrCfgExtfreq 0) (t.getF F.pwrIslandFreq i))) s.extNoted) := rfl

/-- Islands that go to a frequency or lower, one after the other, are all at most at it. -/
theorem State.freq_applyBelow (hs : rises s.regs = true) (e : Nat) {n i : Nat} (hi : i < n) :
    ((List.range n).foldl (fun (t : State) i => t.applyFreq i (min e (t.getF F.pwrIslandFreq i))) s).getF F.pwrIslandFreq i ≤ e := by
  induction n with
  | zero => omega
  | succ n ih =>
    rw [List.range_succ, List.foldl_append, List.foldl_cons, List.foldl_nil]
    have hregs := (State.freq_applyAll hs (fun t i => min e (t.getF F.pwrIslandFreq i)) (List.range n) i).1
    obtain ⟨hle, hat⟩ := State.freq_applyFreq hregs n (min e (State.getF _ F.pwrIslandFreq n)) i
    obtain hlt | rfl := Nat.lt_succ_iff_lt_or_eq.1 hi
    · exact Nat.le_trans hle (ih hlt)
    · exact Nat.le_trans (hat rfl) (Nat.min_le_left _ _)

/-! ### The sensors (R486, R487) -/

/-- A reading shows the hottest sensor, and at most lowers the island. -/
theorem State.thermStep_cases (s : State) (i : Nat) (tj : Int) : ∃ p f, p.sensors = s.power.sensors ∧ p.hot = s.power.hot ∧
    (s.thermStep i tj = ((s.setF F.pwrIslandTj i (ofInt 8 tj)).setPower p).applyFreq i f ∨ s.thermStep i tj = (s.setF F.pwrIslandTj i (ofInt 8 tj)).setPower p) := by
  unfold State.thermStep
  extract_lets u f
  split
  · exact ⟨{ s.power with thermF := s.power.thermF.set i f }, _, rfl, rfl, .inl rfl⟩
  · exact ⟨{ s.power with thermF := s.power.thermF.set i 36 }, 0, rfl, rfl, .inr rfl⟩

theorem State.power_applyFreq (s : State) (i f : Nat) : (s.applyFreq i f).power.sensors = s.power.sensors ∧ (s.applyFreq i f).power.hot = s.power.hot := by
  rw [State.applyFreq_eq]
  split <;> exact ⟨rfl, rfl⟩

theorem State.fields_applyFreq (s : State) (i f : Nat) : FieldsKept [(F.pwrIslandFreq, i), (F.pwrIslandVmv, i)] s (s.applyFreq i f) := by
  rw [State.applyFreq_eq]
  have hu : FieldsKept [(F.pwrIslandFreq, i), (F.pwrIslandVmv, i)] s (s.pendRaise i f) := FieldsKept.of_regs rfl
  split
  · exact (hu.setF _ _ _ (by simp)).setF _ _ _ (by simp)
  · exact hu

theorem State.power_thermStep (s : State) (i : Nat) (tj : Int) :
    (s.thermStep i tj).power.sensors = s.power.sensors ∧ (s.thermStep i tj).power.hot = s.power.hot := by
  obtain ⟨p, f, hsensors, hhot, h | h⟩ := s.thermStep_cases i tj
  · obtain ⟨h1, h2⟩ := ((s.setF F.pwrIslandTj i (ofInt 8 tj)).setPower p).power_applyFreq i f
    rw [h]
    exact ⟨h1.trans hsensors, h2.trans hhot⟩
  · rw [h]
    exact ⟨hsensors, hhot⟩

theorem State.getF_thermStep (s : State) (i : Nat) (tj : Int) (k : Nat) :
    (s.thermStep i tj).getF F.pwrIslandTj k = (s.setF F.pwrIslandTj i (ofInt 8 tj)).getF F.pwrIslandTj k := by
  obtain ⟨p, f, -, -, h | h⟩ := s.thermStep_cases i tj
  · rw [h]
    exact (State.fields_applyFreq _ i f).getF_place k (by simp; decide)
  · rw [h]
    rfl

theorem State.regs_thermStep (s : State) (i : Nat) (tj : Int) : RegsKept [R.pwrIsland] s (s.thermStep i tj) := by
  have hset : RegsKept [R.pwrIsland] s (s.setF F.pwrIslandTj i (ofInt 8 tj)) := (RegsKept.refl _ s).setF _ _ _ (by decide)
  obtain ⟨p, f, -, -, h | h⟩ := s.thermStep_cases i tj
  · rw [h]
    exact (hset.of_regs (u := (s.setF F.pwrIslandTj i (ofInt 8 tj)).setPower p) rfl).trans (State.regs_applyFreq _ i f)
  · rw [h]
    exact hset.of_regs rfl

theorem State.canon_thermStep (hs : s.canon = true) (i : Nat) (tj : Int) : (s.thermStep i tj).canon = true :=
  (State.thermStep_kept (E := fun _ => True) s i tj (Kept.refl s) trivial trivial).2 hs

/-- The islands' readings, one after the other. -/
def State.read (s : State) (v : Nat → Int) (n : Nat) : State := (List.range n).foldl (fun (t : State) i => t.thermStep i (v i)) s

theorem State.read_kept (s : State) (v : Nat → Int) (n : Nat) : Kept (fun c => c ∈ [Comp.regs, .power]) s (s.read v n) :=
  kept_foldl _ (fun t i h => State.thermStep_kept t i _ h (by decide) (by decide)) _ (Kept.refl s)

theorem State.regs_read (s : State) (v : Nat → Int) (n : Nat) : RegsKept [R.pwrIsland] s (s.read v n) :=
  RegsKept.foldl _ (fun u i => u.regs_thermStep i _) _ (RegsKept.refl _ s)

theorem State.power_read (s : State) (v : Nat → Int) (n : Nat) : (s.read v n).power.sensors = s.power.sensors ∧ (s.read v n).power.hot = s.power.hot :=
  List.foldlRecOn (motive := fun t : State => t.power.sensors = s.power.sensors ∧ t.power.hot = s.power.hot) _ _ ⟨rfl, rfl⟩ fun t ht i _ =>
    ⟨(t.power_thermStep i _).1.trans ht.1, (t.power_thermStep i _).2.trans ht.2⟩

theorem State.getF_read (hs : s.canon = true) (v : Nat → Int) {n i : Nat} (hi : i < n) : (s.read v n).getF F.pwrIslandTj i = ofInt 8 (v i) := by
  induction n with
  | zero => omega
  | succ n ih =>
    have hstep : s.read v (n + 1) = (s.read v n).thermStep n (v n) := by
      rw [State.read, List.range_succ, List.foldl_append]
      rfl
    rw [hstep, State.getF_thermStep]
    obtain hlt | rfl := Nat.lt_succ_iff_lt_or_eq.1 hi
    · rw [State.getF_setF_inst _ _ _ (Nat.ne_of_lt hlt), ih hlt]
    · rw [State.getF_setF_same (State.canon_regs ((s.read_kept v i).2 hs))]
      exact Nat.mod_eq_of_lt (ofInt_lt 8 _)

/-- THERMTRIP_N is released once every sensor is cool. -/
def State.tripReleased (t : State) (l : List Int) : State :=
  if t.pins.thermtrip && l.all (· < 95) then ({ t with pins := { t.pins with thermtrip := false } } : State).emit (.pin 0 true) else t

/-- What a reading does before it is judged: the sensors are noted, the islands slow down, and the reasons show it. -/
def State.sensed (s : State) (l : List Int) : State :=
  let t := (s.setPower { s.power with sensors := l }).read (fun i => hotOf ((l.drop (16 * i)).take 16)) 4
  (t.setReason 1 ((List.range 4).any fun i => t.thermLim i < 36)).tripReleased l

/-- A fatal record, and power is asked off. -/
def State.stopOff (s : State) (cls n : Nat) : State := (s.fatal cls 7 9 n).requestPower false 3

theorem State.regs_fatal (s : State) (cls kind unit syn : Nat) : RegsKept recordRegs s (s.fatal cls kind unit syn) := by
  rw [State.fatal_eq]
  exact (s.regs_record _).of_regs ((s.record _).fatalStop_frame.only .regs (by decide)).symm

theorem State.regs_stopOff (s : State) (cls n : Nat) : RegsKept (R.hbmPwrstat :: recordRegs) s (s.stopOff cls n) :=
  ((s.regs_fatal cls 7 9 n).mono (by decide)).trans (((s.fatal cls 7 9 n).fields_requestPower false 3).regs (by decide))

theorem State.power_stopOff (s : State) (cls n : Nat) : (s.stopOff cls n).power = s.power := by
  have h : Kept (fun c => c ≠ Comp.power) s (s.stopOff cls n) := by
    refine State.requestPower_kept _ _ _ ?_ (by decide) (by decide)
    apply @State.fatal_kept _ _ s cls 7 9 n (Kept.refl s) <;> decide
  exact (h.1 .power fun k => k rfl).symm

theorem State.running_stopOff (hs : s.canon = true) {cls : Nat} (hf : isFolded cls = false) (n : Nat) : (s.stopOff cls n).running = false := by
  have hstop := (State.stopped_fatal hs hf 7 9 n).running
  rwa [State.running, ← ((s.fatal cls 7 9 n).fields_requestPower false 3).getF_place (f := F.erqStatusState) 0 (by decide)] at hstop

/-- A sensor at 125 °C asserts THERMTRIP_N. -/
def State.tripped (u : State) (l : List Int) : State :=
  match sensorAt l 125 with
  | some n =>
    if u.pins.thermtrip || u.phase = 0 then u
    else ((u.setPins { u.pins with thermtrip := true }).emit (.pin 0 false)).stopOff 0x41 n
  | none => u

/-- A sensor at 115 °C stops the device. -/
def State.heated (t : State) (n : Nat) : State := (t.setPower { t.power with hot := true }).stopOff 0x40 n

theorem State.canon_heated (hs : s.canon = true) (n : Nat) : (s.heated n).canon = true := by
  refine (State.requestPower_kept (E := fun _ => True) (s := (s.setPower { s.power with hot := true }).fatal 0x40 7 9 n) false 3 ?_ trivial trivial).2 hs
  apply @State.fatal_kept _ _ _ 0x40 7 9 n (State.setPower_kept s _ (Kept.refl s) trivial) <;> exact trivial

theorem State.tripped_cases (u : State) (l : List Int) : u.tripped l = u ∨
    ∃ n, u.tripped l = ((u.setPins { u.pins with thermtrip := true }).emit (.pin 0 false)).stopOff 0x41 n := by
  rw [State.tripped]
  split
  next n _ =>
    split
    · exact .inl rfl
    · exact .inr ⟨n, rfl⟩
  next => exact .inl rfl

theorem State.regs_tripped (u : State) (l : List Int) : RegsKept (R.hbmPwrstat :: recordRegs) u (u.tripped l) := by
  obtain h | ⟨n, h⟩ := u.tripped_cases l <;> rw [h]
  · exact RegsKept.refl _ u
  · exact ((RegsKept.refl _ u).of_regs (u := (u.setPins { u.pins with thermtrip := true }).emit (.pin 0 false)) rfl).trans (State.regs_stopOff _ _ n)

theorem State.power_tripped (u : State) (l : List Int) : (u.tripped l).power = u.power := by
  obtain h | ⟨n, h⟩ := u.tripped_cases l <;> rw [h]
  exact State.power_stopOff _ 0x41 n

/-- A device that is stopped and asks for power off stays so. -/
theorem State.stopped_tripped {u : State} (hu : u.canon = true) (hrun : u.running = false) (hwant : u.seqr.want = false) (l : List Int) :
    (u.tripped l).running = false ∧ (u.tripped l).seqr.want = false := by
  obtain h | ⟨n, h⟩ := u.tripped_cases l <;> rw [h]
  · exact ⟨hrun, hwant⟩
  · exact ⟨State.running_stopOff (s := (u.setPins { u.pins with thermtrip := true }).emit (.pin 0 false)) hu (by decide) n, State.want_requestPower _ _ _⟩

theorem exec_sensorRead (readings : List Int) {l : List Int} (hl : l = (readings ++ List.replicate 72 0).take 72) : exec (.sensorRead readings) s = .next (
    match sensorAt l 115 with
    | some n => if (s.sensed l).power.hot || (s.sensed l).phase = 0 then (s.sensed l).tripped l else ((s.sensed l).heated n).tripped l
    | none => (s.sensed l).setPower { (s.sensed l).power with hot := false }) := by
  subst hl
  rw [exec, execSensorRead]
  rfl

theorem State.tripReleased_kept (t : State) (l : List Int) : Kept (fun c => c ∈ [Comp.pins, .out]) t (t.tripReleased l) := by
  rw [State.tripReleased]
  exact kept_ite (State.emit_kept _ _ (State.setPins_kept t { t.pins with thermtrip := false } (Kept.refl t) (by decide)) (by decide)) (Kept.refl t)

theorem State.sensed_kept (s : State) (l : List Int) : Kept (fun c => c ∈ [Comp.regs, .power, .pins, .out]) s (s.sensed l) := by
  have hread : Kept (fun c => c ∈ [Comp.regs, .power, .pins, .out]) s
      ((s.setPower { s.power with sensors := l }).read (fun i => hotOf ((l.drop (16 * i)).take 16)) 4) :=
    kept_foldl _ (fun t i h => State.thermStep_kept t i _ h (by decide) (by decide)) _ (State.setPower_kept s _ (Kept.refl s) (by decide))
  have hnoted (b : Bool) := State.setReason_kept _ 1 b hread (by decide)
  exact kept_ite (State.emit_kept _ _ (State.setPins_kept _ _ (hnoted _) (by decide)) (by decide)) (hnoted _)

/-- What the release of THERMTRIP_N leaves alone. -/
theorem State.sensed_same (s : State) (l : List Int) : ∃ r b, (s.sensed l).regs = (State.setReason r 1 b).regs ∧ (s.sensed l).power = r.power ∧
    r = (s.setPower { s.power with sensors := l }).read (fun i => hotOf ((l.drop (16 * i)).take 16)) 4 := by
  refine ⟨_, _, ((State.tripReleased_kept _ l).only .regs (by decide)).symm, ((State.tripReleased_kept _ l).only .power (by decide)).symm, rfl⟩

theorem State.power_sensed (s : State) (l : List Int) : (s.sensed l).power.sensors = l ∧ (s.sensed l).power.hot = s.power.hot := by
  obtain ⟨r, b, -, hpower, rfl⟩ := s.sensed_same l
  rw [hpower]
  exact State.power_read (s.setPower { s.power with sensors := l }) _ 4

theorem State.regs_sensed (s : State) (l : List Int) : RegsKept [R.pwrIsland, R.pwrThr] s (s.sensed l) := by
  obtain ⟨r, b, hregs, -, rfl⟩ := s.sensed_same l
  have hread := State.regs_read (s.setPower { s.power with sensors := l }) (fun i => hotOf ((l.drop (16 * i)).take 16)) 4
  exact (((RegsKept.refl _ s).of_regs (u := s.setPower { s.power with sensors := l }) rfl).trans
    ((hread.mono (rs' := [R.pwrIsland, R.pwrThr]) (by decide)).setReason 1 b (by decide))).of_regs hregs

theorem State.getF_sensed (hs : s.canon = true) (l : List Int) {i : Nat} (hi : i < 4) :
    (s.sensed l).getF F.pwrIslandTj i = ofInt 8 (hotOf ((l.drop (16 * i)).take 16)) := by
  obtain ⟨r, b, hregs, -, hr⟩ := s.sensed_same l
  have hu : (s.setPower { s.power with sensors := l }).canon = true := (State.setPower_kept (E := fun _ => True) s _ (Kept.refl s) trivial).2 hs
  have hnoted : (s.sensed l).getF F.pwrIslandTj i = (r.setReason 1 b).getF F.pwrIslandTj i := by
    rw [State.getF, hregs]
    rfl
  rw [hnoted, (r.fields_setReason 1 b).getF_place i (by decide), hr]
  exact State.getF_read hu _ hi

end reasons

/-! ### The slope limit (R485) -/

theorem nodup_eraseDups (l : List Nat) : l.eraseDups.Nodup := by
  induction h : l.length using Nat.strong_induction_on generalizing l with
  | _ n ih =>
    cases l with
    | nil => exact List.nodup_nil
    | cons a l =>
      rw [List.eraseDups_cons, List.nodup_cons]
      refine ⟨by simp [List.mem_eraseDups], ih _ ?_ _ rfl⟩
      rw [← h, List.length_cons]
      exact Nat.lt_succ_of_le (List.length_filter_le _ l)

theorem slopeTo_near (a want : Nat) : slopeTo a want ≤ a + slopeStep ∧ a ≤ slopeTo a want + slopeStep := by
  unfold slopeTo
  omega

section slope
variable {s : State}

/-- The work of a µs, by cluster. -/
def workOf (work : List (Nat × Nat)) (cl : Nat) : Nat := ((work.find? fun e => e.1 == cl).map (·.2)).getD 0

/-- A cluster's activity moves towards its work. -/
def State.slope (t : State) (want : Nat → Nat) (cl : Nat) : State := t.setCluster cl { t.cluster cl with act := slopeTo (t.cluster cl).act (want cl) }

theorem State.cluster_slopes (hs : rises s.clusters = true) (want : Nat → Nat) {l : List Nat} (hl : l.Nodup) (k : Nat) :
    (l.foldl (State.slope · want) s).cluster k = s.cluster k ∨
      (l.foldl (State.slope · want) s).cluster k = { s.cluster k with act := slopeTo (s.cluster k).act (want k) } := by
  suffices h : (l.foldl (State.slope · want) s).cluster k = if k ∈ l then { s.cluster k with act := slopeTo (s.cluster k).act (want k) } else s.cluster k by
    rw [h]
    split
    · exact .inr rfl
    · exact .inl rfl
  induction l generalizing s with
  | nil => rfl
  | cons a l ih =>
    obtain ⟨ha, hl⟩ := List.nodup_cons.1 hl
    rw [List.foldl_cons, ih (s := s.slope want a) (rises_tset _ _ hs) hl]
    by_cases hk : k = a
    · subst hk
      rw [if_neg ha, if_pos (List.mem_cons_self), State.slope, State.cluster_setCluster_same hs]
    · rw [State.slope, State.cluster_setCluster_ne _ _ hk]
      exact if_congr (by simp [hk]) rfl rfl

theorem exec_slopeTick (work : List (Nat × Nat)) : ∃ (l : List Nat) (b : Bool), l.Nodup ∧ exec (.slopeTick work) s = .next ((l.foldl (State.slope · (workOf work)) s).setReason 3 b) :=
  ⟨(s.clusters.map (·.1) ++ work.map (·.1)).eraseDups, _, nodup_eraseDups _, rfl⟩

end slope

/-- Settles O45: each command's state is named, and the frames of the steps after it show that what it set still stands. -/
theorem throttlesActAtOnce : Obligations.ThrottlesActAtOnce := by
  unfold Obligations.ThrottlesActAtOnce
  refine ⟨fun s readings hs => ⟨fun i hi h => ?trip, ?low, ?release, ?sensors⟩, fun s work v hs => ⟨?slope, fun acr hacr => ?cap⟩⟩
  case trip =>
    exact ⟨_, exec_currentTrip hi h, rfl, State.bit_setReason (s := s.setPower _) (State.canon_regs hs) (by decide) true,
      (OnlyFields.refl _ s).setF F.pwrThrReason 0 _ (by decide)⟩
  case low =>
    have hregs : rises s.extNoted.regs = true := State.rises_setReason (s := s.setPins _) (State.canon_regs hs) _ _
    obtain ⟨t, hnext, hkept⟩ := exec_kept .extthrNFall s
    have ht := Host.Outcome.next.inj (hnext.symm.trans exec_extthrNFall)
    refine ⟨t, hnext, ?_, fun i hi => ?_, hkept.only, ?_⟩
    · rw [ht]
      exact congrArg Pins.extLow ((kept_foldl (E := fun c => c ∈ [Comp.regs, .power]) _
        (fun t i h => State.applyFreq_kept t i _ h (by decide) (by decide)) _ (Kept.refl s.extNoted)).only .pins (by decide)).symm
    · rw [ht]
      exact State.freq_applyBelow hregs _ hi
    · rw [ht]
      have hnoted : RegsKept [R.pwrThr, R.pwrIsland] s s.extNoted :=
        ((RegsKept.refl _ s).of_regs (u := s.setPins { s.pins with extLow := true }) rfl).setReason _ _ (by decide)
      exact RegsKept.foldl _ (fun v i => (v.regs_applyFreq i _).mono (by decide)) _ hnoted
  case release =>
    let u := s.setPins { s.pins with extLow := false }
    have hu : OnlyChanged [.regs, .pins] s u := (OnlyChanged.refl _ s).setPins _ (by decide)
    exact ⟨u.setReason 6 false, rfl, rfl, State.bit_setReason (s := u) (State.canon_regs hs) (by decide) false,
      hu.trans ((u.only_setReason 6 false).mono (by decide)), (FieldsKept.of_regs (t := u) rfl).trans (u.fields_setReason 6 false)⟩
  case sensors =>
    intro l
    have hexec := exec_sensorRead (s := s) readings (l := l) rfl
    obtain ⟨hsensors, hhot⟩ := s.power_sensed l
    have hphase : (s.sensed l).phase = s.phase := (s.regs_sensed l).getF_eq (f := F.hbmPwrstatPhase) (by decide) 0
    cases hat : sensorAt l 115 with
    | none =>
      rw [hat] at hexec
      refine ⟨_, hexec, hsensors, fun i hi => State.getF_sensed hs l hi, fun _ => ⟨rfl, ?_, ((s.sensed_kept l).only .seqr (by decide)).symm⟩,
        fun h => absurd rfl h⟩
      exact congrArg (· != 2) ((s.regs_sensed l).getF_eq (f := F.erqStatusState) (by decide) 0)
    | some n =>
      rw [hat] at hexec
      by_cases hquiet : ((s.sensed l).power.hot || decide ((s.sensed l).phase = 0)) = true
      · have hgo := next_pos hexec hquiet
        refine ⟨_, hgo, ?_, fun i hi => ?_, fun h => absurd h (Option.some_ne_none n), fun _ hcold hup => ?_⟩
        · rw [State.power_tripped, hsensors]
        · exact ((State.regs_tripped _ l).getF_eq (by decide) i).trans (State.getF_sensed hs l hi)
        · rw [hhot, hcold, hphase, decide_eq_false hup] at hquiet
          exact absurd hquiet Bool.false_ne_true
      · have hgo := next_neg hexec hquiet
        have hcanon := (s.sensed_kept l).2 hs
        have hpower : ((s.sensed l).heated n).power = { (s.sensed l).power with hot := true } := State.power_stopOff _ 0x40 n
        have hpre : ((s.sensed l).setPower { (s.sensed l).power with hot := true }).canon = true :=
          (State.setPower_kept (E := fun _ => True) (s.sensed l) _ (Kept.refl _) trivial).2 hcanon
        refine ⟨_, hgo, ?_, fun i hi => ?_, fun h => absurd h (Option.some_ne_none n), fun _ hcold hup => ⟨?_, ?_⟩⟩
        · rw [State.power_tripped, hpower]
          exact hsensors
        · refine ((State.regs_tripped _ l).getF_eq (by decide) i).trans (((State.regs_stopOff _ 0x40 n).getF_eq (by decide) i).trans ?_)
          exact State.getF_sensed hs l hi
        · rw [State.power_tripped, hpower]
        · exact State.stopped_tripped (State.canon_heated hcanon n) (State.running_stopOff hpre (by decide) n) (State.want_requestPower _ _ _) l
  case slope =>
    obtain ⟨l, b, hl, hexec⟩ := exec_slopeTick (s := s) work
    obtain ⟨t, hnext, hkept⟩ := exec_kept (.slopeTick work) s
    have ht := Host.Outcome.next.inj (hnext.symm.trans hexec)
    refine ⟨t, hnext, hkept.only, ?_, fun k => ?_⟩
    · rw [ht]
      have hfold : (l.foldl (State.slope · (workOf work)) s).regs = s.regs :=
        List.foldlRecOn (motive := fun t : State => t.regs = s.regs) _ _ rfl fun u hu _ _ => hu
      exact (FieldsKept.of_regs hfold).trans (State.fields_setReason _ 3 b)
    · have hk : t.cluster k = (l.foldl (State.slope · (workOf work)) s).cluster k := by
        rw [ht]
        rfl
      obtain h | h := State.cluster_slopes (State.canon_clusters hs) (workOf work) hl k <;> rw [hk, h]
      · exact ⟨rfl, Nat.le_add_right _ _, Nat.le_add_right _ _⟩
      · exact ⟨rfl, slopeTo_near _ _⟩
  case cap => rw [exec, execPwrCap, State.forDevice_of_mem hacr]

end Sys2Proof.Machine

/-!
PROOFS. Streams open, are disabled, and close; their doorbells (O46).
-/
namespace Sys2Proof.Machine

theorem State.canon_streams {s : State} (h : s.canon = true) : rises s.streams = true := by
  obtain ⟨-, -, -, -, -, -, -, -, -, -, hstreams, -⟩ := State.canon_iff.1 h
  exact hstreams

section streams
variable {s : State} {acr : Acr} {set v fn n : Nat}

theorem OnlyChanged.stream_eq {m : List Comp} {t : State} (h : OnlyChanged m s t) (w : Comp.streams ∉ m) (k : Nat) : t.stream k = s.stream k := by
  rw [State.stream, State.stream, ← h .streams w]

/-! ### The outcome of an operation -/

theorem State.cdcCmd_idle (hset : fnSet acr set = fn) (hfn : fn < 64) (hbusy : s.flag F.cdcScmdstatBusy fn = false) (k : Nat → State) :
    s.cdcCmd acr set k = k fn := by
  subst hset
  rw [State.cdcCmd, hbusy]
  exact if_neg (by omega)

/-- What CDC_SCMDSTAT shows of an operation. -/
def cdcOpFields (n st : Nat) : List (Fld × Nat) := [(F.cdcScmdstatStatus, st), (F.cdcScmdstatStream, n)]

theorem cdcOpFields_apart (n st : Nat) : ((cdcOpFields n st).map (·.1)).Pairwise Fld.apart := by
  have h : [F.cdcScmdstatStatus, F.cdcScmdstatStream].Pairwise Fld.apart := by
    unfold Fld.apart
    decide
  exact h

theorem State.cdcOp_eq (s : State) (fn n st : Nat) : s.cdcOp fn n st = s.setFields fn (cdcOpFields n st) := rfl

theorem State.getF_cdcOp (hs : rises s.regs = true) {n st : Nat} {f : Fld} {x : Nat} (hf : (f, x) ∈ cdcOpFields n st) :
    (s.cdcOp fn n st).getF f fn = x % 2 ^ f.w := State.getF_setFields hs fn (cdcOpFields_apart n st) hf

theorem State.only_cdcOp (s : State) (fn n st : Nat) : OnlyChanged [.regs] s (s.cdcOp fn n st) := s.only_setFields fn (cdcOpFields n st)

theorem State.regs_cdcOp (s : State) (fn n st : Nat) : RegsKept [R.cdcScmdstat] s (s.cdcOp fn n st) :=
  ((RegsKept.refl _ s).setF F.cdcScmdstatStatus _ _ (by decide)).setF F.cdcScmdstatStream _ _ (by decide)

/-! ### Opening (R440) -/

/-- The state in which the descriptor of an open has been read. -/
def State.descRead (s : State) (fn v : Nat) : State := if s.owned (s.fnPart fn) (bits v 0 48) 64 then s.readWords (wordsOf (bits v 0 48) 64) else s

theorem exec_streamOpen (hset : fnSet acr set = fn) (hfn : fn < 64) (hbusy : s.flag F.cdcScmdstatBusy fn = false) (h2 : opOf v ≠ 2) (h3 : opOf v ≠ 3) :
    exec (.streamOpen acr set v) s = .next (
      if s.openStatus fn v = 0 then ((s.descRead fn v).openStream fn (s.freeStream.getD 0) (s.bytesAt (bits v 0 48) 64)).cdcOp fn (s.freeStream.getD 0) 0
      else (s.descRead fn v).cdcOp fn (s.getF F.cdcScmdstatStream fn) (s.openStatus fn v)) := by
  rw [exec, execStreamOpen, if_neg (by simp [h2, h3]), State.cdcCmd_idle hset hfn hbusy]
  rfl

theorem State.descRead_kept (s : State) (fn v : Nat) : Kept (fun c => c ∈ memoryComps) s (s.descRead fn v) := by
  rw [State.descRead]
  split
  · exact ⟨s.only_readWords _, fun h => State.readWords_canon h _⟩
  · exact Kept.refl s

theorem State.regs_descRead (s : State) (fn v : Nat) : RegsKept memoryRegs s (s.descRead fn v) := RegsKept.ite (s.regs_readWords _) (RegsKept.refl _ s)

theorem State.byteAt_descRead (hs : s.canon = true) (fn v a : Nat) : (s.descRead fn v).byteAt a = s.byteAt a := by
  rw [State.descRead]
  split
  · exact State.byteAt_readWords hs _ a
  · rfl

/-- What CDC_SSTAT shows of a stream that opens. -/
def openFields (fn p e : Nat) : List (Fld × Nat) :=
  [(F.cdcSstatCtail, 0), (F.cdcSstatFhead, 0), (F.cdcSstatRefmarks, 0), (F.cdcSstatSerr, 0), (F.cdcSstatState, 1), (F.cdcSstatEngine, e), (F.cdcSstatPart, p),
    (F.cdcSstatOwner, fn)]

theorem openFields_apart (fn p e : Nat) : ((openFields fn p e).map (·.1)).Pairwise Fld.apart := by
  have h : [F.cdcSstatCtail, F.cdcSstatFhead, F.cdcSstatRefmarks, F.cdcSstatSerr, F.cdcSstatState, F.cdcSstatEngine, F.cdcSstatPart,
      F.cdcSstatOwner].Pairwise Fld.apart := by
    unfold Fld.apart
    decide
  exact h

theorem State.openStream_eq (s : State) (fn n : Nat) (d : List Byte) :
    s.openStream fn n d = (s.setStream n (streamOf d)).setFields n (openFields fn (s.fnPart fn) (streamOf d).engine) := rfl

theorem State.getF_openStream (hs : rises s.regs = true) {d : List Byte} {f : Fld} {x : Nat} (hf : (f, x) ∈ openFields fn (s.fnPart fn) (streamOf d).engine) :
    (s.openStream fn n d).getF f n = x % 2 ^ f.w := by
  rw [s.openStream_eq]
  exact State.getF_setFields (s := s.setStream n (streamOf d)) hs n (openFields_apart _ _ _) hf

theorem State.rises_openStream (hs : s.canon = true) (fn n : Nat) (d : List Byte) : rises (s.openStream fn n d).regs = true :=
  State.canon_regs ((State.openStream_kept (E := fun _ => True) s fn n d (Kept.refl s) trivial trivial).2 hs)

theorem State.only_openStream (s : State) (fn n : Nat) (d : List Byte) : OnlyChanged [.regs, .streams] s (s.openStream fn n d) :=
  (State.openStream_kept (E := fun c => c ∈ [Comp.regs, .streams]) s fn n d (Kept.refl s) (by decide) (by decide)).only

theorem State.stream_openStream (s : State) (fn n : Nat) (d : List Byte) (k : Nat) : (s.openStream fn n d).stream k = (s.setStream n (streamOf d)).stream k := by
  rw [s.openStream_eq]
  exact (State.only_setFields _ n _).stream_eq (by decide) k

/-! ### Disabling and closing (R455) -/

theorem exec_streamDisable (hset : fnSet acr set = fn) (hfn : fn < 64) (hbusy : s.flag F.cdcScmdstatBusy fn = false) (hop : opOf v = 3) (hr : bits v 56 4 = 0) :
    exec (.streamDisable acr set v) s = .next (
      if s.streamState (bits v 48 8) = 1 ∧ (fn = 0 ∨ s.ownsStream fn (bits v 48 8) = true) then (s.disableStream (bits v 48 8)).cdcOp fn (bits v 48 8) 0
      else s.cdcOp fn (bits v 48 8) 0xB4) := by
  rw [exec, execStreamDisable, if_neg (by simp [hop]), State.cdcCmd_idle hset hfn hbusy, hr, if_neg (by decide), ← ite_not]
  exact congrArg Host.Outcome.next (if_congr (by simp [or_iff_not_imp_left]) rfl rfl)

theorem exec_streamClose (hset : fnSet acr set = fn) (hfn : fn < 64) (hbusy : s.flag F.cdcScmdstatBusy fn = false) (hop : opOf v = 2) (hr : bits v 56 4 = 0) :
    exec (.streamClose acr set v) s = .next (
      if s.streamDone (bits v 48 8) = true ∧ (fn = 0 ∨ s.ownsStream fn (bits v 48 8) = true) then (s.freeTheStream (bits v 48 8)).cdcOp fn (bits v 48 8) 0
      else s.cdcOp fn (bits v 48 8) 0xB4) := by
  rw [exec, execStreamClose, if_neg (by simp [hop]), State.cdcCmd_idle hset hfn hbusy, hr, if_neg (by decide), ← ite_not]
  exact congrArg Host.Outcome.next (if_congr (by simp [or_iff_not_imp_left]) rfl rfl)

/-- A stream that has no frame in work only becomes DISABLED; it closes by itself no sooner than its function is reset. -/
theorem State.disableStream_idle (hs : s.canon = true) (hst : s.streamState n = 1) (hframe : (s.stream n).frame = none) (hc : (s.stream n).closing = false) :
    s.disableStream n = (s.setF F.cdcSstatState n 2).setStream n { s.stream n with written := (s.stream n).fTail } := by
  have hstreams : rises s.streams = true := State.canon_streams hs
  have hset : rises (s.setF F.cdcSstatState n 2).streams = true := hstreams
  rw [State.disableStream, if_neg (by simp [hst])]
  dsimp only
  rw [hframe]
  refine if_neg ?_
  rw [State.stream_setStream_same hset, hc]
  exact Bool.false_ne_true

/-- The engines that worked on a stream are free. -/
def State.freeEngines (s : State) (n : Nat) : State :=
  s.engines.foldl (fun t e => if e.2.cur = some n then { t with engines := tset (fun _ => Engine.fresh) t.engines e.1 { e.2 with cur := none } } else t) s

theorem State.only_freeEngines (s : State) (n : Nat) : OnlyChanged [.engines] s (s.freeEngines n) :=
  List.foldlRecOn (motive := fun t => OnlyChanged [.engines] s t) _ _ (OnlyChanged.refl _ s) fun t ht e _ => by
    split
    · refine ht.trans fun c h => ?_
      cases c with
      | engines => exact absurd (List.mem_singleton.2 rfl) h
      | _ => rfl
    · exact ht

theorem State.freeTheStream_eq (s : State) (n : Nat) :
    s.freeTheStream n = (((s.freeEngines n).setF F.cdcSstatState n 0).putStream n Stream.free).restServed (s.stream n).engine := rfl

theorem State.only_restServed (s : State) (e : Nat) : OnlyChanged [.engines] s (s.restServed e) :=
  (State.restServed_kept (E := fun c => c ∈ [Comp.engines]) s e (Kept.refl s) (by decide)).only

theorem State.stream_putStream (s : State) (n : Nat) (v : Stream) (k : Nat) : (s.putStream n v).stream k = (s.setStream n v).stream k := rfl

theorem State.stream_freeTheStream (hs : s.canon = true) (n k : Nat) : (s.freeTheStream n).stream k = if k = n then Stream.free else s.stream k := by
  rw [s.freeTheStream_eq, (State.only_restServed _ _).stream_eq (by decide), State.stream_putStream]
  have hkeep : (s.freeEngines n).streams = s.streams := ((s.only_freeEngines n) .streams (by decide)).symm
  split
  next h =>
    subst h
    refine State.stream_setStream_same (s := (s.freeEngines k).setF F.cdcSstatState k 0) ?_ k Stream.free
    exact (congrArg rises hkeep).trans (State.canon_streams hs)
  next h =>
    rw [State.stream_setStream_ne _ _ h]
    exact (s.only_freeEngines n).stream_eq (by decide) k

theorem State.state_freeTheStream (hs : s.canon = true) (n : Nat) : (s.freeTheStream n).streamState n = 0 := by
  have hregs : rises (s.freeEngines n).regs = true := (congrArg rises ((s.only_freeEngines n) .regs (by decide)).symm).trans (State.canon_regs hs)
  have hrest : (s.freeTheStream n).regs = (((s.freeEngines n).setF F.cdcSstatState n 0).putStream n Stream.free).regs :=
    ((State.only_restServed _ _) .regs (by decide)).symm
  rw [State.streamState, State.getF, hrest]
  exact (State.getF_setF_place (((s.freeEngines n).setF F.cdcSstatState n 0).setStream n Stream.free) n n _ (by decide)).trans
    (State.getF_setF_same hregs F.cdcSstatState n 0)

theorem State.freeTheStream_frame (s : State) (n : Nat) : Kept (fun c => c ∈ [Comp.regs, .streams, .engines]) s (s.freeTheStream n) :=
  State.freeTheStream_kept s n (Kept.refl s) (by decide) (by decide) (by decide)

theorem exec_engdis {e : Nat} (he : e < 8) (hacr : acr ∈ [Acr.fn 0, .mb]) : exec (.engdis acr e v) s = .next (
    if bit v 0 then ((s.setF F.cdcEctlEngdis e (bits v 0 1)).streamsBy fun _ u => u.engine == e).foldl State.disableStream (s.setF F.cdcEctlEngdis e (bits v 0 1))
    else s.setF F.cdcEctlEngdis e (bits v 0 1)) := by
  rw [exec, execEngdis, State.forDevice_of_mem hacr, if_neg (Nat.not_le.2 he)]

/-! ### Doorbells (R442) -/

theorem exec_streamDoorbell_notOwned (hv : bits v 32 32 = 0) (ho : s.ownsStream fn n = false) {i : Instr} (hi : i ∈ [Instr.cdcFdb fn n v, .cdcCdb fn n v]) :
    exec i s = .next (s.raiseEvt fn F.pciEvtcauseAccerr) := by
  simp only [List.mem_cons, List.not_mem_nil, or_false] at hi
  obtain rfl | rfl := hi
  · rw [exec, execCdcFdb, hv, ho]
    rfl
  · rw [exec, execCdcCdb, hv, ho]
    rfl

theorem exec_cdcFdb (hv : bits v 32 32 = 0) (ho : s.ownsStream fn n = true) : exec (.cdcFdb fn n v) s = .next (
    if 2 ^ (s.stream n).frLog2 < (lo32 v + 2 ^ 32 - s.getF F.cdcSstatFhead n) % 2 ^ 32 then s.setF F.cdcSstatSerr n 1
    else s.setStream n { s.stream n with fTail := lo32 v }) := by
  rw [exec, execCdcFdb, if_neg (by simp [hv]), if_neg (by simp [ho])]
  rfl

theorem exec_cdcCdb (hv : bits v 32 32 = 0) (ho : s.ownsStream fn n = true) : exec (.cdcCdb fn n v) s = .next (
    if (s.getF F.cdcSstatCtail n + 2 ^ 32 - (s.stream n).cHead) % 2 ^ 32 < (lo32 v + 2 ^ 32 - (s.stream n).cHead) % 2 ^ 32 then s.setF F.cdcSstatSerr n 1
    else s.setStream n { s.stream n with cHead := lo32 v }) := by
  rw [exec, execCdcCdb, if_neg (by simp [hv]), if_neg (by simp [ho])]
  rfl

end streams

/-- Settles O46: each command's branches are equations, and the fields, the stream and the frame of what it leaves are read off. -/
theorem streamsOpenAndClose : Obligations.StreamsOpenAndClose := by
  unfold Obligations.StreamsOpenAndClose
  refine ⟨fun s acr set v fn hs hset hfn hbusy h2 h3 => ⟨?opens, ?refused⟩, fun s acr set v fn hs hset hfn hbusy => ⟨?disable, ?notDisabled, ?idle, ?close, ?notClosed, ?engine⟩,
    fun s fn n v hs hv => ⟨?foreign, ?own⟩⟩
  case opens =>
    intro n hst hfree
    let d := s.bytesAt (bits v 0 48) 64
    let r := s.descRead fn v
    let u := r.openStream fn n d
    have hexec := next_pos (exec_streamOpen hset hfn hbusy h2 h3) hst
    rw [hfree, Option.getD_some] at hexec
    have hr : r.canon = true := (s.descRead_kept fn v).2 hs
    have hurises : rises u.regs = true := State.rises_openStream hr fn n d
    have hread {f : Fld} {x : Nat} (hf : (f, x) ∈ openFields fn (r.fnPart fn) (streamOf d).engine) (hw : f.key 0 / 128 % 256 ∉ [R.cdcScmdstat].map (·.idx)) :
        (u.cdcOp fn n 0).getF f n = x % 2 ^ f.w :=
      ((u.regs_cdcOp fn n 0).getF_eq hw n).trans (State.getF_openStream (State.canon_regs hr) hf)
    have hstream (k : Nat) : (u.cdcOp fn n 0).stream k = (r.setStream n (streamOf d)).stream k :=
      ((u.only_cdcOp fn n 0).stream_eq (by decide) k).trans (r.stream_openStream fn n d k)
    refine ⟨_, hexec, hread (f := F.cdcSstatState) (x := 1) (by simp [openFields]) (by decide), ?_, hread (by simp [openFields, d]) (by decide), ?_,
      hread (f := F.cdcSstatFhead) (x := 0) (by simp [openFields]) (by decide), hread (f := F.cdcSstatCtail) (x := 0) (by simp [openFields]) (by decide),
      hread (f := F.cdcSstatRefmarks) (x := 0) (by simp [openFields]) (by decide), State.getF_cdcOp hurises (f := F.cdcScmdstatStatus) (x := 0) (by simp [cdcOpFields]),
      State.getF_cdcOp hurises (by simp [cdcOpFields]), fun k hk => ?_, fun a => ?_⟩
    · exact (hstream n).trans (State.stream_setStream_same (State.canon_streams hr) n _)
    · exact (hread (f := F.cdcSstatOwner) (x := fn) (by simp [openFields]) (by decide)).trans (Nat.mod_eq_of_lt hfn)
    · exact (hstream k).trans ((r.stream_setStream_ne _ hk).trans ((s.descRead_kept fn v).only.stream_eq (by decide) k))
    · have hframe : OnlyChanged [.regs, .streams] r (u.cdcOp fn n 0) := (r.only_openStream fn n d).trans ((u.only_cdcOp fn n 0).mono (by decide))
      exact (hframe.byteAt_eq (by decide) (by decide) a).trans (State.byteAt_descRead hs fn v a)
  case refused =>
    intro hst
    let r := s.descRead fn v
    have hr : r.canon = true := (s.descRead_kept fn v).2 hs
    have hop := r.only_cdcOp fn (s.getF F.cdcScmdstatStream fn) (s.openStatus fn v)
    refine ⟨_, next_neg (exec_streamOpen hset hfn hbusy h2 h3) hst,
      State.getF_cdcOp (State.canon_regs hr) (by simp [cdcOpFields]), fun k => ⟨?_, ?_⟩, fun a => ?_⟩
    · exact (hop.stream_eq (by decide) k).trans ((s.descRead_kept fn v).only.stream_eq (by decide) k)
    · exact ((r.regs_cdcOp fn _ _).getF_eq (by decide) k).trans ((s.regs_descRead fn v).getF_eq (by decide) k)
    · exact (hop.byteAt_eq (by decide) (by decide) a).trans (State.byteAt_descRead hs fn v a)
  case disable =>
    intro hop hr hst hmay
    exact next_pos (exec_streamDisable hset hfn hbusy hop hr) ⟨hst, hmay⟩
  case notDisabled =>
    intro hop hr hno
    exact next_neg (exec_streamDisable hset hfn hbusy hop hr) (fun h => hno.elim (· h.1) (· h.2))
  case idle => exact State.disableStream_idle hs
  case close =>
    intro hop hr hdone hmay
    let n := bits v 48 8
    let u := s.freeTheStream n
    have hu := s.freeTheStream_frame n
    have honly := u.only_cdcOp fn n 0
    refine ⟨_, next_pos (exec_streamClose hset hfn hbusy hop hr) ⟨hdone, hmay⟩, ?_, ?_, fun k hk => ?_, ?_,
      hu.only.trans (honly.mono (by decide))⟩
    · exact ((u.regs_cdcOp fn n 0).getF_eq (by decide) n).trans (State.state_freeTheStream hs n)
    · exact (honly.stream_eq (by decide) n).trans ((State.stream_freeTheStream hs n n).trans (if_pos rfl))
    · exact (honly.stream_eq (by decide) k).trans ((State.stream_freeTheStream hs n k).trans (if_neg hk))
    · exact State.getF_cdcOp (State.canon_regs (hu.2 hs)) (f := F.cdcScmdstatStatus) (x := 0) (by simp [cdcOpFields])
  case notClosed =>
    intro hop hr hno
    refine next_neg (exec_streamClose hset hfn hbusy hop hr) (fun h => ?_)
    exact hno.elim (fun hf => Bool.false_ne_true (hf.symm.trans h.1)) (· h.2)
  case engine =>
    intro e he a ha
    have hexec := exec_engdis (s := s) (v := v) he ha
    exact ⟨fun h0 => next_neg hexec (by simp [h0]), fun h1 => next_pos hexec h1⟩
  case foreign => exact fun ho i hi => exec_streamDoorbell_notOwned hv ho hi
  case own =>
    intro ho
    have hf := exec_cdcFdb hv ho
    have hc := exec_cdcCdb hv ho
    exact ⟨fun h => next_neg hf (Nat.not_lt.2 h), fun h => next_pos hf (Nat.not_le.1 h),
      fun h => next_neg hc (Nat.not_lt.2 h), fun h => next_pos hc (Nat.not_le.1 h)⟩

end Sys2Proof.Machine

/-!
PROOFS. Frames are fetched, started, coded, and recorded (O47).
-/
namespace Sys2Proof.Machine

section frames
variable {s : State} {n e : Nat}

/-! ### Fetching (R442, R443) -/

/-- The state with a frame from a ring in host memory taken from its place. -/
def State.taken (s : State) (n : Nat) (f : Frame) : State :=
  (s.setF F.cdcSstatFhead n (s.getF F.cdcSstatFhead n + 1)).setStream n { s.stream n with frame := some f }

/-- The stream once a frame is accepted: a decode frame releases the pictures that it names. -/
def Stream.accepted (v : Stream) (f : Frame) : Stream := if v.encodes then { v with frame := some f } else { v.release (f.g 24 4) with frame := some f }

theorem exec_frameFetch_host {tail : Nat} {bytes : List Byte} (hrun : s.running = true) (hhost : bit ((s.stream n).g 39 1) 0 = false)
    (hframe : (s.stream n).frame = none) (hst : s.streamState n ≠ 0) (htail : (if s.streamState n = 2 then (s.stream n).written else (s.stream n).fTail) = tail)
    (hne : tail ≠ s.getF F.cdcSstatFhead n) {f : Frame} (hf : f = newFrame ((bytes ++ leBytes 64 0).take 64) (s.getF F.cdcSstatFhead n)) :
    exec (.frameFetch n bytes) s = .next (
      if s.streamState n = 2 then (s.taken n f).endFrame n f 0xB1 0 []
      else if (s.taken n f).frameStatus (s.getF F.cdcSstatPart n) (s.stream n) f ≠ 0 then
        (s.taken n f).endFrame n f ((s.taken n f).frameStatus (s.getF F.cdcSstatPart n) (s.stream n) f) 0 []
      else ((s.taken n f).putStream n ((s.stream n).accepted f)).latchWaits) := by
  subst hf
  have hgo : ¬(s.streamState n = 0 || !s.running || (s.stream n).frame.isSome || tail = s.getF F.cdcSstatFhead n) = true := by simp [hst, hrun, hframe, hne]
  rw [exec, execFrameFetch]
  dsimp only
  rw [htail, if_neg (by simpa only [Bool.or_eq_true, decide_eq_true_iff] using hgo), hhost]
  refine congrArg Host.Outcome.next (if_congr Iff.rfl rfl ?_)
  rw [Bool.false_and, if_neg Bool.false_ne_true]
  exact if_congr bne_iff_ne rfl rfl

/-- A map that leaves what an absent entry reads as alone maps what every entry reads as. -/
theorem tget_map {α : Type} (d : Nat → α) (g : α → α) (hg : ∀ k, g (d k) = d k) (t : Tab α) (k : Nat) : tget d (t.map fun e => (e.1, g e.2)) k = g (tget d t k) := by
  induction t with
  | nil => exact (hg k).symm
  | cons a t ih =>
    rw [List.map_cons, tget, tget, ih]
    exact (apply_ite g _ _ _).symm

theorem State.stream_latchWaits (s : State) (n : Nat) :
    s.latchWaits.stream n = { s.stream n with frame := (s.stream n).frame.map s.latchFrame } :=
  tget_map _ (fun v : Stream => { v with frame := v.frame.map s.latchFrame }) (fun _ => rfl) s.streams n

theorem Stream.frame_accepted (v : Stream) (f : Frame) : (v.accepted f).frame = some f := by
  rw [Stream.accepted]
  split <;> rfl

theorem State.only_putStream (s : State) (n : Nat) (v : Stream) : OnlyChanged [.regs, .streams] s (s.putStream n v) :=
  (State.putStream_kept (E := fun c => c ∈ [Comp.regs, .streams]) s n v (Kept.refl s) (by decide) (by decide)).only

theorem State.only_taken (s : State) (n : Nat) (f : Frame) : OnlyChanged [.regs, .streams] s (s.taken n f) :=
  (State.setStream_kept (E := fun c => c ∈ [Comp.regs, .streams]) (s.setF F.cdcSstatFhead n _) n _
    (State.setF_kept _ _ _ _ (Kept.refl s) (by decide)) (by decide)).only

/-- An accepted frame stands in its stream, and only its wait may be latched. -/
theorem State.accept_frame (hs : s.canon = true) (n : Nat) (f : Frame) :
    ∃ sat, (((s.taken n f).putStream n ((s.stream n).accepted f)).latchWaits.stream n).frame = some { f with sat := sat } := by
  let u := (s.taken n f).putStream n ((s.stream n).accepted f)
  have hrises : rises s.streams = true := State.canon_streams hs
  have hstreams : rises (s.taken n f).streams = true := rises_tset (d := fun _ => Stream.free) _ _ hrises
  have hu : u.stream n = (s.stream n).accepted f := State.stream_setStream_same hstreams n _
  refine ⟨(u.latchFrame f).sat, ?_⟩
  rw [State.stream_latchWaits]
  exact (congrArg (Option.map u.latchFrame) ((congrArg Stream.frame hu).trans (Stream.frame_accepted _ f)))

theorem State.fhead_accept (hs : s.canon = true) (n : Nat) (f : Frame) (v : Stream) :
    ((s.taken n f).putStream n v).latchWaits.getF F.cdcSstatFhead n = (s.getF F.cdcSstatFhead n + 1) % 2 ^ F.cdcSstatFhead.w := by
  rw [State.latchWaits_getF]
  exact (State.getF_setF_place ((s.taken n f).setStream n v) n n _ (by decide)).trans (State.getF_setF_same (State.canon_regs hs) F.cdcSstatFhead n _)

theorem State.byteAt_accept (s : State) (n : Nat) (f : Frame) (v : Stream) (a : Nat) : ((s.taken n f).putStream n v).latchWaits.byteAt a = s.byteAt a :=
  (((s.only_taken n f).trans (State.only_putStream _ n v)).mono (by decide) |>.trans
    ((State.only_latchWaits _).mono (m' := [Comp.cmds, .regs, .streams]) (by decide))).byteAt_eq (by decide) (by decide) a

/-! ### The other events of an engine and a stream -/

theorem State.stream_restServed (s : State) (e k : Nat) : (s.restServed e).stream k = s.stream k := (s.only_restServed e).stream_eq (by decide) k

/-- The engine notes the last batch stream that it served. -/
def State.noteServed (y : State) (e n : Nat) : State :=
  if (y.stream n).live then y else y.setEngine e { y.engine e with last := tset (fun _ => 0) (y.engine e).last (y.getF F.cdcSstatPart n) (n + 1) }

theorem State.stream_noteServed (y : State) (e n k : Nat) : (y.noteServed e n).stream k = y.stream k := by
  rw [State.noteServed]
  split <;> rfl

theorem exec_frameStart (he : e < 8) (hrun : s.running = true) (hcur : (s.engine e).cur = none) {y : State} (hy : y = s.restServed e) :
    exec (.frameStart e) s = .next (
      match y.nextFrame e with
      | none => y
      | some (n, new) =>
        match (y.stream n).frame with
        | none => y.noteServed e n
        | some f => if new then (y.noteServed e n).startFrame e n f
          else ((y.noteServed e n).putFrame n { f with held := false }).setEngine e { (y.noteServed e n).engine e with cur := some n }) := by
  subst hy
  rw [exec, execFrameStart, if_neg (by simp [he, hrun, hcur])]
  dsimp only
  cases (s.restServed e).nextFrame e with
  | none => rfl
  | some x =>
    dsimp only
    rw [← State.noteServed, State.stream_noteServed] <;> rfl

theorem exec_frameDeadline_past {f : Frame} (hframe : (s.stream n).frame = some f) (hrun : s.running = true) (hst : s.streamState n ≠ 0)
    (hnew : f.started = false) (hpast : s.pastDeadline (s.stream n) f = true) : exec (.frameDeadline n) s = .next (s.endFrame n f 0xB0 0 []) := by
  rw [exec, execFrameDeadline, hframe]
  exact congrArg Host.Outcome.next (if_pos (by simp [hrun, hst, hnew, hpast]))

theorem exec_frameRecordWrite {w : WaitFrame} {rest : List WaitFrame} (hwait : (s.stream n).waiting = w :: rest) : exec (.frameRecordWrite n) s = .next (
    if s.crRoom n then ((s.setStream n { s.stream n with waiting := rest }).putFrameRecord n w).autoClose n else s) := by
  rw [exec, execFrameRecordWrite, hwait]

theorem exec_blockRow {f : Frame} (hrun : s.running = true) (hcur : (s.engine e).cur = some n) (hframe : (s.stream n).frame = some f) (hheld : f.held = false)
    (ev : RowEvent) : exec (.blockRow e ev) s = .next (if (s.stream n).encodes then s.encodeRow e n f ev else s.decodeRow e n f ev) := by
  rw [exec, execBlockRow, hcur]
  dsimp only
  rw [hframe]
  exact congrArg Host.Outcome.next (if_neg (by simp [hrun, hheld]))

theorem exec_codecHwError {f : Frame} (hrun : s.running = true) (hcur : (s.engine e).cur = some n) (hframe : (s.stream n).frame = some f)
    {r : State} (hr : r = s.record { cls := 0x28, sev := 1, kind := 6, unit := e, sub := n, status := 0xB3 })
    {a : State} (ha : a = if (s.stream n).encodes then r.poisonBytes (f.g 18 6) (f.g 14 4) else r) : exec (.codecHwError e) s = .next (
      (if (s.stream n).encodes || !f.flag 0 then a.poisonPic (s.stream n) ((s.stream n).target f) [(0, (s.stream n).bufStride)] else a).endFrame n
        { f with poisoned := true } 0xB3 0 []) := by
  subst ha hr
  rw [exec, execCodecHwError, hcur]
  dsimp only
  rw [hframe]
  exact congrArg Host.Outcome.next (if_neg (by simp [hrun]))

end frames

/-- Settles O47: each event's branches are equations over the state with the descriptor taken, the counts of service at rest, or the outputs poisoned. -/
theorem framesAreCoded : Obligations.FramesAreCoded := by
  unfold Obligations.FramesAreCoded
  intro s n bytes hs hrun v h b u f w st
  refine ⟨fun hhost hframe => ⟨?disabled, ?bad, ?accepted⟩, fun e f he hcur hframe => ?start, fun f hframe hst hnew hpast => ?deadline,
    fun r rest hwait => ?record, fun e f hcur hframe => ⟨fun ev hheld => ?row, ?error⟩⟩
  case disabled =>
    intro h2 hne
    have hexec := exec_frameFetch_host (bytes := bytes) hrun hhost hframe (by omega) (if_pos h2) hne rfl
    exact next_pos hexec h2
  case bad =>
    intro h1 hne hst
    have hexec := exec_frameFetch_host (bytes := bytes) hrun hhost hframe (by omega) (if_neg (by omega)) hne rfl
    exact next_pos (next_neg hexec (by omega)) hst
  case accepted =>
    intro h1 hne hst
    have hexec := exec_frameFetch_host (bytes := bytes) hrun hhost hframe (by omega) (if_neg (by omega)) hne rfl
    exact ⟨_, next_neg (next_neg hexec (by omega)) (not_not.2 hst),
      State.fhead_accept hs n f _, State.accept_frame hs n f, s.byteAt_accept n f _⟩
  case start =>
    intro y last x
    have hexec := exec_frameStart he hrun hcur (y := y) rfl
    have hstream : y.stream n = v := s.stream_restServed e n
    have hx : y.noteServed e n = x := by rw [State.noteServed, hstream]
    refine ⟨fun hnext => ?_, fun hnext => ?_, fun hnext => ?_⟩
    · rw [hexec, hnext]
      dsimp only
      rw [hstream, hframe, hx]
      rfl
    · rw [hexec, hnext]
      dsimp only
      rw [hstream, hframe, hx]
      rfl
    · rw [hexec, hnext]
  case deadline => exact exec_frameDeadline_past hframe hrun hst hnew hpast
  case record =>
    have hexec := exec_frameRecordWrite hwait
    exact ⟨fun hfull => next_neg hexec (by simp [hfull]), fun hroom => next_pos hexec hroom⟩
  case row => exact exec_blockRow hrun hcur hframe hheld ev
  case error => exact exec_codecHwError hrun hcur hframe rfl rfl

end Sys2Proof.Machine

/-!
PROOFS. Power phases move one at a time (O49).
-/
namespace Sys2Proof.Machine

section phases
variable {s t u : State}

/-! ### What a phase boundary leaves alone -/

/-- The phase, the last request and what is abandoned stand; only the direction and BUSY may differ. -/
structure State.Steered (s t : State) : Prop where
  fields : FieldsKept [(F.hbmPwrstatDir, 0), (F.hbmRststatBusy, 0)] s t
  want : t.seqr.want = s.seqr.want
  partial_ : t.seqr.partial_ = s.seqr.partial_

theorem State.Steered.refl (s : State) : s.Steered s := ⟨FieldsKept.refl _ s, rfl, rfl⟩

theorem State.Steered.trans (h : s.Steered t) (k : t.Steered u) : s.Steered u :=
  ⟨h.fields.trans k.fields, k.want.trans h.want, k.partial_.trans h.partial_⟩

theorem State.Steered.phase (h : s.Steered t) : t.phase = s.phase := h.fields.getF_place 0 (by decide)

theorem State.steered_runPhases (s : State) (up : Bool) : s.Steered (s.runPhases up) := by
  obtain h | h := s.runPhases_cases up <;> rw [h]
  · exact State.Steered.refl s
  · exact ⟨(s.fields_moved up).mono (by decide), rfl, rfl⟩

theorem State.steered_restPhases (s : State) : s.Steered s.restPhases := by
  have hset : FieldsKept [(F.hbmPwrstatDir, 0), (F.hbmRststatBusy, 0)] s ((s.setSeqr { s.seqr with moving := false }).setF F.hbmPwrstatDir 0 0) :=
    (FieldsKept.of_regs (t := s.setSeqr { s.seqr with moving := false }) rfl).setF _ _ _ (by decide)
  unfold State.restPhases
  extract_lets r
  split
  · exact ⟨hset.trans (.of_regs rfl), rfl, rfl⟩
  · exact ⟨hset, rfl, rfl⟩

theorem State.steered_endReset (s : State) : s.Steered s.endReset := ⟨s.fields_endReset.mono (by decide), rfl, rfl⟩

theorem State.steered_follow (s : State) : s.Steered s.follow := s.steered_restPhases.trans (State.steered_runPhases _ _)

theorem State.steered_atBoundary (s : State) (up : Bool) : s.Steered (s.atBoundary up) := by
  have hend : s.Steered s.endReset.follow := s.steered_endReset.trans (State.steered_follow _)
  have hbegin : s.Steered ((s.setSeqr { s.seqr with reset := true, resetWaits := false, moving := true }).setF F.hbmPwrstatDir 0 0) :=
    ⟨(FieldsKept.of_regs (t := s.setSeqr { s.seqr with reset := true, resetWaits := false, moving := true }) rfl).setF _ _ _ (by decide), rfl, rfl⟩
  unfold State.atBoundary
  split
  · exact hbegin
  · split
    · split
      · split
        · exact s.steered_runPhases true
        · exact hend
      · split
        · exact State.Steered.refl s
        · split
          · exact s.steered_restPhases.trans (State.steered_runPhases _ _)
          · exact hend
    · exact s.steered_follow

/-! ### The work of a phase leaves the last request alone -/

theorem Kept.seqr_eq (h : Kept (fun c => c ≠ Comp.seqr) s t) : t.seqr = s.seqr := (h.1 .seqr fun k => k rfl).symm

theorem State.want_phase3Up (s : State) : s.phase3Up.seqr.want = s.seqr.want := by
  unfold State.phase3Up
  extract_lets st t1 t2 t3 t4 t5 t6
  have h1 : Kept (fun c => c ≠ Comp.seqr) s t1 := by
    refine State.clearRegs_kept _ _ ?_ (by decide)
    apply @State.wipe_kept _ _ s (Kept.refl s) <;> decide
  clear_value t1
  have h2 : Kept (fun c => c ≠ Comp.seqr) s t2 := State.setF_kept _ _ _ _ h1 (by decide)
  clear_value t2
  have h3 : Kept (fun c => c ≠ Comp.seqr) s t3 := kept_ite ((kept_retired_clear (by decide) (by decide) _ _).2 h2) h2
  clear_value t3
  have h4 : Kept (fun c => c ≠ Comp.seqr) s t4 := State.amdStatus_kept _ _ (State.setF_kept _ _ _ _ h3 (by decide)) (by decide)
  clear_value t4
  have h5 : Kept (fun c => c ≠ Comp.seqr) s t5 := by
    refine State.bootCharter_kept _ (State.bootImages_kept _ h4 ?_ ?_ ?_ ?_ ?_ ?_ ?_) ?_ ?_ ?_ ?_ ?_ ?_ ?_ ?_ <;> decide
  clear_value t5
  have h6 : Kept (fun c => c ≠ Comp.seqr) s t6 := State.setF_kept _ _ _ _ h5 (by decide)
  have hwant : t6.seqr.want = s.seqr.want := congrArg Sequencer.want h6.seqr_eq
  exact hwant

theorem State.want_phaseUp (s : State) (w : PhaseWork) (k : Nat) : (s.phaseUp w k).seqr.want = s.seqr.want := by
  have hframe {t : State} (h : Kept (fun c => c ≠ Comp.seqr) s t) : t.seqr.want = s.seqr.want := congrArg Sequencer.want h.seqr_eq
  unfold State.phaseUp
  split
  · rfl
  · split
    · rfl
    · exact s.want_phase3Up
    · refine hframe ?_
      apply @State.phase4Up_kept _ _ s (Kept.refl s) <;> decide
    · refine hframe ?_
      apply @State.phase5Up_kept _ _ w s (Kept.refl s) <;> decide
    · exact hframe (kept_foldl _ (fun t p h => State.startPort_kept w t p h (by decide) (by decide)) _
        (State.trainFlash_kept s w.nand (Kept.refl s) (by decide) (by decide)))
    · exact hframe (State.phase7Up_kept s (Kept.refl s) (by decide) (by decide))
    · rfl

theorem State.want_phaseDown (s : State) (k : Nat) : (s.phaseDown k).seqr.want = s.seqr.want := by
  have hframe {t : State} (h : Kept (fun c => c ≠ Comp.seqr) s t) : t.seqr.want = s.seqr.want := congrArg Sequencer.want h.seqr_eq
  unfold State.phaseDown
  split
  · rfl
  · split
    · refine hframe ?_
      apply @State.phase7Down_kept _ _ s (Kept.refl s) <;> decide
    · refine hframe ?_
      apply @State.phase6Down_kept _ _ s (Kept.refl s) <;> decide
    · refine hframe ?_
      apply @State.phase5Down_kept _ _ s (Kept.refl s) <;> decide
    · rfl
    · rfl
    · rfl
    · rfl

theorem State.canon_phaseUp (hs : s.canon = true) (w : PhaseWork) (k : Nat) : (s.phaseUp w k).canon = true := by
  refine (?_ : Kept (fun _ => True) s (s.phaseUp w k)).2 hs
  apply @State.phaseUp_kept _ _ s w k (Kept.refl s) <;> exact trivial

theorem State.canon_phaseDown (hs : s.canon = true) (k : Nat) : (s.phaseDown k).canon = true := by
  refine (?_ : Kept (fun _ => True) s (s.phaseDown k)).2 hs
  apply @State.phaseDown_kept _ _ s k (Kept.refl s) <;> exact trivial

/-! ### The ends of a phase -/

theorem exec_powerPhaseUp (hm : s.seqr.moving = true) (hd : s.flag F.hbmPwrstatDir 0 = true) (w : PhaseWork) :
    exec (.powerPhaseUp w) s = .next (((s.phaseUp w s.phaseAbove).setF F.hbmPwrstatPhase 0 s.phaseAbove).atBoundary true) := by
  rw [exec, execPowerPhaseUp, if_neg (by simp [hm, hd])]

theorem exec_powerPhaseDown (hm : s.seqr.moving = true) (hd : s.flag F.hbmPwrstatDir 0 = false) : exec .powerPhaseDown s = .next (
    if s.seqr.partial_ then (s.setSeqr { s.seqr with partial_ := false }).atBoundary false
    else ((s.phaseDown s.phase).setF F.hbmPwrstatPhase 0 s.phaseBelow).atBoundary false) := by
  rw [exec, execPowerPhaseDown, if_neg (by simp [hm, hd])]

/-- The phase that is shown at a boundary is the one that has ended. -/
theorem State.phase_boundary (hu : u.canon = true) (k : Nat) (up : Bool) : ((u.setF F.hbmPwrstatPhase 0 k).atBoundary up).phase = k % 8 :=
  (State.steered_atBoundary _ up).phase.trans (State.getF_setF_same (State.canon_regs hu) F.hbmPwrstatPhase 0 k)

theorem exec_phaseUp_rests (h : s.seqr.moving = false ∨ s.flag F.hbmPwrstatDir 0 = false) (w : PhaseWork) : exec (.powerPhaseUp w) s = .next s := by
  rw [exec, execPowerPhaseUp, if_pos (by simpa using h)]

theorem exec_overrun_rests (h : s.seqr.moving = false ∨ s.flag F.hbmPwrstatDir 0 = false) (rail : Nat) : exec (.phaseBoundOverrun rail) s = .next s := by
  rw [exec, execPhaseBoundOverrun, if_pos (by simpa using h)]

theorem exec_phaseDown_rests (h : s.seqr.moving = false ∨ s.flag F.hbmPwrstatDir 0 = true) : exec .powerPhaseDown s = .next s := by
  rw [exec, execPowerPhaseDown, if_pos (by simpa using h)]

/-! ### A phase that is overrun -/

/-- The device does not come back before the next on request. -/
def State.stayOff (t : State) : State := (t.setSeqr { t.seqr with want := false }).setF F.hbmPwrstatSrc 0 5

theorem State.fields_stayOff (t : State) : FieldsKept [(F.hbmPwrstatSrc, 0)] t t.stayOff :=
  (FieldsKept.of_regs (t := t.setSeqr { t.seqr with want := false }) rfl).setF _ _ _ (by decide)

theorem State.src_stayOff (ht : rises t.regs = true) : t.stayOff.getF F.hbmPwrstatSrc 0 = 5 :=
  State.getF_setF_same (s := t.setSeqr { t.seqr with want := false }) ht F.hbmPwrstatSrc 0 5

theorem State.seqr_stayOff (t : State) : t.stayOff.seqr = { t.seqr with want := false } := rfl

theorem exec_phaseBoundOverrun (hm : s.seqr.moving = true) (hd : s.flag F.hbmPwrstatDir 0 = true) (rail : Nat) :
    exec (.phaseBoundOverrun rail) s = .next (s.fatal 0x42 7 (railUnit rail) (railUnit rail)).abandonUp.stayOff := by
  rw [exec, execPhaseBoundOverrun, if_neg (by simp [hm, hd])]
  rfl

theorem State.abandonUp_eq (hm : s.seqr.moving = true) (hd : s.flag F.hbmPwrstatDir 0 = true) {t : State} (ht : t = if s.seqr.reset then s.endReset else s) :
    s.abandonUp = (t.setSeqr { t.seqr with partial_ := true }).setF F.hbmPwrstatDir 0 0 := by
  subst ht
  exact if_pos (by rw [hm, hd]; rfl)

theorem State.seqr_fatal (s : State) (cls kind unit syn : Nat) : (s.fatal cls kind unit syn).seqr = s.seqr := by
  have h : Kept (fun c => c ≠ Comp.seqr) s (s.fatal cls kind unit syn) := by
    apply @State.fatal_kept _ _ s cls kind unit syn (Kept.refl s) <;> decide
  exact h.seqr_eq

theorem State.canon_fatal (hs : s.canon = true) (cls kind unit syn : Nat) : (s.fatal cls kind unit syn).canon = true := by
  refine (?_ : Kept (fun _ => True) s (s.fatal cls kind unit syn)).2 hs
  apply @State.fatal_kept _ _ s cls kind unit syn (Kept.refl s) <;> exact trivial

/-- A phase that runs up and is abandoned: the device moves on, downwards. -/
theorem State.abandonUp_turns (hs : s.canon = true) (hm : s.seqr.moving = true) (hd : s.flag F.hbmPwrstatDir 0 = true) :
    s.abandonUp.seqr.moving = true ∧ s.abandonUp.getF F.hbmPwrstatDir 0 = 0 ∧ FieldsKept [(F.hbmPwrstatDir, 0), (F.hbmRststatBusy, 0)] s s.abandonUp ∧
      rises s.abandonUp.regs = true := by
  let t := if s.seqr.reset then s.endReset else s
  have ht : t.seqr.moving = true ∧ FieldsKept [(F.hbmPwrstatDir, 0), (F.hbmRststatBusy, 0)] s t ∧ rises t.regs = true := by
    unfold t
    split
    · exact ⟨hm, s.steered_endReset.fields, State.rises_setF (s := s.setSeqr _) (State.canon_regs hs) _ _ _⟩
    · exact ⟨hm, FieldsKept.refl _ s, State.canon_regs hs⟩
  obtain ⟨hmove, hfields, hrises⟩ := ht
  have hseqr : rises (t.setSeqr { t.seqr with partial_ := true }).regs = true := hrises
  rw [State.abandonUp_eq hm hd (t := t) rfl]
  exact ⟨hmove, State.getF_setF_same hseqr F.hbmPwrstatDir 0 0,
    (hfields.trans (.of_regs (t := t.setSeqr { t.seqr with partial_ := true }) rfl)).setF _ _ _ (by decide), State.rises_setF hseqr _ _ _⟩

end phases

/-- Settles O49: the work of a phase keeps the last request, a boundary keeps the phase, and an overrun is a fatal record before the turn. -/
theorem phasesMoveOneAtATime : Obligations.PhasesMoveOneAtATime := by
  unfold Obligations.PhasesMoveOneAtATime
  intro s w rail hs
  refine ⟨fun hm hd => ⟨?up, ?overrun⟩, fun hm hd => ⟨fun hp => ?down, fun hp => ?abandoned⟩,
    fun h => ⟨exec_phaseUp_rests h w, exec_overrun_rests h rail⟩, exec_phaseDown_rests⟩
  case up =>
    exact ⟨_, exec_powerPhaseUp hm hd w, State.phase_boundary (State.canon_phaseUp hs w _) _ true, (State.steered_atBoundary _ true).want.trans (s.want_phaseUp w _)⟩
  case overrun =>
    let u := s.fatal 0x42 7 (railUnit rail) (railUnit rail)
    have hregs : RegsKept recordRegs s u := s.regs_fatal _ _ _ _
    have hum : u.seqr.moving = true := (congrArg Sequencer.moving (s.seqr_fatal _ _ _ _)).trans hm
    have hud : u.flag F.hbmPwrstatDir 0 = true := (congrArg (· == 1) (hregs.getF_eq (f := F.hbmPwrstatDir) (by decide) 0)).trans hd
    obtain ⟨hmove, hdir, hfields, hrises⟩ := State.abandonUp_turns (State.canon_fatal hs _ _ _ _) hum hud
    have hlast := u.abandonUp.fields_stayOff
    have hstop := (State.stopped_fatal hs (cls := 0x42) (by decide) 7 (railUnit rail) (railUnit rail)).running
    refine ⟨_, exec_phaseBoundOverrun hm hd rail, ?_, congrArg Sequencer.want (State.seqr_stayOff _), State.src_stayOff hrises, ?_,
      (congrArg Sequencer.moving (State.seqr_stayOff _)).trans hmove, ?_⟩
    · have hsame : u.abandonUp.stayOff.getF F.erqStatusState 0 = u.getF F.erqStatusState 0 :=
        (hlast.getF_place 0 (by decide)).trans (hfields.getF_place 0 (by decide))
      exact (congrArg (· != 2) hsame).trans hstop
    · exact beq_eq_false_iff_ne.2 (ne_of_eq_of_ne ((hlast.getF_place 0 (by decide)).trans hdir) (by decide))
    · exact (hlast.getF_place 0 (by decide)).trans (u.phase_abandonUp.trans (hregs.getF_eq (by decide) 0))
  case down =>
    exact ⟨_, next_neg (exec_powerPhaseDown hm hd) (by simp [hp]), State.phase_boundary (State.canon_phaseDown hs _) _ false,
      (State.steered_atBoundary _ false).want.trans (s.want_phaseDown _)⟩
  case abandoned =>
    let u := s.setSeqr { s.seqr with partial_ := false }
    have hkept : Kept (fun c => c ∈ [Comp.pins, .regs, .seqr]) u (u.atBoundary false) := State.atBoundary_kept u false (Kept.refl u) (by decide) (by decide) (by decide)
    exact ⟨_, next_pos (exec_powerPhaseDown hm hd) hp, (u.steered_atBoundary false).phase, (u.steered_atBoundary false).partial_,
      hkept.only.byteAt_eq (by decide) (by decide)⟩

end Sys2Proof.Machine

/-!
PROOFS. The standby supply, the straps, and board test (O50).
-/
namespace Sys2Proof.Machine

section standby
variable {s : State}

/-- A table keeps what a filter of its places leaves, and reads as absent elsewhere. -/
theorem tget_filter {α : Type} (d : Nat → α) (p : Nat → Bool) (t : Tab α) (k : Nat) : tget d (t.filter fun e => p e.1) k = if p k then tget d t k else d k := by
  induction t with
  | nil => exact (ite_self _).symm
  | cons a t ih =>
    by_cases hk : a.1 = k
    · subst hk
      cases hp : p a.1 with
      | true => simp [hp, tget]
      | false => simpa [List.filter_cons, hp, tget] using ih
    · rw [List.filter_cons, tget, if_neg hk, ← ih]
      split
      · rw [tget, if_neg hk]
      · rfl

/-- The places whose content outlives the standby supply. -/
def outlives (k : Nat) : Bool := k % 32768 == F.fltRgnverCommitted.key 0 || k == F.fltWearGrownbad.key 0

theorem State.getF_standbyDown (s : State) (f : Fld) (i : Nat) : s.standbyDown.getF f i = if outlives (f.key i) then s.getF f i else f.dflt i :=
  tget_filter _ outlives s.regs (f.key i)

theorem State.phase_standbyDown (s : State) : s.standbyDown.phase = 0 := (s.getF_standbyDown F.hbmPwrstatPhase 0).trans (if_neg (by decide))

theorem State.committed_standbyDown (s : State) (r : Nat) : s.standbyDown.getF F.fltRgnverCommitted r = s.getF F.fltRgnverCommitted r := by
  have hplace : F.fltRgnverCommitted.key r % 32768 = F.fltRgnverCommitted.key 0 := by
    rw [Fld.key_eq_key_zero, Nat.add_mul_mod_self_left]
    decide
  rw [State.getF_standbyDown, outlives, hplace]
  rfl

theorem State.committed_dropUpdate (s : State) (a r : Nat) : (s.dropUpdate a).getF F.fltRgnverCommitted r = s.getF F.fltRgnverCommitted r := by
  unfold State.dropUpdate
  extract_lets v t1 t2 _ t3
  have ht : t3.getF F.fltRgnverCommitted r = s.getF F.fltRgnverCommitted r := rfl
  exact (State.getF_setF_place _ _ _ _ (by decide)).trans ((State.getF_setF_place _ _ _ _ (by decide)).trans ((State.getF_setF_place _ _ _ _ (by decide)).trans ht))

theorem State.committed_flushed (s : State) (r : Nat) : s.flushed.getF F.fltRgnverCommitted r = s.getF F.fltRgnverCommitted r := by
  have hdrop (u : State) : (u.dropUpdates fun _ => true).getF F.fltRgnverCommitted r = u.getF F.fltRgnverCommitted r :=
    State.getF_foldl _ (fun t e => by
      split
      · exact t.committed_dropUpdate e.1 r
      · rfl) _ u
  rw [State.flushed, hdrop]
  split
  · exact s.fields_flashFlush.getF_place r (by decide)
  · rfl

/-- What the fall of the standby supply leaves of what lies in the boot flash, the fuses, and the firmware's log. -/
theorem State.flushed_same (s : State) : s.flushed.fwLog = s.fwLog ∧ s.flushed.retired = s.retired ∧ s.flushed.boot = s.boot :=
  ⟨(s.flushed_kept.only .fwLog (by decide)).symm, (s.flushed_kept.only .retired (by decide)).symm, (s.flushed_kept.only .boot (by decide)).symm⟩

/-! ### Straps and board test (R574, R578) -/

theorem exec_strapSample (hup : s.pins.standby = true) (hnew : s.pins.sampled = false) (mbaddr bfclk : Nat) (recov : Bool) :
    exec (.strapSample mbaddr bfclk recov) s = .next (s.setPins { s.pins with sampled := true, mbaddr := 0x30 + mbaddr % 8, bfclk := bfclk % 4, recov := recov }) := by
  rw [exec, execStrapSample, if_pos (by simp [hup, hnew])]

theorem exec_strapSample_rests (h : s.pins.standby = false ∨ s.pins.sampled = true) (mbaddr bfclk : Nat) (recov : Bool) :
    exec (.strapSample mbaddr bfclk recov) s = .next s := by
  rw [exec, execStrapSample, if_neg (by obtain h | h := h <;> simp [h])]

theorem State.runPhases_up (h : s.phase < s.topPhase) : s.runPhases true = s.moved true := if_pos (by rw [decide_eq_true h]; rfl)

/-- The device is OFF and in board test. -/
def State.testing (s : State) : State := (s.setPins { s.pins with boardTest := true }).setSeqr { s.seqr with want := true }

theorem exec_btest (hup : s.pins.standby = true) (hno : s.pins.boardTest = false) (hrest : s.seqr.moving = false) (hoff : s.phase = 0) :
    exec .btest s = .next (s.testing.moved true) := by
  have hshort : s.testing.phase < s.testing.topPhase := by
    change s.phase < 6
    rw [hoff]
    decide
  rw [exec, execBtest, if_pos (by simp [hup, hno, hrest, hoff])]
  exact congrArg Host.Outcome.next (State.runPhases_up hshort)

theorem exec_testEnd {i : Instr} (hi : i ∈ [Instr.trstNFall, .differentInstructionLoad]) : exec i s = .next s.endBoardTest := by
  simp only [List.mem_cons, List.not_mem_nil, or_false] at hi
  obtain rfl | rfl := hi <;> rfl

theorem State.endBoardTest_off (h : s.pins.boardTest = false) : s.endBoardTest = s := if_pos (by rw [h]; rfl)

theorem State.endBoardTest_on (h : s.pins.boardTest = true) : s.endBoardTest =
    if s.seqr.moving then s.setSeqr { s.seqr with want := false } else (s.setSeqr { s.seqr with want := false }).runPhases false := by
  rw [State.endBoardTest, if_neg (by simp [h])]
  rfl

theorem State.runPhases_down (hup : 0 < s.phase) (hfree : s.applying = false) : s.runPhases false = s.moved false :=
  if_pos (by rw [decide_eq_true hup, hfree]; rfl)

end standby

/-- Settles O50: the flush before the fall touches only the flash tier, whose committed versions the filter of the registers keeps. -/
theorem standbyStrapsAndBoardTest : Obligations.StandbyStrapsAndBoardTest := by
  unfold Obligations.StandbyStrapsAndBoardTest
  intro s mbaddr bfclk recov hs
  refine ⟨fun hup => ?fall, rfl, fun hup hnew => ⟨_, exec_strapSample hup hnew mbaddr bfclk recov, rfl, (OnlyChanged.refl _ s).setPins _ (by decide)⟩,
    fun h => exec_strapSample_rests h mbaddr bfclk recov, fun hup hno hrest hoff => ?test, fun i hi => ?ends⟩
  case fall =>
    obtain ⟨hlog, hretired, hboot⟩ := s.flushed_same
    have himages : s.flushed.boot.images = s.boot.images := congrArg Boot.images hboot
    have hslots : s.flushed.boot.slots = s.boot.slots := congrArg Boot.slots hboot
    have hsec : s.flushed.boot.minSec = s.boot.minSec := congrArg Boot.minSec hboot
    exact ⟨_, exec_standbyFall_up s hup, rfl, State.phase_standbyDown _, rfl, rfl, rfl, rfl, hlog, hretired, himages, hslots, hsec, fun r => (State.committed_standbyDown _ r).trans (s.committed_flushed r)⟩
  case test =>
    have hregs : rises s.testing.regs = true := State.canon_regs hs
    exact ⟨_, exec_btest hup hno hrest hoff, rfl, rfl, rfl, State.dir_moved true hregs⟩
  case ends =>
    have hexec := exec_testEnd (s := s) hi
    refine ⟨fun hno => hexec.trans (congrArg Host.Outcome.next (State.endBoardTest_off hno)), fun htest hrest hup hfree => ?_, fun htest hmove => ?_⟩
    · let u := s.setSeqr { s.seqr with want := false }
      have hregs : rises u.regs = true := State.canon_regs hs
      have hdown : s.endBoardTest = u.moved false := by
        rw [State.endBoardTest_on htest, hrest, if_neg Bool.false_ne_true]
        exact State.runPhases_down (s := u) hup hfree
      exact ⟨_, hexec.trans (congrArg Host.Outcome.next hdown), rfl, rfl, State.dir_moved false hregs⟩
    · exact hexec.trans (congrArg Host.Outcome.next ((State.endBoardTest_on htest).trans (if_pos hmove)))

end Sys2Proof.Machine

/-!
PROOFS. Firmware images are written and checked (O52).
-/
namespace Sys2Proof.Machine

section images
variable {s u : State} {acr : Acr} {v k : Nat} {w : List Byte}

/-! ### The write of an image (R463) -/

theorem exec_imageWrite (hacr : acr ∈ [Acr.fn 0, .mb]) (hop : bits v 62 2 ≠ 2) (bytes : List Byte) (hu : u = s.setLatch acr 0) :
    exec (.imageWrite acr v bytes) s = .next (
      if bits v 62 2 ≠ 1 ∨ bits v 30 32 ≠ 0 ∨ imageSlot < bits v 0 30 ∨ s.flag F.hbmRststatBusy 0 = true then u.rstStatus 0xBE
      else (u.setBoot { u.boot with images := u.boot.images.set u.freeSlot none,
                                    imgWrite := some (u.freeSlot, (bytes ++ List.replicate (bits v 0 30 - bytes.length) 0).take (bits v 0 30)) }).setF
        F.hbmRststatBusy 0 1) := by
  subst hu
  rw [exec, execImageWrite, if_neg hop, State.forDevice_of_mem hacr]
  refine congrArg Host.Outcome.next (if_congr ?_ rfl rfl)
  rw [Bool.or_eq_true, Bool.or_eq_true, Bool.or_eq_true, bne_iff_ne, bne_iff_ne, decide_eq_true_iff, or_assoc, or_assoc]
  rfl

/-- The copy has ended. -/
def State.copied (s : State) : State := (s.setBoot { s.boot with imgWrite := none }).setF F.hbmRststatBusy 0 0

/-- The slot holds the image, and the directory prefers it. -/
def State.adopted (s : State) (k : Nat) (w : List Byte) : State :=
  let b : Boot := { s.boot with images := s.boot.images.set k (some w) }
  (s.setBoot (b.putDir k b.dir.chslot)).rstStatus 0

/-- A device in recovery runs phase 3 again. -/
def State.retried (t : State) : State :=
  if t.phase = 3 && t.flag F.hbmBootstatRecovery 0 && !t.seqr.moving && t.seqr.want then (t.setF F.hbmPwrstatPhase 0 2).runPhases true else t

theorem exec_imageWriteComplete (hw : s.boot.imgWrite = some (k, w)) : exec .imageWriteComplete s = .next (
    if imageCheck (some w) s.secFloor ≠ 0 then s.copied.rstStatus 0xBE else (s.copied.adopted k w).retried) := by
  rw [exec, execImageWriteComplete, hw]
  exact congrArg Host.Outcome.next (if_congr bne_iff_ne rfl rfl)

theorem State.boot_copied (s : State) : s.copied.boot = { s.boot with imgWrite := none } := rfl

theorem State.rises_copied (hs : s.canon = true) : rises s.copied.regs = true := State.rises_setF (s := s.setBoot _) (State.canon_regs hs) _ _ _

theorem State.busy_copied (hs : s.canon = true) : s.copied.flag F.hbmRststatBusy 0 = false :=
  beq_eq_false_iff_ne.2 (ne_of_eq_of_ne (State.getF_setF_same (s := s.setBoot { s.boot with imgWrite := none }) (State.canon_regs hs) F.hbmRststatBusy 0 0) (by decide))

theorem State.busy_rstStatus (t : State) (st : Nat) : (t.rstStatus st).flag F.hbmRststatBusy 0 = t.flag F.hbmRststatBusy 0 :=
  congrArg (· == 1) (t.getF_setF_place 0 0 st (by decide))

theorem State.status_rstStatus {t : State} (ht : rises t.regs = true) {st : Nat} (h : st < 256) : (t.rstStatus st).getF F.hbmRststatStatus 0 = st :=
  (State.getF_setF_same ht F.hbmRststatStatus 0 st).trans (Nat.mod_eq_of_lt h)

theorem State.boot_retried (t : State) : t.retried.boot = t.boot := by
  rw [State.retried]
  split
  · obtain h | h := (t.setF F.hbmPwrstatPhase 0 2).runPhases_cases true <;> rw [h] <;> rfl
  · rfl

theorem State.getF_retried (t : State) {f : Fld} (h : f = F.hbmRststatStatus ∨ f = F.hbmRststatBusy) : t.retried.getF f 0 = t.getF f 0 := by
  have hdir (u : State) : (u.runPhases true).getF f 0 = u.getF f 0 := by
    obtain hr | hr := u.runPhases_cases true <;> rw [hr]
    exact (u.fields_moved true).getF_place 0 (by obtain rfl | rfl := h <;> decide)
  rw [State.retried]
  split
  · exact (hdir _).trans (t.getF_setF_place 0 0 2 (by obtain rfl | rfl := h <;> decide))
  · rfl

/-- Both copies of a directory that is put are the same. -/
theorem Boot.pref_putDir (b : Boot) (p c : Nat) : (b.putDir p c).dir.pref = p := by
  unfold Boot.dir Boot.putDir
  exact congrArg BootDir.pref (if_neg (Nat.lt_irrefl _))

/-! ### MINSECVER, and firmware that does not report alive (R462, R463) -/

/-- MINSECVER rises to a version. -/
def State.raisedTo (s : State) (m : Nat) : State := ((s.setBoot { s.boot with minSec := some m }).setF F.hbmBootstatMinsecver 0 m).rstStatus 0

theorem exec_raiseMinsecver (hacr : acr ∈ [Acr.fn 0, .mb]) (hop : bits v 62 2 = 2) (hr : bits v 30 32 = 0)
    (him : s.boot.images.getD (s.getF F.hbmBootstatImage 0) none = some w) (hb : s.flag F.hbmRststatBusy 0 = false)
    (hrec : s.flag F.hbmBootstatRecovery 0 = false) (hup : 3 ≤ s.phase) :
    exec (.raiseMinsecver acr v) s = .next ((s.setLatch acr 0).raisedTo (max s.secFloor (fieldAt w 8 4))) := by
  have hno : ¬(bits v 30 32 != 0 || s.flag F.hbmRststatBusy 0 || s.flag F.hbmBootstatRecovery 0 || s.phase < 3) = true := by simp [hr, hb, hrec, hup]
  rw [exec, execRaiseMinsecver, if_neg (by simp [hop]), State.forDevice_of_mem hacr]
  dsimp only
  have hlatch : (s.setLatch acr 0).boot.images.getD ((s.setLatch acr 0).getF F.hbmBootstatImage 0) none = some w := him
  rw [hlatch]
  exact congrArg Host.Outcome.next (if_neg hno)

theorem State.only_raisedTo (s : State) (m : Nat) : OnlyChanged [.regs, .boot] s (s.raisedTo m) :=
  ((State.setBoot_kept (E := fun c => c ∈ [Comp.regs, .boot]) s _ (Kept.refl s) (by decide)).only.setF F.hbmBootstatMinsecver 0 m (by decide)).setF
    F.hbmRststatStatus 0 0 (by decide)

theorem State.status_raisedTo (hs : rises s.regs = true) (m : Nat) : (s.raisedTo m).getF F.hbmRststatStatus 0 = 0 :=
  State.getF_setF_same (s := (s.setBoot { s.boot with minSec := some m }).setF F.hbmBootstatMinsecver 0 m)
    (State.rises_setF (s := s.setBoot { s.boot with minSec := some m }) hs _ _ _) F.hbmRststatStatus 0 0

theorem exec_imageAliveTimeout {i : Nat} (hup : s.inPhase3 = true) (hi : s.bootImage = some i) :
    exec .imageAliveTimeout s = .next (s.setSeqr { s.seqr with aliveFails := s.seqr.aliveFails ++ [i] }) := by
  rw [exec, execImageAliveTimeout, hup, hi]

end images

/-- Settles O52: the copy that has ended is checked, and what a device in recovery then does touches neither the boot flash nor the status. -/
theorem imagesAreWritten : Obligations.ImagesAreWritten := by
  unfold Obligations.ImagesAreWritten
  intro s v bytes hs acr hacr n u im
  refine ⟨fun hop hr hn hb => ?grant, fun h2 hbad => ?refuse, fun k w hw => ?complete, fun w hop hr him hb hrec hup => ?raise,
    fun i hup hi => exec_imageAliveTimeout hup hi⟩
  case grant =>
    refine next_neg (exec_imageWrite hacr (by omega) bytes rfl) (?_)
    rintro (h | h | h | h)
    · exact h hop
    · exact h hr
    · exact Nat.not_lt.2 hn h
    · exact Bool.false_ne_true (hb.symm.trans h)
  case refuse => exact next_pos (exec_imageWrite hacr h2 bytes rfl) hbad
  case complete =>
    have hexec := exec_imageWriteComplete hw
    have hrises := State.rises_copied hs
    by_cases hcheck : imageCheck (some w) s.secFloor = 0
    · let t := s.copied.adopted k w
      have ht : rises (s.copied.setBoot t.boot).regs = true := hrises
      have hbusy : t.retried.flag F.hbmRststatBusy 0 = false :=
        (congrArg (· == 1) (t.getF_retried (.inr rfl))).trans ((State.busy_rstStatus _ 0).trans (State.busy_copied hs))
      have hboot := t.boot_retried
      refine ⟨_, next_neg hexec (not_not.2 hcheck), congrArg Boot.imgWrite hboot, hbusy, fun h => absurd hcheck h,
        fun _ => ⟨(t.getF_retried (.inl rfl)).trans (State.status_rstStatus ht (by decide)), congrArg Boot.images hboot, ?_⟩⟩
      exact (congrArg (fun b : Boot => b.dir.pref) hboot).trans (Boot.pref_putDir _ _ _)
    · exact ⟨_, next_pos hexec hcheck, rfl, (State.busy_rstStatus _ 0xBE).trans (State.busy_copied hs),
        fun _ => ⟨State.status_rstStatus hrises (by decide), rfl, rfl⟩, fun h => absurd h hcheck⟩
  case raise =>
    have hregs := State.canon_regs hs
    have hlatch : rises (s.setLatch acr 0).regs = true := hregs
    exact ⟨_, exec_raiseMinsecver hacr hop hr him hb hrec hup, rfl, State.status_raisedTo hlatch _,
      ((s.only_setLatch acr 0).mono (by decide)).trans ((State.only_raisedTo _ _).mono (by decide))⟩

end Sys2Proof.Machine

/-!
PROOFS. Charter amendments: delivery, application, commit (O53).
-/
namespace Sys2Proof.Machine

section amendments
variable {s t : State} {b : List Byte}

/-! ### Delivery (R469, R470) -/

/-- The status of a delivery: of a pending amendment, or of the first check that fails. -/
def State.verdict (s : State) (b : List Byte) : Nat :=
  if s.getF F.chtAmdst2State 0 = 1 || s.getF F.chtAmdst2State 0 = 2 then 0xBC
  else if s.recordStatus s.chart b != 0 then s.recordStatus s.chart b
  else if s.slotFull b then 0xBD
  else 0

/-- What CHT_AMDST2 shows of an amendment that becomes pending. -/
def pendFields (a : Nat) : List (Fld × Nat) := [(F.chtAmdst2Status, 0), (F.chtAmdst2State, 1), (F.chtAmdst2Affected, a)]

theorem pendFields_apart (a : Nat) : ((pendFields a).map (·.1)).Pairwise Fld.apart := by
  have h : [F.chtAmdst2Status, F.chtAmdst2State, F.chtAmdst2Affected].Pairwise Fld.apart := by
    unfold Fld.apart
    decide
  exact h

/-- The harbourmaster holds the record of a pending amendment. -/
def State.holds (t : State) (b : List Byte) : State := t.setBoot { t.boot with record := some b }

theorem State.deliver_eq (s : State) (b : List Byte) : s.deliver b =
    if s.verdict b != 0 then s.amdStatus (s.verdict b) else ((s.fuseOwner b).holds b).setFields 0 (pendFields (s.affectedBy b)) := rfl

theorem State.deliver_refused {st : Nat} (h : s.verdict b = st) (hst : st ≠ 0) : s.deliver b = s.amdStatus st := by
  rw [State.deliver_eq, h, if_pos (bne_iff_ne.2 hst)]

theorem State.deliver_pends (h : s.verdict b = 0) : s.deliver b = ((s.fuseOwner b).holds b).setFields 0 (pendFields (s.affectedBy b)) := by
  rw [State.deliver_eq, h]
  rfl

theorem State.verdict_busy (h : s.getF F.chtAmdst2State 0 = 1 ∨ s.getF F.chtAmdst2State 0 = 2) : s.verdict b = 0xBC := if_pos (by simpa using h)

theorem State.verdict_idle (h1 : s.getF F.chtAmdst2State 0 ≠ 1) (h2 : s.getF F.chtAmdst2State 0 ≠ 2) :
    s.verdict b = if s.recordStatus s.chart b ≠ 0 then s.recordStatus s.chart b else if s.slotFull b then 0xBD else 0 := by
  rw [State.verdict, if_neg (by simp [h1, h2])]
  exact if_congr bne_iff_ne rfl rfl

theorem State.only_holds (s : State) (b : List Byte) : OnlyChanged [.boot] s ((s.fuseOwner b).holds b) :=
  (State.setBoot_kept (E := fun c => c ∈ [Comp.boot]) _ _ (State.fuseOwner_kept s b (Kept.refl s) (by decide)) (by decide)).only

theorem exec_amendmentSubmit_fn (haddr : s.takesAmendments = true → s.getF F.chtAmdaddrAddr 0 % 64 = 0) : exec (.amendmentSubmit (.fn 0) (2 ^ 30) b) s = .next (
    if s.takesAmendments then s.deliver b else s.amdStatus 0xBE) := by
  have hbits : bits (2 ^ 30) 30 2 = 1 ∧ bits (2 ^ 30) 0 30 = 0 := by decide
  rw [exec, execAmendmentSubmit, hbits.1, hbits.2, if_neg (by decide)]
  cases htakes : s.takesAmendments with
  | false => simp
  | true => simp [haddr htakes]

theorem exec_amendmentSubmit_mb : exec (.amendmentSubmit .mb 0 b) s = .next (
    if s.takesAmendments then (s.deliver b).emit (.mctp 4 ((s.deliver b).getF F.chtAmdst2Status 0) 0) else s.emit (.mctp 4 0xBE 0)) := by
  rw [exec, execAmendmentSubmit]
  cases s.takesAmendments <;> rfl

theorem exec_amendmentDiscard : exec (.amendmentDiscard (.fn 0) (2 ^ 31)) s = .next (
    if s.getF F.chtAmdst2State 0 = 1 then s.dropAmendment.amdStatus 0xBF else s.amdStatus 0xBE) := by
  have hbits : bits (2 ^ 31) 30 2 = 2 ∧ bits (2 ^ 31) 0 30 = 0 := by decide
  rw [exec, execAmendmentDiscard, hbits.1, hbits.2, if_neg (by decide), ← ite_not]
  exact congrArg Host.Outcome.next (if_congr (by simp) rfl rfl)

/-! ### Application and commit (R470, R471) -/

theorem exec_amendmentApply (hb : s.boot.record = some b) (hst : s.getF F.chtAmdst2State 0 = 1) : exec .amendmentApply s = .next (
    if ((List.range 16).all fun p => !bit (s.getF F.chtAmdst2Affected 0) p || s.quiescent p) = false then s
    else (s.setF F.chtAmdst2State 0 2).releaseMoved (s.under (s.chart.apply b))) := by
  rw [exec, execAmendmentApply, hb]
  exact congrArg Host.Outcome.next (if_congr (by simp only [hst, bne_self_eq_false, Bool.false_or, Bool.not_eq_true']) rfl rfl)

theorem exec_amendmentCommit (hb : s.boot.record = some b) (happly : s.applying = true) : exec .amendmentCommit s = .next (
    if (s.commitAmendment b).seqr.moving then s.commitAmendment b else (s.commitAmendment b).atBoundary true) := by
  rw [exec, execAmendmentCommit, hb]
  exact congrArg Host.Outcome.next (if_neg (by simp [happly]))

/-- The clearing of the sites has ended. -/
def State.sitesReady (s : State) : State :=
  (List.range 48).foldl (fun (t : State) n =>
    if t.getF F.memStatusState n == 3 && (t.memOp.map (·.site)) != some n then (t.clearSite n).setF F.memStatusState n 2 else t) s

theorem State.sitesReady_kept (s : State) : Kept (fun c => c ∈ [Comp.regs, .mem, .ecc]) s s.sitesReady :=
  kept_foldl _ (fun t n h => kept_ite (State.setF_kept _ _ _ _ (State.clearSite_kept t n h (by decide) (by decide)) (by decide)) h) _ (Kept.refl s)

theorem State.regs_sitesReady (s : State) : RegsKept [R.memStatus] s s.sitesReady :=
  RegsKept.foldl _ (fun u n => RegsKept.ite
    (((RegsKept.refl _ u).of_regs ((State.clearSite_kept (E := fun c => c ∈ [Comp.ecc, .mem]) u n (Kept.refl u) (by decide) (by decide)).only .regs (by decide)).symm).setF
      _ _ _ (by decide)) (RegsKept.refl _ u)) _ (RegsKept.refl _ s)

theorem State.boot_sitesReady (s : State) : s.sitesReady.boot = s.boot := (s.sitesReady_kept.only .boot (by decide)).symm

theorem State.activeSlot_sitesReady (s : State) : s.sitesReady.activeSlot = s.activeSlot := by
  rw [State.activeSlot, s.boot_sitesReady, s.regs_sitesReady.getF_eq (by decide)]
  rfl

theorem State.newSlot_sitesReady (s : State) (b : List Byte) : s.sitesReady.newSlot b = s.newSlot b := by
  rw [State.newSlot, s.boot_sitesReady, s.activeSlot_sitesReady]
  rfl

/-- The other slot and the directory are written. -/
def State.slotWritten (t : State) (b : List Byte) : State :=
  let b1 : Boot := { t.boot with slots := t.boot.slots.set (1 - t.activeSlot) (t.newSlot b), record := none }
  t.setBoot (b1.putDir b1.dir.pref (1 - t.activeSlot))

theorem State.canon_slotWritten (ht : t.canon = true) (b : List Byte) : (t.slotWritten b).canon = true :=
  (State.setBoot_kept (E := fun _ => True) t _ (Kept.refl t) trivial).2 ht

theorem State.boot_slotWritten (t : State) (b : List Byte) : (t.slotWritten b).boot.record = none ∧
    (t.slotWritten b).boot.slots = t.boot.slots.set (1 - t.activeSlot) (t.newSlot b) := ⟨rfl, rfl⟩

/-- The new LK values are loaded. -/
def State.installed (s : State) (b : List Byte) : State :=
  (s.sitesReady.slotWritten b).loadChart { s.chart.apply b with regs := ((s.sitesReady.slotWritten b).chart.apply b).regs } (1 - s.sitesReady.activeSlot)

/-- What CHT_AMDST2 shows of a commit. -/
def commitFields : List (Fld × Nat) := [(F.chtAmdst2State, 0), (F.chtAmdst2Affected, 0), (F.chtAmdst2Status, 0)]

theorem commitFields_apart : (commitFields.map (·.1)).Pairwise Fld.apart := by
  unfold Fld.apart
  decide

theorem State.commitAmendment_eq (s : State) (b : List Byte) : s.commitAmendment b = (s.installed b).setFields 0 commitFields := by
  unfold State.commitAmendment State.installed State.sitesReady
  generalize List.range 48 = l
  rfl

theorem State.boot_loadChart (t : State) (c : Chart) (k : Nat) : (t.loadChart c k).boot = { t.boot with signers := c.signers } := by
  unfold State.loadChart
  extract_lets _ u v w
  have hv : v.boot = { t.boot with signers := c.signers } := by
    unfold v
    split <;> rfl
  exact hv

theorem State.boot_installed (s : State) (b : List Byte) :
    (s.installed b).boot = { (s.sitesReady.slotWritten b).boot with signers := (s.chart.apply b).signers } := State.boot_loadChart _ _ _

theorem State.rises_installed (hs : s.canon = true) (b : List Byte) : rises (s.installed b).regs = true := by
  have hready : s.sitesReady.canon = true := s.sitesReady_kept.2 hs
  have hwritten := State.canon_slotWritten hready b
  rw [State.installed]
  generalize s.sitesReady.slotWritten b = u at hwritten ⊢
  exact State.canon_regs ((State.loadChart_kept (E := fun _ => True) u { s.chart.apply b with regs := (u.chart.apply b).regs } (1 - s.sitesReady.activeSlot)
    (Kept.refl u) (fun h => Chart.apply_rises u.chart b (State.canon_regs h)) trivial trivial).2 hwritten)

theorem State.getF_commit (hs : s.canon = true) (b : List Byte) {f : Fld} {v : Nat} (hf : (f, v) ∈ commitFields) : (s.commitAmendment b).getF f 0 = v % 2 ^ f.w := by
  rw [State.commitAmendment_eq]
  exact State.getF_setFields (State.rises_installed hs b) 0 commitFields_apart hf

theorem State.boot_commit (s : State) (b : List Byte) : (s.commitAmendment b).boot.record = none ∧
    (s.commitAmendment b).boot.slots = s.boot.slots.set (1 - s.activeSlot) (s.newSlot b) := by
  have hboot : (s.commitAmendment b).boot = (s.installed b).boot := by
    rw [State.commitAmendment_eq]
    generalize s.installed b = u
    exact (u.only_setFields 0 commitFields .boot (by decide)).symm
  obtain ⟨hrecord, hslots⟩ := s.sitesReady.boot_slotWritten b
  rw [s.boot_sitesReady, s.activeSlot_sitesReady, s.newSlot_sitesReady] at hslots
  rw [hboot, s.boot_installed b]
  generalize s.sitesReady.slotWritten b = u at hrecord hslots ⊢
  exact ⟨hrecord, hslots⟩

/-- What a commit leaves stands at the boundary after it. -/
theorem State.commit_boundary (t : State) : (t.atBoundary true).boot = t.boot ∧ FieldsKept [(F.hbmPwrstatDir, 0), (F.hbmRststatBusy, 0)] t (t.atBoundary true) :=
  ⟨((State.atBoundary_kept (E := fun c => c ∈ [Comp.pins, .regs, .seqr]) t true (Kept.refl t) (by decide) (by decide) (by decide)).only .boot (by decide)).symm,
    (t.steered_atBoundary true).fields⟩

end amendments

/-- Settles O53: a delivery is judged by one status, and a commit's fields and slot stand whether or not a phase boundary follows. -/
theorem amendmentsAreDelivered : Obligations.AmendmentsAreDelivered := by
  unfold Obligations.AmendmentsAreDelivered
  intro s b hs st
  refine ⟨fun htakes haddr => ?submit, fun htakes => ?mb, fun hnot => ⟨?mbNot, ?submitNot⟩, fun h => State.deliver_refused (State.verdict_busy h) (by decide),
    fun h1 h2 hrec => ?checked, fun h1 h2 hrec hfull => ?full, fun h1 h2 hrec hroom => ?pends, fun h1 => next_pos exec_amendmentDiscard h1,
    fun h1 => next_neg exec_amendmentDiscard h1, fun r hr h1 => ?apply, fun r hr happly => ?commit⟩
  case submit => exact next_pos (exec_amendmentSubmit_fn fun _ => haddr) htakes
  case mb => exact next_pos exec_amendmentSubmit_mb htakes
  case mbNot => exact next_neg exec_amendmentSubmit_mb (by simp [hnot])
  case submitNot =>
    exact next_neg (exec_amendmentSubmit_fn fun htakes => absurd (hnot.symm.trans htakes) Bool.false_ne_true) (by simp [hnot])
  case checked => exact State.deliver_refused ((State.verdict_idle h1 h2).trans (if_pos hrec)) hrec
  case full =>
    refine State.deliver_refused (st := 0xBD) ?_ (by decide)
    rw [State.verdict_idle h1 h2, if_neg (not_not.2 hrec), if_pos hfull]
  case pends =>
    have hzero : s.verdict b = 0 := by rw [State.verdict_idle h1 h2, if_neg (not_not.2 hrec), if_neg (by simp [hroom])]
    let u := (s.fuseOwner b).holds b
    have hu : OnlyChanged [.boot] s u := s.only_holds b
    have hregs : rises u.regs = true := (congrArg rises (hu .regs (by decide)).symm).trans (State.canon_regs hs)
    have hread {f : Fld} {v : Nat} (hf : (f, v) ∈ pendFields (s.affectedBy b)) : (u.setFields 0 (pendFields (s.affectedBy b))).getF f 0 = v % 2 ^ f.w :=
      State.getF_setFields hregs 0 (pendFields_apart _) hf
    rw [State.deliver_pends hzero]
    have honly := u.only_setFields 0 (pendFields (s.affectedBy b))
    exact ⟨congrArg Boot.record (honly .boot (by decide)).symm, hread (f := F.chtAmdst2State) (v := 1) (by simp [pendFields]),
      hread (f := F.chtAmdst2Status) (v := 0) (by simp [pendFields]), hread (by simp [pendFields]), (hu.mono (by decide)).trans (honly.mono (by decide))⟩
  case apply =>
    have hexec := exec_amendmentApply hr h1
    exact ⟨fun hno => next_pos hexec hno, fun hall => next_neg hexec (by simp [hall])⟩
  case commit =>
    have hexec := exec_amendmentCommit hr happly
    obtain ⟨hrecord, hslots⟩ := s.boot_commit r
    have hstate : (s.commitAmendment r).getF F.chtAmdst2State 0 = 0 := State.getF_commit hs r (v := 0) (by simp [commitFields])
    have hstatus : (s.commitAmendment r).getF F.chtAmdst2Status 0 = 0 := State.getF_commit hs r (v := 0) (by simp [commitFields])
    by_cases hm : (s.commitAmendment r).seqr.moving = true
    · exact ⟨_, next_pos hexec hm, hrecord, hstate, hstatus, hslots⟩
    · obtain ⟨hboot, hfields⟩ := (s.commitAmendment r).commit_boundary
      exact ⟨_, next_neg hexec hm, (congrArg Boot.record hboot).trans hrecord, (hfields.getF_place 0 (by decide)).trans hstate,
        (hfields.getF_place 0 (by decide)).trans hstatus, (congrArg Boot.slots hboot).trans hslots⟩

end Sys2Proof.Machine
